-- ==== Sys2Proof/Word.lean ====
section
/-! DEFINITION. The word and byte types of the block: bytes of device memory (R218) and the 64-bit
register word (R14: registers are 32 or 64 bits wide; a 32-bit register uses the low half). -/

namespace Sys2Proof

/-- A byte of device memory, of a packet or of a management transfer. -/
abbrev Byte := BitVec 8

/-- The value of one register, or of one 64-bit word of a wider register (R14). -/
abbrev Word := BitVec 64

/-- The bits of one FP32 element (R35). -/
abbrev F32 := BitVec 32

end Sys2Proof
end

