-- ==== Sys2Proof/Syntax.lean ====
section
/-! DEFINITION. The commands of the block: one constructor of `Instr` for each row of the table of
operations and events (spec/opcode_table.json). A command names an operation or event and carries what the
outside world or the environment supplies in it: a written value, a received frame, a measured quantity, or
which of the block's own waiting pieces of work the event concerns. An event that the state does not allow
leaves the state as it is (log entry 1). -/

namespace Sys2Proof

/-- Who performs a register access (R14, R506, R540): the companion over the Odord register aperture, or the
Steward firmware over VC3 of the mesh. -/
inductive Src where
  | companion
  | firmware
  deriving DecidableEq, Repr

/-- The reader of an HBM line, for page heat (R241): a cluster (its quadrant), a spine unit, or a reader that
adds no heat (the fabric, the companion, the Cadastre). -/
inductive Reader where
  | cluster (quadrant : Nat)
  | spine
  | other
  deriving DecidableEq, Repr

/-- What CORE_FAULT_DETECT detects in a core (R422, R425): a fault of the core (residue, parity or self-test), or
an uncorrectable error at one local-store word (its index, R545). -/
inductive CoreCause where
  | fault
  | localUe (word : Nat)
  deriving DecidableEq, Repr

/-- What one line of a read request returned when its code found an error (R247): the line within the request, the
number of 16-bit symbols (in a shared bank, of bits of a word) in error, and the row as the base die reports it within
the line's pseudo-channel (R545: bank and row). -/
structure LineError where
  line : Nat
  symbols : Nat
  row : Nat
  deriving DecidableEq, Repr

/-- Where a read request stands (R244): routed to a frame, its data not yet delivered; or served. -/
inductive ReadStage where
  | routed
  | served
  deriving DecidableEq, Repr

/-- Who reads, and where the request stands (R241, R244). -/
structure ReadBy where
  reader : Reader
  stage : ReadStage
  deriving DecidableEq, Repr

/-- A read request of at most 4 KiB (R241): its bytes, the lines found in error, its reader and its stage. -/
structure HbmRead where
  addr : Nat
  len : Nat
  bad : List LineError
  reader : Reader
  stage : ReadStage
  deriving DecidableEq, Repr

/-- What start-up finds in training the stacks (R466, R253, R259): the channels trained afresh, and for each channel
swept the steps of the sweep that failed. -/
structure HbmTrained where
  afresh : List Nat
  sweeps : List (Nat × List Nat)
  deriving DecidableEq, Repr

/-- A segment of a margin sweep (R259, R260): its number of steps, and those of them that failed. -/
structure MarginSegment where
  steps : Nat
  failed : List Nat
  deriving DecidableEq, Repr

/-- A read request has at most 4 KiB, within one page (R241, R226). -/
def HbmRead.ok (q : HbmRead) : Bool := decide (0 < q.len ∧ q.len ≤ 4096 ∧ q.addr % 65536 + q.len ≤ 65536)

/-- The result of one training of a fabric port (R294, R295): whether all four lanes locked, the measured
flight time, and the partner's identity message. -/
structure Training where
  lanes : Bool
  flight : Nat
  device : BitVec 14
  idValid : Bool
  port : Nat
  variant : Byte
  encCapable : Bool
  /-- The partner's ENCRYPT and ENCRYPT_REQUIRED settings (R302). -/
  encrypt : Bool
  required : Bool
  deriving DecidableEq, Repr

/-- One fabric frame as it arrives (R296, R297): the decoder's findings on its four codewords, the header
fields, the check values, and the bytes of the packet stream (ciphertext in an encrypted frame). -/
structure Frame where
  corrected : Nat
  uncorrectable : Nat
  header : List Byte
  crc : BitVec 32
  tag : List Byte
  stream : List Byte
  deriving DecidableEq, Repr

/-- One Odord flit as it arrives (R490): header, payload, CRC, and how many 10-bit symbols are in error before
the flit's code acts. -/
structure Flit where
  /-- What the header says of the flit's order: its number, and how many flits its sender has taken (log entry 18). -/
  num : Nat
  ack : Nat
  header : List Byte
  payload : List Byte
  crc : BitVec 32
  badSymbols : Nat
  deriving DecidableEq, Repr

/-- The measured quantities behind the PMBus readings (R510): millivolts, milliamperes, tenths of a degree and
milliwatts. -/
structure Readings where
  vin : Nat
  iin : Nat
  vout : Nat
  iout : Nat
  temp : Int
  pout : Nat
  pin : Nat
  inrush : Bool
  deriving DecidableEq, Repr

/-- The commands, one constructor for each row of the table. -/
inductive Instr where
  /-- REGISTER_WRITE (R9). -/
  | registerWrite (off : Nat) (width : Nat) (v : Word) (src : Src)
  /-- REGISTER_READ_LOW_HALF (R14). -/
  | registerReadLowHalf (off : Nat)
  /-- VIN_SAMPLE (R444). -/
  | vinSample (mv : Int)
  /-- STARTUP_STAGE_DONE (R466). -/
  | startupStageDone
  /-- STARTUP_ROM_DONE (R466). -/
  | startupRomDone
  /-- FIRMWARE_VERIFY_DONE (R476). -/
  | firmwareVerifyDone (readable : Bool)
  /-- STARTUP_ISLANDS_DONE (R466). -/
  | startupIslandsDone (fails : List (Nat × Nat))
  /-- HBM_TRAINING_DONE (R466). -/
  | hbmTrainingDone (failed : List Nat) (found : HbmTrained)
  /-- PORTS_PHASE_DONE (R466). -/
  | portsPhaseDone
  /-- RESET_N_ASSERT (R523). -/
  | resetNAssert (lowNs : Nat)
  /-- RESET_N_RELEASE (R523). -/
  | resetNRelease
  /-- GLB_RESET_FULL (R462). -/
  | glbResetFull
  /-- GLB_RESET_WARM (R462). -/
  | glbResetWarm
  /-- REFCLK_LOSS (R461). -/
  | refclkLoss
  /-- DOORBELL (R74). -/
  | doorbell (n : Nat) (v : Word)
  /-- ACCEPT_TASK (R84). -/
  | acceptTask
  /-- SEGMENT_TIME_LIMIT (R100). -/
  | segmentTimeLimit
  /-- SEGMENT_SIGNED (R101). -/
  | segmentSigned
  /-- JOURNAL_TAIL_WRITE (R103). -/
  | journalTailWrite (v : Word)
  /-- JSIG_TAIL_WRITE (R101). -/
  | jsigTailWrite (v : Word)
  /-- CMD_HALT (R106). -/
  | cmdHalt
  /-- CMD_RESUME (R107). -/
  | cmdResume
  /-- OWNER_EPOCH_WRITE (R110). -/
  | ownerEpochWrite (v : BitVec 32)
  /-- STREAM_FAULT_CLEAR (R85). -/
  | streamFaultClear (n : Nat)
  /-- EVENT_ADD (R89). -/
  | eventAdd (v : Word)
  /-- FUNCTION_HALT_COMPLETE (R106). -/
  | functionHaltComplete (f : Nat)
  /-- TASK_COMPLETE (R96). -/
  | taskComplete (seq : Nat)
  /-- FENCE (R272). -/
  | fence (seq : Nat)
  /-- WAIT (R273). -/
  | wait (seq : Nat)
  /-- WAIT_TIMEOUT (R273). -/
  | waitTimeout (seq : Nat)
  /-- SIGNAL (R275). -/
  | signal (seq : Nat)
  /-- HALT (R277). -/
  | halt (seq : Nat)
  /-- RESUME (R277). -/
  | resume (seq : Nat)
  /-- SCORE (R115). -/
  | score (seq : Nat)
  /-- DISPATCH (R125). -/
  | dispatch (seq : Nat)
  /-- DISPATCH_X (R135). -/
  | dispatchX (seq : Nat)
  /-- GATHER (R141). -/
  | gather (seq : Nat) (splits : List (Nat × Nat × Nat))
  /-- COMBINE (R147). -/
  | combine (seq : Nat)
  /-- COMBINE_X (R145). -/
  | combineX (seq : Nat)
  /-- COMBINE_PHASE1_START (R145). -/
  | combinePhase1Start (seq : Nat)
  /-- DMM (R282). -/
  | dmm (seq : Nat)
  /-- DMM_AR (R283). -/
  | dmmAr (seq : Nat)
  /-- DMM_RS (R283). -/
  | dmmRs (seq : Nat)
  /-- DMM_AG (R283). -/
  | dmmAg (seq : Nat)
  /-- XMM (R284). -/
  | xmm (seq : Nat)
  /-- XMM_K (R285). -/
  | xmmK (seq : Nat)
  /-- EWISE (R286). -/
  | ewise (seq : Nat)
  /-- EWISE_STOCHASTIC (R286). -/
  | ewiseStochastic (seq : Nat)
  /-- PRUNE_MASK (R198). -/
  | pruneMask (seq : Nat)
  /-- PRUNE_PACK (R199). -/
  | prunePack (seq : Nat)
  /-- SHADOW (R208). -/
  | shadow (seq : Nat)
  /-- MOVE (R288). -/
  | move (seq : Nat)
  /-- PUBLISH (R235). -/
  | publish (seq : Nat)
  /-- PUBLISH_HASH_COMPLETE (R235). -/
  | publishHashComplete (seq : Nat)
  /-- RLOAD (R345). -/
  | rload (seq : Nat)
  /-- RSTORE (R346). -/
  | rstore (seq : Nat)
  /-- MSTORE (R353). -/
  | mstore (seq : Nat)
  /-- RATOMIC (R289). -/
  | ratomic (seq : Nat)
  /-- RREDUCE (R361). -/
  | rreduce (seq : Nat)
  /-- COLLECT_ALL_REDUCE (R379). -/
  | collectAllReduce (seq : Nat)
  /-- COLLECT_REDUCE_SCATTER (R379). -/
  | collectReduceScatter (seq : Nat)
  /-- COLLECT_ALL_GATHER (R381). -/
  | collectAllGather (seq : Nat)
  /-- COLLECT_BROADCAST (R379). -/
  | collectBroadcast (seq : Nat)
  /-- COLLECT_BARRIER (R369). -/
  | collectBarrier (seq : Nat)
  /-- LC_PERIOD_START (R400). -/
  | lcPeriodStart (n : Nat)
  /-- SCH_LC_WRITE (R400). -/
  | schLcWrite (n : Nat) (v : Word)
  /-- SCH_CTRL_WRITE (R400). -/
  | schCtrlWrite (v : Word)
  /-- PREEMPTION_COMPLETE (R409). -/
  | preemptionComplete (seq : Nat)
  /-- RESIDENCY_COPY_COMPLETE (R416). -/
  | residencyCopyComplete (i : Nat)
  /-- RUN_CLAIM (R177). -/
  | runClaim (core : Nat)
  /-- RUN_COMPLETE (R156). -/
  | runComplete (core : Nat)
  /-- STAKE_GRANT (R454). -/
  | stakeGrant
  /-- PARTIAL_SUM_START (R181). -/
  | partialSumStart (seq : Nat) (tile : Nat)
  /-- VECTOR_BLOCK_CLAIM (R170). -/
  | vectorBlockClaim (core : Nat)
  /-- VECTOR_BLOCK_COMPLETE (R168). -/
  | vectorBlockComplete (core : Nat)
  /-- GUARD_DECISION (R215). -/
  | guardDecision (seq : Nat) (expert : Nat) (block : Nat)
  /-- HAMPER_PEAK_CLEAR (R149). -/
  | hamperPeakClear
  /-- REGION_VALID_SET (R228). -/
  | regionValidSet (i : Nat) (v : Word)
  /-- REGION_VALID_CLEAR (R229). -/
  | regionValidClear (i : Nat)
  /-- CAD_TABLE_BASE_WRITE (R239). -/
  | cadTableBaseWrite (v : Word)
  /-- NEAR_UNITS_WRITE (R221). -/
  | nearUnitsWrite (v : Word)
  /-- PROG_MIB_WRITE (R224). -/
  | progMibWrite (v : Word)
  /-- HEADROOM_WRITE (R254). -/
  | headroomWrite (v : Word)
  /-- HEAT_EPOCH_END (R242). -/
  | heatEpochEnd
  /-- PROMOTION_COMPLETE (R243). -/
  | promotionComplete (page : Nat) (ok : Bool)
  /-- EVICTION_COMPLETE (R243). -/
  | evictionComplete (page : Nat)
  /-- HBM_READ_COMPLETE (R247). -/
  | hbmReadComplete (addr : Nat) (len : Nat) (bad : List LineError) (by_ : ReadBy)
  /-- ROW_REPAIR (R248). -/
  | rowRepair (chan : Nat) (row : Nat)
  /-- REFRESH_SLOT (R249). -/
  | refreshSlot (chan : Nat) (bank : Nat)
  /-- RINSE_STEP (R250). -/
  | rinseStep (chan : Nat) (off : Nat) (symbols : Nat) (row : Nat)
  /-- RETRAIN_SLOT (R251). -/
  | retrainSlot
  /-- RETRAIN_REQ_WRITE (R251). -/
  | retrainReqWrite (i : Nat) (v : Word)
  /-- RETRAIN_COMPLETE (R252). -/
  | retrainComplete (chan : Nat) (ok : Bool) (ns : Nat)
  /-- MARGIN_REQ_WRITE (R260). -/
  | marginReqWrite (i : Nat) (v : Word)
  /-- MARGIN_SEGMENT_COMPLETE (R259). -/
  | marginSegmentComplete (chan : Nat) (seg : MarginSegment)
  /-- DARN_REQ_WRITE (R255). -/
  | darnReqWrite (v : Word)
  /-- DARN_MIGRATION_COMPLETE (R256). -/
  | darnMigrationComplete
  /-- MESH_FLIT_RESEND (R538). -/
  | meshFlitResend (link : BitVec 16)
  /-- PORT_TRAINING_START (R295). -/
  | portTrainingStart (p : Nat)
  /-- PORT_TRAINING_COMPLETE (R295). -/
  | portTrainingComplete (p : Nat) (r : Training)
  /-- LANE_LOCK_LOSS (R300). -/
  | laneLockLoss (p : Nat)
  /-- FRAME_RECEIVE (R297). -/
  | frameReceive (p : Nat) (f : Frame)
  /-- RETRY_REQUEST (R297). -/
  | retryRequest (p : Nat) (fseq : Nat)
  /-- REKEY_DUE (R304). -/
  | rekeyDue (p : Nat)
  /-- LINK_CREDENTIAL (R486). -/
  | linkCredential (p : Nat) (cred : List Byte) (sig : List Byte)
  /-- KEY_CIPHERTEXT (R486). -/
  | keyCiphertext (p : Nat) (ct : List Byte)
  /-- ENTROPY_HEALTH_FAIL (R474). -/
  | entropyHealthFail
  /-- PACKET_FORWARD (R305). -/
  | packetForward (inp : Nat) (vc : Nat)
  /-- PORT_ENABLE_WRITE (R300). -/
  | portEnableWrite (p : Nat) (v : Word)
  /-- ROUTE_WRITE (R320). -/
  | routeWrite (b : Nat) (d : Nat) (v : Word)
  /-- NSW_EPOCH_WRITE (R322). -/
  | nswEpochWrite (v : Word)
  /-- NSW_RETIRE_WRITE (R324). -/
  | nswRetireWrite (v : Word)
  /-- SURVEY_INTERVAL (R328). -/
  | surveyInterval
  /-- RME_INJECT (R333). -/
  | rmeInject (q : Nat)
  /-- LOAD_REQ (R338). -/
  | loadReq
  /-- LOAD_DATA (R345). -/
  | loadData
  /-- STORE (R340). -/
  | store
  /-- FANSET (R354). -/
  | fanset
  /-- MDATA (R355). -/
  | mdata
  /-- ATOMIC (R349). -/
  | atomic
  /-- ATOMIC_RETRY (R349). -/
  | atomicRetry
  /-- ATOMIC_REPLY (R342). -/
  | atomicReply
  /-- REDUCE (R360). -/
  | reduce
  /-- REDUCE_RETRY (R349). -/
  | reduceRetry
  /-- ACK (R342). -/
  | ack
  /-- DROP (R344). -/
  | drop
  /-- RME_REPLY_TIMEOUT (R343). -/
  | rmeReplyTimeout (txn : Nat) (off : Nat)
  /-- BUSY_RESEND (R350). -/
  | busyResend (txn : Nat) (off : Nat)
  /-- MSTORE_TIMEOUT (R357). -/
  | mstoreTimeout (seq : Nat)
  /-- RME_CTRL_WRITE (R352). -/
  | rmeCtrlWrite (v : Word)
  /-- COLLECTIVE_ENTER (R369). -/
  | collectiveEnter (seq : Nat)
  /-- CONTRIB (R376). -/
  | contrib
  /-- RESULT (R379). -/
  | result
  /-- TACK_UP (R382). -/
  | tackUp
  /-- TACK_DOWN (R382). -/
  | tackDown
  /-- RING (R381). -/
  | ring
  /-- ABORT (R386). -/
  | abort
  /-- DONE (R389). -/
  | done
  /-- CLOSED (R389). -/
  | closed
  /-- XCOUNT (R391). -/
  | xcount
  /-- COLLECTIVE_TIMEOUT (R384). -/
  | collectiveTimeout (g : Nat)
  /-- CLOSING_TIMEOUT (R389). -/
  | closingTimeout (g : Nat)
  /-- XCOUNT_TIMEOUT (R392). -/
  | xcountTimeout (seq : Nat)
  /-- COL_GROUP_WRITE (R370). -/
  | colGroupWrite (g : Nat) (w : Nat) (v : Word)
  /-- CORE_FAULT_DETECT (R425). -/
  | coreFaultDetect (core : Nat) (cause : CoreCause)
  /-- PATCH_COMPLETE (R426). -/
  | patchComplete (core : Nat)
  /-- PATCH_GO (R427). -/
  | patchGo (v : Word)
  /-- PATCH_WAIT_TIMEOUT (R427). -/
  | patchWaitTimeout (core : Nat)
  /-- ENGINE_FAULT_DETECT (R429). -/
  | engineFaultDetect (f : Nat)
  /-- ISLAND_LOST (R430). -/
  | islandLost (domain : Nat)
  /-- STEWARD_WATCHDOG (R422). -/
  | stewardWatchdog (core : Nat)
  /-- TRIG_GO (R435). -/
  | trigGo (full : Bool)
  /-- TRIG_COMPLETE (R435). -/
  | trigComplete
  /-- TRIG_SIGNED (R436). -/
  | trigSigned
  /-- DIGEST_REQ_GO (R442). -/
  | digestReqGo (region : Nat)
  /-- REGION_DIGEST_COMPLETE (R442). -/
  | regionDigestComplete
  /-- RRU_HALT (R440). -/
  | rruHalt
  /-- RRU_RESUME (R440). -/
  | rruResume
  /-- LOG_TAIL_WRITE (R439). -/
  | logTailWrite (v : Word)
  /-- PWR_QUENCH_WRITE (R446). -/
  | pwrQuenchWrite
  /-- QUENCH_TASKS_STOPPED (R446). -/
  | quenchTasksStopped
  /-- QUENCH_COMPLETE (R446). -/
  | quenchComplete
  /-- INPUT_POWER_SAMPLE (R457). -/
  | inputPowerSample (watts : Nat)
  /-- THERMAL_SAMPLE (R458). -/
  | thermalSample (junction : Nat) (dies : List Nat)
  /-- VOLTAGE_TRIM (R450). -/
  | voltageTrim (domain : Nat) (up : Bool)
  /-- SVN_COMMIT (R478). -/
  | svnCommit
  /-- SVN_COMMIT_COMPLETE (R478). -/
  | svnCommitComplete
  /-- RECOVERY_GO (R479). -/
  | recoveryGo (v : Word)
  /-- RECOVERY_CHECK_COMPLETE (R479). -/
  | recoveryCheckComplete
  /-- FLASH_UPDATE_GO (R480). -/
  | flashUpdateGo (v : Word)
  /-- FLASH_UPDATE_COMPLETE (R480). -/
  | flashUpdateComplete (ok : Bool)
  /-- ATTEST_GO (R484). -/
  | attestGo
  /-- ATTEST_COMPLETE (R484). -/
  | attestComplete
  /-- ODL_FLIT_RECEIVE (R492). -/
  | odlFlitReceive (f : Flit)
  /-- ODL_REPLAY_REQUEST (R492). -/
  | odlReplayRequest (from_ : Nat)
  /-- ODL_LINK_DOWN (R493). -/
  | odlLinkDown
  /-- ODL_RETRAIN_COMPLETE (R491). -/
  | odlRetrainComplete (lanes : BitVec 16)
  /-- COMPANION_MEMORY_READ (R495). -/
  | companionMemoryRead (addr : Nat) (len : Nat)
  /-- COMPANION_MEMORY_WRITE (R495). -/
  | companionMemoryWrite (addr : Nat) (data : List Byte)
  /-- IRQ_MESSAGE (R500). -/
  | irqMessage (v : Nat)
  /-- IRQ_PENDING_CLEAR (R500). -/
  | irqPendingClear (half : Nat) (mask : Word)
  /-- HEARTBEAT (R502). -/
  | heartbeat (v : Word)
  /-- HEARTBEAT_TIMEOUT (R502). -/
  | heartbeatTimeout
  /-- LINK_DOWN_TIMEOUT (R502). -/
  | linkDownTimeout
  /-- CW_BASE_WRITE (R513). -/
  | cwBaseWrite (v : Word)
  /-- ENTDAA (R505). -/
  | entdaa (addr : BitVec 7)
  /-- SETDASA (R505). -/
  | setdasa (addr : BitVec 7)
  /-- RSTDAA (R505). -/
  | rstdaa
  /-- GETPID (R505). -/
  | getpid
  /-- GETBCR (R505). -/
  | getbcr
  /-- GETDCR (R505). -/
  | getdcr
  /-- GETSTATUS (R505). -/
  | getstatus
  /-- ENEC (R508). -/
  | enec (events : Byte)
  /-- DISEC (R508). -/
  | disec (events : Byte)
  /-- RSTACT (R507). -/
  | rstact (defining : Byte)
  /-- I3C_OFFSET_WRITE (R506). -/
  | i3cOffsetWrite (off : BitVec 32)
  /-- I3C_PRIVATE_READ (R506). -/
  | i3cPrivateRead
  /-- I3C_DATA_WRITE (R506). -/
  | i3cDataWrite (off : BitVec 32) (v : BitVec 32)
  /-- CLEAR_FAULTS (R510). -/
  | clearFaults
  /-- STATUS_WORD (R510). -/
  | statusWord
  /-- STATUS_INPUT (R510). -/
  | statusInput
  /-- READ_VIN (R510). -/
  | readVin
  /-- READ_IIN (R510). -/
  | readIin
  /-- READ_VOUT (R510). -/
  | readVout
  /-- READ_IOUT (R510). -/
  | readIout
  /-- READ_TEMPERATURE_1 (R510). -/
  | readTemperature1
  /-- READ_POUT (R510). -/
  | readPout
  /-- READ_PIN (R510). -/
  | readPin
  /-- PMBUS_REVISION (R510). -/
  | pmbusRevision
  /-- MFR_ID (R510). -/
  | mfrId
  /-- PMBUS_UNSUPPORTED (R510). -/
  | pmbusUnsupported (code : Byte)
  /-- PMBUS_READING_UPDATE (R510). -/
  | pmbusReadingUpdate (r : Readings)
  /-- BYPASS (R511). -/
  | bypass
  /-- IDCODE (R511). -/
  | idcode
  /-- SAMPLE_PRELOAD (R512). -/
  | samplePreload (bits : List Bool) (pins : List Bool)
  /-- EXTEST (R512). -/
  | extest
  /-- EXTEST_PULSE (R512). -/
  | extestPulse
  /-- EXTEST_TRAIN (R512). -/
  | extestTrain
  /-- CLAMP (R512). -/
  | clamp
  /-- HIGHZ (R512). -/
  | highz
  /-- COMPANION_WINDOW_ACCESS (R496). -/
  | companionWindowAccess (off : Nat) (data : Option (List Byte))
  /-- ENTROPY_HEALTH_RECOVER (R474). -/
  | entropyHealthRecover
  /-- REFERENCE_CLOCK_RETURN (R524). -/
  | referenceClockReturn
  /-- TURN_END (R407). -/
  | turnEnd (e : Nat)
  deriving DecidableEq, Repr

end Sys2Proof
end

