-- ==== Sys2Proof/Decode.lean ====
section
/-! DEFINITION. Command words. The table of operations and events gives no row any bits: a command reaches the
block as a register access, a received packet or an event, and no word spells one. -/

namespace Sys2Proof

/-- The command that a word of the table's bits spells: none, since no row has bits. -/
def decodeTableWord (_nbits _w : Nat) : Option Instr := none

end Sys2Proof
end

