-- ==== Sys2Proof/Machine/Bits.lean ====
section
/-! DEFINITION. Byte order, bit fields, sparse sorted maps, checksums and SHAKE256, which every chapter of the
spec uses: least significant byte first (R71), CRC-16 of tags (R130), CRC-32 of frames and headers (R296, R310),
SHAKE256 of digests (R97). -/

namespace Sys2Proof.Machine

open Sys2Proof

/-- Bits [hi:lo] of a number. -/
def getBits (v hi lo : Nat) : Nat := (v >>> lo) % 2 ^ (hi + 1 - lo)

/-- The number `v` with bits [hi:lo] replaced by the low bits of `x`. -/
def putBits (v hi lo x : Nat) : Nat :=
  v - (getBits v hi lo) <<< lo + (x % 2 ^ (hi + 1 - lo)) <<< lo

/-- Bit `i` of a number. -/
def bitOf (v i : Nat) : Bool := getBits v i i == 1

/-- 1 for true, 0 for false. -/
def b2n (b : Bool) : Nat := if b then 1 else 0

/-- ⌈a / b⌉. -/
def ceilDiv (a b : Nat) : Nat := (a + b - 1) / b

/-- ⌈log₂ n⌉ for n ≥ 1. -/
def ceilLog2 (n : Nat) : Nat := if n ≤ 1 then 0 else Nat.log2 (n - 1) + 1

/-- `n` bytes of a value, least significant first (R71). -/
def leBytes (n v : Nat) : List Byte := (List.range n).map fun i => BitVec.ofNat 8 (v >>> (8 * i))

/-- The value of bytes, least significant first. -/
def leNat (bs : List Byte) : Nat := bs.foldr (fun b acc => b.toNat + 256 * acc) 0

/-- `n` bytes of a value, most significant first (the fabric's packet headers, R310). -/
def beBytes (n v : Nat) : List Byte := (leBytes n v).reverse

/-- The value of bytes, most significant first. -/
def beNat (bs : List Byte) : Nat := leNat bs.reverse

/-- Bytes `i` to `i + n − 1` of a list. -/
def slice (bs : List Byte) (i n : Nat) : List Byte := (bs.drop i).take n

/-- A list padded with zero bytes to `n`. -/
def padTo (n : Nat) (bs : List Byte) : List Byte := bs ++ List.replicate (n - bs.length) 0

/-- `n` zero bytes. -/
def zeros (n : Nat) : List Byte := List.replicate n 0

/-- The bytes of an ASCII string. -/
def ascii (s : String) : List Byte := s.toList.map fun c => BitVec.ofNat 8 c.toNat

/-- A list cut into pieces of `n` (the last one shorter). -/
def chunksAux (α : Type) (n : Nat) : Nat → List α → List (List α)
  | 0, _ => []
  | f + 1, l => if l.isEmpty then [] else l.take n :: chunksAux α n f (l.drop n)

/-- A list cut into pieces of `n` (the last one shorter). -/
def chunks {α : Type} (n : Nat) (l : List α) : List (List α) := chunksAux α n l.length l

/-- Element `i` replaced. -/
def setAt {α : Type} (l : List α) (i : Nat) (f : α → α) : List α := l.modify i f

/-! ### Sorted sparse maps -/

/-- The value of key `k`, or `d` when it is not listed. -/
def mapGet {α : Type} (d : α) (k : Nat) : List (Nat × α) → α
  | [] => d
  | (k', v) :: l => if k = k' then v else mapGet d k l

/-- Key `k` set to `v` in a list with rising keys; `none` removes it. -/
def mapPut {α : Type} (k : Nat) (v : Option α) : List (Nat × α) → List (Nat × α)
  | [] => match v with
    | some x => [(k, x)]
    | none => []
  | (k', v') :: l =>
    if k < k' then
      match v with
      | some x => (k, x) :: (k', v') :: l
      | none => (k', v') :: l
    else if k = k' then
      match v with
      | some x => (k, x) :: l
      | none => l
    else (k', v') :: mapPut k v l

/-- A number put into a strictly ascending list. -/
def setInsert (k : Nat) : List Nat → List Nat
  | [] => [k]
  | a :: l => if k < a then k :: a :: l else if k = a then a :: l else a :: setInsert k l

/-- A number taken out of a list. -/
def setErase (k : Nat) (l : List Nat) : List Nat := l.filter (· != k)

/-! ### CRC -/

/-- One bit of the CRC-16 of R130: polynomial 0x1021, not reflected. -/
def crc16Bit (c : Nat) : Nat :=
  if c ≥ 0x8000 then ((c * 2) % 0x10000) ^^^ 0x1021 else c * 2

/-- CRC-16 with initial value 0xFFFF, no reflection, no final XOR (R130). -/
def crc16 (bs : List Byte) : Nat :=
  bs.foldl (fun c b => (List.range 8).foldl (fun x _ => crc16Bit x) (c ^^^ (b.toNat * 256))) 0xFFFF

/-- One bit of the CRC-32 with the IEEE 802.3 polynomial, reflected (log entry 9). -/
def crc32Bit (c : Nat) : Nat := if c % 2 = 1 then (c / 2) ^^^ 0xEDB88320 else c / 2

/-- CRC-32 with the IEEE 802.3 polynomial (R296, R310, R371, R490). -/
def crc32 (bs : List Byte) : Nat :=
  (bs.foldl (fun c b => (List.range 8).foldl (fun x _ => crc32Bit x) (c ^^^ b.toNat)) 0xFFFFFFFF)
    ^^^ 0xFFFFFFFF

/-! ### SHAKE256 (FIPS 202) -/

/-- The rotation offsets of Keccak-f[1600], lane 5y + x. -/
def keccakRot : List Nat :=
  [0, 1, 62, 28, 27, 36, 44, 6, 55, 20, 3, 10, 43, 25, 39, 41, 45, 15, 21, 8, 18, 2, 61, 56, 14]

/-- The round constants of Keccak-f[1600]. -/
def keccakRc : List (BitVec 64) :=
  [0x0000000000000001#64, 0x0000000000008082#64, 0x800000000000808A#64, 0x8000000080008000#64,
   0x000000000000808B#64, 0x0000000080000001#64, 0x8000000080008081#64, 0x8000000000008009#64,
   0x000000000000008A#64, 0x0000000000000088#64, 0x0000000080008009#64, 0x000000008000000A#64,
   0x000000008000808B#64, 0x800000000000008B#64, 0x8000000000008089#64, 0x8000000000008003#64,
   0x8000000000008002#64, 0x8000000000000080#64, 0x000000000000800A#64, 0x800000008000000A#64,
   0x8000000080008081#64, 0x8000000000008080#64, 0x0000000080000001#64, 0x8000000080008008#64]

/-- Lane `i` of a Keccak state. -/
def lane (a : List (BitVec 64)) (i : Nat) : BitVec 64 := a.getD i 0

/-- One round of Keccak-f[1600]. -/
def keccakRound (a : List (BitVec 64)) (rc : BitVec 64) : List (BitVec 64) :=
  let c := (List.range 5).map fun x =>
    lane a x ^^^ lane a (x + 5) ^^^ lane a (x + 10) ^^^ lane a (x + 15) ^^^ lane a (x + 20)
  let d := (List.range 5).map fun x => lane c ((x + 4) % 5) ^^^ (lane c ((x + 1) % 5)).rotateLeft 1
  let t := (List.range 25).map fun i => lane a i ^^^ lane d (i % 5)
  -- lane (x, y) of the permuted state comes from lane ((x + 3y) mod 5, x)
  let b := (List.range 25).map fun i =>
    let x := i % 5
    let y := i / 5
    let j := 5 * x + (x + 3 * y) % 5
    (lane t j).rotateLeft (keccakRot.getD j 0)
  (List.range 25).map fun i =>
    let x := i % 5
    let y := i / 5
    let r := lane b i ^^^ (~~~ lane b (5 * y + (x + 1) % 5) &&& lane b (5 * y + (x + 2) % 5))
    if i = 0 then r ^^^ rc else r

/-- Keccak-f[1600]. -/
def keccakF (a : List (BitVec 64)) : List (BitVec 64) := keccakRc.foldl keccakRound a

/-- The lanes of one 136-byte block, the rest zero. -/
def blockLanes (bs : List Byte) : List (BitVec 64) :=
  (List.range 25).map fun i => BitVec.ofNat 64 (leNat (slice bs (8 * i) 8))

/-- The padding of SHAKE256 to a multiple of 136 bytes. -/
def shakePad (bs : List Byte) : List Byte :=
  let r := 136 - bs.length % 136
  if r = 1 then bs ++ [0x9F#8] else bs ++ [0x1F#8] ++ zeros (r - 2) ++ [0x80#8]

/-- The state after absorbing the padded bytes. -/
def shakeAbsorb (bs : List Byte) : List (BitVec 64) :=
  (chunks 136 (shakePad bs)).foldl
    (fun a blk => keccakF (List.zipWith (· ^^^ ·) a (blockLanes blk))) (List.replicate 25 0)

/-- The first `n` bytes (at most 136) of SHAKE256 over `bs` (FIPS 202). -/
def shake256 (n : Nat) (bs : List Byte) : List Byte :=
  ((shakeAbsorb bs).flatMap fun w => leBytes 8 w.toNat).take n

/-- The first 128 bits of SHAKE256 as a number, first byte least significant. -/
def shake128Nat (bs : List Byte) : Nat := leNat (shake256 16 bs)

end Sys2Proof.Machine
end

