-- ==== Sys2Proof/Machine/Gcm.lean ====
section
/-! DEFINITION. AES-256-GCM, which protects the frames of an encrypted port (R303): the block cipher of FIPS 197, and
counter mode with a 96-bit nonce and a 128-bit tag of NIST SP 800-38D. -/

namespace Sys2Proof.Machine

open Sys2Proof

/-! ### AES-256 -/

/-- Multiplication by x in the field of AES. -/
def xtime (a : Byte) : Byte := (a <<< 1) ^^^ (if a.msb then 0x1B#8 else 0#8)

/-- The substitution table of FIPS 197, one number for each row of 16 bytes, the first byte lowest. -/
def sBox : List Nat :=
  [0x76ABD7FE2B670130C56F6BF27B777C63, 0xC072A49CAFA2D4ADF04759FA7DC982CA, 0x1531D871F1E5A534CCF73F362693FDB7,
   0x75B227EBE28012079A059618C323C704, 0x842FE329B3D63B52A05A6E1B1A2C8309, 0xCF584C4A39BECB6A5BB1FC20ED00D153,
   0xA89F3C507F02F94585334D43FBAAEFD0, 0xD2F3FF1021DAB6BCF5389D928F40A351, 0x73195D643D7EA7C41744975FEC130CCD,
   0xDB0B5EDE14B8EE4688902A22DC4F8160, 0x79E4959162ACD3C25C2406490A3A32E0, 0x08AE7A65EAF4566CA94ED58D6D37C8E7,
   0x8A8BBD4B1F74DDE8C6B4A61C2E2578BA, 0x9E1DC186B95735610EF6034866B53E70, 0xDF2855CEE9871E9B948ED9691198F8E1,
   0x16BB54B00F2D99416842E6BF0D89A18C]

/-- The substitution of a byte. -/
def subByte (a : Byte) : Byte := BitVec.ofNat 8 (sBox.getD (a.toNat / 16) 0 / 2 ^ (8 * (a.toNat % 16)))

/-- Byte lists added. -/
def xorBytes (a b : List Byte) : List Byte := List.zipWith (· ^^^ ·) a b

/-- One more word of the key schedule, word `i`. -/
def keyWord (w : List (List Byte)) (i : Nat) : List Byte :=
  let prev := w.getD (i - 1) []
  let rcon := (List.range (i / 8 - 1)).foldl (fun x _ => xtime x) 1#8
  let t := if i % 8 = 0 then xorBytes ((prev.drop 1 ++ prev.take 1).map subByte) [rcon, 0#8, 0#8, 0#8]
    else if i % 8 = 4 then prev.map subByte
    else prev
  xorBytes (w.getD (i - 8) []) t

/-- The 60 words of the key schedule. -/
def keySchedule (key : List Byte) : List (List Byte) :=
  (List.range 52).foldl (fun w j => w ++ [keyWord w (j + 8)]) (chunks 4 key)

/-- The key of a round. -/
def roundKey (w : List (List Byte)) (r : Nat) : List Byte := ((w.drop (4 * r)).take 4).flatten

/-- Row `r` of the state rotated by `r` columns. -/
def shiftRows (s : List Byte) : List Byte := (List.range 16).map fun i => s.getD ((i + 4 * (i % 4)) % 16) 0#8

/-- Each column mixed. -/
def mixColumns (s : List Byte) : List Byte :=
  (List.range 16).map fun i =>
    let at_ (k : Nat) : Byte := s.getD (4 * (i / 4) + (i + k) % 4) 0#8
    xtime (at_ 0) ^^^ (xtime (at_ 1) ^^^ at_ 1) ^^^ at_ 2 ^^^ at_ 3

/-- One block encrypted under the words of a schedule. -/
def aesBlock (w : List (List Byte)) (block : List Byte) : List Byte :=
  let s := (List.range 13).foldl (fun x r => xorBytes (mixColumns (shiftRows (x.map subByte))) (roundKey w (r + 1)))
    (xorBytes block (roundKey w 0))
  xorBytes (shiftRows (s.map subByte)) (roundKey w 14)

/-! ### Galois/Counter Mode -/

/-- The product of two blocks, as numbers whose most significant bit is the block's first. -/
def ghashMul (x y : Nat) : Nat :=
  ((List.range 128).foldl (fun (p : Nat × Nat) i =>
    (if bitOf x (127 - i) then p.1 ^^^ p.2 else p.1,
     if p.2 % 2 = 1 then p.2 / 2 ^^^ 0xE1 * 2 ^ 120 else p.2 / 2)) (0, y)).1

/-- The hash of whole blocks. -/
def ghash (h : Nat) (bs : List Byte) : Nat := (chunks 16 bs).foldl (fun a b => ghashMul (a ^^^ beNat b) h) 0

/-- Zeros that fill the last block. -/
def padBlock (bs : List Byte) : List Byte := padTo (16 * ceilDiv bs.length 16) bs

/-- The counter block of a nonce. -/
def counterBlock (nonce : List Byte) (i : Nat) : List Byte := nonce ++ beBytes 4 i

/-- Bytes encrypted, or decrypted, under a key and a 12-byte nonce. -/
def gcmCrypt (key nonce data : List Byte) : List Byte :=
  let w := keySchedule key
  let bs := chunks 16 data
  (List.range bs.length).flatMap fun i => xorBytes (bs.getD i []) (aesBlock w (counterBlock nonce (i + 2)))

/-- The 16-byte tag over associated data and ciphertext. -/
def gcmTag (key nonce aad ct : List Byte) : List Byte :=
  let w := keySchedule key
  let h := beNat (aesBlock w (zeros 16))
  let s := ghash h (padBlock aad ++ padBlock ct ++ beBytes 8 (8 * aad.length) ++ beBytes 8 (8 * ct.length))
  xorBytes (beBytes 16 s) (aesBlock w (counterBlock nonce 1))

end Sys2Proof.Machine
end

