-- ==== Sys2Proof/Machine/Float.lean ====
section
/-! DEFINITION. Number formats, conversions, block scales, the datum accumulator's readout, FP32 arithmetic and the
traverse generator (spec 02, R35 to R66, R547). A finite value is held exactly as ±m × 2^e, so that every result
is one rounding of an exact value. -/

namespace Sys2Proof.Machine

open Sys2Proof

/-- A number as an operand format denotes it (R35). -/
inductive Fp where
  | nan
  | inf (neg : Bool)
  | fin (neg : Bool) (m : Nat) (e : Int)
  deriving DecidableEq, Repr

/-- The format codes of R81. -/
abbrev fmtFp32 : Nat := 0
abbrev fmtBf16 : Nat := 1
abbrev fmtE5m2 : Nat := 2
abbrev fmtE4m3 : Nat := 3
abbrev fmtE2m1 : Nat := 4
abbrev fmtInt8 : Nat := 5
abbrev fmtE8m0 : Nat := 6
abbrev fmtInt32 : Nat := 7
abbrev fmtUint64 : Nat := 8
abbrev fmtRaw : Nat := 9

/-- The shape of a floating format: exponent and mantissa bits, bias, whether it has infinities (R35). -/
structure FloatShape where
  eb : Nat
  mb : Nat
  bias : Int
  ieee : Bool
  deriving DecidableEq, Repr

/-- The floating formats of R35 by code. -/
def floatShape (fmt : Nat) : FloatShape :=
  if fmt = fmtFp32 then ⟨8, 23, 127, true⟩
  else if fmt = fmtBf16 then ⟨8, 7, 127, true⟩
  else if fmt = fmtE5m2 then ⟨5, 2, 15, true⟩
  else if fmt = fmtE4m3 then ⟨4, 3, 7, false⟩
  else ⟨2, 1, 1, false⟩

/-- The exponent of a format's smallest subnormal. -/
def FloatShape.emin (f : FloatShape) : Int := 1 - f.bias - (f.mb : Int)

/-- Whether a code is a floating element format. -/
def isFloat (fmt : Nat) : Bool := decide (fmt ≤ 4)

/-- Two's complement value of `n` bits. -/
def toSigned (n v : Nat) : Int := if bitOf v (n - 1) then (v : Int) - (2 ^ n : Nat) else v

/-- An integer as a number. -/
def Fp.ofInt (i : Int) : Fp := .fin (decide (i < 0)) i.natAbs 0

/-- The number that the bits of an element of a format denote (R35). -/
def decodeElem (fmt bits : Nat) : Fp :=
  if fmt = fmtInt8 then Fp.ofInt (toSigned 8 bits)
  else if fmt = fmtInt32 then Fp.ofInt (toSigned 32 bits)
  else if fmt = fmtUint64 ∨ fmt = fmtRaw then .fin false bits 0
  else if fmt = fmtE8m0 then (if bits = 255 then .nan else .fin false 1 ((bits : Int) - 127))
  else
    let f := floatShape fmt
    let m := getBits bits (f.mb - 1) 0
    let e := getBits bits (f.mb + f.eb - 1) f.mb
    let s := bitOf bits (f.mb + f.eb)
    let top := 2 ^ f.eb - 1
    if f.ieee ∧ e = top then (if m = 0 then .inf s else .nan)
    else if fmt = fmtE4m3 ∧ e = top ∧ m = 7 then .nan
    else if e = 0 then .fin s m f.emin
    else .fin s (m + 2 ^ f.mb) (f.emin + (e : Int) - 1)

/-- How a conversion rounds (R42, R44): to nearest with ties to even, or stochastically with a 32-bit draw. -/
inductive Rounding where
  | nearest
  | stochastic (w : Nat)
  deriving DecidableEq, Repr

/-- The bit length of a number. -/
def bitLen (m : Nat) : Nat := if m = 0 then 0 else Nat.log2 m + 1

/-- The magnitude m × 2^e rounded to a multiple of the least significant bit of a format with `p` significant bits
and smallest subnormal 2^emin: the multiple and that bit's exponent (R42, R44). -/
def roundMag (r : Rounding) (p : Nat) (emin : Int) (m : Nat) (e : Int) : Nat × Int :=
  let q := max emin (e + (bitLen m : Int) - (p : Int))
  if q ≤ e then (m <<< (e - q).toNat, q)
  else
    let sh := (q - e).toNat
    let n := m >>> sh
    let rem := m % 2 ^ sh
    let up := match r with
      | .nearest => decide (2 * rem > 2 ^ sh) || (decide (2 * rem = 2 ^ sh) && decide (n % 2 = 1))
      | .stochastic w => decide (w < (rem <<< 32) >>> sh)
    (n + b2n up, q)

/-- The bits of a rounded magnitude in a floating format, exponent field and mantissa together. -/
def magBits (f : FloatShape) (n : Nat) (q : Int) : Nat := if n = 0 then 0 else (q - f.emin).toNat * 2 ^ f.mb + n

/-- The canonical NaN of a format (R38). -/
def canonNan (fmt : Nat) : Nat :=
  if fmt = fmtFp32 then 0x7FC00000 else if fmt = fmtBf16 then 0x7FC0 else 0x7F

/-- The largest finite magnitude of a format, as bits. -/
def maxBits (fmt : Nat) : Nat :=
  if fmt = fmtFp32 then 0x7F7FFFFF else if fmt = fmtBf16 then 0x7F7F else if fmt = fmtE5m2 then 0x7B
  else if fmt = fmtE4m3 then 0x7E else 7

/-- The magnitude bits of an overflow or an infinity in a format (R43). -/
def overBits (fmt : Nat) (sat : Bool) : Nat :=
  if fmt = fmtFp32 then 0x7F800000 else if fmt = fmtBf16 then 0x7F80
  else if fmt = fmtE5m2 then (if sat then 0x7B else 0x7C) else maxBits fmt

/-- A number converted to an element of a format (R42, R43): its bits, and whether the conversion was invalid. -/
def encodeElem (fmt : Nat) (sat : Bool) (r : Rounding) (x : Fp) : Nat × Bool :=
  if fmt = fmtInt8 then
    match x with
    | .nan => (0, true)
    | .inf neg => (if neg then 0x80 else 0x7F, false)
    | .fin neg m e =>
      let n := (roundMag .nearest (bitLen m + e.toNat + 1) 0 m e)
      let v := n.1 <<< n.2.toNat
      if neg then (if v ≥ 128 then 0x80 else (256 - v) % 256, false) else (min v 127, false)
  else
    let f := floatShape fmt
    let sgn (neg : Bool) := b2n neg <<< (f.eb + f.mb)
    match x with
    | .nan => (canonNan fmt, false)
    | .inf neg => (sgn neg + overBits fmt sat, false)
    | .fin neg m e =>
      let (n, q) := roundMag r (f.mb + 1) f.emin m e
      let b := magBits f n q
      (sgn neg + (if b > maxBits fmt then overBits fmt sat else b), false)

/-- A number rounded to FP32, to nearest, ties to even. -/
def toF32 (x : Fp) : F32 := BitVec.ofNat 32 (encodeElem fmtFp32 false .nearest x).1

/-- The number that an FP32 element denotes. -/
def ofF32 (b : F32) : Fp := decodeElem fmtFp32 b.toNat

/-- The FP32 canonical NaN and +0. -/
def f32Nan : F32 := 0x7FC00000#32
def f32Zero : F32 := 0#32

/-! ### Exact arithmetic -/

/-- A finite value over a common exponent. -/
def alignTo (neg : Bool) (m : Nat) (e q : Int) : Int :=
  let v : Int := (m <<< (e - q).toNat : Nat)
  if neg then -v else v

/-- The sign changed. -/
def Fp.negate : Fp → Fp
  | .nan => .nan
  | .inf s => .inf (!s)
  | .fin s m e => .fin (!s) m e

/-- The exact sum, with the signs of zero of IEEE 754 addition (R53). -/
def Fp.add : Fp → Fp → Fp
  | .nan, _ => .nan
  | _, .nan => .nan
  | .inf a, .inf b => if a = b then .inf a else .nan
  | .inf a, _ => .inf a
  | _, .inf b => .inf b
  | .fin a m e, .fin b n f =>
    let q := min e f
    let s := alignTo a m e q + alignTo b n f q
    if s = 0 then .fin (decide (m = 0) && a && b) 0 q else .fin (decide (s < 0)) s.natAbs q

/-- The exact product. -/
def Fp.mul : Fp → Fp → Fp
  | .nan, _ => .nan
  | _, .nan => .nan
  | .inf a, .inf b => .inf (a != b)
  | .inf a, .fin b n _ => if n = 0 then .nan else .inf (a != b)
  | .fin a m _, .inf b => if m = 0 then .nan else .inf (a != b)
  | .fin a m e, .fin b n f => .fin (a != b) (m * n) (e + f)

/-- A number times a power of two. -/
def Fp.scale (x : Fp) (k : Int) : Fp :=
  match x with
  | .fin s m e => .fin s m (e + k)
  | y => y

/-- A number is not a finite one. -/
def Fp.nonfinite : Fp → Bool
  | .fin _ _ _ => false
  | _ => true

/-- A number is zero. -/
def Fp.isZero : Fp → Bool
  | .fin _ m _ => m == 0
  | _ => false

/-- A number is a NaN. -/
def Fp.isNan : Fp → Bool
  | .nan => true
  | _ => false

/-- A number's sign bit. -/
def Fp.neg? : Fp → Bool
  | .nan => false
  | .inf s => s
  | .fin s _ _ => s

/-- The magnitude. -/
def Fp.abs : Fp → Fp
  | .nan => .nan
  | .inf _ => .inf false
  | .fin _ m e => .fin false m e

/-- `x` is below `y` as real numbers, neither being a NaN; +0 and −0 are equal here. -/
def Fp.lt : Fp → Fp → Bool
  | .nan, _ => false
  | _, .nan => false
  | .inf a, .inf b => a && !b
  | .inf a, _ => a
  | _, .inf b => !b
  | .fin a m e, .fin b n f =>
    let q := min e f
    decide (alignTo a m e q < alignTo b n f q)

/-- `x` is below `y` in the order in which +0 stands above −0 (R167). -/
def Fp.below (x y : Fp) : Bool := x.lt y || (x.isZero && y.isZero && x.neg? && !y.neg?)

/-- The smaller of two numbers; a NaN operand gives NaN (R38, R167). -/
def Fp.min (x y : Fp) : Fp := if x.isNan || y.isNan then .nan else if y.below x then y else x

/-- The larger of two numbers; a NaN operand gives NaN (R38, R167). -/
def Fp.max (x y : Fp) : Fp := if x.isNan || y.isNan then .nan else if x.below y then y else x

/-! ### FP32 operations, each rounded once (R167) -/

def f32Add (a b : F32) : F32 := toF32 ((ofF32 a).add (ofF32 b))
def f32Sub (a b : F32) : F32 := toF32 ((ofF32 a).add (ofF32 b).negate)
def f32Mul (a b : F32) : F32 := toF32 ((ofF32 a).mul (ofF32 b))
def f32Fma (a b c : F32) : F32 := toF32 (((ofF32 a).mul (ofF32 b)).add (ofF32 c))
def f32Min (a b : F32) : F32 := toF32 ((ofF32 a).min (ofF32 b))
def f32Max (a b : F32) : F32 := toF32 ((ofF32 a).max (ofF32 b))
def f32Abs (a : F32) : F32 := toF32 (ofF32 a).abs

/-- The quotient m / n × 2^k as an exact-enough dyadic: `bits` quotient bits and a sticky bit, which rounds as the
true quotient does. -/
def stickyDiv (m n bits : Nat) : Nat × Int :=
  let sh := bits + bitLen n
  let q := (m <<< sh) / n
  (2 * q + b2n ((m <<< sh) % n != 0), -(sh : Int) - 1)

/-- The exact quotient up to a sticky bit. -/
def Fp.div : Fp → Fp → Fp
  | .nan, _ => .nan
  | _, .nan => .nan
  | .inf _, .inf _ => .nan
  | .inf a, .fin b _ _ => .inf (a != b)
  | .fin a _ _, .inf b => .fin (a != b) 0 0
  | .fin a m e, .fin b n f =>
    if n = 0 then (if m = 0 then .nan else .inf (a != b))
    else
      let (q, k) := stickyDiv m n 64
      .fin (a != b) q (k + e - f)

/-- A division, rounded once. -/
def f32Div (a b : F32) : F32 := toF32 ((ofF32 a).div (ofF32 b))

/-! ### Elementary functions, each correctly rounded (R116, R167, R547)

A value is computed with 512 fractional bits, far beyond what any FP32 argument needs to be rounded correctly, and
a sticky bit marks it as lying between two such fractions (log entry 10). -/

/-- Fractional bits of the fixed-point evaluation. -/
abbrev fixBits : Nat := 512

/-- A positive fixed-point value as a number that lies strictly above it, by less than one unit. -/
def ofFix (neg : Bool) (v : Nat) : Fp := .fin neg (2 * v + 1) (-(fixBits : Int) - 1)

/-- A number of any magnitude just above 0. -/
def tiny (neg : Bool) : Fp := .fin neg 1 (-400)

/-- A finite magnitude in fixed point. -/
def toFix (m : Nat) (e : Int) : Nat :=
  let k := e + (fixBits : Int)
  if 0 ≤ k then m <<< k.toNat else m >>> (-k).toNat

/-- The Taylor series of exp at a fixed-point argument, term by term. -/
def expSeries (t : Nat) : Nat → Nat → Nat → Nat → Nat
  | 0, _, _, acc => acc
  | f + 1, n, term, acc =>
    if term = 0 then acc else expSeries t f (n + 1) (((term * t) >>> fixBits) / n) (acc + term)

/-- exp of a fixed-point argument of at most 256, in fixed point. -/
def expFix (x : Nat) : Nat :=
  let y := expSeries (x >>> 10) 200 1 (1 <<< fixBits) 0
  (List.range 10).foldl (fun a _ => (a * a) >>> fixBits) y

/-- exp of a finite argument. -/
def expFin (neg : Bool) (m : Nat) (e : Int) : Fp :=
  if m = 0 then .fin false 1 0
  else
    let x := toFix m e
    if x ≥ 256 <<< fixBits then (if neg then tiny false else .fin false 1 300)
    else if neg then
      let (q, k) := stickyDiv (1 <<< fixBits) (expFix x) 200
      .fin false (2 * q + 1) (k - 1)
    else ofFix false (expFix x)

/-- A quotient of two fixed-point values, as a number just beside it. -/
def fixQuot (neg : Bool) (a b : Nat) : Fp :=
  let (q, k) := stickyDiv a b 300
  .fin neg (2 * q + 1) (k - 1)

/-- The logistic function of a finite argument, without the exact case at 0. -/
def sigmoidFin (neg : Bool) (m : Nat) (e : Int) : Fp :=
  let x := toFix m e
  let one := 1 <<< fixBits
  if m = 0 then .fin false 1 (-1)
  else if x ≥ 256 <<< fixBits then (if neg then tiny false else .fin false 1 0)
  else
    let y := expFix x
    if neg then fixQuot false one (y + one) else fixQuot false y (y + one)

/-- π in fixed point, by Machin's formula. -/
def atanInvAux (k : Nat) : Nat → Nat → Nat → Bool → Int → Int
  | 0, _, _, _, acc => acc
  | f + 1, n, p, pos, acc =>
    if p = 0 then acc
    else atanInvAux k f (n + 2) (p / (k * k)) (!pos) (if pos then acc + (p / n : Nat) else acc - (p / n : Nat))

/-- arctan (1 / k) in fixed point. -/
def atanInv (k : Nat) : Int := atanInvAux k 400 1 ((1 <<< (fixBits + 16)) / k) true 0

/-- π in fixed point. -/
def piFix : Nat := (16 * atanInv 5 - 4 * atanInv 239).toNat >>> 16

/-- The sum x + x³/3 + x⁵/15 + … in fixed point. -/
def phiSeries (x2 : Nat) : Nat → Nat → Nat → Nat → Nat
  | 0, _, _, acc => acc
  | f + 1, n, term, acc =>
    if term = 0 then acc else phiSeries x2 f (n + 2) (((term * x2) >>> fixBits) / (n + 2)) (acc + term)

/-- |Φ(x) − 1/2| in fixed point for a fixed-point magnitude of at most 16. -/
def phiHalf (x : Nat) : Nat :=
  let x2 := (x * x) >>> fixBits
  let s := phiSeries x2 1500 1 x 0
  let d := Nat.sqrt ((2 * piFix) <<< fixBits)
  let y := expFix (x2 / 2)
  (((s <<< fixBits) / y) <<< fixBits) / d

/-- x × Φ(x) of a finite argument (R167). -/
def geluFin (neg : Bool) (m : Nat) (e : Int) : Fp :=
  let x := toFix m e
  if m = 0 then .fin neg 0 0
  else if x ≥ 16 <<< fixBits then (if neg then tiny true else .fin false m e)
  else
    let h := phiHalf x
    let half := 1 <<< (fixBits - 1)
    let p := if neg then half - h else half + h
    (ofFix neg p).mul (.fin false m e)

/-- tanh of a finite argument. -/
def tanhFin (neg : Bool) (m : Nat) (e : Int) : Fp :=
  let x := toFix m e
  let one := 1 <<< fixBits
  if m = 0 then .fin neg 0 0
  else if x ≥ 64 <<< fixBits then .fin neg 1 0
  else
    let y := expFix (2 * x)
    fixQuot neg (y - one) (y + one)

/-- The square root of a finite positive magnitude, with a sticky bit. -/
def sqrtMag (m : Nat) (e : Int) : Fp :=
  let m' := if e % 2 = 0 then m else 2 * m
  let e' := if e % 2 = 0 then e else e - 1
  let v := m' <<< 128
  let r := Nat.sqrt v
  .fin false (2 * r + b2n (r * r != v)) ((e' - 128) / 2 - 1)

/-- The reciprocal square root of a finite positive magnitude, with a sticky bit. -/
def rsqrtMag (m : Nat) (e : Int) : Fp :=
  let m' := if e % 2 = 0 then m else 2 * m
  let e' := if e % 2 = 0 then e else e - 1
  let k := 128 + bitLen m'
  let r := Nat.sqrt (2 ^ (2 * k) / m')
  .fin false (2 * r + b2n (r * r * m' != 2 ^ (2 * k))) (-(k : Int) - e' / 2 - 1)

/-- exp (R547 at the infinities). -/
def Fp.exp : Fp → Fp
  | .nan => .nan
  | .inf s => if s then .fin false 0 0 else .inf false
  | .fin s m e => expFin s m e

/-- The logistic function. -/
def Fp.sigmoid : Fp → Fp
  | .nan => .nan
  | .inf s => if s then .fin false 0 0 else .fin false 1 0
  | .fin s m e => sigmoidFin s m e

/-- SiLU, x × sigmoid(x). -/
def Fp.silu : Fp → Fp
  | .nan => .nan
  | .inf s => if s then .fin true 0 0 else .inf false
  | .fin s m e => (Fp.fin s m e).mul (sigmoidFin s m e)

/-- GELU, x × Φ(x). -/
def Fp.gelu : Fp → Fp
  | .nan => .nan
  | .inf s => if s then .fin true 0 0 else .inf false
  | .fin s m e => geluFin s m e

/-- tanh. -/
def Fp.tanh : Fp → Fp
  | .nan => .nan
  | .inf s => .fin s 1 0
  | .fin s m e => tanhFin s m e

/-- The reciprocal. -/
def Fp.recip (x : Fp) : Fp := (Fp.fin false 1 0).div x

/-- The square root. -/
def Fp.sqrt : Fp → Fp
  | .nan => .nan
  | .inf s => if s then .nan else .inf false
  | .fin s m e => if m = 0 then .fin s 0 e else if s then .nan else sqrtMag m e

/-- The reciprocal square root. -/
def Fp.rsqrt : Fp → Fp
  | .nan => .nan
  | .inf s => if s then .nan else .fin false 0 0
  | .fin s m e => if m = 0 then .inf s else if s then .nan else rsqrtMag m e

/-- The activation functions of `DMM` and `XMM` (R282), each rounded once to FP32. -/
def activate (act : Nat) (x : F32) : F32 :=
  let v := ofF32 x
  let relu := f32Max x f32Zero
  if v.isNan then f32Nan
  else if act = 1 then relu
  else if act = 2 then f32Mul relu relu
  else if act = 3 then toF32 v.silu
  else if act = 4 then toF32 v.gelu
  else if act = 5 then toF32 v.sigmoid
  else if act = 6 then toF32 v.tanh
  else x

/-! ### Block scales (R39 to R41) -/

/-- The value of an element in a block with scale byte `E` (R39, R40). -/
def scaled (x : Fp) (E : Nat) : Fp := if E = 0xFF then .nan else x.scale ((E : Int) - 127)

/-- emax of R41. -/
def scaleEmax (fmt : Nat) : Int :=
  if fmt = fmtE2m1 then 2 else if fmt = fmtE4m3 then 8 else if fmt = fmtE5m2 then 15 else 6

/-- ⌊log₂⌋ of a finite non-zero magnitude. -/
def Fp.log2 : Fp → Int
  | .fin _ m e => e + (bitLen m : Int) - 1
  | _ => 0

/-- The scale byte that a block of source values receives (R41). -/
def blockScale (fmt : Nat) (xs : List Fp) : Nat :=
  if xs.any Fp.nonfinite then 0xFF
  else
    let amax := xs.foldl (fun a x => if a.lt x.abs then x.abs else a) (.fin false 0 0)
    if amax.isZero then 0
    else (max 0 (min 254 (amax.log2 - scaleEmax fmt + 127))).toNat

/-- A block of source values quantised: scale byte, element bits, and whether it is invalid (R41). -/
def quantBlock (fmt : Nat) (sat : Bool) (xs : List (Fp × Rounding)) : Nat × List Nat × Bool :=
  let E := blockScale fmt (xs.map (·.1))
  if E = 0xFF then (0xFF, xs.map fun _ => 0, true)
  else
    let ys := xs.map fun x => encodeElem fmt sat x.2 (x.1.scale (127 - (E : Int)))
    (E, ys.map (·.1), ys.any (·.2))

/-! ### The datum accumulator (R46 to R53) -/

/-- The operand pairs of R46, with the smallest product bit and the span; `none` for any other pair. -/
def pairSpan (a b : Nat) : Option (Int × Nat) :=
  let p := (min a b, max a b)
  if p = (fmtE4m3, fmtE4m3) then some (-18, 36)
  else if p = (fmtE5m2, fmtE4m3) then some (-25, 50)
  else if p = (fmtE5m2, fmtE5m2) then some (-32, 64)
  else if p = (fmtInt8, fmtInt8) then some (0, 15)
  else if p = (fmtE2m1, fmtE2m1) then some (-2, 8)
  else if p = (fmtE4m3, fmtE2m1) then some (-10, 22)
  else none

/-- The exact content of an accumulator: the integer sum over 2^−400 and the sticky flags of R49. -/
structure Datum where
  sum : Int := 0
  nan : Bool := false
  pinf : Bool := false
  ninf : Bool := false
  deriving DecidableEq, Repr

/-- A product added exactly (R48, R49). -/
def Datum.push (d : Datum) (p : Fp) : Datum :=
  match p with
  | .nan => { d with nan := true }
  | .inf s => if s then { d with ninf := true } else { d with pinf := true }
  | .fin s m e => { d with sum := d.sum + alignTo s m e (-400) }

/-- Readout (R49, R50). -/
def Datum.readout (d : Datum) : F32 :=
  if d.nan || (d.pinf && d.ninf) then f32Nan
  else if d.pinf then toF32 (.inf false)
  else if d.ninf then toF32 (.inf true)
  else if d.sum = 0 then f32Zero
  else toF32 (.fin (decide (d.sum < 0)) d.sum.natAbs (-400))

/-- A pair of blocks of a run: the two scale bytes and its products. -/
structure BlockPair where
  ea : Nat
  eb : Nat
  prods : List Fp
  deriving DecidableEq, Repr

/-- The combined exponent of a pair of blocks; none when a scale byte is 0xFF (R47). -/
def BlockPair.exp (b : BlockPair) : Option Int :=
  if b.ea = 0xFF ∨ b.eb = 0xFF then none else some ((b.ea : Int) - 127 + ((b.eb : Int) - 127))

/-- Whether a run lies inside the datum window (R47). -/
def insideWindow (span n : Nat) (bs : List BlockPair) : Bool :=
  let es := bs.filterMap BlockPair.exp
  match es with
  | [] => decide (span + ceilLog2 n + 1 ≤ 96)
  | e :: rest =>
    let lo := rest.foldl min e
    let hi := rest.foldl max e
    let spread := (hi - lo).toNat
    decide (spread ≤ 24 ∧ span + spread + ceilLog2 n + 1 ≤ 96)

/-- The exact sum of a block's products. -/
def BlockPair.datum (b : BlockPair) : Datum := b.prods.foldl Datum.push {}

/-- One column of a run on the datum accumulator: its readout, and whether it was computed in fixed order (R48,
R51). -/
def runColumn (inside : Bool) (bs : List BlockPair) : F32 :=
  if inside then ((bs.flatMap (·.prods)).foldl Datum.push {}).readout
  else match bs with
    | [] => f32Zero
    | b :: rest => rest.foldl (fun acc x => f32Add acc x.datum.readout) b.datum.readout

/-- One column of a run of BF16 products, in ascending K order (R53). -/
def runBf16 (ps : List Fp) : F32 :=
  match ps with
  | [] => f32Zero
  | p :: rest => rest.foldl (fun acc x => toF32 ((ofF32 acc).add x)) (toF32 p)

/-! ### The traverse generator (R62 to R65) -/

/-- One round of the traverse generator. -/
def traverseRound (k : List (BitVec 32)) (x : List (BitVec 32)) (r : Nat) : List (BitVec 32) :=
  let g (l : List (BitVec 32)) (i : Nat) : BitVec 32 := l.getD i 0
  let rot := [(13, 16), (11, 26), (7, 21), (19, 5)].getD r (0, 0)
  let x0 := g x 0 + g x 1
  let x1 := (g x 1).rotateLeft rot.1 ^^^ x0
  let x2 := g x 2 + g x 3
  let x3 := (g x 3).rotateLeft rot.2 ^^^ x2
  let y := [x0, x3, x2, x1]
  let z := (List.range 4).map fun j => g y j + g k ((j + r + 1) % 4)
  z.modify 0 (· + 0x9E3779B9#32 * BitVec.ofNat 32 (r + 1))

/-- The four output words for a counter and a seed. -/
def traverseWords (counter seed : Nat) : List (BitVec 32) :=
  let word (v : Nat) (i : Nat) : BitVec 32 := BitVec.ofNat 32 (v >>> (32 * i))
  let k := (List.range 4).map (word seed)
  let x := (List.range 4).map fun j => word counter j ^^^ word seed j
  (List.range 4).foldl (fun y r => traverseRound k y r) x

/-- The 128-bit output (R62). -/
def traverse (counter seed : Nat) : Nat :=
  let w := traverseWords counter seed
  (List.range 4).foldl (fun a i => a + (w.getD i 0).toNat * 2 ^ (32 * i)) 0

/-- The 32-bit draw of the element with linear index `i` (R64). -/
def draw (seed base i : Nat) : Nat :=
  ((traverseWords (base % 2 ^ 64 * 2 ^ 64 + i / 4) seed).getD (i % 4) 0).toNat

end Sys2Proof.Machine
end

