-- ==== Sys2Proof/Config.lean ====
section
/-! DEFINITION. What an implementation fixes and the values the spec leaves open. Every constant here is opaque:
nothing can evaluate it, so a statement about a value holds whatever the constant is (log entries 5 and 6). -/

namespace Sys2Proof.Config

/-- The bytes that the spec calls undefined after an operation, drawn in order by `State.free` (log entry 5). -/
opaque freeByte : Nat → Byte

/-- Byte `i` of an SLH-DSA signature (R474) in the context numbered `ctx` over `msg`, with the randomiser numbered
`rnd` (0: the deterministic form). -/
opaque slhSign : (ctx : Nat) → (msg : List Byte) → (rnd : Nat) → (i : Nat) → Byte

/-- Whether an SLH-DSA signature verifies (R474, R476, R486). -/
opaque slhVerify : (ctx : Nat) → (pk msg sig : List Byte) → Bool

/-- Byte `i` of the device identity public key, derived from the fused seeds (R473). -/
opaque identityPk : Nat → Byte

/-- Byte `i` of the ML-KEM-1024 encapsulation key of the `k`-th key pair (R485). -/
opaque kemPk : (k : Nat) → (i : Nat) → Byte

/-- Byte `i` of the ciphertext of the `r`-th encapsulation to an encapsulation key (R486). -/
opaque kemCiphertext : (ek : List Byte) → (r : Nat) → (i : Nat) → Byte

/-- Byte `i` of the shared secret of the `r`-th encapsulation to an encapsulation key (R486). -/
opaque kemSecret : (ek : List Byte) → (r : Nat) → (i : Nat) → Byte

/-- Byte `i` of the secret that the `k`-th decapsulation key yields for a ciphertext (R486, R488). -/
opaque kemDecaps : (k : Nat) → (ct : List Byte) → (i : Nat) → Byte

/-- Whether a link beyond this device on the deterministic route to `dst` encrypts at `time` (R318). -/
opaque farEncrypts : (time dst : Nat) → Bool

/-- The lines of a channel in migration, by their numbers on it, that can no longer be read (R256, log entry 32). -/
opaque unreadable : Nat → List Nat

/-- The bytes of the SPI flash as the module leaves the factory (R475, R522): image and certificate area. -/
opaque factoryFlash : Nat → Byte

/-- FW_KEY_HASH of a key slot, byte `i` (R472). -/
opaque fwKeyHash : (slot : Nat) → (i : Nat) → Byte

/-- Whether a firmware key slot is revoked (R472). -/
opaque fwKeyRevoked : (slot : Nat) → Bool

/-- The fused SERIAL (R472). -/
opaque serial : BitVec 64

/-- Heruanko's MIPI manufacturer code (R505). -/
opaque mipiCode : BitVec 15

/-- Heruanko's JEP106 code (R511). -/
opaque jep106 : BitVec 11

/-- The I3C bus characteristics byte (R505). -/
opaque bcr : Byte

/-- The I3C device characteristics byte (R505). -/
opaque dcr : Byte

/-- The I3C status word of the `n`-th GETSTATUS (R505). -/
opaque i3cStatus : Nat → BitVec 16

/-- The bits 47 to 16 of the I3C Provisional ID that the spec does not fix (R505). -/
opaque pidInstance : BitVec 17

end Sys2Proof.Config
end

