-- ==== Sys2Proof/Machine/State.lean ====
section
/-! DEFINITION. The state of the block as plain data: its registers, its memory, the work it has accepted, its
engines, its fabric and management interfaces, and the queue of commands that wait to be performed. The values
after power-on reset are `State.reset`. -/

namespace Sys2Proof.Machine

open Sys2Proof

/-- The two variants (spec 00, Variants). -/
inductive Variant where
  | fd880
  | fd860
  deriving DecidableEq, Repr

/-- A descriptor as the Command Engine read it (R80). -/
structure Desc where
  base : Nat
  scaleBase : Nat
  d0 : Nat
  d1 : Nat
  d2 : Nat
  stride1 : Nat
  stride2 : Nat
  fmt : Nat
  flags : Nat
  resv : Nat
  version : Nat
  digest : Nat
  deriving DecidableEq, Repr

/-- A named descriptor of an accepted task: the place of its field in the instruction's entry (0 to 3 for DESC_A
to DESC_D, 4 and up for the extension fields in their order), its index, and its contents (R82). -/
structure Operand where
  field : Nat
  index : Nat
  desc : Desc
  deriving DecidableEq, Repr

/-- Where an accepted, incomplete task stands. -/
inductive Phase where
  /-- Not issued. -/
  | waiting
  /-- Issued; its engines work on it. -/
  | running
  /-- Pre-empted; its context lies in slot `slot` (R410). -/
  | parked (slot : Nat)
  /-- Its engines have finished; its completion is still to be written. -/
  | ended
  deriving DecidableEq, Repr

/-- An accepted, incomplete task (R82, R84, R396). -/
structure Task where
  seq : Nat
  stream : Nat
  ring : Nat
  word : BitVec 128
  ext : List (BitVec 128)
  ops : List Operand
  job : Nat
  lc : Bool
  /-- The bound of R267 to R291 in ns, evaluated at acceptance (R401). -/
  bound : Nat
  /-- GLB_NUMERICS.E5M2_SAT and GLB_PARTITION.PORTABLE at acceptance (R7, R45). -/
  sat : Bool
  portable : Bool
  acceptTime : Nat
  phase : Phase
  issueTime : Nat
  lastCharge : Nat
  engineNs : Nat
  outcome : Nat
  err : Nat
  detail : Nat
  /-- The granted logical cores, first and one past the last (R399). -/
  grantLo : Nat
  grantHi : Nat
  /-- Bytes of the input-and-seed log reserved at acceptance (R439). -/
  logNeed : Nat
  /-- GLB_TIME at which a WAIT became eligible (R273). -/
  eligible : Option Nat
  /-- Faults of its engine so far (R429). -/
  faults : Nat
  /-- A pre-emption was decided and its boundary is awaited (R409). -/
  preempt : Bool
  /-- A pre-emption was forgone for want of a slot (R410). -/
  noPreempt : Bool
  /-- The bytes that the task read from the coherent window (R438). -/
  logData : List Byte
  /-- Neuron tiles decided and skipped, passes skipped, unproven pairs (R213). -/
  guardCounts : List Nat
  /-- CORE_TILE_CTRL.FIXED, and the physical cores whose CORE_CTRL.IRON was 0, when the task issued (R187). -/
  fixed : Bool
  noIron : List Nat
  deriving DecidableEq, Repr

/-- One run of the tile list (R155, R175). `proj` is 0 for the product of a DMM or an up-projection, 1 for a
down-projection and 2 for element-wise array work. `rows` are the token rows that it streams. -/
structure Run where
  ord : Nat
  seq : Nat
  proj : Nat
  expert : Nat
  tile : Nat
  blk : Nat
  part : Nat
  parts : Nat
  rows : List Nat
  deriving DecidableEq, Repr

/-- The FP32 values that a run read out, row by row (R165, R181), and whether poison reached it (R423). -/
structure Part where
  run : Run
  core : Nat
  vals : List (List F32)
  poisoned : Bool
  deriving DecidableEq, Repr

/-- A vector block (R170): one row, or one piece of at most 16,384 elements of it, of a vector phase. -/
structure VBlock where
  seq : Nat
  proj : Nat
  expert : Nat
  blk : Nat
  row : Nat
  piece : Nat
  owner : Nat
  deriving DecidableEq, Repr

/-- What a physical core holds (R177, R178, R184). -/
structure CoreSt where
  phys : Nat
  cur : Option Run
  next : Option Run
  stake : Bool
  vec : Option VBlock
  /-- Bytes of one staging slot for the run in hand; 0 when its tiles take none (R174). -/
  slot : Nat
  deriving DecidableEq, Repr

/-- A waiting stake request (R454): of a collective, or of a logical core. -/
structure StakeReq where
  collective : Bool
  lc : Bool
  seq : Nat
  core : Nat
  since : Nat
  deriving DecidableEq, Repr

/-- A closed segment that awaits its signature (R101, R482). -/
structure Segment where
  /-- CMD_JSIG_HEAD at closing (R101). -/
  index : Nat
  firstSeq : Nat
  lastSeq : Nat
  lastChain : BitVec 128
  predChain : BitVec 128
  time : Nat
  digest : List Byte
  cause : Nat
  deriving DecidableEq, Repr

/-- An action that waits for its event entry (R104, R543). -/
inductive Waiting where
  | resume (f : Nat) (task : Option Nat)
  | epoch (v : BitVec 32)
  | faultClear (n : Nat)
  | darnOpen (chan : Nat)
  | darnClose
  | pubPrepared (seq : Nat)
  | pubCommit (seq : Nat)
  deriving DecidableEq, Repr

/-- The journal's state beyond its registers (R98, R100, R103). -/
structure Journal where
  /-- OPEN and RESUME have been written since the last reset (R107). -/
  opened : Bool
  /-- Entries of the open segment, its first SEQ, the time of its first entry, and the chain before it. -/
  count : Nat
  firstSeq : Nat
  firstTime : Nat
  predChain : BitVec 128
  /-- Closed segments that await their signature, oldest first. -/
  signing : List Segment
  /-- Event entries written while acceptance is stopped (the reserve of 63, R103). -/
  reserveUsed : Nat
  /-- Actions that wait for their event entry, oldest first. -/
  waiting : List Waiting
  deriving DecidableEq, Repr

/-- An incomplete PUBLISH (R233 to R236). -/
structure Publish where
  seq : Nat
  region : Nat
  version : Nat
  pred : Nat
  entry : Nat
  /-- 0 accepted, 1 hashing, 2 digest complete and PREPARED awaited, 3 PREPARED written. -/
  step : Nat
  digest : List Byte
  deriving DecidableEq, Repr

/-- The parts of a page record that do not follow from region and image entries (R240). -/
structure PageRec where
  page : Nat
  readers : Nat
  heat : Nat
  qreads : List Nat
  place : Nat
  pinned : Bool
  frame : Nat
  /-- A candidate that is promoted into this page's frame when its eviction ends (R242). -/
  successor : Option Nat
  deriving DecidableEq, Repr

/-- The Stack Memory Subsystem's state beyond its registers (R247 to R260). -/
structure Hbm where
  /-- Corrected errors by channel, row, line and time (R248, R251). -/
  corrected : List (Nat × Nat × Nat × Nat)
  /-- Uncorrectable errors by channel, row and time (R255). -/
  uncorrected : List (Nat × Nat × Nat)
  /-- The row that each reported line of a channel lies in, by channel and line, until that row is repaired (R545). -/
  rows : List (Nat × Nat × Nat)
  /-- Spare rows used, by channel and bank of a pseudo-channel (R248). -/
  spares : List (Nat × Nat × Nat)
  /-- Rows that await repair, by channel and row, with the refreshes of their bank when they were queued (R248). -/
  repairs : List (Nat × Nat × Nat)
  /-- Channels due for a retrain, and those due at once (R251). -/
  due : List Nat
  urgent : List Nat
  /-- Channels in retraining, and in a margining segment. -/
  training : List Nat
  margining : List Nat
  /-- Sweeps in progress, by channel: steps done, and the steps that failed (R259, R260). -/
  sweeps : List (Nat × Nat × List Nat)
  /-- Offsets by which MARGIN_APPLY has moved a channel's trained values: read delay, read Vref, write delay, write
  Vref (R259). -/
  trim : List (Nat × List Int)
  /-- Consecutive failed retrains, by channel (R253). -/
  fails : List (Nat × Nat)
  /-- The last reading of each stack's base die, in tenths of a degree (R458). -/
  dies : List Nat
  /-- Each base die's reading at the training of the stacks, and at the last retrain of each channel retrained since
  (R251). -/
  trainedBase : List Nat
  trainedAt : List (Nat × Nat)
  /-- Fenced channels (R255). -/
  fenced : List Nat
  /-- Failed channels that wait for the darning in progress. -/
  failed : List Nat
  /-- The darn table (R257): the channels darned, newest first, the one in migration among them. With the mapping of
  R221 it fixes where each granule lies (`darnPlace`). RS. -/
  darnTable : List Nat
  /-- Granules of the channel in migration that have been copied, in ascending channel offset, and those marked copied
  by a write (R257). -/
  darnCopied : Nat
  darnMarked : List Nat
  /-- The darning in progress: its channel, and whether its opening entry is written (R256, R433). -/
  darning : Option (Nat × Bool)
  /-- A darning whose closing entry is awaited. -/
  closing : Bool
  /-- The period of SMS_RINSE.HOURS in progress, and the lines that rinse has read in it, by channel and line (R250). -/
  rinsePeriod : Nat
  rinsed : List (Nat × Nat)
  /-- Bank refreshes performed, by channel and bank of a pseudo-channel (R249). -/
  refreshed : List (Nat × Nat × Nat)
  /-- Refresh runs at the rate above 85 °C (R249, R458). -/
  hot : Bool
  /-- Reads routed to a frame and not yet delivered: address and bytes (R244). -/
  routed : List (Nat × Nat)
  deriving DecidableEq, Repr

/-- A fabric packet (R310), without its header CRC, which is computed when it is sent and checked when it arrives. -/
structure Pkt where
  dst : Nat
  src : Nat
  epoch : Nat
  vc : Nat
  kind : Nat
  ordered : Bool
  mcast : Bool
  group : Nat
  hops : Nat
  txn : Nat
  total : Nat
  offset : Nat
  addr : Nat
  payload : List Byte
  /-- The port it arrived on; 24 for an injected packet; 32 + n for a packet that leaves by port n (R372). -/
  port : Nat
  /-- GLB_TIME of its arrival at this switch (R359). -/
  since : Nat
  deriving DecidableEq, Repr

/-- The keys of an encrypted port (R303, R304, R486). -/
structure LinkKeys where
  txKey : List Byte
  rxKey : List Byte
  txSalt : List Byte
  rxSalt : List Byte
  txCount : Nat
  rxCount : Nat
  rekeys : Nat
  since : Nat
  deriving DecidableEq, Repr

/-- A fabric port's state beyond its registers (R295 to R306). -/
structure Port where
  num : Nat
  /-- Transmission counter of the next frame, and FSEQ expected next from the partner (R296). -/
  txSeq : Nat
  rxSeq : Nat
  /-- Bytes of the packet stream that no frame carries yet, and the channel that the output served last (R296, R308). -/
  txStream : List Byte
  lastVc : Nat
  /-- Frames sent and not acknowledged, oldest first: FSEQ, CREDIT field, packet stream, times resent (R297). -/
  retry : List (Nat × Nat × List Byte × Nat)
  /-- A failed frame was found; frames are discarded until the retry arrives (R297). -/
  discarding : Bool
  /-- The bytes of a packet that the frames so far leave incomplete. -/
  partialBytes : List Byte
  /-- Cells used at the partner's input, by channel: of its reserve and of the pool (R305). -/
  usedReserve : List Nat
  usedPool : List Nat
  /-- Packets in this port's input buffer, oldest first. -/
  inbuf : List Pkt
  /-- Cells freed and not yet returned, by channel (R306). -/
  owed : List Nat
  /-- Times of retries (R299, R300) and of tag failures (R303). -/
  retries : List Nat
  tagFails : List Nat
  /-- Retrains in a row that failed or ended down within 1 s, and when the port last came up (R300). -/
  failedTrains : Nat
  upSince : Option Nat
  keys : Option LinkKeys
  /-- The keying in progress: the partner's credential, this side's ciphertext and secret (R486). -/
  peerCred : List Byte
  ownCt : List Byte
  ownSecret : List Byte
  /-- A key that takes effect at the key index flip (R304). -/
  nextKeys : Option LinkKeys
  rekeying : Bool
  keyIdx : Bool
  /-- Key index bit that the receiver expects (R304). -/
  rxIdx : Bool
  /-- The port has been UP since it was last enabled, so that its trainings are retrains, and the last training was one
  (R300). -/
  wasUp : Bool
  retrain : Bool
  /-- Survey counts of the interval (R328): retries, corrected symbols, cells sent by channel, peak, detours,
  drops. -/
  sRetries : Nat
  sCorrected : Nat
  sCells : List Nat
  sPeak : Nat
  sDetours : Nat
  sDrops : Nat
  deriving DecidableEq, Repr

/-- One outstanding or unsent request packet of a transfer (R333, R343). -/
structure Req where
  offset : Nat
  len : Nat
  sentAt : Nat
  tries : Nat
  busyAt : Option Nat
  /-- Its entry in the slot of its pre-empted task, and the reply parked there: status and data (R410, R411). -/
  entry : Nat
  reply : Option (Nat × List Byte)
  deriving DecidableEq, Repr

/-- A transfer of the RME as a source (R334). `kind` is the KIND code of its request packets. -/
structure Xfer where
  seq : Nat
  stream : Nat
  queue : Nat
  sn : Nat
  dst : Nat
  kind : Nat
  code : Nat
  ordered : Bool
  acked : Bool
  /-- A transfer of an exchange, on VC3 (R338). -/
  exch : Bool
  addr : Nat
  total : Nat
  /-- The bytes to send, or the bytes received so far for a load. -/
  data : List Byte
  /-- Bytes of each contiguous range that the transfer is cut along; 0 when it is one range (R312). -/
  unit : Nat
  /-- FANSET packets not injected yet; none before the first (R333, R353). -/
  fansets : Option (List Pkt)
  next : Nat
  reqs : List Req
  /-- Destinations of an MSTORE: device, address, acknowledged (R353). -/
  dests : List (Nat × Nat × Bool)
  lastSent : Nat
  /-- Its task has failed: nothing more is sent, and its packets only stay outstanding (R333). -/
  dead : Bool
  deriving DecidableEq, Repr

/-- One entry of the replay window (R349). -/
structure Replay where
  src : Nat
  txn : Nat
  offset : Nat
  time : Nat
  status : Nat
  old : Nat
  deriving DecidableEq, Repr

/-- A fan entry of an MSTORE at a switch (R354, R355). -/
structure Fan where
  src : Nat
  txn : Nat
  /-- The ports, and the local addresses, each with the bytes that have left by that branch. -/
  ports : List (Nat × Nat)
  locals : List (Nat × Nat)
  /-- The switch half that holds the entry (R354). -/
  half : Nat
  total : Nat
  deriving DecidableEq, Repr

/-- The Remote Memory Engine's state beyond its registers. -/
structure Rme where
  xfers : List Xfer
  nextSn : List Nat
  rr : Nat
  window : List Replay
  /-- Floors by source and queue (R349). -/
  floors : List (Nat × Nat × Nat)
  fans : List Fan
  /-- Streams with a failed posted write (R347). -/
  postedFailed : List Nat
  /-- Bytes of the load stage that loads have reserved (R345). -/
  stageUsed : Nat
  deriving DecidableEq, Repr

/-- A collective on a group as this node sees it (R369 to R389). -/
structure Coll where
  group : Nat
  cseq : Nat
  /-- This device's task, when it has one, the stream of it, and its local contribution. -/
  task : Option Nat
  stream : Nat
  kind : Nat
  op : Nat
  fmt : Nat
  path : Nat
  sig : Nat
  entered : Bool
  entryTime : Nat
  firstTime : Option Nat
  /-- Times of the first and of the last result (R380, R393). -/
  resultTime : Option Nat
  lastResult : Option Nat
  /-- Input packets held for merging. -/
  inputs : List Pkt
  /-- Offsets merged so far at this node, their bytes, and whether they are all of the contribution (R376, R377). -/
  merged : List Nat
  upBytes : Nat
  upDone : Bool
  /-- The root has merged the first offset from every input, or its result has come here (R380). -/
  committed : Bool
  /-- The reason of an abort, or 0 (R386). -/
  aborted : Nat
  /-- Results received, by offset (and by step on the ring), and their byte count. -/
  got : List (Nat × Nat)
  gotBytes : Nat
  /-- Closing: inputs from which DONE has come, whether this member sent its own, and when the first came. -/
  doneFrom : List Nat
  doneSelf : Bool
  doneSent : Bool
  doneTime : Option Nat
  closed : Bool
  taskEnded : Bool
  stake : Bool
  deriving DecidableEq, Repr

/-- An exchange of a `.X` form as this member sees it (R390 to R392, R145). -/
structure Xchg where
  seq : Nat
  stream : Nat
  xslot : Nat
  cseq : Nat
  kind : Nat
  sig : Nat
  members : List Nat
  entered : Bool
  entryTime : Nat
  /-- Time of the last count header (R393). -/
  lastCount : Nat
  /-- Count headers held, this device's own among them. -/
  counts : List Pkt
  /-- The counts agree and the data phase runs (R391). -/
  decided : Bool
  /-- Bytes announced to this device, and the data packets received so far. -/
  expect : Nat
  arrived : List Pkt
  /-- Tags that came with returned rows, by RETURN row (R145, R146). -/
  tags : List (Nat × Nat)
  /-- The reason of an abort, or 0. -/
  aborted : Nat
  stake : Bool
  deriving DecidableEq, Repr

/-- What the last `DISPATCH.X` of an exchange slot leaves for the `COMBINE.X` of that slot: its member set, the home
of each expert, and the count records of its members (R134, R145; log entry 18). -/
structure XSlot where
  slot : Nat
  members : List Nat
  home : List Nat
  rowBytes : Nat
  /-- Rows sent to each member. -/
  sent : List (Nat × Nat)
  /-- Rows received for each expert. -/
  held : List Nat
  deriving DecidableEq, Repr

/-- The Collective Engine's state beyond its registers. -/
structure Col where
  colls : List Coll
  xchgs : List Xchg
  /-- Aborts recorded for collectives not yet entered: group, CSEQ, reason, culprit (R387). -/
  early : List (Nat × Nat × Nat × Nat)
  slots : List XSlot
  deriving DecidableEq, Repr

/-- The Scheduler's state beyond its registers. -/
structure Sched where
  /-- The job whose turn it is, and the job last served, by engine (R406). -/
  turn : List (Option Nat)
  last : List Nat
  /-- The start of the period in progress of each latency-critical stream, and its length (R400, R546). -/
  periods : List Nat
  /-- Round-robin position of acceptance (R75). -/
  rr : Nat
  /-- Settings in force for latency-critical streams (R546). -/
  inForce : List (Nat × Word)
  /-- GLB_TIME of the last heat epoch, survey interval and retrain slot. -/
  heatAt : Nat
  surveyAt : Nat
  slotAt : Nat
  /-- Residency entries copied into the local stores: entry, version, first page, pages, offset in the store (R416). -/
  copied : List (Nat × Nat × Nat × Nat × Nat)
  deriving DecidableEq, Repr

/-- A trig point in progress or waiting for its signature (R435, R436). -/
structure Trig where
  base : Nat
  pages : List Nat
  header : List Byte
  sigOff : Nat
  digest : List Byte
  signing : Bool
  deriving DecidableEq, Repr

/-- The RRU's state beyond its registers. -/
structure Rru where
  /-- The newest error record: kind, unit, address, time, slot (R421). -/
  newest : Option (Nat × Nat × Nat × Nat × Nat)
  /-- Cores fenced and awaiting a patch: physical core, time of the fence, patch requested. -/
  patching : List (Nat × Nat × Bool)
  /-- The task of the run or block that each of them held, for its record (R420). -/
  faultSeq : List (Nat × Nat)
  /-- Uncorrectable local-store words: core, word, time (R422). -/
  localUe : List (Nat × Nat × Nat)
  /-- Mesh resends: link and time (R422). -/
  meshResends : List (Nat × Nat)
  /-- Dirty pages of tracked regions (R434). -/
  dirty : List Nat
  trig : Option Trig
  /-- Earlier trig records whose signature is still to be added, oldest first (R436). -/
  unsigned : List Trig
  /-- A region digest in progress (R442). -/
  digesting : Option Nat
  deriving DecidableEq, Repr

/-- The 48 V input, as VIN_SAMPLE follows it; counts are in samples of 1 µs (R444, R445). -/
structure Vin where
  mv : Int
  /-- The stage runs and the device is powered. -/
  powered : Bool
  above40 : Nat
  good : Nat
  below36 : Nat
  below33 : Nat
  above72 : Nat
  /-- The excursion in progress: samples below 38 V, samples above 60 V, samples back inside, lowest, highest. -/
  excursion : Bool
  below38 : Nat
  above60 : Nat
  inside : Nat
  low : Nat
  high : Nat
  /-- A surge quench: the stage stops when it ends, and waits for VIN below 58 V for 10 ms. -/
  surgeStop : Bool
  below58 : Nat
  deriving DecidableEq, Repr

/-- Peaks, heat, stakes and the quench (R446 to R458). -/
structure Power where
  /-- Samples above TDP in the last 10 ms, newest first, by time. -/
  overs : List Nat
  /-- Units by which a spent allowance reduces the pool, and when one was last withdrawn (R457). -/
  peakCut : Nat
  cutAt : Nat
  above1700 : Nat
  belowTdp : Nat
  peakGate : Bool
  /-- 0 none, 1 Warning, 2 Throttle, 3 Emergency, 4 Trip; the thresholds entered, in tenths of a degree (R458). -/
  level : Nat
  emergencyAt : Option Nat
  heatCut : Nat
  /-- Units granted in the last 1 µs, with their times (R455). -/
  ramp : List (Nat × Nat)
  requests : List StakeReq
  /-- The quench: running or complete, its aborted tasks counted. -/
  quenching : Bool
  stopped : Bool
  /-- Voltage trim of each island, in steps of 5 mV (R450). -/
  trims : List (Nat × Int)
  deriving DecidableEq, Repr

/-- Clocks, reset and start-up (R461 to R468, R523, R524). -/
structure Startup where
  /-- Power-on reset has not ended: GLB_TIME stands at 0. -/
  porActive : Bool
  resetLow : Bool
  refclk : Bool
  /-- ns since the trigger of the start-up in progress. -/
  timer : Nat
  /-- The stage is up: phase 1 is complete (R466, R523). -/
  stageDone : Bool
  /-- The value of `timer` when phase 6 began. -/
  portsAt : Nat
  /-- A darning migration to restart in phase 5, and the regions that it leaves undefined (R258, R433). -/
  darnRestart : Option (Nat × List Nat)
  deriving DecidableEq, Repr

/-- What the Security Unit signs after start-up, in its order of priority (R481). -/
inductive Signer
  | segment
  | trig
  | attest
  deriving DecidableEq, Repr

/-- The Security Unit beyond its registers. -/
structure Sec where
  /-- SVN_FUSE: the fused minimum (R472). -/
  svnFuse : Nat
  /-- Flash bytes written since manufacture, over the factory contents (R480, R522). -/
  flash : List Host.Cell
  /-- Draws of the entropy source so far; key pairs generated; identity signatures with an index. -/
  draws : Nat
  kemPairs : Nat
  credential : List Byte
  credSig : List Byte
  svnTarget : Option Nat
  recovery : Option (Nat × Nat × Bool)
  flashing : Option (Nat × Nat)
  attest : Option (Nat × List Byte)
  /-- The signature that is being made (R481). -/
  signer : Option Signer
  deriving DecidableEq, Repr

/-- The Odord link beyond its registers (R490 to R504). -/
structure Odl where
  rxSeq : Nat
  txSeq : Nat
  /-- Flits sent and not acknowledged: number, bytes, times resent (R492). -/
  replay : List (Nat × List Byte × Nat)
  replays : List Nat
  downSince : Option Nat
  failed : Nat
  lastBeat : Nat
  /-- The coherent-window bytes the device holds dirty, by device address, and their lines (R496). -/
  dirty : List Host.Cell
  dirtyLines : List Nat
  /-- Vectors signalled since their bit was cleared, and the time of each vector's last message (R500). -/
  sent : List Nat
  lastMsg : List (Nat × Nat)
  /-- Payloads taken from flits, oldest first. -/
  taken : List (List Byte)
  deriving DecidableEq, Repr

/-- The management interfaces (R505 to R512). -/
structure Mgmt where
  dynAddr : Option (BitVec 7)
  ibiOn : Bool
  offset : Nat
  statuses : Nat
  /-- PMBus: module address, faults latched and still active, readings. -/
  pmAddr : Nat
  commFault : Bool
  uvFault : Bool
  ovFault : Bool
  readings : Readings
  /-- JTAG: the instruction in force, the boundary register, and whether pins are driven from it. -/
  jtag : Nat
  boundary : List Bool
  driving : Bool
  deriving DecidableEq, Repr

/-- What the block emitted during the last command, for the outside world to see. -/
inductive Out where
  | readData (v : Word)
  | bytes (bs : List Byte) (poisoned : List Nat)
  | message (vector : Nat)
  | frame (port : Nat) (f : Frame)
  | retryRequest (port : Nat) (fseq : Nat)
  /-- The device's own identity message to the partner of a port in training (R295): device ID, ID validity, port
  number, variant code, and whether the port can encrypt. -/
  | identity (port device : Nat) (valid : Bool) (own variant : Nat) (encrypts : Bool)
  | control (port : Nat) (bs : List Byte)
  | flit (bs : List Byte)
  | replayRequest (fseq : Nat)
  | ibi (data : Byte)
  | i3c (bs : List Byte)
  | pmbus (bs : List Byte)
  | nack
  | jtag (bs : List Bool)
  deriving DecidableEq, Repr

/-- The machine. `regs` lists the registers that differ from their reset values, by the register-space offset of
each 32-bit or 64-bit word; `mem` lists the bytes that differ from 0, by device address; `poison` lists poisoned
64-byte lines; each list is strictly ascending. -/
structure State where
  variant : Variant
  regs : List (Nat × Word)
  /-- The latched high halves of 64-bit registers, by the offset of the register (R14). -/
  latch : List (Nat × BitVec 32)
  /-- The base registers of device areas that software has written since the last reset, by offset (R230, log entry
  13). -/
  named : List Nat
  time : Nat
  mem : List Host.Cell
  poison : List Nat
  pages : List PageRec
  pubs : List Publish
  tasks : List Task
  /-- Slots that the Command Engine has read and deferred, one for a stream at most (R73, R83, R439). -/
  deferred : List Task
  journal : Journal
  sched : Sched
  runs : List Run
  parts : List Part
  cores : List CoreSt
  vblocks : List VBlock
  guards : List (Nat × Nat × Nat)
  /-- The decision items that guard slices held when the Activation Guard was asked to halt, and still hold (R217). -/
  guardHeld : List (Nat × Nat × Nat)
  /-- Neuron tiles skipped: task, expert, token block, tile (R205). -/
  skips : List (Nat × Nat × Nat × Nat)
  hbm : Hbm
  /-- PROG_MIB in force: its value when the Cadastre last ran (R224, R261). -/
  progMib : Nat
  ports : List Port
  inject : List Pkt
  rx : List Pkt
  /-- The epoch that was current when the switch halted, while it is halted (R321). -/
  haltEpoch : Option Nat
  rme : Rme
  col : Col
  rru : Rru
  vin : Vin
  power : Power
  startup : Startup
  sec : Sec
  odl : Odl
  mgmt : Mgmt
  /-- Free values drawn so far (log entry 5; a field of the model). -/
  free : Nat
  /-- What the last command emitted (log entry 8). -/
  out : List Out
  /-- The commands that wait, first in, first out (log entry 1). -/
  pending : List Instr
  deriving DecidableEq, Repr

/-- The reasons for a fault. -/
inductive Fault where
  /-- Raised by no command: every access of the block that the spec forbids has an effect of its own (a discarded
  write, a poisoned line, a refusal of the task). Safe. -/
  | none_
  deriving DecidableEq, Repr

/-- The reasons for a refusal. -/
inductive Refusal where
  /-- A command without a meaning in the model. Safe. -/
  | notModelled (mnemonic : String)
  deriving DecidableEq, Repr

/-- The journal after a reset. -/
def Journal.reset : Journal where
  opened := false
  count := 0
  firstSeq := 0
  firstTime := 0
  predChain := 0
  signing := []
  reserveUsed := 0
  waiting := []

/-- The Scheduler after a reset. -/
def Sched.reset : Sched where
  turn := [none, none, none, none, none, none, none, none]
  last := [63, 63, 63, 63, 63, 63, 63, 63]
  periods := []
  rr := 63
  inForce := []
  heatAt := 0
  surveyAt := 0
  slotAt := 0
  copied := []

/-- The Stack Memory Subsystem after power-on reset. -/
def Hbm.reset : Hbm where
  corrected := []
  uncorrected := []
  rows := []
  spares := []
  repairs := []
  due := []
  urgent := []
  training := []
  margining := []
  sweeps := []
  trim := []
  fails := []
  dies := []
  trainedBase := []
  trainedAt := []
  fenced := []
  failed := []
  darnTable := []
  darnCopied := 0
  darnMarked := []
  darning := none
  closing := false
  rinsePeriod := 0
  rinsed := []
  refreshed := []
  hot := false
  routed := []

/-- A port after a reset. -/
def Port.reset (n : Nat) : Port where
  num := n
  txSeq := 0
  rxSeq := 0
  txStream := []
  lastVc := 5
  retry := []
  discarding := false
  partialBytes := []
  usedReserve := [0, 0, 0, 0, 0, 0, 0, 0]
  usedPool := [0, 0, 0, 0, 0, 0, 0, 0]
  inbuf := []
  owed := [0, 0, 0, 0, 0, 0, 0, 0]
  retries := []
  tagFails := []
  failedTrains := 0
  upSince := none
  keys := none
  peerCred := []
  ownCt := []
  ownSecret := []
  nextKeys := none
  rekeying := false
  keyIdx := false
  rxIdx := false
  wasUp := false
  retrain := false
  sRetries := 0
  sCorrected := 0
  sCells := [0, 0, 0, 0, 0, 0, 0, 0]
  sPeak := 0
  sDetours := 0
  sDrops := 0

/-- The RME after a reset. -/
def Rme.reset : Rme where
  xfers := []
  nextSn := [0, 0, 0, 0, 0, 0, 0, 0]
  rr := 7
  window := []
  floors := []
  fans := []
  postedFailed := []
  stageUsed := 0

/-- The RRU after a reset. -/
def Rru.reset : Rru where
  newest := none
  patching := []
  faultSeq := []
  localUe := []
  meshResends := []
  dirty := []
  trig := none
  unsigned := []
  digesting := none

/-- The input stage just after it has started: VIN has stayed at 48 V for 5 ms (R445; log entry 4). -/
def Vin.reset : Vin where
  mv := 48000
  powered := true
  above40 := 5000
  good := 5000
  below36 := 0
  below33 := 0
  above72 := 0
  excursion := false
  below38 := 0
  above60 := 0
  inside := 0
  low := 48000
  high := 48000
  surgeStop := false
  below58 := 0

/-- The power controller after a reset. -/
def Power.reset : Power where
  overs := []
  peakCut := 0
  cutAt := 0
  above1700 := 0
  belowTdp := 0
  peakGate := false
  level := 0
  emergencyAt := none
  heatCut := 0
  ramp := []
  requests := []
  quenching := false
  stopped := false
  trims := []

/-- Start-up at the beginning of a power-on reset. -/
def Startup.reset : Startup where
  porActive := true
  resetLow := false
  refclk := true
  timer := 0
  stageDone := false
  portsAt := 0
  darnRestart := none

/-- The Security Unit after power-on reset. -/
def Sec.reset : Sec where
  svnFuse := 0
  flash := []
  draws := 0
  kemPairs := 0
  credential := []
  credSig := []
  svnTarget := none
  recovery := none
  flashing := none
  attest := none
  signer := none

/-- The Odord link after a reset. -/
def Odl.reset : Odl where
  rxSeq := 0
  txSeq := 0
  replay := []
  replays := []
  downSince := none
  failed := 0
  lastBeat := 0
  dirty := []
  dirtyLines := []
  sent := []
  lastMsg := []
  taken := []

/-- The readings before the first update (log entry 4). -/
def readingsZero : Readings where
  vin := 0
  iin := 0
  vout := 0
  iout := 0
  temp := 0
  pout := 0
  pin := 0
  inrush := false

/-- The management interfaces after power-on reset. -/
def Mgmt.reset : Mgmt where
  dynAddr := none
  ibiOn := false
  offset := 0
  statuses := 0
  pmAddr := 0x43
  commFault := false
  uvFault := false
  ovFault := false
  readings := readingsZero
  jtag := 0
  boundary := []
  driving := false

/-- The machine at the beginning of a power-on reset: the 48 V stage has started and start-up is in phase 1
(R462, R466). Every register holds its reset value, memory lists nothing, and no command waits. -/
def State.reset : State where
  variant := .fd880
  regs := []
  latch := []
  named := []
  time := 0
  mem := []
  poison := []
  pages := []
  pubs := []
  tasks := []
  deferred := []
  journal := Journal.reset
  sched := Sched.reset
  runs := []
  parts := []
  cores := []
  vblocks := []
  guards := []
  guardHeld := []
  skips := []
  hbm := Hbm.reset
  progMib := 2
  ports := []
  inject := []
  rx := []
  haltEpoch := none
  rme := Rme.reset
  col := ⟨[], [], [], []⟩
  rru := Rru.reset
  vin := Vin.reset
  power := Power.reset
  startup := Startup.reset
  sec := Sec.reset
  odl := Odl.reset
  mgmt := Mgmt.reset
  free := 0
  out := []
  pending := []

end Sys2Proof.Machine
end

