-- ==== Sys2Proof/Machine/RegMap.lean ====
section
/-! DEFINITION. The register map: the register-space offset of every register word (R533 and the register tables
of each chapter), and one row for each with its width, owning function, access codes and reset value. -/

namespace Sys2Proof.Machine

open Sys2Proof

/-- GLB_IDENTITY (R536). -/
abbrev regGlbIdentity : Nat := 0x0

/-- GLB_CAPABILITY (R536). -/
abbrev regGlbCapability : Nat := 0x10

/-- GLB_CAPABILITY_HI (R536). -/
abbrev regGlbCapabilityHi : Nat := 0x18

/-- GLB_PARTITION (R537). -/
abbrev regGlbPartition : Nat := 0x20

/-- GLB_TIME (R8). -/
abbrev regGlbTime : Nat := 0x40

/-- GLB_ISLANDS (R27). -/
abbrev regGlbIslands : Nat := 0x80

/-- GLB_NUMERICS (R45). -/
abbrev regGlbNumerics : Nat := 0x90

/-- GLB_STARTUP (R471). -/
abbrev regGlbStartup : Nat := 0xa0

/-- GLB_RESET (R471). -/
abbrev regGlbReset : Nat := 0xa8

/-- CMD_STATUS (R105). -/
abbrev regCmdStatus : Nat := 0x100000

/-- CMD_CONTROL (R105). -/
abbrev regCmdControl : Nat := 0x100008

/-- CMD_OWNER_EPOCH (R105). -/
abbrev regCmdOwnerEpoch : Nat := 0x100010

/-- CMD_JOURNAL_BASE (R105). -/
abbrev regCmdJournalBase : Nat := 0x100020

/-- CMD_JOURNAL_LOG2 (R105). -/
abbrev regCmdJournalLog2 : Nat := 0x100028

/-- CMD_JOURNAL_HEAD (R105). -/
abbrev regCmdJournalHead : Nat := 0x100030

/-- CMD_JOURNAL_TAIL (R105). -/
abbrev regCmdJournalTail : Nat := 0x100038

/-- CMD_JOURNAL_CHAIN (R105). -/
abbrev regCmdJournalChain (i : Nat) : Nat := 0x100040 + 0x8 * i

/-- CMD_JSIG_BASE (R105). -/
abbrev regCmdJsigBase : Nat := 0x100050

/-- CMD_JSIG_COUNT (R105). -/
abbrev regCmdJsigCount : Nat := 0x100058

/-- CMD_JSIG_HEAD (R105). -/
abbrev regCmdJsigHead : Nat := 0x100060

/-- CMD_JSIG_TAIL (R105). -/
abbrev regCmdJsigTail : Nat := 0x100068

/-- CMD_JOURNAL_CLOSED (R105). -/
abbrev regCmdJournalClosed : Nat := 0x100070

/-- CMD_EVENT_ADD (R105). -/
abbrev regCmdEventAdd : Nat := 0x100100

/-- CMD_STRM_BASE (R105). -/
abbrev regCmdStrmBase (i : Nat) : Nat := 0x101000 + 0x40 * i

/-- CMD_STRM_CTRL (R105). -/
abbrev regCmdStrmCtrl (i : Nat) : Nat := 0x101008 + 0x40 * i

/-- CMD_STRM_DTAB (R105). -/
abbrev regCmdStrmDtab (i : Nat) : Nat := 0x101010 + 0x40 * i

/-- CMD_STRM_TAIL (R105). -/
abbrev regCmdStrmTail (i : Nat) : Nat := 0x101018 + 0x40 * i

/-- CMD_STRM_HEAD (R105). -/
abbrev regCmdStrmHead (i : Nat) : Nat := 0x101020 + 0x40 * i

/-- CMD_STRM_RETIRE (R105). -/
abbrev regCmdStrmRetire (i : Nat) : Nat := 0x101024 + 0x40 * i

/-- CMD_STRM_STATUS (R105). -/
abbrev regCmdStrmStatus (i : Nat) : Nat := 0x101028 + 0x40 * i

/-- CMD_EVENT (R105). -/
abbrev regCmdEvent (i : Nat) : Nat := 0x108000 + 0x8 * i

/-- SCH_STATUS (R419). -/
abbrev regSchStatus : Nat := 0x200000

/-- SCH_CTRL (R419). -/
abbrev regSchCtrl : Nat := 0x200008

/-- SCH_CTX_BASE (R419). -/
abbrev regSchCtxBase : Nat := 0x200010

/-- SCH_CTX_SLOTS (R419). -/
abbrev regSchCtxSlots : Nat := 0x200018

/-- SCH_CTX_USED (R419). -/
abbrev regSchCtxUsed : Nat := 0x200020

/-- SCH_PREEMPTS (R419). -/
abbrev regSchPreempts : Nat := 0x200028

/-- SCH_CTX_FALLBACK (R419). -/
abbrev regSchCtxFallback : Nat := 0x200030

/-- SCH_LC_OVERRUNS (R419). -/
abbrev regSchLcOverruns : Nat := 0x200038

/-- SCH_BE_OVERRUNS (R419). -/
abbrev regSchBeOverruns : Nat := 0x200040

/-- SCH_LC (R419). -/
abbrev regSchLc (i : Nat) : Nat := 0x201000 + 0x8 * i

/-- SCH_LC_REMAIN (R419). -/
abbrev regSchLcRemain (i : Nat) : Nat := 0x201200 + 0x8 * i

/-- SCH_JOB (R419). -/
abbrev regSchJob (i : Nat) : Nat := 0x202000 + 0x8 * i

/-- SCH_SHARE_ACCT (R419). -/
abbrev regSchShareAcct (i : Nat) : Nat := 0x204000 + 0x8 * i

/-- SCH_DEFICIT (R419). -/
abbrev regSchDeficit (i : Nat) : Nat := 0x206000 + 0x8 * i

/-- SCH_RESIDENT (R419). -/
abbrev regSchResident (i : Nat) : Nat := 0x208000 + 0x10 * i

/-- SCH_RESIDENT_HI (R419). -/
abbrev regSchResidentHi (i : Nat) : Nat := 0x208008 + 0x10 * i

/-- SCU_STATUS (R149). -/
abbrev regScuStatus : Nat := 0x300000

/-- SCU_TOKENS (R149). -/
abbrev regScuTokens : Nat := 0x300008

/-- SCU_NAN_TOKENS (R149). -/
abbrev regScuNanTokens : Nat := 0x300010

/-- SCU_ZERO_DENOM (R149). -/
abbrev regScuZeroDenom : Nat := 0x300018

/-- DSO_STATUS (R149). -/
abbrev regDsoStatus : Nat := 0x301000

/-- DSO_CTRL (R149). -/
abbrev regDsoCtrl : Nat := 0x301008

/-- DSO_PAIRS (R149). -/
abbrev regDsoPairs : Nat := 0x301010

/-- DSO_HAMPER_PEAK (R149). -/
abbrev regDsoHamperPeak : Nat := 0x301018

/-- DSO_SEGMENTS (R149). -/
abbrev regDsoSegments : Nat := 0x301020

/-- DSO_DIR_TOKENS (R149). -/
abbrev regDsoDirTokens : Nat := 0x301028

/-- DSO_DIR_WEIGHTS (R149). -/
abbrev regDsoDirWeights : Nat := 0x301030

/-- DSO_WSTAGE_FALLBACK (R149). -/
abbrev regDsoWstageFallback : Nat := 0x301038

/-- CMB_STATUS (R149). -/
abbrev regCmbStatus : Nat := 0x302000

/-- CMB_TAG_FAULTS (R149). -/
abbrev regCmbTagFaults : Nat := 0x302008

/-- CMB_FAULT_TAG (R149). -/
abbrev regCmbFaultTag : Nat := 0x302010

/-- CMB_FAULT_INFO (R149). -/
abbrev regCmbFaultInfo : Nat := 0x302018

/-- CORE_MAP (R186). -/
abbrev regCoreMap (i : Nat) : Nat := 0x400000 + 0x1000 * i

/-- CORE_STATUS (R186). -/
abbrev regCoreStatus (i : Nat) : Nat := 0x400008 + 0x1000 * i

/-- CORE_CTRL (R186). -/
abbrev regCoreCtrl (i : Nat) : Nat := 0x400010 + 0x1000 * i

/-- CORE_ARRAY_CYCLES (R186). -/
abbrev regCoreArrayCycles (i : Nat) : Nat := 0x400020 + 0x1000 * i

/-- CORE_DRY_CYCLES (R186). -/
abbrev regCoreDryCycles (i : Nat) : Nat := 0x400028 + 0x1000 * i

/-- CORE_DRAIN_CYCLES (R186). -/
abbrev regCoreDrainCycles (i : Nat) : Nat := 0x400030 + 0x1000 * i

/-- CORE_STAKE_CYCLES (R186). -/
abbrev regCoreStakeCycles (i : Nat) : Nat := 0x400038 + 0x1000 * i

/-- CORE_TILES (R186). -/
abbrev regCoreTiles (i : Nat) : Nat := 0x400040 + 0x1000 * i

/-- CORE_RUNS (R186). -/
abbrev regCoreRuns (i : Nat) : Nat := 0x400048 + 0x1000 * i

/-- CORE_GATED (R186). -/
abbrev regCoreGated (i : Nat) : Nat := 0x400050 + 0x1000 * i

/-- CORE_IRONED (R186). -/
abbrev regCoreIroned (i : Nat) : Nat := 0x400058 + 0x1000 * i

/-- CORE_SELFTEST (R186). -/
abbrev regCoreSelftest (i : Nat) : Nat := 0x400080 + 0x1000 * i

/-- CORE_ARRAY_STATUS (R187). -/
abbrev regCoreArrayStatus : Nat := 0x580000

/-- CORE_TILE_CTRL (R187). -/
abbrev regCoreTileCtrl : Nat := 0x580008

/-- CORE_TILE_PENDING (R187). -/
abbrev regCoreTilePending : Nat := 0x580010

/-- CORE_RERUNS (R187). -/
abbrev regCoreReruns : Nat := 0x580018

/-- PRU_STATUS (R216). -/
abbrev regPruStatus : Nat := 0x5c0000

/-- PRU_BLOCKS (R216). -/
abbrev regPruBlocks : Nat := 0x5c0008

/-- PRU_REPAIRS (R216). -/
abbrev regPruRepairs : Nat := 0x5c0010

/-- PRU_PACKED (R216). -/
abbrev regPruPacked : Nat := 0x5c0018

/-- PRU_ERRORS (R216). -/
abbrev regPruErrors : Nat := 0x5c0020

/-- AGD_STATUS (R217). -/
abbrev regAgdStatus : Nat := 0x5e0000

/-- AGD_CTRL (R217). -/
abbrev regAgdCtrl : Nat := 0x5e0008

/-- AGD_DECIDED (R217). -/
abbrev regAgdDecided : Nat := 0x5e0010

/-- AGD_SKIP_PLUMB (R217). -/
abbrev regAgdSkipPlumb : Nat := 0x5e0018

/-- AGD_SKIP_SPEC (R217). -/
abbrev regAgdSkipSpec : Nat := 0x5e0020

/-- AGD_PASSES_SKIPPED (R217). -/
abbrev regAgdPassesSkipped : Nat := 0x5e0028

/-- AGD_UNPROVEN (R217). -/
abbrev regAgdUnproven : Nat := 0x5e0030

/-- AGD_SPEC_DENIED (R217). -/
abbrev regAgdSpecDenied : Nat := 0x5e0038

/-- CAD_STATUS (R261). -/
abbrev regCadStatus : Nat := 0x600000

/-- NST_CTRL (R261). -/
abbrev regNstCtrl : Nat := 0x600008

/-- CAD_CTRL (R261). -/
abbrev regCadCtrl : Nat := 0x600010

/-- CAD_TABLE_BASE (R261). -/
abbrev regCadTableBase : Nat := 0x600018

/-- CAD_PROMOTIONS (R261). -/
abbrev regCadPromotions : Nat := 0x600020

/-- CAD_EVICTIONS (R261). -/
abbrev regCadEvictions : Nat := 0x600028

/-- CAD_FRAMES_USED (R261). -/
abbrev regCadFramesUsed : Nat := 0x600030

/-- CAD_FRAME_ERRORS (R261). -/
abbrev regCadFrameErrors : Nat := 0x600038

/-- CAD_WREGION (R261). -/
abbrev regCadWregion (i : Nat) : Nat := 0x601000 + 0x10 * i

/-- CAD_WREGION_HI (R261). -/
abbrev regCadWregionHi (i : Nat) : Nat := 0x601008 + 0x10 * i

/-- CAD_IMAGE (R261). -/
abbrev regCadImage (i : Nat) : Nat := 0x604000 + 0x8 * i

/-- SMS_STATUS (R262). -/
abbrev regSmsStatus : Nat := 0x7c0000

/-- SMS_NEAR_UNITS (R262). -/
abbrev regSmsNearUnits : Nat := 0x7c0008

/-- SMS_LIMIT (R262). -/
abbrev regSmsLimit : Nat := 0x7c0010

/-- SMS_ALLOC_LIMIT (R262). -/
abbrev regSmsAllocLimit : Nat := 0x7c0018

/-- SMS_DARN (R262). -/
abbrev regSmsDarn : Nat := 0x7c0020

/-- SMS_DARNED (R262). -/
abbrev regSmsDarned (i : Nat) : Nat := 0x7c0028 + 0x8 * i

/-- SMS_RETRAIN (R262). -/
abbrev regSmsRetrain : Nat := 0x7c0038

/-- SMS_RINSE (R262). -/
abbrev regSmsRinse : Nat := 0x7c0040

/-- SMS_CTRL (R262). -/
abbrev regSmsCtrl : Nat := 0x7c0048

/-- SMS_RETRAIN_REQ (R262). -/
abbrev regSmsRetrainReq (i : Nat) : Nat := 0x7c0050 + 0x8 * i

/-- SMS_MARGIN_REQ (R262). -/
abbrev regSmsMarginReq (i : Nat) : Nat := 0x7c0080 + 0x8 * i

/-- SMS_DARN_REQ (R262). -/
abbrev regSmsDarnReq : Nat := 0x7c00b0

/-- SMS_CH_CORRECTED (R262). -/
abbrev regSmsChCorrected (ch : Nat) : Nat := 0x701000 + 0x10000 * (ch / 32) + 0x40 * (ch % 32)

/-- SMS_CH_UNCORRECTED (R262). -/
abbrev regSmsChUncorrected (ch : Nat) : Nat := 0x701008 + 0x10000 * (ch / 32) + 0x40 * (ch % 32)

/-- SMS_CH_REPAIRS (R262). -/
abbrev regSmsChRepairs (ch : Nat) : Nat := 0x701010 + 0x10000 * (ch / 32) + 0x40 * (ch % 32)

/-- SMS_CH_RETRAINS (R262). -/
abbrev regSmsChRetrains (ch : Nat) : Nat := 0x701018 + 0x10000 * (ch / 32) + 0x40 * (ch % 32)

/-- SMS_CH_MARGIN (R262). -/
abbrev regSmsChMargin (ch : Nat) : Nat := 0x701020 + 0x10000 * (ch / 32) + 0x40 * (ch % 32)

/-- MSH_STATUS (R539). -/
abbrev regMshStatus : Nat := 0x800000

/-- MSH_RESENDS (R539). -/
abbrev regMshResends : Nat := 0x800008

/-- MSH_LAST_LINK (R539). -/
abbrev regMshLastLink : Nat := 0x800010

/-- NSW_STATUS (R330). -/
abbrev regNswStatus : Nat := 0x900000

/-- NSW_DEVICE_ID (R330). -/
abbrev regNswDeviceId : Nat := 0x900008

/-- NSW_EPOCH (R330). -/
abbrev regNswEpoch : Nat := 0x900010

/-- NSW_RETIRE (R330). -/
abbrev regNswRetire : Nat := 0x900018

/-- NSW_EPOCH_OUT (R330). -/
abbrev regNswEpochOut (i : Nat) : Nat := 0x900020 + 0x8 * i

/-- NSW_EPOCH_IN (R330). -/
abbrev regNswEpochIn (i : Nat) : Nat := 0x900030 + 0x8 * i

/-- NSW_DROPS (R330). -/
abbrev regNswDrops : Nat := 0x900040

/-- NSW_STALE (R330). -/
abbrev regNswStale : Nat := 0x900048

/-- NSW_SURVEY_CTRL (R330). -/
abbrev regNswSurveyCtrl : Nat := 0x900050

/-- NSW_SURVEY_BASE (R330). -/
abbrev regNswSurveyBase : Nat := 0x900058

/-- NSW_SURVEY_HEAD (R330). -/
abbrev regNswSurveyHead : Nat := 0x900060

/-- NSW_SURVEY_TAIL (R330). -/
abbrev regNswSurveyTail : Nat := 0x900068

/-- NSW_ROUTE (R330). -/
abbrev regNswRoute (i : Nat) : Nat := 0x940000 + 0x8 * i

/-- FPT_PORT_STATUS (R331). -/
abbrev regFptPortStatus (i : Nat) : Nat := 0xa00000 + 0x1000 * i

/-- FPT_PORT_CTRL (R331). -/
abbrev regFptPortCtrl (i : Nat) : Nat := 0xa00008 + 0x1000 * i

/-- FPT_PORT_PEER (R331). -/
abbrev regFptPortPeer (i : Nat) : Nat := 0xa00010 + 0x1000 * i

/-- FPT_FLIGHT (R331). -/
abbrev regFptFlight (i : Nat) : Nat := 0xa00018 + 0x1000 * i

/-- FPT_FEC_CORRECTED (R331). -/
abbrev regFptFecCorrected (i : Nat) : Nat := 0xa00020 + 0x1000 * i

/-- FPT_FEC_UNCORRECTED (R331). -/
abbrev regFptFecUncorrected (i : Nat) : Nat := 0xa00028 + 0x1000 * i

/-- FPT_RETRIES (R331). -/
abbrev regFptRetries (i : Nat) : Nat := 0xa00030 + 0x1000 * i

/-- FPT_DEGRADED_EVENTS (R331). -/
abbrev regFptDegradedEvents (i : Nat) : Nat := 0xa00038 + 0x1000 * i

/-- FPT_TAG_FAILS (R331). -/
abbrev regFptTagFails (i : Nat) : Nat := 0xa00040 + 0x1000 * i

/-- FPT_TRAININGS (R331). -/
abbrev regFptTrainings (i : Nat) : Nat := 0xa00048 + 0x1000 * i

/-- FPT_STATUS (R331). -/
abbrev regFptStatus : Nat := 0xa20000

/-- RME_STATUS (R364). -/
abbrev regRmeStatus : Nat := 0xb00000

/-- RME_CTRL (R364). -/
abbrev regRmeCtrl : Nat := 0xb00008

/-- RME_PACKETS_OUT (R364). -/
abbrev regRmePacketsOut : Nat := 0xb00010

/-- RME_RETRIES (R364). -/
abbrev regRmeRetries : Nat := 0xb00018

/-- RME_TIMEOUTS (R364). -/
abbrev regRmeTimeouts : Nat := 0xb00020

/-- RME_REPLAY_HITS (R364). -/
abbrev regRmeReplayHits : Nat := 0xb00028

/-- RME_STALE (R364). -/
abbrev regRmeStale : Nat := 0xb00030

/-- RME_BUSY (R364). -/
abbrev regRmeBusy : Nat := 0xb00038

/-- RME_PRESSED (R364). -/
abbrev regRmePressed : Nat := 0xb00040

/-- RME_POSTED_FAILS (R364). -/
abbrev regRmePostedFails : Nat := 0xb00048

/-- RME_FAULT_INFO (R364). -/
abbrev regRmeFaultInfo : Nat := 0xb00050

/-- RME_FAULT_ADDR (R364). -/
abbrev regRmeFaultAddr : Nat := 0xb00058

/-- RME_QUEUE_OUT (R364). -/
abbrev regRmeQueueOut (i : Nat) : Nat := 0xb00100 + 0x8 * i

/-- RME_SEND_WINDOW (R335). -/
abbrev regRmeSendWindow (i : Nat) : Nat := 0xb01000 + 0x10 * i

/-- RME_SEND_WINDOW_HI (R335). -/
abbrev regRmeSendWindowHi (i : Nat) : Nat := 0xb01008 + 0x10 * i

/-- COL_STATUS (R395). -/
abbrev regColStatus : Nat := 0xc00000

/-- COL_CTRL (R395). -/
abbrev regColCtrl : Nat := 0xc00008

/-- COL_ENTERED (R395). -/
abbrev regColEntered : Nat := 0xc00018

/-- COL_ABORTS (R395). -/
abbrev regColAborts : Nat := 0xc00020

/-- COL_SEAM_FAULTS (R395). -/
abbrev regColSeamFaults : Nat := 0xc00028

/-- COL_TIMEOUTS (R395). -/
abbrev regColTimeouts : Nat := 0xc00030

/-- COL_LAG_COUNT (R395). -/
abbrev regColLagCount : Nat := 0xc00038

/-- COL_DISCARDS (R395). -/
abbrev regColDiscards : Nat := 0xc00040

/-- COL_STEP_BASE (R395). -/
abbrev regColStepBase : Nat := 0xc00048

/-- COL_STEP_SLOTS (R395). -/
abbrev regColStepSlots : Nat := 0xc00050

/-- COL_STEP_HEAD (R395). -/
abbrev regColStepHead : Nat := 0xc00058

/-- COL_STEP_TAIL (R395). -/
abbrev regColStepTail : Nat := 0xc00060

/-- COL_ABORT_INFO (R395). -/
abbrev regColAbortInfo : Nat := 0xc00080

/-- COL_XSEQ (R395). -/
abbrev regColXseq (i : Nat) : Nat := 0xc00200 + 0x8 * i

/-- COL_GROUP (R395). -/
abbrev regColGroup (i : Nat) : Nat := 0xc10000 + 0x20 * i

/-- COL_GROUP_W1 (R395). -/
abbrev regColGroupW1 (i : Nat) : Nat := 0xc10008 + 0x20 * i

/-- COL_GROUP_W2 (R395). -/
abbrev regColGroupW2 (i : Nat) : Nat := 0xc10010 + 0x20 * i

/-- COL_GROUP_W3 (R395). -/
abbrev regColGroupW3 (i : Nat) : Nat := 0xc10018 + 0x20 * i

/-- COL_GROUP_CSEQ (R395). -/
abbrev regColGroupCseq (i : Nat) : Nat := 0xc30000 + 0x8 * i

/-- ODL_STATUS (R513). -/
abbrev regOdlStatus : Nat := 0xd00000

/-- ODL_CTRL (R513). -/
abbrev regOdlCtrl : Nat := 0xd00008

/-- ODL_CW_BASE (R513). -/
abbrev regOdlCwBase : Nat := 0xd00010

/-- ODL_IRQ_ADDR (R513). -/
abbrev regOdlIrqAddr : Nat := 0xd00018

/-- ODL_IRQ_PENDING (R513). -/
abbrev regOdlIrqPending (i : Nat) : Nat := 0xd00020 + 0x8 * i

/-- ODL_IRQ_MASK (R513). -/
abbrev regOdlIrqMask (i : Nat) : Nat := 0xd00030 + 0x8 * i

/-- ODL_HEARTBEAT (R513). -/
abbrev regOdlHeartbeat : Nat := 0xd00040

/-- ODL_REPLAYS (R513). -/
abbrev regOdlReplays : Nat := 0xd00048

/-- ODL_RETRAINS (R513). -/
abbrev regOdlRetrains : Nat := 0xd00050

/-- ODL_CW_DIRTY (R513). -/
abbrev regOdlCwDirty : Nat := 0xd00058

/-- ODL_LOSS_TIME (R513). -/
abbrev regOdlLossTime : Nat := 0xd00060

/-- PWR_STATUS (R470). -/
abbrev regPwrStatus : Nat := 0xe00000

/-- PWR_CTRL (R470). -/
abbrev regPwrCtrl : Nat := 0xe00008

/-- PWR_POOL (R470). -/
abbrev regPwrPool : Nat := 0xe00010

/-- PWR_GRANTED (R470). -/
abbrev regPwrGranted : Nat := 0xe00018

/-- PWR_INPUT (R470). -/
abbrev regPwrInput : Nat := 0xe00020

/-- PWR_TEMP (R470). -/
abbrev regPwrTemp : Nat := 0xe00028

/-- PWR_STAKE_WAIT_NS (R470). -/
abbrev regPwrStakeWaitNs : Nat := 0xe00030

/-- PWR_THROTTLE_NS (R470). -/
abbrev regPwrThrottleNs : Nat := 0xe00038

/-- PWR_EMERG_NS (R470). -/
abbrev regPwrEmergNs : Nat := 0xe00040

/-- PWR_PEAK_EVENTS (R470). -/
abbrev regPwrPeakEvents : Nat := 0xe00048

/-- PWR_EXCURSIONS (R470). -/
abbrev regPwrExcursions : Nat := 0xe00050

/-- PWR_QUENCH_RECORD (R470). -/
abbrev regPwrQuenchRecord (i : Nat) : Nat := 0xe00080 + 0x8 * i

/-- RRU_STATUS (R443). -/
abbrev regRruStatus : Nat := 0xf00000

/-- RRU_CTRL (R443). -/
abbrev regRruCtrl : Nat := 0xf00008

/-- RRU_ERR_BASE (R443). -/
abbrev regRruErrBase : Nat := 0xf00010

/-- RRU_ERR_SLOTS (R443). -/
abbrev regRruErrSlots : Nat := 0xf00018

/-- RRU_ERR_HEAD (R443). -/
abbrev regRruErrHead : Nat := 0xf00020

/-- RRU_ERR_TAIL (R443). -/
abbrev regRruErrTail : Nat := 0xf00028

/-- RRU_LOG_BASE (R443). -/
abbrev regRruLogBase : Nat := 0xf00030

/-- RRU_LOG_LOG2 (R443). -/
abbrev regRruLogLog2 : Nat := 0xf00038

/-- RRU_LOG_HEAD (R443). -/
abbrev regRruLogHead : Nat := 0xf00040

/-- RRU_LOG_TAIL (R443). -/
abbrev regRruLogTail : Nat := 0xf00048

/-- RRU_LAST_SEQ (R443). -/
abbrev regRruLastSeq : Nat := 0xf00050

/-- RRU_LAST_CHAIN (R443). -/
abbrev regRruLastChain (i : Nat) : Nat := 0xf00058 + 0x8 * i

/-- RRU_INCOMPLETE (R443). -/
abbrev regRruIncomplete : Nat := 0xf00068

/-- RRU_DARN_OPEN (R443). -/
abbrev regRruDarnOpen : Nat := 0xf00070

/-- RRU_RESETS (R443). -/
abbrev regRruResets : Nat := 0xf00078

/-- RRU_TRIG_BASE (R443). -/
abbrev regRruTrigBase : Nat := 0xf00080

/-- RRU_TRIG_SIZE (R443). -/
abbrev regRruTrigSize : Nat := 0xf00088

/-- RRU_TRIG_CTRL (R443). -/
abbrev regRruTrigCtrl : Nat := 0xf00090

/-- RRU_TRIG_COUNT (R443). -/
abbrev regRruTrigCount : Nat := 0xf00098

/-- RRU_TRIG_REGIONS (R443). -/
abbrev regRruTrigRegions (i : Nat) : Nat := 0xf000a0 + 0x8 * i

/-- RRU_RESTORE (R443). -/
abbrev regRruRestore : Nat := 0xf000c0

/-- RRU_RESTORE_DIGEST (R443). -/
abbrev regRruRestoreDigest (i : Nat) : Nat := 0xf000c8 + 0x8 * i

/-- RRU_DIGEST_REQ (R443). -/
abbrev regRruDigestReq : Nat := 0xf000e8

/-- RRU_DIGEST_OUT (R443). -/
abbrev regRruDigestOut (i : Nat) : Nat := 0xf000f0 + 0x8 * i

/-- RRU_PATCH (R443). -/
abbrev regRruPatch : Nat := 0xf00110

/-- RRU_CONTROL (R443). -/
abbrev regRruControl : Nat := 0xf00118

/-- RRU_CORE_EXCLUDE (R443). -/
abbrev regRruCoreExclude (i : Nat) : Nat := 0xf00120 + 0x8 * i

/-- RRU_CORE_LOST (R443). -/
abbrev regRruCoreLost (i : Nat) : Nat := 0xf00140 + 0x8 * i

/-- RRU_ENGINE_FENCE (R443). -/
abbrev regRruEngineFence : Nat := 0xf00160

/-- RRU_AFFECTED_REGIONS (R443). -/
abbrev regRruAffectedRegions (i : Nat) : Nat := 0xf00168 + 0x8 * i

/-- RRU_COUNT (R443). -/
abbrev regRruCount (i : Nat) : Nat := 0xf00200 + 0x8 * i

/-- SEC_STATUS (R489). -/
abbrev regSecStatus : Nat := 0x1000000

/-- SEC_BOOT (R489). -/
abbrev regSecBoot : Nat := 0x1000008

/-- SEC_FW_DIGEST (R489). -/
abbrev regSecFwDigest (i : Nat) : Nat := 0x1000010 + 0x8 * i

/-- SEC_IDENTITY_PK (R489). -/
abbrev regSecIdentityPk (i : Nat) : Nat := 0x1000030 + 0x8 * i

/-- SEC_SVN (R489). -/
abbrev regSecSvn : Nat := 0x1000070

/-- SEC_SVN_COMMIT (R489). -/
abbrev regSecSvnCommit : Nat := 0x1000078

/-- SEC_RECOVERY_SRC (R489). -/
abbrev regSecRecoverySrc : Nat := 0x1000080

/-- SEC_RECOVERY_CTRL (R489). -/
abbrev regSecRecoveryCtrl : Nat := 0x1000088

/-- SEC_FLASH_SRC (R489). -/
abbrev regSecFlashSrc : Nat := 0x1000090

/-- SEC_FLASH_CTRL (R489). -/
abbrev regSecFlashCtrl : Nat := 0x1000098

/-- SEC_ATTEST_BASE (R489). -/
abbrev regSecAttestBase : Nat := 0x10000a0

/-- SEC_ATTEST_CTRL (R489). -/
abbrev regSecAttestCtrl : Nat := 0x10000a8

/-- SEC_ATTEST_NONCE (R489). -/
abbrev regSecAttestNonce (i : Nat) : Nat := 0x10000b0 + 0x8 * i

/-- SEC_SIGNATURES (R489). -/
abbrev regSecSignatures : Nat := 0x10000d0

/-- SEC_AUTH_FAILS (R489). -/
abbrev regSecAuthFails : Nat := 0x10000d8

/-- SEC_PORT_PEER (R489). -/
abbrev regSecPortPeer (i : Nat) : Nat := 0x1001000 + 0x20 * i

/-- SEC_PORT_PEER_HI (R489). -/
abbrev regSecPortPeerHi (i : Nat) : Nat := 0x1001008 + 0x20 * i

/-- SEC_PORT_EXPECT (R489). -/
abbrev regSecPortExpect (i : Nat) : Nat := 0x1001010 + 0x20 * i

/-- SEC_PORT_EXPECT_HI (R489). -/
abbrev regSecPortExpectHi (i : Nat) : Nat := 0x1001018 + 0x20 * i

/-- SEC_CERT (R489). -/
abbrev regSecCert (i : Nat) : Nat := 0x1010000 + 0x8 * i

/-- STW_ALERT (R514). -/
abbrev regStwAlert : Nat := 0x1100100

/-- One row of the register map: `count2` groups of `count` words, each `width` bits wide; the masks of the bits
written by software at any time (RW), only while the owner is halted (WH), cleared by writing 1 (W1C) and kept
through every reset but power-off (RS); and the reset values of the two variants. `owner` is the function
number of R276, or 16 where there is none. -/
structure RegRow where
  base : Nat
  width : Nat
  owner : Nat
  rw : Nat
  wh : Nat
  w1c : Nat
  rs : Nat
  r880 : Nat
  r860 : Nat
  stride : Nat := 2 ^ 40
  count : Nat := 1
  stride2 : Nat := 2 ^ 41
  count2 : Nat := 1
  deriving DecidableEq, Repr

/-- The rows of the Glb block. -/
def regRowsGlb : List RegRow :=
  [⟨0, 64, 16, 0, 0, 0, 0, 0x4845088088010100, 0x4845086086010100, 2 ^ 40, 1, 2 ^ 41, 1⟩,
   ⟨0x10, 64, 16, 0, 0, 0, 0, 0xffffffffffffffa0, 0xff0ff6db7bdef80, 2 ^ 40, 1, 2 ^ 41, 1⟩,
   ⟨0x18, 64, 16, 0, 0, 0, 0, 0xe000030020400800, 0x6000020020400800, 2 ^ 40, 1, 2 ^ 41, 1⟩,
   ⟨0x20, 32, 0, 0, 1, 0, 0, 0, 1, 2 ^ 40, 1, 2 ^ 41, 1⟩,
   ⟨0x40, 64, 16, 0, 0, 0, 0, 0, 0, 2 ^ 40, 1, 2 ^ 41, 1⟩,
   ⟨0x80, 64, 16, 0, 0, 0, 0, 0, 0, 2 ^ 40, 1, 2 ^ 41, 1⟩,
   ⟨0x90, 64, 0, 0, 1, 0, 0, 0x1000000, 0x1000000, 2 ^ 40, 1, 2 ^ 41, 1⟩,
   ⟨0xa0, 32, 16, 0, 0, 0, 0, 1, 1, 2 ^ 40, 1, 2 ^ 41, 1⟩,
   ⟨0xa8, 32, 16, 0xc0000000, 0, 0, 0, 0, 0, 2 ^ 40, 1, 2 ^ 41, 1⟩]

/-- The rows of the Cmd block. -/
def regRowsCmd : List RegRow :=
  [⟨0x100000, 32, 0, 0, 0, 4, 0, 2, 2, 2 ^ 40, 1, 2 ^ 41, 1⟩,
   ⟨0x100008, 32, 0, 3, 0, 0, 0, 0, 0, 2 ^ 40, 1, 2 ^ 41, 1⟩,
   ⟨0x100010, 32, 0, 0xffffffff, 0, 0, 0, 0, 0, 2 ^ 40, 1, 2 ^ 41, 1⟩,
   ⟨0x100020, 64, 0, 0, 0xffffffffffffffff, 0, 0, 0, 0, 2 ^ 40, 1, 2 ^ 41, 1⟩,
   ⟨0x100028, 32, 0, 0, 0xffffffff, 0, 0, 0x10, 0x10, 2 ^ 40, 1, 2 ^ 41, 1⟩,
   ⟨0x100030, 64, 0, 0, 0, 0, 0, 0, 0, 2 ^ 40, 1, 2 ^ 41, 1⟩,
   ⟨0x100038, 64, 0, 0xffffffffffffffff, 0, 0, 0, 0, 0, 2 ^ 40, 1, 2 ^ 41, 1⟩,
   ⟨0x100040, 64, 0, 0, 0, 0, 0, 0, 0, 0x8, 2, 2 ^ 41, 1⟩,
   ⟨0x100050, 64, 0, 0, 0xffffffffffffffff, 0, 0, 0, 0, 2 ^ 40, 1, 2 ^ 41, 1⟩,
   ⟨0x100058, 32, 0, 0, 0xffffffff, 0, 0, 0x10, 0x10, 2 ^ 40, 1, 2 ^ 41, 1⟩,
   ⟨0x100060, 64, 0, 0, 0, 0, 0, 0, 0, 2 ^ 40, 1, 2 ^ 41, 1⟩,
   ⟨0x100068, 64, 0, 0xffffffffffffffff, 0, 0, 0, 0, 0, 2 ^ 40, 1, 2 ^ 41, 1⟩,
   ⟨0x100070, 64, 0, 0, 0, 0, 0, 0, 0, 2 ^ 40, 1, 2 ^ 41, 1⟩,
   ⟨0x100100, 64, 0, 0x7ffffffffff, 0, 0, 0, 0, 0, 2 ^ 40, 1, 2 ^ 41, 1⟩,
   ⟨0x101000, 64, 0, 0, 0xffffffffffffffff, 0, 0, 0, 0, 0x40, 64, 2 ^ 41, 1⟩,
   ⟨0x101008, 64, 0, 0, 0xffffffff1fff1f03, 0, 0, 0x10600, 0x10600, 0x40, 64, 2 ^ 41, 1⟩,
   ⟨0x101010, 64, 0, 0, 0xffffffffffffffff, 0, 0, 0, 0, 0x40, 64, 2 ^ 41, 1⟩,
   ⟨0x101018, 64, 0, 0xffffffffffffffff, 0, 0, 0, 0, 0, 0x40, 64, 2 ^ 41, 1⟩,
   ⟨0x101020, 32, 0, 0, 0, 0, 0, 0, 0, 0x40, 64, 2 ^ 41, 1⟩,
   ⟨0x101024, 32, 0, 0, 0, 0, 0, 0, 0, 0x40, 64, 2 ^ 41, 1⟩,
   ⟨0x101028, 32, 0, 0, 0, 0xe, 0, 1, 1, 0x40, 64, 2 ^ 41, 1⟩,
   ⟨0x108000, 64, 0, 0, 0, 0, 0, 0, 0, 0x8, 2048, 2 ^ 41, 1⟩]

/-- The rows of the Sch block. -/
def regRowsSch : List RegRow :=
  [⟨0x200000, 32, 1, 0, 0, 0x94, 0, 0, 0, 2 ^ 40, 1, 2 ^ 41, 1⟩,
   ⟨0x200008, 64, 1, 0, 0xffffffffffc0ff0f, 0, 0, 0x640032e1001f00, 0x640032e1001f00, 2 ^ 40, 1, 2 ^ 41, 1⟩,
   ⟨0x200010, 64, 1, 0, 0xffffffffffffffff, 0, 0, 0, 0, 2 ^ 40, 1, 2 ^ 41, 1⟩,
   ⟨0x200018, 32, 1, 0, 0x1ff, 0, 0, 0x40, 0x40, 2 ^ 40, 1, 2 ^ 41, 1⟩,
   ⟨0x200020, 32, 1, 0, 0, 0, 0, 0, 0, 2 ^ 40, 1, 2 ^ 41, 1⟩,
   ⟨0x200028, 64, 1, 0, 0, 0, 0, 0, 0, 2 ^ 40, 1, 2 ^ 41, 1⟩,
   ⟨0x200030, 64, 1, 0, 0, 0, 0, 0, 0, 2 ^ 40, 1, 2 ^ 41, 1⟩,
   ⟨0x200038, 64, 1, 0, 0, 0, 0, 0, 0, 2 ^ 40, 1, 2 ^ 41, 1⟩,
   ⟨0x200040, 64, 1, 0, 0, 0, 0, 0, 0, 2 ^ 40, 1, 2 ^ 41, 1⟩,
   ⟨0x201000, 64, 1, 0, 0xffffffffffffffff, 0, 0, 0x3e800000000, 0x3e800000000, 0x8, 64, 2 ^ 41, 1⟩,
   ⟨0x201200, 64, 1, 0, 0, 0, 0, 0, 0, 0x8, 64, 2 ^ 41, 1⟩,
   ⟨0x202000, 32, 1, 0, 0xff, 0, 0, 1, 1, 0x8, 64, 2 ^ 41, 1⟩,
   ⟨0x204000, 64, 1, 0, 0, 0, 0, 0, 0, 0x8, 512, 2 ^ 41, 1⟩,
   ⟨0x206000, 64, 1, 0, 0, 0, 0, 0, 0, 0x8, 512, 2 ^ 41, 1⟩,
   ⟨0x208000, 64, 1, 0, 0xffffffffffffffff, 0, 0, 0, 0, 0x10, 64, 2 ^ 41, 1⟩,
   ⟨0x208008, 64, 1, 0, 0xe7ff0000ffffffff, 0, 0, 0, 0, 0x10, 64, 2 ^ 41, 1⟩]

/-- The rows of the Routing block. -/
def regRowsRouting : List RegRow :=
  [⟨0x300000, 32, 2, 0, 0, 4, 0, 0, 0, 2 ^ 40, 1, 2 ^ 41, 1⟩,
   ⟨0x300008, 64, 2, 0, 0, 0, 0, 0, 0, 2 ^ 40, 1, 2 ^ 41, 1⟩,
   ⟨0x300010, 64, 2, 0, 0, 0, 0, 0, 0, 2 ^ 40, 1, 2 ^ 41, 1⟩,
   ⟨0x300018, 64, 2, 0, 0, 0, 0, 0, 0, 2 ^ 40, 1, 2 ^ 41, 1⟩,
   ⟨0x301000, 32, 3, 0, 0, 4, 0, 0, 0, 2 ^ 40, 1, 2 ^ 41, 1⟩,
   ⟨0x301008, 32, 3, 0, 0xffff000d, 0, 0, 0x100001, 0x100001, 2 ^ 40, 1, 2 ^ 41, 1⟩,
   ⟨0x301010, 64, 3, 0, 0, 0, 0, 0, 0, 2 ^ 40, 1, 2 ^ 41, 1⟩,
   ⟨0x301018, 32, 3, 0x80000000, 0, 0, 0, 0, 0, 2 ^ 40, 1, 2 ^ 41, 1⟩,
   ⟨0x301020, 64, 3, 0, 0, 0, 0, 0, 0, 2 ^ 40, 1, 2 ^ 41, 1⟩,
   ⟨0x301028, 64, 3, 0, 0, 0, 0, 0, 0, 2 ^ 40, 1, 2 ^ 41, 1⟩,
   ⟨0x301030, 64, 3, 0, 0, 0, 0, 0, 0, 2 ^ 40, 1, 2 ^ 41, 1⟩,
   ⟨0x301038, 64, 3, 0, 0, 0, 0, 0, 0, 2 ^ 40, 1, 2 ^ 41, 1⟩,
   ⟨0x302000, 32, 4, 0, 0, 4, 0, 0, 0, 2 ^ 40, 1, 2 ^ 41, 1⟩,
   ⟨0x302008, 64, 4, 0, 0, 0, 0, 0, 0, 2 ^ 40, 1, 2 ^ 41, 1⟩,
   ⟨0x302010, 64, 4, 0, 0, 0, 0, 0, 0, 2 ^ 40, 1, 2 ^ 41, 1⟩,
   ⟨0x302018, 32, 4, 0, 0, 0, 0, 0, 0, 2 ^ 40, 1, 2 ^ 41, 1⟩]

/-- The rows of the Core block. -/
def regRowsCore : List RegRow :=
  [⟨0x400000, 32, 5, 0, 0, 0, 0, 0, 0, 0x1000, 180, 2 ^ 41, 1⟩,
   ⟨0x400008, 32, 5, 0, 0, 0, 0, 0, 0, 0x1000, 180, 2 ^ 41, 1⟩,
   ⟨0x400010, 32, 5, 0, 1, 0, 0, 1, 1, 0x1000, 180, 2 ^ 41, 1⟩,
   ⟨0x400020, 64, 5, 0, 0, 0, 0, 0, 0, 0x1000, 180, 2 ^ 41, 1⟩,
   ⟨0x400028, 64, 5, 0, 0, 0, 0, 0, 0, 0x1000, 180, 2 ^ 41, 1⟩,
   ⟨0x400030, 64, 5, 0, 0, 0, 0, 0, 0, 0x1000, 180, 2 ^ 41, 1⟩,
   ⟨0x400038, 64, 5, 0, 0, 0, 0, 0, 0, 0x1000, 180, 2 ^ 41, 1⟩,
   ⟨0x400040, 64, 5, 0, 0, 0, 0, 0, 0, 0x1000, 180, 2 ^ 41, 1⟩,
   ⟨0x400048, 64, 5, 0, 0, 0, 0, 0, 0, 0x1000, 180, 2 ^ 41, 1⟩,
   ⟨0x400050, 64, 5, 0, 0, 0, 0, 0, 0, 0x1000, 180, 2 ^ 41, 1⟩,
   ⟨0x400058, 64, 5, 0, 0, 0, 0, 0, 0, 0x1000, 180, 2 ^ 41, 1⟩,
   ⟨0x400080, 32, 5, 0, 0, 0, 0, 0, 0, 0x1000, 180, 2 ^ 41, 1⟩,
   ⟨0x580000, 32, 5, 0, 0, 4, 0, 0, 0, 2 ^ 40, 1, 2 ^ 41, 1⟩,
   ⟨0x580008, 32, 5, 0, 1, 0, 0, 0, 0, 2 ^ 40, 1, 2 ^ 41, 1⟩,
   ⟨0x580010, 32, 5, 0, 0, 0, 0, 0, 0, 2 ^ 40, 1, 2 ^ 41, 1⟩,
   ⟨0x580018, 64, 5, 0, 0, 0, 0, 0, 0, 2 ^ 40, 1, 2 ^ 41, 1⟩,
   ⟨0x5c0000, 32, 6, 0, 0, 0, 0, 0, 0, 2 ^ 40, 1, 2 ^ 41, 1⟩,
   ⟨0x5c0008, 64, 6, 0, 0, 0, 0, 0, 0, 2 ^ 40, 1, 2 ^ 41, 1⟩,
   ⟨0x5c0010, 64, 6, 0, 0, 0, 0, 0, 0, 2 ^ 40, 1, 2 ^ 41, 1⟩,
   ⟨0x5c0018, 64, 6, 0, 0, 0, 0, 0, 0, 2 ^ 40, 1, 2 ^ 41, 1⟩,
   ⟨0x5c0020, 64, 6, 0, 0, 0, 0, 0, 0, 2 ^ 40, 1, 2 ^ 41, 1⟩,
   ⟨0x5e0000, 32, 7, 0, 0, 4, 0, 0, 0, 2 ^ 40, 1, 2 ^ 41, 1⟩,
   ⟨0x5e0008, 32, 7, 0, 1, 0, 0, 0, 0, 2 ^ 40, 1, 2 ^ 41, 1⟩,
   ⟨0x5e0010, 64, 7, 0, 0, 0, 0, 0, 0, 2 ^ 40, 1, 2 ^ 41, 1⟩,
   ⟨0x5e0018, 64, 7, 0, 0, 0, 0, 0, 0, 2 ^ 40, 1, 2 ^ 41, 1⟩,
   ⟨0x5e0020, 64, 7, 0, 0, 0, 0, 0, 0, 2 ^ 40, 1, 2 ^ 41, 1⟩,
   ⟨0x5e0028, 64, 7, 0, 0, 0, 0, 0, 0, 2 ^ 40, 1, 2 ^ 41, 1⟩,
   ⟨0x5e0030, 64, 7, 0, 0, 0, 0, 0, 0, 2 ^ 40, 1, 2 ^ 41, 1⟩,
   ⟨0x5e0038, 64, 7, 0, 0, 0, 0, 0, 0, 2 ^ 40, 1, 2 ^ 41, 1⟩]

/-- The rows of the Cad block. -/
def regRowsCad : List RegRow :=
  [⟨0x600000, 32, 8, 0, 0, 0xc, 0, 0, 0, 2 ^ 40, 1, 2 ^ 41, 1⟩,
   ⟨0x600008, 32, 8, 0, 0xf, 0, 0, 2, 2, 2 ^ 40, 1, 2 ^ 41, 1⟩,
   ⟨0x600010, 64, 8, 0, 0xffffffff9fff03ff, 0, 0, 0x80004810003e8, 0x80004810003e8, 2 ^ 40, 1, 2 ^ 41, 1⟩,
   ⟨0x600018, 64, 8, 0, 0xffffffffffffffff, 0, 0, 0, 0, 2 ^ 40, 1, 2 ^ 41, 1⟩,
   ⟨0x600020, 64, 8, 0, 0, 0, 0, 0, 0, 2 ^ 40, 1, 2 ^ 41, 1⟩,
   ⟨0x600028, 64, 8, 0, 0, 0, 0, 0, 0, 2 ^ 40, 1, 2 ^ 41, 1⟩,
   ⟨0x600030, 32, 8, 0, 0, 0, 0, 0, 0, 2 ^ 40, 1, 2 ^ 41, 1⟩,
   ⟨0x600038, 64, 8, 0, 0, 0, 0, 0, 0, 2 ^ 40, 1, 2 ^ 41, 1⟩,
   ⟨0x601000, 64, 8, 0, 0x8000000000ffffff, 0, 0, 0, 0, 0x10, 256, 2 ^ 41, 1⟩,
   ⟨0x601008, 64, 8, 0, 0xffffffff, 0, 0, 0, 0, 0x10, 256, 2 ^ 41, 1⟩,
   ⟨0x604000, 64, 8, 0, 0, 0, 0, 0, 0, 0x8, 512, 2 ^ 41, 1⟩]

/-- The rows of the Sms block. -/
def regRowsSms : List RegRow :=
  [⟨0x7c0000, 32, 9, 0, 0, 0xc, 0, 0, 0, 2 ^ 40, 1, 2 ^ 41, 1⟩,
   ⟨0x7c0008, 32, 9, 0, 0x3f, 0, 0x3f, 0x10, 0x10, 2 ^ 40, 1, 2 ^ 41, 1⟩,
   ⟨0x7c0010, 64, 9, 0, 0, 0, 0, 0, 0, 2 ^ 40, 1, 2 ^ 41, 1⟩,
   ⟨0x7c0018, 64, 9, 0, 0, 0, 0, 0, 0, 2 ^ 40, 1, 2 ^ 41, 1⟩,
   ⟨0x7c0020, 32, 9, 0, 0xf, 0, 0xf000f, 2, 2, 2 ^ 40, 1, 2 ^ 41, 1⟩,
   ⟨0x7c0028, 64, 9, 0, 0, 0, 0xffffffffffffffff, 0xffffffffffffffff, 0xffffffffffffffff, 0x8, 2, 2 ^ 41, 1⟩,
   ⟨0x7c0038, 32, 9, 0, 0xffff03ff, 0, 0, 0x4000064, 0x4000064, 2 ^ 40, 1, 2 ^ 41, 1⟩,
   ⟨0x7c0040, 32, 9, 0, 0xff, 0, 0, 0x18, 0x18, 2 ^ 40, 1, 2 ^ 41, 1⟩,
   ⟨0x7c0048, 32, 9, 0, 0xff000003, 0, 1, 0x8000000, 0x8000000, 2 ^ 40, 1, 2 ^ 41, 1⟩,
   ⟨0x7c0050, 64, 9, 0xffffffffffffffff, 0, 0, 0, 0, 0, 0x8, 6, 2 ^ 41, 1⟩,
   ⟨0x7c0080, 64, 9, 0xffffffffffffffff, 0, 0, 0, 0, 0, 0x8, 6, 2 ^ 41, 1⟩,
   ⟨0x7c00b0, 32, 9, 0x8000ffff, 0, 0, 0, 0, 0, 2 ^ 40, 1, 2 ^ 41, 1⟩,
   ⟨0x701000, 64, 9, 0, 0, 0, 0, 0, 0, 0x40, 32, 0x10000, 12⟩,
   ⟨0x701008, 64, 9, 0, 0, 0, 0, 0, 0, 0x40, 32, 0x10000, 12⟩,
   ⟨0x701010, 32, 9, 0, 0, 0, 0, 0, 0, 0x40, 32, 0x10000, 12⟩,
   ⟨0x701018, 32, 9, 0, 0, 0, 0, 0, 0, 0x40, 32, 0x10000, 12⟩,
   ⟨0x701020, 64, 9, 0, 0, 0, 0, 0, 0, 0x40, 32, 0x10000, 12⟩]

/-- The rows of the Msh block. -/
def regRowsMsh : List RegRow :=
  [⟨0x800000, 32, 16, 0, 0, 0, 0, 0, 0, 2 ^ 40, 1, 2 ^ 41, 1⟩,
   ⟨0x800008, 64, 16, 0, 0, 0, 0, 0, 0, 2 ^ 40, 1, 2 ^ 41, 1⟩,
   ⟨0x800010, 32, 16, 0, 0, 0, 0, 0, 0, 2 ^ 40, 1, 2 ^ 41, 1⟩]

/-- The rows of the Nsw block. -/
def regRowsNsw : List RegRow :=
  [⟨0x900000, 32, 10, 0, 0, 0xc04, 0, 0, 0, 2 ^ 40, 1, 2 ^ 41, 1⟩,
   ⟨0x900008, 32, 10, 0, 0x80003fff, 0, 0, 0, 0, 2 ^ 40, 1, 2 ^ 41, 1⟩,
   ⟨0x900010, 32, 10, 0, 0xff, 0, 0, 0, 0, 2 ^ 40, 1, 2 ^ 41, 1⟩,
   ⟨0x900018, 32, 10, 1, 0, 0, 0, 0, 0, 2 ^ 40, 1, 2 ^ 41, 1⟩,
   ⟨0x900020, 64, 10, 0, 0, 0, 0, 0, 0, 0x8, 2, 2 ^ 41, 1⟩,
   ⟨0x900030, 64, 10, 0, 0, 0, 0, 0, 0, 0x8, 2, 2 ^ 41, 1⟩,
   ⟨0x900040, 64, 10, 0, 0, 0, 0, 0, 0, 2 ^ 40, 1, 2 ^ 41, 1⟩,
   ⟨0x900048, 64, 10, 0, 0, 0, 0, 0, 0, 2 ^ 40, 1, 2 ^ 41, 1⟩,
   ⟨0x900050, 64, 10, 0, 0xfffdffff0000ffff, 0, 0, 0x400000003e8, 0x400000003e8, 2 ^ 40, 1, 2 ^ 41, 1⟩,
   ⟨0x900058, 64, 10, 0, 0xffffffffffffffff, 0, 0, 0, 0, 2 ^ 40, 1, 2 ^ 41, 1⟩,
   ⟨0x900060, 64, 10, 0, 0, 0, 0, 0, 0, 2 ^ 40, 1, 2 ^ 41, 1⟩,
   ⟨0x900068, 64, 10, 0xffffffffffffffff, 0, 0, 0, 0, 0, 2 ^ 40, 1, 2 ^ 41, 1⟩,
   ⟨0x940000, 64, 10, 0xfffffffff0000000, 0, 0, 0, 0, 0, 0x8, 32768, 2 ^ 41, 1⟩]

/-- The rows of the Fpt block. -/
def regRowsFpt : List RegRow :=
  [⟨0xa00000, 32, 11, 0, 0, 0x1a, 0, 0, 0, 0x1000, 24, 2 ^ 41, 1⟩,
   ⟨0xa00008, 32, 11, 0, 0xe00007ff, 0, 0, 0x8000003c, 0x8000003c, 0x1000, 24, 2 ^ 41, 1⟩,
   ⟨0xa00010, 32, 11, 0, 0, 0, 0, 0, 0, 0x1000, 24, 2 ^ 41, 1⟩,
   ⟨0xa00018, 32, 11, 0, 0, 0, 0, 0, 0, 0x1000, 24, 2 ^ 41, 1⟩,
   ⟨0xa00020, 64, 11, 0, 0, 0, 0, 0, 0, 0x1000, 24, 2 ^ 41, 1⟩,
   ⟨0xa00028, 64, 11, 0, 0, 0, 0, 0, 0, 0x1000, 24, 2 ^ 41, 1⟩,
   ⟨0xa00030, 64, 11, 0, 0, 0, 0, 0, 0, 0x1000, 24, 2 ^ 41, 1⟩,
   ⟨0xa00038, 64, 11, 0, 0, 0, 0, 0, 0, 0x1000, 24, 2 ^ 41, 1⟩,
   ⟨0xa00040, 64, 11, 0, 0, 0, 0, 0, 0, 0x1000, 24, 2 ^ 41, 1⟩,
   ⟨0xa00048, 32, 11, 0, 0, 0, 0, 0, 0, 0x1000, 24, 2 ^ 41, 1⟩,
   ⟨0xa20000, 32, 11, 0, 0, 4, 0, 0, 0, 2 ^ 40, 1, 2 ^ 41, 1⟩]

/-- The rows of the Rme block. -/
def regRowsRme : List RegRow :=
  [⟨0xb00000, 32, 12, 0, 0, 0xc, 0, 0, 0, 2 ^ 40, 1, 2 ^ 41, 1⟩,
   ⟨0xb00008, 64, 12, 0, 0xfffffffff0000001, 0, 0, 0x64003230000001, 0x64003230000001, 2 ^ 40, 1, 2 ^ 41, 1⟩,
   ⟨0xb00010, 64, 12, 0, 0, 0, 0, 0, 0, 2 ^ 40, 1, 2 ^ 41, 1⟩,
   ⟨0xb00018, 64, 12, 0, 0, 0, 0, 0, 0, 2 ^ 40, 1, 2 ^ 41, 1⟩,
   ⟨0xb00020, 64, 12, 0, 0, 0, 0, 0, 0, 2 ^ 40, 1, 2 ^ 41, 1⟩,
   ⟨0xb00028, 64, 12, 0, 0, 0, 0, 0, 0, 2 ^ 40, 1, 2 ^ 41, 1⟩,
   ⟨0xb00030, 64, 12, 0, 0, 0, 0, 0, 0, 2 ^ 40, 1, 2 ^ 41, 1⟩,
   ⟨0xb00038, 64, 12, 0, 0, 0, 0, 0, 0, 2 ^ 40, 1, 2 ^ 41, 1⟩,
   ⟨0xb00040, 64, 12, 0, 0, 0, 0, 0, 0, 2 ^ 40, 1, 2 ^ 41, 1⟩,
   ⟨0xb00048, 64, 12, 0, 0, 0, 0, 0, 0, 2 ^ 40, 1, 2 ^ 41, 1⟩,
   ⟨0xb00050, 32, 12, 0, 0, 0, 0, 0, 0, 2 ^ 40, 1, 2 ^ 41, 1⟩,
   ⟨0xb00058, 64, 12, 0, 0, 0, 0, 0, 0, 2 ^ 40, 1, 2 ^ 41, 1⟩,
   ⟨0xb00100, 32, 12, 0, 0, 0, 0, 0, 0, 0x8, 8, 2 ^ 41, 1⟩,
   ⟨0xb01000, 64, 12, 0, 0xffffffffffffffff, 0, 0, 0, 0, 0x10, 256, 2 ^ 41, 1⟩,
   ⟨0xb01008, 64, 12, 0, 0xf9ffffffe0ffffff, 0, 0, 0, 0, 0x10, 256, 2 ^ 41, 1⟩]

/-- The rows of the Col block. -/
def regRowsCol : List RegRow :=
  [⟨0xc00000, 32, 13, 0, 0, 0xc, 0, 0, 0, 2 ^ 40, 1, 2 ^ 41, 1⟩,
   ⟨0xc00008, 64, 13, 0, 0xffffffffffff01ff, 0, 0, 0x3e807d00100, 0x3e807d00100, 2 ^ 40, 1, 2 ^ 41, 1⟩,
   ⟨0xc00018, 64, 13, 0, 0, 0, 0, 0, 0, 2 ^ 40, 1, 2 ^ 41, 1⟩,
   ⟨0xc00020, 64, 13, 0, 0, 0, 0, 0, 0, 2 ^ 40, 1, 2 ^ 41, 1⟩,
   ⟨0xc00028, 64, 13, 0, 0, 0, 0, 0, 0, 2 ^ 40, 1, 2 ^ 41, 1⟩,
   ⟨0xc00030, 64, 13, 0, 0, 0, 0, 0, 0, 2 ^ 40, 1, 2 ^ 41, 1⟩,
   ⟨0xc00038, 64, 13, 0, 0, 0, 0, 0, 0, 2 ^ 40, 1, 2 ^ 41, 1⟩,
   ⟨0xc00040, 64, 13, 0, 0, 0, 0, 0, 0, 2 ^ 40, 1, 2 ^ 41, 1⟩,
   ⟨0xc00048, 64, 13, 0, 0xffffffffffffffff, 0, 0, 0, 0, 2 ^ 40, 1, 2 ^ 41, 1⟩,
   ⟨0xc00050, 32, 13, 0, 0xffffffff, 0, 0, 0x400, 0x400, 2 ^ 40, 1, 2 ^ 41, 1⟩,
   ⟨0xc00058, 64, 13, 0, 0, 0, 0, 0, 0, 2 ^ 40, 1, 2 ^ 41, 1⟩,
   ⟨0xc00060, 64, 13, 0xffffffffffffffff, 0, 0, 0, 0, 0, 2 ^ 40, 1, 2 ^ 41, 1⟩,
   ⟨0xc00080, 64, 13, 0, 0, 0, 0, 0, 0, 2 ^ 40, 1, 2 ^ 41, 1⟩,
   ⟨0xc00200, 32, 13, 0, 0xffffffff, 0, 0, 0, 0, 0x8, 64, 2 ^ 41, 1⟩,
   ⟨0xc10000, 64, 13, 0, 0, 0, 0, 0, 0, 0x20, 4096, 2 ^ 41, 1⟩,
   ⟨0xc10008, 64, 13, 0, 0xffffffff00000000, 0, 0, 0, 0, 0x20, 4096, 2 ^ 41, 1⟩,
   ⟨0xc10010, 64, 13, 0, 0x3fff3fff3fff0000, 0, 0, 0, 0, 0x20, 4096, 2 ^ 41, 1⟩,
   ⟨0xc10018, 64, 13, 0, 0xffff1fffffff7fff, 0, 0, 0, 0, 0x20, 4096, 2 ^ 41, 1⟩,
   ⟨0xc30000, 64, 13, 0, 0, 0, 0, 0, 0, 0x8, 4096, 2 ^ 41, 1⟩]

/-- The rows of the Odl block. -/
def regRowsOdl : List RegRow :=
  [⟨0xd00000, 32, 16, 0, 0, 0x14, 0, 0, 0, 2 ^ 40, 1, 2 ^ 41, 1⟩,
   ⟨0xd00008, 32, 16, 0xffff01ff, 0, 0, 0, 0xa, 0xa, 2 ^ 40, 1, 2 ^ 41, 1⟩,
   ⟨0xd00010, 64, 16, 0xffffffffffffffff, 0, 0, 0, 0, 0, 2 ^ 40, 1, 2 ^ 41, 1⟩,
   ⟨0xd00018, 64, 16, 0xffffffffffffffff, 0, 0, 0, 0, 0, 2 ^ 40, 1, 2 ^ 41, 1⟩,
   ⟨0xd00020, 64, 16, 0, 0, 0xffffffffffffffff, 0, 0, 0, 0x8, 2, 2 ^ 41, 1⟩,
   ⟨0xd00030, 64, 16, 0xffffffffffffffff, 0, 0, 0, 0, 0, 0x8, 2, 2 ^ 41, 1⟩,
   ⟨0xd00040, 32, 16, 0xffffffff, 0, 0, 0, 0, 0, 2 ^ 40, 1, 2 ^ 41, 1⟩,
   ⟨0xd00048, 64, 16, 0, 0, 0, 0, 0, 0, 2 ^ 40, 1, 2 ^ 41, 1⟩,
   ⟨0xd00050, 32, 16, 0, 0, 0, 0, 0, 0, 2 ^ 40, 1, 2 ^ 41, 1⟩,
   ⟨0xd00058, 32, 16, 0, 0, 0, 0, 0, 0, 2 ^ 40, 1, 2 ^ 41, 1⟩,
   ⟨0xd00060, 64, 16, 0, 0, 0, 0, 0, 0, 2 ^ 40, 1, 2 ^ 41, 1⟩]

/-- The rows of the Pwr block. -/
def regRowsPwr : List RegRow :=
  [⟨0xe00000, 32, 14, 0, 0, 0x34, 0, 0, 0, 2 ^ 40, 1, 2 ^ 41, 1⟩,
   ⟨0xe00008, 32, 14, 0x80000000, 0xffff00, 0, 0, 0x5a5f00, 0x5a5f00, 2 ^ 40, 1, 2 ^ 41, 1⟩,
   ⟨0xe00010, 32, 14, 0, 0x1ff, 0, 0, 0xb0, 0x90, 2 ^ 40, 1, 2 ^ 41, 1⟩,
   ⟨0xe00018, 32, 14, 0, 0, 0, 0, 0, 0, 2 ^ 40, 1, 2 ^ 41, 1⟩,
   ⟨0xe00020, 32, 14, 0, 0, 0, 0, 0, 0, 2 ^ 40, 1, 2 ^ 41, 1⟩,
   ⟨0xe00028, 32, 14, 0, 0, 0, 0, 0, 0, 2 ^ 40, 1, 2 ^ 41, 1⟩,
   ⟨0xe00030, 64, 14, 0, 0, 0, 0, 0, 0, 2 ^ 40, 1, 2 ^ 41, 1⟩,
   ⟨0xe00038, 64, 14, 0, 0, 0, 0, 0, 0, 2 ^ 40, 1, 2 ^ 41, 1⟩,
   ⟨0xe00040, 64, 14, 0, 0, 0, 0, 0, 0, 2 ^ 40, 1, 2 ^ 41, 1⟩,
   ⟨0xe00048, 64, 14, 0, 0, 0, 0, 0, 0, 2 ^ 40, 1, 2 ^ 41, 1⟩,
   ⟨0xe00050, 64, 14, 0, 0, 0, 0, 0, 0, 2 ^ 40, 1, 2 ^ 41, 1⟩,
   ⟨0xe00080, 64, 14, 0, 0, 0, 0xffffffffffffffff, 0, 0, 0x8, 8, 2 ^ 41, 1⟩]

/-- The rows of the Rru block. -/
def regRowsRru : List RegRow :=
  [⟨0xf00000, 32, 15, 0, 0, 0x74, 0, 0, 0, 2 ^ 40, 1, 2 ^ 41, 1⟩,
   ⟨0xf00008, 32, 15, 0, 7, 0, 0, 7, 7, 2 ^ 40, 1, 2 ^ 41, 1⟩,
   ⟨0xf00010, 64, 15, 0, 0xffffffffffffffff, 0, 0, 0, 0, 2 ^ 40, 1, 2 ^ 41, 1⟩,
   ⟨0xf00018, 32, 15, 0, 0xffffffff, 0, 0, 0x400, 0x400, 2 ^ 40, 1, 2 ^ 41, 1⟩,
   ⟨0xf00020, 64, 15, 0, 0, 0, 0, 0, 0, 2 ^ 40, 1, 2 ^ 41, 1⟩,
   ⟨0xf00028, 64, 15, 0xffffffffffffffff, 0, 0, 0, 0, 0, 2 ^ 40, 1, 2 ^ 41, 1⟩,
   ⟨0xf00030, 64, 15, 0, 0xffffffffffffffff, 0, 0, 0, 0, 2 ^ 40, 1, 2 ^ 41, 1⟩,
   ⟨0xf00038, 32, 15, 0, 0x3f, 0, 0, 0x1e, 0x1e, 2 ^ 40, 1, 2 ^ 41, 1⟩,
   ⟨0xf00040, 64, 15, 0, 0, 0, 0, 0, 0, 2 ^ 40, 1, 2 ^ 41, 1⟩,
   ⟨0xf00048, 64, 15, 0xffffffffffffffff, 0, 0, 0, 0, 0, 2 ^ 40, 1, 2 ^ 41, 1⟩,
   ⟨0xf00050, 64, 15, 0, 0, 0, 0xffffffffffffffff, 0, 0, 2 ^ 40, 1, 2 ^ 41, 1⟩,
   ⟨0xf00058, 64, 15, 0, 0, 0, 0xffffffffffffffff, 0, 0, 0x8, 2, 2 ^ 41, 1⟩,
   ⟨0xf00068, 64, 15, 0, 0, 0, 0x800000ffffffffff, 0, 0, 2 ^ 40, 1, 2 ^ 41, 1⟩,
   ⟨0xf00070, 32, 15, 0, 0xffff, 0, 0xffff, 0xffff, 0xffff, 2 ^ 40, 1, 2 ^ 41, 1⟩,
   ⟨0xf00078, 32, 15, 0, 0, 0, 0xffffffff, 0, 0, 2 ^ 40, 1, 2 ^ 41, 1⟩,
   ⟨0xf00080, 64, 15, 0, 0xffffffffffffffff, 0, 0, 0, 0, 2 ^ 40, 1, 2 ^ 41, 1⟩,
   ⟨0xf00088, 64, 15, 0, 0xffffffffffffffff, 0, 0, 0, 0, 2 ^ 40, 1, 2 ^ 41, 1⟩,
   ⟨0xf00090, 32, 15, 3, 0, 0, 0, 0, 0, 2 ^ 40, 1, 2 ^ 41, 1⟩,
   ⟨0xf00098, 64, 15, 0, 0, 0, 0, 0, 0, 2 ^ 40, 1, 2 ^ 41, 1⟩,
   ⟨0xf000a0, 64, 15, 0, 0xffffffffffffffff, 0, 0, 0, 0, 0x8, 4, 2 ^ 41, 1⟩,
   ⟨0xf000c0, 64, 15, 0, 0xffffffffffffffff, 0, 0, 0, 0, 2 ^ 40, 1, 2 ^ 41, 1⟩,
   ⟨0xf000c8, 64, 15, 0, 0xffffffffffffffff, 0, 0, 0, 0, 0x8, 4, 2 ^ 41, 1⟩,
   ⟨0xf000e8, 32, 15, 0x800000ff, 0, 0, 0, 0, 0, 2 ^ 40, 1, 2 ^ 41, 1⟩,
   ⟨0xf000f0, 64, 15, 0, 0, 0, 0, 0, 0, 0x8, 4, 2 ^ 41, 1⟩,
   ⟨0xf00110, 32, 15, 0x800000ff, 0, 0, 0, 0, 0, 2 ^ 40, 1, 2 ^ 41, 1⟩,
   ⟨0xf00118, 32, 15, 3, 0, 0, 0, 0, 0, 2 ^ 40, 1, 2 ^ 41, 1⟩,
   ⟨0xf00120, 64, 15, 0, 0, 0xffffffffffffffff, 0xffffffffffffffff, 0, 0, 0x8, 3, 2 ^ 41, 1⟩,
   ⟨0xf00140, 64, 15, 0, 0, 0, 0, 0, 0, 0x8, 3, 2 ^ 41, 1⟩,
   ⟨0xf00160, 32, 15, 0, 0, 0, 0, 0, 0, 2 ^ 40, 1, 2 ^ 41, 1⟩,
   ⟨0xf00168, 64, 15, 0, 0, 0xffffffffffffffff, 0xffffffffffffffff, 0, 0, 0x8, 4, 2 ^ 41, 1⟩,
   ⟨0xf00200, 64, 15, 0, 0, 0, 0, 0, 0, 0x8, 19, 2 ^ 41, 1⟩]

/-- The rows of the Sec block. -/
def regRowsSec : List RegRow :=
  [⟨0x1000000, 32, 16, 0, 0, 0x20, 0, 0, 0, 2 ^ 40, 1, 2 ^ 41, 1⟩,
   ⟨0x1000008, 32, 16, 0, 0, 0, 0, 0, 0, 2 ^ 40, 1, 2 ^ 41, 1⟩,
   ⟨0x1000010, 64, 16, 0, 0, 0, 0, 0, 0, 0x8, 4, 2 ^ 41, 1⟩,
   ⟨0x1000030, 64, 16, 0, 0, 0, 0, 0, 0, 0x8, 8, 2 ^ 41, 1⟩,
   ⟨0x1000070, 32, 16, 0, 0, 0, 0, 0, 0, 2 ^ 40, 1, 2 ^ 41, 1⟩,
   ⟨0x1000078, 32, 16, 1, 0, 0, 0, 0, 0, 2 ^ 40, 1, 2 ^ 41, 1⟩,
   ⟨0x1000080, 64, 16, 0xffffffffffffffff, 0, 0, 0, 0, 0, 2 ^ 40, 1, 2 ^ 41, 1⟩,
   ⟨0x1000088, 32, 16, 0xc1ffffff, 0, 0, 0, 0, 0, 2 ^ 40, 1, 2 ^ 41, 1⟩,
   ⟨0x1000090, 64, 16, 0xffffffffffffffff, 0, 0, 0, 0, 0, 2 ^ 40, 1, 2 ^ 41, 1⟩,
   ⟨0x1000098, 32, 16, 0x81ffffff, 0, 0, 0, 0, 0, 2 ^ 40, 1, 2 ^ 41, 1⟩,
   ⟨0x10000a0, 64, 16, 0xffffffffffffffff, 0, 0, 0, 0, 0, 2 ^ 40, 1, 2 ^ 41, 1⟩,
   ⟨0x10000a8, 32, 16, 0x80000000, 0, 0, 0, 0, 0, 2 ^ 40, 1, 2 ^ 41, 1⟩,
   ⟨0x10000b0, 64, 16, 0xffffffffffffffff, 0, 0, 0, 0, 0, 0x8, 4, 2 ^ 41, 1⟩,
   ⟨0x10000d0, 64, 16, 0, 0, 0, 0, 0, 0, 2 ^ 40, 1, 2 ^ 41, 1⟩,
   ⟨0x10000d8, 64, 16, 0, 0, 0, 0, 0, 0, 2 ^ 40, 1, 2 ^ 41, 1⟩,
   ⟨0x1001000, 64, 16, 0, 0, 0, 0, 0, 0, 0x20, 24, 2 ^ 41, 1⟩,
   ⟨0x1001008, 64, 16, 0, 0, 0, 0, 0, 0, 0x20, 24, 2 ^ 41, 1⟩,
   ⟨0x1001010, 64, 16, 0xffffffffffffffff, 0, 0, 0, 0, 0, 0x20, 24, 2 ^ 41, 1⟩,
   ⟨0x1001018, 64, 16, 0xffffffffffffffff, 0, 0, 0, 0, 0, 0x20, 24, 2 ^ 41, 1⟩,
   ⟨0x1010000, 64, 16, 0, 0, 0, 0, 0, 0, 0x8, 8192, 2 ^ 41, 1⟩]

/-- The rows of the Stw block. -/
def regRowsStw : List RegRow :=
  [⟨0x1100100, 32, 16, 0, 0, 1, 0, 0, 0, 2 ^ 40, 1, 2 ^ 41, 1⟩]

/-- The whole register map. -/
def regTable : List RegRow :=
  regRowsGlb ++ regRowsCmd ++ regRowsSch ++ regRowsRouting ++ regRowsCore ++ regRowsCad ++ regRowsSms ++ regRowsMsh ++ regRowsNsw ++ regRowsFpt ++ regRowsRme ++ regRowsCol ++ regRowsOdl ++ regRowsPwr ++ regRowsRru ++ regRowsSec ++ regRowsStw

/-- The place of an offset in a row, counted over its groups; none when the row does not name it. -/
def RegRow.index (r : RegRow) (off : Nat) : Option Nat :=
  if off < r.base then none
  else
    let d := off - r.base
    let g := d / r.stride2
    let x := d % r.stride2
    if g < r.count2 ∧ x % r.stride = 0 ∧ x / r.stride < r.count then some (g * r.count + x / r.stride)
    else none

/-- The row that names a register-space offset. -/
def regRow (off : Nat) : Option RegRow := regTable.find? fun r => (r.index off).isSome

/-- CORE_MAP after reset, for physical core `k` = 9c + p (R16, R186). -/
def coreMapReset (v : Variant) (k : Nat) : Nat :=
  let c := k / 9
  let p := k % 9
  if v = .fd860 ∧ c % 5 = 4 then 0
  else if p = 8 then 0x800000FF
  else 0x40000000 + (if c % 5 < 4 then 32 * (c / 5) + 8 * (c % 5) + p else 128 + 8 * (c / 5) + p)

/-- The reset value of the register word at an offset (0 where no register lies). -/
def resetWord (v : Variant) (off : Nat) : Word :=
  match regRow off with
  | none => 0
  | some r =>
    if r.base = regCoreMap 0 then BitVec.ofNat 64 (coreMapReset v ((off - r.base) / 0x1000))
    else BitVec.ofNat 64 (match v with
      | .fd880 => r.r880
      | .fd860 => r.r860)

/-- Whether an offset lies in the window of an absent cluster, stack, port or Pruning Unit (R2, R185, R204, R262,
R295). -/
def absentOff (v : Variant) (off : Nat) : Bool :=
  v == .fd860 &&
    ((decide (0x400000 ≤ off ∧ off < 0x4B4000) && ((off - 0x400000) / 0x9000) % 5 == 4)
    || decide (0x5C0000 ≤ off ∧ off < 0x5D0000)
    || (decide (0x700000 ≤ off ∧ off < 0x7C0000) && ((off - 0x700000) / 0x10000) % 3 == 2)
    || (decide (0xA00000 ≤ off ∧ off < 0xA18000) && decide (((off - 0xA00000) / 0x1000) % 12 ≥ 8))
    || (decide (0x1001000 ≤ off ∧ off < 0x1001300) && decide (((off - 0x1001000) / 0x20) % 12 ≥ 8)))

/-- The STATUS register of function `f` (R276), with HALTING in bit 0, HALTED in bit 1 and WH_VIOLATION in bit 2. -/
def statusReg : Nat → Nat
  | 0 => regCmdStatus
  | 1 => regSchStatus
  | 2 => regScuStatus
  | 3 => regDsoStatus
  | 4 => regCmbStatus
  | 5 => regCoreArrayStatus
  | 6 => regPruStatus
  | 7 => regAgdStatus
  | 8 => regCadStatus
  | 9 => regSmsStatus
  | 10 => regNswStatus
  | 11 => regFptStatus
  | 12 => regRmeStatus
  | 13 => regColStatus
  | 14 => regPwrStatus
  | _ => regRruStatus

/-! ### Reading and setting register words and their fields in the state -/

/-- The stored value of the register word at an offset. -/
def State.reg (s : State) (off : Nat) : Nat := (mapGet (resetWord s.variant off) off s.regs).toNat

/-- The register word at an offset set to a value; a value equal to the reset value is not listed. -/
def State.setReg (s : State) (off v : Nat) : State :=
  let w : Word := BitVec.ofNat 64 v
  { s with regs := mapPut off (if w = resetWord s.variant off then none else some w) s.regs }

/-- Field [hi:lo] of a register. -/
def State.fld (s : State) (off hi lo : Nat) : Nat := getBits (s.reg off) hi lo

/-- Field [hi:lo] of a register set. -/
def State.setFld (s : State) (off hi lo v : Nat) : State := s.setReg off (putBits (s.reg off) hi lo v)

/-- Bit `i` of a register. -/
def State.bit (s : State) (off i : Nat) : Bool := s.fld off i i == 1

/-- Bit `i` of a register set to a truth value. -/
def State.setBit (s : State) (off i : Nat) (b : Bool) : State := s.setFld off i i (b2n b)

/-- A 64-bit counter raised by `n`. -/
def State.addReg (s : State) (off n : Nat) : State := s.setReg off ((s.reg off + n) % 2 ^ 64)

/-- Function `f` is halted (R106). -/
def State.halted (s : State) (f : Nat) : Bool := s.bit (statusReg f) 1

/-- Function `f` is halting (R106). -/
def State.halting (s : State) (f : Nat) : Bool := s.bit (statusReg f) 0

/-- Output added. -/
def State.emit (s : State) (o : Out) : State := { s with out := s.out ++ [o] }

end Sys2Proof.Machine
end

