-- ==== Sys2Proof/Machine/Ops.lean ====
section
/-! DEFINITION. The named operations over memory and over the device's shared reporting: the device address map
(R218), page states (R226, R239), reads and writes with poison (R423, R424), dirty bits (R434) and the coherent
window (R496, R503), interrupts (R500), the alert register (R514) and error records (R420, R421). -/

namespace Sys2Proof.Machine

open Sys2Proof

/-! ### The device address map -/

/-- Where a device address lies (R218, R173, R224). -/
inductive Place where
  | hbm
  | program (bank : Nat)
  | bankOther (bank : Nat)
  | local_ (core : Nat) (off : Nat)
  | window
  | unmapped
  deriving DecidableEq, Repr

/-- HBM capacity in bytes (R218). -/
def capacity : Variant → Nat
  | .fd880 => 768000000000
  | .fd860 => 512000000000

/-- Logical cores of the variant (R396). -/
def logicalCores : Variant → Nat
  | .fd880 => 160
  | .fd860 => 128

/-- Bytes withheld for `n` channels, in whole pages (R254). -/
def heldBytes (n : Nat) : Nat :=
  65536 * (2000000000 * n / 65536 + if 2000000000 * n % 65536 = 0 then 0 else 1)

/-- SMS_LIMIT (R254). -/
def State.smsLimit (s : State) : Nat := capacity s.variant - heldBytes (s.fld regSmsDarn 19 16)

/-- SMS_ALLOC_LIMIT (R254). -/
def State.allocLimit (s : State) : Nat :=
  capacity s.variant - heldBytes (s.fld regSmsDarn 19 16 + s.fld regSmsDarn 3 0)

/-- First address of the shared banks, of the local stores and of the coherent window (R218). -/
abbrev bankBase : Nat := 0x10000000000
abbrev localBase : Nat := 0x20000000000
abbrev windowBase : Nat := 0x30000000000

/-- The classification of a device address (R218, R219, R224). -/
def State.place (s : State) (a : Nat) : Place :=
  if a < s.smsLimit then .hbm
  else if bankBase ≤ a ∧ a < bankBase + 0x1000000 * 32 then
    let b := (a - bankBase) / 0x1000000
    let o := (a - bankBase) % 0x1000000
    if o < 0x100000 then .bankOther b
    else if o < 0x100000 * (1 + s.progMib) then .program b
    else if o < 0xB00000 then .bankOther b
    else .unmapped
  else if localBase ≤ a ∧ a < localBase + 0x100000 * logicalCores s.variant then
    let n := (a - localBase) / 0x100000
    let o := (a - localBase) % 0x100000
    if o < 0xC0000 then .local_ n o else .unmapped
  else if windowBase ≤ a ∧ a < windowBase + 0x100000000 then .window
  else .unmapped

/-- Start-up is complete (R466, R468). -/
def State.ready (s : State) : Bool := s.bit regGlbStartup 31

/-- The companion is lost (R502). -/
def State.companionLost (s : State) : Bool := s.bit regOdlStatus 3

/-- Logical core `n` is lost (R427). -/
def State.coreLost (s : State) (n : Nat) : Bool := s.bit (regRruCoreLost (n / 64)) (n % 64)

/-- First byte of the residency area within a local store (R416). -/
def State.residencyStart (s : State) : Nat := 0xC0000 - 0x10000 * min 8 (s.fld regSchCtrl 3 0)

/-! ### HBM channels (R221 to R223) -/

/-- The channels per quadrant and the stacks per quadrant. -/
def chansPerQuad : Variant → Nat
  | .fd880 => 96
  | .fd860 => 64

/-- Stacks in a quadrant. -/
def stacksPerQuad : Variant → Nat
  | .fd880 => 3
  | .fd860 => 2

/-- The channel (32 × stack + channel) and the channel offset of an HBM address under a number of near units (R222,
R223). -/
def channelAt (v : Variant) (units a : Nat) : Nat × Nat :=
  let cq := chansPerQuad v
  let ns := stacksPerQuad v
  let nu := units * 32000000
  let u := nu * cq
  if a < 4 * u then
    let q := a / u
    let g := (a - q * u) / 256
    let j := g % cq
    (32 * (3 * q + j % ns) + j / ns, g / cq * 256 + a % 256)
  else
    let g := (a - 4 * u) / 256
    let i := g % (4 * cq)
    let q := i % 4
    let j := i / 4
    (32 * (3 * q + j % ns) + j / ns, nu + g / (4 * cq) * 256 + a % 256)

/-- The address whose line lies at a channel and channel offset, under a number of near units (R222, R223). -/
def addressOf (v : Variant) (units ch off : Nat) : Nat :=
  let cq := chansPerQuad v
  let ns := stacksPerQuad v
  let near := units * 32000000
  let u := near * cq
  let q := ch / 32 / 3
  let j := ch % 32 * ns + ch / 32 % 3
  if off < near then q * u + 256 * (off / 256 * cq + j) + off % 256
  else 4 * u + 256 * ((off - near) / 256 * (4 * cq) + 4 * j + q) + off % 256

/-- SMS_NEAR_UNITS. -/
def State.nearUnits (s : State) : Nat := s.fld regSmsNearUnits 5 0

/-- The channel and the channel offset that the mapping gives an HBM address (R222, R223). -/
def State.channelOf (s : State) (a : Nat) : Nat × Nat := channelAt s.variant s.nearUnits a

/-- The pseudo-channel of a channel offset (R223). -/
def pseudoChannel (off : Nat) : Nat := off / 256 % 2

/-! ### The darn table (R256, R257; log entry 32) -/

/-- Granules of 256 bytes of a channel, and of all channels. -/
abbrev chanGranules : Nat := 7812500
def allGranules (v : Variant) : Nat := capacity v / 256

/-- The first granule of the addresses that the `k`-th darning gives up: 2 GB below those of the darnings before it,
within the withdrawn range of R254. -/
def darnBase (v : Variant) (k : Nat) : Nat := allGranules v - k * chanGranules

/-- The place of granule `o` of the channel `c` once it is darned: the physical granule that backed the address granule
`base + o`; where that one lies on `c` too, the place of the granule it names there, and so on. `place` is the table
before this darning. -/
def darnChase (place : Nat → Nat × Nat) (c base : Nat) : Nat → Nat → Nat × Nat
  | 0, o => place (base + o)
  | f + 1, o => if (place (base + o)).1 = c then darnChase place c base f (place (base + o)).2 else place (base + o)

/-- The physical granule, channel and granule within it, of an address granule under a darn table. -/
def darnPlace (v : Variant) (units : Nat) : List Nat → Nat → Nat × Nat
  | [], g => ((channelAt v units (256 * g)).1, (channelAt v units (256 * g)).2 / 256)
  | c :: earlier, g =>
    if (darnPlace v units earlier g).1 = c then
      darnChase (darnPlace v units earlier) c (darnBase v (earlier.length + 1)) chanGranules (darnPlace v units earlier g).2
    else darnPlace v units earlier g

/-- The address granule whose granule of channel `c`, found before the darning of `c` at `g` of the granules given up,
moved there: `darnChase` walked back. -/
def darnUnchase (addr : Nat → Nat) (base : Nat) : Nat → Nat → Nat
  | 0, g => g
  | f + 1, g => if base ≤ g then darnUnchase addr base f (addr (g - base)) else g

/-- The address granule that lies at a physical granule of a channel in service, under a darn table. -/
def darnAddr (v : Variant) (units : Nat) : List Nat → Nat → Nat → Nat
  | [], ch, o => addressOf v units ch (256 * o) / 256
  | c :: earlier, ch, o =>
    darnUnchase (darnAddr v units earlier c) (darnBase v (earlier.length + 1)) chanGranules (darnAddr v units earlier ch o)

/-- A granule of the channel in migration is at its new place: copied, or marked copied by a write (R257). -/
def State.granuleCopied (s : State) (o : Nat) : Bool := decide (o < s.hbm.darnCopied) || s.hbm.darnMarked.contains o

/-- Where an HBM address lies: channel and channel offset (R222, R223, R257). -/
def State.placeOf (s : State) (a : Nat) : Nat × Nat :=
  match s.hbm.darnTable with
  | [] => s.channelOf a
  | c :: earlier =>
    let p := darnPlace s.variant s.nearUnits earlier (a / 256)
    let q := if p.1 = c ∧ (s.hbm.darning = none ∨ s.granuleCopied p.2 = true) then
        darnPlace s.variant s.nearUnits (c :: earlier) (a / 256)
      else p
    (q.1, 256 * q.2 + a % 256)

/-- Where an HBM address lay before the newest darning of the table. -/
def State.placeBefore (s : State) (a : Nat) : Nat × Nat :=
  let p := darnPlace s.variant s.nearUnits s.hbm.darnTable.tail (a / 256)
  (p.1, 256 * p.2 + a % 256)

/-- A write reaches a granule of the channel in migration that is not yet copied (R257): one that is being copied waits
until its copy completes, and one that the channel cannot read, having a poisoned line, is marked copied. -/
def State.darnWrite (s : State) (a : Nat) : State :=
  match s.hbm.darning with
  | some (c, true) =>
    let p := darnPlace s.variant s.nearUnits s.hbm.darnTable.tail (a / 256)
    if p.1 = c ∧ s.granuleCopied p.2 = false then
      if p.2 = s.hbm.darnCopied then { s with hbm := { s.hbm with darnCopied := p.2 + 1 } }
      else if (List.range 4).any fun l => s.poison.contains (a / 256 * 4 + l) then
        { s with hbm := { s.hbm with darnMarked := setInsert p.2 s.hbm.darnMarked } }
      else s
    else s
  | _ => s

/-- Whether a channel exists on the variant. -/
def channelPresent (v : Variant) (ch : Nat) : Bool :=
  decide (ch < 384) && (v == .fd880 || !(ch / 32 % 3 == 2))

/-! ### Regions, images and page states (R226, R228, R231, R239) -/

/-- A register word whose reset value is 0. -/
def State.reg0 (s : State) (off : Nat) : Nat := (mapGet 0 off s.regs).toNat

/-- Region entry `i`: VALID, SEALED, FIRST_PAGE, PAGES. -/
def State.regionValid (s : State) (i : Nat) : Bool := bitOf (s.reg0 (regCadWregion i)) 63
def State.regionSealed (s : State) (i : Nat) : Bool := bitOf (s.reg0 (regCadWregion i)) 62
def State.regionFirst (s : State) (i : Nat) : Nat := getBits (s.reg0 (regCadWregion i)) 23 0
def State.regionPages (s : State) (i : Nat) : Nat := getBits (s.reg0 (regCadWregionHi i)) 31 0

/-- The valid region entries, ascending. -/
def State.regions (s : State) : List Nat := (List.range 256).filter s.regionValid

/-- The region entry that holds a page. -/
def State.regionOf (s : State) (p : Nat) : Option Nat :=
  s.regions.find? fun i => decide (s.regionFirst i ≤ p ∧ p < s.regionFirst i + s.regionPages i)

/-- Image entry `j`: VERSION, STATE, FIRST_PAGE, PAGES, PRED. -/
def State.imgVersion (s : State) (j : Nat) : Nat := getBits (s.reg0 (regCadImage (8 * j))) 31 0
def State.imgState (s : State) (j : Nat) : Nat := getBits (s.reg0 (regCadImage (8 * j))) 39 32
def State.imgFirst (s : State) (j : Nat) : Nat := getBits (s.reg0 (regCadImage (8 * j + 1))) 31 0
def State.imgPages (s : State) (j : Nat) : Nat := getBits (s.reg0 (regCadImage (8 * j + 1))) 63 32
def State.imgPred (s : State) (j : Nat) : Nat := getBits (s.reg0 (regCadImage (8 * j + 2))) 31 0
def State.imgDigest (s : State) (j : Nat) : Nat :=
  s.reg0 (regCadImage (8 * j + 4)) + s.reg0 (regCadImage (8 * j + 5)) * 2 ^ 64
    + s.reg0 (regCadImage (8 * j + 6)) * 2 ^ 128 + s.reg0 (regCadImage (8 * j + 7)) * 2 ^ 192

/-- Image entries in use, ascending. -/
def State.images (s : State) : List Nat := (List.range 64).filter fun j => s.imgState j != 0

/-- The image entry that holds a page. -/
def State.imageOf (s : State) (p : Nat) : Option Nat :=
  s.images.find? fun j => decide (s.imgFirst j ≤ p ∧ p < s.imgFirst j + s.imgPages j)

/-- The state of a page in the coding of R240: 0 FREE, 1 REGION, 2 SEALED, 3 PREPARED, 4 ACTIVE, 5 RETIRING,
6 RESERVED, 7 WITHDRAWN. -/
def State.pageState (s : State) (p : Nat) : Nat :=
  if 65536 * p ≥ s.smsLimit then 7
  else if 65536 * p ≥ s.allocLimit then 6
  else match s.imageOf p with
    | some j => s.imgState j
    | none => match s.regionOf p with
      | some i =>
        if s.pubs.any (fun b => b.region == i && decide (b.step ≥ 1)) then 3
        else if s.regionSealed i then 2 else 1
      | none => 0

/-- The record of a page (R240), or the record of a page at HOME with no heat. -/
def State.pageRec (s : State) (p : Nat) : PageRec :=
  match s.pages.find? fun r => r.page == p with
  | some r => r
  | none => { page := p, readers := 0, heat := 0, qreads := [0, 0, 0, 0], place := 0, pinned := false, frame := 0,
              successor := none }

/-- A page record put back; a record that holds nothing is not listed. -/
def State.setPageRec (s : State) (r : PageRec) : State :=
  let rest := s.pages.filter fun x => x.page != r.page
  if r.readers = 0 ∧ r.heat = 0 ∧ r.qreads.all (· == 0) ∧ r.place = 0 ∧ r.pinned = false then { s with pages := rest }
  else { s with pages := rest.filter (fun x => decide (x.page < r.page)) ++ [r]
                         ++ rest.filter (fun x => decide (r.page < x.page)) }

/-- Size of the Cadastre table in bytes: 16 for each page (R239). -/
def tableBytes (v : Variant) : Nat := 16 * (capacity v / 65536)

/-- The 128-bit record of a page as the Cadastre table holds it (R240). -/
def State.pageRecord (s : State) (p : Nat) : Nat :=
  let r := s.pageRec p
  let owner := match s.imageOf p with
    | some j => j
    | none => (s.regionOf p).getD 0
  owner + r.frame <<< 35 + (b2n r.pinned) <<< 57 + r.place <<< 58 + s.pageState p <<< 60
    + (r.qreads.getD 0 0) <<< 64 + (r.qreads.getD 1 0) <<< 72 + (r.qreads.getD 2 0) <<< 80
    + (r.qreads.getD 3 0) <<< 88 + r.heat <<< 96 + r.readers <<< 112

/-! ### Memory bytes -/

/-- Where the byte of a device address is kept: companion memory behind the coherent window is kept by companion
address, above the window's device addresses (R496). -/
def State.memKey (s : State) (a : Nat) : Nat := if windowBase ≤ a then a + s.reg0 regOdlCwBase else a

/-- The line as poison marks name it. -/
def State.lineKey (s : State) (l : Nat) : Nat := s.memKey (64 * l) / 64

/-- One byte of device memory as the device reads it: a window byte that the Odord cache holds dirty, the Cadastre
table from the records the Cadastre holds, and the stored byte otherwise. -/
def State.rd (s : State) (a : Nat) : Byte :=
  let tb := s.reg0 regCadTableBase
  if windowBase ≤ a then mapGet (mapGet 0 (s.memKey a) s.mem) a s.odl.dirty
  else if tb ≠ 0 ∧ tb ≤ a ∧ a < tb + tableBytes s.variant then
    BitVec.ofNat 8 (s.pageRecord ((a - tb) / 16) >>> (8 * ((a - tb) % 16)))
  else mapGet 0 a s.mem

/-- `n` bytes from address `a`. -/
def State.rdBytes (s : State) (a n : Nat) : List Byte := (List.range n).map fun i => s.rd (a + i)

/-- A number of `n` bytes, least significant first. -/
def State.rdNat (s : State) (a n : Nat) : Nat := leNat (s.rdBytes a n)

/-- One byte stored, in canonical form: a byte equal to 0 is not listed. -/
def memPut (m : List Host.Cell) (a : Nat) (b : Byte) : List Host.Cell :=
  mapPut a (if b = 0 then none else some b) m

/-- Bytes stored from address `a`. -/
def memPutAll (m : List Host.Cell) (a : Nat) : List Byte → List Host.Cell
  | [] => m
  | b :: bs => memPutAll (memPut m a b) (a + 1) bs

/-- The lines that a write of `n` bytes at `a` covers whole (R424). -/
def wholeLines (a n : Nat) : List Nat :=
  (List.range (n / 64 + 1)).filterMap fun i =>
    let l := (a + 63) / 64 + i
    if l * 64 + 64 ≤ a + n then some l else none

/-- The lines that `n` bytes at `a` touch. -/
def linesOf (a n : Nat) : List Nat :=
  if n = 0 then [] else (List.range ((a + n - 1) / 64 - a / 64 + 1)).map (a / 64 + ·)

/-- The pages that `n` bytes at `a` touch. -/
def pagesOf (a n : Nat) : List Nat :=
  if n = 0 then [] else (List.range ((a + n - 1) / 65536 - a / 65536 + 1)).map (a / 65536 + ·)

/-- Bytes stored to device memory outside the coherent window, poison of wholly covered lines removed (R424), and
the dirty bits of tracked pages set (R434). -/
def State.store (s : State) (a : Nat) (bs : List Byte) : State :=
  let cover := wholeLines a bs.length
  let tracked := (pagesOf a bs.length).filter fun p =>
    decide (a < s.smsLimit) && (match s.regionOf p with
      | some i => s.bit (regRruTrigRegions (i / 64)) (i % 64)
      | none => false)
  { s with mem := memPutAll s.mem a bs
           poison := s.poison.filter fun l => !cover.contains l
           rru := { s.rru with dirty := tracked.foldl (fun d p => setInsert p d) s.rru.dirty } }

/-- Bytes of the coherent window written by the device: held dirty in the Odord cache (R496). The cache holds 65,536
lines; past that the lowest line is written back. -/
def State.storeWindow (s : State) (a : Nat) (bs : List Byte) : State :=
  let put := (List.range bs.length).foldl (fun m i => mapPut (a + i) (some (bs.getD i 0)) m) s.odl.dirty
  let ls := (linesOf a bs.length).foldl (fun d l => setInsert l d) s.odl.dirtyLines
  let cover := (wholeLines a bs.length).map s.lineKey
  { s with odl := { s.odl with dirty := put, dirtyLines := ls }
           poison := s.poison.filter fun l => !cover.contains l }

/-- One dirty window line written back to companion memory. -/
def State.writeBack (s : State) (l : Nat) : State :=
  let mine := s.odl.dirty.filter fun c => c.1 / 64 == l
  { s with mem := mine.foldl (fun m c => memPut m (s.memKey c.1) c.2) s.mem
           odl := { s.odl with dirty := s.odl.dirty.filter (fun c => c.1 / 64 != l)
                               dirtyLines := setErase l s.odl.dirtyLines } }

/-- The cache kept within 65,536 lines (4 MiB, R496). -/
def State.trimWindow (s : State) : State :=
  (List.range (s.odl.dirtyLines.length - 65536)).foldl
    (fun t _ => match t.odl.dirtyLines with
      | l :: _ => t.writeBack l
      | [] => t) s

/-- An HBM address whose reads are served from a frame: its page is PROMOTED (R243). -/
def State.framed (s : State) (a : Nat) : Bool := s.pages.any fun r => r.page == a / 65536 && r.place == 2

/-- The channel that serves an HBM address is fenced (R255). -/
def State.fencedAt (s : State) (a : Nat) : Bool := !s.hbm.fenced.isEmpty && s.hbm.fenced.contains (s.placeOf a).1

/-- A line is read poisoned (R423): it is marked, its channel is fenced (R255), its local store is lost (R427), or it
lies in the window while the companion is lost (R503). A line of a PROMOTED page is read from its frame, which holds a
good copy whatever HBM holds (R243). -/
def State.poisoned (s : State) (a : Nat) : Bool :=
  let marked := s.poison.contains (s.lineKey (a / 64))
  match s.place a with
  | .hbm => !s.framed a && (marked || s.fencedAt a)
  | .local_ n _ => marked || s.coreLost n
  | .window => marked || s.companionLost
  | _ => marked

/-- Some line of `n` bytes at `a` is read poisoned. -/
def State.anyPoison (s : State) (a n : Nat) : Bool := (linesOf a n).any fun l => s.poisoned (l * 64)

/-- A line marked poisoned. -/
def State.poisonLine (s : State) (l : Nat) : State := { s with poison := setInsert (s.lineKey l) s.poison }

/-- The lines of `n` bytes at `a` marked poisoned. -/
def State.poisonRange (s : State) (a n : Nat) : State := (linesOf a n).foldl State.poisonLine s

/-- A fresh undefined byte (log entry 5). -/
def State.fresh (s : State) : Byte × State := (Config.freeByte s.free, { s with free := s.free + 1 })

/-- `n` bytes at `a` take undefined values (log entry 5). -/
def State.scramble (s : State) (a n : Nat) : State :=
  { (s.store a ((List.range n).map fun i => Config.freeByte (s.free + i))) with free := s.free + n }

/-! ### Interrupts and alerts -/

/-- Vector `v` fires: its pending bit is set (R500). -/
def State.irq (s : State) (v : Nat) : State := s.setBit (regOdlIrqPending (v / 64)) (v % 64) true

/-- An in-band interrupt on I3C, when events are enabled and the device has an address (R508). -/
def State.ibi (s : State) (d : Byte) : State := if s.mgmt.ibiOn && s.mgmt.dynAddr.isSome then s.emit (.ibi d) else s

/-- A bit of STW_ALERT set; the board hears of it (R508, R514). -/
def State.alert (s : State) (i : Nat) : State :=
  if s.bit regStwAlert i then s else (s.setBit regStwAlert i true).ibi 0x02

/-- ALERT_N is driven low (R509). -/
def State.alertLow (s : State) : Bool := s.reg regStwAlert != 0

/-- THERMTRIP_N is driven low (R458, R469). -/
def State.thermtripLow (s : State) : Bool := s.bit regPwrStatus 10

/-! ### Error records -/

/-- The fields of an error record (R420). -/
structure ErrRec where
  kind : Nat
  scope : Nat
  action : Nat
  unit : Nat
  seq : Nat := 2 ^ 64 - 1
  addr : Nat := 0
  detail : Nat := 0
  aux : Nat := 0
  deriving DecidableEq, Repr

/-- The 64 bytes of a record (R420). -/
def ErrRec.encode (r : ErrRec) (time count : Nat) : List Byte :=
  leBytes 8 time ++ leBytes 2 r.kind ++ leBytes 1 r.scope ++ leBytes 1 r.action ++ leBytes 4 r.unit ++ leBytes 8 r.seq
    ++ leBytes 8 r.addr ++ leBytes 4 count ++ leBytes 4 r.detail ++ leBytes 8 r.aux ++ zeros 16

/-- The unit word of a record: clock domain and index (R420). -/
def unitWord (domain index : Nat) : Nat := domain * 2 ^ 24 + index % 2 ^ 24

/-- The register names a device area: it has been written since the last reset, or is not 0 (R230; log entry 13). -/
def State.areaNamed (s : State) (base : Nat) : Bool := s.named.contains base || s.reg base != 0

/-- A page that no write may reach (R227): PREPARED, ACTIVE, RETIRING, RESERVED or WITHDRAWN. -/
def State.writeProtected (s : State) (a : Nat) : Bool := decide (s.pageState (a / 65536) ≥ 3)

/-- Bytes of one line or page land: in the window (discarded while the companion is lost, R503), in a local store
(discarded when lost, R427), in HBM (discarded when the channel is fenced, R255), or in a bank. -/
def State.land (s : State) (a : Nat) (bs : List Byte) : State :=
  match s.place a with
  | .window => if s.companionLost then s else (s.storeWindow a bs).trimWindow
  | .hbm => if s.fencedAt a then s else (s.darnWrite a).store a bs
  | .local_ n _ => if s.coreLost n then s else s.store a bs
  | .unmapped => s
  | _ => s.store a bs

/-- A write that R227 keeps out: it reaches a protected page, or a page withdrawn by darning. -/
def State.keptOut (s : State) (a : Nat) : Bool :=
  match s.place a with
  | .hbm => s.writeProtected a
  | .unmapped => decide (a < capacity s.variant)
  | _ => false

/-- Bytes cut at 64-byte line borders: address and bytes of each piece. -/
def linePieces : Nat → Nat → List Byte → List (Nat × List Byte)
  | 0, _, _ => []
  | f + 1, a, bs =>
    if bs.isEmpty then []
    else
      let k := 64 - a % 64
      (a, bs.take k) :: linePieces f (a + k) (bs.drop k)

/-- The pieces of some bytes at an address. -/
def piecesAt (a : Nat) (bs : List Byte) : List (Nat × List Byte) := linePieces (bs.length / 64 + 2) a bs

/-- Bytes of the error ring, which has its register and lies where writes may land: where a page keeps them out, the
ACCESS event of R227 is counted, and its record, kept out of the same ring, is not made (R227, R230; log entries 13
and 33). -/
def State.putRing (s : State) (off : Nat) (bs : List Byte) : State :=
  if s.areaNamed regRruErrBase then
    (piecesAt (s.reg regRruErrBase + off) bs).foldl
      (fun t p => if t.keptOut p.1 then t.addReg (regRruCount 0x0D) 1 else t.land p.1 p.2) s
  else s

/-- A new record written at the head of the error ring, its interrupt raised (R420, R421). -/
def State.recordNew (s : State) (r : ErrRec) : State :=
  let slots := s.reg regRruErrSlots
  let head := s.reg regRruErrHead
  if head - s.reg regRruErrTail ≥ slots then s.setBit regRruStatus 6 true
  else
    let s1 := s.putRing (64 * (head % slots)) (r.encode s.time 1)
    let s2 := { s1 with rru := { s1.rru with newest := some (r.kind, r.unit, r.addr, s.time, head % slots) } }
    let s3 := (s2.setReg regRruErrHead (head + 1)).irq 64
    if r.scope = 6 then s3.alert 0 else s3

/-- An event of the catalogue: counted, and recorded or added to the newest record (R420, R421). -/
def State.record (s : State) (r : ErrRec) : State :=
  let s := s.addReg (regRruCount r.kind) 1
  match s.rru.newest with
  | some (k, u, a, t, slot) =>
    if k = r.kind ∧ u = r.unit ∧ a = r.addr ∧ s.time ≤ t + 1000000 then
      s.putRing (64 * slot + 32) (leBytes 4 (s.rdNat (s.reg regRruErrBase + 64 * slot + 32) 4 + 1))
    else s.recordNew r
  | none => s.recordNew r

/-- The clock domain of the stack of a channel, and of a port (R23). -/
def stackDomain (ch : Nat) : Nat := 24 + ch / 32
def portDomain (p : Nat) : Nat := 36 + p / 12

/-- A write that R227 protects against: discarded, and an ACCESS event recorded. -/
def State.accessFault (s : State) (a : Nat) : State :=
  s.record { kind := 0x0D, scope := 0, action := 0, unit := unitWord 38 8, addr := a,
             detail := s.pageState (a / 65536) }

/-- A write by a task, an engine or a remote source of bytes that lie in one line or page: kept out and recorded (R227),
or landed. -/
def State.put (s : State) (a : Nat) (bs : List Byte) : State :=
  if bs = [] then s else if s.keptOut a then s.accessFault a else s.land a bs

/-- Bytes written line by line (R340, R424). -/
def State.putBytes (s : State) (a : Nat) (bs : List Byte) : State := (piecesAt a bs).foldl (fun t p => t.put p.1 p.2) s

/-- Bytes written and their lines marked poisoned (R423). -/
def State.putPoisoned (s : State) (a : Nat) (bs : List Byte) : State :=
  (piecesAt a bs).foldl
    (fun t p => if t.keptOut p.1 then t.accessFault p.1 else (t.land p.1 p.2).poisonLine (p.1 / 64)) s

/-- Bytes that the device stores in an area of its own that a register names; without the register they go nowhere (R227,
R230; log entry 13). -/
def State.putArea (s : State) (base off : Nat) (bs : List Byte) : State :=
  if s.areaNamed base then s.putBytes (s.reg base + off) bs else s

/-! ### Outcomes -/

/-- The outcome of every command: a next state. -/
abbrev Result := Host.Outcome State Fault Refusal

/-- The state with the outputs of the last command gone. -/
def State.quiet (s : State) : State := { s with out := [] }

/-- A command performed: its effect where its conditions hold (`some`), and otherwise no effect (log entry 1). -/
def attempt (s : State) (f : State → Option State) : Result := .next ((f s.quiet).getD s.quiet)

end Sys2Proof.Machine
end

