-- ==== Sys2Proof/Machine/Operands.lean ====
section
/-! DEFINITION. Task words, descriptors and operand forms: the fields of a task word and its extension words (R77,
R265, R266), descriptors and the bytes that they span (R36, R80, R190 to R194, R542), and the reading and writing of
their elements (R35 to R43). -/

namespace Sys2Proof.Machine

open Sys2Proof

/-! ### Task words -/

/-- Opcodes (R263). -/
abbrev opFence : Nat := 0x01
abbrev opWait : Nat := 0x02
abbrev opSignal : Nat := 0x03
abbrev opHalt : Nat := 0x04
abbrev opResume : Nat := 0x05
abbrev opScore : Nat := 0x10
abbrev opDispatch : Nat := 0x11
abbrev opGather : Nat := 0x12
abbrev opCombine : Nat := 0x13
abbrev opDmm : Nat := 0x20
abbrev opXmm : Nat := 0x21
abbrev opEwise : Nat := 0x22
abbrev opPrune : Nat := 0x23
abbrev opShadow : Nat := 0x24
abbrev opMove : Nat := 0x30
abbrev opPublish : Nat := 0x31
abbrev opRload : Nat := 0x40
abbrev opRstore : Nat := 0x41
abbrev opMstore : Nat := 0x42
abbrev opRatomic : Nat := 0x43
abbrev opRreduce : Nat := 0x44
abbrev opCollect : Nat := 0x50

/-- Fields of the task word (R77). -/
def wordOpcode (w : BitVec 128) : Nat := getBits w.toNat 127 120
def wordForm (w : BitVec 128) : Nat := getBits w.toNat 119 116
def wordNext (w : BitVec 128) : Nat := getBits w.toNat 115 114
def Task.opcode (t : Task) : Nat := wordOpcode t.word
def Task.form (t : Task) : Nat := wordForm t.word
def Task.next (t : Task) : Nat := wordNext t.word
def Task.barrier (t : Task) : Bool := bitOf t.word.toNat 113
def Task.irqBit (t : Task) : Bool := bitOf t.word.toNat 112
def Task.evtEn (t : Task) : Bool := bitOf t.word.toNat 111
def Task.evt (t : Task) : Nat := getBits t.word.toNat 110 100

/-- Bits [hi:lo] of IMM. -/
def Task.imm (t : Task) (hi lo : Nat) : Nat := getBits t.word.toNat hi lo

/-- Bits [hi:lo] of extension word `i`, from 1. -/
def Task.x (t : Task) (i hi lo : Nat) : Nat := getBits (t.ext.getD (i - 1) 0).toNat hi lo

/-- A descriptor that names nothing. -/
def Desc.null : Desc where
  base := 0
  scaleBase := 0
  d0 := 0
  d1 := 0
  d2 := 0
  stride1 := 0
  stride2 := 0
  fmt := 0
  flags := 0
  resv := 0
  version := 0
  digest := 0

/-- The descriptor that a field of the task names, if any. -/
def Task.op? (t : Task) (field : Nat) : Option Desc := (t.ops.find? fun o => o.field == field).map (·.desc)

/-- The descriptor that a field names, or the null descriptor. -/
def Task.op (t : Task) (field : Nat) : Desc := (t.op? field).getD Desc.null

/-- A descriptor parsed from its 64 bytes (R80). -/
def Desc.parse (bs : List Byte) : Desc where
  base := leNat (slice bs 0 8)
  scaleBase := leNat (slice bs 8 8)
  d0 := leNat (slice bs 16 4)
  d1 := leNat (slice bs 20 4)
  d2 := leNat (slice bs 24 4)
  stride1 := leNat (slice bs 28 4)
  stride2 := leNat (slice bs 32 8)
  fmt := leNat (slice bs 40 1)
  flags := leNat (slice bs 41 1)
  resv := leNat (slice bs 42 2)
  version := leNat (slice bs 44 4)
  digest := leNat (slice bs 48 16)

/-- The 64 bytes of a descriptor (R80). -/
def Desc.bytes (d : Desc) : List Byte :=
  leBytes 8 d.base ++ leBytes 8 d.scaleBase ++ leBytes 4 d.d0 ++ leBytes 4 d.d1 ++ leBytes 4 d.d2 ++ leBytes 4 d.stride1
    ++ leBytes 8 d.stride2 ++ leBytes 1 d.fmt ++ leBytes 1 d.flags ++ leBytes 2 d.resv ++ leBytes 4 d.version
    ++ leBytes 16 d.digest

/-- Flags of a descriptor (R80). -/
def Desc.scaled (d : Desc) : Bool := bitOf d.flags 0
def Desc.writable (d : Desc) : Bool := bitOf d.flags 1
def Desc.image (d : Desc) : Bool := bitOf d.flags 2

/-! ### Instruction layouts (R77, R263, R265) -/

/-- How a task uses an operand field. -/
structure Role where
  /-- 0 to 3 for DESC_A to DESC_D, 4 and up for the extension fields in their order. -/
  field : Nat
  read : Bool
  write : Bool
  opt : Bool
  /-- A weight operand of the array (R542). -/
  weight : Bool
  deriving DecidableEq, Repr

/-- Roles in short. -/
def rd_ (f : Nat) : Role := ⟨f, true, false, false, false⟩
def wr_ (f : Nat) : Role := ⟨f, false, true, false, false⟩
def rw_ (f : Nat) : Role := ⟨f, true, true, false, false⟩
def ro_ (f : Nat) : Role := ⟨f, true, false, true, false⟩
def wo_ (f : Nat) : Role := ⟨f, false, true, true, false⟩
def wt_ (f : Nat) : Role := ⟨f, true, false, false, true⟩

/-- The layout of one instruction form: NEXT, the listed bits of IMM and of each extension word other than
descriptor fields, the extension words' descriptor fields by word and lowest bit, and the operands' roles. -/
structure Layout where
  next : Nat
  imm : List (Nat × Nat)
  ext : List (Nat × Nat × Nat)
  descs : List (Nat × Nat)
  roles : List Role
  deriving DecidableEq, Repr

/-- The layout of an opcode and form; none when R263 lists no such form. -/
def layout (op form : Nat) : Option Layout :=
  let remote : List (Nat × Nat) := [(13, 0), (18, 16), (19, 19)]
  match op, form with
  | 0x01, 0 => some ⟨0, [(2, 0)], [], [], []⟩
  | 0x02, 0 => some ⟨1, [(10, 0), (47, 20)], [(1, 63, 0)], [], []⟩
  | 0x03, 0 => some ⟨0, [(10, 0), (47, 16)], [], [], []⟩
  | 0x04, 0 => some ⟨0, [(4, 0)], [], [], []⟩
  | 0x05, 0 => some ⟨0, [(4, 0)], [], [], []⟩
  | 0x10, 0 => some ⟨1, [(19, 0)], [(1, 31, 0)], [], [rd_ 0, wr_ 1, wr_ 2, ro_ 3]⟩
  | 0x11, 0 => some ⟨1, [(27, 0)], [], [(1, 0), (1, 12)], [rd_ 0, wr_ 1, wr_ 2, wr_ 3, ro_ 4, wo_ 5]⟩
  | 0x11, 1 => some ⟨2, [(33, 0)], [(2, 115, 84)],
      [(1, 0), (1, 12), (2, 0), (2, 12), (2, 24), (2, 36), (2, 48), (2, 60), (2, 72)],
      [rd_ 0, wr_ 1, wr_ 2, wr_ 3, ro_ 4, wo_ 5, rd_ 6, rd_ 7, wo_ 8, wr_ 9, wr_ 10, wr_ 11, wr_ 12]⟩
  | 0x12, 0 => some ⟨1, [(2, 0)], [], [(1, 0)], [rd_ 0, rd_ 1, rd_ 2, wr_ 3, ro_ 4]⟩
  | 0x13, 0 => some ⟨1, [(12, 0)], [], [(1, 0), (1, 12)], [rd_ 0, rd_ 1, rd_ 2, wr_ 3, ro_ 4, wr_ 5]⟩
  | 0x13, 1 => some ⟨1, [(18, 0)], [], [(1, 0), (1, 12), (1, 24), (1, 36), (1, 48)],
      [rd_ 0, rd_ 1, rd_ 2, wr_ 3, ro_ 4, wr_ 5, wr_ 6, rd_ 7, rd_ 8]⟩
  | 0x20, 0 => some ⟨0, [(3, 0)], [], [], [rd_ 0, wt_ 1, wr_ 2, ro_ 3]⟩
  | 0x20, 1 => some ⟨1, [(3, 0)], [(1, 11, 0)], [(1, 12)], [rd_ 0, wt_ 1, wr_ 2, ro_ 3, rw_ 4]⟩
  | 0x20, 2 => some ⟨1, [(3, 0)], [(1, 11, 0)], [(1, 12)], [rd_ 0, wt_ 1, wr_ 2, ro_ 3, rw_ 4]⟩
  | 0x20, 3 => some ⟨1, [(3, 0)], [(1, 11, 0)], [], [rd_ 0, wt_ 1, wr_ 2, ro_ 3]⟩
  | 0x21, f => if f ≤ 1 then some ⟨1, [(21, 0)], [],
      [(1, 0), (1, 12), (1, 24), (1, 36), (1, 48), (1, 60), (1, 72), (1, 84)],
      [rd_ 0, rd_ 1, wt_ 2, wt_ 3, wr_ 4, rd_ 5, wr_ 6, ro_ 7, ro_ 8, ro_ 9, wo_ 10, ro_ 11]⟩ else none
  | 0x22, 0 => some ⟨1, [(7, 0)], [], [(1, 0)], [rd_ 0, ro_ 1, ro_ 2, wr_ 3, ro_ 4]⟩
  | 0x22, 1 => some ⟨3, [(7, 0)], [(2, 127, 0), (3, 63, 0)], [(1, 0)], [rd_ 0, ro_ 1, ro_ 2, wr_ 3, ro_ 4]⟩
  | 0x23, 0 => some ⟨0, [(2, 0)], [], [], [rd_ 0, wr_ 1, wr_ 2, wo_ 3]⟩
  | 0x23, 1 => some ⟨0, [(2, 0)], [], [], [rd_ 0, rd_ 1, wr_ 2, wo_ 3]⟩
  | 0x24, 0 => some ⟨0, [(1, 0), (13, 8)], [], [], [wt_ 0, wr_ 1, ro_ 2]⟩
  | 0x30, 0 => some ⟨0, [], [], [], [rd_ 0, wr_ 1]⟩
  | 0x31, 0 => some ⟨1, [(7, 0), (47, 16)], [(1, 31, 0)], [], []⟩
  | 0x40, 0 => some ⟨1, remote, [(1, 63, 0)], [], [wr_ 0]⟩
  | 0x41, 0 => some ⟨1, remote ++ [(20, 20)], [(1, 63, 0)], [], [rd_ 0]⟩
  | 0x42, 0 => some ⟨0, [(18, 16), (19, 19)], [], [], [rd_ 0, rd_ 1, wr_ 2]⟩
  | 0x43, 0 => some ⟨2, remote ++ [(27, 24), (28, 28)], [(1, 63, 0), (2, 127, 0)], [], [wr_ 0]⟩
  | 0x44, 0 => some ⟨1, remote ++ [(20, 20), (27, 24)], [(1, 63, 0)], [], [rd_ 0]⟩
  | 0x50, 0 => some ⟨0, [(35, 0)], [], [], [ro_ 0, wo_ 1]⟩
  | _, _ => none

/-- The index that a descriptor field of the slot holds: DESC_A to DESC_D at 84, 72, 60 and 48, or an extension
field. -/
def fieldIndex (word : BitVec 128) (ext : List (BitVec 128)) (descs : List (Nat × Nat)) (field : Nat) : Nat :=
  if field < 4 then getBits word.toNat (95 - 12 * field) (84 - 12 * field)
  else match descs[field - 4]? with
    | some (w, lo) => getBits (ext.getD (w - 1) 0).toNat (lo + 11) lo
    | none => 0

/-- Role fields of the `.X`-less forms of `DISPATCH` operands, by name. -/
abbrev fTokens : Nat := 4
abbrev fRowsOut : Nat := 5
abbrev fHome : Nat := 6
abbrev fWeightsX : Nat := 7
abbrev fWstage : Nat := 8
abbrev fRecv : Nat := 9
abbrev fRecvRowmap : Nat := 10
abbrev fRecvTags : Nat := 11
abbrev fRecvRecords : Nat := 12

/-! ### Sizes and spans -/

/-- Bits of one element of a format. -/
def fmtBits (fmt : Nat) : Nat :=
  if fmt = fmtFp32 ∨ fmt = fmtInt32 then 32 else if fmt = fmtBf16 then 16 else if fmt = fmtE2m1 then 4
  else if fmt = fmtUint64 then 64 else 8

/-- Slots per group of a compressed form; 0 for any other code (R188). -/
def fmtQ (fmt : Nat) : Nat :=
  if fmt = 0x10 ∨ fmt = 0x11 ∨ fmt = 0x12 then 4 else if fmt = 0x14 ∨ fmt = 0x15 ∨ fmt = 0x16 then 2 else 0

/-- The format of the values of an operand: that of a compressed form's slots, or the operand's own (R188). -/
def valueFmt (fmt : Nat) : Nat :=
  if fmt = 0x10 ∨ fmt = 0x14 then fmtE4m3 else if fmt = 0x11 ∨ fmt = 0x15 then fmtE5m2
  else if fmt = 0x12 ∨ fmt = 0x16 then fmtInt8 else fmt

/-- A format code of R81 or R188. -/
def fmtKnown (fmt : Nat) : Bool := decide (fmt ≤ 9) || decide (fmtQ fmt ≠ 0) || fmt == 0x18

/-- Bytes of one row (R36). -/
def Desc.rowBytes (d : Desc) : Nat := ceilDiv (d.d0 * fmtBits d.fmt) 8

/-- K positions of one record of a compressed form (R190). -/
def recordK (fmt : Nat) : Nat := if fmtQ fmt = 4 then 128 else 256

/-- TK of R191. -/
def Desc.tk (d : Desc) : Nat := ceilDiv d.d1 (recordK d.fmt)

/-- Bytes that the elements span from BASE (R36, R191, R194, R219). -/
def Desc.span (d : Desc) : Nat :=
  if d.d0 = 0 ∨ d.d1 = 0 ∨ d.d2 = 0 then 0
  else if fmtQ d.fmt ≠ 0 then (d.d2 - 1) * d.stride2 + ceilDiv d.d0 64 * d.tk * 6144
  else if d.fmt = 0x18 then 8 * (d.d2 * ceilDiv d.d1 8 * ceilDiv d.d0 8)
  else (d.d2 - 1) * d.stride2 + (d.d1 - 1) * d.stride1 + d.rowBytes

/-- Bytes that the block scales span from SCALE_BASE (R192, R542). -/
def Desc.scaleSpan (d : Desc) (weight : Bool) : Nat :=
  if d.scaled then
    if weight || decide (fmtQ d.fmt ≠ 0) then d.d2 * ceilDiv d.d1 32 * d.d0 else d.d2 * d.d1 * ceilDiv d.d0 32
  else 0

/-- Element count. -/
def Desc.count (d : Desc) : Nat := d.d0 * d.d1 * d.d2

/-- Bytes of the elements themselves, rows packed. -/
def Desc.bytesTotal (d : Desc) : Nat :=
  if fmtQ d.fmt ≠ 0 then d.d2 * ceilDiv d.d0 64 * d.tk * 6144
  else if d.fmt = 0x18 then 8 * (d.d2 * ceilDiv d.d1 8 * ceilDiv d.d0 8)
  else d.d2 * d.d1 * d.rowBytes

/-! ### Addresses -/

/-- Address of row `y` of matrix `z`. -/
def Desc.row (d : Desc) (y z : Nat) : Nat := d.base + d.stride1 * y + d.stride2 * z

/-- Address of the first scale byte of a row (R542). -/
def Desc.rowScale (d : Desc) (y z : Nat) : Nat := d.scaleBase + (z * d.d1 + y) * ceilDiv d.d0 32

/-- Address of the scale byte of block `b` and column `n` of a weight operand (R192, R542). -/
def Desc.weightScale (d : Desc) (z b n : Nat) : Nat := d.scaleBase + (z * ceilDiv d.d1 32 + b) * d.d0 + n

/-- Address of a word of a mask plane (R194). -/
def Desc.maskWord (d : Desc) (z bk bn : Nat) : Nat :=
  d.base + 8 * (z * (d.d1 / 8) * (d.d0 / 8) + bk * (d.d0 / 8) + bn)

/-- Address of a tile record of a compressed form (R191). -/
def Desc.record (d : Desc) (z tn tk : Nat) : Nat := d.base + z * d.stride2 + (tn * d.tk + tk) * 6144

/-- A form stored without rows: a compressed form or a mask plane (R188, R194). -/
def Desc.rowless (d : Desc) : Bool := fmtQ d.fmt != 0 || d.fmt == 0x18

/-- The byte ranges of a form without rows: the records of each matrix, under its stride, or the words of all planes
(R191, R194). -/
def Desc.planes (d : Desc) : List (Nat × Nat) :=
  if fmtQ d.fmt ≠ 0 then (List.range d.d2).map fun z => (d.record z 0 0, ceilDiv d.d0 64 * d.tk * 6144)
  else [(d.base, d.span)]

/-! ### Reading elements -/

/-- Bits of element `x` of a row that starts at address `a`. -/
def State.bitsAt (s : State) (fmt a x : Nat) : Nat :=
  if fmt = fmtE2m1 then getBits (s.rd (a + x / 2)).toNat (4 * (x % 2) + 3) (4 * (x % 2))
  else
    let n := fmtBits fmt / 8
    s.rdNat (a + n * x) n

/-- The scale byte of an element of a row-blocked operand; 127 without block scales (R39, R47). -/
def State.scaleAt (s : State) (d : Desc) (x y z : Nat) : Nat :=
  if d.scaled then (s.rd (d.rowScale y z + x / 32)).toNat else 127

/-- An element of a row-blocked operand, without its block scale. -/
def State.raw (s : State) (d : Desc) (x y z : Nat) : Fp := decodeElem d.fmt (s.bitsAt d.fmt (d.row y z) x)

/-- The value of an element of a row-blocked operand (R39). -/
def State.elem (s : State) (d : Desc) (x y z : Nat) : Fp := scaled (s.raw d x y z) (s.scaleAt d x y z)

/-- The values of a row. -/
def State.rowVals (s : State) (d : Desc) (y z : Nat) : List Fp := (List.range d.d0).map fun x => s.elem d x y z

/-- An element as an unsigned integer. -/
def State.uint (s : State) (d : Desc) (x y z : Nat) : Nat := s.bitsAt d.fmt (d.row y z) x

/-- One weight of a column: its K position, its scale byte and its unscaled value. -/
structure Weight where
  k : Nat
  scale : Nat
  val : Fp
  deriving DecidableEq, Repr

/-- The scale byte of a weight; 127 without block scales. -/
def State.weightScaleAt (s : State) (d : Desc) (z k n : Nat) : Nat :=
  if d.scaled then (s.rd (d.weightScale z (k / 32) n)).toNat else 127

/-- The stored weights of column `n` whose K positions lie in groups of [lo, hi), in ascending order of position or
slot; slots at or beyond K are gated (R163, R189, R193). -/
def State.weights (s : State) (d : Desc) (z n lo hi : Nat) : List Weight :=
  let top := min hi d.d1
  let q := fmtQ d.fmt
  if q = 0 then
    (List.range (top - lo)).map fun i =>
      let k := lo + i
      ⟨k, s.weightScaleAt d z k n, decodeElem d.fmt (s.bitsAt d.fmt (d.row k z) n)⟩
  else
    (List.range (ceilDiv top 8 - lo / 8)).flatMap fun i =>
      let g := lo / 8 + i
      let per := recordK d.fmt / 8
      let r := d.record z (n / 64) (g / per)
      let gi := g % per
      let idx := if q = 4 then s.rdNat (r + 4096 + 128 * gi + 2 * (n % 64)) 2
                 else s.rdNat (r + 4096 + 64 * gi + n % 64) 1
      (List.range q).filterMap fun j =>
        let k := 8 * g + getBits idx (3 * j + 2) (3 * j)
        if k < d.d1 then
          some ⟨k, s.weightScaleAt d z (8 * g) n,
                decodeElem (valueFmt d.fmt) (s.rd (r + 64 * (q * gi + j) + n % 64)).toNat⟩
        else none

/-- The dense equivalent of a weight operand's element: the sum of the slots that name the position. -/
def State.denseWeight (s : State) (d : Desc) (z k n : Nat) : Fp :=
  if fmtQ d.fmt = 0 then scaled (decodeElem d.fmt (s.bitsAt d.fmt (d.row k z) n)) (s.weightScaleAt d z k n)
  else
    ((s.weights d z n (k / 8 * 8) (k / 8 * 8 + 8)).filter (·.k == k)).foldl
      (fun a w => a.add (scaled w.val w.scale)) (.fin false 0 0)

/-! ### Poison of operands -/

/-- A row of a row-blocked operand, scale bytes included, is read poisoned. -/
def State.rowPoison (s : State) (d : Desc) (y z : Nat) : Bool :=
  s.anyPoison (d.row y z) d.rowBytes
    || (d.scaled && s.anyPoison (d.rowScale y z) (ceilDiv d.d0 32))

/-- Some byte of an operand is read poisoned. -/
def State.opPoison (s : State) (d : Desc) : Bool :=
  if fmtQ d.fmt ≠ 0 ∨ d.fmt = 0x18 then s.anyPoison d.base d.span || s.anyPoison d.scaleBase (d.scaleSpan true)
  else (List.range d.d2).any fun z => (List.range d.d1).any fun y => s.rowPoison d y z

/-- A weight tile range, columns [n0, n1) and K positions [lo, hi), is read poisoned. -/
def State.weightPoison (s : State) (d : Desc) (z n0 n1 lo hi : Nat) : Bool :=
  let top := min hi d.d1
  let q := fmtQ d.fmt
  let w := min n1 d.d0
  (if q = 0 then
    (List.range (top - lo)).any fun i =>
      let a := d.row (lo + i) z
      s.anyPoison (a + n0 * fmtBits d.fmt / 8) (ceilDiv ((w - n0) * fmtBits d.fmt) 8)
  else
    (List.range (ceilDiv top (recordK d.fmt) - lo / recordK d.fmt)).any fun i =>
      s.anyPoison (d.record z (n0 / 64) (lo / recordK d.fmt + i)) 6144)
  || (d.scaled && (List.range (ceilDiv top 32 - lo / 32)).any fun i =>
      s.anyPoison (d.weightScale z (lo / 32 + i) n0) (w - n0))

/-! ### Writing elements -/

/-- Elements packed into bytes, two E2M1 elements to a byte (R36, R71). -/
def packElems (fmt : Nat) (bits : List Nat) : List Byte :=
  if fmt = fmtE2m1 then (chunks 2 bits).map fun c => BitVec.ofNat 8 (c.getD 0 0 + 16 * c.getD 1 0)
  else bits.flatMap (leBytes (fmtBits fmt / 8))

/-- Bytes written, with their poison mark when `poison` (R423). -/
def State.putMarked (s : State) (poison : Bool) (a : Nat) (bs : List Byte) : State :=
  if poison then s.putPoisoned a bs else s.putBytes a bs

/-- Values written to elements `x0` and on of a row of an operand, converted to its format, with block scales where
it carries them; `x0` is a multiple of 32 or the operand is unscaled. Also whether the conversion was invalid. -/
def State.writeSeg (s : State) (sat poison : Bool) (d : Desc) (x0 y z : Nat) (vals : List (Fp × Rounding)) :
    State × Bool :=
  let a := d.row y z + x0 * fmtBits d.fmt / 8
  if d.scaled then
    let bl := (chunks 32 vals).map (quantBlock d.fmt sat)
    let s1 := s.putMarked poison a (packElems d.fmt (bl.flatMap (·.2.1)))
    (s1.putMarked poison (d.rowScale y z + x0 / 32) (bl.map fun b => BitVec.ofNat 8 b.1), bl.any (·.2.2))
  else
    let ys := vals.map fun v => encodeElem d.fmt sat v.2 v.1
    (s.putMarked poison a (packElems d.fmt (ys.map (·.1))), ys.any (·.2))

/-- FP32 values written to a whole row, rounded to nearest. -/
def State.writeRow (s : State) (sat poison : Bool) (d : Desc) (y z : Nat) (vals : List F32) : State × Bool :=
  s.writeSeg sat poison d 0 y z (vals.map fun v => (ofF32 v, .nearest))

/-- The bytes of a row as stored; the upper nibble of the last byte of an odd row of E2M1 is not read (R36). -/
def State.rowBytesOf (s : State) (d : Desc) (y z : Nat) : List Byte :=
  let bs := s.rdBytes (d.row y z) d.rowBytes
  if d.fmt = fmtE2m1 ∧ d.d0 % 2 = 1 then bs.modify (d.rowBytes - 1) fun b => b &&& 0x0F else bs

/-- A value limited to lo … hi. -/
def clampTo (lo hi v : Nat) : Nat := max lo (min hi v)

/-- SCH_CTX_SLOTS with its limits (R419). -/
def State.ctxSlots (s : State) : Nat := clampTo 16 256 (s.fld regSchCtxSlots 8 0)

/-- Bytes of the input-and-seed log, its LOG2 with its limits (R439, R443). -/
def State.logSize (s : State) : Nat := 2 ^ clampTo 24 36 (s.fld regRruLogLog2 5 0)

/-- Records of the survey ring and of the step ring, with their limits (R330, R395). -/
def State.surveySlots (s : State) : Nat := max 16 (s.fld regNswSurveyCtrl 47 32)
def State.stepSlots (s : State) : Nat := clampTo 16 65535 (s.reg regColStepSlots)

/-- The device areas that registers name: base and length of each (R230; log entry 13). -/
def State.deviceAreas (s : State) : List (Nat × Nat) :=
  ([(regCmdJournalBase, 128 * 2 ^ s.reg regCmdJournalLog2),
    (regCmdJsigBase, 57344 * s.reg regCmdJsigCount),
    (regCadTableBase, tableBytes s.variant),
    (regSchCtxBase, 327680 * s.ctxSlots),
    (regRruErrBase, 64 * s.reg regRruErrSlots),
    (regRruLogBase, s.logSize),
    (regRruTrigBase, s.reg regRruTrigSize),
    (regNswSurveyBase, 128 * s.surveySlots),
    (regColStepBase, 32 * s.stepSlots)].filter fun a => s.areaNamed a.1).map fun a => (s.reg a.1, a.2)

/-- Two byte ranges meet. -/
def rangesMeet (a n b m : Nat) : Bool := decide (0 < n ∧ 0 < m ∧ a < b + m ∧ b < a + n)

end Sys2Proof.Machine
end

