-- ==== Sys2Proof/Machine/Bounds.lean ====
section
/-! DEFINITION. The bounds of the task instructions (R267 to R291), evaluated exactly in rational nanoseconds and
rounded up (R401); the split of class C tasks (R55, R56); array modes (R160); collective groups, paths and routes as
the bounds and the acceptance checks use them (R316, R365, R374). -/

namespace Sys2Proof.Machine

open Sys2Proof

/-- Fixed and variable terms of R267. -/
def f0 : Rat := 500
def memTerm (x β : Rat) : Rat := (1064 / 1000) * x / β
def rho (t : Rat) : Rat := t + 800 * ((t / 10000).ceil : Rat)

/-- Size in bytes of one element (spec 08, Operands and extension words). -/
def es (fmt : Nat) : Rat := (fmtBits (valueFmt fmt) : Rat) / 8

/-- P of R55. -/
def partitionP (v : Variant) (portable : Bool) : Nat := if v = .fd880 ∧ portable = false then 160 else 128

/-- s of R56. -/
def splitCount (P N M K : Nat) : Nat := min (ceilDiv K 64) (max 1 (P / (ceilDiv N 64 * ceilDiv M 256)))

/-- The K-tiles [from, to) of part `j` of `s` (R56). -/
def partTiles (K s j : Nat) : Nat × Nat :=
  let kt := ceilDiv K 64
  (j * kt / s, (j + 1) * kt / s)

/-- Bytes of the partial buffer of a class C task (R225). -/
def partialBytes (s N M : Nat) : Nat := (s - 1) * 64 * ceilDiv N 64 * M * 4

/-- A class C task: `DMM` in every form and `XMM.K` (R263). -/
def isClassC (op form : Nat) : Bool := op == opDmm || (op == opXmm && form == 1)

/-- Array mode of a weight format: Lw, r, and the K-tiles of a pass (R160, R163). -/
def modeLw (wf : Nat) : Nat := if wf = fmtBf16 then 32 else 16
def modeR (wf : Nat) : Nat := if wf = fmtBf16 then 4 else 1
def modeW (wf : Nat) : Nat := if wf = fmtE2m1 then 2 else if fmtQ wf = 4 then 2 else if fmtQ wf = 2 then 4 else 1

/-- The activation formats that a weight format's mode takes (R46, R160, R161). -/
def actOk (af wf : Nat) : Bool :=
  if wf = fmtBf16 then af == fmtBf16
  else if wf = fmtE2m1 then af == fmtE2m1 || af == fmtE4m3
  else if valueFmt wf = fmtInt8 then af == fmtInt8
  else if valueFmt wf = fmtE4m3 ∨ valueFmt wf = fmtE5m2 then af == fmtE4m3 || af == fmtE5m2
  else false

/-- C_run of R156. -/
def cRun (wf T M : Nat) : Nat :=
  modeLw wf + (T - 1) * max (modeR wf * M) (modeLw wf) + modeR wf * (M + 126) + 1 + M

/-- Bytes of one weight tile, and its scale bytes (the bound of `DMM`). -/
def tileBytes (d : Desc) : Nat := if d.fmt = fmtBf16 then 8192 else if fmtQ d.fmt ≠ 0 then 6144 else 4096
def tileScales (d : Desc) : Nat := if d.scaled then 128 * modeW d.fmt else 0

/-- Bytes that a bound counts, each with the address of the operand that they belong to, 0 for none (R498). -/
abbrev Counts : Type := List (Nat × Rat)

/-- X_w of R498: the counted bytes that lie in the coherent window. -/
def Counts.window (xs : Counts) : Rat := ((xs.filter fun x => decide (windowBase ≤ x.1)).map (·.2)).foldl (· + ·) 0

/-- The counted bytes of the engine's memory term. -/
def Counts.engine (xs : Counts) : Rat := ((xs.filter fun x => decide (x.1 < windowBase)).map (·.2)).foldl (· + ·) 0

/-- The window's own term, with the 1,000 ns by which F0 increases (R498). -/
def Counts.windowTime (xs : Counts) : Rat := if xs.window = 0 then 0 else memTerm xs.window 100 + 1000

/-- An operand that the engine's formula does not count: only its bytes in the window matter (R498; log entry 25). -/
def uncounted (d? : Option Desc) : Counts :=
  match d? with
  | some d => if windowBase ≤ d.base then [(d.base, (d.bytesTotal : Rat))] else []
  | none => []

/-- The larger of an engine's time and its memory term, with F0 and the window's term (R267, R498). -/
def engineBound (c β : Rat) (xs : Counts) : Rat := max c (memTerm xs.engine β) + f0 + xs.windowTime

/-- The elements and the block scales of an operand, counted `n` times. -/
def countsOf (d : Desc) (weight : Bool) (n : Nat) : Counts :=
  [(d.base, (n * d.bytesTotal : Nat)), (d.scaleBase, (n * d.scaleSpan weight : Nat))]

/-- A format narrower than BF16. -/
def narrow (fmt : Nat) : Bool := fmt == fmtE5m2 || fmt == fmtE4m3 || fmt == fmtE2m1 || fmt == fmtInt8

/-- The epilogue cost of an activation (the bound of `DMM`). -/
def actCost (act : Nat) : Nat := if act = 0 then 0 else if act ≤ 2 then 1 else 4

/-! ### Groups, paths and routes -/

/-- The ID field of NSW_DEVICE_ID (R326). -/
def State.deviceId (s : State) : Nat := s.fld regNswDeviceId 13 0

/-- The active route bank and an entry of it (R316). -/
def State.bank (s : State) : Nat := s.fld regNswEpoch 7 0 % 2
def State.route (s : State) (b d : Nat) : Nat := s.reg0 (regNswRoute (16384 * b + d))
def routeValid (r : Nat) : Bool := bitOf r 63
def routePort (r : Nat) : Nat := getBits r 62 58
def routeHops (r : Nat) : Nat := getBits r 57 52

/-- Hd over a set of destinations (R318). -/
def State.hd (s : State) (ds : List Nat) : Nat :=
  ds.foldl (fun m d => max m (routeHops (s.route s.bank d))) 0

/-- Some link of the deterministic route to a destination encrypts: this device's own port, or a link beyond it, which
no state of this device shows (R318; log entry 16). -/
def State.routeEncrypts (s : State) (d : Nat) : Bool :=
  s.bit (regFptPortStatus (routePort (s.route s.bank d))) 2 || Config.farEncrypts s.time d

/-- Np over a set of destinations: a port counts 0.99375 when a link of the routes through it encrypts (R267, R318). -/
def State.np (s : State) (ds : List Nat) : Rat :=
  let far := ds.filter (· != s.deviceId)
  let ports := far.foldl (fun l d => setInsert (routePort (s.route s.bank d)) l) []
  (ports.filter (· < 24)).foldl (fun a p =>
    a + (if far.any fun d => routePort (s.route s.bank d) == p && s.routeEncrypts d then (99375 / 100000 : Rat) else 1)) 0

/-- Φ(X) of R267; a task that uses no port transfers in no time. -/
def State.phi (s : State) (ds : List Nat) (x : Rat) : Rat :=
  let n := s.np ds
  if n = 0 then 150 * s.hd ds else rho (x / (100 * n)) + 150 * s.hd ds

/-- Fields of a group entry (R365, R395). -/
def State.grpW3 (s : State) (g : Nat) : Nat := s.reg0 (regColGroupW3 g)
def State.grpW2 (s : State) (g : Nat) : Nat := s.reg0 (regColGroupW2 g)
def State.grpW1 (s : State) (g : Nat) : Nat := s.reg0 (regColGroupW1 g)
def State.grpValid (s : State) (g : Nat) : Bool := bitOf (s.grpW3 g) 63
def State.grpLocal (s : State) (g : Nat) : Bool := bitOf (s.grpW3 g) 62
def State.grpTackEn (s : State) (g : Nat) : Bool := bitOf (s.grpW3 g) 61
def State.grpRingOk (s : State) (g : Nat) : Bool := bitOf (s.grpW3 g) 60
def State.grpPslot (s : State) (g : Nat) : Nat := getBits (s.grpW3 g) 59 56
def State.grpDepth (s : State) (g : Nat) : Nat := getBits (s.grpW3 g) 55 48
def State.grpParent (s : State) (g : Nat) : Nat := getBits (s.grpW3 g) 44 40
def State.grpChildren (s : State) (g : Nat) : Nat := getBits (s.grpW3 g) 39 16
def State.grpM (s : State) (g : Nat) : Nat := getBits (s.grpW3 g) 14 0
def State.grpRank (s : State) (g : Nat) : Nat := getBits (s.grpW2 g) 61 48
def State.grpNext (s : State) (g : Nat) : Nat := getBits (s.grpW2 g) 45 32
def State.grpPrev (s : State) (g : Nat) : Nat := getBits (s.grpW2 g) 29 16
def State.grpDigest (s : State) (g : Nat) : Nat := getBits (s.grpW1 g) 63 32

/-- TACK_MAX: values above 256 act as 256 (R395). -/
def State.tackMax (s : State) : Nat := min 256 (s.fld regColCtrl 8 0)

/-- The path of a collective: 0 tack, 1 tree, 2 ring (R371, R374). -/
def State.collPath (s : State) (g kind x : Nat) : Nat :=
  let tack := s.grpTackEn g
  if kind = 4 then (if tack then 0 else 1)
  else if kind = 2 then (if tack ∧ s.grpM g * x ≤ s.tackMax then 0 else 2)
  else if tack ∧ x ≤ s.tackMax then 0 else 1

/-- The bound of a collective from the entry of its last member (R291): its path follows from one member's contribution
of `n` bytes (R374), and the transfer term from X. -/
def State.collBound (s : State) (g kind n : Nat) (x : Nat) : Rat :=
  let d : Rat := s.grpDepth g
  let p := s.collPath g kind n
  if p = 0 then 300 * d + 100
  else if p = 1 then f0 + rho ((x : Rat) / 100) + 300 * d
  else f0 + rho (((s.grpM g - 1) * x : Nat) / 100) + 300 * ((s.grpM g - 1 : Nat) : Rat)

/-- The shard rows [from, to) of rank `i` of `m` over `n` rows (R283, R291). -/
def shard (n m i : Nat) : Nat × Nat := (i * n / m, (i + 1) * n / m)

/-! ### The terms of each instruction -/

/-- Cores and clusters of a grant. -/
structure Grant where
  lo : Nat
  hi : Nat
  deriving DecidableEq, Repr

/-- Pg and Ncl of a grant (R399). -/
def Grant.pg (g : Grant) : Nat := g.hi - g.lo
def Grant.ncl (g : Grant) : Nat := (g.hi - g.lo) / 8

/-- Every logical core. -/
def allCores (v : Variant) : Grant := ⟨0, logicalCores v⟩

/-- The grant that a task's bound assumes (R399, R401). -/
def boundGrant (v : Variant) (t : Task) : Grant :=
  if isClassC t.opcode t.form ∧ t.portable = true then ⟨0, 128⟩ else allCores v

/-- φ of R267 for the array operands of a task. -/
def phiFactor (t : Task) : Rat :=
  let mats := if t.opcode = opDmm then [t.op 0, t.op 1] else [t.op 0, t.op 2, t.op 3, t.op 6]
  let pairs := if t.opcode = opDmm then [(t.op 0, t.op 1)] else [(t.op 0, t.op 2), (t.op 6, t.op 3)]
  let e5 := pairs.any fun p => valueFmt p.1.fmt == fmtE5m2 && valueFmt p.2.fmt == fmtE5m2
  if mats.any (·.scaled) || e5 then 1125 / 1000 else 1

/-- The longest run of a task, C_run of R156 (R409). -/
def crMax (v : Variant) (t : Task) : Nat :=
  let P := partitionP v t.portable
  let one (w : Desc) (K N M : Nat) (split : Bool) : Nat :=
    let s := if split then splitCount P N M K else 1
    cRun w.fmt (ceilDiv (ceilDiv (ceilDiv K 64) s) (modeW w.fmt)) (min M 256)
  if t.opcode = opDmm then one (t.op 1) (t.op 0).d0 (t.op 1).d0 (t.op 0).d1 true
  else
    let m := min (t.op 0).d1 256
    max (one (t.op 2) (t.op 0).d0 (t.op 2).d0 m (t.form == 1)) (one (t.op 3) (t.op 2).d0 (t.op 3).d0 m (t.form == 1))

/-- The `DMM` bound (R283 and following) without the collective of its fused forms. -/
def dmmBound (v : Variant) (g : Grant) (t : Task) : Rat :=
  let x := t.op 0
  let w := t.op 1
  let c := t.op 2
  let K := x.d0
  let M := x.d1
  let N := w.d0
  let s := splitCount (partitionP v t.portable) N M K
  let tout := ceilDiv N 64 * ceilDiv M 256
  let nr := tout * s
  let mb := min M 256
  let tp := ceilDiv (ceilDiv (ceilDiv K 64) s) (modeW w.fmt)
  let e := b2n (t.op? 3).isSome + actCost (t.imm 3 0) + 2 * b2n (narrow c.fmt)
  let cyc : Rat := phiFactor t * (ceilDiv nr g.pg * cRun w.fmt tp mb : Nat)
    + (ceilDiv tout g.pg * (s - 1) * mb : Nat) + (ceilDiv (M * N) (64 * g.pg) * e : Nat)
  let xs : Counts := ([(w.base, (nr * tp * tileBytes w : Nat)), (w.scaleBase, (nr * tp * tileScales w : Nat)),
    (x.base, (nr * mb * ceilDiv K s : Nat) * es x.fmt), (c.base, (M * N : Nat) * es c.fmt),
    (0, (8 * (s - 1) * M * N : Nat))] : Counts) ++ uncounted (t.op? 3) ++ (if t.form = 0 then [] else uncounted (t.op? 4))
  engineBound (cyc / (8 / 10)) ((8192 / 10) * g.ncl) xs

/-- The `XMM` bound (R285 and following). -/
def xmmBound (v : Variant) (g : Grant) (t : Task) : Rat :=
  let a := t.op 0
  let wu := t.op 2
  let wd := t.op 3
  let hid := t.op 6
  let P := a.d1
  let E := (t.op 1).d1
  let hm := a.d0
  let hh := wu.d0
  let n := min E P
  let nb := n + (P - n) / 256
  let mb := min P 256
  let split := t.form == 1
  let pp := partitionP v t.portable
  let term (w : Desc) (K N : Nat) : Rat × Nat × Rat :=
    let T := ceilDiv (ceilDiv K 64) (modeW w.fmt)
    let tout := ceilDiv N 64
    let cp := tout * (nb * (T * modeLw w.fmt + 126 * modeR w.fmt + 1) + (T * modeR w.fmt + 1) * P)
    let s := if split then splitCount pp N 256 K else 1
    (cp, cRun w.fmt (ceilDiv T s) mb, ((ceilDiv (tout * nb) g.pg * (s - 1) * mb : Nat) : Rat))
  let up := term wu hm hh
  let dn := term wd hh hm
  let su := if split then splitCount pp hh 256 hm else 1
  let sd := if split then splitCount pp hm 256 hh else 1
  let eup := b2n (t.op? 7).isSome + actCost (t.imm 3 0) + 2 * b2n (narrow hid.fmt)
  let edn := b2n (t.op? 8).isSome
  let cc := up.2.1 + dn.2.1 + 6 * mb
  let c : Rat := phiFactor t * ((up.1 + dn.1) / g.pg + cc) + (ceilDiv (P * hh) (64 * g.pg) * eup : Nat)
    + (ceilDiv (P * hm) (64 * g.pg) * edn : Nat) + up.2.2 + dn.2.2
  let gm := t.imm 5 4
  let gd : Rat := if gm = 1 then (P * hm * hh : Nat) / (4096 * g.ncl)
    else if gm = 2 then (P * 64 * (hm + hh) : Nat) / (4096 * g.ncl) else 0
  let expert (d : Desc) : Counts :=
    [(d.base, (nb * (if fmtQ d.fmt ≠ 0 then ceilDiv d.d0 64 * d.tk * 6144 else d.d1 * d.rowBytes) : Nat)),
      (d.scaleBase, (nb * (if d.scaled then ceilDiv d.d1 32 * d.d0 else 0) : Nat))]
  let ge := if gm = 0 then 0 else (t.op 9).stride1
  let xs : Counts := expert wu ++ expert wd ++ ([((t.op 9).base, (nb * ge : Nat)), (a.base, (P * hm : Nat) * es a.fmt),
    (hid.base, (2 * P * hh : Nat) * es hid.fmt), ((t.op 4).base, (P * hm : Nat) * es (t.op 4).fmt),
    ((t.op 5).base, (8 * P : Nat)), (0, (8 * (su - 1) * P * hh + 8 * (sd - 1) * P * hm : Nat))] : Counts)
    ++ uncounted (t.op? 1) ++ uncounted (t.op? 7) ++ uncounted (t.op? 8)
  engineBound ((c + gd) / (8 / 10)) ((8192 / 10) * g.ncl) xs

/-- Cycles of an `EWISE` operation per 64 elements (R286). -/
def ewiseCost (op : Nat) : Nat := if 0x10 ≤ op ∧ op ≤ 0x17 then 4 else if op = 0x21 then 2 else 1

/-- `EWISE` works in element-wise mode (R286). -/
def ewiseArray (t : Task) : Bool := t.imm 7 0 == 0x20 || t.imm 7 0 == 0x21

/-- Cycles of one vector block (R286, R409). -/
def blockCycles (t : Task) : Nat :=
  let w := min (t.op 0).d0 16384
  ceilDiv w 64 * ewiseCost (t.imm 7 0) + 2 * ceilDiv w 32 * b2n (narrow (t.op 3).fmt)

/-- Bytes of an operand, scale bytes included. -/
def operandBytes (d : Desc) (weight : Bool) : Nat := d.bytesTotal + d.scaleSpan weight

/-- The `EWISE` bound. -/
def ewiseBound (g : Grant) (t : Task) : Rat :=
  let a := t.op 0
  let d := t.op 3
  let c : Nat :=
    if ewiseArray t then ceilDiv (d.count * ewiseCost (t.imm 7 0)) (64 * g.pg) + 128
    else ceilDiv (a.d1 * a.d2 * ceilDiv a.d0 16384) g.pg * blockCycles t
  engineBound ((c : Rat) / (8 / 10)) ((8192 / 10) * g.ncl) (t.ops.flatMap fun o => countsOf o.desc false 1)

/-- The devices that HOME names, with this device: the member set of an exchange (R132). -/
def State.homeMembers (s : State) (home : Desc) : List Nat :=
  (List.range home.d0).foldl (fun l e => setInsert (s.uint home e 0 0 % 16384) l) [s.deviceId]

/-- The `DISPATCH` bound. -/
def State.dispatchBound (s : State) (t : Task) : Rat :=
  let a := t.op 0
  let bk := a.d0 * a.d1
  let E := (t.op 1).d1
  let rows := (t.op 2).d0
  let tok := t.op fTokens
  let hb : Rat := if (t.op? fTokens).isSome then (tok.d0 : Rat) * es tok.fmt else 0
  let c : Rat := (2 * ceilDiv bk 64 + ceilDiv E 64 : Nat)
  let xs : Counts := ([(a.base, (4 * bk : Nat)), ((t.op 1).base, (16 * E : Nat)), ((t.op 2).base, (4 * rows : Nat)),
    ((t.op 3).base, (8 * rows : Nat)), (tok.base, bk * hb), ((t.op fRowsOut).base, bk * hb)] : Counts)
    ++ [fHome, fWeightsX, fWstage, fRecv, fRecvRowmap, fRecvTags, fRecvRecords].flatMap fun f => uncounted (t.op? f)
  let base := engineBound (c / (16 / 10)) (8192 / 10) xs
  if t.form = 0 then base
  else
    let home := t.op fHome
    let ms := s.homeMembers home
    let eh := ((List.range home.d0).filter fun e => s.uint home e 0 0 % 16384 == s.deviceId).length
    let rb := t.x 2 115 84
    let wb := (t.op fWeightsX).d0
    let ns := match t.op? fWstage with
      | some d => d.d1
      | none => 0
    base + s.phi ms (ms.length * (64 + 8 * E) : Nat)
      + s.phi ms (max (bk * rb + eh * wb) ((t.op fRecv).d1 * rb + ns * wb) : Nat)

/-- The `COMBINE` bound. -/
def State.combineBound (s : State) (t : Task) : Rat :=
  let a := t.op 0
  let gate := t.op 2
  let bk := gate.d0 * gate.d1
  let x := t.form
  let c : Rat := (ceilDiv a.d1 64 + ceilDiv bk 64 * x + ceilDiv (bk * a.d0) 128 : Nat)
  let res : Rat := match t.op? 4 with
    | some d => es d.fmt
    | none => 0
  let xs : Counts := ([((t.op 1).base, (8 * a.d1 : Nat)), (a.base, (a.d1 * a.d0 : Nat) * es a.fmt),
    (gate.base, (4 * bk : Nat)), ((t.op 3).base, (gate.d1 * a.d0 : Nat) * es (t.op 3).fmt),
    ((t.op 4).base, (gate.d1 * a.d0 : Nat) * res), ((t.op 5).base, (8 * bk + 4 * gate.d1 : Nat))] : Counts)
    ++ [6, 7, 8].flatMap fun f => uncounted (t.op? f)
  let base := engineBound (c / (16 / 10)) (8192 / 10) xs
  if x = 0 then base
  else
    let tags := t.op 8
    let ds := (List.range tags.d0).foldl (fun l i =>
      let g := s.uint tags i 0 0
      if g = 0 then l else setInsert (g / 2 ^ 50) l) []
    base + s.phi ds ((max (t.op 7).d1 bk * a.d0 : Nat) * es a.fmt)

/-- The `GATHER` bound. -/
def gatherBound (t : Task) : Rat :=
  let a := t.op 0
  let en := (t.op 1).d0
  let nb := (t.op 2).d0 - 1
  let l := ((a.d0 : Rat) * es a.fmt / 64).ceil.toNat
  let c : Rat := (ceilDiv (en * l) 32 + 512 * l + nb : Nat)
  let w : Nat := b2n (t.imm 2 0 == 4)
  let xs : Counts := ([(a.base, (en * a.d0 : Nat) * es a.fmt), ((t.op 1).base, (8 * en : Nat)),
    ((t.op 4).base, (4 * en * w : Nat)), ((t.op 2).base, (8 * (nb + 1) : Nat))] : Counts) ++ countsOf (t.op 3) false 1
  engineBound (c / (16 / 10)) (8192 / 10) xs

/-- The functions of R276 that an instruction needs (R263, R278). -/
def functionsOf (op form : Nat) : List Nat :=
  if op = opScore then [2]
  else if op = opDispatch then (if form = 1 then [3, 12, 13] else [3])
  else if op = opGather then [3]
  else if op = opCombine then (if form = 1 then [4, 12] else [4])
  else if op = opDmm then (if form = 0 then [5] else [5, 13])
  else if op = opXmm ∨ op = opEwise ∨ op = opShadow then [5]
  else if op = opPrune then [6]
  else if op = opMove ∨ op = opPublish then [8]
  else if op = opRload ∨ op = opRstore ∨ op = opMstore ∨ op = opRatomic ∨ op = opRreduce then [12]
  else if op = opCollect then [13, 10]
  else []

/-- A task may be pre-empted at a boundary (R263, R409). -/
def preemptible (t : Task) : Bool :=
  let op := t.opcode
  (op == opDmm && t.form == 0) || op == opXmm || op == opEwise || op == opShadow || op == opGather || op == opMove
    || op == opRload || op == opRstore || op == opMstore || op == opRatomic || op == opRreduce

/-- The pre-emption bound of R409 in nanoseconds. -/
def preBound (v : Variant) (t : Task) : Rat :=
  let op := t.opcode
  let S : Rat := 1000
  let m := min (t.op 0).d1 256
  let P := partitionP v t.portable
  if op = opDmm ∨ op = opXmm then
    let s := if op = opDmm then splitCount P (t.op 1).d0 (t.op 0).d1 (t.op 0).d0
      else if t.form = 1 then max (splitCount P (t.op 2).d0 256 (t.op 0).d0) (splitCount P (t.op 0).d0 256 (t.op 2).d0)
      else 1
    if s = 1 then (crMax v t : Rat) / (8 / 10) + S else ((3 * crMax v t + (s - 1) * m : Nat) : Rat) / (8 / 10) + S
  else if op = opEwise then
    (if ewiseArray t then ((128 + 64 * ewiseCost (t.imm 7 0) : Nat) : Rat) else (blockCycles t : Rat)) / (8 / 10) + S
  else if op = opShadow then ((ceilDiv ((t.op 0).d1 * (t.op 0).d0) 64 * 3 : Nat) : Rat) / (8 / 10) + S
  else if op = opGather then
    ((512 * (((t.op 0).d0 : Rat) * es (t.op 0).fmt / 64).ceil.toNat : Nat) : Rat) / (16 / 10) + S
  else if op = opMove then 341 + S
  else 42 + S

/-- TIMEOUT_US and RETRIES of the Remote Memory Engine as they act (R364), in nanoseconds. -/
def State.rmeTimeout (s : State) : Nat := 1000 * max 1 (s.fld regRmeCtrl 47 32)
def State.rmeTries (s : State) : Nat := s.fld regRmeCtrl 31 28

/-- TIMEOUT_US of the Collective Engine in nanoseconds; values below 10 act as 10 (R395). -/
def State.colTimeout (s : State) : Nat := 1000 * max 10 (s.fld regColCtrl 63 32)

/-- What is left of the bound of a task in execution. -/
def State.boundLeft (s : State) (t : Task) : Nat := t.bound - (s.time - t.issueTime)

/-- The halt bound of a function from its own chapter (R106, R183, R278, R321, R331, R364, R395, R418, R433, R470; log
entry 14). The Activation Guard completes the items it holds, within the bound of their task (R217), and the Stack Memory
Subsystem a retrain or a segment of at most 50 µs (R252, R260). -/
def State.haltBound (s : State) (f : Nat) : Nat :=
  let live := s.tasks.filter fun t => t.phase == .running || t.phase == .ended
  let most (p : Task → Bool) (w : Task → Nat) : Nat := (live.filter p).foldl (fun m t => max m (w t)) 0
  let pre (t : Task) : Nat := (preBound s.variant t).ceil.toNat
  let uses (g : Nat) (t : Task) : Bool := (functionsOf t.opcode t.form).contains g
  let guarded (t : Task) : Bool := t.opcode == opXmm && t.imm 5 4 != 0
  if f = 1 then most (fun t => !(functionsOf t.opcode t.form).isEmpty) fun t => if preemptible t then pre t else s.boundLeft t
  else if f = 5 then most (uses 5) pre
  else if f = 7 then most guarded s.boundLeft
  else if f = 9 then max 50000 (most (uses 9) s.boundLeft)
  else if f = 10 then 2000 + most (uses 13) s.boundLeft
  else if f = 11 then 5000000
  else if f = 12 then (s.rmeTries + 1) * s.rmeTimeout
  else if f = 13 then s.colTimeout + most (uses 13) s.boundLeft
  else if f = 14 then 1000
  else if f = 15 then 2000
  else most (uses f) s.boundLeft

/-- The bound of a task in exact nanoseconds, on a grant (R267 to R291). -/
def State.boundOn (s : State) (g : Grant) (t : Task) : Rat :=
  let op := t.opcode
  if op = opFence then f0 + (if t.imm 0 0 = 1 then
      300 * s.hd ((s.rme.xfers.filter fun x => x.stream == t.stream && !x.acked).map (·.dst)) + 1000 else 0)
  else if op = opWait then (t.imm 47 20 : Rat) * 1000 + 100
  else if op = opHalt then f0 + s.haltBound (t.imm 4 0)
  else if op = opScore then
    let a := t.op 0
    let k := t.imm 3 0 + 1
    let p := (if t.imm 5 4 = 1 then 3 else 1) + b2n (decide (t.imm 11 6 > 0))
    let c : Rat := (a.d1 * p * ceilDiv a.d0 256 + 2 * k + 64 : Nat)
    engineBound (c / (12 / 10)) (12288 / 10) [(a.base, (a.d1 * a.d0 : Nat) * es a.fmt), ((t.op 3).base, (4 * a.d0 : Nat)),
      ((t.op 1).base, (4 * a.d1 * k : Nat)), ((t.op 2).base, (4 * a.d1 * k : Nat))]
  else if op = opDispatch then s.dispatchBound t
  else if op = opGather then gatherBound t
  else if op = opCombine then s.combineBound t
  else if op = opDmm then
    let base := dmmBound s.variant g t
    let grp := t.x 1 11 0
    let st := (t.op 4).bytesTotal
    let own := operandBytes (t.op 2) false / s.grpM grp
    if t.form = 1 then base + s.collBound grp 0 st st
    else if t.form = 2 then base + s.collBound grp 1 st (st / s.grpM grp)
    else if t.form = 3 then base + s.collBound grp 2 own own
    else base
  else if op = opXmm then xmmBound s.variant g t
  else if op = opEwise then ewiseBound g t
  else if op = opPrune then
    let m := t.op 0
    let blk := m.d2 * m.d1 * m.d0 / 64
    let q := t.imm 2 0
    let c : Rat := if t.form = 0 then (blk * (8 * q + 9) : Nat) else (2 * blk : Nat)
    engineBound (c / (16 / 10)) (8192 / 10) (countsOf m false 2 ++ ([((t.op 1).base, (8 * blk * (t.form + 1) : Nat))] : Counts)
      ++ countsOf (t.op 2) true 1 ++ (match t.op? 3 with
        | some d => countsOf d true 1
        | none => []))
  else if op = opShadow then
    let a := t.op 0
    let c : Rat := (ceilDiv a.d2 g.pg * ceilDiv (a.d1 * a.d0) 64 * 3 : Nat)
    engineBound (c / (8 / 10)) ((8192 / 10) * g.ncl) (countsOf a true 1 ++ countsOf (t.op 1) false 1
      ++ (match t.op? 2 with
        | some d => countsOf d false 1
        | none => [])) + (operandBytes a true : Rat) / 8
  else if op = opMove then engineBound 0 (4096 / 10) (countsOf (t.op 0) false 1 ++ countsOf (t.op 1) false 1)
  else if op = opPublish then (s.regionPages (t.imm 7 0) : Rat) * (13654 / 10) + 20000 + f0
  else if op = opRload ∨ op = opRstore ∨ op = opMstore ∨ op = opRatomic ∨ op = opRreduce then
    let x := (t.op 0).span
    let ds := if op = opMstore then (List.range (t.op 1).d0).map fun i => s.uint (t.op 1) i 0 0 / 2 ^ 50
      else [t.imm 13 0]
    f0 + rho ((x : Rat) / 100) + (ceilDiv x 2097152 * (300 * s.hd ds + 1000) : Nat)
      + Counts.windowTime (t.ops.flatMap fun o => uncounted (some o.desc))
  else if op = opCollect then
    let kind := t.imm 15 12
    let x := if kind = 4 then 0 else operandBytes (if kind = 3 then t.op 1 else t.op 0) false
    s.collBound (t.imm 11 0) kind x x
      + Counts.windowTime (t.ops.flatMap fun o => uncounted (some o.desc))
  else f0

/-- The bound evaluated at acceptance, rounded up to a whole nanosecond (R401). -/
def State.bound (s : State) (t : Task) : Nat := (s.boundOn (boundGrant s.variant t) t).ceil.toNat

/-- The setting of SCH_LC(n) in force (R546): BUDGET_US, and PERIOD_US within its limits (R419). -/
def State.lcSetting (s : State) (n : Nat) : Nat :=
  (mapGet (resetWord s.variant (regSchLc n)) n s.sched.inForce).toNat
def State.lcBudget (s : State) (n : Nat) : Nat := getBits (s.lcSetting n) 31 0
def periodOf (w : Nat) : Nat := max 1 (min 1000000 (getBits w 63 32))
def State.lcPeriod (s : State) (n : Nat) : Nat := periodOf (s.lcSetting n)

/-! ### Engines (R396, R409) -/

/-- The engine of R396 that a task holds. -/
def engineOf (op : Nat) : Option Nat :=
  if op = opDmm ∨ op = opXmm ∨ op = opEwise ∨ op = opShadow then some 0
  else if op = opScore then some 1
  else if op = opDispatch then some 2
  else if op = opGather then some 3
  else if op = opCombine then some 4
  else if op = opPrune then some 5
  else if op = opMove then some 6
  else if op = opPublish then some 7
  else none

/-- A task that needs no stake is light (R263, R264). -/
def isHeavy (t : Task) : Bool :=
  t.opcode == opDmm || t.opcode == opXmm || t.opcode == opCollect
    || ((t.opcode == opDispatch || t.opcode == opCombine) && t.form == 1) || (t.opcode == opEwise && ewiseArray t)

/-- Blocking time of a best-effort task (R404). -/
def State.blocking (s : State) (t : Task) : Rat := if preemptible t then preBound s.variant t else (t.bound : Rat)

end Sys2Proof.Machine
end

