-- ==== Sys2Proof/Machine/Journal.lean ====
section
/-! DEFINITION. The journal (R95 to R104, R543): entries and their chain, segments, completion fields and NOTE
entries, event entries and the reserve, and the actions that wait for an event entry. -/

namespace Sys2Proof.Machine

open Sys2Proof

/-- Entries that the ring holds, and those still free (R103). -/
def State.journalSize (s : State) : Nat := 2 ^ s.reg regCmdJournalLog2
def State.journalFree (s : State) : Nat := s.journalSize - (s.reg regCmdJournalHead - s.reg regCmdJournalTail)

/-- Address of the entry of a SEQ. -/
def State.entryAddr (s : State) (q : Nat) : Nat := s.reg regCmdJournalBase + 128 * (q % s.journalSize)

/-- CMD_JOURNAL_CHAIN as a number. -/
def State.chain (s : State) : Nat := s.reg (regCmdJournalChain 0) + s.reg (regCmdJournalChain 1) * 2 ^ 64

/-- The slot of the oldest closed segment that awaits its signature is free: its index lies less than CMD_JSIG_COUNT
above CMD_JSIG_TAIL (R101). -/
def State.jsigFree (s : State) : Bool :=
  match s.journal.signing with
  | g :: _ => decide (g.index - s.reg regCmdJsigTail < s.reg regCmdJsigCount)
  | [] => true

/-- The signature being made, or, while the engine is free, the one of the highest priority that is asked for (R481). -/
def State.signerNow (s : State) : Option Signer :=
  match s.sec.signer with
  | some x => some x
  | none =>
    if !s.journal.signing.isEmpty && s.jsigFree then some .segment
    else if !s.rru.unsigned.isEmpty || s.rru.trig.any (·.signing) then some .trig
    else if s.sec.attest.isSome then some .attest
    else none

/-- A free signing engine takes up its next signature, which nothing interrupts (R481). -/
def State.startSigning (s : State) : State := { s with sec := { s.sec with signer := s.signerNow } }

/-- A signature has been made, and the engine takes up the next. -/
def State.nextSigning (s : State) : State := { s with sec := { s.sec with signer := none } }.startSigning

/-- Closed segments that await their signature stop acceptance when there are two (R481). -/
def State.updateBacklog (s : State) : State :=
  let b := decide (2 ≤ s.journal.signing.length)
  let s1 := s.setBit regSecStatus 6 b
  if b && !s.bit regSecStatus 6 then s1.irq 68 else s1

/-- The open segment closes (R100, R101); no segment is empty. -/
def State.closeSegment (s : State) (cause : Nat) : State :=
  if s.journal.count = 0 then s
  else
    let last := s.reg regCmdJournalHead - 1
    let bytes := (List.range s.journal.count).flatMap fun i => s.rdBytes (s.entryAddr (s.journal.firstSeq + i)) 128
    let seg : Segment := { index := s.reg regCmdJsigHead, firstSeq := s.journal.firstSeq, lastSeq := last, lastChain := BitVec.ofNat 128 s.chain,
                           predChain := s.journal.predChain, time := s.time, digest := shake256 32 bytes,
                           cause := cause }
    let s1 := { s with journal := { s.journal with count := 0, signing := s.journal.signing ++ [seg] } }
    ((s1.setReg regCmdJournalClosed (last + 1)).addReg regCmdJsigHead 1).startSigning.updateBacklog

/-- Acceptance stops while fewer than 4,160 entries are free, and the segment closes when it stops (R100, R103). -/
def State.updateFull (s : State) : State :=
  let full := decide (s.journalFree < 4160)
  let was := s.bit regCmdStatus 3
  let s1 := s.setBit regCmdStatus 3 full
  if full && !was then (s1.irq 66).closeSegment 4
  else if full then s1
  else { s1 with journal := { s1.journal with reserveUsed := 0 } }

/-- One entry written at CMD_JOURNAL_HEAD: its bytes 0 to 47 and 64 to 127 given, its chain computed, the segment
counted (R96, R98, R100, R431). -/
def State.writeEntry (s : State) (head48 tail64 : List Byte) : State :=
  let q := s.reg regCmdJournalHead
  let pred := s.chain
  let chain := shake256 16 (leBytes 16 pred ++ head48)
  let s1 := s.putBytes (s.entryAddr q) (head48 ++ chain ++ padTo 64 tail64)
  let c := leNat chain
  let s2 := (s1.setReg regCmdJournalHead (q + 1)).setReg (regCmdJournalChain 0) (c % 2 ^ 64)
  let s3 := (s2.setReg (regCmdJournalChain 1) (c / 2 ^ 64)).setReg regRruLastSeq q
  let s4 := (s3.setReg (regRruLastChain 0) (c % 2 ^ 64)).setReg (regRruLastChain 1) (c / 2 ^ 64)
  let j := s4.journal
  let j1 := if j.count = 0 then { j with count := 1, firstSeq := q, firstTime := s.time, predChain := BitVec.ofNat 128 pred }
            else { j with count := j.count + 1 }
  let s5 := { s4 with journal := j1 }
  (if j1.count ≥ 65536 then s5.closeSegment 1 else s5).updateFull

/-- Bytes 0 to 47 of an entry (R95). -/
def entryHead (q kind stream opcode formNext ring time : Nat) (digest : List Byte) (job : Nat) : List Byte :=
  leBytes 8 q ++ leBytes 1 kind ++ leBytes 1 stream ++ leBytes 1 opcode ++ leBytes 1 formNext ++ leBytes 4 ring
    ++ leBytes 8 time ++ padTo 16 (digest.take 16) ++ leBytes 4 job ++ leBytes 4 0

/-- The digest of a task: task word, extension words, and descriptors in the order of their fields (R97). -/
def taskDigest (word : BitVec 128) (ext : List (BitVec 128)) (ops : List Operand) : List Byte :=
  shake256 16 (leBytes 16 word.toNat ++ ext.flatMap (fun e => leBytes 16 e.toNat) ++ ops.flatMap (·.desc.bytes))

/-- FORM_NEXT of R95. -/
def formNext (word : BitVec 128) : Nat := 16 * wordForm word + wordNext word

/-- The status word of an outcome (R93). -/
def statusOf (outcome : Nat) : Nat := outcome * 2 ^ 12

/-- Bytes 64 to 95 of an entry (R95). -/
def completionBytes (issue complete outcome err detail engineNs : Nat) : List Byte :=
  leBytes 8 issue ++ leBytes 8 complete ++ leBytes 2 (statusOf outcome) ++ leBytes 2 err ++ leBytes 4 detail
    ++ leBytes 8 engineNs

/-- A TASK entry (R95, R96). -/
def State.taskEntry (s : State) (t : Task) : State :=
  s.writeEntry (entryHead (s.reg regCmdJournalHead) 0 t.stream t.opcode (formNext t.word) t.ring s.time
    (taskDigest t.word t.ext t.ops) t.job) []

/-- A REFUSED entry, with its completion fields (R85, R96). -/
def State.refusedEntry (s : State) (t : Task) (err : Nat) : State :=
  s.writeEntry (entryHead (s.reg regCmdJournalHead) 1 t.stream t.opcode (formNext t.word) t.ring s.time
    (taskDigest t.word t.ext t.ops) t.job) (completionBytes 0 0 3 err 0 0)

/-- The segment of a SEQ is still open. -/
def State.entryOpen (s : State) (q : Nat) : Bool := decide (s.reg regCmdJournalClosed ≤ q)

/-- ISSUE_TIME in place, while the segment is open (R96). -/
def State.issueEntry (s : State) (t : Task) : State :=
  if s.entryOpen t.seq then s.putBytes (s.entryAddr t.seq + 64) (leBytes 8 t.issueTime) else s

/-- The completion fields of a task, in place or in a NOTE entry (R96, R102). -/
def State.completeEntry (s : State) (t : Task) : State :=
  let c := completionBytes t.issueTime s.time t.outcome t.err t.detail t.engineNs
  if s.entryOpen t.seq then s.putBytes (s.entryAddr t.seq + 64) c
  else
    let s1 := s.writeEntry (entryHead (s.reg regCmdJournalHead) 2 t.stream t.opcode (formNext t.word) t.ring s.time
      (taskDigest t.word t.ext t.ops) t.job) (c ++ leBytes 8 t.seq)
    s1

/-- Event codes (R99). -/
abbrev evOpen : Nat := 0x01
abbrev evResume : Nat := 0x02
abbrev evEpoch : Nat := 0x03
abbrev evStreamResumed : Nat := 0x04
abbrev evQuench : Nat := 0x05
abbrev evPrepared : Nat := 0x10
abbrev evCommitted : Nat := 0x11

/-- An event entry other than QUENCH can be written now (R104, R543). -/
def State.eventFits (s : State) : Bool :=
  s.journal.opened && !(s.bit regCmdStatus 3 && decide (63 ≤ s.journal.reserveUsed))

/-- An event entry (R99), counted against the reserve while acceptance is stopped (R103). -/
def State.event (s : State) (code arg : Nat) (digest : List Byte) : State :=
  let s1 := if s.bit regCmdStatus 3 && code != evQuench then
      { s with journal := { s.journal with reserveUsed := s.journal.reserveUsed + 1 } } else s
  s1.writeEntry (entryHead (s1.reg regCmdJournalHead) 3 0 code 0 arg s1.time digest 0) []

/-! ### The RESUME entry (R99, R109) -/

/-- The offsets of a register row, ascending within the row. -/
def RegRow.offsets (r : RegRow) : List Nat :=
  (List.range r.count2).flatMap fun g => (List.range r.count).map fun i => r.base + g * r.stride2 + i * r.stride

/-- The words of every register that holds a WH field of function `f`, in ascending address, with their widths in
bytes. The words of a 256-bit COL_GROUP register are all taken; group 0 has no register (R395). -/
def whWords (v : Variant) (f : Nat) : List (Nat × Nat) :=
  let rows := regTable.filter fun r => r.owner == f && (r.wh != 0 || r.base == regColGroup 0
    || r.base == regGlbPartition)
  let none_ (o : Nat) : Bool := absentOff v o || decide (regColGroup 0 ≤ o ∧ o < regColGroup 0 + 32)
  let ws := rows.flatMap fun r => (r.offsets.filter fun o => !none_ o).map fun o => (o, r.width / 8)
  ws.mergeSort fun a b => decide (a.1 ≤ b.1)

/-- Every word of the DIGEST of a RESUME entry. -/
def State.whBytes (s : State) (f : Nat) : List Byte := (whWords s.variant f).flatMap fun w => leBytes w.2 (s.reg w.1)

/-- The RESUME event entry of a function (R109). -/
def State.resumeEntry (s : State) (f : Nat) : State := s.event evResume f (shake256 16 (s.whBytes f))

/-- The OPEN event entry (R465, R477). -/
def State.openEntry (s : State) : State :=
  let fw := (List.range 4).flatMap fun i => leBytes 8 (s.reg (regSecFwDigest i))
  let pk := (List.range 8).flatMap fun i => leBytes 8 (s.reg (regSecIdentityPk i))
  s.event evOpen (s.reg regRruResets) (shake256 16 (fw ++ pk))

/-- The EPOCH event entry (R99). -/
def State.epochEntry (s : State) (v : Nat) : State :=
  s.event evEpoch v (shake256 16 ((List.range 64).flatMap fun n => leBytes 4 (s.reg (regCmdStrmHead n))))

/-- An action put behind the others that wait for their event entry (R104, R543). -/
def State.wait (s : State) (w : Waiting) : State :=
  { s with journal := { s.journal with waiting := s.journal.waiting ++ [w] } }

/-- CMD_STRM_STATUS(n) as it reads: IDLE follows from the counters (R105). -/
def State.strmStatus (s : State) (n : Nat) : Nat :=
  let h := s.reg (regCmdStrmHead n)
  let idle := h == s.reg (regCmdStrmTail n) % 2 ^ 32 && s.reg (regCmdStrmRetire n) == h
  s.reg (regCmdStrmStatus n) / 2 * 2 + b2n idle

/-- A streaming status bit set: FAULT, BAD_DOORBELL or STALE_DOORBELL, with its interrupt (R500). -/
def State.streamFlag (s : State) (n i : Nat) : State := (s.setBit (regCmdStrmStatus n) i true).irq 73

end Sys2Proof.Machine
end

