-- ==== Sys2Proof/Machine/Checks.lean ====
section
/-! DEFINITION. The acceptance checks of R83: each check of R263 to R291 and R541, and the first failing error code in
the order of R270 (R271). -/

namespace Sys2Proof.Machine

open Sys2Proof

/-- Error codes of R270. -/
abbrev errOpcode : Nat := 0x0001
abbrev errNext : Nat := 0x0002
abbrev errReserved : Nat := 0x0003
abbrev errDescIndex : Nat := 0x0004
abbrev errFormat : Nat := 0x0005
abbrev errFormatPair : Nat := 0x0006
abbrev errAbsent : Nat := 0x0007
abbrev errNotWritable : Nat := 0x0008
abbrev errImageMismatch : Nat := 0x0009
abbrev errOperandLimit : Nat := 0x000A
abbrev errAddressRange : Nat := 0x000B
abbrev errPartialSpace : Nat := 0x000C
abbrev errRegionSealed : Nat := 0x000D
abbrev errImageRetired : Nat := 0x000E
abbrev errPublishState : Nat := 0x000F
abbrev errBoundNone : Nat := 0x0010
abbrev errChoiceRange : Nat := 0x0101
abbrev errChoiceDup : Nat := 0x0102
abbrev errGatherRange : Nat := 0x0103
abbrev errTagFault : Nat := 0x0104
abbrev errPruneNonfinite : Nat := 0x0105
abbrev errMaskInvalid : Nat := 0x0106
abbrev errGuardTable : Nat := 0x0107
abbrev errImagePoison : Nat := 0x0108
abbrev errPoison : Nat := 0x0109
abbrev errWaitTimeout : Nat := 0x010A
abbrev errNotHalted : Nat := 0x010B
abbrev errUnitFenced : Nat := 0x010C
abbrev errRecordRange : Nat := 0x010D
abbrev errSendWindow : Nat := 0x0201
abbrev errUnreachable : Nat := 0x0202
abbrev errRemoteTimeout : Nat := 0x0203
abbrev errMultiPartial : Nat := 0x0204
abbrev errPostedFailed : Nat := 0x0205
abbrev errTargetStatus : Nat := 0x0206
abbrev errSeamMismatch : Nat := 0x0301
abbrev errCollTimeout : Nat := 0x0302
abbrev errMemberFailed : Nat := 0x0303
abbrev errRecvOverflow : Nat := 0x0304
abbrev errQuenched : Nat := 0x0305
abbrev errReset : Nat := 0x0306

/-- The outcome that goes with an error code (R270). -/
def outcomeOf (err : Nat) : Nat := if err = 0 then 1 else if err < 0x100 then 3 else if err < 0x300 then 2 else 5

/-! ### Reserved fields (R83, R265) -/

/-- The mask of a list of bit ranges. -/
def rangeMask (rs : List (Nat × Nat)) : Nat := rs.foldl (fun m r => m ||| ((2 ^ (r.1 + 1 - r.2) - 1) <<< r.2)) 0

/-- A reserved field of the slot is not 0. -/
def slotReserved (l : Layout) (word : BitVec 128) (ext : List (BitVec 128)) : Bool :=
  let w := word.toNat
  getBits w 99 96 != 0
    || (getBits w 47 0 ||| rangeMask l.imm) != rangeMask l.imm
    || ((List.range 4).any fun f => fieldIndex word ext l.descs f != 0 && !(l.roles.any fun r => r.field == f))
    || ((List.range l.next).any fun i =>
        let m := rangeMask (((l.ext.filter fun e => e.1 == i + 1).map fun e => (e.2.1, e.2.2))
          ++ ((l.descs.filter fun e => e.1 == i + 1).map fun e => (e.2 + 11, e.2)))
        ((ext.getD i 0).toNat ||| m) != m)

/-- A reserved field of a descriptor is not 0 (R80). -/
def descReserved (d : Desc) : Bool := d.flags >= 8 || d.resv != 0

/-! ### Where operands lie (R219, R220, R230, R541) -/

/-- The spans of an operand: its elements and its scale bytes. -/
def spansOf (d : Desc) (weight : Bool) : List (Nat × Nat) :=
  [(d.base, d.span)] ++ (if d.scaled then [(d.scaleBase, d.scaleSpan weight)] else [])

/-- `n` bytes at `a` reach the addressable store of an absent or lost core (R3, R219, R427). -/
def State.reachesAbsent (s : State) (a n : Nat) : Bool :=
  decide (a < localBase + 0x100000 * 160 ∧ localBase < a + n) && (List.range 160).any fun c =>
    rangesMeet a n (localBase + 0x100000 * c) 0xC0000 && (decide (logicalCores s.variant ≤ c) || s.coreLost c)

/-- Where a whole span lies: 0 nowhere, 1 HBM, 2 a bank's program area, 3 a present local store, 4 the window, 5 in part
or whole in a store of an absent or lost core, 6 a residency area. -/
def State.spanPlace (s : State) (a n : Nat) : Nat :=
  let last := a + (max n 1) - 1
  if last < s.smsLimit then 1
  else if s.reachesAbsent a (max n 1) then 5
  else if localBase ≤ a ∧ last < localBase + 0x100000 * 160 ∧ (a - localBase) / 0x100000 = (last - localBase) / 0x100000
      ∧ (last - localBase) % 0x100000 < 0xC0000 then
    if (last - localBase) % 0x100000 ≥ s.residencyStart then 6 else 3
  else match s.place a, s.place last with
    | .program b, .program c => if b = c then 2 else 0
    | .window, .window => 4
    | _, _ => 0

/-- The page states that a span touches. -/
def State.spanStates (s : State) (a n : Nat) : List Nat := (pagesOf a n).map s.pageState

/-- A span lies in the image that a descriptor names, in the given image states (R541). -/
def State.inImage (s : State) (d : Desc) (a n : Nat) (states : List Nat) : Bool :=
  s.spanPlace a n == 1 && s.images.any fun j =>
    s.imgVersion j == d.version && s.imgDigest j % 2 ^ 128 == d.digest && states.contains (s.imgState j)
      && decide (65536 * s.imgFirst j ≤ a ∧ a + n ≤ 65536 * (s.imgFirst j + s.imgPages j))

/-- An operand with its role. -/
structure Named where
  role : Role
  desc : Desc
  deriving DecidableEq, Repr

/-- Every span of a named operand satisfies a test somewhere. -/
def Named.anySpan (o : Named) (f : Nat → Nat → Bool) : Bool := (spansOf o.desc o.role.weight).any fun p => f p.1 p.2

/-- ABSENT by address: a local store of an absent or lost core (R219, R427). -/
def State.opAbsent (s : State) (o : Named) : Bool := o.anySpan fun a n => s.spanPlace a n == 5

/-- NOT_WRITABLE (R83, R230, R541). -/
def State.opNotWritable (s : State) (o : Named) : Bool :=
  o.role.write && (!o.desc.writable || o.anySpan fun a n =>
    (s.deviceAreas.any fun r => rangesMeet a n r.1 r.2)
      || s.spanPlace a n == 0
      || (s.spanPlace a n == 1 && (s.spanStates a n).any fun p => p != 1 && p != 2))

/-- IMAGE_MISMATCH (R83, R541). -/
def State.opImageMismatch (s : State) (o : Named) : Bool :=
  if o.desc.image then o.anySpan fun a n => !s.inImage o.desc a n [4, 5]
  else o.role.read && o.anySpan fun a n =>
    s.spanPlace a n == 1 && (s.spanStates a n).any fun p => p == 3 || p == 4 || p == 5

/-- ADDRESS_RANGE (R219, R416, R541). -/
def State.opAddressRange (s : State) (o : Named) : Bool :=
  o.anySpan fun a n =>
    let p := s.spanPlace a n
    p == 0 || p == 6
      || (p == 1 && o.role.read && !o.desc.image && (s.spanStates a n).any fun q => q == 0 || q == 6)

/-- REGION_SEALED (R233, R541). -/
def State.opSealed (s : State) (o : Named) : Bool :=
  o.role.write && o.anySpan fun a n => s.spanPlace a n == 1 && (s.spanStates a n).any fun p => p == 2

/-- IMAGE_RETIRED (R83, R235). -/
def State.opRetired (s : State) (o : Named) : Bool :=
  o.desc.image && o.anySpan fun a n => s.inImage o.desc a n [5]

/-! ### Formats -/

/-- An element format of R35 other than E8M0. -/
def elemFmt (f : Nat) : Bool := decide (f ≤ 5)

/-- SCALED is illegal for the format, or E2M1 lacks it (R39). -/
def scaledIllegal (d : Desc) : Bool :=
  let can := d.fmt == fmtE2m1 || d.fmt == fmtE4m3 || d.fmt == fmtE5m2 || d.fmt == fmtInt8 || fmtQ d.fmt != 0
  (d.scaled && !can) || (d.fmt == fmtE2m1 && !d.scaled)

/-- A named operand has a format outside a list. -/
def badFmt (t : Task) (field : Nat) (fs : List Nat) : Bool :=
  match t.op? field with
  | some d => !fs.contains d.fmt
  | none => false

/-- A named operand fails a test. -/
def badOp (t : Task) (field : Nat) (ok : Desc → Bool) : Bool :=
  match t.op? field with
  | some d => !ok d
  | none => false

/-- The formats of two operands are no legal pair. An operand that is not named has no format, and so rules out
nothing (R265 refuses it later in the order of R271). -/
def badPair (t : Task) (i j : Nat) (ok : Nat → Nat → Bool) : Bool :=
  match t.op? i, t.op? j with
  | some a, some b => !ok a.fmt b.fmt
  | some a, none => !(List.range 32).any fun y => ok a.fmt y
  | none, some b => !(List.range 32).any fun x => ok x b.fmt
  | none, none => false

/-- The formats FP32 and BF16, and the element formats. -/
def floats : List Nat := [fmtFp32, fmtBf16]
def elems : List Nat := [0, 1, 2, 3, 4, 5]

/-- The inputs that an `EWISE` operation reads: fields A, B, C and E (R286). -/
def ewiseInputs (op : Nat) : List Nat :=
  if op = 0x00 ∨ op = 0x01 ∨ op = 0x02 ∨ op = 0x04 ∨ op = 0x05 ∨ op = 0x20 then [0, 1]
  else if op = 0x03 ∨ op = 0x07 then [0, 1, 2]
  else if op = 0x21 then [0, 1, 2, 4]
  else if op = 0x06 ∨ op = 0x08 ∨ (0x10 ≤ op ∧ op ≤ 0x17) ∨ (0x30 ≤ op ∧ op ≤ 0x33) then [0]
  else []

/-- FORMAT_PAIR for an instruction (R46, R138, R161, R286 and the entries of spec 08). -/
def formatPair (t : Task) : Bool :=
  let op := t.opcode
  let same (i j : Nat) : Bool := badPair t i j (· == ·)
  let multiplies (a b : Nat) : Bool := (pairSpan a b).isSome
  if op = opScore then badFmt t 0 floats || badFmt t 1 [fmtInt32] || badFmt t 2 [fmtFp32] || badFmt t 3 [fmtFp32]
  else if op = opDispatch then
    badFmt t 0 [fmtInt32] || badFmt t 1 [fmtRaw] || badFmt t 2 [fmtInt32] || badFmt t 3 [fmtUint64]
      || badFmt t fTokens elems || same fTokens fRowsOut
      || badFmt t fHome [fmtInt32] || badFmt t fWeightsX [fmtRaw] || badFmt t fWstage [fmtRaw]
      || same fTokens fRecv || badFmt t fRecvRowmap [fmtInt32] || badFmt t fRecvTags [fmtUint64]
      || badFmt t fRecvRecords [fmtRaw]
  else if op = opGather then
    badFmt t 0 elems || badFmt t 1 [fmtUint64] || badFmt t 2 [fmtUint64] || badFmt t 4 [fmtFp32]
      || (if t.imm 2 0 = 0 then same 0 3 || ((t.op? 0).isSome && badOp t 3 fun d => d.scaled == (t.op 0).scaled)
          else badFmt t 3 floats)
  else if op = opCombine then
    badFmt t 0 floats || badFmt t 1 [fmtUint64] || badFmt t 2 [fmtFp32] || badFmt t 3 floats || badFmt t 4 floats
      || badFmt t 5 [fmtRaw] || same 0 6 || same 0 7 || badFmt t 8 [fmtUint64]
  else if op = opDmm then
    badPair t 0 1 actOk || badFmt t 2 elems || badFmt t 3 [fmtFp32] || badFmt t 4 [fmtFp32]
  else if op = opXmm then
    badPair t 0 2 actOk || badPair t 6 3 actOk || badFmt t 1 [fmtRaw] || badFmt t 4 floats || badFmt t 5 [fmtUint64]
      || badFmt t 7 [fmtFp32] || badFmt t 8 [fmtFp32] || badFmt t 9 [fmtRaw] || badFmt t 10 [fmtRaw]
      || badFmt t 11 [fmtRaw]
  else if op = opEwise then
    let o := t.imm 7 0
    badFmt t 3 elems || ((ewiseInputs o).any fun i => badFmt t i elems)
      || (t.form == 1 && badFmt t 3 [fmtBf16, fmtE5m2, fmtE4m3, fmtE2m1])
      || (ewiseArray t && badPair t 0 1 multiplies)
      || (o == 0x21 && badPair t 2 4 multiplies)
  else if op = opPrune then
    let q := t.imm 2 0
    let codes := if q = 4 then [0x10, 0x11, 0x12] else if q = 2 then [0x14, 0x15, 0x16]
      else [0x10, 0x11, 0x12, 0x14, 0x15, 0x16]
    badFmt t 0 floats || badFmt t 1 [0x18] || badFmt t 2 codes || badFmt t 3 codes
  else if op = opShadow then
    badFmt t 0 [fmtBf16, fmtE5m2, fmtE4m3, fmtE2m1, fmtInt8, 0x10, 0x11, 0x12, 0x14, 0x15, 0x16]
      || badFmt t 1 [fmtRaw] || badFmt t 2 [fmtRaw]
  else if op = opMove then same 0 1
  else if op = opMstore then badFmt t 1 [fmtUint64] || badFmt t 2 [fmtRaw]
  else if op = opRatomic then badFmt t 0 [if t.imm 28 28 = 0 then fmtInt32 else fmtUint64]
  else if op = opRreduce then badFmt t 0 [fmtInt32, fmtFp32, fmtBf16]
  else if op = opCollect then
    let kind := t.imm 15 12
    (if kind ≤ 1 then badFmt t 0 [fmtInt32, fmtFp32, fmtBf16] else false)
      || (decide (kind ≤ 3) && same 0 1)
  else false

/-! ### Limits (R265 and the entries of spec 08) -/

/-- The dimensions of an operand. -/
def dims (d : Desc) (a b : Nat) : Bool := decide (d.d0 = a ∧ d.d1 = b)

/-- The bytes of one guard table with the given sections (R207). -/
def guardTableBytes (K H rank : Nat) (shadow : Bool) : Nat :=
  let r (n : Nat) := 64 * ceilDiv n 64
  64 + (if shadow then r (ceilDiv (K * H) 2) + r (ceilDiv K 32 * H) + r (4 * H) else 0)
    + (if rank > 0 then r (K * rank) + r (ceilDiv K 32 * rank) + r (rank * H) + r (ceilDiv rank 32 * H) + r (4 * H) else 0)

/-- The limits of `SCORE` (R115, R148). LOGITS with a third dimension is refused, while DIM2 of the other routing
operands is ignored: the spec gives the operands two dimensions and says neither (log entry 37). -/
def limitScore (t : Task) : Bool :=
  let a := t.op 0
  let e := a.d0
  let b := a.d1
  let k := t.imm 3 0 + 1
  let g := t.imm 11 6 + 1
  let topg := t.imm 17 12 + 1
  let j := t.imm 18 18 + 1
  let sc := decodeElem fmtFp32 (t.x 1 31 0)
  !(decide (1 ≤ b ∧ b ≤ 2 ^ 24 ∧ e ≤ 65536 ∧ t.imm 5 4 ≠ 3 ∧ e % g = 0 ∧ topg ≤ g ∧ k ≤ e ∧ k * g ≤ topg * e ∧ j ≤ e / g
      ∧ b * k ≤ 2 ^ 24 ∧ a.d2 = 1)
    && !sc.nonfinite && !sc.isZero && !sc.neg? && dims (t.op 1) k b && dims (t.op 2) k b)
    || badOp t 3 fun d => dims d e 1

/-- Bytes of one row in the stream of an exchange: its tag, its elements, its block scales (log entry 18). -/
def streamRow (d : Desc) : Nat := 8 + d.rowBytes + (if d.scaled then ceilDiv d.d0 32 else 0)

/-- The limits of `DISPATCH` (R123, R132, R148, R280, R314). The `.X` form without TOKENS is refused, a choice of the
model (log entry 37). -/
def State.limitDispatch (s : State) (t : Task) : Bool :=
  let a := t.op 0
  let k := a.d0
  let b := a.d1
  let e := (t.op 1).d1
  let rows := (t.op 2).d0
  let cap := t.imm 27 12
  let tok := t.op fTokens
  let has := (t.op? fTokens).isSome
  !(decide (1 ≤ b ∧ b ≤ 2 ^ 24 ∧ 1 ≤ k ∧ k ≤ 16 ∧ k ≤ e ∧ e ≤ 65536 ∧ b * k ≤ 2 ^ 24)
    && decide ((t.op 1).d0 = 16 ∧ (t.op 3).d0 = rows ∧ e * cap ≤ rows ∧ rows - e * cap ≥ k * (b - cap))
    && has == (t.op? fRowsOut).isSome)
    || badOp t fTokens (fun d => decide (1 ≤ d.d0 ∧ d.d0 ≤ 16384 ∧ d.d1 = b))
    || badOp t fRowsOut (fun d => dims d tok.d0 rows)
    || (t.form == 1 &&
      (let rr := (t.op fRecv).d1
       let wb := (t.op fWeightsX).d0
       let eh := ((List.range (t.op fHome).d0).filter fun i => s.uint (t.op fHome) i 0 0 % 16384 == s.deviceId).length
       !(has && (t.op fHome).d0 == e && dims (t.op fWeightsX) wb e && (t.op fWeightsX).image
          && (t.op fRecv).d0 == tok.d0 && (t.op fRecvRowmap).d0 == rr && (t.op fRecvTags).d0 == rr
          && dims (t.op fRecvRecords) 16 e
          && decide (b * k * streamRow tok ≤ 2 ^ 31 ∧ wb * eh ≤ 2 ^ 31))
        || badOp t fWstage (fun d => d.d0 == wb)))

/-- The limits of `GATHER` (R138, R148). -/
def limitGather (t : Task) : Bool :=
  let a := t.op 0
  let en := (t.op 1).d0
  let nb := (t.op 2).d0 - 1
  let m := t.imm 2 0
  !(decide (m ≤ 4 ∧ 1 ≤ a.d0 ∧ a.d0 ≤ 16384 ∧ en ≤ 2 ^ 28 ∧ 1 ≤ nb ∧ nb ≤ 2 ^ 24)
    && (t.op? 4).isSome == (m == 4) && dims (t.op 3) a.d0 (if m = 0 then en else nb))
    || badOp t 4 (fun d => d.d0 == en)

/-- The limits of `COMBINE` (R144, R148, R314). -/
def limitCombine (t : Task) : Bool :=
  let a := t.op 0
  let g := t.op 2
  let k := g.d0
  let b := g.d1
  !(decide (1 ≤ a.d0 ∧ a.d0 ≤ 16384 ∧ 1 ≤ k ∧ k ≤ 16 ∧ 1 ≤ b ∧ b ≤ 2 ^ 24 ∧ b * k ≤ 2 ^ 24)
    && (t.op 1).d0 == a.d1 && dims (t.op 3) a.d0 b && decide ((t.op 5).bytesTotal ≥ 4 * b * k + 2 * b))
    || badOp t 4 (fun d => dims d a.d0 b)
    || (t.form == 1 &&
      !(dims (t.op 6) a.d0 (b * k) && (t.op 7).d0 == a.d0 && (t.op 8).d0 == (t.op 7).d1
        && decide ((t.op 7).d1 * (8 + (t.op 7).rowBytes) ≤ 2 ^ 31)))

/-- A group that a task may name: VALID and LOCAL (R367). -/
def State.groupOk (s : State) (g : Nat) : Bool := decide (1 ≤ g ∧ g < 4096) && s.grpValid g && s.grpLocal g

/-- The limits of `DMM` (R282, R283, R314, R367, R375). -/
def State.limitDmm (s : State) (t : Task) : Bool :=
  let x := t.op 0
  let w := t.op 1
  let k := x.d0
  let m := x.d1
  let n := w.d0
  let g := t.x 1 11 0
  let f := t.form
  let gm := s.grpM g
  let sh := shard m gm (s.grpRank g)
  let rows := if f = 2 then sh.2 - sh.1 else if f = 3 then gm * m else m
  let contrib := m * (t.op 2).rowBytes
  !(decide (t.imm 3 0 ≤ 6 ∧ m ≤ 2 ^ 24 ∧ k ≤ 2 ^ 20 ∧ n ≤ 2 ^ 20) && dims w n k && dims (t.op 2) n rows)
    || badOp t 3 (fun d => d.d0 == n)
    || (f != 0 && !s.groupOk g)
    || ((f == 1 || f == 2) && !(dims (t.op 4) n m && decide ((t.op 4).bytesTotal ≤ 2 ^ 31)))
    || (f == 2 && decide (m < gm))
    || (f == 3 && (decide (2 ^ 31 < contrib) || (s.collPath g 2 contrib == 2 && !s.grpRingOk g)))

/-- The limits of `XMM` (R284, R285). -/
def limitXmm (t : Task) : Bool :=
  let a := t.op 0
  let hm := a.d0
  let p := a.d1
  let e := (t.op 1).d1
  let hh := (t.op 2).d0
  let gd := t.imm 5 4
  !(decide (t.imm 3 0 ≤ 6 ∧ gd ≠ 3 ∧ hm ≤ 16384 ∧ hh ≤ 65536) && (t.op 1).d0 == 16
    && decide ((t.op 2).d1 = hm ∧ (t.op 2).d2 = e ∧ (t.op 3).d0 = hm ∧ (t.op 3).d1 = hh ∧ (t.op 3).d2 = e)
    && dims (t.op 4) hm p && (t.op 5).d0 == p && dims (t.op 6) hh p
    && (gd == 0 || ((t.op? 9).isSome && hh % 64 == 0)))
    || badOp t 7 (fun d => dims d hh e) || badOp t 8 (fun d => dims d hm e)
    || badOp t 9 (fun d => d.d1 == e) || badOp t 10 (fun d => decide (32 ≤ d.bytesTotal))

/-- The limits of `EWISE` (R286). -/
def limitEwise (t : Task) : Bool :=
  let o := t.imm 7 0
  let d := t.op 3
  let ins := ewiseInputs o
  ins.isEmpty || (ins.any fun i => (t.op? i).isNone) || ((t.op? 4).isSome != (o == 0x21))
    || (ins.any fun i =>
      let x := t.op i
      if 0x30 ≤ o then !(d.d0 == 1 && x.d1 == d.d1 && x.d2 == d.d2)
      else !(x.d0 == d.d0 && ((x.d1 == d.d1 && x.d2 == d.d2) || (x.d1 == 1 && x.d2 == 1))))

/-- The limits of `PRUNE` (R196). -/
def limitPrune (t : Task) : Bool :=
  let m := t.op 0
  let n := m.d0
  let k := m.d1
  let z := m.d2
  let q := t.imm 2 0
  !(decide ((q = 2 ∨ q = 4) ∧ 8 ≤ k ∧ k ≤ 65536 ∧ 8 ≤ n ∧ n ≤ 65536 ∧ k % 8 = 0 ∧ n % 8 = 0 ∧ z ≤ 4096)
    && dims (t.op 1) n k && (t.op 1).d2 == z && dims (t.op 2) n k && (t.op 2).d2 == z)
    || badOp t 3 (fun d => dims d k n && d.d2 == z)

/-- The limits of `SHADOW` (R207, R287). -/
def limitShadow (t : Task) : Bool :=
  let w := t.op 0
  let build := t.imm 0 0 == 1
  let pred := t.imm 1 1 == 1
  let r := t.imm 13 8
  !((build || pred) && (if pred then decide (1 ≤ r ∧ r ≤ 64) else r == 0) && (!pred || (t.op? 2).isSome)
    && w.d0 % 64 == 0 && (t.op 1).d1 == w.d2
    && decide (guardTableBytes w.d1 w.d0 (if pred then r else 0) build ≤ (t.op 1).stride1))
    || badOp t 2 (fun d => d.d1 == w.d2)

/-- The limits of the remote instructions (R289, R314, R345). -/
def limitRemote (t : Task) : Bool :=
  let op := t.opcode
  let a := t.op 0
  let addr := t.x 1 63 0
  if op = opRload then decide (262144 < a.span)
  else if op = opMstore then
    let n := (t.op 1).d0
    !(decide (1 ≤ n ∧ n ≤ 4096 ∧ ceilDiv n 8 = (t.op 2).count))
  else if op = opRatomic then
    !(decide (t.imm 27 24 ≤ 9 ∧ a.count = 1 ∧ addr % (if t.imm 28 28 = 0 then 4 else 8) = 0))
  else if op = opRreduce then !(decide (t.imm 27 24 ≤ 2 ∧ addr % 4 = 0))
  else false

/-- The limits of `COLLECT` (R291, R314, R367, R375). -/
def State.limitCollect (s : State) (t : Task) : Bool :=
  let g := t.imm 11 0
  let kind := t.imm 15 12
  let root := t.imm 35 20
  let m := s.grpM g
  let a := t.op 0
  let b := t.op 1
  let hasA := (t.op? 0).isSome
  let hasB := (t.op? 1).isSome
  let sh := shard a.d1 m (s.grpRank g)
  !s.groupOk g || decide (4 < kind) || decide (m ≤ root) || (decide (2 ≤ kind) && t.imm 19 16 != 0)
    || (decide (kind ≤ 1) && decide (2 < t.imm 19 16))
    || !(if kind = 0 then hasA && hasB && dims b a.d0 a.d1 && b.d2 == a.d2
         else if kind = 1 then hasA && hasB && decide (m ≤ a.d1) && dims b a.d0 (sh.2 - sh.1) && b.d2 == a.d2
         else if kind = 2 then hasA && hasB && dims b a.d0 (m * a.d1) && b.d2 == a.d2
         else if kind = 3 then
           hasB && (if s.grpRank g = root then hasA && dims b a.d0 a.d1 && b.d2 == a.d2 else !hasA)
         else !hasA && !hasB)
    || decide (2 ^ 31 < operandBytes (if kind = 3 then b else a) false)
    || (kind == 2 && s.collPath g 2 (operandBytes a false) == 2 && !s.grpRingOk g)

/-- OPERAND_LIMIT beyond R265's general checks. -/
def State.limitOp (s : State) (t : Task) : Bool :=
  let op := t.opcode
  if op = opHalt ∨ op = opResume then decide (t.imm 4 0 = 0 ∨ 15 < t.imm 4 0)
  else if op = opScore then limitScore t
  else if op = opDispatch then s.limitDispatch t
  else if op = opGather then limitGather t
  else if op = opCombine then limitCombine t
  else if op = opDmm then s.limitDmm t
  else if op = opXmm then limitXmm t
  else if op = opEwise then limitEwise t
  else if op = opPrune then limitPrune t
  else if op = opShadow then limitShadow t
  else if op = opMove then (t.op 0).count != (t.op 1).count
  else if op = opCollect then s.limitCollect t
  else if op = opPublish then t.imm 47 16 == 0
  else limitRemote t

/-- PARTIAL_SPACE (R225, R285). -/
def State.partialOver (s : State) (t : Task) : Bool :=
  let P := partitionP s.variant t.portable
  let big (N M K : Nat) := decide (16777216 < partialBytes (splitCount P N M K) N M)
  if t.opcode = opDmm then big (t.op 1).d0 (t.op 0).d1 (t.op 0).d0
  else if t.opcode = opXmm ∧ t.form = 1 then
    big (t.op 2).d0 256 (t.op 0).d0 || big (t.op 0).d0 256 (t.op 2).d0
  else false

/-- A condition of R233 fails. -/
def State.publishBad (s : State) (t : Task) : Bool :=
  if t.opcode ≠ opPublish then false
  else
    let i := t.imm 7 0
    let v := t.imm 47 16
    let p := t.x 1 31 0
    !(s.regionValid i && !s.regionSealed i && v != 0
      && !(s.images.any fun j => s.imgVersion j == v)
      && (p == 0 || s.images.any fun j => s.imgVersion j == p && s.imgState j == 4)
      && ((List.range 64).any fun j => s.imgState j == 0 && !(s.pubs.any fun b => b.entry == j))
      && !(s.pubs.any fun b => b.region == i || b.version == v || (p != 0 && b.pred == p)))

/-! ### The input-and-seed log (R438, R439) -/

/-- The read operands of a task that lie in the coherent window. -/
def windowOps (t : Task) : List (Desc × Bool) :=
  match layout t.opcode t.form with
  | none => []
  | some l => t.ops.filterMap fun o =>
    match l.roles.find? fun r => r.field == o.field with
    | some r => if r.read ∧ windowBase ≤ o.desc.base ∧ o.desc.base < windowBase + 0x100000000 then some (o.desc, r.weight)
                else none
    | none => none

/-- The task carries a seed (R438). -/
def hasSeed (t : Task) : Bool := t.opcode == opEwise && t.form == 1

/-- Data bytes of the task's log entry. -/
def logBytes (t : Task) : Nat :=
  (windowOps t).foldl (fun n d => n + d.1.bytesTotal
    + (if windowBase ≤ d.1.scaleBase then d.1.scaleSpan d.2 else 0)) 0

/-- Size of the task's log entry; 0 when none is written. -/
def State.logEntrySize (s : State) (t : Task) : Nat :=
  if s.bit regRruCtrl 1 ∧ (hasSeed t ∨ windowOps t ≠ []) then 64 + 64 * ceilDiv (logBytes t) 64 else 0

/-- The reservation for an entry: its size and the largest skip (R439). -/
def logReserve (size : Nat) : Nat := if size = 0 then 0 else 2 * size - 64

/-- The free bytes of the log less every reservation. -/
def State.logFree (s : State) : Nat :=
  s.logSize - (s.reg regRruLogHead - s.reg regRruLogTail) - s.tasks.foldl (fun n t => n + t.logNeed) 0

/-! ### The first failing check (R271) -/

/-- A resource that the instruction needs is absent on the variant (R3, R204, R276). -/
def absentUnit (v : Variant) (t : Task) : Bool :=
  v == .fd860 && (t.opcode == opPrune || ((t.opcode == opHalt || t.opcode == opResume) && t.imm 4 0 == 6))

/-- The operands of a task with their roles. -/
def namedOps (l : Layout) (t : Task) : List Named :=
  t.ops.filterMap fun o => (l.roles.find? fun r => r.field == o.field).map fun r => ⟨r, o.desc⟩

/-- The error code of the first failing check of R83 other than the limit on incomplete tasks; 0 when every check
passes. -/
def State.check (s : State) (t : Task) (indexBad : Bool) : Nat :=
  match layout t.opcode t.form with
  | none => errOpcode
  | some l =>
    let os := namedOps l t
    let size := s.logEntrySize t
    if t.next ≠ l.next then errNext
    else if slotReserved l t.word t.ext ∨ (t.ops.any fun o => descReserved o.desc) then errReserved
    else if indexBad then errDescIndex
    else if t.ops.any fun o => !fmtKnown o.desc.fmt then errFormat
    else if formatPair t ∨ (t.ops.any fun o => scaledIllegal o.desc) then errFormatPair
    else if absentUnit s.variant t ∨ os.any s.opAbsent then errAbsent
    else if os.any s.opNotWritable then errNotWritable
    else if os.any s.opImageMismatch then errImageMismatch
    else if (l.roles.any fun r => !r.opt && (t.op? r.field).isNone)
        ∨ (t.ops.any fun o => o.desc.d0 == 0 || o.desc.d1 == 0 || o.desc.d2 == 0 || o.desc.base % 64 != 0)
        ∨ s.limitOp t
        ∨ (t.lc = true ∧ s.lcBudget t.stream * 1000 < s.bound t ∧ ¬ (t.opcode = opWait ∧ t.imm 47 20 = 0))
        ∨ s.logSize < 2 * size then errOperandLimit
    else if os.any s.opAddressRange then errAddressRange
    else if s.partialOver t then errPartialSpace
    else if os.any s.opSealed then errRegionSealed
    else if os.any s.opRetired then errImageRetired
    else if s.publishBad t then errPublishState
    else if t.lc = true ∧ t.opcode = opWait ∧ t.imm 47 20 = 0 then errBoundNone
    else 0

end Sys2Proof.Machine
end

