-- ==== Sys2Proof/Machine/Sched.lean ====
section
/-! DEFINITION. The Scheduler (R87 to R92, R396 to R412): issue conditions, the pick of the next task, turns and
charges, issue, completion, and the start of pre-emptions. -/

namespace Sys2Proof.Machine

open Sys2Proof

/-! ### The task list -/

/-- The accepted, incomplete task of a SEQ. -/
def State.task? (s : State) (q : Nat) : Option Task := s.tasks.find? fun t => t.seq == q

/-- A task put back in its place. -/
def State.setTask (s : State) (t : Task) : State :=
  { s with tasks := s.tasks.map fun x => if x.seq = t.seq then t else x }

/-- A task changed. -/
def State.modTask (s : State) (q : Nat) (f : Task → Task) : State :=
  { s with tasks := s.tasks.map fun x => if x.seq = q then f x else x }

/-- The task's engines have finished with an outcome. -/
def State.endTask (s : State) (q err detail : Nat) : State :=
  s.modTask q fun t => { t with phase := .ended, err := err, outcome := outcomeOf err, detail := t.detail ||| detail }

/-- The functions that a task needs (R278). -/
def needs (t : Task) : List Nat :=
  functionsOf t.opcode t.form ++ (if t.opcode = opXmm ∧ t.imm 5 4 ≠ 0 then [7] else [])

/-- The five control instructions. -/
def isControl (op : Nat) : Bool := decide (op ≤ 5)

/-! ### Ordering within a stream (R87, R91) -/

/-- The descriptor indices that a task reads or writes, with whether it writes them. -/
def accesses (t : Task) : List (Nat × Bool) :=
  match layout t.opcode t.form with
  | none => []
  | some l => t.ops.filterMap fun o => (l.roles.find? fun r => r.field == o.field).map fun r => (o.index, r.write)

/-- R87 orders `t` after `e`: one of them writes a descriptor index that the other names. -/
def conflicts (e t : Task) : Bool :=
  (accesses e).any fun a => (accesses t).any fun b => a.1 == b.1 && (a.2 || b.2)

/-- R87 or BARRIER orders `t` after the earlier task `e` of its stream. -/
def orderedAfter (e t : Task) : Bool :=
  e.stream == t.stream && decide (e.seq < t.seq) && (t.barrier || conflicts e t)

/-- A task that holds every later task of its stream until it completes (R272, R273, R277). -/
def holdsStream (op : Nat) : Bool := op == opFence || op == opWait || op == opHalt || op == opResume

/-- A task writes within `n` bytes at `a`, by the elements or the scale bytes of an operand (R234, R542). -/
def writesIn (e : Task) (a n : Nat) : Bool :=
  match layout e.opcode e.form with
  | none => false
  | some l => (namedOps l e).any fun o => o.role.write && o.anySpan fun b m => rangesMeet b m a n

/-- The ordering conditions of issue (R87, R234, R272 to R277). -/
def State.orderOk (s : State) (t : Task) : Bool :=
  let earlier := s.tasks.filter fun e => e.stream == t.stream && decide (e.seq < t.seq)
  (earlier.all fun e => e.phase != .waiting && !holdsStream e.opcode && !orderedAfter e t)
    && (!(t.opcode == opFence || t.opcode == opSignal || t.opcode == opHalt || t.opcode == opResume) || earlier.isEmpty)
    && (!(t.opcode == opFence && t.imm 2 2 == 1) || s.tasks.all fun e => decide (t.seq ≤ e.seq))
    && (!(t.opcode == opPublish) || s.tasks.all fun e =>
        decide (t.seq ≤ e.seq) || !writesIn e (65536 * s.regionFirst (t.imm 7 0)) (65536 * s.regionPages (t.imm 7 0)))

/-- The device stands still: a fatal stop, a quench, or no power (R430, R446). -/
def State.stopped (s : State) : Bool := s.bit regRruStatus 8 || s.power.quenching || s.power.stopped

/-- A quench has run to its end (R446, R514). -/
def State.quenchOver (s : State) : Bool := s.bit regPwrStatus 9 && !s.bit regStwAlert 2

/-- The group whose collective a task enters (R283, R291). -/
def collGroup (t : Task) : Option Nat :=
  if t.opcode = opCollect then some (t.imm 11 0)
  else if t.opcode = opDmm ∧ t.form ≠ 0 then some (t.x 1 11 0)
  else none

/-- A task opens a collective: on a group, or the exchange of a `.X` form (R370). -/
def opensColl (t : Task) : Bool :=
  (collGroup t).isSome || ((t.opcode == opDispatch || t.opcode == opCombine) && t.form == 1)

/-- At most 16 collectives are open at once, exchanges among them, and one per group (R370). -/
def State.collRoom (s : State) (t : Task) : Bool :=
  !opensColl t || (
    let issued := s.tasks.filter fun e => e.phase != .waiting
    decide ((issued.filter opensColl).length < 16)
      && (match collGroup t with
        | some g => !(issued.filterMap collGroup).contains g
        | none => true))

/-- The issue conditions of a task other than a free engine (R87, R278, R370, R430). -/
def State.issueOk (s : State) (t : Task) : Bool :=
  t.phase == .waiting && s.orderOk t && !s.stopped && s.collRoom t
    && (isControl t.opcode || !(s.halted 1 || s.halting 1))
    && (needs t).all fun f => !(s.halted f || s.halting f)

/-! ### Budgets of latency-critical streams (R400 to R403) -/

/-- SCH_LC_REMAIN(n), two's complement. -/
def State.remain (s : State) (n : Nat) : Int := toSigned 64 (s.reg (regSchLcRemain n))
def State.setRemain (s : State) (n : Nat) (v : Int) : State := s.setReg (regSchLcRemain n) (v % (2 ^ 64 : Int)).toNat

/-- The start of the period in progress of a stream. -/
def State.periodStart (s : State) (n : Nat) : Nat := s.sched.periods.getD n 0

/-- A new period of a stream is due: a multiple of the period has passed since the last start (R400). -/
def State.periodDue (s : State) (n : Nat) : Bool :=
  decide (n < 64 ∧ s.periodStart n / (1000 * s.lcPeriod n) < s.time / (1000 * s.lcPeriod n))

/-- The budget at the beginning of a period; a debt is carried (R400, R403). -/
def State.freshRemain (s : State) (n : Nat) : Int := (s.lcBudget n * 1000 : Nat) + min 0 (s.remain n)

/-- A period of a stream begins. -/
def State.beginPeriod (s : State) (n : Nat) : State :=
  let s1 := s.setRemain n (s.freshRemain n)
  { s1 with sched := { s1.sched with
    periods := (s1.sched.periods ++ List.replicate (n + 1 - s1.sched.periods.length) 0).set n s1.time } }

/-- A period that is due has begun by the time at which its stream's budget is used, whichever command comes first
(R402). -/
def State.periodUpTo (s : State) (n : Nat) : State := if s.periodDue n then s.beginPeriod n else s

/-- The budget of a stream in the period that the time lies in. -/
def State.remainNow (s : State) (n : Nat) : Int := if s.periodDue n then s.freshRemain n else s.remain n

/-- R402 admits a latency-critical task. -/
def State.admits (s : State) (t : Task) : Bool := decide ((t.bound : Int) ≤ s.remainNow t.stream)

/-- The job that schedules a task (R397). -/
def jobIdx (t : Task) : Nat := t.job % 64

/-- SCH_CTRL fields with the values that act (R419). -/
def State.quantumNs (s : State) : Nat := max 1 (s.fld regSchCtrl 63 48) * 1000
def State.blockMaxNs (s : State) : Nat := max 1 (s.fld regSchCtrl 47 32) * 1000
def State.lcEngine (s : State) (e : Nat) : Bool := s.bit regSchCtrl (8 + e)

/-- An enabled latency-critical stream exists (R404). -/
def State.lcActive (s : State) : Bool :=
  (List.range 64).any fun n => s.bit (regCmdStrmCtrl n) 0 && s.bit (regCmdStrmCtrl n) 1

/-- A best-effort task may hold an engine for its blocking time (R404). -/
def State.blockOk (s : State) (t : Task) : Bool :=
  t.lc || !s.lcActive || (match engineOf t.opcode with
    | some e => !s.lcEngine e || decide (s.blocking t ≤ s.blockMaxNs)
    | none => true)

/-! ### Grants of cores (R399) -/

/-- The tasks that hold engine `e`. -/
def State.holders (s : State) (e : Nat) : List Task :=
  s.tasks.filter fun t => engineOf t.opcode == some e && (match t.phase with
    | .running => true
    | .ended => t.issueTime != 0
    | _ => false)

/-- A class C task holds L0–L127 under PORTABLE (R399). -/
def State.lowHeld (s : State) : Bool := (s.holders 0).any fun t => t.grantHi == 128 && s.variant == .fd880

/-- The grant that a core task would take (R399). -/
def State.grantOf (s : State) (t : Task) : Grant :=
  if isClassC t.opcode t.form && t.portable then ⟨0, 128⟩
  else if s.lowHeld && !t.lc && !isClassC t.opcode t.form then ⟨128, 160⟩
  else allCores s.variant

/-- A grant is free beside the grants held. -/
def State.grantFree (s : State) (g : Grant) : Bool :=
  decide ((s.holders 0).length < 2) && (s.holders 0).all fun t => decide (t.grantHi ≤ g.lo ∨ g.hi ≤ t.grantLo)

/-- An engine can take the task now (R396, R399). -/
def State.engineFree (s : State) (e : Nat) (t : Task) : Bool :=
  if e = 0 then s.grantFree (s.grantOf t) else (s.holders e).isEmpty

/-! ### Charges and turns (R406 to R408) -/

/-- SCH_DEFICIT(j, e), two's complement, and SCH_SHARE_ACCT(j, e). -/
def defReg (j e : Nat) : Nat := regSchDeficit 0 + 0x40 * j + 8 * e
def acctReg (j e : Nat) : Nat := regSchShareAcct 0 + 0x40 * j + 8 * e
def State.deficit (s : State) (j e : Nat) : Int := toSigned 64 (s.reg (defReg j e))
def State.setDeficit (s : State) (j e : Nat) (v : Int) : State := s.setReg (defReg j e) (v % (2 ^ 64 : Int)).toNat

/-- SHARE of a job. -/
def State.share (s : State) (j : Nat) : Nat := s.fld (regSchJob j) 7 0

/-- The charge of a task for the time on its engine since it was last brought up to date (R396, R408), in whole
charge-nanoseconds of GLB_TIME, so that what a task is charged does not depend on how often it is brought up to date. -/
def State.chargeOpen (s : State) (t : Task) : Nat :=
  if engineOf t.opcode = some 0 then
    let g := t.grantHi - t.grantLo
    s.time * g / logicalCores s.variant - t.lastCharge * g / logicalCores s.variant
  else s.time - t.lastCharge

/-- A task's charge brought up to date (R408). -/
def State.accrue (s : State) (t : Task) : State × Task :=
  match engineOf t.opcode with
  | none => (s, t)
  | some e =>
    let c := s.chargeOpen t
    let t1 := { t with engineNs := t.engineNs + c, lastCharge := s.time }
    let s1 := s.addReg (acctReg (jobIdx t) e) c
    let s2 := if t.lc then s1 else s1.setDeficit (jobIdx t) e (s1.deficit (jobIdx t) e - c)
    (s2.setTask t1, t1)

/-- The charges of the tasks that hold engine `e` brought up to date (R406, R408). -/
def State.accrueAll (s : State) (e : Nat) : State := (s.holders e).foldl (fun z t => (z.accrue t).1) s

/-- What the tasks that hold engine `e` for a job have charged since they were last brought up to date; `be`: best-effort
tasks alone. -/
def State.openCharge (s : State) (j e : Nat) (be : Bool) : Nat :=
  ((s.holders e).filter fun t => jobIdx t == j && !(be && t.lc)).foldl
    (fun n t => n + s.chargeOpen t) 0

/-- The best-effort tasks ready for engine `e`: waiting ones whose conditions hold, and pre-empted ones. -/
def State.readyBe (s : State) (e : Nat) : List Task :=
  s.tasks.filter fun t => engineOf t.opcode == some e && !t.lc && (match t.phase with
    | .waiting => s.issueOk t && s.blockOk t
    | .parked _ => !s.stopped && !(s.halted 1 || s.halting 1) && (needs t).all fun f => !(s.halted f || s.halting f)
    | _ => false)

/-- The next task of a job among ready ones: a pre-empted one first (R412), then the lowest SEQ. -/
def firstOf (ts : List Task) : Option Task :=
  match ts.find? fun t => t.phase != .waiting with
  | some t => some t
  | none => ts.head?

/-- The jobs in the order of their turns after the job last served (R406). -/
def turnOrder (last : Nat) : List Nat := (List.range 64).map fun i => (last + 1 + i) % 64

/-- Turns taken until a job with a positive deficit and a ready task has one (R406). -/
def State.serveTurns (s : State) (e : Nat) (ready : List Task) : Nat → State × Option Nat
  | 0 => (s, none)
  | f + 1 =>
    match s.sched.turn.getD e none with
    | some j =>
      if decide (0 < s.deficit j e) && (ready.any fun t => jobIdx t == j) then (s, some j)
      else
        let s1 := if 0 < s.deficit j e then s.setDeficit j e 0 else s
        ({ s1 with sched := { s1.sched with turn := s1.sched.turn.set e none, last := s1.sched.last.set e j } }).serveTurns
          e ready f
    | none =>
      match (turnOrder (s.sched.last.getD e 63)).find? fun j => s.share j != 0 && ready.any fun t => jobIdx t == j with
      | none => (s, none)
      | some j =>
        let s1 := s.setDeficit j e (s.deficit j e + (s.share j * s.quantumNs : Nat))
        if 0 < s1.deficit j e then
          ({ s1 with sched := { s1.sched with turn := s1.sched.turn.set e (some j) } }, some j)
        else ({ s1 with sched := { s1.sched with last := s1.sched.last.set e j } }).serveTurns e ready f

/-- Turns enough to repay every debt. -/
def State.turnFuel (s : State) (e : Nat) : Nat :=
  let debt := (List.range 64).foldl (fun m j => max m (- s.deficit j e).toNat) 0
  64 * (debt / 1000 + 3)

/-- The task that engine `e` takes next (R398, R399), with the state after the turns this takes. Of the jobs without a
share, the one with the lowest SEQ among their ready tasks is served. -/
def State.pick (s : State) (e : Nat) : State × Option Task :=
  let lc := s.tasks.find? fun t => engineOf t.opcode == some e && t.lc && s.issueOk t && s.admits t
  match lc with
  | some t => (s, if s.engineFree e t then some t else none)
  | none =>
    let s := s.accrueAll e
    let ready := s.readyBe e
    if e = 0 ∧ s.lowHeld = true then
      (s, (ready.filter fun t => !isClassC t.opcode t.form && s.engineFree e t).head?)
    else
      let (s1, turn) := s.serveTurns e ready (s.turnFuel e)
      let c := match turn with
        | some j => firstOf (ready.filter fun t => jobIdx t == j)
        | none => (ready.find? fun t => s.share (jobIdx t) == 0).bind fun x => firstOf (ready.filter fun t => jobIdx t == jobIdx x)
      match c with
      | some t => if s.engineFree e t then (s1, some t) else (s, none)
      | none => (s, none)

/-! ### Pre-emption (R409, R410) -/

/-- Context slots in use. -/
def State.ctxUsed (s : State) : List Nat := s.tasks.filterMap fun t => match t.phase with
  | .parked n => some n
  | _ => none

/-- A pre-emption decided: the task stops at its next boundary, or runs on when no slot is free (R410). -/
def State.preemptTask (s : State) (t : Task) : State :=
  if t.preempt ∨ t.noPreempt ∨ preemptible t = false then s
  else
    let coming := (s.tasks.filter fun x => x.preempt).length
    if s.ctxUsed.length + coming < s.ctxSlots then s.setTask { t with preempt := true }
    else ((s.setTask { t with noPreempt := true }).setBit regSchStatus 7 true).addReg regSchCtxFallback 1

/-- A remote-memory instruction (R289). -/
def isRemote (op : Nat) : Bool := decide (opRload ≤ op ∧ op ≤ opRreduce)

/-- The running remote-memory tasks that fill the request queue of `t` or have packets left for it (R333, R411). -/
def State.remoteHolders (s : State) (t : Task) : List Task :=
  s.tasks.filter fun h => h.seq != t.seq && isRemote h.opcode && h.phase == .running && h.imm 18 16 == t.imm 18 16

/-- Best-effort tasks that stand in the way of an admitted latency-critical task are pre-empted (R399, R409). -/
def State.startPreempts (s : State) : State :=
  (s.tasks.filter fun t => t.lc && s.issueOk t && s.admits t).foldl (fun a t =>
    match engineOf t.opcode with
    | none =>
      if isRemote t.opcode then ((a.remoteHolders t).filter fun h => !h.lc).foldl State.preemptTask a else a
    | some e =>
      let g := a.grantOf t
      ((a.holders e).filter fun h => !h.lc && h.phase == .running
          && (e != 0 || !decide (h.grantHi ≤ g.lo ∨ g.hi ≤ h.grantLo))).foldl State.preemptTask a) s

/-! ### Issue (R398, R402, R429) -/

/-- The window bytes of a descriptor's rows, and its scales, as read (R438). -/
def State.windowData (s : State) (t : Task) : List Byte :=
  (windowOps t).flatMap fun d =>
    (if d.1.rowless then d.1.planes.flatMap fun r => s.rdBytes r.1 r.2
     else (List.range d.1.d2).flatMap fun z => (List.range d.1.d1).flatMap fun y => s.rowBytesOf d.1 y z)
      ++ (if windowBase ≤ d.1.scaleBase then s.rdBytes d.1.scaleBase (d.1.scaleSpan d.2) else [])

/-- Every earlier task of the task's stream has issued (R273). -/
def State.earlierIssued (s : State) (t : Task) : Bool :=
  s.tasks.all fun e => e.stream != t.stream || decide (t.seq ≤ e.seq) || e.phase != .waiting

/-- A `WAIT` whose earlier tasks have all issued is eligible from now on (R273). -/
def State.markEligible (s : State) : State :=
  { s with tasks := s.tasks.map fun t =>
      if t.opcode == opWait && t.phase == .waiting && t.eligible.isNone && s.earlierIssued t then
        { t with eligible := some s.time }
      else t }

/-- The byte ranges of an operand: its rows and their scale bytes, or the planes of a form without rows. -/
def rangesOf (d : Desc) (weight : Bool) : List (Nat × Nat) :=
  (if d.rowless then d.planes
   else (List.range d.d2).flatMap fun z => (List.range d.d1).map fun y => (d.row y z, d.rowBytes))
  ++ (if d.scaled then [(d.scaleBase, d.scaleSpan weight)] else [])

/-- An operand of a task has a row or scale bytes that satisfy a test of address and length. -/
def touches (t : Task) (f : Nat → Nat → Bool) : Bool :=
  match layout t.opcode t.form with
  | none => false
  | some l => (namedOps l t).any fun o => (rangesOf o.desc o.role.weight).any fun r => f r.1 r.2

/-- Some granule of `n` bytes at `a` lies on a channel that satisfies a test. -/
def State.onChannel (s : State) (f : Nat → Bool) (a n : Nat) : Bool :=
  decide (a < s.smsLimit) && (List.range (ceilDiv (a % 256 + n) 256)).any fun g => f (s.placeOf (a + 256 * g)).1

/-- The task sends over the fabric. -/
def usesFabric (t : Task) : Bool :=
  decide (opRload ≤ t.opcode ∧ t.opcode ≤ opRreduce) || t.opcode == opCollect || (needs t).contains 13

/-- An access of the task waits at issue: for a channel in retraining or in a margining segment (R252, R260), for the
Odord link, which retrains (R493), or for the retry of a fabric port (R297). -/
def State.waitsNow (s : State) (t : Task) : Bool :=
  let busy := s.hbm.training ++ s.hbm.margining
  (!busy.isEmpty && touches t (s.onChannel busy.contains))
    || (s.fld regOdlStatus 15 12 == 1 && touches t fun a _ => decide (windowBase ≤ a))
    || ((s.ports.any (·.discarding)) && usesFabric t)

/-- RETRIED (R94). -/
def Task.retried (t : Task) : Task := { t with detail := t.detail ||| 8 }

/-- RETRIED on the running tasks that satisfy a test (R94). -/
def State.markRetried (s : State) (f : Task → Bool) : State :=
  { s with tasks := s.tasks.map fun t => if t.phase == .running && f t then t.retried else t }

/-- The physical cores whose IRON is 0 (R172, R187). -/
def State.unironed (s : State) : List Nat := (List.range 180).filter fun k => !s.bit (regCoreCtrl k) 0

/-- A task issued on its engine: its time, grant, budget and journal entry. An engine that is fenced ends it with
UNIT_FENCED at once (R429). A task whose accesses wait has RETRIED set (R94). It
keeps the array's FIXED and IRON of this moment (R187). A latency-critical task that can issue from now on, behind it in
its stream, pre-empts what stands in its way (R399, R409). -/
def State.issue (s : State) (t : Task) : State × Task :=
  let g := if engineOf t.opcode = some 0 then s.grantOf t else ⟨0, 0⟩
  let fenced := (needs t).any fun f => s.bit regRruEngineFence f
  let t1 := { t with phase := if fenced then .ended else .running, issueTime := s.time, lastCharge := s.time,
                     grantLo := g.lo, grantHi := g.hi, fixed := s.bit regCoreTileCtrl 0, noIron := s.unironed, logData := if t.logNeed = 0 then [] else s.windowData t }
  let t2 := if fenced then { t1 with err := errUnitFenced, outcome := 2 }
    else if s.waitsNow t then { t1 with err := 0, outcome := 1 }.retried else { t1 with err := 0, outcome := 1 }
  let s1 := if t.lc then (s.periodUpTo t.stream).setRemain t.stream (s.remainNow t.stream - t.bound) else s
  (((s1.setTask t2).issueEntry t2).markEligible.startPreempts, t2)

/-- A task of the given opcode and form issued by its own row, when it is the one its engine takes (R398) or, holding
no engine, when its conditions hold. -/
def State.tryIssue (s : State) (q op form : Nat) : Option (State × Task) :=
  match s.task? q with
  | none => none
  | some t =>
    if t.opcode = op ∧ t.form = form ∧ s.issueOk t = true then
      match engineOf op with
      | some e =>
        let (s1, p) := s.pick e
        if p.map (·.seq) = some q then some (s1.issue t) else none
      | none => if t.lc ∧ ¬ s.admits t then none else some (s.issue t)
    else none

/-! ### Resumption (R412) -/

/-- A pre-empted task takes its engine again (R412). -/
def State.resumeTask (s : State) (t : Task) : State :=
  let g := if engineOf t.opcode = some 0 then s.grantOf t else ⟨0, 0⟩
  s.setTask { t with phase := .running, lastCharge := s.time, grantLo := g.lo, grantHi := g.hi, preempt := false }

/-- Pre-empted remote-memory tasks whose queue no latency-critical task uses go on (R412). -/
def State.resumeRemote (s : State) : State :=
  (s.tasks.filter fun t => isRemote t.opcode && (match t.phase with
      | .parked _ => true
      | _ => false)).foldl (fun a t =>
    if (a.tasks.any fun h => h.lc && isRemote h.opcode && h.imm 18 16 == t.imm 18 16 && (h.phase == .running || a.issueOk h))
        || a.stopped || a.halted 1 || a.halting 1 || a.halted 12 || a.halting 12 then a
    else a.resumeTask t) s

/-- Every engine whose next task is a pre-empted one takes it (R412). -/
def State.resumeParked (s : State) : State :=
  (List.range 8).foldl (fun a e =>
    match a.pick e with
    | (a1, some t) => if t.phase != .waiting then a1.resumeTask t else a
    | _ => a) s.resumeRemote

/-! ### Completion (R91, R92, R96, R237, R403, R438) -/

/-- The counter of an event raised, saturating (R89, R275). -/
def State.eventAdd (s : State) (i n : Nat) : State :=
  s.setReg (regCmdEvent i) (min (2 ^ 64 - 1) (s.reg (regCmdEvent i) + n))

/-- One entry of the input-and-seed log, after a skip entry where it would wrap (R438, R439). Without a log area the
entry is counted and has no bytes (log entry 13). -/
def State.logEntry (s : State) (t : Task) : State :=
  if t.logNeed = 0 then s
  else
    let seed := hasSeed t
    let data := t.logData
    let body := padTo (64 * ceilDiv data.length 64) data
    let head := leBytes 8 t.seq ++ leBytes 1 t.stream ++ leBytes 1 t.opcode
      ++ leBytes 1 (b2n seed + 2 * b2n (data != [])) ++ zeros 1 ++ leBytes 4 data.length
      ++ leBytes 16 (if seed then t.x 2 127 0 else 0) ++ leBytes 8 (if seed then t.x 3 63 0 else 0)
      ++ (if data = [] then zeros 16 else shake256 16 data) ++ zeros 8
    let size := 64 + body.length
    let ring := s.logSize
    let pos := s.reg regRruLogHead % ring
    let s1 := if ring - pos < size then
        (s.putArea regRruLogBase pos (leBytes 8 (2 ^ 64 - 1) ++ zeros 4 ++ leBytes 4 (ring - pos - 64) ++ zeros 48)).setReg
          regRruLogHead (s.reg regRruLogHead + (ring - pos))
      else s
    let p1 := s1.reg regRruLogHead % ring
    (s1.putArea regRruLogBase p1 (head ++ body)).setReg regRruLogHead (s1.reg regRruLogHead + size)

/-- An image that a task names (R237). -/
def namesImage (t : Task) (v : Nat) : Bool := t.ops.any fun o => o.desc.image && o.desc.version == v

/-- The reader count of an image entry (R237). -/
def State.readers (s : State) (j : Nat) : Nat := (s.tasks.filter fun t => namesImage t (s.imgVersion j)).length

/-- An image entry freed with its pages (R237). -/
def State.freeImage (s : State) (j : Nat) : State :=
  let lo := s.imgFirst j
  let hi := lo + s.imgPages j
  let s1 := { s with pages := s.pages.filter fun r => !(decide (lo ≤ r.page ∧ r.page < hi)) }
  (List.range 8).foldl (fun a k => a.setReg (regCadImage (8 * j + k)) 0) s1

/-- The records of an image's pages that are not at HOME. -/
def State.placedPages (s : State) (j : Nat) : List PageRec :=
  s.pages.filter fun r => r.place != 0 && decide (s.imgFirst j ≤ r.page ∧ r.page < s.imgFirst j + s.imgPages j)

/-- An eviction starts, with the candidate that follows into the frame (R242, R243). -/
def State.evict (s : State) (p : Nat) (succ : Option Nat) : State :=
  s.setPageRec { s.pageRec p with place := 3, successor := succ }

/-- The Cadastre starts transitions (R246). -/
def State.cadOpen (s : State) : Bool := !(s.halted 8 || s.halting 8)

/-- A RETIRING image without readers: its promoted pages are evicted, and once all its pages are at HOME they become
FREE and its entry becomes free (R237). -/
def State.retireImage (s : State) (j : Nat) : State :=
  if s.placedPages j = [] then s.freeImage j
  else if s.cadOpen then ((s.placedPages j).filter fun r => r.place == 2).foldl (fun a r => a.evict r.page none) s
  else s

/-- RETIRING images without readers are freed, step by step (R237). -/
def State.retireImages (s : State) : State :=
  (s.images.filter fun j => s.imgState j == 5 && s.readers j == 0).foldl State.retireImage s

/-- The 32 bytes of a step record put into the COL step ring (R393). -/
def State.stepRecord (s : State) (group kind path cseq entry first err depth : Nat) (lagging : Bool) : State :=
  let slots := s.stepSlots
  let head := s.reg regColStepHead
  if head - s.reg regColStepTail ≥ slots then s.setBit regColStatus 3 true
  else
    (s.putArea regColStepBase (32 * (head % slots)) (leBytes 2 group ++ leBytes 1 kind ++ leBytes 1 path ++ leBytes 4 cseq
      ++ leBytes 8 entry ++ leBytes 8 first ++ leBytes 2 err ++ leBytes 1 depth ++ leBytes 1 (b2n lagging)
      ++ zeros 4)).setReg regColStepHead (head + 1)

/-- RETIRE of a stream: the ring counter of its oldest incomplete task, or HEAD (R92). -/
def State.updateRetire (s : State) (n : Nat) : State :=
  let v := match s.tasks.find? fun t => t.stream == n with
    | some t => t.ring
    | none => s.reg (regCmdStrmHead n)
  s.setReg (regCmdStrmRetire n) v

/-- The budget settled when a latency-critical task completes (R403). -/
def State.settle (s : State) (t : Task) : State :=
  if t.lc ∧ t.issueTime ≠ 0 then
    let a := s.time - t.issueTime
    let cap : Int := (s.lcBudget t.stream * 1000 : Nat)
    let s := s.periodUpTo t.stream
    let r := s.remain t.stream + (t.bound : Int) - (a : Int)
    if a ≤ t.bound then s.setRemain t.stream (min cap r)
    else (s.setRemain t.stream r).addReg regSchLcOverruns 1
  else s

/-- The turn on the engine of a task that ends: a spent deficit ends it, and so does a job with nothing ready
(R406). -/
def State.endTurn (s : State) (t : Task) : State :=
  match engineOf t.opcode with
  | none => s
  | some e =>
    let j := jobIdx t
    if s.sched.turn.getD e none = some j ∧ t.lc = false then
      let idle := !(s.readyBe e).any fun x => jobIdx x == j
      if s.deficit j e ≤ 0 ∨ idle = true then
        let s1 := if 0 < s.deficit j e then s.setDeficit j e 0 else s
        { s1 with sched := { s1.sched with turn := s1.sched.turn.set e none, last := s1.sched.last.set e j } }
      else s
    else s

/-- Undefined values written to `n` bytes at `a` (log entry 5). -/
def State.scrambleBytes (s : State) (a n : Nat) : State :=
  { (s.putBytes a ((List.range n).map fun i => Config.freeByte (s.free + i))) with free := s.free + n }

/-- The first `n` bytes of an operand, row by row, take undefined values. -/
def State.scrambleFirst (s : State) (d : Desc) (n : Nat) : State :=
  ((rangesOf d false).foldl (fun (p : State × Nat) r => (p.1.scrambleBytes r.1 (min r.2 p.2), p.2 - min r.2 p.2)) (s, n)).1

/-- SCRATCH of a `COMBINE` that has issued is undefined once the task is over, whatever its outcome (R144). -/
def State.dropScratch (s : State) (t : Task) : State :=
  if t.opcode = opCombine ∧ t.issueTime ≠ 0 then s.scrambleFirst (t.op 5) (4 * (t.op 2).d1 * (t.op 2).d0 + 2 * (t.op 2).d1)
  else s

/-- One task's completion is written and it leaves the list (R96). -/
def State.finishOne (s : State) (t : Task) : State :=
  let (s1, t1) := if t.issueTime = 0 then (s, t) else match t.phase with
    | .parked _ => (s, t)
    | _ => s.accrue t
  let s2 := if t1.issueTime = 0 then s1 else s1.logEntry t1
  let s3 := s2.completeEntry t1
  let s4 := { s3.dropScratch t1 with tasks := s3.tasks.filter fun x => x.seq != t.seq }
  let s5 := if t1.evtEn then s4.eventAdd t1.evt 1 else s4
  let s6 := (s5.updateRetire t1.stream).settle t1
  let s7 := if t1.irqBit then s6.irq t1.stream else s6
  { s7 with pubs := s7.pubs.filter fun b => b.seq != t.seq }

/-- The later tasks that a failed completion takes with it (R91, R272, R273): never a `SIGNAL`, the one exception. -/
def State.dependents (s : State) (t : Task) : List Task :=
  let all := (t.opcode == opWait && t.err == errWaitTimeout) || (t.opcode == opFence && t.err == errPostedFailed)
  s.tasks.filter fun x => x.stream == t.stream && decide (t.seq < x.seq) && x.phase == .waiting
    && x.opcode != opSignal && (all || orderedAfter t x)

/-- The task names the local store of a core that is lost. -/
def State.namesLost (s : State) (t : Task) : Bool :=
  (List.range 3).any (fun i => s.reg (regRruCoreLost i) != 0) && touches t fun a _ => match s.place a with
    | .local_ n _ => s.coreLost n
    | _ => false

/-- A task accepted before the loss of a local store that it names completes with POISON (R427). -/
def State.lostOutcome (s : State) (t : Task) : Task :=
  if t.outcome = 1 ∧ s.namesLost t = true then { t with outcome := 2, err := errPoison } else t

/-- A completion and the DEP_FAILED completions that follow from it, in SEQ order (R91). -/
def State.finishAll (s : State) : Nat → List Task → State
  | 0, _ => s
  | _ + 1, [] => s
  | f + 1, t0 :: rest =>
    match s.task? t0.seq with
    | none => s.finishAll f rest
    | some _ =>
      let t := s.lostOutcome t0
      let s1 := s.finishOne t
      let more := if t.outcome = 1 then [] else
        (s1.dependents t).map fun x => { x with phase := .ended, outcome := 4, err := 0 }
      s1.finishAll f (rest ++ more)

/-- A task completes (R96): its fields, the tasks that fail with it, images without readers, the turn of its engine,
pre-empted tasks that resume, and pre-emptions that begin. -/
def State.finish (s : State) (t : Task) : State :=
  let s1 := s.finishAll (2 * s.tasks.length * s.tasks.length + 2) [t]
  let s2 := (s1.retireImages.endTurn t).resumeParked
  s2.startPreempts.markEligible

end Sys2Proof.Machine
end

