-- ==== Sys2Proof/Machine/Routing.lean ====
section
/-! DEFINITION. The routing engines: `SCORE` on the Score Unit (R115 to R122), `DISPATCH` on the Dispatch Sorter
(R123 to R131), `GATHER` on its pool lanes (R138 to R143), and `COMBINE` on the Combine Unit (R144 to R147). -/

namespace Sys2Proof.Machine

open Sys2Proof

/-! ### Shared by every engine -/

/-- A task issued by its row and then worked on, unless its engine was fenced at issue (R398, R429). -/
def State.launch (s : State) (q op form : Nat) (work : State → Task → State) : Option State :=
  (s.tryIssue q op form).map fun p => if p.2.phase == .ended then p.1 else work p.1 p.2

/-- The bytes that two ranges share. -/
def overlap (a b : Nat × Nat) : Nat × Nat :=
  let lo := max a.1 b.1
  (lo, min (a.1 + a.2) (b.1 + b.2) - lo)

/-- The bytes of a task's outputs that overlap an input of it become undefined (R114, R544). -/
def State.scrambleOverlaps (s : State) (t : Task) : State :=
  match layout t.opcode t.form with
  | none => s
  | some l =>
    let os := namedOps l t
    (os.filter fun o => o.role.write).foldl (fun a o =>
      (os.filter fun i => i.role.read && i.role.field != o.role.field).foldl (fun b i =>
        (rangesOf o.desc o.role.weight).foldl (fun c r =>
          (rangesOf i.desc i.role.weight).foldl (fun e x =>
            let v := overlap r x
            if v.2 = 0 then e else e.scrambleBytes v.1 v.2) c) b) a) s

/-- Every output byte of a task takes an undefined value (R429, R446). -/
def State.scrambleOutputs (s : State) (t : Task) : State :=
  match layout t.opcode t.form with
  | none => s
  | some l => ((namedOps l t).filter fun o => o.role.write).foldl (fun a o =>
      (rangesOf o.desc o.role.weight).foldl (fun b r => b.scrambleBytes r.1 r.2) a) s

/-- Some row `y < n` of an operand is read poisoned. -/
def State.rowsPoison (s : State) (d : Desc) (n : Nat) : Bool := (List.range n).any fun y => s.rowPoison d y 0

/-- Some row of an optional operand is read poisoned. -/
def State.optPoison (s : State) (o : Option Desc) : Bool :=
  match o with
  | some d => s.rowsPoison d d.d1
  | none => false

/-- Elements written to a row as bits (R36). -/
def State.putElems (s : State) (d : Desc) (y : Nat) (bits : List Nat) : State :=
  s.putBytes (d.row y 0) (packElems d.fmt bits)

/-- A list put into order by insertion; the earlier of two equal elements stays first. -/
def sortBy {α : Type} (ahead : α → α → Bool) (l : List α) : List α :=
  l.foldl (fun acc x => acc.takeWhile (fun y => !ahead x y) ++ [x] ++ acc.dropWhile fun y => !ahead x y) []

/-! ### `SCORE` -/

/-- The order of R120 on scores and indices. -/
def before (a b : F32 × Nat) : Bool :=
  let x := ofF32 a.1
  let y := ofF32 b.1
  if x.isNan then y.isNan && decide (a.2 < b.2)
  else if y.isNan then true
  else if y.lt x then true
  else if x.lt y then false
  else decide (a.2 < b.2)

/-- An FP32 sum in list order, each addition rounded. -/
def sumF32 : List F32 → F32
  | [] => f32Zero
  | x :: xs => xs.foldl f32Add x

/-- Normalised scores of one token (R117). -/
def normalise (norm : Nat) (xs : List F32) : List F32 :=
  if norm = 1 then
    let nums := xs.filter fun x => !(ofF32 x).isNan
    let m := match nums with
      | [] => f32Nan
      | y :: ys => ys.foldl f32Max y
    let u := xs.map fun x => toF32 (ofF32 (f32Sub x m)).exp
    let d := sumF32 u
    u.map fun v => f32Div v d
  else if norm = 2 then xs.map fun x => toF32 (ofF32 x).sigmoid
  else xs

/-- The eligible experts of a token (R119). -/
def eligible (g topg j : Nat) (q : List F32) : List (F32 × Nat) :=
  let all := (List.range q.length).map fun e => (q.getD e f32Nan, e)
  if g = 1 then all
  else
    let size := q.length / g
    let score (i : Nat) : F32 :=
      let best := sortBy before ((all.drop (i * size)).take size)
      if j = 1 then (best.getD 0 (f32Nan, 0)).1 else f32Add (best.getD 0 (f32Nan, 0)).1 (best.getD 1 (f32Nan, 0)).1
    let kept := ((sortBy before ((List.range g).map fun i => (score i, i))).take topg).map (·.2)
    all.filter fun x => kept.contains (x.2 / size)

/-- The settings of a `SCORE` (R115). -/
structure ScoreSpec where
  k : Nat
  norm : Nat
  g : Nat
  topg : Nat
  j : Nat
  renorm : Bool
  scale : F32
  deriving DecidableEq, Repr

/-- The result for one token: choices, gates, whether a selection score is NaN, and whether D_k was zero (R118 to
R122). -/
def scoreToken (p : ScoreSpec) (bias : Option (List F32)) (xs : List F32) : List Nat × List F32 × Bool × Bool :=
  let sc := normalise p.norm xs
  let q := match bias with
    | some b => List.zipWith f32Add sc b
    | none => sc
  let chosen := ((sortBy before (eligible p.g p.topg p.j q)).take p.k).map (·.2)
  let raw := chosen.map fun e => sc.getD e f32Nan
  let dk := sumF32 raw
  let zero := p.renorm && (ofF32 dk).isZero
  let gates := if p.renorm then
      (if zero then raw.map fun _ => toF32 ((Fp.fin false 1 0).div (.fin false p.k 0)) else raw.map fun v => f32Div v dk)
    else raw
  let out := if p.scale = 0x3F800000#32 then gates else gates.map fun v => f32Mul v p.scale
  (chosen, out, q.any fun v => (ofF32 v).isNan, zero)

/-- A row of an FP32 or BF16 operand, widened (R116). -/
def State.rowF32 (s : State) (d : Desc) (y : Nat) : List F32 := (s.rowVals d y 0).map toF32

/-- The settings that a task word gives. -/
def scoreSpec (t : Task) : ScoreSpec where
  k := t.imm 3 0 + 1
  norm := t.imm 5 4
  g := t.imm 11 6 + 1
  topg := t.imm 17 12 + 1
  j := t.imm 18 18 + 1
  renorm := t.imm 19 19 == 1
  scale := BitVec.ofNat 32 (t.x 1 31 0)

/-- The work of a `SCORE`. -/
def State.runScore (s : State) (t : Task) : State :=
  let a := t.op 0
  let b := a.d1
  if s.rowsPoison a b || s.optPoison (t.op? 3) then s.endTask t.seq errPoison 0
  else
    let p := scoreSpec t
    let bias := (t.op? 3).map fun d => s.rowF32 d 0
    let res := (List.range b).map fun i => scoreToken p bias (s.rowF32 a i)
    let s1 := (List.range b).foldl (fun x i =>
      let r := res.getD i ([], [], false, false)
      (x.putElems (t.op 1) i r.1).putElems (t.op 2) i (r.2.1.map (·.toNat))) s
    let s2 := (s1.addReg regScuTokens b).addReg regScuNanTokens (res.filter (·.2.2.1)).length
    ((s2.addReg regScuZeroDenom (res.filter (·.2.2.2)).length).scrambleOverlaps t).endTask t.seq 0 0

/-- SCORE. -/
def execScore (seq : Nat) (s : State) : Result :=
  attempt s fun s => s.launch seq opScore 0 State.runScore

/-! ### Tags (R129, R130) -/

/-- CHECK over bits [63:16]. -/
def tagCheck (hi : Nat) : Nat := let c := crc16 (beBytes 6 hi); if c = 0 then 1 else c

/-- A tag. -/
def makeTag (origin token rank layer : Nat) : Nat :=
  let hi := origin <<< 34 + token <<< 10 + rank <<< 6 + layer % 64
  hi <<< 16 + tagCheck hi

/-- Fields of a tag. -/
def tagOrigin (g : Nat) : Nat := getBits g 63 50
def tagToken (g : Nat) : Nat := getBits g 49 26
def tagRank (g : Nat) : Nat := getBits g 25 22
def tagLayer (g : Nat) : Nat := getBits g 21 16

/-! ### `DISPATCH` -/

/-- A choice: its pair, and its value as an integer. -/
def State.choice (s : State) (d : Desc) (t r : Nat) : Int := toSigned 32 (s.uint d r t 0)

/-- The first failure in reading order (R127): 0 none, or the error code. -/
def State.choiceError (s : State) (d : Desc) (E : Nat) : Nat :=
  let k := d.d0
  (List.range (d.d1 * k)).foldl (fun err i =>
    if err ≠ 0 then err
    else
      let t := i / k
      let r := i % k
      let v := s.choice d t r
      if s.anyPoison (d.row t 0 + 4 * r) 4 then errPoison
      else if v < 0 ∨ (E : Int) ≤ v then errChoiceRange
      else if (List.range r).any fun x => s.choice d t x == v then errChoiceDup
      else 0) 0

/-- The list of expert `e`: pairs in ascending token (R124). -/
def State.expertList (s : State) (d : Desc) (e : Nat) : List (Nat × Nat) :=
  (List.range d.d1).flatMap fun t => (List.range d.d0).filterMap fun r =>
    if s.choice d t r = (e : Int) then some (t, r) else none

/-- One expert's place in a plan (R125, R128): its list, PREFIX, H_e, DIR and REMOTE. -/
structure Placed where
  e : Nat
  list : List (Nat × Nat)
  pre : Nat
  ham : Nat
  dir : Bool
  remote : Bool
  deriving DecidableEq, Repr

/-- The plan of a sort (R124, R125), with every expert local. -/
def State.sortPlan (s : State) (d : Desc) (E cap : Nat) : List Placed :=
  ((List.range E).foldl (fun (p : List Placed × Nat × Nat) e =>
    let l := s.expertList d e
    (p.1 ++ [⟨e, l, p.2.1, p.2.2, false, false⟩], p.2.1 + l.length, p.2.2 + (l.length - cap))) ([], 0, 0)).1

/-- The row of the `j`-th pair of a placed expert (R125). -/
def Placed.row (x : Placed) (E cap j : Nat) : Nat := if j < cap then x.e * cap + j else E * cap + x.ham + (j - cap)

/-- The 16 bytes of an expert record (R128). -/
def recordBytes (count pre ham hrows : Nat) (dir remote : Bool) : List Byte :=
  leBytes 4 count ++ leBytes 4 pre ++ leBytes 4 (if hrows = 0 then 0xFFFFFFFF else ham)
    ++ leBytes 4 (b2n dir <<< 31 + b2n (count == 0) <<< 30 + b2n remote <<< 29 + hrows)

/-- The filled rows of a plan: row, token, rank. The rows of an expert whose tokens move to its home stay unfilled
(log entry 19). -/
def planRows (E cap : Nat) (ps : List Placed) : List (Nat × Nat × Nat) :=
  ps.flatMap fun x => if x.dir then [] else (List.range x.list.length).map fun j => (x.row E cap j, x.list.getD j (0, 0))

/-- One row of `o` copied with its scale bytes into `s`. Where only one of the two operands is SCALED, which the spec leaves open, scale
bytes are dropped, or 127 is written for an unscaled source (log entry 37). -/
def State.copyRow (s o : State) (src : Desc) (y z : Nat) (dst : Desc) (v w : Nat) : State :=
  let s1 := s.putBytes (dst.row v w) (o.rowBytesOf src y z)
  if dst.scaled then
    s1.putBytes (dst.rowScale v w) ((List.range (ceilDiv dst.d0 32)).map fun b => BitVec.ofNat 8 (o.scaleAt src (32 * b) y z))
  else s1

/-- The outputs of a sort: records, row map, tags and copied rows (R125, R128, R129). -/
def State.writePlan (s : State) (t : Task) (ps : List Placed) : State :=
  let E := (t.op 1).d1
  let cap := t.imm 27 12
  let rows := (t.op 2).d0
  let fill := planRows E cap ps
  let at_ (i : Nat) := fill.find? fun f => f.1 == i
  let s1 := ps.foldl (fun x p =>
    x.putBytes ((t.op 1).row p.e 0)
      (recordBytes p.list.length p.pre p.ham (p.list.length - cap) p.dir p.remote)) s
  let s2 := s1.putBytes (t.op 2).base ((List.range rows).flatMap fun i => leBytes 4 (match at_ i with
    | some f => f.2.1
    | none => 0xFFFFFFFF))
  let s3 := s2.putBytes (t.op 3).base ((List.range rows).flatMap fun i => leBytes 8 (match at_ i with
    | some f => makeTag s.deviceId f.2.1 f.2.2 (t.imm 11 0)
    | none => 0))
  match t.op? fTokens with
  | some tok => fill.foldl (fun x f => x.copyRow s tok f.2.1 0 (t.op fRowsOut) f.1 0) s3
  | none => s3

/-- The hamper rows of a plan. -/
def hamperRows (cap : Nat) (ps : List Placed) : Nat := ps.foldl (fun n p => n + (p.list.length - cap)) 0

/-- The counters of a sort (R149). -/
def State.countSort (s : State) (pairs ham : Nat) : State :=
  let s1 := s.addReg regDsoPairs pairs
  s1.setFld regDsoHamperPeak 24 0 (max ham (s1.fld regDsoHamperPeak 24 0))

/-- The checks of a `DISPATCH` before it writes: 0, or the error code (R113, R127, R423). -/
def State.dispatchError (s : State) (t : Task) : Nat :=
  let c := s.choiceError (t.op 0) (t.op 1).d1
  if c ≠ 0 then c
  else if s.optPoison (t.op? fTokens) then errPoison
  else 0

/-- The work of a base `DISPATCH` (R131). -/
def State.runDispatch (s : State) (t : Task) : State :=
  let err := s.dispatchError t
  if err ≠ 0 then s.endTask t.seq err 0
  else
    let cap := t.imm 27 12
    let ps := s.sortPlan (t.op 0) (t.op 1).d1 cap
    let s1 := (s.writePlan t ps).countSort ((t.op 0).d0 * (t.op 0).d1) (hamperRows cap ps)
    (s1.scrambleOverlaps t).endTask t.seq 0 0

/-- DISPATCH, base form. -/
def execDispatch (seq : Nat) (s : State) : Result :=
  attempt s fun s => s.launch seq opDispatch 0 State.runDispatch

/-! ### `GATHER` -/

/-- The entry range of a bag. -/
def State.bag (s : State) (off : Desc) (b : Nat) : Nat × Nat := (s.uint off b 0 0, s.uint off (b + 1) 0 0)

/-- The checks of R139: 0, or the error code. -/
def State.gatherError (s : State) (t : Task) : Nat :=
  let tab := t.op 0
  let ind := t.op 1
  let off := t.op 2
  let nb := off.d0 - 1
  if s.rowPoison ind 0 0 ∨ s.rowPoison off 0 0 then errPoison
  else if s.uint off 0 0 0 ≠ 0 ∨ s.uint off nb 0 0 ≠ ind.d0
      ∨ ((List.range nb).any fun b => decide (s.uint off (b + 1) 0 0 < s.uint off b 0 0))
      ∨ ((List.range ind.d0).any fun i => decide (tab.d1 ≤ s.uint ind i 0 0)) then errGatherRange
  else if ((List.range ind.d0).any fun i => s.rowPoison tab (s.uint ind i 0 0) 0)
      ∨ s.optPoison (t.op? 4) then errPoison
  else 0

/-- The sum of FP32 terms, the first rounded and each addition rounded (R141). -/
def runSum : List Fp → F32
  | [] => f32Zero
  | x :: xs => xs.foldl (fun acc v => toF32 ((ofF32 acc).add v)) (toF32 x)

/-- The exact content of a datum as a number (R49, R50). -/
def Datum.value (d : Datum) : Fp :=
  if d.nan || (d.pinf && d.ninf) then .nan
  else if d.pinf then .inf false
  else if d.ninf then .inf true
  else .fin (decide (d.sum < 0)) d.sum.natAbs (-400)

/-- The sum of one segment, split at most once (R142). -/
def segmentSum (split : Option Nat) (ts : List Fp) : F32 :=
  match split with
  | some p => f32Add (runSum (ts.take p)) (runSum (ts.drop p))
  | none => runSum ts

/-- A split point that ironing can choose for a segment of `n` entries (R142). -/
def splitOk (n p : Nat) : Bool := decide (1 ≤ p ∧ p < n ∧ n ≤ 2 * p + 1)

/-- A pooled element of a bag in FP32 (R141): mode, exact path, the split points by segment, and the terms. -/
def pool (mode : Nat) (exact : Bool) (split : Nat → Nat → Option Nat) (vals terms : List Fp) : F32 :=
  let n := vals.length
  match vals with
  | [] => f32Zero
  | v :: vs =>
    if mode = 3 then toF32 (vs.foldl Fp.max v)
    else if exact then
      let d := (vals.foldl Datum.push {}).value
      toF32 (if mode = 2 then d.div (.fin false n 0) else d)
    else
      let segs := chunks 512 terms
      let sums := (List.range segs.length).map fun i =>
        let seg := segs.getD i []
        segmentSum (split i seg.length) seg
      let tot := sumF32 sums
      if mode = 2 then toF32 ((ofF32 tot).div (.fin false n 0)) else tot

/-- A narrow format of the exact path (R141). -/
def narrowTable (fmt : Nat) : Bool := fmt == fmtE4m3 || fmt == fmtE5m2 || fmt == fmtInt8 || fmt == fmtE2m1

/-- The spread of the scale bytes of a bag (R47, R141). -/
def State.bagSpread (s : State) (tab : Desc) (rows : List Nat) : Nat :=
  let es := (rows.flatMap fun y => (List.range (ceilDiv tab.d0 32)).map fun b => s.scaleAt tab (32 * b) y 0).filter (· != 0xFF)
  es.foldl max 0 - es.foldl min 255

/-- The work of a `GATHER`: COPY row by row, or pooling bag by bag. A COPY forms no segment that DSO_SEGMENTS counts, a
choice of the model (log entry 37). -/
def State.runGather (s : State) (splits : List (Nat × Nat × Nat)) (t : Task) : State :=
  let err := s.gatherError t
  if err ≠ 0 then s.endTask t.seq err 0
  else
    let tab := t.op 0
    let ind := t.op 1
    let off := t.op 2
    let out := t.op 3
    let mode := t.imm 2 0
    if mode = 0 then
      let s1 := (List.range ind.d0).foldl (fun x i => x.copyRow s tab (s.uint ind i 0 0) 0 out i 0) s
      s1.scrambleOverlaps t
    else
      let nb := off.d0 - 1
      let iron := s.bit regDsoCtrl 0
      let nar := narrowTable tab.fmt
      let r := (List.range nb).foldl (fun (p : State × Nat × Nat) b =>
        let (lo, hi) := s.bag off b
        let ents := (List.range (hi - lo)).map (lo + ·)
        let rows := ents.map fun i => s.uint ind i 0 0
        let exact := nar && mode != 4 && decide (s.bagSpread tab rows ≤ 24)
        let split (i n : Nat) : Option Nat :=
          if iron && !nar then
            (splits.find? fun c => c.1 == b && c.2.1 == i && splitOk n c.2.2).map (·.2.2) else none
        let vals (x : Nat) := rows.map fun y => s.elem tab x y 0
        let row := (List.range tab.d0).map fun x =>
          let vs := vals x
          let ts := if mode = 4 then
              List.zipWith (fun i v => ofF32 (toF32 ((s.elem (t.op 4) i 0 0).mul v))) ents vs else vs
          pool mode exact split vs ts
        let fb := if nar && !exact && !ents.isEmpty then 4 else 0
        ((p.1.writeRow t.sat false out b 0 row).1, p.2.1 + ceilDiv ents.length 512, p.2.2 ||| fb)) (s, 0, 0)
      ((r.1.addReg regDsoSegments r.2.1).scrambleOverlaps t).modTask t.seq fun x => { x with detail := x.detail ||| r.2.2 }

/-- GATHER. Its engine goes on until TASK_COMPLETE, so that it can be pre-empted between (R281). -/
def execGather (seq : Nat) (splits : List (Nat × Nat × Nat)) (s : State) : Result :=
  attempt s fun s => s.launch seq opGather 0 fun x t => x.runGather splits t

/-! ### `COMBINE` -/

/-- A tag read in phase 1: its value, whether its line is poisoned, and the operand and row it stands for. -/
structure TagRow where
  tag : Nat
  poisoned : Bool
  desc : Desc
  row : Nat
  deriving DecidableEq, Repr

/-- What phase 1 finds: positions, or a failure kind with its tag, rank and token; kind 7 stands for poison. -/
structure Phase1 where
  pos : List (Nat × Nat × Desc × Nat)
  kind : Nat
  tag : Nat
  rank : Nat
  token : Nat
  deriving DecidableEq, Repr

/-- The check of one tag, in the order of R146: 0 passes. -/
def tagKind (dev layer b k g : Nat) (seen : List (Nat × Nat × Desc × Nat)) : Nat :=
  if g % 65536 ≠ tagCheck (g >>> 16) then 1
  else if tagOrigin g ≠ dev then 2
  else if tagLayer g ≠ layer % 64 then 3
  else if b ≤ tagToken g ∨ k ≤ tagRank g then 4
  else if seen.any fun p => p.1 == tagToken g && p.2.1 == tagRank g then 5
  else 0

/-- Phase 1 (R146). -/
def phase1 (dev layer b k : Nat) (rows : List TagRow) : Phase1 :=
  let p := rows.foldl (fun (p : Phase1) r =>
    if p.kind ≠ 0 then p
    else if r.poisoned then { p with kind := 7 }
    else if r.tag = 0 then p
    else
      let c := tagKind dev layer b k r.tag p.pos
      if c ≠ 0 then { p with kind := c, tag := r.tag, rank := tagRank r.tag, token := tagToken r.tag }
      else { p with pos := p.pos ++ [(tagToken r.tag, tagRank r.tag, r.desc, r.row)] }) ⟨[], 0, 0, 0, 0⟩
  if p.kind ≠ 0 then p
  else match (List.range (b * k)).find? fun i => !p.pos.any fun x => x.1 == i / k && x.2.1 == i % k with
    | some i => { p with kind := 6, rank := i % k, token := i / k }
    | none => p

/-- The tags of an operand, row by row. -/
def State.tagRows (s : State) (tags rows : Desc) : List TagRow :=
  (List.range tags.d0).map fun i => ⟨s.uint tags i 0 0, s.anyPoison (tags.base + 8 * i) 8, rows, i⟩

/-- Phases 1 and 2 of a `COMBINE` over its tag rows (R146, R147). SCRATCH becomes undefined (R144). -/
def State.runPhases (s : State) (t : Task) (rows : List TagRow) : State :=
  let gate := t.op 2
  let k := gate.d0
  let b := gate.d1
  let out := t.op 3
  let p := phase1 s.deviceId (t.imm 11 0) b k rows
  let done (x : State) : State := x.scrambleFirst (t.op 5) (4 * b * k + 2 * b)
  if p.kind = 7 then (done s).endTask t.seq errPoison 0
  else if p.kind ≠ 0 then
    let s1 := ((s.setReg regCmbFaultTag p.tag).setReg regCmbFaultInfo
      (1 <<< 31 + p.kind <<< 28 + p.rank <<< 24 + p.token)).addReg regCmbTagFaults 1
    (done s1).endTask t.seq errTagFault 0
  else
    let apply := t.imm 12 12 == 1
    if (p.pos.any fun x => s.rowPoison x.2.2.1 x.2.2.2 0) ∨ (apply = true ∧ s.rowsPoison gate b = true)
        ∨ s.optPoison (t.op? 4) then (done s).endTask t.seq errPoison 0
    else
      let one : Fp := .fin false 1 0
      let g (i r : Nat) : Fp := if apply then s.elem gate r i 0 else one
      let y (i r x : Nat) : Fp := match p.pos.find? fun q => q.1 == i && q.2.1 == r with
        | some q => s.elem q.2.2.1 x q.2.2.2 0
        | none => .nan
      let el (i x : Nat) : F32 :=
        let start : F32 × Nat := match t.op? 4 with
          | some d => (toF32 (s.elem d x i 0), 0)
          | none => (toF32 ((g i 0).mul (y i 0 x)), 1)
        (List.range (k - start.2)).foldl (fun acc j =>
          let r := start.2 + j
          toF32 ((ofF32 acc).add ((g i r).mul (y i r x)))) start.1
      let s1 := (List.range b).foldl (fun z i =>
        (z.writeRow t.sat false out i 0 ((List.range out.d0).map (el i))).1) s
      ((done s1).scrambleOverlaps t).endTask t.seq 0 0

/-- The work of a base `COMBINE`. -/
def State.runCombine (s : State) (t : Task) : State := s.runPhases t (s.tagRows (t.op 1) (t.op 0))

/-- COMBINE, base form. -/
def execCombine (seq : Nat) (s : State) : Result :=
  attempt s fun s => s.launch seq opCombine 0 State.runCombine

/-- HAMPER_PEAK_CLEAR: PEAK becomes 0 (R149). -/
def execHamperPeakClear (s : State) : Result := 
  attempt s fun s => if s.ready then some (s.setFld regDsoHamperPeak 24 0 0) else none

end Sys2Proof.Machine
end

