-- ==== Sys2Proof/Machine/Residency.lean ====
section
/-! DEFINITION. Residency entries (R414): their fields and order, the places of LOCAL entries in the residency area, and
the view of memory of a core that fetches weights from its own area (R416). -/

namespace Sys2Proof.Machine

open Sys2Proof

/-- The image that is in force with a version, ACTIVE. -/
def State.activeImage (s : State) (v : Nat) : Option Nat :=
  (List.range 64).find? fun j => s.imgState j == 4 && s.imgVersion j == v

/-- The fields of SCH_RESIDENT(i). -/
def State.resHi (s : State) (i : Nat) : Nat := s.reg (regSchResidentHi i)
def State.resLo (s : State) (i : Nat) : Nat := s.reg (regSchResident i)
def State.resValid (s : State) (i : Nat) : Bool := bitOf (s.resHi i) 63
def State.resLocal (s : State) (i : Nat) : Bool := bitOf (s.resHi i) 62
def State.resFollow (s : State) (i : Nat) : Bool := bitOf (s.resHi i) 61
def State.resSpilled (s : State) (i : Nat) : Bool := bitOf (s.resHi i) 60
def State.resReady (s : State) (i : Nat) : Bool := bitOf (s.resHi i) 59
def State.resQuad (s : State) (i : Nat) : Nat := getBits (s.resHi i) 58 56
def State.resPriority (s : State) (i : Nat) : Nat := getBits (s.resHi i) 55 48
def State.resVersion (s : State) (i : Nat) : Nat := getBits (s.resHi i) 31 0
def State.resPages (s : State) (i : Nat) : Nat := getBits (s.resLo i) 63 32
def State.resFirst (s : State) (i : Nat) : Nat := getBits (s.resLo i) 31 0

/-- The valid entries in the order of R414. -/
def State.resOrder (s : State) : List Nat :=
  sortBy (fun a b => decide (s.resPriority b < s.resPriority a) || (s.resPriority a == s.resPriority b && decide (a < b)))
    ((List.range 64).filter s.resValid)

/-- The place of a LOCAL entry within the residency area. -/
def State.resPlace (s : State) (i : Nat) : Nat :=
  ((s.resOrder.takeWhile (· != i)).filter fun k => s.resLocal k && !s.resSpilled k
    && (s.activeImage (s.resVersion k)).isSome).foldl (fun n k => n + 65536 * s.resPages k) 0

/-- Bytes and poison of `n` bytes at `dst` seen at `src` instead of those that lie there. -/
def State.showAt (s : State) (src dst n : Nat) : State :=
  let inside (lo x : Nat) : Bool := decide (lo ≤ x ∧ x < lo + n)
  { s with
    mem := (s.mem.filter fun c => inside dst c.1).foldl (fun m c => memPut m (c.1 - dst + src) c.2)
      (s.mem.filter fun c => !inside src c.1)
    poison := (s.poison.filter fun l => inside dst (64 * l)).foldl (fun p l => setInsert ((64 * l - dst + src) / 64) p)
      (s.poison.filter fun l => !inside src (64 * l)) }

/-- READY LOCAL entries. -/
def State.readyLocal (s : State) : List Nat :=
  (List.range 64).filter fun i => s.resValid i && s.resLocal i && s.resReady i

/-- The memory as a logical core sees it that fetches weights: the pages of READY LOCAL entries stand in its own residency
area (R416). -/
def State.residentView (s : State) (core : Option Nat) : State :=
  match core with
  | none => s
  | some n => s.readyLocal.foldl (fun v i =>
      match s.activeImage (s.resVersion i) with
      | some j => v.showAt (65536 * (s.imgFirst j + s.resFirst i))
          (localBase + 0x100000 * n + s.residencyStart + s.resPlace i) (65536 * s.resPages i)
      | none => v) s

end Sys2Proof.Machine
end

