-- ==== Sys2Proof/Machine/Matrix.lean ====
section
/-! DEFINITION. The expert cores: the common tile list (R175 to R183), accumulation runs (R46 to R53, R153 to R166),
the sums of parts (R57, R181), vector blocks and epilogues (R167 to R171), `DMM` and `XMM` (R282 to R285), `EWISE`
(R286), and the Activation Guard (R205 to R215). -/

namespace Sys2Proof.Machine

open Sys2Proof

/-! ### Physical and logical cores (R16, R186) -/

/-- CORE_MAP fields of physical core `k`. -/
def State.coreMap (s : State) (k : Nat) : Nat := s.reg (regCoreMap k)
def State.coreActive (s : State) (k : Nat) : Bool := bitOf (s.coreMap k) 30 && !bitOf (s.coreMap k) 29
def State.coreSpare (s : State) (k : Nat) : Bool := bitOf (s.coreMap k) 31

/-- The logical core that a physical core serves. -/
def State.logical (s : State) (k : Nat) : Option Nat :=
  if k < 180 ∧ s.coreActive k = true then some (getBits (s.coreMap k) 7 0) else none

/-- The physical core that serves a logical core. -/
def State.physical (s : State) (l : Nat) : Option Nat := (List.range 180).find? fun k => s.logical k == some l

/-- A core that holds nothing. -/
def CoreSt.idle (k : Nat) : CoreSt := { phys := k, cur := none, next := none, stake := false, vec := none, slot := 0 }

/-- What a physical core holds. -/
def State.core (s : State) (k : Nat) : CoreSt := (s.cores.find? fun c => c.phys == k).getD (CoreSt.idle k)

/-- What a core holds put back; a core that holds nothing is not listed. -/
def State.setCore (s : State) (c : CoreSt) : State :=
  { s with cores := s.cores.filter (fun x => decide (x.phys < c.phys))
                    ++ (if c = CoreSt.idle c.phys then [] else [c])
                    ++ s.cores.filter (fun x => decide (c.phys < x.phys)) }

/-! ### The tile list -/

/-- The place of a run on the list: by task, then by its order (R175). -/
def Run.ahead (a b : Run) : Bool := decide (a.seq < b.seq) || (a.seq == b.seq && decide (a.ord < b.ord))

/-- A run put on the list at its place (R175, R182). -/
def State.listRun (s : State) (r : Run) : State :=
  { s with runs := s.runs.takeWhile (fun x => x.ahead r) ++ [r] ++ s.runs.dropWhile fun x => x.ahead r }

/-- The runs that cores hold. -/
def State.heldRuns (s : State) : List Run := s.cores.flatMap fun c => c.cur.toList ++ c.next.toList

/-- The vector blocks that cores hold. -/
def State.heldBlocks (s : State) : List VBlock := s.cores.filterMap (·.vec)

/-- What one projection of a matrix task computes: activations, weights and their matrix, output and its first row,
bias, and activation function. -/
structure Proj where
  act : Desc
  w : Desc
  z : Nat
  out : Desc
  base : Nat
  bias : Option Desc
  fn : Nat
  deriving DecidableEq, Repr

/-- Fields of an expert record (R128). -/
structure ExpertRec where
  count : Nat
  pre : Nat
  ham : Nat
  word : Nat
  deriving DecidableEq, Repr

def ExpertRec.dir (r : ExpertRec) : Bool := bitOf r.word 31
def ExpertRec.empty (r : ExpertRec) : Bool := bitOf r.word 30
def ExpertRec.remote (r : ExpertRec) : Bool := bitOf r.word 29
def ExpertRec.hrows (r : ExpertRec) : Nat := getBits r.word 24 0

/-- The record of expert `e`. -/
def State.expertRec (s : State) (d : Desc) (e : Nat) : ExpertRec :=
  let a := d.row e 0
  ⟨s.rdNat a 4, s.rdNat (a + 4) 4, s.rdNat (a + 8) 4, s.rdNat (a + 12) 4⟩

/-- The rows of an expert: its own rows, then its hamper rows (R284). -/
def ExpertRec.rows (r : ExpertRec) (E cap e : Nat) : List Nat :=
  ((List.range (min r.count cap)).map fun j => e * cap + j) ++ (List.range r.hrows).map fun j => E * cap + r.ham + j

/-- The staging slot of expert `e` (R134, R284). -/
def State.stageSlot (s : State) (t : Task) (e : Nat) : Nat :=
  ((List.range e).filter fun f =>
    let r := s.expertRec (t.op 1) f
    !r.empty && r.remote && !r.dir).length

/-- The expert's weights come from a staging slot (R284). -/
def State.staged (s : State) (t : Task) (e : Nat) : Bool :=
  t.opcode == opXmm && (s.expertRec (t.op 1) e).remote

/-- The staging slot exists. -/
def State.stageOk (s : State) (t : Task) (e : Nat) : Bool :=
  !s.staged t e || (match t.op? 11 with
    | some d => decide (s.stageSlot t e < d.d1)
    | none => false)

/-- A weight operand as one staged matrix at an address, its scales behind its elements (log entry 15). -/
def stagedDesc (d : Desc) (a : Nat) : Desc :=
  { d with base := a, scaleBase := a + { d with d2 := 1 }.span, d2 := 1 }

/-- The weights of a projection: those of its expert, or those of its staging slot, W_UP before W_DN (R284, log entry
15). -/
def State.projWeights (s : State) (t : Task) (up : Bool) (e : Nat) : Desc × Nat :=
  if s.staged t e then
    let a := (t.op 11).row (s.stageSlot t e) 0
    let u := stagedDesc (t.op 2) a
    if up then (u, 0) else (stagedDesc (t.op 3) (u.scaleBase + u.scaleSpan true), 0)
  else (t.op (if up then 2 else 3), e)

/-- What a projection computes. -/
def State.proj (s : State) (t : Task) (p e : Nat) : Proj :=
  if t.opcode = opXmm then
    let w := s.projWeights t (p == 0) e
    if p = 0 then ⟨t.op 0, w.1, w.2, t.op 6, 0, t.op? 7, t.imm 3 0⟩ else ⟨t.op 6, w.1, w.2, t.op 4, 0, t.op? 8, 0⟩
  else if t.form = 1 ∨ t.form = 2 then ⟨t.op 0, t.op 1, 0, t.op 4, 0, none, 0⟩
  else ⟨t.op 0, t.op 1, 0, t.op 2, if t.form = 3 then s.grpRank (t.x 1 11 0) * (t.op 0).d1 else 0, t.op? 3, t.imm 3 0⟩

/-- Bytes of one staging slot: one weight tile with its scale bytes, rounded up to a multiple of 256 (R174). -/
def slotBytes (w : Desc) : Nat := 256 * ceilDiv (tileBytes w + tileScales w) 256

/-- The staging slots of one size that fit in the staging area of 256 KiB (R173, R174). -/
def slotCount (slot : Nat) : Nat := if slot = 0 then 0 else 262144 / slot

/-- Slot bytes that a run's tiles take in staging: none where its weights lie in the addressable part of a local store,
and none for element-wise work, which reloads its cells from the operand (R164, R174). -/
def State.runSlot (s : State) (t : Task) (r : Run) : Nat :=
  if r.proj = 2 then 0
  else
    let w := (s.proj t r.proj r.expert).w
    match s.place w.base with
    | .local_ _ _ => 0
    | _ => slotBytes w

/-- Values pass through a vector phase before they are written (R166, R282). -/
def Proj.vector (p : Proj) : Bool := p.bias.isSome || p.fn != 0 || p.out.fmt != fmtFp32

/-- The runs of one projection over token blocks: by output tile, then token block, then part (R56, R175). A block whose
rows all carry tag 0 lists no run, a choice of the model (log entry 37). -/
def projRuns (seq p e N s : Nat) (blocks : List (List Nat)) : List Run :=
  (List.range (ceilDiv N 64)).flatMap fun tile =>
    (List.range blocks.length).flatMap fun b =>
      let rows := blocks.getD b []
      if rows.isEmpty then []
      else (List.range s).map fun j =>
        { ord := 0, seq := seq, proj := p, expert := e, tile := tile, blk := b, part := j, parts := s, rows := rows }

/-- Runs numbered in their order. -/
def numberRuns (rs : List Run) : List Run := (List.range rs.length).filterMap fun i => (rs[i]?).map fun r => { r with ord := i }

/-- The runs of a `DMM` (R175). With more than 256 rows an output tile takes its row blocks in ascending order, each with
all its parts, which the spec leaves open (log entry 37). -/
def dmmRuns (v : Variant) (t : Task) : List Run :=
  let K := (t.op 0).d0
  let M := (t.op 0).d1
  let N := (t.op 1).d0
  numberRuns (projRuns t.seq 0 0 N (splitCount (partitionP v t.portable) N M K) (chunks 256 (List.range M)))

/-- A row that `XMM` streams: its tag is not 0, or its tag's line is read poisoned (R176). -/
def State.tagPoison (s : State) (t : Task) (y : Nat) : Bool := s.anyPoison ((t.op 5).base + 8 * y) 8
def State.liveRow (s : State) (t : Task) (y : Nat) : Bool := s.tagPoison t y || s.uint (t.op 5) y 0 0 != 0

/-- The token blocks of an expert, with the rows that carry no tag left out (R176). -/
def State.tokenBlocks (s : State) (t : Task) (e : Nat) : List (List Nat) :=
  let r := s.expertRec (t.op 1) e
  (chunks 256 (r.rows (t.op 1).d1 (t.imm 21 6) e)).map fun b => b.filter (s.liveRow t)

/-- The experts that an `XMM` computes (R284). -/
def State.xmmExperts (s : State) (t : Task) : List Nat :=
  (List.range (t.op 1).d1).filter fun e =>
    let r := s.expertRec (t.op 1) e
    !r.empty && !r.dir

/-- The split of a projection of `XMM` (R285). -/
def xmmSplit (v : Variant) (t : Task) (N K : Nat) : Nat :=
  if t.form = 1 then splitCount (partitionP v t.portable) N 256 K else 1

/-- The runs of an `XMM` (R175). -/
def State.xmmRuns (s : State) (t : Task) : List Run :=
  let hm := (t.op 0).d0
  let hh := (t.op 2).d0
  numberRuns ((s.xmmExperts t).flatMap fun e =>
    let b := s.tokenBlocks t e
    projRuns t.seq 0 e hh (xmmSplit s.variant t hh hm) b ++ projRuns t.seq 1 e hm (xmmSplit s.variant t hm hh) b)

/-- The checks of the records at issue: 0, or the error code (R284). -/
def State.recordError (s : State) (t : Task) : Nat :=
  let d := t.op 1
  let cap := t.imm 21 6
  (List.range d.d1).foldl (fun err e =>
    if err ≠ 0 then err
    else
      let r := s.expertRec d e
      if s.anyPoison (d.row e 0) 16 then errPoison
      else if r.empty then 0
      else if (r.rows d.d1 cap e).any (fun y => decide ((t.op 0).d1 ≤ y)) ∨ r.count ≠ min r.count cap + r.hrows then
        errRecordRange
      else 0) 0

/-! ### Guard tables (R207) -/

/-- The sections of a guard table: address, K, H, rank, and the presence of shadow and predictor sections. -/
structure GuardTab where
  base : Nat
  K : Nat
  H : Nat
  rank : Nat
  shadow : Bool
  pred : Bool
  deriving DecidableEq, Repr

/-- The table of expert `e`. -/
def State.guardTab (s : State) (d : Desc) (e : Nat) : GuardTab :=
  let a := d.row e 0
  let c := (s.rd (a + 8)).toNat
  ⟨a, s.rdNat a 4, s.rdNat (a + 4) 4, (s.rd (a + 9)).toNat, bitOf c 0, bitOf c 1⟩

/-- A section length rounded up to a 64-byte boundary. -/
def sec64 (n : Nat) : Nat := 64 * ceilDiv n 64

/-- Addresses of the shadow sections: W̃, its scales, and EPS. -/
def GuardTab.w (g : GuardTab) : Nat := g.base + 64
def GuardTab.ws (g : GuardTab) : Nat := g.w + sec64 (ceilDiv (g.K * g.H) 2)
def GuardTab.eps (g : GuardTab) : Nat := g.ws + sec64 (ceilDiv g.K 32 * g.H)

/-- Addresses of the predictor sections: P1, its scales, P2, its scales, and THETA. -/
def GuardTab.p1 (g : GuardTab) : Nat := if g.shadow then g.eps + sec64 (4 * g.H) else g.base + 64
def GuardTab.p1s (g : GuardTab) : Nat := g.p1 + sec64 (g.K * g.rank)
def GuardTab.p2 (g : GuardTab) : Nat := g.p1s + sec64 (ceilDiv g.K 32 * g.rank)
def GuardTab.p2s (g : GuardTab) : Nat := g.p2 + sec64 (g.rank * g.H)
def GuardTab.theta (g : GuardTab) : Nat := g.p2s + sec64 (ceilDiv g.rank 32 * g.H)
def GuardTab.top (g : GuardTab) : Nat := if g.pred then g.theta + sec64 (4 * g.H) else g.p1

/-- The guard mode that is in force for a task: its GUARD field, or OFF where SPEC is not allowed (R214). It is read
at issue and kept in `guardCounts`. -/
def State.guardMode (s : State) (t : Task) : Nat :=
  if t.imm 5 4 = 2 ∧ s.bit regAgdCtrl 0 = false then 0 else t.imm 5 4

/-- The checks of the guard's operands at issue (R113, R210, R212, R423). -/
def State.guardError (s : State) (t : Task) : Nat :=
  let m := s.guardMode t
  if m = 0 then 0
  else (s.xmmExperts t).foldl (fun err e =>
    if err ≠ 0 then err
    else
      let g := s.guardTab (t.op 9) e
      if s.anyPoison g.base 64 then errPoison
      else if g.K ≠ (t.op 0).d0 ∨ g.H ≠ (t.op 2).d0 ∨ (m = 2 ∧ g.pred = false) then errGuardTable
      else if s.anyPoison g.base (g.top - g.base)
          ∨ ((s.tokenBlocks t e).any fun b => b.any fun y => s.rowPoison (t.op 0) y 0) then errPoison
      else 0) 0

/-! ### The state of a matrix task -/

/-- Raw parts and finished tiles of one output block. -/
def Part.of (p : Part) (seq proj e blk : Nat) : Bool :=
  p.run.seq == seq && p.run.proj == proj && p.run.expert == e && p.run.blk == blk

/-- A neuron tile of a token block was skipped (R205). -/
def State.skipped (s : State) (seq e blk tile : Nat) : Bool := s.skips.contains (seq, e, blk, tile)

/-- Nothing of a task is left on the list, in a core, in parts or in blocks. -/
def State.coreWorkDone (s : State) (seq : Nat) : Bool :=
  !(s.runs.any fun r => r.seq == seq) && !(s.heldRuns.any fun r => r.seq == seq)
    && !(s.parts.any fun p => p.run.seq == seq) && !(s.vblocks.any fun b => b.seq == seq)
    && !(s.heldBlocks.any fun b => b.seq == seq) && !(s.guards.any fun g => g.1 == seq)

/-- A fused form has its fabric part still before it (R283). -/
def State.fusedOpen (s : State) (t : Task) : Bool :=
  t.opcode == opDmm && t.form != 0 && !(s.col.colls.any fun c => c.task == some t.seq && c.taskEnded)

/-- The guard's report (R213). -/
def State.guardReport (s : State) (t : Task) : State :=
  match t.op? 10 with
  | some d =>
    if t.imm 5 4 = 0 ∨ t.guardCounts = [] then s
    else s.putBytes d.base (t.guardCounts.flatMap (leBytes 8))
  | none => s

/-- A core task whose work is all done ends (R423). -/
def State.settleCore (s : State) (seq : Nat) : State :=
  match s.task? seq with
  | none => s
  | some t =>
    if t.phase = .running ∧ s.coreWorkDone seq = true ∧ s.fusedOpen t = false then
      let s1 := ((s.guardReport t).scrambleOverlaps t).endTask seq t.err 0
      { s1 with skips := s1.skips.filter fun k => k.1 != seq }
    else s

/-- Flags added to a running task: DETAIL bits, and POISON. -/
def State.note (s : State) (seq detail : Nat) (poison : Bool) : State :=
  s.modTask seq fun t => { t with detail := t.detail ||| detail,
                                  err := if poison then errPoison else t.err,
                                  outcome := if poison then 2 else t.outcome }

/-! ### Accumulation runs -/

/-- The K positions of a run, its passes skipped under R205 taken out: the number of passes, the number of skipped
ones, and the kept range test. -/
def State.passes (s : State) (r : Run) (K wf : Nat) : List (Nat × Bool) :=
  let (a, b) := partTiles K r.parts r.part
  let w := modeW wf
  (List.range (ceilDiv (b - a) w)).map fun i =>
    let lo := a + i * w
    let tiles := (List.range (min w (b - lo))).map (lo + ·)
    (i, r.proj == 1 && tiles.all fun k => s.skipped r.seq r.expert r.blk k)

/-- The weights of a column that a run streams: all but those of the passes that it skips (R205). -/
def State.runWeights (s : State) (r : Run) (p : Proj) (n : Nat) : List Weight :=
  let K := p.act.d0
  let (a, b) := partTiles K r.parts r.part
  let ps := s.passes r K p.w.fmt
  let w := modeW p.w.fmt
  (s.weights p.w p.z n (64 * a) (64 * b)).filter fun x =>
    !((ps.find? fun q => q.1 == (x.k / 64 - a) / w).map (·.2)).getD false

/-- Consecutive weights grouped by their 32-position block. -/
def groupBlocks : List Weight → List (List Weight)
  | [] => []
  | x :: xs => match groupBlocks xs with
    | (y :: ys) :: rest => if x.k / 32 = y.k / 32 then (x :: y :: ys) :: rest else [x] :: (y :: ys) :: rest
    | rest => [x] :: rest

/-- The pairs of blocks of one token row and one column: scale bytes and scaled products. -/
def State.blockPairs (s : State) (act : Desc) (y : Nat) (ws : List Weight) : List BlockPair :=
  (groupBlocks ws).map fun g =>
    match g with
    | [] => ⟨127, 127, []⟩
    | x :: _ =>
      let ea := s.scaleAt act x.k y 0
      ⟨ea, x.scale, g.map fun w => (scaled (s.raw act w.k y 0) ea).mul (scaled w.val w.scale)⟩

/-- The weights whose products make a column: those streamed or, under PLUMB, all of the run. The passes that PLUMB skips
carry only zeros, and every output bit equals the bit under OFF (R211), so they stay in the window of R47 and a weight
that is not finite keeps its effect. -/
def State.colWeights (s : State) (r : Run) (p : Proj) (n : Nat) : List Weight :=
  if (s.task? r.seq).any (fun t => t.opcode == opXmm && t.imm 5 4 == 1) then
    let (a, b) := partTiles p.act.d0 r.parts r.part
    s.weights p.w p.z n (64 * a) (64 * b)
  else s.runWeights r p n

/-- One column of a run: the values of its rows, and whether it was computed in fixed order (R46 to R53). -/
def State.runCol (s : State) (r : Run) (p : Proj) (n : Nat) : List F32 × Bool :=
  let ws := s.colWeights r p n
  if p.w.fmt = fmtBf16 then
    (r.rows.map fun y => runBf16 (ws.map fun w => (s.raw p.act w.k y 0).mul w.val), false)
  else
    let pairs := r.rows.map fun y => s.blockPairs p.act y ws
    let span := match pairSpan p.act.fmt (valueFmt p.w.fmt) with
      | some x => x.2
      | none => 0
    let inside := insideWindow span ws.length pairs.flatten
    (pairs.map (runColumn inside), !inside)

/-- Transposition of the columns of a run into rows. -/
def toRows (rows : Nat) (cols : List (List F32)) : List (List F32) :=
  (List.range rows).map fun i => cols.map fun c => c.getD i f32Zero

/-- A run reads a poisoned line (R423). -/
def State.runPoison (s : State) (r : Run) (p : Proj) : Bool :=
  let (a, b) := partTiles p.act.d0 r.parts r.part
  (r.rows.any fun y =>
    s.anyPoison (p.act.row y 0 + 64 * a * fmtBits p.act.fmt / 8)
        (ceilDiv ((min (64 * b) p.act.d0 - 64 * a) * fmtBits p.act.fmt) 8)
      || (p.act.scaled && s.anyPoison (p.act.rowScale y 0 + 2 * a) (ceilDiv (min (64 * b) p.act.d0 - 64 * a) 32)))
  || s.weightPoison p.w p.z (64 * r.tile) (64 * r.tile + 64) (64 * a) (64 * b)

/-- The output columns of a run. -/
def runCols (r : Run) (N : Nat) : List Nat := (List.range (min 64 (N - 64 * r.tile))).map (64 * r.tile + ·)

/-- Products that a run does not gate: both operands not zero (R159). -/
def State.liveProducts (s : State) (r : Run) (p : Proj) : Nat :=
  (runCols r p.w.d0).foldl (fun n c =>
    let ws := (s.runWeights r p c).filter fun w => !w.val.isZero
    r.rows.foldl (fun m y => m + (ws.filter fun w => !(s.raw p.act w.k y 0).isZero).length) n) 0

/-- The result of a run: its part, how many of its columns were computed in fixed order, the passes run and skipped,
and the products gated. -/
structure RunOut where
  part : Part
  fallbacks : Nat
  ran : Nat
  skips : Nat
  gated : Nat
  deriving DecidableEq, Repr

/-- A run computed, with weights from the core's residency area where they are resident (R155, R165, R416). -/
def State.computeRun (s : State) (t : Task) (core : Nat) (r : Run) : RunOut :=
  let p := s.proj t r.proj r.expert
  let v := s.residentView (s.logical core)
  let cols := (runCols r p.w.d0).map (v.runCol r p)
  let ps := s.passes r p.act.d0 p.w.fmt
  let ran := (ps.filter fun q => !q.2).length
  let vals := toRows r.rows.length (cols.map (·.1))
  let vals := if s.stageOk t r.expert then vals else
    (List.range vals.length).map fun i => (List.range ((vals.getD i []).length)).map fun j =>
      BitVec.ofNat 32 (leNat ((List.range 4).map fun b => Config.freeByte (s.free + 256 * i + 4 * j + b)))
  { part := { run := r, core := core, vals := vals, poisoned := v.runPoison r p }
    fallbacks := (cols.filter (·.2)).length
    ran := ran
    skips := ps.length - ran
    gated := ran * 4096 * (if p.w.fmt = fmtE2m1 then 2 else 1) * r.rows.length - v.liveProducts r p }

/-! ### Finished tiles, epilogues and vector blocks -/

/-- The tiles of a vector piece of 16,384 elements. -/
abbrev pieceTiles : Nat := 256

/-- The finished tiles of an output block. -/
def State.tiles (s : State) (seq proj e blk : Nat) : List Part :=
  s.parts.filter fun p => p.of seq proj e blk && p.run.parts == 1

/-- The core to which an owner's blocks fall: the owner, or the lowest active core of its cluster (R425). -/
def State.blockOwner (s : State) (k : Nat) : Nat :=
  if s.coreActive k then k
  else ((List.range 9).map fun i => 9 * (k / 9) + i).find? s.coreActive |>.getD k

/-- A finished tile: written at once when it needs no vector phase, otherwise kept until every tile of its piece is
there, when the blocks of the piece are queued at the core that finished it (R165, R166, R170). -/
def State.tileReady (s : State) (t : Task) (p : Part) : State :=
  let r := p.run
  let j := s.proj t r.proj r.expert
  if j.vector then
    let s1 := { s with parts := s.parts ++ [p] }
    let piece := r.tile / pieceTiles
    let tiles := ((List.range (ceilDiv j.w.d0 64)).drop (piece * pieceTiles)).take pieceTiles
    let have_ := s1.tiles r.seq r.proj r.expert r.blk
    let all := tiles.all fun k =>
      (r.proj == 0 && t.opcode == opXmm && s1.skipped r.seq r.expert r.blk k) || have_.any fun x => x.run.tile == k
    if all then
      { s1 with vblocks := s1.vblocks ++ r.rows.map fun y =>
          { seq := r.seq, proj := r.proj, expert := r.expert, blk := r.blk, row := y, piece := piece, owner := p.core } }
    else s1
  else
    (List.range r.rows.length).foldl (fun a i =>
      let y := r.rows.getD i 0
      let poison := p.poisoned || (t.opcode == opXmm && a.tagPoison t y)
      let w := a.writeSeg t.sat poison j.out (64 * r.tile) (j.base + y) 0
        ((p.vals.getD i []).map fun v => (ofF32 v, .nearest))
      w.1.note t.seq (if w.2 then 2 else 0) poison) s

/-- A completed run's part: a tile of its own, or one of the parts of a tile (R57, R181). -/
def State.partReady (s : State) (t : Task) (p : Part) : State :=
  if p.run.parts = 1 then s.tileReady t p else { s with parts := s.parts ++ [p] }

/-- The raw parts of the tile whose part 0 has place `ord` on the list, in ascending part. -/
def State.rawParts (s : State) (seq ord : Nat) : List Part :=
  sortBy (fun a b => decide (a.run.part < b.run.part))
    (s.parts.filter fun p => p.run.seq == seq && decide (1 < p.run.parts) && p.run.ord == ord + p.run.part)

/-- Rows of FP32 values added element by element (R57). -/
def addRows (a b : List (List F32)) : List (List F32) := List.zipWith (List.zipWith f32Add) a b

/-- The parts of a tile summed, when all are there (R57, R181). -/
def State.sumParts (s : State) (t : Task) (ord : Nat) : Option State :=
  match s.rawParts t.seq ord with
  | [] => none
  | p :: ps =>
    if p.run.part = 0 ∧ ps.length + 1 = p.run.parts then
      let v := ps.foldl (fun a q => addRows a q.vals) p.vals
      let tile : Part := { run := { p.run with parts := 1 }, core := p.core, vals := v,
                           poisoned := (p :: ps).any (·.poisoned) }
      let s1 := { s with parts := s.parts.filter fun q =>
        !(q.run.seq == t.seq && decide (1 < q.run.parts) && q.run.ord == ord + q.run.part) }
      some ((s1.tileReady t tile).settleCore t.seq)
    else none

/-- The epilogue of one value (R282). -/
def Proj.epilogue (s : State) (j : Proj) (e : Nat) (n : Nat) (v : F32) : F32 :=
  let b := match j.bias with
    | some d => f32Add v (toF32 (s.elem d n (if d.d1 = 1 then 0 else e) 0))
    | none => v
  activate j.fn b

/-- The bias row of an expert is read poisoned. -/
def Proj.biasPoison (s : State) (j : Proj) (e : Nat) : Bool :=
  match j.bias with
  | some d => s.rowPoison d (if d.d1 = 1 then 0 else e) 0
  | none => false

/-- A vector block of an epilogue: each tile of the piece converted and written (R166, R282, R423). -/
def State.epilogueBlock (s : State) (t : Task) (b : VBlock) : State :=
  let j := s.proj t b.proj b.expert
  let ts := (s.tiles b.seq b.proj b.expert b.blk).filter fun p => p.run.tile / pieceTiles == b.piece
  let bp := Proj.biasPoison s j b.expert || (t.opcode == opXmm && s.tagPoison t b.row)
  ts.foldl (fun a p =>
    let i := p.run.rows.findIdx (· == b.row)
    let vals := p.vals.getD i []
    let out := (List.range vals.length).map fun c =>
      (ofF32 (Proj.epilogue s j b.expert (64 * p.run.tile + c) (vals.getD c f32Zero)), Rounding.nearest)
    let w := a.writeSeg t.sat (p.poisoned || bp) j.out (64 * p.run.tile) (j.base + b.row) 0 out
    w.1.note t.seq (if w.2 then 2 else 0) (p.poisoned || bp)) s

/-- A vector block of the epilogue that follows the reduction of a fused form: a row of STAGE to a row of C (R283). -/
def State.fusedBlock (s : State) (t : Task) (b : VBlock) : State :=
  let st := t.op 4
  let out := t.op 2
  let j : Proj := ⟨st, t.op 1, 0, out, 0, t.op? 3, t.imm 3 0⟩
  let lo := 16384 * b.piece
  let n := min 16384 (out.d0 - lo)
  let off := if t.form = 2 then (shard (t.op 0).d1 (s.grpM (t.x 1 11 0)) (s.grpRank (t.x 1 11 0))).1 else 0
  let poison := s.anyPoison (st.row b.row 0 + 4 * lo) (4 * n) || Proj.biasPoison s j 0
  let vals := (List.range n).map fun c =>
    (ofF32 (Proj.epilogue s j 0 (lo + c) (toF32 (s.elem st (lo + c) b.row 0))), Rounding.nearest)
  let w := s.writeSeg t.sat poison out lo (b.row - off) 0 vals
  w.1.note t.seq (if w.2 then 2 else 0) poison

/-! ### `EWISE` (R286) -/

/-- An input's element for element (x, y, z) of the output: rows of an input with D1 = D2 = 1 serve every row. -/
def State.ewIn (s : State) (t : Task) (f x y z : Nat) : Fp :=
  let d := t.op f
  if d.d1 = 1 ∧ d.d2 = 1 then s.elem d x 0 0 else s.elem d x y z

/-- The row of an input is read poisoned. -/
def State.ewPoison (s : State) (t : Task) (y z : Nat) : Bool :=
  (ewiseInputs (t.imm 7 0)).any fun f =>
    let d := t.op f
    if d.d1 = 1 ∧ d.d2 = 1 then s.rowPoison d 0 0 else s.rowPoison d y z

/-- One element of a vector operation (R167, R286). -/
def ewOp (op : Nat) (a b c : F32) : F32 :=
  let x := ofF32 a
  if op = 0x00 then f32Add a b
  else if op = 0x01 then f32Sub a b
  else if op = 0x02 then f32Mul a b
  else if op = 0x03 then f32Fma a b c
  else if op = 0x04 then f32Min a b
  else if op = 0x05 then f32Max a b
  else if op = 0x06 then f32Abs a
  else if op = 0x07 then (if (ofF32 c).isZero then b else a)
  else if op = 0x10 then toF32 x.exp
  else if op = 0x11 then toF32 x.sigmoid
  else if op = 0x12 then toF32 x.silu
  else if op = 0x13 then toF32 x.gelu
  else if op = 0x14 then toF32 x.recip
  else if op = 0x15 then toF32 x.sqrt
  else if op = 0x16 then toF32 x.rsqrt
  else if op = 0x17 then toF32 x.tanh
  else toF32 x

/-- One level of the reduction tree (R168). -/
def treeLevel (f : F32 → F32 → F32) : List F32 → List F32
  | a :: b :: rest => f a b :: treeLevel f rest
  | rest => rest

/-- A vector reduction of a row in the order of R168. -/
def reduceRow (f : F32 → F32 → F32) (xs : List F32) : F32 :=
  let lanes := (List.range (min 64 xs.length)).map fun l =>
    (List.range ((xs.length - l - 1) / 64)).foldl (fun a i => f a (xs.getD (l + 64 * (i + 1)) f32Zero)) (xs.getD l f32Zero)
  ((List.range 6).foldl (fun v _ => treeLevel f v) lanes).getD 0 f32Zero

/-- A row reduction of `EWISE`. -/
def ewReduce (op : Nat) (xs : List F32) : F32 :=
  if op = 0x30 then reduceRow f32Add xs
  else if op = 0x31 then reduceRow f32Add (xs.map fun x => f32Mul x x)
  else if op = 0x32 then reduceRow f32Max xs
  else reduceRow f32Min xs

/-- The rounding of output element `i`: to nearest, or stochastic with its draw (R44, R64, R286). -/
def ewRounding (t : Task) (i : Nat) : Rounding :=
  if t.form = 1 then .stochastic (draw (t.x 2 127 0) (t.x 3 63 0) i) else .nearest

/-- A vector block of `EWISE`: `row` counts D's rows over both dimensions. -/
def State.ewBlock (s : State) (t : Task) (b : VBlock) : State :=
  let op := t.imm 7 0
  let d := t.op 3
  let y := b.row % d.d1
  let z := b.row / d.d1
  let poison := s.ewPoison t y z
  let vals : Nat × List (Fp × Rounding) :=
    if 0x30 ≤ op then
      let xs := (List.range (t.op 0).d0).map fun x => toF32 (s.ewIn t 0 x y z)
      (0, [(ofF32 (ewReduce op xs), ewRounding t b.row)])
    else
      let lo := 16384 * b.piece
      (lo, (List.range (min 16384 (d.d0 - lo))).map fun i =>
        let x := lo + i
        let v := ewOp op (toF32 (s.ewIn t 0 x y z)) (toF32 (s.ewIn t 1 x y z)) (toF32 (s.ewIn t 2 x y z))
        (ofF32 v, ewRounding t (b.row * d.d0 + x)))
  let w := s.writeSeg t.sat poison d vals.1 y z vals.2
  w.1.note t.seq (if w.2 then 2 else 0) poison

/-- The vector blocks of an `EWISE` task, spread over the cores of its grant. -/
def State.ewBlocks (s : State) (t : Task) : List VBlock :=
  let d := t.op 3
  let per := if 0x30 ≤ t.imm 7 0 then 1 else ceilDiv d.d0 16384
  (List.range (d.d1 * d.d2 * per)).map fun i =>
    { seq := t.seq, proj := 2, expert := 0, blk := 0, row := i / per, piece := i % per,
      owner := (s.physical (t.grantLo + i % (t.grantHi - t.grantLo))).getD 0 }

/-- The element-wise runs of MUL2 and DOT2: up to 4,096 elements of one row each. -/
def ewRuns (t : Task) : List Run :=
  let d := t.op 3
  numberRuns ((List.range (d.d1 * d.d2)).flatMap fun r => (List.range (ceilDiv d.d0 4096)).map fun i =>
    { ord := 0, seq := t.seq, proj := 2, expert := 0, tile := i, blk := r, part := 0, parts := 1, rows := [] })

/-- One element of MUL2 or DOT2 and whether it was computed in fixed order (R46, R47, R164). -/
def State.ewArray (s : State) (t : Task) (x y z : Nat) : F32 × Bool :=
  let sc (f : Nat) : Nat :=
    let d := t.op f
    if d.d1 = 1 ∧ d.d2 = 1 then s.scaleAt d x 0 0 else s.scaleAt d x y z
  let pair (f g : Nat) : BlockPair := ⟨sc f, sc g, [(s.ewIn t f x y z).mul (s.ewIn t g x y z)]⟩
  let bs := if t.imm 7 0 = 0x20 then [pair 0 1] else [pair 0 1, pair 2 4]
  let span (f g : Nat) : Nat := match pairSpan (t.op f).fmt (t.op g).fmt with
    | some p => p.2
    | none => 0
  let inside := insideWindow (max (span 0 1) (if t.imm 7 0 = 0x20 then 0 else span 2 4)) bs.length bs
  (runColumn inside bs, !inside)

/-- The products of one element of MUL2 or DOT2 that a zero operand gates (R159, R164). -/
def State.ewGated (s : State) (t : Task) (x y z : Nat) : Nat :=
  let gated (f g : Nat) : Nat := b2n ((s.ewIn t f x y z).isZero || (s.ewIn t g x y z).isZero)
  gated 0 1 + (if t.imm 7 0 = 0x20 then 0 else gated 2 4)

/-- An element-wise run performed: its writes, how many of its elements were computed in fixed order, and how many of its
products were gated. -/
def State.ewRun (s : State) (t : Task) (r : Run) : State × Nat × Nat :=
  let d := t.op 3
  let y := r.blk % d.d1
  let z := r.blk / d.d1
  let lo := 4096 * r.tile
  let vs := (List.range (min 4096 (d.d0 - lo))).map fun i => s.ewArray t (lo + i) y z
  let poison := s.ewPoison t y z
  let w := s.writeSeg t.sat poison d lo y z
    ((List.range vs.length).map fun i => (ofF32 (vs.getD i (f32Zero, false)).1, ewRounding t (r.blk * d.d0 + lo + i)))
  (w.1.note t.seq (if w.2 then 2 else 0) poison, (vs.filter (·.2)).length,
    ((List.range vs.length).map fun i => s.ewGated t (lo + i) y z).foldl (· + ·) 0)

/-! ### Issue of core tasks -/

/-- The work of a `DMM` at its issue: its runs go on the list. -/
def State.startDmm (s : State) (t : Task) : State := (dmmRuns s.variant t).foldl State.listRun s

/-- The work of an `XMM` at its issue: the checks, then its runs and guard items (R215, R284). -/
def State.startXmm (s : State) (t : Task) : State :=
  let s := if t.imm 5 4 = 2 ∧ s.guardMode t = 0 then s.addReg regAgdSpecDenied 1 else s
  let e1 := s.recordError t
  let e2 := s.guardError t
  if e1 ≠ 0 then s.endTask t.seq e1 0
  else if e2 ≠ 0 then s.endTask t.seq e2 0
  else
    let s1 := (s.xmmRuns t).foldl State.listRun s
    let s2 := if s.guardMode t = 0 then s1 else
      { s1 with guards := s1.guards ++ (s.xmmExperts t).flatMap fun e =>
          let b := s.tokenBlocks t e
          (List.range b.length).filterMap fun i => if (b.getD i []).isEmpty then none else some (t.seq, e, i) }
    let s3 := if s.guardMode t = 0 then s2 else s2.modTask t.seq fun x => { x with guardCounts := [0, 0, 0, 0] }
    s3.settleCore t.seq

/-- The work of an `EWISE` at its issue. -/
def State.startEwise (s : State) (t : Task) : State :=
  if ewiseArray t then (ewRuns t).foldl State.listRun s
  else { s with vblocks := s.vblocks ++ s.ewBlocks t }

/-- DMM, base form. -/
def execDmm (seq : Nat) (s : State) : Result := attempt s fun s => s.launch seq opDmm 0 State.startDmm

/-- XMM, base form. -/
def execXmm (seq : Nat) (s : State) : Result := attempt s fun s => s.launch seq opXmm 0 State.startXmm

/-- XMM.K. -/
def execXmmK (seq : Nat) (s : State) : Result := attempt s fun s => s.launch seq opXmm 1 State.startXmm

/-- EWISE, rounding to nearest. -/
def execEwise (seq : Nat) (s : State) : Result := attempt s fun s => s.launch seq opEwise 0 State.startEwise

/-- EWISE, stochastic rounding. -/
def execEwiseStochastic (seq : Nat) (s : State) : Result := attempt s fun s => s.launch seq opEwise 1 State.startEwise

/-! ### Claims (R177 to R180, R184) -/

/-- The core that a run goes to in fixed mode (R180, R427). -/
def State.fixedCore (s : State) (t : Task) (r : Run) : Nat :=
  let n := t.grantHi - t.grantLo
  let i := r.ord % n
  match (List.range n).find? fun j => !s.coreLost (t.grantLo + (i + j) % n) with
  | some j => t.grantLo + (i + j) % n
  | none => t.grantLo + i

/-- Another part of the run's output tile has already been started (R409). -/
def State.tileStarted (s : State) (r : Run) : Bool :=
  decide (1 < r.parts) && ((s.heldRuns.any fun x => x.seq == r.seq && x.ord != r.ord && x.ord - x.part == r.ord - r.part
      && x.parts == r.parts)
    || s.parts.any fun p => p.run.seq == r.seq && decide (1 < p.run.parts) && p.run.ord - p.run.part == r.ord - r.part)

/-- In fixed mode a core takes a task's runs in ascending order: no earlier one that it may take is left (R180). While
the task is being pre-empted only the runs that R409 still allows count. -/
def State.fixedTurn (s : State) (t : Task) (l : Nat) (r : Run) : Bool :=
  s.fixedCore t r == l && !(s.runs.any fun x => x.seq == r.seq && decide (x.ord < r.ord) && s.fixedCore t x == l
    && (!t.preempt || s.tileStarted x))

/-- A run may be claimed by a logical core (R177, R179, R215, R409). -/
def State.claimable (s : State) (l : Nat) (r : Run) : Bool :=
  match s.task? r.seq with
  | none => false
  | some t =>
    t.phase == .running && decide (t.grantLo ≤ l ∧ l < t.grantHi) && (!t.preempt || s.tileStarted r)
      && (!t.fixed || s.fixedTurn t l r)
      && (if t.opcode != opXmm then true
          else if r.proj = 0 then !(s.guards.contains (r.seq, r.expert, r.blk))
          else
            let up (q e : Nat) (p : Nat) := q == r.seq && e == r.expert && p == 0
            !(s.runs.any fun x => up x.seq x.expert x.proj) && !(s.heldRuns.any fun x => up x.seq x.expert x.proj)
              && !(s.parts.any fun x => up x.run.seq x.run.expert x.run.proj)
              && !(s.vblocks.any fun x => up x.seq x.expert x.proj)
              && !(s.heldBlocks.any fun x => up x.seq x.expert x.proj)
              && !(s.guards.any fun g => g.1 == r.seq && g.2.1 == r.expert))

/-- The Expert Core Array takes no new work while it halts. -/
def State.arrayOpen (s : State) : Bool := !(s.halted 5 || s.halting 5) && !s.stopped

/-- A stake request of a core (R184, R452). -/
def State.requestCoreStake (s : State) (seq core : Nat) : State :=
  let lc := (s.task? seq).any (·.lc)
  { s with power := { s.power with requests := s.power.requests ++
      [{ collective := false, lc := lc, seq := seq, core := core, since := s.time }] } }

/-- Slot bytes of a run on the list or in a core. -/
def State.slotOf (s : State) (r : Run) : Nat :=
  match s.task? r.seq with
  | some t => s.runSlot t r
  | none => 0

/-- A run claimed by a core (R177, R178). Staging is divided into slots for the run in hand; a run claimed next takes its
own as the slots of the run before it empty (R174). -/
def State.claimRun (s : State) (k : Nat) : Option State :=
  match s.logical k with
  | none => none
  | some l =>
    let c := s.core k
    if s.arrayOpen = true ∧ c.next = none then
      match s.runs.find? (s.claimable l) with
      | none => none
      | some r =>
        let s1 := { s with runs := s.runs.filter fun x => !(x.seq == r.seq && x.ord == r.ord) }
        match c.cur with
        | none =>
          let s2 := s1.setCore { c with cur := some r, slot := s.slotOf r }
          some (if c.stake then s2 else s2.requestCoreStake r.seq l)
        | some _ => some (s1.setCore { c with next := some r })
    else none

/-- RUN_CLAIM. -/
def execRunClaim (core : Nat) (s : State) : Result := attempt s fun s => s.claimRun core

/-- The cycle counters of a core after a run: CORE_ARRAY_CYCLES, CORE_DRY_CYCLES, CORE_DRAIN_CYCLES and
CORE_STAKE_CYCLES grow by amounts that follow from the timing, which the model leaves free (R158, R184, R186; log entry
11). -/
def State.countCycles (s : State) (k : Nat) : State :=
  let grow (z : State) (i : Nat) : State :=
    z.addReg (regCoreMap k + 0x20 + 8 * i) (leNat ((List.range 4).map fun b => Config.freeByte (s.free + 4 * i + b)))
  { (List.range 4).foldl grow s with free := s.free + 16 }

/-- The counters of a completed run (R51, R186, R213). -/
def State.countRun (s : State) (k seq fallbacks ran skips gated : Nat) : State :=
  let s1 := (((s.countCycles k).addReg (regCoreRuns k) 1).addReg (regCoreTiles k) ran).addReg (regCoreGated k) gated
  let s2 := s1.setFld regGlbNumerics 63 32 ((s1.fld regGlbNumerics 63 32 + fallbacks) % 2 ^ 32)
  let s3 := if skips = 0 then s2 else (s2.addReg regAgdPassesSkipped skips).modTask seq fun t =>
    { t with guardCounts := t.guardCounts.modify 2 (· + skips) }
  s3.note seq (if fallbacks = 0 then 0 else 4) false

/-- The core after its run: the next run moves up, unless the array halts or its task is being pre-empted; the unit is
released when nothing follows (R178, R183, R184). -/
def State.advanceCore (s : State) (k : Nat) : State :=
  let c := s.core k
  match c.next with
  | none => s.setCore { c with cur := none, stake := false, slot := 0 }
  | some r =>
    let stop := s.halting 5 || ((s.task? r.seq).any (·.preempt) && !s.tileStarted r)
    if stop then (s.setCore { c with cur := none, next := none, stake := false, slot := 0 }).listRun r
    else s.setCore { c with cur := some r, next := none, slot := s.slotOf r }

/-- A run read out (R156, R165). -/
def State.completeRun (s : State) (k : Nat) : Option State :=
  let c := s.core k
  match c.cur with
  | none => none
  | some r =>
    match s.task? r.seq with
    | none => none
    | some t =>
      if c.stake = true ∧ s.power.stopped = false then
        if r.proj = 2 then
          let w := s.ewRun t r
          some (((w.1.countRun k t.seq w.2.1 1 0 w.2.2).advanceCore k).settleCore t.seq)
        else
          let o := s.computeRun t k r
          let s1 := if s.stageOk t r.expert then s else { s with free := s.free + 65536 }
          let s2 := ((s1.countRun k t.seq o.fallbacks o.ran o.skips o.gated).advanceCore k).note t.seq 0 o.part.poisoned
          some ((s2.partReady t o.part).settleCore t.seq)
      else none

/-- RUN_COMPLETE. -/
def execRunComplete (core : Nat) (s : State) : Result := attempt s fun s => s.completeRun core

/-- PARTIAL_SUM_START: the parts of the output tile whose part 0 has place `tile` on the task's list are added (R181). -/
def execPartialSumStart (seq tile : Nat) (s : State) : Result :=
  attempt s fun s => match s.task? seq with
    | some t => if t.phase = .running ∧ s.stopped = false then s.sumParts t tile else none
    | none => none

/-! ### Vector blocks (R170) -/

/-- A core may work on a block: its task runs and its grant holds the core. -/
def State.blockGranted (s : State) (l : Nat) (b : VBlock) : Bool :=
  (s.task? b.seq).any fun t => t.phase == .running && !t.preempt && decide (t.grantLo ≤ l ∧ l < t.grantHi)

/-- IRON of a core for the blocks of a task, as it stood when the task issued (R187). -/
def State.irons (s : State) (b : VBlock) (k : Nat) : Bool := (s.task? b.seq).any fun t => !t.noIron.contains k

/-- The block that a core takes: its own first, or, ironing, the last of the core of its cluster with the most pending
blocks (R170). -/
def State.nextBlock (s : State) (k l : Nat) : Option VBlock :=
  let open_ := s.vblocks.filter (s.blockGranted l)
  match open_.find? fun b => s.blockOwner b.owner == k with
  | some b => some b
  | none =>
    let mates := ((List.range 9).map fun i => 9 * (k / 9) + i).filter (· != k)
    let queue (m : Nat) := open_.filter fun b => s.blockOwner b.owner == m && s.irons b k && s.irons b m
    let best := mates.foldl (fun (a : Option Nat) m =>
      match a with
      | none => if (queue m).isEmpty then none else some m
      | some x =>
        if (queue x).length < (queue m).length
            ∨ ((queue x).length = (queue m).length ∧ (s.logical m).getD 255 < (s.logical x).getD 255) then some m
        else some x) none
    best.bind fun m => (queue m).getLast?

/-- A vector block claimed (R170). -/
def State.claimBlock (s : State) (k : Nat) : Option State :=
  match s.logical k with
  | none => none
  | some l =>
    let c := s.core k
    if s.arrayOpen = true ∧ c.vec = none then
      match s.nextBlock k l with
      | none => none
      | some b =>
        let s1 := ({ s with vblocks := s.vblocks.erase b }).setCore { c with vec := some b }
        some (if s.blockOwner b.owner = k then s1 else s1.addReg (regCoreIroned k) 1)
    else none

/-- VECTOR_BLOCK_CLAIM. -/
def execVectorBlockClaim (core : Nat) (s : State) : Result := attempt s fun s => s.claimBlock core

/-- The tiles of a piece are dropped once its last block has been written. -/
def State.dropPiece (s : State) (b : VBlock) : State :=
  let same (x : VBlock) : Bool :=
    x.seq == b.seq && x.proj == b.proj && x.expert == b.expert && x.blk == b.blk && x.piece == b.piece
  if s.vblocks.any same || s.heldBlocks.any same then s
  else { s with parts := s.parts.filter fun p =>
    !(p.of b.seq b.proj b.expert b.blk && p.run.parts == 1 && p.run.tile / pieceTiles == b.piece) }

/-- A vector block's effect. -/
def State.runBlock (s : State) (t : Task) (b : VBlock) : State :=
  if b.proj = 2 then s.ewBlock t b else if b.proj = 3 then s.fusedBlock t b else s.epilogueBlock t b

/-- A vector block completed. -/
def State.completeBlock (s : State) (k : Nat) : Option State :=
  let c := s.core k
  match c.vec with
  | none => none
  | some b =>
    match s.task? b.seq with
    | none => none
    | some t =>
      if s.power.stopped then none
      else some ((((s.runBlock t b).setCore { c with vec := none }).dropPiece b).settleCore b.seq)

/-- VECTOR_BLOCK_COMPLETE. -/
def execVectorBlockComplete (core : Nat) (s : State) : Result := attempt s fun s => s.completeBlock core

/-! ### The Activation Guard (R205 to R213) -/

/-- A number rounded toward +infinity to FP32. -/
def toF32Up (x : Fp) : F32 :=
  let r := toF32 x
  if (ofF32 r).lt x then
    (if (ofF32 r).isZero then 1#32 else if (ofF32 r).neg? then r - 1 else r + 1)
  else r

/-- An element of the W̃, P1 or P2 section with its block scale. -/
def State.tabElem (s : State) (fmt base sbase width k n : Nat) : Fp :=
  scaled (decodeElem fmt (s.bitsAt fmt base (k * width + n))) (s.rd (sbase + k / 32 * width + n)).toNat

/-- An FP32 value of a section. -/
def State.tabF32 (s : State) (a n : Nat) : Fp := decodeElem fmtFp32 (s.rdNat (a + 4 * n) 4)

/-- PLUMB can prove something for the task (R210). -/
def State.plumbOk (s : State) (t : Task) (g : GuardTab) : Bool :=
  let a := t.op 0
  (t.imm 3 0 == 1 || t.imm 3 0 == 2) && (a.fmt == fmtE4m3 || a.fmt == fmtE2m1)
    && xmmSplit s.variant t (t.op 2).d0 a.d0 == 1 && g.shadow

/-- Neuron `n` is proven zero for token row `y` (R209). -/
def State.proven (s : State) (t : Task) (g : GuardTab) (e y n : Nat) : Bool :=
  let xs := s.rowVals (t.op 0) y 0
  let prods := (List.range g.K).map fun k => (xs.getD k .nan).mul (s.tabElem fmtE2m1 g.w g.ws g.H k n)
  let zt := toF32Up (prods.foldl Datum.push {}).value
  let m := xs.foldl (fun (a : Fp) x => a.max x.abs) (Fp.fin false 0 0)
  let me := toF32Up (m.mul (s.tabF32 g.eps n))
  let u := toF32Up ((ofF32 zt).add (ofF32 me))
  let b : Fp := match t.op? 7 with
    | some d => s.elem d n (if d.d1 = 1 then 0 else e) 0
    | none => .fin false 0 0
  let U := ofF32 (toF32Up ((ofF32 u).add b))
  !U.isNan && !(Fp.fin false 0 0).lt U

/-- The predictor's hidden vector for a token row, quantised to scaled E4M3, and whether that met a NaN or an infinity
(R41, R212). -/
def State.predHidden (s : State) (t : Task) (g : GuardTab) (y : Nat) : List Fp × Bool :=
  let xs := s.rowVals (t.op 0) y 0
  let h := (List.range g.rank).map fun j =>
    ((List.range g.K).map fun k => (xs.getD k .nan).mul (s.tabElem fmtE4m3 g.p1 g.p1s g.rank k j)).foldl Datum.push {}
      |>.readout
  let qs := (chunks 32 h).map fun c => quantBlock fmtE4m3 t.sat (c.map fun v => (ofF32 v, .nearest))
  (qs.flatMap fun q => q.2.1.map fun b => scaled (decodeElem fmtE4m3 b) q.1, qs.any (·.2.2))

/-- Neuron `n` is predicted inactive given a hidden vector (R212). -/
def State.inactive (s : State) (g : GuardTab) (h : List Fp) (n : Nat) : Bool :=
  let p := (((List.range g.rank).map fun j => (h.getD j .nan).mul (s.tabElem fmtE4m3 g.p2 g.p2s g.H j n)).foldl
    Datum.push {}).readout
  (ofF32 p).lt (s.tabF32 g.theta n)

/-- Zeros written to the hidden elements of a skipped neuron tile (R205); the lines of a row whose tag is read poisoned are
written poisoned (R176). -/
def State.zeroTile (s : State) (t : Task) (rows : List Nat) (tile : Nat) : State :=
  let hid := t.op 6
  rows.foldl (fun a y => (a.writeSeg t.sat (a.tagPoison t y) hid (64 * tile) y 0
    ((List.range (min 64 (hid.d0 - 64 * tile))).map fun _ => (.fin false 0 0, .nearest))).1) s

/-- The decision items that guard slices hold. Each slice of a task's clusters takes one item at a time, in the order of
R175 (R215), so those held are the first undecided ones; while the guard halts, those that it held then (R217). -/
def State.heldItems (s : State) : List (Nat × Nat × Nat) :=
  if s.halting 7 || s.halted 7 then s.guardHeld
  else s.tasks.flatMap fun t =>
    if t.phase == .running && t.opcode == opXmm then
      (s.guards.filter fun g => g.1 == t.seq).take (ceilDiv (t.grantHi - t.grantLo) 8)
    else []

/-- One decision item decided (R205, R209, R212, R213, R215). -/
def State.takeDecision (s : State) (t : Task) (e blk : Nat) : State :=
  let g := s.guardTab (t.op 9) e
  let rows := (s.tokenBlocks t e).getD blk []
  let ok := s.plumbOk t g
  let plumb := t.imm 5 4 == 1
  let ps := if plumb then [] else rows.map fun y => s.predHidden t g y
  let hs := ps.map (·.1)
  let n := (t.op 2).d0 / 64
  let neurons (tile : Nat) := (List.range 64).map (64 * tile + ·)
  let skip := (List.range n).filter fun tile => (neurons tile).all fun i =>
    if plumb then ok && rows.all fun y => s.proven t g e y i else hs.all fun h => s.inactive g h i
  let unproven := if plumb then 0 else skip.foldl (fun a tile => (neurons tile).foldl (fun b i =>
    b + (rows.filter fun y => !(ok && s.proven t g e y i)).length) a) 0
  let s1 := skip.foldl (fun a tile => a.zeroTile t rows tile) s
  let s2 := { s1 with
    runs := s1.runs.filter fun r =>
      !(r.seq == t.seq && r.proj == 0 && r.expert == e && r.blk == blk && skip.contains r.tile)
    skips := s1.skips ++ skip.map fun tile => (t.seq, e, blk, tile)
    guards := s1.guards.filter fun x => !(x == (t.seq, e, blk))
    guardHeld := s1.guardHeld.filter fun x => !(x == (t.seq, e, blk)) }
  let s3 := (s2.addReg regAgdDecided n).addReg (if plumb then regAgdSkipPlumb else regAgdSkipSpec) skip.length
  let s4 := s3.addReg regAgdUnproven unproven
  (s4.modTask t.seq fun x => { x with
    guardCounts := List.zipWith (· + ·) x.guardCounts [n, skip.length, 0, unproven]
    detail := (if !plumb && !skip.isEmpty then x.detail ||| 1 else x.detail) ||| 2 * b2n (ps.any (·.2)) }).settleCore
      t.seq

/-- GUARD_DECISION. -/
def execGuardDecision (seq expert block : Nat) (s : State) : Result :=
  attempt s fun s => match s.task? seq with
    | some t =>
      if t.phase = .running ∧ s.heldItems.contains (seq, expert, block) = true ∧ s.stopped = false then
        some (s.takeDecision t expert block)
      else none
    | none => none

end Sys2Proof.Machine
end

