-- ==== Sys2Proof/Machine/Prune.lean ====
section
/-! DEFINITION. The Pruning Unit (R196 to R201), `SHADOW` (R207, R208, R287) and `MOVE` (R288). -/

namespace Sys2Proof.Machine

open Sys2Proof

/-! ### The mask of a block (R198) -/

/-- The kept set of a block: bit 8a + b of position (a, b), with the counts of rows and columns. -/
structure Kept where
  set : List Nat
  row : List Nat
  col : List Nat
  swaps : Nat
  deriving DecidableEq, Repr

/-- Position (a, b) is kept. -/
def Kept.has (k : Kept) (a b : Nat) : Bool := k.set.contains (8 * a + b)

/-- The greedy pass: positions by magnitude descending, then place ascending. -/
def greedy (q : Nat) (mags : List Fp) : Kept :=
  let order := sortBy (fun (x y : Nat) =>
    let m := mags.getD x (.fin false 0 0)
    let n := mags.getD y (.fin false 0 0)
    n.lt m || (!m.lt n && decide (x < y))) (List.range 64)
  order.foldl (fun k i =>
    let a := i / 8
    let b := i % 8
    if k.row.getD a 0 < q ∧ k.col.getD b 0 < q then
      { k with set := k.set ++ [i], row := k.row.modify a (· + 1), col := k.col.modify b (· + 1) }
    else k) ⟨[], List.replicate 8 0, List.replicate 8 0, 0⟩

/-- The best swap for a deficient row and column: c2 and r2. -/
def bestSwap (mags : List Fp) (k : Kept) (r c : Nat) : Option (Nat × Nat) :=
  let m (a b : Nat) : Fp := mags.getD (8 * a + b) (.fin false 0 0)
  let cands := ((List.range 8).filter fun c2 => !k.has r c2).flatMap fun c2 =>
    ((List.range 8).filter fun r2 => k.has r2 c2 && !k.has r2 c).map fun r2 => (c2, r2)
  (cands.foldl (fun (best : Option (Fp × Nat × Nat)) x =>
    let g := ((m r x.1).add (m x.2 x.1).negate).add (m x.2 c)
    match best with
    | none => some (g, x)
    | some b => if b.1.lt g then some (g, x) else best) none).map (·.2)

/-- The repair loop; `fuel` bounds its swaps (8Q − 1). -/
def repair (q : Nat) (mags : List Fp) : Nat → Kept → Kept
  | 0, k => k
  | f + 1, k =>
    match (List.range 8).find? (fun r => decide (k.row.getD r 0 < q)), (List.range 8).find? (fun c => decide (k.col.getD c 0 < q)) with
    | some r, some c =>
      match bestSwap mags k r c with
      | some (c2, r2) =>
        repair q mags f { set := ((k.set ++ [8 * r + c2]).filter (· != 8 * r2 + c2)) ++ [8 * r2 + c]
                          row := k.row.modify r (· + 1), col := k.col.modify c (· + 1), swaps := k.swaps + 1 }
      | none => k
    | _, _ => k

/-- The kept set of a block of 64 magnitudes, row by row. -/
def select (q : Nat) (mags : List Fp) : Kept := repair q mags (8 * q) (greedy q mags)

/-- The mask word of a kept set (R194). -/
def Kept.word (k : Kept) : Nat := k.set.foldl (fun w i => w + 2 ^ i) 0

/-- A mask word is transposable at Q (R194). -/
def transposable (q w : Nat) : Bool :=
  (List.range 8).all fun a => ((List.range 8).filter fun b => bitOf w (8 * a + b)).length == q
    && ((List.range 8).filter fun b => bitOf w (8 * b + a)).length == q

/-! ### Compressed forms (R190 to R193, R195, R199) -/

/-- One column of a compressed form: its groups' positions in ascending index with the values stored there, the
scale bytes, and whether a conversion was invalid. -/
structure PackCol where
  slots : List (List (Nat × Nat))
  scales : List Nat
  invalid : Bool
  deriving DecidableEq, Repr

/-- A column of `K` source values of which `keep` are kept, packed for a form (R199). -/
def packCol (d : Desc) (sat : Bool) (K : Nat) (val : Nat → Fp) (keep : Nat → Bool) : PackCol :=
  let fmt := valueFmt d.fmt
  let kept := (List.range K).map fun k => (if keep k then val k else .fin false 0 0, Rounding.nearest)
  let bl := if d.scaled then (chunks 32 kept).map (quantBlock fmt sat)
    else [(127, kept.map fun v => (encodeElem fmt sat v.2 v.1).1, kept.any fun v => (encodeElem fmt sat v.2 v.1).2)]
  let bits := bl.flatMap (·.2.1)
  { slots := (List.range (ceilDiv K 8)).map fun g =>
      ((List.range 8).filter fun i => keep (8 * g + i)).map fun i => (i, bits.getD (8 * g + i) 0)
    scales := bl.map (·.1)
    invalid := bl.any (·.2.2) }

/-- Slot `j` of group `g` of a packed column: index and value; past K, index j and value 0 (R193). -/
def PackCol.slot (c : PackCol) (g j : Nat) : Nat × Nat := (c.slots.getD g []).getD j (j, 0)

/-- One tile record (R190). -/
def recordOf (q tk tn : Nat) (cols : List PackCol) : List Byte :=
  let groups := 64 / q
  let col (j : Nat) : PackCol := cols.getD (64 * tn + j) ⟨[], [], false⟩
  let values := (List.range 64).flatMap fun i => (List.range 64).map fun j =>
    BitVec.ofNat 8 ((col j).slot (tk * groups + i / q) (i % q)).2
  let index (g j : Nat) : Nat :=
    (List.range q).foldl (fun w s => w + ((col j).slot (tk * groups + g) s).1 * 8 ^ s) 0
  values ++ (List.range groups).flatMap fun g => (List.range 64).flatMap fun j => leBytes (if q = 4 then 2 else 1) (index g j)

/-- A compressed matrix written from its packed columns, with its scale bytes. -/
def State.writeForm (s : State) (d : Desc) (q z : Nat) (cols : List PackCol) : State :=
  let tn := ceilDiv d.d0 64
  let s1 := (List.range tn).foldl (fun a n => (List.range d.tk).foldl (fun b k =>
    b.putBytes (d.record z n k) (recordOf q k n cols)) a) s
  if d.scaled then
    s1.putBytes (d.weightScale z 0 0) ((List.range (ceilDiv d.d1 32)).flatMap fun b =>
      cols.map fun c => BitVec.ofNat 8 (c.scales.getD b 0))
  else s1

/-- The magnitudes of block (bk, bn) of matrix `z`. -/
def State.blockMags (s : State) (m : Desc) (z bk bn : Nat) : List Fp :=
  (List.range 64).map fun i => (s.elem m (8 * bn + i % 8) (8 * bk + i / 8) z).abs

/-- The blocks of a matrix, by bk and then bn. -/
def blocksOf (m : Desc) : List (Nat × Nat) :=
  (List.range (m.d1 / 8)).flatMap fun bk => (List.range (m.d0 / 8)).map fun bn => (bk, bn)

/-- FWD and TRN of one matrix written from its kept set and from MASTER as `o` holds it (R195, R197, R199). -/
def State.packMatrix (s o : State) (t : Task) (z : Nat) (kept : Nat → Nat → Bool) : State × Bool :=
  let m := t.op 0
  let q := t.imm 2 0
  let v (k n : Nat) : Fp := o.elem m n k z
  let fwd := (List.range m.d0).map fun n => packCol (t.op 2) t.sat m.d1 (fun k => v k n) (fun k => kept k n)
  let s1 := s.writeForm (t.op 2) q z fwd
  match t.op? 3 with
  | some d =>
    let trn := (List.range m.d1).map fun k => packCol d t.sat m.d0 (fun n => v k n) (fun n => kept k n)
    (s1.writeForm d q z trn, (fwd ++ trn).any (·.invalid))
  | none => (s1, fwd.any (·.invalid))

/-- A `PRUNE` ends with an error of R197. -/
def State.pruneFails (s : State) (t : Task) (err : Nat) : State := (s.addReg regPruErrors 1).endTask t.seq err 0

/-- Kept positions of a matrix as mask words give them. -/
def keptBy (words : List ((Nat × Nat) × Nat)) (k n : Nat) : Bool :=
  match words.find? fun w => w.1 == (k / 8, n / 8) with
  | some w => bitOf w.2 (8 * (k % 8) + n % 8)
  | none => false

/-- Every element of MASTER that satisfies a test is finite. -/
def State.masterFinite (s : State) (m : Desc) (use : Nat → Nat → Nat → Bool) : Bool :=
  (List.range m.d2).all fun z => (List.range m.d1).all fun k => (List.range m.d0).all fun n =>
    !(use z k n) || !(s.elem m n k z).nonfinite

/-- Both forms, from the mask words of each matrix; MASTER is read as `o` holds it, before any write (R197). -/
def State.packAll (s o : State) (t : Task) (words : Nat → List ((Nat × Nat) × Nat)) : State :=
  let m := t.op 0
  let r := (List.range m.d2).foldl (fun (p : State × Bool) z =>
    let x := p.1.packMatrix o t z (keptBy (words z))
    (x.1, p.2 || x.2)) (s, false)
  ((r.1.addReg regPruPacked (m.d2 * (blocksOf m).length)).scrambleOverlaps t).endTask t.seq 0 (if r.2 then 2 else 0)

/-- The work of the mask form (R197 to R199). -/
def State.pruneMask (s : State) (t : Task) : State :=
  let m := t.op 0
  if s.opPoison m then s.endTask t.seq errPoison 0
  else if s.masterFinite m (fun _ _ _ => true) then
    let sel := (List.range m.d2).map fun z => (blocksOf m).map fun b => (b, select (t.imm 2 0) (s.blockMags m z b.1 b.2))
    let words (z : Nat) := (sel.getD z []).map fun x => (x.1, x.2.word)
    let s1 := (List.range m.d2).foldl (fun a z => (words z).foldl (fun b w =>
      b.putBytes ((t.op 1).maskWord z w.1.1 w.1.2) (leBytes 8 w.2)) a) s
    let swaps := (sel.flatten.map (·.2.swaps)).foldl (· + ·) 0
    let counted := (s1.addReg regPruBlocks sel.flatten.length).addReg regPruRepairs swaps
    counted.packAll s t words
  else s.pruneFails t errPruneNonfinite

/-- The work of the pack form (R197, R199): the finiteness of kept values comes before the mask's validity. -/
def State.prunePack (s : State) (t : Task) : State :=
  let m := t.op 0
  if s.opPoison m ∨ s.opPoison (t.op 1) then s.endTask t.seq errPoison 0
  else
    let ws := (List.range m.d2).map fun z => (blocksOf m).map fun b => (b, s.rdNat ((t.op 1).maskWord z b.1 b.2) 8)
    let words (z : Nat) := ws.getD z []
    if s.masterFinite m (fun z k n => keptBy (words z) k n) then
      if ws.flatten.all fun w => transposable (t.imm 2 0) w.2 then s.packAll s t words
      else s.pruneFails t errMaskInvalid
    else s.pruneFails t errPruneNonfinite

/-- PRUNE, mask form. -/
def execPruneMask (seq : Nat) (s : State) : Result := attempt s fun s => s.launch seq opPrune 0 State.pruneMask

/-- PRUNE, pack form. -/
def execPrunePack (seq : Nat) (s : State) : Result := attempt s fun s => s.launch seq opPrune 1 State.prunePack

/-! ### `SHADOW` (R207, R208, R287) -/

/-- The weight bytes and then the scale bytes of one matrix. -/
def State.matrixBytes (s : State) (w : Desc) (z : Nat) : List Byte :=
  (if fmtQ w.fmt ≠ 0 then s.rdBytes (w.record z 0 0) (ceilDiv w.d0 64 * w.tk * 6144)
   else (List.range w.d1).flatMap fun k => s.rowBytesOf w k z)
  ++ (if w.scaled then s.rdBytes (w.weightScale z 0 0) (ceilDiv w.d1 32 * w.d0) else [])

/-- One column of a shadow: scale bytes, element bits, ε, and whether a block is invalid (R208). -/
structure ShadowCol where
  scales : List Nat
  bits : List Nat
  eps : F32
  invalid : Bool
  deriving DecidableEq, Repr

/-- The shadow of column `n` of matrix `z`. -/
def State.shadowCol (s : State) (t : Task) (z n : Nat) : ShadowCol :=
  let w := t.op 0
  let xs := (List.range w.d1).map fun k => s.denseWeight w z k n
  let bl := (chunks 32 (xs.map fun x => (x, Rounding.nearest))).map (quantBlock fmtE2m1 t.sat)
  let q := bl.flatMap fun b => b.2.1.map fun e => scaled (decodeElem fmtE2m1 e) b.1
  let err := (List.zipWith (fun x y => (x.add y.negate).abs) xs q).foldl Fp.add (.fin false 0 0)
  { scales := bl.map (·.1)
    bits := bl.flatMap (·.2.1)
    eps := if xs.any Fp.nonfinite then 0x7F800000#32 else toF32Up err
    invalid := bl.any (·.2.2) }

/-- A section and the undefined bytes up to the next 64-byte boundary (R207; log entry 5). -/
def State.putSection (s : State) (poison : Bool) (a : Nat) (bs : List Byte) : State :=
  let n := sec64 bs.length - bs.length
  let fill := (List.range n).map fun i => Config.freeByte (s.free + i)
  { (s.putMarked poison a (bs ++ fill)) with free := s.free + n }

/-- One guard table written whole from the inputs as `o` holds them (R207, R287). -/
def State.shadowTable (s o : State) (t : Task) (z : Nat) : State :=
  let w := t.op 0
  let K := w.d1
  let H := w.d0
  let build := t.imm 0 0 == 1
  let pred := t.imm 1 1 == 1
  let g : GuardTab := ⟨(t.op 1).row z 0, K, H, if pred then t.imm 13 8 else 0, build, pred⟩
  let src := (t.op 2).row z 0
  let len := g.top - g.p1
  let poison := (build && (o.anyPoison (if fmtQ w.fmt ≠ 0 then w.record z 0 0 else w.row 0 z)
        (if fmtQ w.fmt ≠ 0 then ceilDiv w.d0 64 * w.tk * 6144 else (w.d1 - 1) * w.stride1 + w.rowBytes)
      || (w.scaled && o.anyPoison (w.weightScale z 0 0) (ceilDiv w.d1 32 * w.d0))))
    || (pred && o.anyPoison src len)
  let cols := if build then (List.range H).map (o.shadowCol t z) else []
  let digest := if build then shake256 16 (o.matrixBytes w z) else zeros 16
  let head := leBytes 4 K ++ leBytes 4 H ++ leBytes 1 (b2n build + 2 * b2n pred) ++ leBytes 1 g.rank
    ++ leBytes 1 (b2n build) ++ zeros 5 ++ digest ++ zeros 32
  let s1 := s.putMarked poison g.base head
  let s2 := if build then
      let bits := (List.range K).flatMap fun k => cols.map fun c => c.bits.getD k 0
      let sc := (List.range (ceilDiv K 32)).flatMap fun b => cols.map fun c => BitVec.ofNat 8 (c.scales.getD b 0)
      ((s1.putSection poison g.w (packElems fmtE2m1 bits)).putSection poison g.ws sc).putSection poison g.eps
        (cols.flatMap fun c => leBytes 4 c.eps.toNat)
    else s1
  let s3 := if pred then s2.putMarked poison g.p1 (o.rdBytes src len) else s2
  s3.note t.seq (if cols.any (·.invalid) then 2 else 0) poison

/-- The work of a `SHADOW`, table by table. -/
def State.runShadow (s : State) (t : Task) : State :=
  ((List.range (t.op 0).d2).foldl (fun a z => a.shadowTable s t z) s).scrambleOverlaps t

/-- SHADOW. Its cores go on until TASK_COMPLETE, so that it can be pre-empted at matrix boundaries. -/
def execShadow (seq : Nat) (s : State) : Result := attempt s fun s => s.launch seq opShadow 0 State.runShadow

/-! ### `MOVE` (R288) -/

/-- Element positions in row-major order: x, y, z of the `i`-th element. -/
def Desc.pos (d : Desc) (i : Nat) : Nat × Nat × Nat := (i % d.d0, i / d.d0 % d.d1, i / d.d0 / d.d1)

/-- The elements that a row of a destination of a `MOVE` receives, and for each whether its source line is read
poisoned. -/
def State.moveRow (s : State) (a b : Desc) (y z : Nat) : List Nat × List Bool :=
  let first := (z * b.d1 + y) * b.d0
  let src := (List.range b.d0).map fun x => a.pos (first + x)
  (src.map fun p => s.bitsAt a.fmt (a.row p.2.1 p.2.2) p.1,
   src.map fun p => s.poisoned (a.row p.2.1 p.2.2 + p.1 * fmtBits a.fmt / 8))

/-- The scale bytes of a destination row: each block takes the scale of the source block that holds its first
element; an unscaled source counts as 127. -/
def State.moveScales (s : State) (a b : Desc) (y z : Nat) : List Byte × List Bool :=
  let first := (z * b.d1 + y) * b.d0
  let src := (List.range (ceilDiv b.d0 32)).map fun k => a.pos (first + 32 * k)
  (src.map fun p => BitVec.ofNat 8 (s.scaleAt a p.1 p.2.1 p.2.2),
   src.map fun p => a.scaled && s.poisoned (a.rowScale p.2.1 p.2.2 + p.1 / 32))

/-- Flags of elements as flags of the bytes that hold them. -/
def byteFlags (fmt : Nat) (fs : List Bool) : List Bool :=
  if fmt = fmtE2m1 then (chunks 2 fs).map fun c => c.any id else fs.flatMap (List.replicate (fmtBits fmt / 8))

/-- Bytes written line by line; a line that receives a flagged byte is written poisoned (R288). -/
def State.putFlagged (s : State) (seq a : Nat) (bs : List Byte) (fs : List Bool) : State :=
  (linePieces (bs.length / 64 + 2) a bs).foldl (fun x q =>
    let bad := ((fs.drop (q.1 - a)).take q.2.length).any id
    (x.putMarked bad q.1 q.2).note seq 0 bad) s

/-- Bytes of some ranges of `o`, in order, moved into other ranges, in order; a line that receives a byte of a poisoned
line is written poisoned (R288). -/
def State.moveRanges (s o : State) (seq : Nat) (src dst : List (Nat × Nat)) : State :=
  let bytes := src.flatMap fun r => o.rdBytes r.1 r.2
  let flags := src.flatMap fun r => (List.range r.2).map fun i => o.poisoned (r.1 + i)
  (dst.foldl (fun (p : State × Nat) r =>
    (p.1.putFlagged seq r.1 (slice bytes p.2 (min r.2 (bytes.length - p.2))) (flags.drop p.2), p.2 + r.2)) (s, 0)).1

/-- The work of a `MOVE`. Forms without rows are copied record by record, each descriptor under its own strides. -/
def State.runMove (s : State) (t : Task) : State :=
  let a := t.op 0
  let b := t.op 1
  let s1 :=
    if a.rowless then
      let p := s.moveRanges s t.seq a.planes b.planes
      if b.scaled && a.scaled then
        p.moveRanges s t.seq [(a.scaleBase, a.scaleSpan true)] [(b.scaleBase, b.scaleSpan true)]
      else p
    else
      (List.range b.d2).foldl (fun u z => (List.range b.d1).foldl (fun v y =>
        let r := s.moveRow a b y z
        let v1 := v.putFlagged t.seq (b.row y z) (packElems b.fmt r.1) (byteFlags b.fmt r.2)
        if b.scaled then
          let c := s.moveScales a b y z
          v1.putFlagged t.seq (b.rowScale y z) c.1 c.2
        else v1) u) s
  s1.scrambleOverlaps t

/-- MOVE. The copy engine goes on until TASK_COMPLETE, so that it can be pre-empted. -/
def execMove (seq : Nat) (s : State) : Result := attempt s fun s => s.launch seq opMove 0 State.runMove

end Sys2Proof.Machine
end

