-- ==== Sys2Proof/Machine/Stakes.lean ====
section
/-! DEFINITION. Stakes (R451 to R456): the effective pool, the units granted, and the grant of the request that
stands first in the order of R454. -/

namespace Sys2Proof.Machine

open Sys2Proof

/-- PWR_POOL after reset; larger values act as it (R451, R470). -/
def poolReset : Variant → Nat
  | .fd880 => 176
  | .fd860 => 144

/-- The effective pool (R451, R457, R458). -/
def State.poolUnits (s : State) : Nat :=
  max 32 (min (poolReset s.variant) (s.fld regPwrPool 8 0) - s.power.peakCut - s.power.heatCut)

/-- Units granted: cores, collectives and exchanges that hold one (R452). -/
def State.unitsGranted (s : State) : Nat :=
  (s.cores.filter (·.stake)).length + (s.col.colls.filter (·.stake)).length + (s.col.xchgs.filter (·.stake)).length

/-- A request still stands: its core holds a run and no unit, or its collective or exchange has not closed. -/
def State.requestStands (s : State) (r : StakeReq) : Bool :=
  if r.collective then (s.task? r.seq).isSome
  else s.cores.any fun c => s.logical c.phys == some r.core && c.cur.isSome && !c.stake

/-- One request stands ahead of another (R454). -/
def StakeReq.ahead (a b : StakeReq) : Bool :=
  if a.lc != b.lc then a.lc
  else if a.collective != b.collective then a.collective
  else if a.seq != b.seq then decide (a.seq < b.seq)
  else decide (a.core < b.core)

/-- The waiting requests in the order of R454. -/
def State.stakeOrder (s : State) : List StakeReq := sortBy StakeReq.ahead (s.power.requests.filter s.requestStands)

/-- Units granted within the last microsecond (R455). -/
def State.rampUnits (s : State) : Nat :=
  ((s.power.ramp.filter fun g => decide (s.time < g.2 + 1000)).map (·.1)).foldl (· + ·) 0

/-- A stake requested for a collective, a fused form or an exchange (R369, R452). -/
def State.requestCollStake (s : State) (seq : Nat) : State :=
  let lc := (s.task? seq).any (·.lc)
  { s with power := { s.power with requests := s.power.requests ++
      [{ collective := true, lc := lc, seq := seq, core := 0, since := s.time }] } }

/-- The unit handed to its requester. -/
def State.giveStake (s : State) (r : StakeReq) : State :=
  if r.collective then
    { s with col := { s.col with
        colls := s.col.colls.map fun c => if c.task = some r.seq then { c with stake := true } else c
        xchgs := s.col.xchgs.map fun x => if x.seq = r.seq then { x with stake := true } else x } }
  else
    { s with cores := s.cores.map fun c => if s.logical c.phys = some r.core then { c with stake := true } else c }

/-- The first request granted, when a unit is free and the ramp allows it (R454, R455). -/
def State.grantStake (s : State) : Option State :=
  match s.stakeOrder with
  | [] => none
  | r :: rest =>
    if s.unitsGranted < s.poolUnits ∧ s.rampUnits < 100 ∧ s.stopped = false then
      let ramp := (1, s.time) :: s.power.ramp.filter fun g => decide (s.time < g.2 + 1000)
      some ({ s with power := { s.power with requests := rest, ramp := ramp } }.giveStake r)
    else none

/-- STAKE_GRANT. -/
def execStakeGrant (s : State) : Result := attempt s State.grantStake

end Sys2Proof.Machine
end

