-- ==== Sys2Proof/Machine/Cadastre.lean ====
section
/-! DEFINITION. The Near Store and the Cadastre: regions (R228 to R230), images and publication (R231 to R238), the
Cadastre table (R239, R240), heat and placement (R241 to R246), and the residency policy (R414 to R417). -/

namespace Sys2Proof.Machine

open Sys2Proof

/-! ### WH writes -/

/-- A WH write of function `f`: performed while `f` is halted, otherwise discarded with WH_VIOLATION (R10). -/
def State.whWrite (s : State) (f : Nat) (act : State → State) : State :=
  if s.halted f then act s else if f = 6 then s else s.setBit (statusReg f) 2 true

/-- REGION_REJECT. -/
def State.regionReject (s : State) : State := s.setBit regCadStatus 3 true

/-! ### Regions -/

/-- Every page of [lo, lo + n) is FREE and lies below SMS_ALLOC_LIMIT. -/
def State.pagesFree (s : State) (lo n : Nat) : Bool :=
  decide (65536 * (lo + n) ≤ s.allocLimit)
    && !(s.regions.any fun i => rangesMeet lo n (s.regionFirst i) (s.regionPages i))
    && !(s.images.any fun j => rangesMeet lo n (s.imgFirst j) (s.imgPages j))

/-- The writable bits of the low half of a region entry. -/
def regionMask : Nat := 2 ^ 63 + (2 ^ 24 - 1)

/-- A write that sets VALID of an entry (R228). -/
def State.regionSet (s : State) (i v : Nat) : State :=
  if s.regionValid i then
    (if getBits v 23 0 = s.regionFirst i then s else s.regionReject)
  else if s.regionPages i ≠ 0 ∧ s.pagesFree (getBits v 23 0) (s.regionPages i) = true then
    s.setReg (regCadWregion i) (v &&& regionMask)
  else s.regionReject

/-- A write of a region entry's low half that leaves VALID clear (R229): the entry's pages become FREE. -/
def State.regionClear (s : State) (i v : Nat) : State :=
  if s.regionValid i then
    let lo := 65536 * s.regionFirst i
    let n := 65536 * s.regionPages i
    let named := s.tasks.any fun t => match layout t.opcode t.form with
      | none => false
      | some l => (namedOps l t).any fun o => (spansOf o.desc o.role.weight).any fun p => rangesMeet p.1 p.2 lo n
    let device := s.deviceAreas.any fun r => rangesMeet r.1 r.2 lo n
    if named || device || s.regionSealed i then s.regionReject
    else s.setReg (regCadWregion i) (getBits v 23 0)
  else s.setReg (regCadWregion i) (getBits v 23 0)

/-- A write of a region entry's low half. -/
def State.writeRegionLow (s : State) (i v : Nat) : State :=
  s.whWrite 8 fun s => if bitOf v 63 then s.regionSet i v else s.regionClear i v

/-- A write of a region entry's high half: PAGES, which a VALID entry keeps (R228). -/
def State.writeRegionHigh (s : State) (i v : Nat) : State :=
  s.whWrite 8 fun s =>
    if s.regionValid i then (if getBits v 31 0 = s.regionPages i then s else s.regionReject)
    else s.setReg (regCadWregionHi i) (getBits v 31 0)

/-- REGION_VALID_SET: the low half written with VALID set. -/
def execRegionValidSet (i : Nat) (v : Word) (s : State) : Result :=
  attempt s fun s =>
    if s.ready = true ∧ i < 256 ∧ bitOf v.toNat 63 = true then some (s.writeRegionLow i v.toNat) else none

/-- REGION_VALID_CLEAR: the low half written with VALID clear and FIRST_PAGE as it stands. -/
def execRegionValidClear (i : Nat) (s : State) : Result :=
  attempt s fun s => if s.ready = true ∧ i < 256 then some (s.writeRegionLow i (s.regionFirst i)) else none

/-! ### The Cadastre table, PROG_MIB and the mapping -/

/-- A write of CAD_TABLE_BASE (R239). -/
def State.writeTableBase (s : State) (v : Nat) : State :=
  s.whWrite 8 fun s =>
    let n := ceilDiv (tableBytes s.variant) 65536
    match (List.range 256).find? fun i => !s.regionValid i with
    | some i =>
      if v ≠ 0 ∧ v % 65536 = 0 ∧ s.reg regCadTableBase = 0 ∧ s.pagesFree (v / 65536) n = true then
        let s1 := (s.setReg (regCadWregionHi i) n).setReg (regCadWregion i) (2 ^ 63 + v / 65536)
        { s1.setReg regCadTableBase v with sched := { s1.sched with heatAt := s.time } }
      else s.regionReject
    | none => s.regionReject

/-- CAD_TABLE_BASE_WRITE. -/
def execCadTableBaseWrite (v : Word) (s : State) : Result :=
  attempt s fun s => if s.ready then some (s.writeTableBase v.toNat) else none

/-- Frames that hold a page: PROMOTING, PROMOTED or EVICTING (R243). -/
def State.framesUsed (s : State) : List Nat := (s.pages.filter fun r => r.place != 0).map (·.frame)

/-- A write of NST_CTRL (R224); it takes effect at the Cadastre's resume (R261). -/
def State.writeProgMib (s : State) (v : Nat) : State :=
  s.whWrite 8 fun s =>
    let p := min 10 (getBits v 3 0)
    if s.progMib < p ∧ s.framesUsed ≠ [] then s.regionReject else s.setReg regNstCtrl p

/-- PROG_MIB_WRITE. -/
def execProgMibWrite (v : Word) (s : State) : Result :=
  attempt s fun s => if s.ready then some (s.writeProgMib v.toNat) else none

/-- The address that names, under a new mapping, the physical byte which an address names now; none for an address that
darning has taken (R221, R257). -/
def State.moved (s : State) (units a : Nat) : Option Nat :=
  let t := s.hbm.darnTable
  if capacity s.variant ≤ a then some a
  else if darnBase s.variant t.length ≤ a / 256 then none
  else
    let p := darnPlace s.variant s.nearUnits t (a / 256)
    some (256 * darnAddr s.variant units t p.1 p.2 + a % 256)

/-- Every HBM byte and poisoned line moved to the address that its place has under a new mapping and the darn table
rebuilt for it; nothing is copied (R221). -/
def State.remap (s : State) (units : Nat) : State :=
  { s with mem := s.mem.foldl (fun m c => match s.moved units c.1 with
             | some a => memPut m a c.2
             | none => m) []
           poison := s.poison.foldl (fun p l => match s.moved units (64 * l) with
             | some a => setInsert (a / 64) p
             | none => p) [] }

/-- A write of SMS_NEAR_UNITS (R221). -/
def State.writeNearUnits (s : State) (v : Nat) : State :=
  s.whWrite 9 fun s =>
    let n := getBits v 5 0
    if n ≤ 62 ∧ s.regions = [] ∧ s.images = [] then (s.remap n).setReg regSmsNearUnits n
    else s.setBit regSmsStatus 3 true

/-- NEAR_UNITS_WRITE. -/
def execNearUnitsWrite (v : Word) (s : State) : Result :=
  attempt s fun s => if s.ready then some (s.writeNearUnits v.toNat) else none

/-! ### Frames and placement (R242, R243) -/

/-- The frames of a quadrant, lowest bank and lowest frame first: bank × 160 + 64 KiB position after the device area
(R15, R224). -/
def State.framesOf (s : State) (q : Nat) : List Nat :=
  (List.range 8).flatMap fun b => (List.range (160 - 16 * s.progMib)).map fun i => 160 * (8 * q + b) + 16 * s.progMib + i

/-- The quadrant of a frame. -/
def frameQuad (f : Nat) : Nat := f / 160 / 8

/-- The lowest free frame of a quadrant. -/
def State.freeFrame (s : State) (q : Nat) : Option Nat :=
  let used := s.framesUsed
  (s.framesOf q).find? fun f => !used.contains f

/-- A promotion starts (R243). -/
def State.promote (s : State) (p f : Nat) : State := s.setPageRec { s.pageRec p with place := 1, frame := f }

/-- The victim of a quadrant: the promoted page of least heat, the highest page number among equals, not pinned. -/
def State.victim (s : State) (q : Nat) : Option PageRec :=
  (s.pages.filter fun r => r.place == 2 && !r.pinned && frameQuad r.frame == q).foldl (fun (best : Option PageRec) r =>
    match best with
    | none => some r
    | some b => if r.heat < b.heat ∨ (r.heat = b.heat ∧ b.page < r.page) then some r else best) none

/-- A page that follows into a frame whose eviction is in progress. -/
def State.following (s : State) (p : Nat) : Bool := s.pages.any fun r => r.successor == some p

/-! ### Residency (R414 to R417) -/

/-- The pages of an entry in the image entry `j`. -/
def State.resRange (s : State) (i j : Nat) : List Nat :=
  (List.range (s.resPages i)).map fun k => s.imgFirst j + s.resFirst i + k

/-- The quadrant to which an entry assigns a page. -/
def State.resQuadOf (s : State) (i j p : Nat) : Nat :=
  if s.resQuad i < 4 then s.resQuad i else (p - s.imgFirst j) % 4

/-- The bits SPILLED and READY of an entry. -/
def State.setRes (s : State) (i : Nat) (spilled ready : Bool) : State :=
  (s.setBit (regSchResidentHi i) 60 spilled).setBit (regSchResidentHi i) 59 ready

/-- What an application has placed so far: pinned pages with their quadrants, and bytes of the residency area. -/
structure Applied where
  st : State
  pins : List (Nat × Nat)
  used : Nat
  deriving DecidableEq, Repr

/-- Whether a page is on chip (PROMOTED). -/
def State.promoted (s : State) (p : Nat) : Bool := (s.pageRec p).place == 2

/-- One entry applied (R415, R416). -/
def State.applyEntry (a : Applied) (i : Nat) : Applied :=
  let s := a.st
  match s.activeImage (s.resVersion i) with
  | none => { a with st := s.setRes i false false }
  | some j =>
    if s.imgPages j < s.resFirst i + s.resPages i then { a with st := s.setRes i true false }
    else if s.resLocal i then
      let n := 65536 * s.resPages i
      if a.used + n ≤ 65536 * min 8 (s.fld regSchCtrl 3 0) then
        let key := (i, s.resVersion i, s.resFirst i, s.resPages i, s.residencyStart + a.used)
        { a with st := s.setRes i false (s.sched.copied.contains key), used := a.used + n }
      else { a with st := s.setRes i true false }
    else
      let want := ((s.resRange i j).filter fun p => !a.pins.any fun x => x.1 == p).map fun p => (p, s.resQuadOf i j p)
      let all := a.pins ++ want
      if (List.range 4).all fun q =>
          decide ((all.filter fun x => x.2 == q).length ≤ 8 * (160 - 16 * s.progMib) - 64) then
        { a with st := s.setRes i false ((s.resRange i j).all s.promoted), pins := all }
      else { a with st := s.setRes i true false }

/-- Every entry applied, from nothing. -/
def State.residency (s : State) : Applied :=
  s.resOrder.foldl State.applyEntry { st := s, pins := [], used := 0 }

/-- RESIDENCY_APPLY: PINNED marks, SPILLED and READY as the entries give them (R414). Copies that no entry holds any more are
not read again (R417). -/
def State.applyResidency (s : State) : State :=
  let off := ((List.range 64).filter fun i => !s.resValid i).foldl (fun x i =>
    if s.resSpilled i || s.resReady i then x.setRes i false false else x) s
  let a := off.residency
  let s1 := (a.st.pages.filter (·.pinned)).foldl (fun x r => x.setPageRec { x.pageRec r.page with pinned := false }) a.st
  let s2 := a.pins.foldl (fun x p => x.setPageRec { x.pageRec p.1 with pinned := true }) s1
  let kept := s2.sched.copied.filter fun (k : Nat × Nat × Nat × Nat × Nat) => s2.readyLocal.contains k.1
  let s3 := { s2 with sched := { s2.sched with copied := kept } }
  s3.setBit regSchStatus 5 ((List.range 64).any fun i => s3.resValid i && s3.resSpilled i)

/-- READY of SHARED entries brought up to date after a transition (R415). -/
def State.refreshReady (s : State) : State :=
  ((List.range 64).filter fun i => s.resValid i && !s.resLocal i && !s.resSpilled i).foldl (fun x i =>
    match x.activeImage (x.resVersion i) with
    | some j => x.setRes i false ((x.resRange i j).all x.promoted)
    | none => x) s

/-- The copies of a LOCAL entry into every local store, poisoned lines with their mark (R416, R423). -/
def State.copyLocal (s : State) (i j : Nat) : State :=
  let src := 65536 * (s.imgFirst j + s.resFirst i)
  let off := s.residencyStart + s.resPlace i
  (List.range (logicalCores s.variant)).foldl (fun a n =>
    (List.range (1024 * s.resPages i)).foldl (fun b l =>
      b.putMarked (s.poisoned (src + 64 * l)) (localBase + 0x100000 * n + off + 64 * l) (s.rdBytes (src + 64 * l) 64)) a) s

/-- The old image of a LOCAL entry still has readers (R417). -/
def State.oldReaders (s : State) (j : Nat) : Bool :=
  s.imgPred j != 0
    && (List.range 64).any fun k => s.imgState k == 5 && s.imgVersion k == s.imgPred j && s.readers k != 0

/-- A LOCAL entry's copies are complete (R416, R417). -/
def State.residencyCopied (s : State) (i : Nat) : Option State :=
  match s.activeImage (s.resVersion i) with
  | none => none
  | some j =>
    if s.resValid i = true ∧ s.resLocal i = true ∧ s.resSpilled i = false ∧ s.resReady i = false
        ∧ s.imgPages j ≥ s.resFirst i + s.resPages i ∧ s.oldReaders j = false ∧ s.ready = true then
      let at_ := s.residencyStart + s.resPlace i
      let key := (i, s.resVersion i, s.resFirst i, s.resPages i, at_)
      let s1 := s.copyLocal i j
      let keep (k : Nat × Nat × Nat × Nat × Nat) : Bool :=
        k.1 != i && !rangesMeet k.2.2.2.2 (65536 * k.2.2.2.1) at_ (65536 * s.resPages i)
      some ({ s1 with sched := { s1.sched with copied := s1.sched.copied.filter keep ++ [key] } }.setRes i false true)
    else none

/-- RESIDENCY_COPY_COMPLETE. -/
def execResidencyCopyComplete (i : Nat) (s : State) : Result :=
  attempt s fun s => if i < 64 then s.residencyCopied i else none

/-! ### Heat epochs (R242) -/

/-- One page tried: promoted into a free frame of its quadrant, or into a victim's frame. -/
def State.placePage (p : State × Nat) (page q : Nat) (margin : Option Nat) : State × Nat :=
  let s := p.1
  if p.2 = 0 then p
  else match s.freeFrame q with
    | some f => (s.promote page f, p.2 - 1)
    | none => match s.victim q with
      | some v =>
        let ok := match margin with
          | none => true
          | some h => decide (v.heat + h ≤ (s.pageRec page).heat)
        if ok then (s.evict v.page (some page), p.2 - 1) else p
      | none => p

/-- The quadrant of most reads, the lowest among equals. -/
def hotQuad (qs : List Nat) : Nat :=
  ((List.range 4).foldl (fun (b : Nat × Nat) q => if b.2 < qs.getD q 0 then (q, qs.getD q 0) else b) (0, qs.getD 0 0)).1

/-- The pages of ACTIVE images at HOME with enough heat, by heat descending and page ascending; a pinned page waits for a
frame of its own quadrant (R415). -/
def State.candidates (s : State) : List PageRec :=
  let least := s.fld regCadCtrl 63 48
  let pool := if least = 0 then (s.images.filter fun j => s.imgState j == 4).flatMap fun j =>
      (List.range (s.imgPages j)).map fun k => s.pageRec (s.imgFirst j + k)
    else s.pages.filter fun r => s.pageState r.page == 4
  sortBy (fun a b => decide (b.heat < a.heat) || (a.heat == b.heat && decide (a.page < b.page)))
    (pool.filter fun r => r.place == 0 && decide (least ≤ r.heat) && !s.following r.page && !r.pinned)

/-- MOVES in force. -/
def State.moves (s : State) : Nat := max 1 (min 4096 (s.fld regCadCtrl 28 16))

/-- EPOCH_US in force. -/
def State.epochUs (s : State) : Nat := max 1 (min 1000 (s.fld regCadCtrl 9 0))

/-- The end of a heat epoch (R242, R414, R415). -/
def State.heatEpoch (s : State) : State :=
  let s0 := s.applyResidency
  let old := s0.pages.filter fun r => r.place == 2 && s0.pageState r.page == 5
  let s1 := old.foldl (fun a r => a.evict r.page none) s0
  let left := s1.moves - old.length
  let s2 := if s1.bit regCadCtrl 31 then
      let pins := s1.residency.pins.filter fun x => (s1.pageRec x.1).place == 0 && !s1.following x.1
      let p := pins.foldl (fun a x => State.placePage a x.1 x.2 none) (s1, left)
      ((p.1.candidates).foldl (fun a r => State.placePage a r.page (hotQuad r.qreads) (some (p.1.fld regCadCtrl 47 32))) p).1
    else s1
  let s3 := s2.pages.foldl (fun a r =>
    let x := s2.pageRec r.page
    a.setPageRec { x with heat := x.heat / 2, qreads := [0, 0, 0, 0] }) s2
  { s3 with sched := { s3.sched with heatAt := s.time } }

/-- HEAT_EPOCH_END: once EPOCH_US microseconds have passed, while the table is in force and the Cadastre runs. -/
def execHeatEpochEnd (s : State) : Result :=
  attempt s fun s =>
    if s.reg regCadTableBase ≠ 0 ∧ s.sched.heatAt + 1000 * s.epochUs ≤ s.time ∧ s.halted 8 = false ∧ s.halting 8 = false
        ∧ s.stopped = false ∧ s.ready = true then some s.heatEpoch
    else none

/-- A promotion's copy ends, well or with an uncorrectable error (R243). -/
def State.promotionEnds (s : State) (p : Nat) (ok : Bool) : Option State :=
  let r := s.pageRec p
  if r.place = 1 then
    if ok && !s.anyPoison (65536 * p) 65536 then
      some ((s.setPageRec { r with place := 2 }).addReg regCadPromotions 1).refreshReady.retireImages
    else some (s.setPageRec { r with place := 0, frame := 0 }).retireImages
  else none

/-- PROMOTION_COMPLETE. -/
def execPromotionComplete (page : Nat) (ok : Bool) (s : State) : Result :=
  attempt s fun s => s.promotionEnds page ok

/-- An eviction ends: the page is at HOME and its frame free, or taken by the candidate that follows (R242, R243). -/
def State.evictionEnds (s : State) (p : Nat) : Option State :=
  let r := s.pageRec p
  if r.place = 3 ∧ r.readers = 0 then
    let s1 := (s.setPageRec { r with place := 0, frame := 0, successor := none }).addReg regCadEvictions 1
    let s2 := match r.successor with
      | some c =>
        if s1.pageState c = 4 ∧ (s1.pageRec c).place = 0 ∧ s1.cadOpen = true then
          s1.promote c r.frame else s1
      | none => s1
    some s2.refreshReady.retireImages
  else none

/-- EVICTION_COMPLETE. -/
def execEvictionComplete (page : Nat) (s : State) : Result := attempt s fun s => s.evictionEnds page

/-- A read of an ACTIVE or RETIRING page counted as heat (R241). -/
def State.heat (s : State) (addr : Nat) (r : Reader) : State :=
  let p := addr / 65536
  let st := s.pageState p
  if s.reg regCadTableBase = 0 ∨ ¬ (st = 4 ∨ st = 5) then s
  else
    let x := s.pageRec p
    let hot := min 65535 (x.heat + 1)
    match r with
    | .cluster q => s.setPageRec { x with heat := hot, qreads := x.qreads.modify q fun n => min 255 (n + 1) }
    | .spine => s.setPageRec { x with heat := hot }
    | .other => s

/-! ### Publication (R233 to R238) -/

/-- SHAKE256 over `n` pages from page `p` (R232). -/
def State.imageDigest (s : State) (p n : Nat) : List Byte :=
  shake256 32 (leBytes 8 n ++ (List.range n).flatMap fun j => shake256 32 (s.rdBytes (65536 * (p + j)) 65536))

/-- The incomplete `PUBLISH` of a SEQ. -/
def State.pub? (s : State) (q : Nat) : Option Publish := s.pubs.find? fun b => b.seq == q

/-- A `PUBLISH` changed. -/
def State.modPub (s : State) (q : Nat) (f : Publish → Publish) : State :=
  { s with pubs := s.pubs.map fun b => if b.seq = q then f b else b }

/-- Steps 1 of R235: the pages become PREPARED. -/
def State.startPublish (s : State) (t : Task) : State := s.modPub t.seq fun b => { b with step := 1 }

/-- PUBLISH. -/
def execPublish (seq : Nat) (s : State) : Result := attempt s fun s => s.launch seq opPublish 0 State.startPublish

/-- An image entry filled (R235). -/
def State.fillImage (s : State) (b : Publish) (st : Nat) : State :=
  let j := b.entry
  let w (k : Nat) (v : Nat) (x : State) : State := x.setReg (regCadImage (8 * j + k)) v
  let d (k : Nat) : Nat := leNat (slice b.digest (8 * k) 8)
  w 7 (d 3) (w 6 (d 2) (w 5 (d 1) (w 4 (d 0) (w 2 b.pred (w 1 (s.regionFirst b.region + s.regionPages b.region * 2 ^ 32)
    (w 0 (b.version + st * 2 ^ 32) s))))))

/-- Step 3 of R235: the entry filled and PUBLISH_PREPARED written. -/
def State.publishPrepared (s : State) (b : Publish) : State :=
  ((s.fillImage b 3).modPub b.seq fun x => { x with step := 3 }).event evPrepared b.version (b.digest.take 16)

/-- Residency entries that follow a superseded version (R417). -/
def State.follow (s : State) (pred new : Nat) : State :=
  ((List.range 64).filter fun i => s.resValid i && s.resFollow i && s.resVersion i == pred).foldl (fun a i =>
    a.setFld (regSchResidentHi i) 31 0 new) s

/-- Steps 4 and 5 of R235: the image ACTIVE, the predecessor RETIRING, the region cleared, PUBLISH_COMMITTED written. -/
def State.publishCommit (s : State) (b : Publish) : State :=
  let s1 := (s.setFld (regCadImage (8 * b.entry)) 39 32 4).setReg (regCadWregion b.region) (s.regionFirst b.region)
  let s2 := match (if b.pred = 0 then none else s1.activeImage b.pred) with
    | some j => s1.setFld (regCadImage (8 * j)) 39 32 5
    | none => s1
  let s3 := s2.event evCommitted b.version (b.digest.take 16)
  let s4 := if b.pred = 0 then s3 else s3.follow b.pred b.version
  let s5 := { s4 with pubs := s4.pubs.filter fun x => x.seq != b.seq }
  (s5.retireImages.applyResidency).endTask b.seq 0 0

/-- Step 5 now, or when its entry can be written (R104). -/
def State.publishFinish (s : State) (b : Publish) : State :=
  if s.journal.waiting = [] ∧ s.eventFits = true then s.publishCommit b else s.wait (.pubCommit b.seq)

/-- Step 3 and on. -/
def State.publishGoOn (s : State) (b : Publish) : State :=
  if s.journal.waiting = [] ∧ s.eventFits = true then (s.publishPrepared b).publishFinish b
  else (s.modPub b.seq fun x => { x with step := 2 }).wait (.pubPrepared b.seq)

/-- The digest is complete (R235), or a page could not be read (R236). -/
def State.hashComplete (s : State) (seq : Nat) : Option State :=
  match s.pub? seq, s.task? seq with
  | some b, some t =>
    if b.step = 1 ∧ t.phase = .running ∧ s.stopped = false then
      let lo := s.regionFirst b.region
      let n := s.regionPages b.region
      if s.anyPoison (65536 * lo) (65536 * n) then
        let s1 := s.setBit (regCadWregion b.region) 62 false
        some ({ s1 with pubs := s1.pubs.filter fun x => x.seq != seq }.endTask seq errImagePoison 0)
      else
        let d := s.imageDigest lo n
        let b1 := { b with digest := d, step := 2 }
        some ((s.modPub seq fun _ => b1).publishGoOn b1)
    else none
  | _, _ => none

/-- PUBLISH_HASH_COMPLETE. -/
def execPublishHashComplete (seq : Nat) (s : State) : Result := attempt s fun s => s.hashComplete seq

end Sys2Proof.Machine
end

