-- ==== Sys2Proof/Machine/Hbm.lean ====
section
/-! DEFINITION. The stacked memory: errors, repair, refresh and rinse (R247 to R250), retraining (R251 to R253),
darning (R254 to R258) and margining (R259, R260). -/

namespace Sys2Proof.Machine

open Sys2Proof

/-- 24 hours and one second of GLB_TIME. -/
abbrev dayNs : Nat := 86400000000000
abbrev secondNs : Nat := 1000000000

/-- The Stack Memory Subsystem starts new work. -/
def State.smsOpen (s : State) : Bool := !(s.halted 9 || s.halting 9) && !s.stopped

/-- A change of the stacked memory's state. -/
def State.modHbm (s : State) (f : Hbm → Hbm) : State := { s with hbm := f s.hbm }

/-! ### Failed channels (R253 to R258) -/

/-- SMS_DARNED entry `k`, eight 16-bit entries over two words. -/
def State.darnedEntry (s : State) (k : Nat) : Nat := s.fld (regSmsDarned (k / 4)) (16 * (k % 4) + 15) (16 * (k % 4))

/-- A channel is darned, or its migration is in progress. -/
def State.isDarned (s : State) (ch : Nat) : Bool :=
  (List.range (s.fld regSmsDarn 19 16)).any (fun k => s.darnedEntry k == ch) || s.hbm.darning.any fun d => d.1 == ch

/-- A channel that takes retrains and margining. -/
def State.channelServes (s : State) (ch : Nat) : Bool := channelPresent s.variant ch && !s.isDarned ch

/-- CHANNEL_FAILED recorded: darned (5) or fenced (2), with D after the event (R422). -/
def State.recordFailed (s : State) (ch action : Nat) : State :=
  s.record { kind := 0x04, scope := 4, action := action, unit := unitWord (stackDomain ch) ch,
             detail := s.fld regSmsDarn 19 16 }

/-- A channel fenced (R255). -/
def State.fence (s : State) (ch : Nat) : State :=
  if s.hbm.fenced.contains ch then s
  else (s.modHbm fun h => { h with fenced := setInsert ch h.fenced }).recordFailed ch 2

/-- The opening entry of a darning written: RRU_DARN_OPEN names the channel (R433). -/
def State.openDarning (s : State) (ch : Nat) : State :=
  ((s.setReg regRruDarnOpen ch).modHbm fun h => { h with darning := some (ch, true) }).resumeEntry 15

/-- The closing entry of a darning written (R433). -/
def State.closeDarning (s : State) : State :=
  ((s.setReg regRruDarnOpen 0xFFFF).modHbm fun h => { h with closing := false }).resumeEntry 15

/-- Step 1 and 2 of R256: D rises, H falls, and the darn table gains the channel; the migration waits for its opening
entry. -/
def State.startDarning (s : State) (ch : Nat) : State :=
  let d := s.fld regSmsDarn 19 16
  let h := s.fld regSmsDarn 3 0
  let s1 := ((s.setFld regSmsDarn 19 16 (d + 1)).setFld regSmsDarn 3 0 (h - 1)).setBit regSmsStatus 5 true
  let s2 := s1.modHbm fun x => { x with darning := some (ch, false), fenced := setErase ch x.fenced,
                                        darnTable := ch :: x.darnTable, darnCopied := 0, darnMarked := [],
                                        due := setErase ch x.due, urgent := setErase ch x.urgent,
                                        training := setErase ch x.training, margining := setErase ch x.margining,
                                        sweeps := x.sweeps.filter fun g => g.1 != ch }
  if s2.journal.waiting = [] ∧ s2.eventFits = true then s2.openDarning ch else s2.wait (.darnOpen ch)

/-- A darning is allowed (R255). -/
def State.darnOk (s : State) : Bool := decide (1 ≤ s.fld regSmsDarn 3 0 ∧ s.fld regSmsDarn 19 16 < 8)

/-- The next failed channel is darned when no darning is in progress, or fenced (R255, R256). -/
def State.darnNext (s : State) : Nat → State
  | 0 => s
  | f + 1 =>
    match s.hbm.failed with
    | [] => s
    | ch :: rest =>
      if s.darnOk then
        (if s.smsOpen = true ∧ s.hbm.darning = none ∧ s.hbm.closing = false then
          (s.modHbm fun h => { h with failed := rest }).startDarning ch
        else s)
      else ((s.modHbm fun h => { h with failed := rest }).fence ch).darnNext f

/-- The failed channels taken up. -/
def State.darnAll (s : State) : State := s.darnNext (s.hbm.failed.length + 1)

/-- A channel has failed (R255). -/
def State.failChannel (s : State) (ch : Nat) : State :=
  if s.isDarned ch || s.hbm.fenced.contains ch || s.hbm.failed.contains ch || !channelPresent s.variant ch then s
  else (s.modHbm fun h => { h with failed := h.failed ++ [ch] }).darnAll

/-- Fenced channels are darned as soon as H allows (R255). -/
def State.refence (s : State) : State :=
  if s.darnOk then (s.modHbm fun h => { h with failed := h.failed ++ h.fenced.filter fun c => !h.failed.contains c }).darnAll
  else s

/-- A write of SMS_DARN: HEADROOM (R254, R255). -/
def State.writeHeadroom (s : State) (v : Nat) : State :=
  s.whWrite 9 fun s =>
    let h := min 8 (getBits v 3 0)
    let s1 := s.setFld regSmsDarn 3 0 h
    let lo := s1.allocLimit / 65536
    let hi := s.allocLimit / 65536
    let taken := (s.regions.any fun i => rangesMeet lo (hi - lo) (s.regionFirst i) (s.regionPages i))
      || s.images.any fun j => rangesMeet lo (hi - lo) (s.imgFirst j) (s.imgPages j)
    if lo < hi ∧ taken = true then s.regionReject else s1.refence

/-- HEADROOM_WRITE. -/
def execHeadroomWrite (v : Word) (s : State) : Result :=
  attempt s fun s => if s.ready then some (s.writeHeadroom v.toNat) else none

/-- A write of SMS_DARN_REQ: with GO, the channel named is failed (R255). -/
def State.writeDarnReq (s : State) (v : Nat) : State :=
  let s1 := s.setReg regSmsDarnReq (getBits v 15 0)
  if bitOf v 31 then s1.failChannel (getBits v 15 0) else s1

/-- DARN_REQ_WRITE. -/
def execDarnReqWrite (v : Word) (s : State) : Result :=
  attempt s fun s => if s.ready then some (s.writeDarnReq v.toNat) else none

/-- The pages of tracked regions with a granule that the newest darning moves: its copy sets their dirty bits (R434). -/
def State.pagesOn (s : State) (ch : Nat) : List Nat :=
  ((s.regions.filter fun i => s.bit (regRruTrigRegions (i / 64)) (i % 64)).flatMap fun i =>
    (List.range (s.regionPages i)).map fun k => s.regionFirst i + k).filter fun p =>
      (List.range 256).any fun g => (s.placeBefore (65536 * p + 256 * g)).1 == ch

/-- A line of the channel in migration, by its number on the channel, that the copy could not read: it is written
poisoned, unless a write has reached its granule at the new place first (R256, R257). -/
def State.darnLost (s : State) (ch line : Nat) : State :=
  let a := 256 * darnAddr s.variant s.nearUnits s.hbm.darnTable.tail ch (line / 4) + 64 * (line % 4)
  if s.granuleCopied (line / 4) || decide (s.smsLimit ≤ a) then s else s.poisonLine (a / 64)

/-- A darning migration ends, all granules copied (R256, R433). Which lines of the channel could no longer be read is a
free value (log entry 32). -/
def State.migrationDone (s : State) : Option State :=
  match s.hbm.darning with
  | some (ch, true) =>
    if s.smsOpen then
      let k := s.fld regSmsDarn 19 16 - 1
      let lost := (Config.unreadable s.free).filter fun l => decide (l < 4 * chanGranules)
      let s0 : State := lost.foldl (fun z l => z.darnLost ch l) { s with free := s.free + 1 }
      let s1 := s0.setFld (regSmsDarned (k / 4)) (16 * (k % 4) + 15) (16 * (k % 4)) ch
      let s2 := { s1 with rru := { s1.rru with dirty := (s.pagesOn ch).foldl (fun d p => setInsert p d) s1.rru.dirty } }
      let s3 := ((s2.modHbm fun h => { h with darning := none, darnCopied := 0, darnMarked := [], closing := true }).setBit
        regSmsStatus 5 false).recordFailed ch 5
      let s4 := if s3.journal.waiting = [] ∧ s3.eventFits = true then s3.closeDarning else s3.wait .darnClose
      some s4.darnAll
    else none
  | _ => none

/-- The migration goes on while time passes: at up to 16 GB/s, a granule in 16 ns or later (R256; log entry 32). -/
def State.darnCopies (s : State) : State :=
  match s.hbm.darning with
  | some (_, true) =>
    if s.smsOpen = true ∧ s.time % 16 = 0 ∧ s.hbm.darnCopied < chanGranules then
      let s1 := { s with free := s.free + 1 }
      if (Config.freeByte s.free).toNat % 2 = 1 then s1.modHbm fun h => { h with darnCopied := h.darnCopied + 1 } else s1
    else s
  | _ => s

/-- DARN_MIGRATION_COMPLETE. -/
def execDarnMigrationComplete (s : State) : Result := attempt s State.migrationDone

/-! ### Retraining (R251 to R253) -/

/-- A channel of the same stack retrains or is margined. -/
def State.stackBusy (s : State) (ch : Nat) : Bool :=
  (s.hbm.training ++ s.hbm.margining).any fun c => c / 32 == ch / 32

/-- RETRAINING. -/
def State.updateRetraining (s : State) : State :=
  s.setBit regSmsStatus 4 (!s.hbm.training.isEmpty || !s.hbm.margining.isEmpty)

/-- The running tasks whose operands have a granule on a channel: their accesses wait while it retrains (R252). -/
def State.waitersOn (s : State) (ch : Nat) : State := s.markRetried fun t => touches t (s.onChannel (· == ch))

/-- A retrain starts: the request reads 0 from then on, and the accesses of running tasks wait (R252, R262). -/
def State.startRetrain (s : State) (ch : Nat) : State :=
  let s1 := s.modHbm fun h => { h with due := setErase ch h.due, urgent := setErase ch h.urgent,
                                       training := setInsert ch h.training }
  ((s1.setBit (regSmsRetrainReq (ch / 64)) (ch % 64) false).waitersOn ch).updateRetraining

/-- Urgent channels start where their stack is free (R251). -/
def State.startUrgent (s : State) : State :=
  if s.smsOpen then
    s.hbm.urgent.foldl (fun a ch => if a.channelServes ch && !a.stackBusy ch then a.startRetrain ch else a) s
  else s

/-- A channel is due for a retrain. -/
def State.retrainDue (s : State) (ch : Nat) : Bool :=
  s.channelServes ch && (s.hbm.due.contains ch || s.hbm.urgent.contains ch || s.bit (regSmsRetrainReq (ch / 64)) (ch % 64))

/-- A channel is due for a margining segment: requested, or in the middle of its sweep (R260). -/
def State.marginDue (s : State) (ch : Nat) : Bool :=
  s.channelServes ch && (s.bit (regSmsMarginReq (ch / 64)) (ch % 64) || s.hbm.sweeps.any fun g => g.1 == ch)

/-- One stack at a slot: its lowest due channel begins (R252, R260). -/
def State.slotStack (s : State) (k : Nat) : State :=
  let chans := (List.range 32).map (32 * k + ·)
  if s.stackBusy (32 * k) then s
  else match chans.find? fun c => s.retrainDue c || s.marginDue c with
    | none => s
    | some c =>
      if s.retrainDue c then s.startRetrain c
      else
        let s1 := (s.modHbm fun h => { h with margining := setInsert c h.margining }).setBit
          (regSmsMarginReq (c / 64)) (c % 64) false
        (s1.waitersOn c).updateRetraining

/-- PERIOD_MS in force, in ns. -/
def State.slotPeriod (s : State) : Nat := 1000000 * max 1 (min 1000 (s.fld regSmsRetrain 9 0))

/-- RETRAIN_SLOT: within the 50 µs after a multiple of PERIOD_MS, once for each (R251). -/
def execRetrainSlot (s : State) : Result :=
  attempt s fun s =>
    let p := s.slotPeriod
    if s.sched.slotAt / p < s.time / p ∧ s.time % p < 50000 ∧ s.smsOpen = true ∧ s.ready = true then
      let s1 := (List.range 12).foldl State.slotStack s
      some { s1 with sched := { s1.sched with slotAt := s.time } }
    else none

/-- The channels of a request word that are served: darned ones are ignored (R253). -/
def State.serveMask (s : State) (i v : Nat) : Nat :=
  (List.range 64).foldl (fun m b => if bitOf v b && s.channelServes (64 * i + b) then m + 2 ^ b else m) 0

/-- RETRAIN_REQ_WRITE: word `i` of SMS_RETRAIN_REQ. -/
def execRetrainReqWrite (i : Nat) (v : Word) (s : State) : Result :=
  attempt s fun s =>
    if s.ready = true ∧ i < 6 then some (s.setReg (regSmsRetrainReq i) (s.serveMask i v.toNat)) else none

/-- MARGIN_REQ_WRITE: word `i` of SMS_MARGIN_REQ. -/
def execMarginReqWrite (i : Nat) (v : Word) (s : State) : Result :=
  attempt s fun s =>
    if s.ready = true ∧ i < 6 then some (s.setReg (regSmsMarginReq i) (s.serveMask i v.toNat)) else none

/-- The reading of a stack's base die, in tenths of a degree; before each die has been read, the one that PWR_TEMP
holds. -/
def State.dieTemp (s : State) (k : Nat) : Nat := s.hbm.dies.getD k (s.fld regPwrTemp 31 16)

/-- A retrain ends, well or not (R252, R253). -/
def State.retrainEnds (s : State) (ch : Nat) (ok : Bool) (ns : Nat) : Option State :=
  if s.hbm.training.contains ch then
    let s1 := s.modHbm fun h => { h with training := setErase ch h.training }
    let s2 := s1.record { kind := 0x03, scope := 0, action := 6, unit := unitWord (stackDomain ch) ch, detail := ns }
    let n := if ok then 0 else mapGet 0 ch s.hbm.fails + 1
    let s3 := s2.modHbm fun h => { h with fails := mapPut ch (if n = 0 then none else some n) h.fails }
    let s4 := if ok then ((s3.addReg (regSmsChRetrains ch) 1).modHbm fun h =>
          { h with trainedAt := mapPut ch (some (s.dieTemp (ch / 32))) h.trainedAt, trim := mapPut ch none h.trim })
      else if 3 ≤ n then (s3.modHbm fun h => { h with fails := mapPut ch none h.fails }).failChannel ch
      else s3.modHbm fun h => { h with due := setInsert ch h.due }
    some (s4.updateRetraining.startUrgent)
  else none

/-- RETRAIN_COMPLETE. -/
def execRetrainComplete (chan : Nat) (ok : Bool) (ns : Nat) (s : State) : Result :=
  attempt s fun s => s.retrainEnds chan ok ns

/-! ### Margining (R259, R260) -/

/-- Step `16 + d` of row `v` of a path's grid: d from −16 to 15, v from 0 to 31; the read path comes first (R259). -/
def gridStep (path v col : Nat) : Nat := 1024 * path + 32 * v + col

/-- How far the passing steps of a row reach from d = 0: the steps to its left, itself included, and to its right,
itself included; (0, 0) when d = 0 failed. -/
def rowReach (failed : List Nat) (path v : Nat) : Nat × Nat :=
  (((List.range 17).takeWhile fun i => !failed.contains (gridStep path v (16 - i))).length,
   ((List.range 16).takeWhile fun i => !failed.contains (gridStep path v (16 + i))).length)

/-- An eye: columns left of d = 0, columns right of it, first and last row; no eye where (0, 16) failed. -/
structure Eye where
  left : Nat
  right : Nat
  lo : Nat
  hi : Nat
  deriving DecidableEq, Repr

/-- Width and height of an eye. -/
def Eye.width (e : Eye) : Nat := e.left + e.right + 1
def Eye.height (e : Eye) : Nat := e.hi + 1 - e.lo

/-- The widest rectangle of passing steps over rows `lo` to `hi` about d = 0. -/
def eyeOver (reach : List (Nat × Nat)) (lo hi : Nat) : Option Eye :=
  let rows := (List.range (hi + 1 - lo)).map fun i => reach.getD (lo + i) (0, 0)
  let l := rows.foldl (fun m r => min m r.1) 17
  let r := rows.foldl (fun m r => min m r.2) 16
  if l = 0 then none else some ⟨l - 1, r - 1, lo, hi⟩

/-- The largest rectangle of passing steps that contains (0, 16); of several as large, the first by first and then by
last row (R259; log entry 34). -/
def eyeOf (failed : List Nat) (path : Nat) : Option Eye :=
  if failed = [] then some ⟨16, 15, 0, 31⟩
  else
    let reach := (List.range 32).map (rowReach failed path)
    ((List.range 17).flatMap fun lo => (List.range 16).map fun k => (lo, 16 + k)).foldl (fun (best : Option Eye) p =>
      match eyeOver reach p.1 p.2, best with
      | some e, some b => if b.width * b.height < e.width * e.height then some e else best
      | some e, none => some e
      | none, _ => best) none

/-- The centre of an eye from the trained value, in delay and in Vref steps, rounded towards it (log entry 34). -/
def Eye.centre (e : Eye) : List Int := [((e.right : Int) - e.left).tdiv 2, ((e.lo : Int) + e.hi - 32).tdiv 2]

/-- Width and height as SMS_CH_MARGIN gives them: 0 where there is no eye. -/
def eyeSize (e : Option Eye) : Nat × Nat :=
  match e with
  | some e => (e.width, e.height)
  | none => (0, 0)

/-- A sweep of a channel is complete, the steps named having failed: SMS_CH_MARGIN, and with MARGIN_APPLY each path moved
to the centre of its eye (R259, R262). -/
def State.setMargin (s : State) (ch : Nat) (failed : List Nat) : State :=
  let rd := eyeOf failed 0
  let wr := eyeOf failed 1
  let least := s.fld regSmsCtrl 31 24
  let weak := decide ((eyeSize wr).1 < least ∨ (eyeSize rd).1 < least)
  let s1 := s.setReg (regSmsChMargin ch) (2 ^ 63 + b2n weak * 2 ^ 62 + (eyeSize wr).2 * 2 ^ 24 + (eyeSize wr).1 * 2 ^ 16
    + (eyeSize rd).2 * 2 ^ 8 + (eyeSize rd).1)
  if s.bit regSmsCtrl 1 then
    let move (e : Option Eye) : List Int := (e.map Eye.centre).getD [0, 0]
    let old := mapGet [0, 0, 0, 0] ch s.hbm.trim
    s1.modHbm fun h => { h with trim := mapPut ch (some (List.zipWith (· + ·) old (move rd ++ move wr))) h.trim }
  else s1

/-- The steps of a sweep, and those that a segment of 50 µs can hold (R259, R260). -/
abbrev sweepSteps : Nat := 2048
abbrev segmentSteps : Nat := 50

/-- A margining segment ends after `steps` more steps, those of the sweep named in `failed` having failed; the eyes are
taken when the sweep is complete (R259, R260). -/
def State.marginEnds (s : State) (ch steps : Nat) (failed : List Nat) : Option State :=
  if s.hbm.margining.contains ch = true ∧ 0 < steps ∧ steps ≤ segmentSteps then
    let s1 := s.modHbm fun h => { h with margining := setErase ch h.margining }
    let old := mapGet (0, []) ch s.hbm.sweeps
    let n := old.1 + steps
    let bad := old.2 ++ failed.filter fun i => decide (old.1 ≤ i ∧ i < n)
    let s2 := if n < sweepSteps then s1.modHbm fun h => { h with sweeps := mapPut ch (some (n, bad)) h.sweeps }
      else (s1.modHbm fun h => { h with sweeps := mapPut ch none h.sweeps }).setMargin ch bad
    some (s2.updateRetraining.startUrgent)
  else none

/-- MARGIN_SEGMENT_COMPLETE. -/
def execMarginSegmentComplete (chan : Nat) (seg : MarginSegment) (s : State) : Result :=
  attempt s fun s => s.marginEnds chan seg.steps seg.failed

/-! ### Errors and repair (R247, R248) -/

/-- The bank of a row in the layout of R545: pseudo-channel and bank. -/
def rowBank (row : Nat) : Nat := row / 2 ^ 25 % 128

/-- The row that a line of a channel lies in: the one reported before for it, or else the one reported now, kept until
the row is repaired (R545). The pseudo-channel follows from the channel offset (R223). -/
def State.rowOf (s : State) (ch line row : Nat) : Nat :=
  match s.hbm.rows.find? fun x => x.1 == ch && x.2.1 == line with
  | some x => x.2.2
  | none => pseudoChannel (64 * line) * 2 ^ 31 + row % 2 ^ 31

/-- The row of a line noted (R545). -/
def State.noteRow (s : State) (ch line row : Nat) : State :=
  if s.hbm.rows.any fun x => x.1 == ch && x.2.1 == line then s
  else s.modHbm fun h => { h with rows := h.rows ++ [(ch, line, s.rowOf ch line row)] }

/-- Refreshes of a bank so far (R249). -/
def State.refreshes (s : State) (ch bank : Nat) : Nat :=
  match s.hbm.refreshed.find? fun x => x.1 == ch && x.2.1 == bank with
  | some x => x.2.2
  | none => 0

/-- A row awaits repair. -/
def State.repairQueued (s : State) (ch row : Nat) : Bool := s.hbm.repairs.any fun x => x.1 == ch && x.2.1 == row

/-- A row queued for repair in its bank's next refresh slot (R248). -/
def State.queueRepair (s : State) (ch row : Nat) : State :=
  if s.repairQueued ch row then s
  else s.modHbm fun h => { h with repairs := h.repairs ++ [(ch, row, s.refreshes ch (rowBank row))] }

/-- CE_LIMIT. -/
def State.ceLimit (s : State) : Nat := s.fld regSmsRetrain 31 16

/-- Corrected errors of a channel within the last second. -/
def State.recentCorrected (s : State) (ch : Nat) : Nat :=
  (s.hbm.corrected.filter fun c => c.1 == ch && decide (s.time < c.2.2.2 + secondNs)).length

/-- A corrected read of a line of a channel (R247, R248, R251). -/
def State.correctedRead (s : State) (ch row0 line : Nat) : State :=
  let row := s.rowOf ch line row0
  let s1 := ((s.noteRow ch line row0).addReg (regSmsChCorrected ch) 1).modHbm fun h =>
    { h with corrected := (h.corrected.filter fun c => decide (s.time < c.2.2.2 + dayNs)) ++ [(ch, row, line, s.time)] }
  let same := (s1.hbm.corrected.filter fun c => c.1 == ch && c.2.1 == row && c.2.2.1 == line).length
  let s2 := if 3 ≤ same then s1.queueRepair ch row else s1
  let n := s2.recentCorrected ch
  if 16 * s2.ceLimit < n ∧ s2.channelServes ch = true then
    (s2.modHbm fun h => { h with urgent := setInsert ch h.urgent }).startUrgent
  else if s2.ceLimit < n ∧ s2.channelServes ch = true then s2.modHbm fun h => { h with due := setInsert ch h.due }
  else s2

/-- HBM_UE recorded (R422, R545). -/
def State.recordUe (s : State) (ch row addr : Nat) : State :=
  s.record { kind := 0x01, scope := 1, action := 1, unit := unitWord (stackDomain ch) ch, addr := addr, detail := row }

/-- An uncorrectable read of a line of a channel (R247, R248, R251, R255). -/
def State.uncorrectedRead (s : State) (ch row0 line addr : Nat) : State :=
  let row := s.rowOf ch line row0
  let s1 := ((s.noteRow ch line row0).addReg (regSmsChUncorrected ch) 1).modHbm fun h =>
    { h with uncorrected := (h.uncorrected.filter fun c => decide (s.time < c.2.2 + dayNs)) ++ [(ch, row, s.time)] }
  let s2 := (s1.recordUe ch row addr).queueRepair ch row
  let s3 := if s2.channelServes ch then (s2.modHbm fun h => { h with urgent := setInsert ch h.urgent }).startUrgent else s2
  let rows := (s3.hbm.uncorrected.filter fun c => c.1 == ch).foldl (fun l c => setInsert c.2.1 l) []
  if 64 < rows.length then s3.failChannel ch else s3

/-- A line found in error by its channel's code (R247): from a fenced channel it is poisoned as it is (R255). -/
def State.channelLine (s : State) (a : Nat) (e : LineError) : State :=
  let p := s.placeOf a
  if e.symbols = 0 ∨ s.hbm.fenced.contains p.1 = true then s
  else if e.symbols = 1 then s.correctedRead p.1 e.row (p.2 / 64)
  else (s.poisonLine (a / 64)).uncorrectedRead p.1 e.row (p.2 / 64) (64 * (a / 64))

/-- A line of a program or device area found in error by the shared banks' code (R225, R422, R545). -/
def State.bankLine (s : State) (a : Nat) (e : LineError) : State :=
  let b := (a - bankBase) / 0x1000000
  if e.symbols < 2 then s
  else (s.poisonLine (a / 64)).record
    { kind := 0x05, scope := 1, action := 1, unit := unitWord (20 + b / 8) b, addr := 64 * (a / 64), detail := b }

/-- A request served from the frame of its page (R244): an uncorrectable error counts, the data come from HBM, and the
page's eviction starts. -/
def State.frameRead (s : State) (q : HbmRead) : State :=
  let p := s.pageRec (q.addr / 65536)
  match q.bad.find? fun e => decide (2 ≤ e.symbols) with
  | none => s
  | some e =>
    let s1 := (s.addReg regCadFrameErrors 1).record
      { kind := 0x05, scope := 1, action := 9, unit := unitWord (20 + frameQuad p.frame) (p.frame / 160),
        addr := 64 * (q.addr / 64 + e.line), detail := p.frame / 160 }
    if s1.cadOpen = true ∧ p.place = 2 then s1.evict (q.addr / 65536) none else s1

/-- The lines of a request found in error, each with its address. -/
def linesRead (q : HbmRead) : List (Nat × LineError) :=
  (q.bad.filter fun e => decide (64 * e.line < q.addr % 64 + q.len)).map fun e => (64 * (q.addr / 64 + e.line), e)

/-- A routed request is delivered: FRAME_READERS falls (R244). -/
def State.delivered (s : State) (q : HbmRead) : State :=
  let r := s.pageRec (q.addr / 65536)
  (s.setPageRec { r with readers := r.readers - 1 }).modHbm fun h => { h with routed := h.routed.erase (q.addr, q.len) }

/-- A read request (R241, R243, R244, R247): routed to a frame, where its page is PROMOTED; or served, from that frame
when it was routed there or its page is PROMOTED, from its channels otherwise, or from a shared bank. -/
def State.hbmRead (s : State) (q : HbmRead) : Option State :=
  if q.ok = false then none
  else match s.place q.addr with
    | .hbm =>
      match q.stage with
      | .routed =>
        if s.framed q.addr then
          let r := s.pageRec (q.addr / 65536)
          some ((s.setPageRec { r with readers := r.readers + 1 }).modHbm fun h =>
            { h with routed := h.routed ++ [(q.addr, q.len)] })
        else none
      | .served =>
        let s1 := s.heat q.addr q.reader
        if s1.hbm.routed.contains (q.addr, q.len) then some ((s1.frameRead q).delivered q)
        else if s1.framed q.addr then some (s1.frameRead q)
        else some ((linesRead q).foldl (fun z p => z.channelLine p.1 p.2) s1)
    | .program _ => if q.stage = .served then some ((linesRead q).foldl (fun z p => z.bankLine p.1 p.2) s) else none
    | .bankOther b =>
      if q.stage = .served ∧ q.addr < bankBase + 0x1000000 * b + 0x100000 then
        some ((linesRead q).foldl (fun z p => z.bankLine p.1 p.2) s)
      else none
    | _ => none

/-- HBM_READ_COMPLETE. -/
def execHbmReadComplete (addr len : Nat) (bad : List LineError) (by_ : ReadBy) (s : State) : Result :=
  attempt s fun s => s.hbmRead ⟨addr, len, bad, by_.reader, by_.stage⟩

/-- Banks of a channel that have used all their spare rows (R255). -/
def State.fullBanks (s : State) (ch : Nat) : Nat :=
  (s.hbm.spares.filter fun x => x.1 == ch && decide (16 ≤ x.2.2)).length

/-- A row repaired onto a spare, in the first refresh slot of its bank since it was queued (R248). -/
def State.repairRow (s : State) (ch row : Nat) : Option State :=
  match s.hbm.repairs.find? fun x => x.1 == ch && x.2.1 == row with
  | none => none
  | some x =>
    let b := rowBank row
    if s.refreshes ch b ≤ x.2.2 then none
    else
      let used := match s.hbm.spares.find? fun x => x.1 == ch && x.2.1 == b with
        | some x => x.2.2
        | none => 0
      let s1 := s.modHbm fun h => { h with repairs := h.repairs.filter fun x => !(x.1 == ch && x.2.1 == row) }
      if used < 16 then
        let s2 := s1.modHbm fun h => { h with
          spares := h.spares.filter (fun x => !(x.1 == ch && x.2.1 == b)) ++ [(ch, b, used + 1)]
          corrected := h.corrected.filter fun c => !(c.1 == ch && c.2.1 == row)
          rows := h.rows.filter fun c => !(c.1 == ch && c.2.2 == row) }
        let s3 := (s2.addReg (regSmsChRepairs ch) 1).record { kind := 0x02, scope := 0, action := 0,
                                                              unit := unitWord (stackDomain ch) ch, detail := 15 - used }
        some (if 4 ≤ s3.fullBanks ch then s3.failChannel ch else s3)
      else some (if 4 ≤ s1.fullBanks ch then s1.failChannel ch else s1)

/-- ROW_REPAIR. -/
def execRowRepair (chan row : Nat) (s : State) : Result := attempt s fun s => s.repairRow chan row

/-- REFRESH_SLOT: a bank of a pseudo-channel of a present channel (pseudo-channel × 64 + bank) is refreshed (R249). -/
def execRefreshSlot (chan bank : Nat) (s : State) : Result :=
  attempt s fun s =>
    if channelPresent s.variant chan = true ∧ bank < 128 then
      let n := s.refreshes chan bank
      some (s.modHbm fun h => { h with
        refreshed := h.refreshed.filter (fun x => !(x.1 == chan && x.2.1 == bank)) ++ [(chan, bank, n + 1)] })
    else none

/-- The HBM address that lies at a channel offset; none for the margining test rows, which lie beyond a channel's 2 GB,
and for what backs no address below SMS_LIMIT. -/
def State.rinseAddr (s : State) (ch off : Nat) : Option Nat :=
  if off < 2000000000 then
    let a := 256 * darnAddr s.variant s.nearUnits s.hbm.darnTable ch (off / 256) + off % 256
    if a < s.smsLimit ∧ s.placeOf a = (ch, off) then some a else none
  else none

/-- HOURS in force, in ns (R250, R262). -/
def State.rinseNs (s : State) : Nat := 3600000000000 * clampTo 1 168 (s.fld regSmsRinse 7 0)

/-- A line read by rinse, once in each period (R250, R424). -/
def State.rinse (s : State) (ch off symbols row : Nat) : Option State :=
  let withdrawn := decide (off < 2000000000) && (s.rinseAddr ch off).isNone
  let period := s.time / s.rinseNs
  let done := if s.hbm.rinsePeriod = period then s.hbm.rinsed else []
  if s.smsOpen = true ∧ s.ready = true ∧ s.channelServes ch = true ∧ s.hbm.fenced.contains ch = false
      ∧ withdrawn = false ∧ done.contains (ch, off / 64) = false then
    let s1 := s.modHbm fun h => { h with rinsePeriod := period, rinsed := done ++ [(ch, off / 64)] }
    match s1.rinseAddr ch off with
    | some a =>
      let image := decide (3 ≤ s1.pageState (a / 65536) ∧ s1.pageState (a / 65536) ≤ 5)
      let at_ := if image then 64 * (a / 64) else off
      if symbols = 0 ∧ s1.poison.contains (a / 64) = true ∧ image = true then
        some ((s1.noteRow ch (off / 64) row).recordUe ch (s1.rowOf ch (off / 64) row) at_)
      else if symbols = 0 then some s1
      else if symbols = 1 then some (s1.correctedRead ch row (off / 64))
      else some ((s1.poisonLine (a / 64)).uncorrectedRead ch row (off / 64) at_)
    | none =>
      if symbols = 0 then some s1
      else if symbols = 1 then some (s1.correctedRead ch row (off / 64))
      else some (s1.uncorrectedRead ch row (off / 64) off)
  else none

/-- RINSE_STEP. -/
def execRinseStep (chan off symbols row : Nat) (s : State) : Result := attempt s fun s => s.rinse chan off symbols row

/-- The subsystem goes on after its resume: darnings and urgent retrains that waited start. -/
def State.smsResume (s : State) : State := s.darnAll.startUrgent

end Sys2Proof.Machine
end

