-- ==== Sys2Proof/Machine/Fabric.lean ====
section
/-! DEFINITION. The fabric: packets and their headers (R310), frames (R296, R303), credits (R305, R306), routing and
drops (R315 to R319), injection and the epoch counters (R321 to R324), and pressing of reductions (R359, R361). -/

namespace Sys2Proof.Machine

open Sys2Proof

/-! ### KIND codes (R310, R338, R372) -/

abbrev kLoadReq : Nat := 0x01
abbrev kLoadData : Nat := 0x02
abbrev kStore : Nat := 0x03
abbrev kFanset : Nat := 0x04
abbrev kMdata : Nat := 0x05
abbrev kAtomic : Nat := 0x06
abbrev kAtomicReply : Nat := 0x07
abbrev kReduce : Nat := 0x08
abbrev kAck : Nat := 0x09
abbrev kReduceRetry : Nat := 0x0B
abbrev kAtomicRetry : Nat := 0x0C
abbrev kContrib : Nat := 0x10
abbrev kResult : Nat := 0x11
abbrev kTackUp : Nat := 0x12
abbrev kTackDown : Nat := 0x13
abbrev kRing : Nat := 0x14
abbrev kAbort : Nat := 0x15
abbrev kDone : Nat := 0x16
abbrev kClosed : Nat := 0x17
abbrev kXcount : Nat := 0x18
/-- A rekey's ciphertext, for which the spec gives no code (log entry 16). -/
abbrev kKey : Nat := 0x1D
abbrev kSurvey : Nat := 0x1E
abbrev kDrop : Nat := 0x1F

/-! ### Packets -/

/-- Payload bytes, and the cells that a packet takes (R305). -/
def Pkt.len (p : Pkt) : Nat := p.payload.length
def Pkt.cells (p : Pkt) : Nat := ceilDiv (32 + p.len) 64

/-- The first 28 bytes of the header, most significant first (R310). -/
def Pkt.head28 (p : Pkt) : List Byte :=
  beBytes 28 (p.dst <<< 210 + p.src <<< 196 + p.epoch <<< 188 + p.vc <<< 185 + p.kind <<< 180 + (b2n p.ordered) <<< 179
    + (b2n p.mcast) <<< 178 + p.group <<< 166 + p.hops <<< 160 + p.txn <<< 128 + p.total <<< 96 + p.offset <<< 64
    + p.addr <<< 14 + p.len)

/-- The 32-byte header (R310). -/
def Pkt.header (p : Pkt) : List Byte := p.head28 ++ beBytes 4 (crc32 p.head28)

/-- A packet as its bytes on the wire. -/
def Pkt.bytes (p : Pkt) : List Byte := p.header ++ p.payload

/-- A packet read from its header and payload. -/
def Pkt.parse (h payload : List Byte) (port : Nat) : Pkt :=
  let n := beNat (h.take 28)
  { dst := getBits n 223 210, src := getBits n 209 196, epoch := getBits n 195 188, vc := getBits n 187 185,
    kind := getBits n 184 180, ordered := bitOf n 179, mcast := bitOf n 178, group := getBits n 177 166,
    hops := getBits n 165 160, txn := getBits n 159 128, total := getBits n 127 96, offset := getBits n 95 64,
    addr := getBits n 63 14, payload := payload, port := port, since := 0 }

/-- The LEN field of a header. -/
def headerLen (h : List Byte) : Nat := beNat (h.take 28) % 2 ^ 13

/-- The HCRC of a header holds (R310, R311). -/
def headerOk (h : List Byte) : Bool := beNat (slice h 28 4) == crc32 (h.take 28)

/-- A packet with nothing in it but its destination. -/
def Pkt.to (dst vc kind : Nat) : Pkt where
  dst := dst
  src := 0
  epoch := 0
  vc := vc
  kind := kind
  ordered := false
  mcast := false
  group := 0
  hops := 0
  txn := 0
  total := 0
  offset := 0
  addr := 0
  payload := []
  port := 24
  since := 0

/-- Packets that a node of a tree takes whatever their DST (R354, R355, R372, R386). -/
def Pkt.tree (p : Pkt) : Bool :=
  p.kind == kFanset || p.kind == kMdata || p.kind == kContrib || p.kind == kResult || p.kind == kTackUp
    || p.kind == kTackDown || p.kind == kDone || p.kind == kClosed || (p.kind == kAbort && p.group != 0)

/-- A channel with adaptive routing (R307). -/
def adaptiveVc (vc : Nat) : Bool := vc == 1 || vc == 2 || vc == 3

/-! ### Ports -/

/-- A port exists on the variant (R295). -/
def portPresent (v : Variant) (p : Nat) : Bool := decide (p < 24) && (v == .fd880 || decide (p % 12 < 8))

/-- A port's state; one that is not listed is as after reset. -/
def State.port (s : State) (p : Nat) : Port := (s.ports.find? fun x => x.num == p).getD (Port.reset p)

/-- A port's state put back; ports are listed by number. -/
def State.setPort (s : State) (x : Port) : State :=
  { s with ports := s.ports.filter (fun y => decide (y.num < x.num)) ++ [x]
                    ++ s.ports.filter (fun y => decide (x.num < y.num)) }

/-- A port changed. -/
def State.modPort (s : State) (p : Nat) (f : Port → Port) : State := s.setPort (f (s.port p))

/-- STATE of a port (R331). -/
def State.portState (s : State) (p : Nat) : Nat := s.fld (regFptPortStatus p) 15 12
def State.setPortState (s : State) (p v : Nat) : State := s.setFld (regFptPortStatus p) 15 12 v
def State.portUp (s : State) (p : Nat) : Bool := portPresent s.variant p && s.portState p == 3

/-- The port encrypts (R302). -/
def State.portCrypt (s : State) (p : Nat) : Bool := s.bit (regFptPortStatus p) 2

/-! ### Frames (R296, R297, R303) -/

/-- The nonce of a frame: salt and count (R303). -/
def frameNonce (salt : List Byte) (count : Nat) : List Byte := salt ++ leBytes 8 count

/-- A frame of a port with given number, credit field and stream. The frame type is 0 (log entry 16). -/
def State.makeFrame (s : State) (p fseq credit : Nat) (stream : List Byte) : State × Frame :=
  let x := s.port p
  let hdr := leBytes 2 (fseq * 16 + b2n x.keyIdx * 8) ++ leBytes 2 ((x.rxSeq + 4095) % 4096 * 16) ++ leBytes 2 credit
  match (if s.portCrypt p then x.keys else none) with
  | some k =>
    let nonce := frameNonce k.txSalt k.txCount
    let ct := gcmCrypt k.txKey nonce stream
    (s.setPort { x with keys := some { k with txCount := k.txCount + 1 } },
     ⟨0, 0, hdr, BitVec.ofNat 32 (crc32 (hdr ++ ct)), gcmTag k.txKey nonce hdr ct, ct⟩)
  | none => (s, ⟨0, 0, hdr, BitVec.ofNat 32 (crc32 (hdr ++ stream)), [], stream⟩)

/-- The credit that the next frame of a port returns: the lowest channel with cells owed (R306). -/
def Port.takeOwed (x : Port) : Nat × Port :=
  match (List.range 8).find? fun v => x.owed.getD v 0 != 0 with
  | some v =>
    let n := min 8191 (x.owed.getD v 0)
    (v * 2 ^ 13 + n, { x with owed := x.owed.modify v (· - n) })
  | none => (0, x)

/-- Packet stream bytes of one frame (R296). -/
def State.streamSize (s : State) (p : Nat) : Nat := if s.portCrypt p then 2544 else 2560

/-- Frames that carry packet bytes, of which the retry buffer of 128 KiB holds 51 (R297); frames without any take none of
it (log entry 16). -/
def Port.retryFrames (x : Port) : Nat := (x.retry.filter fun r => !r.2.2.1.isEmpty).length
abbrev retryMost : Nat := 51

/-- A port may transmit a frame: it has no key, or has used its key for fewer than 2⁴⁰ frames (R304). -/
def State.mayTransmit (s : State) (p : Nat) : Bool :=
  match (if s.portCrypt p then (s.port p).keys else none) with
  | some k => decide (k.txCount < 2 ^ 40)
  | none => true

/-- The next frame of a port, with the waiting bytes of its packet stream that fit: kept until it is acknowledged, and
carrying none while the retry buffer is full (R296, R297). -/
def State.nextFrame (s : State) (p : Nat) : State :=
  if s.mayTransmit p then
    let (credit, x) := (s.port p).takeOwed
    let stream := if x.retryFrames < retryMost then x.txStream.take (s.streamSize p) else []
    let s1 := s.setPort { x with txSeq := (x.txSeq + 1) % 4096, txStream := x.txStream.drop stream.length,
                                 retry := x.retry ++ [(x.txSeq, credit, stream, 0)] }
    let (s2, f) := s1.makeFrame p x.txSeq credit stream
    s2.emit (.frame p f)
  else s

/-- A frame resent (R297). -/
def State.resendFrame (s : State) (p : Nat) (r : Nat × Nat × List Byte × Nat) : State :=
  if s.mayTransmit p then
    let (s1, f) := s.makeFrame p r.1 r.2.1 r.2.2.1
    s1.emit (.frame p f)
  else s

/-- Frames sent while at least `least` bytes wait and the retry buffer has room. -/
def State.pump (s : State) (p least : Nat) : Nat → State
  | 0 => s
  | f + 1 =>
    let x := s.port p
    if x.txStream.length < least ∨ retryMost ≤ x.retryFrames ∨ s.mayTransmit p = false then s
    else (s.nextFrame p).pump p least f

/-- Whole frames sent, and with `flush` the part of a frame that is left (R296). -/
def State.sendFrames (s : State) (p : Nat) (flush : Bool) : State :=
  s.pump p (if flush then 1 else s.streamSize p) ((s.port p).txStream.length / 2544 + 1)

/-! ### Credits (R305) -/

/-- Reserve cells of a channel, and pool cells. -/
abbrev reserveCells : Nat := 130
abbrev poolCells : Nat := 3056

/-- Free cells of the partner's pool. -/
def Port.poolFree (x : Port) : Nat := poolCells - x.usedPool.foldl (· + ·) 0

/-- Whole-packet credit taken from the reserve or the pool: a deterministic packet from either, an adaptive one from
the pool. -/
def Port.takeCredit (x : Port) (vc n : Nat) : Option Port :=
  if !adaptiveVc vc && decide (x.usedReserve.getD vc 0 + n ≤ reserveCells) then
    some { x with usedReserve := x.usedReserve.modify vc (· + n) }
  else if n ≤ x.poolFree then some { x with usedPool := x.usedPool.modify vc (· + n) }
  else none

/-- Cells that a partner returns fill the channel's reserve first (log entry 16). -/
def Port.returnCredit (x : Port) (vc n : Nat) : Port :=
  let r := min n (x.usedReserve.getD vc 0)
  { x with usedReserve := x.usedReserve.modify vc (· - r), usedPool := x.usedPool.modify vc (· - (n - r)) }

/-! ### Epochs and injection (R321 to R324, R326) -/

/-- NSW_EPOCH, RETIRE_PENDING, and VALID of NSW_DEVICE_ID. -/
def State.epoch (s : State) : Nat := s.fld regNswEpoch 7 0
def State.retirePending (s : State) : Bool := s.bit regNswStatus 9
def State.deviceValid (s : State) : Bool := s.bit regNswDeviceId 31

/-- A packet's epoch is current, or previous and not retired (R319). -/
def State.epochOk (s : State) (e : Nat) : Bool :=
  e == s.epoch || (s.retirePending && (e + 1) % 256 == s.epoch)

/-- A packet's epoch is one that the counters of its parity count: the current one or the one before it, retired or not
(R322, R323). -/
def State.epochCounted (s : State) (e : Nat) : Bool := e == s.epoch || (e + 1) % 256 == s.epoch

/-- Counts of an epoch's parity raised (R323). -/
def State.countOut (s : State) (e n : Nat) : State :=
  if s.epochCounted e then s.addReg (regNswEpochOut (e % 2)) n else s
def State.countIn (s : State) (e n : Nat) : State :=
  if s.epochCounted e then s.addReg (regNswEpochIn (e % 2)) n else s

/-- The counts of a packet taken by a node and sent on in `r` copies: r − 1 out, or one in when none leaves. -/
def State.countCopies (s : State) (e r : Nat) : State := if r = 0 then s.countIn e 1 else s.countOut e (r - 1)

/-- The epoch with which the device injects. -/
def State.injectEpoch (s : State) : Nat := s.haltEpoch.getD s.epoch

/-- A packet of the device's own put into the injection queue: SRC, EPOCH and HOPS_LEFT set (R310). -/
def State.injectPkt (s : State) (p : Pkt) : State :=
  let e := s.injectEpoch
  let h := min 63 (routeHops (s.route (e % 2) p.dst) + 8)
  ({ s with inject := s.inject ++ [{ p with src := s.deviceId, epoch := e, hops := h, port := 24, since := s.time }] }).countOut e 1

/-- A tree packet put into the injection queue, to leave by a port (R372). -/
def State.injectOn (s : State) (out : Nat) (p : Pkt) : State :=
  { s with inject := s.inject ++ [{ p with port := 32 + out, since := s.time }] }

/-- New requests and entries may be injected (R321, R326). -/
def State.injectOpen (s : State) : Bool := !(s.halted 10 || s.halting 10) && s.deviceValid && !s.stopped

/-! ### Forwarding (R305, R315 to R319) -/

/-- The packets that wait at an input; input 24 is the injection queue. -/
def State.inputs (s : State) (i : Nat) : List Pkt := if i = 24 then s.inject else (s.port i).inbuf

/-- The first packet of a channel at an input. -/
def State.headPkt (s : State) (i vc : Nat) : Option Pkt := (s.inputs i).find? fun p => p.vc == vc

/-- The first packet equal to `p` removed from a list. -/
def dropFirst (p : Pkt) : List Pkt → List Pkt
  | [] => []
  | q :: l => if q = p then l else q :: dropFirst p l

/-- A packet taken out of an input; its cells are owed to the partner. -/
def State.takePkt (s : State) (i : Nat) (p : Pkt) : State :=
  if i = 24 then { s with inject := dropFirst p s.inject }
  else s.modPort i fun x => { x with inbuf := dropFirst p x.inbuf, owed := x.owed.modify p.vc (· + p.cells) }

/-- Owed credit sent at once in the port's next frame (R306). -/
def State.creditFrame (s : State) (i : Nat) : State :=
  if i < 24 ∧ s.portUp i = true ∧ ((s.port i).owed.any (· != 0)) = true then s.nextFrame i else s

/-- A link-local message, which is addressed by port and not routed (R326), and which the epochs do not count (log entry
16). -/
def Pkt.linkLocal (p : Pkt) : Bool := p.kind == kKey

/-- A packet discarded, with its notice (R319). -/
def State.dropPkt (s : State) (i : Nat) (p : Pkt) (reason : Nat) : State :=
  let s0 := s.addReg regNswDrops 1
  let s1 := if p.linkLocal then s0 else s0.countIn p.epoch 1
  let s2 := if reason = 3 then s1.addReg regNswStale 1 else s1
  let s3 := if i < 24 then s2.modPort i fun x => { x with sDrops := x.sDrops + 1 } else s2
  if p.kind = kDrop ∨ p.linkLocal = true then s3
  else s3.injectPkt { (Pkt.to p.src 7 kDrop) with group := reason, txn := p.txn, total := 32, payload := p.header }

/-- Room for another packet in the stream of an output: the packets before it have left in frames but for less than one
frame (R297). -/
def State.streamRoom (s : State) (out : Nat) : Bool :=
  decide ((s.port out).txStream.length < s.streamSize out) && s.mayTransmit out

/-- A packet sent by a port, when it is UP, its stream has room, and credit is held for the whole packet. -/
def State.sendOut (s : State) (out : Nat) (p : Pkt) : Option State :=
  if s.portUp out && s.streamRoom out then
    match (s.port out).takeCredit p.vc p.cells with
    | some x =>
      let s1 := s.setPort { x with sCells := x.sCells.modify p.vc (· + p.cells), lastVc := p.vc,
                                   txStream := x.txStream ++ ({ p with hops := p.hops - 1 }).bytes }
      some (s1.sendFrames out false)
    | none => none
  else none

/-- The adaptive candidate that R317 chooses for a packet. -/
def State.adaptiveOut (s : State) (r n : Nat) : Option Nat :=
  (List.range 24).foldl (fun (best : Option Nat) q =>
    if bitOf r (28 + q) && s.portUp q && decide (n ≤ (s.port q).poolFree) then
      match best with
      | some b => if (s.port b).poolFree < (s.port q).poolFree then some q else best
      | none => some q
    else best) none

/-- The output that a packet would take under R317. -/
def State.outputOf (s : State) (p : Pkt) (r : Nat) : Nat :=
  if adaptiveVc p.vc then (s.adaptiveOut r p.cells).getD (routePort r) else routePort r

/-- The switch half of an input (R354, R377, R382); the device's own injection belongs to half 0 (log entry 18). -/
def halfOf (port : Nat) : Nat := if port = 24 then 0 else port / 12

/-- Tree packets of a kind that this node holds in one switch half. -/
def State.heldTree (s : State) (kind half : Nat) : List Pkt :=
  (s.col.colls.flatMap (·.inputs) ++ s.rx).filter fun p => p.kind == kind && halfOf p.port == half

/-- Group and CSEQ of a tree packet. -/
def Pkt.collective (p : Pkt) : Nat × Nat := (p.group, p.txn / 2 ^ 14)

/-- The tree of a group has an input at this node in a switch half. -/
def State.treeInHalf (s : State) (g half : Nat) : Bool :=
  ((if s.grpLocal g then [24] else []) ++ (List.range 24).filter fun n => bitOf (s.grpChildren g) n).any fun i =>
    halfOf i == half

/-- The collectives that occupy a press slot of a switch half: those whose packets it holds, and those that have begun at
this node and whose contributions are not all merged (R377; log entry 18). -/
def State.slotUsers (s : State) (half slot : Nat) : List (Nat × Nat) :=
  ((s.heldTree kContrib half).map Pkt.collective
    ++ (s.col.colls.filter fun (c : Coll) => c.path == 1 && c.aborted == 0 && !c.upDone && !c.merged.isEmpty
        && s.treeInHalf c.group half).map fun (c : Coll) => (c.group, c.cseq % 2 ^ 18)).filter fun u => s.grpPslot u.1 == slot

/-- A tree packet finds its place in the tables of its switch half: a press entry in the slot of its group, which one
collective uses at a time (R377), or a tack entry (R382). -/
def State.treeRoom (s : State) (p : Pkt) : Bool :=
  let half := halfOf p.port
  if p.kind = kContrib then
    let mine := (s.heldTree kContrib half).filter fun q => q.collective == p.collective
    let offs := mine.foldl (fun l q => setInsert q.offset l) []
    ((s.slotUsers half (s.grpPslot p.group)).all fun u => u == p.collective)
      && (offs.contains p.offset || decide (offs.length < 64))
  else if p.kind = kTackUp then
    let users := ((s.heldTree kTackUp half).map Pkt.collective).eraseDups
    decide (users.length < 256) || users.contains p.collective
  else true

/-! ### Combining (R361) -/

/-- Two 32-bit integers combined: OP 0 SUM, 1 MIN, 2 MAX. -/
def combineInt (op a b : Nat) : Nat :=
  let x := toSigned 32 a
  let y := toSigned 32 b
  if op = 0 then (a + b) % 2 ^ 32 else if op = 1 then (if y < x then b else a) else if x < y then b else a

/-- Two values combined in FP32, a sum rounded to nearest, ties to even. -/
def combineVal (op : Nat) (x y : Fp) : Fp :=
  if op = 0 then ofF32 (toF32 (x.add y)) else if op = 1 then x.min y else x.max y

/-- Elements combined in order, and the result rounded once to the format (R361, R378): FORMAT 0 INT32, 1 FP32, 2 BF16. -/
def combineElems (op fmt a : Nat) (bs : List Nat) : Nat :=
  if fmt = 0 then bs.foldl (combineInt op) a
  else
    let f := if fmt = 1 then fmtFp32 else fmtBf16
    (encodeElem f false .nearest (bs.foldl (fun x b => combineVal op x (decodeElem f b)) (decodeElem f a))).1

/-- Two elements combined. -/
def combineElem (op fmt a b : Nat) : Nat := combineElems op fmt a [b]

/-- Bytes of an element of a reduction format. -/
def reduceSize (fmt : Nat) : Nat := if fmt = 2 then 2 else 4

/-- Data combined element by element, in the order of the list. -/
def combineAll (op fmt : Nat) (a : List Byte) (bs : List (List Byte)) : List Byte :=
  let n := reduceSize fmt
  (List.range (a.length / n)).flatMap fun i =>
    leBytes n (combineElems op fmt (leNat (slice a (n * i) n)) (bs.map fun b => leNat (slice b (n * i) n)))

/-- The data of two packets combined. -/
def combineBytes (op fmt : Nat) (a b : List Byte) : List Byte := combineAll op fmt a [b]

/-- COUNT, OP and FORMAT of a REDUCE packet, its data, and its constituents (R338, R359). -/
def Pkt.count (p : Pkt) : Nat := if p.kind = kReduceRetry then 0 else p.group % 256
def Pkt.redOp (p : Pkt) : Nat := getBits p.group 11 10
def Pkt.redFmt (p : Pkt) : Nat := getBits p.group 9 8
def Pkt.redData (p : Pkt) : List Byte := p.payload.take (p.len - 8 * p.count)
def Pkt.constituents (p : Pkt) : List (Nat × Nat) :=
  if p.count = 0 then [(p.src, p.txn)]
  else (List.range p.count).map fun i =>
    let w := leNat (slice p.payload (p.len - 8 * p.count + 8 * i) 8)
    (getBits w 61 48, getBits w 31 0)

/-- Two waiting packets can be pressed into one (R359), whose LEN stays within that of a packet (R310). -/
def pressable (p q : Pkt) : Bool :=
  p.kind == kReduce && q.kind == kReduce && !p.ordered && !q.ordered && p.dst == q.dst && p.addr == q.addr
    && p.offset == q.offset && p.total == q.total && p.redData.length == q.redData.length && p.epoch == q.epoch
    && p.group / 256 == q.group / 256 && decide (max 1 p.count + max 1 q.count ≤ 255)
    && decide (p.redData.length + 8 * (max 1 p.count + max 1 q.count) ≤ 4096)

/-- The merged packet: the header of the earlier, the data combined, the constituents of both (R359). -/
def pressPair (p q : Pkt) : Pkt :=
  let cs := p.constituents ++ q.constituents
  { p with group := p.group / 256 * 256 + cs.length
           payload := combineBytes p.redOp p.redFmt p.redData q.redData
             ++ cs.flatMap fun c => leBytes 8 (c.1 * 2 ^ 48 + c.2) }

/-- Two packets pressed, the one that arrived first as the earlier; of two that arrived together the first named counts as
the earlier (log entry 17). -/
def pressByArrival (p q : Pkt) : Pkt := if q.since < p.since then pressPair q p else pressPair p q

/-- A REDUCE packet pressed with those that wait at the head of the same channel at other inputs (log entry 17). -/
def State.press (s : State) (i : Nat) (p : Pkt) : State × Pkt :=
  if s.bit regRmeCtrl 0 ∧ p.kind = kReduce then
    ((List.range 25).filter (· != i)).foldl (fun (a : State × Pkt) j =>
      match a.1.headPkt j p.vc with
      | some q =>
        if pressable a.2 q ∧ a.1.epochOk q.epoch = true then
          (((a.1.takePkt j q).countIn q.epoch 1).creditFrame j, pressByArrival a.2 q)
        else a
      | none => a) (s, p)
  else (s, p)

/-- A packet handed to the device's own engines. -/
def State.deliver (s : State) (p : Pkt) : State := { s with rx := s.rx ++ [p] }

/-- A packet at an input may advance now: while VALID is 0 only a link-local one (R326), and in a stopped device only the
aborts that it sends (R385, R446). -/
def State.movable (s : State) (i : Nat) (p : Pkt) : Bool :=
  (s.deviceValid || p.linkLocal) && (!s.stopped || (i == 24 && p.kind == kAbort))

/-- The output that a packet at the head of its channel at an input waits for; none for one that is delivered here or
dropped. -/
def State.waitsAt (s : State) (i : Nat) (p : Pkt) : Option Nat :=
  if s.movable i p = false then none
  else if 32 ≤ p.port then (if p.hops ≤ 1 then none else some (p.port - 32))
  else if s.epochOk p.epoch = false ∨ p.tree = true ∨ p.dst = s.deviceId ∨ p.hops ≤ 1 then none
  else
    let r := s.route (p.epoch % 2) p.dst
    if routeValid r = false ∨ routePort r = 31 then none else some (s.outputOf p r)

/-- The packets of a channel at the heads of the inputs that wait for an output. -/
def State.waiters (s : State) (out vc : Nat) : List Pkt :=
  (List.range 25).filterMap fun i => (s.headPkt i vc).filter fun p => s.waitsAt i p == some out

/-- The fixed order in which an output serves its channels, and that order from the channel after the one served last
(R308). -/
def vcOrder : List Nat := [6, 7, 0, 1, 2, 3, 4, 5]
def vcsAfter (last : Nat) : List Nat :=
  match vcOrder.idxOf? last with
  | some i => vcOrder.drop (i + 1) ++ vcOrder.take (i + 1)
  | none => vcOrder

/-- The channel whose turn it is at an output: the next one in order with a packet and the credit for it (R308). -/
def State.vcTurn (s : State) (out : Nat) : Option Nat :=
  (vcsAfter (s.port out).lastVc).find? fun v =>
    (s.waiters out v).any fun p => ((s.port out).takeCredit v p.cells).isSome

/-- Some packet waits for an output. -/
def State.outputBusy (s : State) (out : Nat) : Bool := vcOrder.any fun v => !(s.waiters out v).isEmpty

/-- A packet leaves by an output in its channel's turn; when no other waits for that output, the frame in hand leaves
too (R296, R308). -/
def State.sendInTurn (s s0 : State) (out : Nat) (p : Pkt) : Option State :=
  if s0.vcTurn out = some p.vc then
    (s.sendOut out p).map fun z => if z.outputBusy out then z else z.sendFrames out true
  else none

/-! ### Fan entries (R354, R355) -/

/-- The fan entry of a source and TXN. -/
def State.fan? (s : State) (src txn : Nat) : Option Fan := s.rme.fans.find? fun f => f.src == src && f.txn == txn

/-- Bytes counted on one branch of a list. -/
def addLeft (b n : Nat) (l : List (Nat × Nat)) : List (Nat × Nat) := l.map fun x => if x.1 = b then (b, x.2 + n) else x

/-- TOTAL bytes have left by every branch. -/
def Fan.done (f : Fan) : Bool := (f.ports ++ f.locals).all fun x => decide (f.total ≤ x.2)

/-- A fan entry put back, or freed once TOTAL bytes have left by every branch (R355). -/
def State.setFan (s : State) (f : Fan) : State :=
  let rest := s.rme.fans.filter fun g => !(g.src == f.src && g.txn == f.txn)
  { s with rme := { s.rme with fans := if f.done then rest else rest ++ [f] } }

/-- A copy of multicast data has left by a port, or is dropped there. -/
def State.fanLeft (s : State) (p : Pkt) : State :=
  if p.kind = kMdata then
    match s.fan? p.src p.txn with
    | some f => s.setFan { f with ports := addLeft (p.port - 32) p.len f.ports }
    | none => s
  else s

/-- The first packet of a channel at an input advances, is delivered, or is dropped; none when it waits. -/
def State.forward (s : State) (i vc : Nat) : Option State :=
  match s.headPkt i vc with
  | none => none
  | some p =>
    if s.movable i p = false then none
    else
      let s1 := (s.takePkt i p).creditFrame i
      if 32 ≤ p.port then
        (if s.portState (p.port - 32) = 4 then some ((s1.dropPkt i p 4).fanLeft p)
         else if p.hops ≤ 1 then some ((s1.dropPkt i p 2).fanLeft p)
         else (s1.sendInTurn s (p.port - 32) p).map fun z => z.fanLeft p)
      else if s.epochOk p.epoch = false then some (s1.dropPkt i p 3)
      else if p.tree then (if s.treeRoom p then some (s1.deliver p) else none)
      else
        let r := s.route (p.epoch % 2) p.dst
        if p.dst = s.deviceId ∨ (routeValid r = true ∧ routePort r = 31) then
          let (s2, q) := s1.press i p
          some ((s2.countIn q.epoch 1).deliver q)
        else if routeValid r = false then some (s1.dropPkt i p 1)
        else if p.hops ≤ 1 then some (s1.dropPkt i p 2)
        else
          let (s2, q) := s1.press i p
          let out := s.outputOf p r
          match (s2.sendInTurn s out q).orElse fun _ => s1.sendInTurn s out p with
          | some s3 =>
            let det := adaptiveVc p.vc && out != routePort r
            some (if det ∧ i < 24 then s3.modPort i fun x => { x with sDetours := x.sDetours + 1 } else s3)
          | none => if s.portState (routePort r) = 4 then some (s1.dropPkt i p 4) else none

/-- PACKET_FORWARD: inputs 0 to 23 are the ports, input 24 the device's own injection. -/
def execPacketForward (inp vc : Nat) (s : State) : Result := attempt s fun s => s.forward inp vc

/-! ### Taking delivered packets -/

/-- The first delivered packet of one kind, and the state without it. -/
def State.takeRx (s : State) (kind : Nat) : Option (Pkt × State) :=
  match s.rx.find? fun p => p.kind == kind with
  | some p => some (p, { s with rx := dropFirst p s.rx })
  | none => none

/-- The first delivered packet of one kind from a source before which no ordered packet of that source waits
(R309, R339). -/
def State.takeOrdered (s : State) (kind : Nat) : Option (Pkt × State) :=
  match s.rx.find? fun p => p.kind == kind && (!p.ordered
      || (s.rx.takeWhile (· != p)).all fun q => !(q.ordered && q.src == p.src && q.vc == p.vc)) with
  | some p => some (p, { s with rx := dropFirst p s.rx })
  | none => none

/-! ### Routes and epochs (R320, R322, R324) -/

/-- ROUTE_REJECT. -/
def State.routeReject (s : State) : State := s.setBit regNswStatus 10 true

/-- A write of NSW_ROUTE(b, d) (R320). -/
def State.writeRoute (s : State) (b d v : Nat) : State :=
  if b = s.bank ∨ s.retirePending = true then s.routeReject
  else s.setReg (regNswRoute (16384 * b + d)) (v / 2 ^ 28 * 2 ^ 28)

/-- ROUTE_WRITE. -/
def execRouteWrite (b d : Nat) (v : Word) (s : State) : Result :=
  attempt s fun s => if s.ready = true ∧ b < 2 ∧ d < 16384 then some (s.writeRoute b d v.toNat) else none

/-- A write of NSW_EPOCH (R322). -/
def State.writeEpoch (s : State) (v : Nat) : State :=
  if s.halted 10 = false then (s.whWrite 10 id).routeReject
  else
    let e := getBits v 7 0
    if e = (s.epoch + 1) % 256 ∧ s.retirePending = false then
      (((s.setReg regNswEpoch e).setReg (regNswEpochOut (e % 2)) 0).setReg (regNswEpochIn (e % 2)) 0).setBit
        regNswStatus 9 true
    else s.routeReject

/-- NSW_EPOCH_WRITE. -/
def execNswEpochWrite (v : Word) (s : State) : Result :=
  attempt s fun s => if s.ready then some (s.writeEpoch v.toNat) else none

/-- A write of NSW_RETIRE (R324). -/
def State.writeRetire (s : State) (v : Nat) : State := if bitOf v 0 then s.setBit regNswStatus 9 false else s

/-- NSW_RETIRE_WRITE. -/
def execNswRetireWrite (v : Word) (s : State) : Result :=
  attempt s fun s => if s.ready then some (s.writeRetire v.toNat) else none

/-! ### Surveys (R328, R329) -/

/-- Cells of an input buffer in use. -/
def Port.cellsUsed (x : Port) : Nat := x.inbuf.foldl (fun n q => n + q.cells) 0

/-- INTERVAL_US in force. -/
def State.surveyUs (s : State) : Nat := max 10 (s.fld regNswSurveyCtrl 15 0)

/-- A port's record; its counts of blocked cycles are timing, which the model leaves free (log entry 5). -/
def State.surveyRecord (s : State) (p : Nat) : List Byte :=
  let x := s.port p
  leBytes 8 s.time ++ leBytes 1 p ++ leBytes 1 (s.portState p + 128 * b2n (s.bit (regFptPortStatus p) 1))
    ++ leBytes 2 x.sRetries ++ leBytes 4 x.sCorrected ++ x.sCells.flatMap (leBytes 4)
    ++ ((List.range 32).map fun i => Config.freeByte (s.free + i)) ++ leBytes 4 x.sPeak ++ leBytes 4 x.sDetours
    ++ leBytes 4 x.sDrops ++ zeros 36

/-- One port's record written and sent, and its counts cleared. -/
def State.surveyPort (s : State) (p : Nat) : State :=
  let rec_ := s.surveyRecord p
  let head := s.reg regNswSurveyHead
  let s1 := { s with free := s.free + 32 }
  let s2 := if head - s.reg regNswSurveyTail ≥ s.surveySlots then s1.setBit regNswStatus 11 true
    else (s1.putArea regNswSurveyBase (128 * (head % s.surveySlots)) rec_).setReg regNswSurveyHead (head + 1)
  let s3 := if s.bit regNswSurveyCtrl 48 ∧ s.deviceValid = true then
      s2.injectPkt { (Pkt.to (s.fld regNswSurveyCtrl 63 50) 7 kSurvey) with total := 128, payload := rec_ } else s2
  s3.modPort p fun x => { x with sRetries := 0, sCorrected := 0, sCells := List.replicate 8 0, sPeak := x.cellsUsed,
                                 sDetours := 0, sDrops := 0 }

/-- SURVEY_INTERVAL: once INTERVAL_US microseconds have passed since the last. -/
def execSurveyInterval (s : State) : Result :=
  attempt s fun s =>
    if s.sched.surveyAt + 1000 * s.surveyUs ≤ s.time ∧ s.ready = true ∧ s.stopped = false then
      let s1 := ((List.range 24).filter (portPresent s.variant)).foldl State.surveyPort s
      some { s1 with sched := { s1.sched with surveyAt := s.time } }
    else none

end Sys2Proof.Machine
end

