-- ==== Sys2Proof/Machine/Remote.lean ====
section
/-! DEFINITION. The Remote Memory Engine (R332 to R364): send windows, transfers and their packets, injection from the
request queues, what a target checks and applies, the replay window, and multicast stores. The rows whose effect
reaches into exchanges (`STORE`, `MDATA`, `ACK`, `DROP`, timeouts) stand in Machine/Exchange.lean. -/

namespace Sys2Proof.Machine

open Sys2Proof

/-! ### Settings (R364) -/

/-- HOLD_MS as it acts. -/
def State.rmeHold (s : State) : Nat := 1000000 * max 1 (s.fld regRmeCtrl 63 48)

/-- A write of RME_CTRL (R352). -/
def State.writeRmeCtrl (s : State) (v : Nat) : State :=
  s.whWrite 12 fun s =>
    let tries := getBits v 31 28 + 1
    if max 1 (getBits v 63 48) * 500 < tries * max 1 (getBits v 47 32) then s.setBit regRmeStatus 3 true
    else s.setReg regRmeCtrl (v / 2 ^ 28 * 2 ^ 28 + v % 2)

/-- RME_CTRL_WRITE. -/
def execRmeCtrlWrite (v : Word) (s : State) : Result :=
  attempt s fun s => if s.ready then some (s.writeRmeCtrl v.toNat) else none

/-! ### Send windows (R335, R336) -/

/-- A send window as a number. -/
def State.window (s : State) (i : Nat) : Nat := s.reg (regRmeSendWindow i) + s.reg (regRmeSendWindowHi i) * 2 ^ 64

/-- The bit of a send window for each kind of operation. -/
abbrev winReduce : Nat := 126
abbrev winAtomic : Nat := 125
abbrev winStore : Nat := 124
abbrev winLoad : Nat := 123

/-- A window is in force for a device and has the given bits set. -/
def State.windowFor (s : State) (i dev : Nat) (bits : List Nat) : Bool :=
  let w := s.window i
  bitOf w 127 && (bits.all fun b => bitOf w b) && decide (getBits w 120 107 ≤ dev ∧ dev ≤ getBits w 106 93)

/-- One window allows every line of `n` bytes at `a` on a device (R336). -/
def State.windowOk (s : State) (dev a n bit : Nat) : Bool :=
  (List.range 256).any fun i =>
    s.windowFor i dev [bit] && decide (getBits (s.window i) 43 0 ≤ a / 64 ∧ (a + n - 1) / 64 ≤ getBits (s.window i) 87 44)

/-- One window allows exchanges with a device (R336). -/
def State.windowExch (s : State) (dev : Nat) (load : Bool) : Bool :=
  (List.range 256).any fun i => s.windowFor i dev (if load then [winStore, winLoad] else [winStore])

/-! ### Transfers -/

/-- TXN of a transfer (R310, R334). -/
def Xfer.txn (x : Xfer) : Nat := x.queue * 2 ^ 29 + x.sn

/-- The transfer of a pre-empted task (R411). -/
def State.parkedXfer (s : State) (x : Xfer) : Bool :=
  match s.task? x.seq with
  | some t => (match t.phase with
    | .parked _ => true
    | _ => false)
  | none => false

/-- The `MSTORE` tasks of a queue with a transfer begun; each holds one entry, whatever its destinations (R333). -/
def State.mstoresOut (s : State) (q : Nat) : List Nat :=
  ((s.rme.xfers.filter fun x => x.queue == q && x.kind == kFanset && !x.exch && x.fansets.isSome && !s.parkedXfer x).map
    (·.seq)).eraseDups

/-- Outstanding packets of a queue, those of resumed tasks that its space does not hold yet among them (R333, R411,
R412). -/
def State.queueLoad (s : State) (q : Nat) : Nat :=
  (s.rme.xfers.filter fun x => x.queue == q && (x.kind != kFanset || x.exch) && !s.parkedXfer x).foldl
    (fun n x => n + x.reqs.length) (s.mstoresOut q).length

/-- Outstanding packets that a queue can hold. -/
abbrev queueMost : Nat := 512

/-- RME_QUEUE_OUT(q): the entries of a resumed task return to its queue as space allows (R333, R412). -/
def State.queueOut (s : State) (q : Nat) : Nat := min queueMost (s.queueLoad q)

/-- The transfer of a TXN. -/
def State.xfer? (s : State) (txn : Nat) : Option Xfer := s.rme.xfers.find? fun x => x.txn == txn

/-- A transfer put back in its place. -/
def State.setXfer (s : State) (x : Xfer) : State :=
  { s with rme := { s.rme with xfers := s.rme.xfers.map fun y => if y.txn = x.txn then x else y } }

/-- A new transfer, with the next sequence number of its queue (R334). -/
def State.addXfer (s : State) (x : Xfer) : State :=
  let sn := s.rme.nextSn.getD x.queue 0
  { s with rme := { s.rme with xfers := s.rme.xfers ++ [{ x with sn := sn }],
                               nextSn := s.rme.nextSn.set x.queue ((sn + 1) % 2 ^ 29) } }

/-- The transfers of a task. -/
def State.xfersOf (s : State) (seq : Nat) : List Xfer := s.rme.xfers.filter fun x => x.seq == seq

/-- The load stage that the transfers of a task hold. -/
def State.stageOf (s : State) (seq : Nat) : Nat :=
  (s.xfersOf seq).foldl (fun n x => if x.kind = kLoadReq ∧ x.dead = false then n + x.total else n) 0

/-- The transfers of a task taken away, and the load stage that they held. -/
def State.dropXfers (s : State) (seq : Nat) : State :=
  { s with rme := { s.rme with xfers := s.rme.xfers.filter (fun x => x.seq != seq)
                               stageUsed := s.rme.stageUsed - s.stageOf seq } }

/-- The transfers of a task that has failed: nothing more of them is sent, and packets that are outstanding stay so
(R333); a multicast's entry ends with its task. -/
def State.stopXfers (s : State) (seq : Nat) : State :=
  let stopped := s.rme.xfers.map fun x => if x.seq = seq then { x with dead := true, next := x.total } else x
  { s with rme := { s.rme with xfers := stopped.filter (fun x => x.seq != seq || (x.kind != kFanset && !x.reqs.isEmpty))
                               stageUsed := s.rme.stageUsed - s.stageOf seq } }

/-- A transfer with nothing sent. -/
def Xfer.fresh (t : Task) (dst kind addr total : Nat) (data : List Byte) : Xfer where
  seq := t.seq
  stream := t.stream
  queue := t.imm 18 16
  sn := 0
  dst := dst
  kind := kind
  code := 0
  ordered := t.imm 19 19 == 1
  acked := true
  exch := false
  addr := addr
  total := total
  data := data
  unit := 0
  fansets := none
  next := 0
  reqs := []
  dests := []
  lastSent := 0
  dead := false

/-- The largest transfer (R314). -/
abbrev xferMax : Nat := 2 ^ 31

/-- Where the pieces of `n` bytes begin, with their lengths (R334). -/
def pieces (n : Nat) : List (Nat × Nat) :=
  (List.range (ceilDiv n xferMax)).map fun i => (i * xferMax, min xferMax (n - i * xferMax))

/-! ### Failures (R337, R343, R344, R347, R364) -/

/-- RME_FAULT_INFO and RME_FAULT_ADDR recorded. -/
def State.rmeFault (s : State) (kind status queue dev addr : Nat) : State :=
  (s.setReg regRmeFaultInfo (1 <<< 31 + kind <<< 28 + status <<< 24 + queue <<< 21 + dev)).setReg regRmeFaultAddr addr

/-- A request of a transfer that is no longer outstanding. -/
def State.dropReq (s : State) (x : Xfer) (off : Nat) : State :=
  { s with rme := { s.rme with xfers := (s.rme.xfers.map fun y =>
      if y.txn = x.txn then { y with reqs := y.reqs.filter fun r => r.offset != off } else y).filter fun y =>
        y.txn != x.txn || !(decide (y.total ≤ y.next) && y.reqs.isEmpty) || !(y.dead || !y.acked) } }

/-- A packet of a transfer fails for good: its task ends, or, when a posted write has completed its task already, the
failure is counted and its stream is marked (R347). The task's other packets stay outstanding (R333). -/
def State.failXfer (s : State) (x : Xfer) (off err kind status dev addr : Nat) : State :=
  if x.dead then s.dropReq x off
  else if s.tasks.any (fun t => t.seq == x.seq && t.phase != .ended) then
    let s1 := (((s.rmeFault kind status x.queue dev addr).dropReq x off).stopXfers x.seq).endTask x.seq err 0
    if err = errRemoteTimeout then s1.addReg regRmeTimeouts 1 else s1
  else
    let s1 := ((s.rmeFault 5 0 x.queue dev addr).dropReq x off).addReg regRmePostedFails 1
    { s1 with rme := { s1.rme with postedFailed := setInsert x.stream s1.rme.postedFailed } }

/-! ### Request packets (R338) -/

/-- Payload bytes, or bytes asked for, of the packet at an offset: 4,096, or what is left of its range (R312). -/
def Xfer.lenAt (x : Xfer) (off : Nat) : Nat :=
  min 4096 (if x.unit = 0 then x.total - off else min (x.unit - off % x.unit) (x.total - off))

/-- The code of a retried packet (R343). -/
def retryKind (kind : Nat) : Nat := if kind = kReduce then kReduceRetry else if kind = kAtomic then kAtomicRetry else kind

/-- The request packet of a transfer at an offset. -/
def Xfer.packet (x : Xfer) (off kind : Nat) : Pkt :=
  { (Pkt.to x.dst (if x.exch then 3 else if x.ordered then 0 else 1) kind) with
      ordered := x.ordered, group := x.code, txn := x.txn, total := x.total, offset := off, addr := x.addr,
      payload := if x.kind = kLoadReq then [] else slice x.data off (x.lenAt off) }

/-- A request of a transfer sent again (R343, R344). -/
def State.resendReq (s : State) (x : Xfer) (r : Req) : State :=
  let x1 := { x with reqs := x.reqs.map fun y =>
    if y.offset = r.offset then { y with tries := y.tries + 1, sentAt := s.time, busyAt := none } else y }
  (((s.setXfer x1).injectPkt (x.packet r.offset (retryKind x.kind))).addReg regRmeRetries 1).addReg regRmePacketsOut 1

/-! ### Multicast stores (R353 to R357) -/

/-- The entries of a list of destinations (R289). -/
def destBytes (ds : List (Nat × Nat)) : List Byte := ds.flatMap fun d => leBytes 8 (d.1 * 2 ^ 50 + d.2)

/-- The destinations that a FANSET carries. -/
def Pkt.destList (p : Pkt) : List (Nat × Nat) :=
  (List.range (p.len / 8)).map fun i =>
    let w := leNat (slice p.payload (8 * i) 8)
    (w / 2 ^ 50, w % 2 ^ 50)

/-- The output of R317 for a destination of a multicast: 31 for this device, 30 where no route is valid. -/
def State.fanOut (s : State) (p : Pkt) (dev : Nat) : Nat :=
  if dev = s.deviceId then 31
  else
    let r := s.route (p.epoch % 2) dev
    if routeValid r then (if routePort r = 31 then 31 else s.outputOf { p with dst := dev } r) else 30

/-- The destination whose route is the longest, as the DST of a multicast packet. -/
def State.farthest (s : State) (ds : List Nat) : Nat :=
  ds.foldl (fun b d => if routeHops (s.route s.bank b) < routeHops (s.route s.bank d) then d else b) (ds.headD 0)

/-- A multicast data or FANSET packet of a transfer. -/
def Xfer.fanPacket (x : Xfer) (dst kind off : Nat) (payload : List Byte) : Pkt :=
  { (Pkt.to dst 3 kind) with mcast := kind == kMdata, txn := x.txn, total := x.total, offset := off, addr := x.addr,
                             payload := payload }

/-- The FANSET packets of a transfer: one for each output, of at most 511 entries (R353). -/
def State.fansets (s : State) (x : Xfer) : List Pkt :=
  let ds := x.dests.map fun d => (d.1, d.2.1)
  let probe : Pkt := { (Pkt.to 0 3 kFanset) with epoch := s.injectEpoch }
  (List.range 32).flatMap fun o =>
    (chunks 511 (ds.filter fun d => s.fanOut probe d.1 == o)).map fun c =>
      x.fanPacket (s.farthest (c.map (·.1))) kFanset 0 (destBytes c)

/-! ### Injection (R333) -/

/-- The task of a transfer has all its packets injected. -/
def State.allInjected (s : State) (seq : Nat) : Bool := (s.xfersOf seq).all fun x => decide (x.total ≤ x.next)

/-- A transfer may inject: those of exchanges already entered go on while a halt of the switch waits for their close
(R321). -/
def State.mayInject (s : State) (x : Xfer) : Bool :=
  s.injectOpen || (x.exch && s.halting 10 && s.deviceValid && !s.stopped)

/-- The first transfer of a queue with a packet to inject (R333). -/
def State.nextXfer (s : State) (q : Nat) : Option Xfer :=
  s.rme.xfers.find? fun x => x.queue == q && decide (x.next < x.total) && !s.parkedXfer x && s.mayInject x

/-- A queue can inject its next packet now (R321, R324, R333). -/
def State.queueReady (s : State) (q : Nat) : Bool :=
  match s.nextXfer q with
  | some x => !(x.ordered && s.retirePending) && (decide (s.queueLoad q < queueMost) || (x.kind == kFanset && x.reqs != []))
  | none => false

/-- The queue whose turn it is: the next one in round robin with a packet (R333). -/
def State.queueTurn (s : State) : Option Nat :=
  ((List.range 8).map fun i => (s.rme.rr + 1 + i) % 8).find? s.queueReady

/-- A posted write ends its task when its last packet is injected (R347). -/
def State.settlePosted (s : State) (x : Xfer) : State :=
  if x.acked = false ∧ s.allInjected x.seq = true then
    match s.task? x.seq with
    | some t => if t.phase = .running then s.endTask x.seq 0 0 else s
    | none => s
  else s

/-- One outstanding packet. -/
def Req.sent (off len now : Nat) : Req where
  offset := off
  len := len
  sentAt := now
  tries := 0
  busyAt := none
  entry := 0
  reply := none

/-- One packet of a multicast transfer injected: its FANSETs, one for each turn, before its data (R333, R353, R355). It
holds one outstanding entry. -/
def State.injectFan (s : State) (x : Xfer) : State :=
  match x.fansets.getD (s.fansets x) with
  | p :: rest =>
    let x1 := { x with fansets := some rest, reqs := [Req.sent 0 x.total s.time] }
    ((s.setXfer x1).injectPkt p).addReg regRmePacketsOut 1
  | [] =>
    let n := x.lenAt x.next
    let p := x.fanPacket (s.farthest (x.dests.map (·.1))) kMdata x.next (slice x.data x.next n)
    ((s.setXfer { x with next := x.next + n, lastSent := s.time }).injectPkt p).addReg regRmePacketsOut 1

/-- One packet of a transfer injected. -/
def State.injectXfer (s : State) (x : Xfer) : State :=
  if x.kind = kFanset then s.injectFan x
  else
    let n := x.lenAt x.next
    let x1 := { x with next := x.next + n, reqs := x.reqs ++ [Req.sent x.next n s.time] }
    (((s.setXfer x1).injectPkt (x.packet x.next x.kind)).addReg regRmePacketsOut 1).settlePosted x1

/-- RME_INJECT: the queue whose turn it is injects one packet. -/
def execRmeInject (q : Nat) (s : State) : Result :=
  attempt s fun s =>
    if s.queueTurn = some q then
      match s.nextXfer q with
      | some x =>
        let z := s.injectXfer x
        some { z with rme := { z.rme with rr := q } }
      | none => none
    else none

/-! ### The instructions (R289, R290) -/

/-- A remote task can issue: its queue has room, and a load finds its stage (R333, R345). -/
def State.remoteOk (s : State) (t : Task) : Bool :=
  decide (s.queueLoad (t.imm 18 16) < queueMost)
    && (t.opcode != opRload || decide (s.rme.stageUsed + (t.op 0).span ≤ 8388608))

/-- The destinations of a task: device and address. -/
def State.remoteDests (s : State) (t : Task) : List (Nat × Nat) :=
  if t.opcode = opMstore then
    (List.range (t.op 1).d0).map fun i =>
      let w := s.uint (t.op 1) i 0 0
      (w / 2 ^ 50, w % 2 ^ 50)
  else [(t.imm 13 0, t.x 1 63 0)]

/-- The transfers of a task: destination, address, length (R334). -/
def State.remoteParts (s : State) (t : Task) : List (Nat × Nat × Nat) :=
  let ps := if t.opcode = opRatomic then [(0, if t.imm 28 28 = 0 then 4 else 8)] else pieces (t.op 0).span
  (s.remoteDests t).flatMap fun d => ps.map fun p => (d.1, d.2 + p.1, p.2)

/-- The window bit of an instruction (R335). -/
def windowBit (op : Nat) : Nat :=
  if op = opRload then winLoad else if op = opRatomic then winAtomic else if op = opRreduce then winReduce else winStore

/-- A route to a device exists: its own, or a valid one (R315, R319, R326). -/
def State.reachable (s : State) (dev : Nat) : Bool :=
  s.deviceValid && (dev == s.deviceId || routeValid (s.route (s.injectEpoch % 2) dev))

/-- The source bytes of a task are read poisoned (R423). -/
def State.sourcePoison (s : State) (t : Task) : Bool :=
  let a := t.op 0
  (t.opcode == opRstore || t.opcode == opMstore || t.opcode == opRreduce) && s.anyPoison a.base a.span

/-- The transfers of a task put into its queue (R334). -/
def State.startXfers (s : State) (t : Task) : State :=
  let a := t.op 0
  let op := t.opcode
  let dst := t.imm 13 0
  let addr := t.x 1 63 0
  if op = opRatomic then
    let data := leBytes 16 (t.x 2 127 0)
    s.addXfer { Xfer.fresh t dst kAtomic addr 16 data with code := t.imm 27 24 <<< 8 + t.imm 28 28 <<< 7 }
  else
    let fmt := (t.op 0).fmt
    let code := t.imm 27 24 <<< 10 + (if fmt = fmtInt32 then 0 else if fmt = fmtFp32 then 1 else 2) <<< 8
    let s1 := (pieces a.span).foldl (fun z p =>
      let data := if op = opRload then zeros p.2 else s.rdBytes (a.base + p.1) p.2
      let x := Xfer.fresh t dst kStore (addr + p.1) p.2 data
      if op = opRload then z.addXfer { x with kind := kLoadReq }
      else if op = opRstore then z.addXfer { x with acked := t.imm 20 20 == 1 }
      else if op = opRreduce then z.addXfer { x with kind := kReduce, code := code, acked := t.imm 20 20 == 1 }
      else z.addXfer { x with kind := kFanset, addr := 0, dests := (s.remoteDests t).map fun d =>
        (d.1, d.2 + p.1, false) }) s
    if op = opRload then { s1 with rme := { s1.rme with stageUsed := s1.rme.stageUsed + a.span } } else s1

/-- The work of a remote instruction at issue: the window check, the poison of what it reads, and its transfers. -/
def State.startRemote (s : State) (t : Task) : State :=
  let q := t.imm 18 16
  let lst := t.opcode == opMstore && s.rowPoison (t.op 1) 0 0
  if lst then s.endTask t.seq errPoison 0
  else match (s.remoteParts t).find? fun d => !s.windowOk d.1 d.2.1 d.2.2 (windowBit t.opcode) with
    | some d => (s.rmeFault 1 0 q d.1 d.2.1).endTask t.seq errSendWindow 0
    | none =>
      match (s.remoteParts t).find? fun d => !s.reachable d.1 with
      | some d => (s.rmeFault 2 0 q d.1 d.2.1).endTask t.seq errUnreachable 0
      | none => if s.sourcePoison t then s.endTask t.seq errPoison 0 else s.startXfers t

/-- A remote task issued by its row. -/
def State.launchRemote (s : State) (seq op : Nat) : Option State :=
  match s.task? seq with
  | some t => if s.remoteOk t then s.launch seq op 0 State.startRemote else none
  | none => none

/-- RLOAD. -/
def execRload (seq : Nat) (s : State) : Result := attempt s fun s => s.launchRemote seq opRload

/-- RSTORE. -/
def execRstore (seq : Nat) (s : State) : Result := attempt s fun s => s.launchRemote seq opRstore

/-- MSTORE. -/
def execMstore (seq : Nat) (s : State) : Result := attempt s fun s => s.launchRemote seq opMstore

/-- RATOMIC. -/
def execRatomic (seq : Nat) (s : State) : Result := attempt s fun s => s.launchRemote seq opRatomic

/-- RREDUCE. -/
def execRreduce (seq : Nat) (s : State) : Result := attempt s fun s => s.launchRemote seq opRreduce

/-! ### Completion at the source (R342, R345, R357, R411) -/

/-- A transfer needs nothing more. -/
def Xfer.complete (x : Xfer) : Bool := decide (x.total ≤ x.next) && x.reqs.isEmpty

/-- The mask of an `MSTORE`: bit j when destination j has acknowledged every piece (R289). -/
def maskOf (n : Nat) (xs : List Xfer) : Nat :=
  (List.range n).foldl (fun m j => if xs.all (fun x => (x.dests.getD j (0, 0, false)).2.2) then m + 2 ^ j else m) 0

/-- An `MSTORE` ends: its mask is written (R290, R357). -/
def State.endMstore (s : State) (t : Task) : State :=
  let n := (t.op 1).d0
  let xs := s.xfersOf t.seq
  let m := maskOf n xs
  let s1 := s.putBytes (t.op 2).base (leBytes (ceilDiv n 8) m)
  let missed := (List.range n).find? fun j => !bitOf m j
  match missed with
  | none => ((s1.scrambleOverlaps t).dropXfers t.seq).endTask t.seq 0 0
  | some j =>
    let d := (xs.head?.map (·.dests)).getD []
    let v := d.getD j (0, 0, false)
    (((s1.scrambleOverlaps t).rmeFault 6 0 (t.imm 18 16) v.1 v.2.1).dropXfers t.seq).endTask t.seq errMultiPartial 0

/-- A remote task whose transfers are all complete ends, unless it is pre-empted. -/
def State.settleRemote (s : State) (seq : Nat) : State :=
  match s.task? seq with
  | none => { s with rme := { s.rme with xfers := s.rme.xfers.filter fun x => x.seq != seq || !x.complete } }
  | some t =>
    let xs := s.xfersOf seq
    if t.phase = .ended then { s with rme := { s.rme with xfers := s.rme.xfers.filter fun x => x.seq != seq || !x.complete } }
    else if t.phase = .running ∧ isRemote t.opcode = true ∧ xs ≠ [] then
      if t.opcode = opMstore then
        (if xs.all fun x => decide (x.total ≤ x.next) && x.dests.all (·.2.2) then s.endMstore t else s)
      else if xs.all Xfer.complete then
        let out := xs.flatMap (·.data)
        let s1 := if t.opcode = opRload then s.putBytes (t.op 0).base out
          else if t.opcode = opRatomic then s.putBytes (t.op 0).base (out.take (t.op 0).span) else s
        (s1.dropXfers seq).endTask seq 0 0
      else s
    else s

/-- The slot of a pre-empted transfer's task. -/
def State.slotOfXfer (s : State) (x : Xfer) : Option Nat :=
  match s.task? x.seq with
  | some t => (match t.phase with
    | .parked n => some n
    | _ => none)
  | none => none

/-- A request changed. -/
def State.modReq (s : State) (x : Xfer) (off : Nat) (f : Req → Req) : State :=
  s.setXfer { x with reqs := x.reqs.map fun r => if r.offset = off then f r else r }

/-- A reply written to the slot of a pre-empted task: its record holds status, arrival flag and old value, and load data
goes to the parked data at its OFFSET (R410, R411; log entry 38). -/
def State.parkReply (s : State) (x : Xfer) (n off status : Nat) (data : List Byte) : State :=
  let e := ((x.reqs.find? fun r => r.offset == off).map (·.entry)).getD 0
  let base := s.reg regSchCtxBase + 327680 * n
  let s1 := (s.modReq x off fun r => { r with reply := some (status, data) }).putBytes (base + 20480 + 16 * e)
    (leBytes 1 status ++ leBytes 1 1 ++ zeros 6 ++ (if x.kind = kAtomic then padTo 8 data else zeros 8))
  if x.kind = kLoadReq then s1.putBytes (base + 28672 + off) data else s1

/-- A request that its reply has completed. -/
def State.endReq (s : State) (x : Xfer) (off : Nat) (data : List Byte) : State :=
  let bytes := if data = [] then x.data else x.data.take off ++ data ++ x.data.drop (off + data.length)
  (s.setXfer { x with reqs := x.reqs.filter (fun r => r.offset != off), data := bytes }).settleRemote x.seq

/-- A reply acted on: OK completes its request, and any other status ends the task (R337). -/
def State.actReply (s : State) (x : Xfer) (off status : Nat) (data : List Byte) : State :=
  if status = 0 ∨ x.dead = true then s.endReq x off data
  else s.failXfer x off errTargetStatus 4 status x.dst (x.addr + off)

/-- A reply to an outstanding request. BUSY has the request sent again later (R350); a pre-empted task's reply is parked
(R411). -/
def State.takeReply (s : State) (x : Xfer) (off status : Nat) (data : List Byte) : State :=
  if status = 4 then s.modReq x off fun r => { r with busyAt := some s.time }
  else match s.slotOfXfer x with
    | some n => s.parkReply x n off status data
    | none => s.actReply x off status data

/-- The first reply parked for a task that runs again. -/
def State.parkedReply (s : State) : Option (Xfer × Req × Nat × List Byte) :=
  s.rme.xfers.findSome? fun x =>
    if s.parkedXfer x then none
    else x.reqs.findSome? fun r => r.reply.map fun y => (x, r, y.1, y.2)

/-- A resumed task takes up the replies parked for it (R412). -/
def State.takeUp (s : State) : Nat → State
  | 0 => s
  | f + 1 =>
    match s.parkedReply with
    | none => s
    | some (x, r, st, data) => (if x.kind = kFanset then s.failXfer x r.offset errTargetStatus 4 st x.dst x.addr
        else s.actReply x r.offset st data).takeUp f

/-- Every resumed task takes up its replies. -/
def State.takeUpReplies (s : State) : State := s.takeUp (s.rme.xfers.foldl (fun n x => n + x.reqs.length) 0)

/-- A packet whose OFFSET + LEN exceeds TOTAL is discarded and recorded (R313). -/
def State.protocolFault (s : State) (p : Pkt) : State :=
  s.record { kind := 0x0C, scope := 0, action := 0, unit := unitWord 38 12, addr := p.addr, detail := p.src }

/-- LOAD_DATA (R345). -/
def State.takeLoadData (s : State) (p : Pkt) : State :=
  if p.total < p.offset + p.len then s.protocolFault p
  else match s.xfer? p.txn with
    | none => s
    | some x =>
      if x.kind = kLoadReq ∧ (x.reqs.any fun r => r.offset == p.offset && r.reply.isNone) = true then
        s.takeReply x p.offset (p.group % 16) p.payload
      else s

def execLoadData (s : State) : Result :=
  attempt s fun s => (s.takeRx kLoadData).map fun r => r.2.takeLoadData r.1

/-- ATOMIC_REPLY (R342): the old value takes the place of the operand. -/
def State.takeAtomicReply (s : State) (p : Pkt) : State :=
  match s.xfer? p.txn with
  | none => s
  | some x =>
    if x.kind = kAtomic ∧ (x.reqs.any fun r => r.reply.isNone) = true then
      s.takeReply x 0 (p.group % 16) (p.payload.take 8)
    else s

def execAtomicReply (s : State) : Result :=
  attempt s fun s => (s.takeRx kAtomicReply).map fun r => r.2.takeAtomicReply r.1

/-! ### What a target checks (R332, R337) -/

/-- An address that a remote request may name (R332). -/
def remotePlace : Place → Bool
  | .hbm => true
  | .program _ => true
  | .local_ _ _ => true
  | .window => true
  | _ => false

/-- The status of a request over `n` bytes at `a`, poison apart (R337). -/
def State.targetStatus (s : State) (a n : Nat) (write atomic : Bool) : Nat :=
  if (linesOf a n).any fun l => !remotePlace (s.place (max a (l * 64))) then 1
  else if atomic && (linesOf a n).any fun l => s.place (max a (l * 64)) == .window then 2
  else if write && (linesOf a n).any fun l => s.place (max a (l * 64)) == .hbm && s.writeProtected (l * 64) then 2
  else 0

/-- NOT_WRITABLE records the access fault of R227. -/
def State.statusFault (s : State) (st a : Nat) : State := if st = 2 then s.accessFault a else s

/-- An answer to a request. -/
def State.answer (s : State) (p : Pkt) (kind status dst txn : Nat) (payload : List Byte) : State :=
  s.injectPkt { (Pkt.to dst 2 kind) with group := status, txn := txn, total := p.total, offset := p.offset, addr := p.addr,
                                         payload := payload }

/-- A LOAD_REQ served (R338, R345). -/
def State.serveLoad (s : State) (p : Pkt) : State :=
  if p.total ≤ p.offset then s.protocolFault p
  else
    let n := min 4096 (p.total - p.offset)
    let a := p.addr + p.offset
    let st := s.targetStatus a n false false
    if st ≠ 0 then s.answer p kLoadData st p.src p.txn []
    else s.answer p kLoadData (if s.anyPoison a n then 3 else 0) p.src p.txn (s.rdBytes a n)

/-- LOAD_REQ. -/
def execLoadReq (s : State) : Result :=
  attempt s fun s => (s.takeOrdered kLoadReq).map fun r => r.2.serveLoad r.1

/-! ### The replay window (R349, R350) -/

/-- A sequence number lies above a floor, modulo 2²⁹ over a half range (R349). -/
def aboveFloor (floor sn : Nat) : Bool :=
  let d := (sn + 2 ^ 29 - floor) % 2 ^ 29
  decide (0 < d ∧ d < 2 ^ 28)

/-- The floor of a source and queue; none before an eviction. -/
def State.floor? (s : State) (src q : Nat) : Option Nat :=
  (s.rme.floors.find? fun f => f.1 == src && f.2.1 == q).map (·.2.2)

/-- A key is fresh: it lies above the floor of its source and queue. -/
def State.freshKey (s : State) (src txn : Nat) : Bool :=
  match s.floor? src (txn / 2 ^ 29) with
  | some f => aboveFloor f (txn % 2 ^ 29)
  | none => true

/-- The window entry of a key. -/
def State.replay? (s : State) (src txn off : Nat) : Option Replay :=
  s.rme.window.find? fun e => e.src == src && e.txn == txn && e.offset == off

/-- The oldest entry evicted, and the floor of its source and queue raised. -/
def State.evictReplay (s : State) : State :=
  match s.rme.window with
  | [] => s
  | e :: rest =>
    let q := e.txn / 2 ^ 29
    let sn := e.txn % 2 ^ 29
    let f := match s.floor? e.src q with
      | some f => if aboveFloor f sn then sn else f
      | none => sn
    { s with rme := { s.rme with window := rest, floors := (s.rme.floors.filter fun g =>
        !(g.1 == e.src && g.2.1 == q)) ++ [(e.src, q, f)] } }

/-- Room made for `n` entries, by at most `f` evictions; none when entries too young to evict stand in the way (R350). -/
def State.replayRoom (s : State) (n : Nat) : Nat → Option State
  | 0 => if s.rme.window.length + n ≤ 65536 then some s else none
  | f + 1 =>
    if s.rme.window.length + n ≤ 65536 then some s
    else match s.rme.window.head? with
      | some e => if e.time + s.rmeHold ≤ s.time then s.evictReplay.replayRoom n f else none
      | none => none

/-- An applied packet recorded. -/
def State.recordReplay (s : State) (src txn off status old : Nat) : State :=
  { s with rme := { s.rme with window := s.rme.window ++ [⟨src, txn, off, s.time, status, old⟩] } }

/-! ### Atomics (R289, R340, R349) -/

/-- The new value of an atomic of `w` bits. -/
def atomicOp (op w old arg cmp : Nat) : Nat :=
  let m := 2 ^ w
  let x := toSigned w old
  let y := toSigned w arg
  match op with
  | 0 => (old + arg) % m
  | 1 => old &&& arg
  | 2 => old ||| arg
  | 3 => old ^^^ arg
  | 4 => if y < x then arg else old
  | 5 => if x < y then arg else old
  | 6 => min old arg
  | 7 => max old arg
  | 8 => arg
  | _ => if old = cmp then arg else old

/-- An ATOMIC or ATOMIC_RETRY packet: the cached reply, STALE, BUSY, a status, or the operation applied. -/
def State.serveAtomic (s : State) (p : Pkt) : State :=
  if p.total < p.offset + p.len then s.protocolFault p
  else match s.replay? p.src p.txn p.offset with
  | some e => (s.addReg regRmeReplayHits 1).answer p kAtomicReply e.status p.src p.txn (leBytes 8 e.old)
  | none =>
    let n := if bitOf p.group 7 then 8 else 4
    let none_ (z : State) (st : Nat) : State :=
      { (z.answer p kAtomicReply st p.src p.txn ((List.range 8).map fun i => Config.freeByte (z.free + i))) with free := z.free + 8 }
    if s.freshKey p.src p.txn = false then none_ (s.addReg regRmeStale 1) 5
    else
      let st := s.targetStatus p.addr n true true
      if st ≠ 0 then none_ (s.statusFault st p.addr) st
      else if s.anyPoison p.addr n then none_ s 3
      else match s.replayRoom 1 1 with
        | none => none_ s 4
        | some s1 =>
          let old := s1.rdNat p.addr n
          let arg := leNat (slice p.payload 0 n)
          let cmp := leNat (slice p.payload 8 n)
          let s2 := s1.putBytes p.addr (leBytes n (atomicOp (getBits p.group 11 8) (8 * n) old arg cmp))
          (s2.recordReplay p.src p.txn p.offset 0 old).answer p kAtomicReply 0 p.src p.txn (leBytes 8 old)

/-- ATOMIC. -/
def execAtomic (s : State) : Result :=
  attempt s fun s => (s.takeOrdered kAtomic).map fun r => r.2.serveAtomic r.1

/-- ATOMIC_RETRY. -/
def execAtomicRetry (s : State) : Result :=
  attempt s fun s => (s.takeOrdered kAtomicRetry).map fun r => r.2.serveAtomic r.1

/-! ### Reductions (R340, R349, R360, R361) -/

/-- One ACK to the source of every constituent. -/
def State.ackAll (s : State) (p : Pkt) (status : Nat) : State :=
  p.constituents.foldl (fun z c => z.answer p kAck status c.1 c.2 []) s

/-- A REDUCE or REDUCE_RETRY packet. -/
def State.serveReduce (s : State) (p : Pkt) : State :=
  let cs := p.constituents
  let data := p.redData
  let a := p.addr + p.offset
  let s0 := if p.count = 0 then s else s.addReg regRmePressed p.count
  if p.total < p.offset + data.length then s0.protocolFault p
  else match s0.replay? p.src p.txn p.offset with
    | some e => if p.count = 0 then (s0.addReg regRmeReplayHits 1).ackAll p e.status else s0
    | none =>
      if cs.any fun c => !s0.freshKey c.1 c.2 then (s0.addReg regRmeStale cs.length).ackAll p 5
      else
        let st := s0.targetStatus a data.length true true
        if st ≠ 0 then (s0.statusFault st a).ackAll p st
        else if s0.anyPoison a data.length then s0.ackAll p 3
        else match s0.replayRoom cs.length cs.length with
          | none => s0.ackAll p 4
          | some s1 =>
            let s2 := s1.putBytes a (combineBytes p.redOp p.redFmt (s1.rdBytes a data.length) data)
            (cs.foldl (fun z c => z.recordReplay c.1 c.2 p.offset 0 0) s2).ackAll p 0

/-- REDUCE. -/
def execReduce (s : State) : Result :=
  attempt s fun s => (s.takeOrdered kReduce).map fun r => r.2.serveReduce r.1

/-- REDUCE_RETRY. -/
def execReduceRetry (s : State) : Result :=
  attempt s fun s => (s.takeOrdered kReduceRetry).map fun r => r.2.serveReduce r.1

/-! ### Stores (R340) -/

/-- A STORE packet outside an exchange, applied and acknowledged. -/
def State.serveStore (s : State) (p : Pkt) : State :=
  if p.total < p.offset + p.len then s.protocolFault p
  else
    let a := p.addr + p.offset
    let st := s.targetStatus a p.len true false
    if st ≠ 0 then (s.statusFault st a).answer p kAck st p.src p.txn []
    else (s.putBytes a p.payload).answer p kAck 0 p.src p.txn []

/-! ### Fan entries (R354 to R356) -/

/-- A FANSET at this switch (R354, R356). -/
def State.serveFanset (s : State) (p : Pkt) : State :=
  let half := halfOf p.port
  let full := decide (512 ≤ (s.rme.fans.filter fun f => f.half == half).length)
  let f0 : Option Fan := match s.fan? p.src p.txn with
    | some f => some f
    | none => if full then none else some ⟨p.src, p.txn, [], [], half, p.total⟩
  match f0 with
  | none => (s.addReg regNswDrops 1).countIn p.epoch 1
  | some f =>
    let ds := p.destList
    let at_ (o : Nat) := ds.filter fun d => s.fanOut p d.1 == o
    let outs := (List.range 24).filter fun o => !(at_ o).isEmpty
    let f1 := { f with ports := f.ports ++ (outs.filter fun o => !f.ports.any (·.1 == o)).map (·, 0)
                       locals := f.locals ++ (at_ 31).map fun d => (d.2, 0) }
    let s1 := outs.foldl (fun z o => z.injectOn o { p with payload := destBytes (at_ o) }) (s.setFan f1)
    let lost := at_ 30
    let s2 := if lost = [] then s1 else s1.dropPkt 24 { p with payload := destBytes lost } 1
    s2.countCopies p.epoch (outs.length + b2n (!lost.isEmpty))

/-- FANSET. -/
def execFanset (s : State) : Result :=
  attempt s fun s => (s.takeRx kFanset).map fun r => r.2.serveFanset r.1

end Sys2Proof.Machine
end

