-- ==== Sys2Proof/Machine/Collective.lean ====
section
/-! DEFINITION. Collectives (R365 to R389, R393, R394): entry and signature, merging at a tree node, results, the
tack path, the ring all-gather, aborts, closing, and step records. Incoming collective packets are taken from the
packets that the switch has delivered. -/

namespace Sys2Proof.Machine

open Sys2Proof

/-! ### Settings and signatures -/

/-- SIG: the first 48 bits of SHAKE256 over a signature record (R371). -/
def sigOf (rec_ : List Byte) : Nat := leNat (shake256 6 rec_)

/-- The signature record of a collective on a group (R371). -/
def collRecord (kind op fmt path group root cseq gdigest elems : Nat) : List Byte :=
  leBytes 1 kind ++ leBytes 1 op ++ leBytes 1 fmt ++ leBytes 1 path ++ leBytes 2 group ++ leBytes 2 root ++ leBytes 4 cseq
    ++ leBytes 4 gdigest ++ leBytes 8 elems ++ zeros 8

/-- The ADDR field of a collective packet: SIG in header bits [95:48], bit [46] marks a closing with members missing
(R372). -/
def addrOf (sig : Nat) (missing : Bool) : Nat := sig * 4 + b2n missing
def Pkt.sig (p : Pkt) : Nat := p.addr / 4
def Pkt.cseq18 (p : Pkt) : Nat := p.txn / 2 ^ 14
def Pkt.step (p : Pkt) : Nat := p.txn % 2 ^ 14

/-- OP and FORMAT of the data of a tree packet, carried in DST, which a tree packet does not use (log entry 18): OP 0
SUM, 1 MIN, 2 MAX, 3 disjoint blocks joined. -/
def treeDst (op rfmt : Nat) : Nat := op * 4 + rfmt
def Pkt.treeOp (p : Pkt) : Nat := p.dst / 4 % 4
def Pkt.treeFmt (p : Pkt) : Nat := p.dst % 4

/-- The reduction format of an element format (R338). -/
def redFmtOf (fmt : Nat) : Nat := if fmt = fmtInt32 then 0 else if fmt = fmtFp32 then 1 else 2

/-! ### Byte streams of operands -/

/-- A piece of a stream: where it begins in the stream, its length, and its address. -/
abbrev Seg := Nat × Nat × Nat

/-- Addresses and lengths laid end to end as a stream. -/
def layOut (rs : List (Nat × Nat)) : List Seg :=
  (rs.foldl (fun (p : List Seg × Nat) r => (p.1 ++ [(p.2, r.2, r.1)], p.2 + r.2)) ([], 0)).1

/-- The ranges of rows [lo, hi) of every matrix of an operand: elements, then block scales. Of a form without rows they
are the same share of each matrix's bytes (R381). -/
def rowRanges (d : Desc) (lo hi : Nat) : List (Nat × Nat) :=
  if d.rowless then
    let w := d.scaleSpan false / d.d2
    (d.planes.map fun r => (r.1 + r.2 * lo / d.d1, r.2 * (hi - lo) / d.d1))
      ++ (if d.scaled then (List.range d.d2).map fun z =>
          (d.scaleBase + z * w + w * lo / d.d1, w * (hi - lo) / d.d1) else [])
  else
    let ys := (List.range (hi - lo)).map (lo + ·)
    ((List.range d.d2).flatMap fun z => ys.map fun y => (d.row y z, d.rowBytes))
      ++ (if d.scaled then (List.range d.d2).flatMap fun z => ys.map fun y => (d.rowScale y z, ceilDiv d.d0 32) else [])

/-- A stream read. -/
def State.readSegs (s : State) (rs : List (Nat × Nat)) : List Byte := rs.flatMap fun r => s.rdBytes r.1 r.2

/-- Bytes [off, off + n) of a stream written where its pieces lie. -/
def State.putSegs (s : State) (segs : List Seg) (off : Nat) (bs : List Byte) : State :=
  segs.foldl (fun z g =>
    let lo := max off g.1
    let hi := min (off + bs.length) (g.1 + g.2.1)
    if lo < hi then z.putBytes (g.2.2 + (lo - g.1)) (slice bs (lo - off) (hi - lo)) else z) s

/-- A stream is read poisoned somewhere. -/
def State.segsPoison (s : State) (rs : List (Nat × Nat)) : Bool := rs.any fun r => s.anyPoison r.1 r.2

/-! ### The collective that a task enters (R283, R291, R371) -/

/-- What a task's collective does. -/
structure CollSpec where
  group : Nat
  kind : Nat
  op : Nat
  fmt : Nat
  root : Nat
  elems : Nat
  /-- The contribution's operand and rows, when this member has one. -/
  src : Option (Desc × Nat × Nat)
  /-- The bytes that the path is chosen by (R374). -/
  bytes : Nat
  deriving DecidableEq, Repr

/-- The collective of a `COLLECT` task. -/
def collectSpec (t : Task) : CollSpec :=
  let kind := t.imm 15 12
  let a := t.op 0
  let b := t.op 1
  if kind = 4 then ⟨t.imm 11 0, 4, 0, 0, 0, 0, none, 0⟩
  else if kind = 3 then ⟨t.imm 11 0, 3, 0, b.fmt, t.imm 35 20, b.count, (t.op? 0).map fun d => (d, 0, d.d1), operandBytes b false⟩
  else ⟨t.imm 11 0, kind, if kind = 2 then 0 else t.imm 19 16, a.fmt, 0, a.count, some (a, 0, a.d1), operandBytes a false⟩

/-- The collective of a fused form (R283): STAGE for `.AR` and `.RS`, this member's rows of C for `.AG`. -/
def State.fusedSpec (s : State) (t : Task) : CollSpec :=
  let g := t.x 1 11 0
  let m := (t.op 0).d1
  let c := t.op 2
  let st := t.op 4
  if t.form = 3 then
    let i := s.grpRank g
    ⟨g, 2, 0, c.fmt, 0, c.d0 * m, some (c, i * m, (i + 1) * m), operandBytes c false / s.grpM g⟩
  else ⟨g, t.form - 1, 0, st.fmt, 0, st.count, some (st, 0, st.d1), st.bytesTotal⟩

/-- The collective of a task. -/
def State.collSpec (s : State) (t : Task) : CollSpec := if t.opcode = opCollect then collectSpec t else s.fusedSpec t

/-- The ranges of a member's contribution. -/
def CollSpec.ranges (c : CollSpec) : List (Nat × Nat) :=
  match c.src with
  | some (d, lo, hi) => rowRanges d lo hi
  | none => []

/-- Where the result stream of a collective is written on this member (R283, R291, R379, R381). For a gather, `rank`
names the block. -/
def State.resultSegs (s : State) (t : Task) (c : CollSpec) (rank : Nat) : List Seg :=
  let m := s.grpM c.group
  if t.opcode = opCollect then
    let b := t.op 1
    let a := t.op 0
    if c.kind = 0 ∨ c.kind = 3 then layOut (rowRanges b 0 b.d1)
    else if c.kind = 1 then
      let sh := shard a.d1 m (s.grpRank c.group)
      (layOut ((List.range a.d2).flatMap fun z => (List.range a.d1).map fun y => (z * a.d1 + y, a.rowBytes))).filterMap fun g =>
        let y := g.2.2 % a.d1
        let z := g.2.2 / a.d1
        if sh.1 ≤ y ∧ y < sh.2 then some (g.1, g.2.1, b.row (y - sh.1) z) else none
    else if c.kind = 2 then layOut (rowRanges b (rank * a.d1) ((rank + 1) * a.d1))
    else []
  else
    let st := t.op 4
    if c.kind = 0 then layOut (rowRanges st 0 st.d1)
    else if c.kind = 1 then
      let sh := shard st.d1 m (s.grpRank c.group)
      (layOut (rowRanges st 0 st.d1)).filter fun g => decide (sh.1 * st.rowBytes ≤ g.1 ∧ g.1 < sh.2 * st.rowBytes)
    else
      let rows := (t.op 0).d1
      layOut (rowRanges (t.op 2) (rank * rows) ((rank + 1) * rows))

/-! ### The list of collectives -/

/-- A collective as a node first hears of it. -/
def Coll.fresh (group cseq : Nat) : Coll where
  group := group
  cseq := cseq
  task := none
  stream := 0
  kind := 0
  op := 0
  fmt := 0
  path := 0
  sig := 0
  entered := false
  entryTime := 0
  firstTime := none
  resultTime := none
  lastResult := none
  inputs := []
  merged := []
  upBytes := 0
  upDone := false
  committed := false
  aborted := 0
  got := []
  gotBytes := 0
  doneFrom := []
  doneSelf := false
  doneSent := false
  doneTime := none
  closed := false
  taskEnded := false
  stake := false

/-- The collective of a group and CSEQ (modulo 2¹⁸). -/
def State.coll? (s : State) (g c18 : Nat) : Option Coll :=
  s.col.colls.find? fun c => c.group == g && c.cseq % 2 ^ 18 == c18

/-- A collective put back, or added. -/
def State.setColl (s : State) (c : Coll) : State :=
  let same (x : Coll) : Bool := x.group == c.group && x.cseq == c.cseq
  let l := if s.col.colls.any same then s.col.colls.map (fun x => if same x then c else x) else s.col.colls ++ [c]
  { s with col := { s.col with colls := l } }

/-- A collective taken off the list. -/
def State.dropColl (s : State) (c : Coll) : State :=
  { s with col := { s.col with colls := s.col.colls.filter fun x => !(x.group == c.group && x.cseq == c.cseq) } }

/-- The collective of a task. -/
def State.taskColl (s : State) (seq : Nat) : Option Coll := s.col.colls.find? fun c => c.task == some seq

/-- COL_GROUP_CSEQ(g). -/
def State.groupCseq (s : State) (g : Nat) : Nat := s.reg (regColGroupCseq g) % 2 ^ 32

/-- A recorded abort of a collective not yet entered (R387). -/
def State.earlyAbort (s : State) (g cseq : Nat) : Option (Nat × Nat) :=
  (s.col.early.find? fun e => e.1 == g && e.2.1 == cseq).map fun e => e.2.2

/-- The ports of a group's tree: children in ascending number, and the parent (R365). -/
def State.childPorts (s : State) (g : Nat) : List Nat := (List.range 24).filter fun n => bitOf (s.grpChildren g) n
def State.parentPort (s : State) (g : Nat) : Option Nat := if s.grpParent g < 24 then some (s.grpParent g) else none
def State.treePorts (s : State) (g : Nat) : List Nat := s.childPorts g ++ (s.parentPort g).toList

/-- DEVICE of the partner at a port (R368). -/
def State.peerDevice (s : State) (p : Nat) : Nat := s.fld (regFptPortPeer p) 13 0

/-- The inputs of a node in the order of R368: 24 stands for its own contribution. -/
def State.nodeInputs (s : State) (g : Nat) : List Nat :=
  (if s.grpLocal g then [24] else [])
    ++ sortBy (fun a b => decide (s.peerDevice a < s.peerDevice b)) (s.childPorts g)

/-! ### Packets of a collective (R372) -/

/-- The virtual channel of a collective packet. -/
def collVc (kind : Nat) : Nat :=
  if kind = kContrib ∨ kind = kDone then 4 else if kind = kResult ∨ kind = kClosed then 5
  else if kind = kTackUp ∨ kind = kTackDown then 6 else if kind = kAbort then 7 else 3

/-- Packets that are replicated along the tree of their group carry MCAST (R310). -/
def replicated (kind : Nat) : Bool := kind == kResult || kind == kTackDown || kind == kClosed || kind == kAbort

/-- SIG of a collective at a node: the one it formed at entry, or the reference of its merge, which is that of its first
input in the order of R368 (R372, R373). -/
def State.collSig (s : State) (c : Coll) : Nat :=
  if c.entered ∨ c.sig ≠ 0 then c.sig
  else (((s.nodeInputs c.group).findSome? fun i => c.inputs.find? fun p => p.port == i).map Pkt.sig).getD 0

/-- A tree packet of a collective, with the hop limit of the tree. -/
def State.treePkt (s : State) (c : Coll) (kind : Nat) : Pkt :=
  { (Pkt.to 0 (collVc kind) kind) with
      src := s.deviceId, epoch := s.injectEpoch, group := c.group, hops := min 63 (s.grpDepth c.group + 8),
      mcast := replicated kind, txn := c.cseq % 2 ^ 18 * 2 ^ 14, addr := addrOf (s.collSig c) false }

/-- A packet put into the injection queue for this device's own node. -/
def State.injectLocal (s : State) (p : Pkt) : State :=
  { s with inject := s.inject ++ [{ p with port := 24 }] }.countOut p.epoch 1

/-! ### Step records and failures (R386, R393, R394) -/

/-- The step record of a collective that ends on this device, and its lag. -/
def State.collStep (s : State) (c : Coll) (first err : Nat) : State :=
  let d := s.grpDepth c.group
  let w := first - c.entryTime
  let limit := (if c.path = 2 then 300 else 300 * d) + s.fld regColCtrl 31 16
  let lag := decide (w ≤ limit)
  let s1 := if lag then s.addReg regColLagCount 1 else s
  s1.stepRecord c.group c.kind c.path c.cseq c.entryTime first err d lag

/-- COL_ABORT_INFO. -/
def State.abortInfo (s : State) (group cseq err culprit : Nat) (named : Bool) : State :=
  s.setReg regColAbortInfo (1 <<< 63 + (err % 16) <<< 59 + culprit <<< 45 + (b2n named) <<< 44 + group <<< 32 + cseq % 2 ^ 32)

/-- The RRU's record of a member that failed (log entry 18). -/
def State.memberRecord (s : State) (dev : Nat) : State :=
  s.record { kind := 0x0C, scope := 0, action := 0, unit := unitWord 38 13, detail := dev }

/-- Held input packets freed. -/
def State.freeInputs (s : State) (c : Coll) : State := c.inputs.foldl (fun z p => z.countIn p.epoch 1) s

/-- This device's task of a collective completes ABORTED (R386). One that has not entered has its abort's time as that of
its entry (R393). -/
def State.abortTask (s : State) (c : Coll) (err : Nat) : State :=
  match c.task with
  | some q =>
    if (s.task? q).any (fun t => t.phase != .ended) && !c.taskEnded then
      let s1 := { s with runs := s.runs.filter (fun r => r.seq != q), vblocks := s.vblocks.filter fun b => b.seq != q }
      ((s1.endTask q err 0).addReg regColAborts 1).collStep (if c.entered then c else { c with entryTime := s.time }) s.time err
    else s
  | none => s

/-- COL_GROUP_CSEQ(g) goes past a collective that this device aborts without entering it (R387). -/
def State.passCseq (s : State) (c : Coll) : State := s.setReg (regColGroupCseq c.group) ((c.cseq + 1) % 2 ^ 32)

/-- The payload of an ABORT (R386; log entry 18). -/
def abortBytes (err culprit : Nat) (named : Bool) : List Byte := leBytes 2 err ++ leBytes 2 culprit ++ leBytes 4 (b2n named)

/-- A collective aborted at this node: ABORT over every tree edge but the one it came by, this member's task ended,
its entries freed. A member that has not entered records the abort for its task, or ends a task that waits for its stake and
passes the CSEQ (R386, R387). -/
def State.abortColl (s : State) (c : Coll) (err culprit : Nat) (named : Bool) (from_ : Nat) : State :=
  let p := { s.treePkt c kAbort with total := 8, payload := abortBytes err culprit named }
  let outs := (s.treePorts c.group).filter (· != from_)
  let s1 := outs.foldl (fun z o => (z.injectOn o p).countOut p.epoch 1) s
  let s2 := (s1.freeInputs c).abortInfo c.group c.cseq err culprit named
  let s3 := s2.abortTask c err
  let s4 := s3.setColl { c with aborted := err, inputs := [], stake := false, closed := true }
  if c.entered = true ∨ s.grpLocal c.group = false then s4
  else if c.task.isSome then s4.passCseq c
  else { s4 with col := { s4.col with early := s4.col.early ++ [(c.group, c.cseq, err, culprit)] } }

/-! ### Results on a member (R379, R380, R382) -/

/-- The fabric part of a task is over: a `COLLECT` ends, a fused form goes on with its vector phase (R282, R283). -/
def State.endColl (s : State) (c : Coll) : State :=
  match c.task with
  | none => s
  | some q =>
    match s.task? q with
    | none => s
    | some t =>
      let first := c.resultTime.getD s.time
      let s1 := (s.setColl { c with taskEnded := true }).collStep c first 0
      if t.opcode = opCollect then (s1.scrambleOverlaps t).endTask q 0 0
      else if t.form = 3 then s1.settleCore q
      else
        let n := (t.op 0).d1
        let sh := if t.form = 2 then shard n (s.grpM c.group) (s.grpRank c.group) else (0, n)
        let per := ceilDiv (t.op 2).d0 16384
        let blocks : List VBlock := (List.range ((sh.2 - sh.1) * per)).map fun i =>
          { seq := q, proj := 3, expert := 0, blk := 0, row := sh.1 + i / per, piece := i % per,
            owner := (s.physical (t.grantLo + i % (t.grantHi - t.grantLo))).getD 0 }
        { s1 with vblocks := s1.vblocks ++ blocks }.settleCore q

/-- A result packet taken by this member (R379, R382): its bytes written, and the end when every byte has come. -/
def State.takeResult (s : State) (c : Coll) (p : Pkt) : State :=
  match c.task with
  | none => s
  | some q =>
    match s.task? q with
    | none => s
    | some t =>
      if c.taskEnded ∨ c.got.contains (p.offset, 0) = true then s
      else
        let spec := s.collSpec t
        let one := if spec.bytes = 0 then 1 else spec.bytes
        let s1 := if c.kind = 2 then
            (List.range (s.grpM c.group)).foldl (fun z r => z.putSegs (s.resultSegs t spec r) 0
              (slice p.payload (r * one) spec.bytes)) s
          else s.putSegs (s.resultSegs t spec 0) p.offset p.payload
        let c1 := { c with got := c.got ++ [(p.offset, 0)], gotBytes := c.gotBytes + p.len,
                           resultTime := some (c.resultTime.getD s.time), lastResult := some s.time }
        let s2 := s1.setColl c1
        if p.total ≤ c1.gotBytes then s2.endColl c1 else s2

/-- A result at a node, which shows that the collective has committed: copied to the children, and delivered here (R379,
R380). -/
def State.spreadResult (s : State) (c0 : Coll) (p : Pkt) : State :=
  let c := { c0 with committed := true }
  let s := s.setColl c
  let outs := s.childPorts c.group
  let here := s.grpLocal c.group
  let s1 := (outs.foldl (fun z o => z.injectOn o { p with hops := p.hops }) s).countCopies p.epoch (outs.length + b2n here)
  if here then (s1.countIn p.epoch 1).takeResult c p else s1

/-! ### Merging at a node (R368, R373, R376 to R378, R382) -/

/-- Data combined at a node: a reduction, rounded once, or disjoint blocks joined (R378). -/
def treeCombine (op rfmt : Nat) (a : List Byte) (bs : List (List Byte)) : List Byte :=
  if op = 3 then bs.foldl (List.zipWith (· ||| ·)) a else combineAll op rfmt a bs

/-- The packet of an input at an offset, or its header-only packet. -/
def Coll.inputAt (c : Coll) (i off : Nat) : Option Pkt :=
  c.inputs.find? fun p => p.port == i && (p.offset == off || p.total == 0)

/-- An input has sent a header-only packet. -/
def Coll.headerOnly (c : Coll) (i : Nat) : Bool := c.inputs.any fun p => p.port == i && p.total == 0

/-- The offset that a node can merge next: every input that sends data has sent it (R376). -/
def Coll.nextMerge (c : Coll) (ins : List Nat) : Option Nat :=
  let data := ins.filter fun i => !c.headerOnly i
  match data with
  | [] => if c.merged.isEmpty && !ins.isEmpty then some 0 else none
  | i :: _ => ((c.inputs.filter fun p => p.port == i).map (·.offset)).find? fun o =>
      !c.merged.contains o && data.all fun j => (c.inputAt j o).isSome

/-- The merged packet of an offset. -/
def Coll.mergeAt (c : Coll) (ins : List Nat) (off : Nat) : Option Pkt :=
  let ps := ins.filterMap fun i => c.inputAt i off
  match ps with
  | [] => none
  | ref :: _ =>
    match ps.filter (·.total != 0) with
    | [] => some ref
    | q :: qs =>
      some { q with src := ref.src, addr := ref.addr,
                    payload := treeCombine q.treeOp q.treeFmt q.payload (qs.map (·.payload)) }

/-- One offset merged: sent to the parent, or turned into results at the root, which commits the collective (R379,
R380). -/
def State.sendMerged (s : State) (c : Coll) (ins : List Nat) (off : Nat) (m : Pkt) : State :=
  let used := c.inputs.filter fun p => ins.contains p.port && (p.offset == off && p.total != 0)
  let heads := if c.merged.isEmpty then c.inputs.filter fun p => p.total == 0 else []
  let up := c.upBytes + m.len
  let c1 := { c with merged := c.merged ++ [off], upBytes := up, upDone := decide (m.total ≤ up), sig := m.sig
                     inputs := c.inputs.filter fun p => !(used.contains p) }
  let s1 := (s.setColl c1).countIn m.epoch (used.length + heads.length - 1)
  match s.parentPort c.group with
  | some o => s1.injectOn o { m with hops := min 63 (s.grpDepth c.group + 8) }
  | none =>
    let kind := if m.kind = kTackUp then kTackDown else kResult
    let c2 := { c1 with committed := true }
    (s1.setColl c2).spreadResult c2 { m with kind := kind, vc := collVc kind, mcast := true, hops := min 63 (s.grpDepth c.group + 8) }

/-- Every offset that can be merged. -/
def State.mergeAll (s : State) (g cseq : Nat) (ins : List Nat) : Nat → State
  | 0 => s
  | f + 1 =>
    match s.coll? g (cseq % 2 ^ 18) with
    | none => s
    | some c =>
      match c.nextMerge ins with
      | none => s
      | some off =>
        match c.mergeAt ins off with
        | none => s
        | some m => (s.sendMerged c ins off m).mergeAll g cseq ins f

/-- The first input, in the order of R368, whose SIG differs from the reference (R373). -/
def Coll.seam (c : Coll) (ins : List Nat) : Option Pkt :=
  let firsts := ins.filterMap fun i => c.inputs.find? fun p => p.port == i
  match firsts with
  | [] => none
  | r :: rest => rest.find? fun p => p.sig != r.sig

/-- A node merges once every input has sent its first packet and the seam check holds (R373). -/
def State.tryMerge (s : State) (c : Coll) : State :=
  let ins := s.nodeInputs c.group
  let ready := !c.merged.isEmpty || ins.all fun i => c.inputs.any fun p => p.port == i
  if ready = false ∨ c.aborted ≠ 0 then s
  else match (if c.merged.isEmpty then c.seam ins else none) with
    | some p => (s.abortColl c errSeamMismatch p.src true 99).addReg regColSeamFaults 1
    | none => s.mergeAll c.group c.cseq ins (c.inputs.length + 2)

/-- How far a packet's CSEQ lies ahead of the count of its group, modulo 2¹⁸. -/
def State.aheadBy (s : State) (p : Pkt) : Nat := (p.cseq18 + 2 ^ 18 - s.groupCseq p.group % 2 ^ 18) % 2 ^ 18

/-- Packets of a collective that has ended here, or that this device has passed, are discarded and counted (R386); those of
a later one wait for it. -/
def State.stalePkt (s : State) (p : Pkt) : Bool :=
  match s.coll? p.group p.cseq18 with
  | some c => c.aborted != 0
  | none =>
    (s.col.early.any fun e => e.1 == p.group && e.2.1 % 2 ^ 18 == p.cseq18)
      || (s.grpLocal p.group && decide (2 ^ 17 ≤ s.aheadBy p))

/-- A discarded collective packet. -/
def State.discardPkt (s : State) (p : Pkt) : State := (s.addReg regColDiscards 1).countIn p.epoch 1

/-- The collective of an arriving packet, opened when it is new here; aborted ones of the group before the last are
forgotten. -/
def State.openFor (s : State) (p : Pkt) : State × Coll :=
  match s.coll? p.group p.cseq18 with
  | some c => (s, c)
  | none =>
    let cseq := if s.grpLocal p.group then (s.groupCseq p.group + s.aheadBy p) % 2 ^ 32 else p.cseq18
    let c := Coll.fresh p.group cseq
    let old (x : Coll) : Bool := x.group == p.group && x.aborted != 0 && (x.cseq + 1) % 2 ^ 18 != p.cseq18
    let s1 := { s with col := { s.col with colls := s.col.colls.filter fun x => !old x } }
    (s1.setColl c, c)

/-- A CONTRIB or TACK_UP packet at this node. -/
def State.takeContrib (s : State) (p : Pkt) : State :=
  if p.total < p.offset + p.len then (s.countIn p.epoch 1).protocolFault p
  else if s.stalePkt p then s.discardPkt p
  else
    let (s1, c) := s.openFor p
    let path := if c.entered then c.path else if p.kind = kTackUp then 0 else 1
    let c1 := { c with inputs := c.inputs ++ [p], firstTime := some (c.firstTime.getD s.time), path := path }
    (s1.setColl c1).tryMerge c1

/-- CONTRIB. -/
def execContrib (s : State) : Result := attempt s fun s => (s.takeRx kContrib).map fun r => r.2.takeContrib r.1

/-- TACK_UP. -/
def execTackUp (s : State) : Result := attempt s fun s => (s.takeRx kTackUp).map fun r => r.2.takeContrib r.1

/-- A RESULT or TACK_DOWN packet at this node. -/
def State.takeDown (s : State) (p : Pkt) : State :=
  if p.total < p.offset + p.len then (s.countIn p.epoch 1).protocolFault p
  else match s.coll? p.group p.cseq18 with
    | some c => if c.aborted ≠ 0 then s.discardPkt p else s.spreadResult c p
    | none => s.discardPkt p

/-- RESULT. -/
def execResult (s : State) : Result := attempt s fun s => (s.takeRx kResult).map fun r => r.2.takeDown r.1

/-- TACK_DOWN. -/
def execTackDown (s : State) : Result := attempt s fun s => (s.takeRx kTackDown).map fun r => r.2.takeDown r.1

/-! ### Entry (R369 to R371, R374, R387, R388) -/

/-- A task whose collective has a recorded abort ends at once and passes the CSEQ (R387). -/
def State.abortEarly (s : State) (c : Coll) (err : Nat) : State :=
  ({ s with col := { s.col with early := s.col.early.filter fun x => !(x.1 == c.group && x.2.1 == c.cseq) } }.passCseq c).abortTask
    c err

/-- The collective of a task that issues, as this node knows it so far. -/
def State.collOf (s : State) (t : Task) : Coll :=
  let spec := s.collSpec t
  let g := spec.group
  let cseq := s.groupCseq g
  { (s.coll? g (cseq % 2 ^ 18)).getD (Coll.fresh g cseq) with
      task := some t.seq, stream := t.stream, kind := spec.kind, op := spec.op, fmt := spec.fmt
      path := s.collPath g spec.kind spec.bytes }

/-- The wait for a stake begins, or a recorded abort ends the task at once (R387). -/
def State.openTask (s : State) (t : Task) : State :=
  let c := s.collOf t
  if s.deviceValid = false then s.endTask t.seq errUnreachable 0
  else match s.earlyAbort c.group c.cseq with
    | some e => s.abortEarly c e.1
    | none => (s.setColl c).requestCollStake t.seq

/-- A fused form issued: a recorded abort of its collective ends it at once (R387), and otherwise its array work begins. -/
def State.startFused (s : State) (t : Task) : State :=
  let c := s.collOf t
  match s.earlyAbort c.group c.cseq with
  | some e => s.abortEarly c e.1
  | none => s.startDmm t

/-- DMM.AR. -/
def execDmmAr (seq : Nat) (s : State) : Result := attempt s fun s => s.launch seq opDmm 1 State.startFused

/-- DMM.RS. -/
def execDmmRs (seq : Nat) (s : State) : Result := attempt s fun s => s.launch seq opDmm 2 State.startFused

/-- DMM.AG. -/
def execDmmAg (seq : Nat) (s : State) : Result := attempt s fun s => s.launch seq opDmm 3 State.startFused

/-- A `COLLECT` of one KIND issued. -/
def State.launchCollect (s : State) (seq kind : Nat) : Option State :=
  match s.task? seq with
  | some t => if t.imm 15 12 = kind then s.launch seq opCollect 0 fun x t => x.openTask t else none
  | none => none

/-- COLLECT, ALL_REDUCE. -/
def execCollectAllReduce (seq : Nat) (s : State) : Result := attempt s fun s => s.launchCollect seq 0

/-- COLLECT, REDUCE_SCATTER. -/
def execCollectReduceScatter (seq : Nat) (s : State) : Result := attempt s fun s => s.launchCollect seq 1

/-- COLLECT, ALL_GATHER. -/
def execCollectAllGather (seq : Nat) (s : State) : Result := attempt s fun s => s.launchCollect seq 2

/-- COLLECT, BROADCAST. -/
def execCollectBroadcast (seq : Nat) (s : State) : Result := attempt s fun s => s.launchCollect seq 3

/-- COLLECT, BARRIER. -/
def execCollectBarrier (seq : Nat) (s : State) : Result := attempt s fun s => s.launchCollect seq 4

/-- The packets of a member's contribution: 4,096 bytes each, or one header-only packet (R312, R376, R388). -/
def contribPkts (base : Pkt) (data : List Byte) : List Pkt :=
  if data = [] then [base]
  else (List.range (ceilDiv data.length 4096)).map fun i =>
    { base with total := data.length, offset := 4096 * i, payload := slice data (4096 * i) 4096 }

/-- The packets of a block of a ring all-gather at a step, toward NEXT (R381). -/
def State.ringPkts (s : State) (c : Coll) (step : Nat) (data : List Byte) : List Pkt :=
  contribPkts { (Pkt.to (s.grpNext c.group) 3 kRing) with
    group := c.group, addr := addrOf c.sig false, txn := c.cseq % 2 ^ 18 * 2 ^ 14 + step } data

/-! ### The ring (R381, R384) -/

/-- The first delivered RING packet that this device can take: of a collective that it has entered or can hear of, or a
stale one. -/
def State.takeRing (s : State) : Option (Pkt × State) :=
  match s.rx.find? fun p => p.kind == kRing && (s.grpLocal p.group || s.stalePkt p) with
  | some p => some (p, { s with rx := dropFirst p s.rx })
  | none => none

/-- A block's packet taken by a member that has entered: written, and forwarded at the next step. -/
def State.ringBlock (s : State) (c : Coll) (t : Task) (p : Pkt) : State :=
  let m := s.grpM c.group
  let rank := (s.grpRank c.group + 2 * m - p.step - 1) % m
  let spec := s.collSpec t
  let s1 := s.putSegs (s.resultSegs t spec rank) p.offset p.payload
  let c1 := { c with got := c.got ++ [(p.offset, p.step)], gotBytes := c.gotBytes + p.len,
                     resultTime := some (c.resultTime.getD s.time), lastResult := some s.time }
  let s2 := s1.setColl c1
  let s3 := if p.step + 1 ≤ m - 2 then
      s2.injectPkt { p with dst := s.grpNext c.group, txn := p.txn + 1, addr := addrOf c.sig false } else s2
  if (m - 1) * p.total ≤ c1.gotBytes then s3.endColl c1 else s3

/-- A RING packet of a collective: one that arrives before this member has entered is kept, and starts its timer (R384). -/
def State.ringInput (s : State) (p : Pkt) : State :=
  let (s1, c) := s.openFor p
  if c.aborted ≠ 0 then s1.addReg regColDiscards 1
  else if c.entered = false then
    s1.setColl { c with inputs := c.inputs ++ [p], firstTime := some (c.firstTime.getD s.time), path := 2 }
  else if p.sig ≠ c.sig then (s1.abortColl c errSeamMismatch p.src true 99).addReg regColSeamFaults 1
  else if c.taskEnded ∨ c.got.contains (p.offset, p.step) = true then s1
  else match c.task.bind s1.task? with
    | none => s1
    | some t => s1.ringBlock c t p

/-- A RING packet. -/
def State.serveRing (s : State) (p : Pkt) : State :=
  if p.total < p.offset + p.len then s.protocolFault p
  else if s.stalePkt p then s.addReg regColDiscards 1
  else s.ringInput p

/-- RING. -/
def execRing (s : State) : Result := attempt s fun s => s.takeRing.map fun r => r.2.serveRing r.1

/-! ### The entry itself -/

/-- The entry itself: CSEQ advanced, SIG formed, the contribution sent. -/
def State.enterColl (s : State) (t : Task) (c : Coll) : State :=
  let spec := s.collSpec t
  let g := spec.group
  let m := s.grpM g
  let path := s.collPath g spec.kind spec.bytes
  let sig := sigOf (collRecord spec.kind spec.op spec.fmt path g (if spec.kind = 3 then spec.root else 0) c.cseq
    (s.grpDigest g) spec.elems)
  let held := c.inputs.filter fun p => p.kind == kRing
  let c1 := { c with kind := spec.kind, op := spec.op, fmt := spec.fmt, path := path, sig := sig, entered := true,
                     entryTime := s.time, firstTime := some (c.firstTime.getD s.time)
                     inputs := c.inputs.filter fun p => p.kind != kRing }
  let s1 := ((s.setColl c1).setReg (regColGroupCseq g) ((c.cseq + 1) % 2 ^ 32)).addReg regColEntered 1
  let data := s.readSegs spec.ranges
  if path = 2 then
    let own := s1.putSegs (s.resultSegs t spec (s.grpRank g)) 0 data
    if m ≤ 1 then own.endColl { c1 with resultTime := some s.time }
    else held.foldl State.ringInput ((s.ringPkts c1 0 data).foldl State.injectPkt own)
  else
    let rank := s.grpRank g
    let body := if spec.kind = 2 then zeros (rank * data.length) ++ data ++ zeros ((m - 1 - rank) * data.length) else data
    let op := if spec.kind = 2 then 3 else spec.op
    let up := if path = 0 then kTackUp else kContrib
    let base := { s.treePkt c1 up with dst := treeDst op (redFmtOf spec.fmt) }
    let ps := if path = 0 then [{ base with total := body.length, payload := body }] else contribPkts base body
    ps.foldl State.injectLocal s1

/-- The entry of a task on a group: a fused form whose contribution is complete first asks for its stake (R369, R452); a task that
holds its stake enters. One that reads poison ends without entering; the inputs that this node holds, and their timer, stay
(R384). -/
def State.enterTask (s : State) (seq : Nat) : Option State :=
  match s.task? seq with
  | none => none
  | some t =>
    if t.phase ≠ .running ∨ collGroup t = none then none
    else match s.taskColl seq with
      | none =>
        if t.opcode = opDmm ∧ s.coreWorkDone seq = true then
          (if t.err = errPoison then some (s.endTask seq errPoison 0) else some (s.openTask t))
        else none
      | some c =>
        if c.entered = false ∧ c.stake = true ∧ s.injectOpen = true ∧ ¬ (s.halted 13 ∨ s.halting 13) then
          (if s.segsPoison (s.collSpec t).ranges then
            some ((if c.inputs.isEmpty then s.dropColl c else s.setColl { c with task := none, stake := false }).endTask seq
              errPoison 0)
           else some (s.enterColl t c))
        else none

/-! ### Aborts and timeouts (R384 to R387) -/

/-- An ABORT of a group's collective at this node. -/
def State.serveAbort (s : State) (p : Pkt) : State :=
  let err := leNat (slice p.payload 0 2)
  let culprit := leNat (slice p.payload 2 2)
  let named := leNat (slice p.payload 4 4) != 0
  if s.stalePkt p then s.discardPkt p
  else
    let (s1, c) := s.openFor p
    if c.committed then s1.discardPkt p
    else (s1.countIn p.epoch 1).abortColl c err culprit named p.port

/-- The missing input of a collective: the lowest port, 24 for this device's own entry, 25 for the ring's. -/
def State.missingInput (s : State) (c : Coll) : Option Nat :=
  if c.path = 2 then (if c.entered = false then some 24 else if c.got.isEmpty then some 25 else none)
  else if !c.merged.isEmpty then none
  else ((s.childPorts c.group) ++ [24]).find? fun i =>
    (s.nodeInputs c.group).contains i && !c.inputs.any fun p => p.port == i

/-- When a member's results have stopped: TIMEOUT_US after the last, or, with none at all, after the time in which every
node between it and the root would have timed out, a choice of the model (R380; log entry 18). -/
def State.resultsDue (s : State) (c : Coll) : Nat :=
  match c.lastResult with
  | some a => a + s.colTimeout
  | none => c.entryTime + (s.grpDepth c.group + 1) * s.colTimeout

/-- COLLECTIVE_TIMEOUT: inputs still missing TIMEOUT_US after the first, or results that stopped arriving (R380,
R384). -/
def State.timeoutColl (s : State) (c : Coll) : Option State :=
  match s.missingInput c with
  | some i =>
    if c.firstTime.any fun a => a + s.colTimeout ≤ s.time then
      let dev := if i = 24 then s.deviceId else if i = 25 then s.grpPrev c.group else s.peerDevice i
      some ((s.abortColl c errCollTimeout dev true 99).addReg regColTimeouts 1)
    else none
  | none =>
    if c.task.isSome ∧ c.entered = true ∧ c.taskEnded = false ∧ s.resultsDue c ≤ s.time then
      let s1 := (s.abortTask c errMemberFailed).abortInfo c.group c.cseq errMemberFailed 0 false
      some ((s1.setColl { c with taskEnded := true, aborted := errMemberFailed, closed := true, stake := false }).memberRecord 0)
    else none

def execCollectiveTimeout (g : Nat) (s : State) : Result :=
  attempt s fun s =>
    match s.col.colls.find? fun c => c.group == g && c.aborted == 0 && (s.timeoutColl c).isSome with
    | some c => s.timeoutColl c
    | none => none

/-- A tree port failed, or a member's device stopped: collectives that have not committed abort, naming the neighbour
(R385). -/
def State.failTreePort (s : State) (port : Nat) : State :=
  (s.col.colls.filter fun c => c.aborted == 0 && !c.committed && !c.taskEnded && (s.treePorts c.group).contains port).foldl
    (fun z c => z.abortColl c errMemberFailed (s.peerDevice port) true port) s

/-! ### Closing (R389) -/

/-- A member whose task has completed sends DONE toward the root. -/
def State.memberDone (s : State) (seq : Nat) : State :=
  match s.taskColl seq with
  | some c =>
    if c.taskEnded = true ∧ c.doneSelf = false ∧ c.aborted = 0 then
      (s.setColl { c with doneSelf := true }).injectLocal (s.treePkt c kDone)
    else s
  | none => s

/-- A collective closed here: its stake released, and its entry gone. A member whose task still waits for results ends it
with MEMBER_FAILED; a closing with members missing is recorded by the root and by every member (R380, R389). -/
def State.closeColl (s : State) (c : Coll) (missing : Bool) : State :=
  let s1 := if c.task.isSome ∧ c.taskEnded = false then (s.abortTask c errMemberFailed).memberRecord 0
    else if missing ∧ (c.entered = true ∨ (s.parentPort c.group).isNone = true) then
      (s.collStep c (c.resultTime.getD s.time) errMemberFailed).memberRecord 0
    else s
  s1.dropColl c

/-- CLOSED sent down the tree by a node, and taken here. -/
def State.spreadClosed (s : State) (c : Coll) (p : Pkt) : State :=
  let outs := s.childPorts c.group
  let s1 := (outs.foldl (fun z o => z.injectOn o p) s).countCopies p.epoch outs.length
  s1.closeColl c (p.addr % 2 == 1)

/-- The root ends the closing. -/
def State.rootCloses (s : State) (c : Coll) (missing : Bool) : State :=
  let p := { s.treePkt c kClosed with addr := addrOf (s.collSig c) missing }
  (s.countOut p.epoch 1).spreadClosed c p

/-- A DONE packet at this node: merged under the all-wait. -/
def State.serveDone (s : State) (p : Pkt) : State :=
  match s.coll? p.group p.cseq18 with
  | none => s.discardPkt p
  | some c =>
    if c.aborted ≠ 0 then s.discardPkt p
    else
      let c1 := { c with doneFrom := setInsert p.port c.doneFrom, doneTime := some (c.doneTime.getD s.time) }
      let s1 := (s.setColl c1).countIn p.epoch 1
      if (s.nodeInputs c.group).all fun i => c1.doneFrom.contains i then
        match s.parentPort c.group with
        | some o =>
          let q := { s.treePkt c kDone with addr := p.addr }
          (s1.setColl { c1 with doneSent := true }).countOut q.epoch 1 |>.injectOn o q
        | none => s1.rootCloses c1 false
      else s1

/-- DONE. -/
def execDone (s : State) : Result := attempt s fun s => (s.takeRx kDone).map fun r => r.2.serveDone r.1

/-- A CLOSED packet at this node. -/
def State.serveClosed (s : State) (p : Pkt) : State :=
  match s.coll? p.group p.cseq18 with
  | none => s.discardPkt p
  | some c => if c.aborted ≠ 0 then s.discardPkt p else s.spreadClosed c p

/-- CLOSED. -/
def execClosed (s : State) : Result := attempt s fun s => (s.takeRx kClosed).map fun r => r.2.serveClosed r.1

/-- CLOSING_TIMEOUT: at the root, DONE packets still missing TIMEOUT_US after the first. -/
def execClosingTimeout (g : Nat) (s : State) : Result :=
  attempt s fun s =>
    match s.col.colls.find? fun c => c.group == g && c.aborted == 0 && (s.parentPort g).isNone
        && (c.doneTime.any fun a => decide (a + s.colTimeout ≤ s.time)) with
    | some c => some (s.rootCloses c true)
    | none => none

/-! ### Group entries (R370, R395) -/

/-- A write of a word of COL_GROUP(g): WH, and the group's count goes to 0. -/
def State.writeGroup (s : State) (g w v : Nat) : State :=
  if g = 0 then s
  else s.whWrite 13 fun s =>
    let off := if w = 0 then regColGroup g else if w = 1 then regColGroupW1 g else if w = 2 then regColGroupW2 g
      else regColGroupW3 g
    let mask := if w = 0 then 0 else if w = 1 then 0xFFFFFFFF00000000 else if w = 2 then 0x3FFF3FFF3FFF0000
      else 0xFFFF1FFFFFFF7FFF
    (s.setReg off (v &&& mask)).setReg (regColGroupCseq g) 0

/-- COL_GROUP_WRITE. -/
def execColGroupWrite (g w : Nat) (v : Word) (s : State) : Result :=
  attempt s fun s => if s.ready = true ∧ g < 4096 ∧ w < 4 then some (s.writeGroup g w v.toNat) else none

end Sys2Proof.Machine
end

