-- ==== Sys2Proof/Machine/Exchange.lean ====
section
/-! DEFINITION. The exchanges of `DISPATCH.X` and `COMBINE.X` (R132 to R137, R145, R358, R390 to R392), and the rows of
the fabric that reach into them: stores and multicast data at a receiver, acknowledgements, drop notices, timeouts and
aborts. -/

namespace Sys2Proof.Machine

open Sys2Proof

/-! ### The list of exchanges -/

/-- The exchange of a task. -/
def State.xchg? (s : State) (seq : Nat) : Option Xchg := s.col.xchgs.find? fun x => x.seq == seq

/-- An exchange put back. -/
def State.setXchg (s : State) (x : Xchg) : State :=
  { s with col := { s.col with xchgs := s.col.xchgs.map fun y => if y.seq = x.seq then x else y } }

/-- The exchange, entered and not aborted, to which a packet with a SIG belongs. -/
def State.xchgOf (s : State) (p : Pkt) : Option Xchg :=
  s.col.xchgs.find? fun x => x.entered && x.aborted == 0 && x.sig == p.sig && x.members.contains p.src

/-- What the last `DISPATCH.X` of a slot left (log entry 18). -/
def State.xslot? (s : State) (n : Nat) : Option XSlot := s.col.slots.find? fun x => x.slot == n

/-- XSLOT of a task. -/
def xslotOf (t : Task) : Nat := if t.opcode = opDispatch then t.imm 33 28 else t.imm 18 13

/-! ### The plan of a `DISPATCH.X` (R133, R134) -/

/-- HOME of an expert. -/
def State.homeOf (s : State) (t : Task) (e : Nat) : Nat := s.uint (t.op fHome) e 0 0 % 16384

/-- Weight-staging slots. -/
def stageSlots (t : Task) : Nat :=
  match t.op? fWstage with
  | some d => d.d1
  | none => 0

/-- The tokens of a remote expert with `c` pairs move to its home (R133). -/
def State.tokensMove (s : State) (t : Task) (c : Nat) : Bool :=
  let f := s.fld regDsoCtrl 3 2
  f == 2 || (f != 1 && decide (c * t.x 2 115 84 * 16 < (t.op fWeightsX).d0 * s.fld regDsoCtrl 31 16))

/-- The plan, the slots that it uses, and the experts that found none (R134). -/
def State.planX (s : State) (t : Task) : List Placed × Nat × Nat :=
  (s.sortPlan (t.op 0) (t.op 1).d1 (t.imm 27 12)).foldl (fun (p : List Placed × Nat × Nat) x =>
    if s.homeOf t x.e = s.deviceId then (p.1 ++ [x], p.2)
    else
      let y := { x with remote := true }
      if x.list = [] then (p.1 ++ [y], p.2)
      else if s.tokensMove t x.list.length then (p.1 ++ [{ y with dir := true }], p.2)
      else if p.2.1 < stageSlots t then (p.1 ++ [y], p.2.1 + 1, p.2.2)
      else (p.1 ++ [{ y with dir := true }], p.2.1, p.2.2 + 1)) ([], 0, 0)

/-! ### Count headers (R390) -/

/-- The payload of a count header. -/
def countPayload (rows : Nat) (es : List (Nat × Bool)) : List Byte :=
  leBytes 8 rows ++ es.flatMap fun e => leBytes 8 (e.1 + (b2n e.2) <<< 32)

/-- The counts that a `DISPATCH.X` announces: pairs whose tokens move, and weights requested. -/
def announce (ps : List Placed) : List (Nat × Bool) :=
  ps.map fun x => (if x.dir then x.list.length else 0, x.remote && !x.dir && !x.list.isEmpty)

/-- The bytes of the count header of a member, once all have come. -/
def Xchg.header (x : Xchg) (m : Nat) : Option (List Byte) :=
  let ps := x.counts.filter fun p => p.src == m
  match ps with
  | [] => none
  | p :: _ =>
    if p.total ≤ (ps.map (·.len)).foldl (· + ·) 0 then
      some ((sortBy (fun (a b : Pkt) => decide (a.offset < b.offset)) ps).flatMap (·.payload))
    else none

/-- SIG of a member's count header. -/
def Xchg.sigOf (x : Xchg) (m : Nat) : Nat := ((x.counts.find? fun p => p.src == m).map (·.sig)).getD 0

/-- RECV_ROWS of a member, and its announcement for an expert: pairs, and a request for weights. -/
def headerRows (h : List Byte) : Nat := leNat (slice h 0 8)
def headerPairs (h : List Byte) (e : Nat) : Nat := leNat (slice h (8 + 8 * e) 4)
def headerAsks (h : List Byte) (e : Nat) : Bool := leNat (slice h (12 + 8 * e) 4) % 2 == 1

/-- The header of a member, or nothing. -/
def Xchg.head (x : Xchg) (m : Nat) : List Byte := (x.header m).getD []

/-! ### Entry (R336, R369 to R371, R387, R390) -/

/-- The member set and HOME of a task's exchange: those of `DISPATCH.X` itself, or what its slot holds for
`COMBINE.X` (log entry 18). -/
def State.xchgMembers (s : State) (t : Task) : List Nat :=
  if t.opcode = opDispatch then s.homeMembers (t.op fHome)
  else match s.xslot? (xslotOf t) with
    | some x => x.members
    | none => [s.deviceId]

def State.xchgHome (s : State) (t : Task) : List Nat :=
  if t.opcode = opDispatch then (List.range (t.op fHome).d0).map fun e => s.uint (t.op fHome) e 0 0
  else match s.xslot? (xslotOf t) with
    | some x => x.home
    | none => []

/-- ROW_BYTES of a task's exchange. -/
def State.xchgRowBytes (s : State) (t : Task) : Nat :=
  if t.opcode = opDispatch then t.x 2 115 84
  else match s.xslot? (xslotOf t) with
    | some x => x.rowBytes
    | none => 0

/-- Kind of an exchange (R371). -/
def xchgKind (t : Task) : Nat := if t.opcode = opDispatch then 8 else 9

/-- SIG of an exchange (R371). -/
def State.xchgSig (s : State) (t : Task) (cseq : Nat) : Nat :=
  let home := s.xchgHome t
  let fmt := if t.opcode = opDispatch then (t.op fTokens).fmt else (t.op 0).fmt
  sigOf (leBytes 1 (xchgKind t) ++ zeros 1 ++ leBytes 1 fmt ++ leBytes 1 3 ++ zeros 4 ++ leBytes 4 cseq
    ++ leBytes 4 (crc32 (home.flatMap (leBytes 4))) ++ leBytes 8 home.length ++ leBytes 4 (s.xchgRowBytes t)
    ++ leBytes 4 (t.imm 11 0))

/-- The exchange of a task as it issues. -/
def Xchg.fresh (t : Task) (members : List Nat) : Xchg where
  seq := t.seq
  stream := t.stream
  xslot := xslotOf t
  cseq := 0
  kind := xchgKind t
  sig := 0
  members := members
  entered := false
  entryTime := 0
  lastCount := 0
  counts := []
  decided := false
  expect := 0
  arrived := []
  tags := []
  aborted := 0
  stake := false

/-! ### Aborts of an exchange (R137, R386, R391, R392) -/

/-- The step record of an exchange (R393, R394). -/
def State.xchgStep (s : State) (x : Xchg) (first err : Nat) : State :=
  let lag := decide (first - x.entryTime ≤ s.fld regColCtrl 31 16)
  let s1 := if lag then s.addReg regColLagCount 1 else s
  s1.stepRecord 0 x.kind 3 x.cseq x.entryTime first err 0 lag

/-- An exchange aborted here; `send`: ABORT goes to every other member (R392). -/
def State.abortXchg (s : State) (x : Xchg) (err culprit : Nat) (send : Bool) : State :=
  let p (m : Nat) : Pkt := { (Pkt.to m 7 kAbort) with
    txn := x.cseq % 2 ^ 18 * 2 ^ 14, total := 8, addr := addrOf x.sig false, payload := abortBytes err culprit true }
  let outs := if send then x.members.filter (· != s.deviceId) else []
  let s1 := (outs.foldl (fun z m => z.injectPkt (p m)) s).abortInfo 0 x.cseq err culprit true
  let s2 := (s1.stopXfers x.seq).setXchg { x with aborted := err, stake := false, arrived := [] }
  if s2.tasks.any fun t => t.seq == x.seq && t.phase != .ended then
    ((s2.endTask x.seq err 0).addReg regColAborts 1).xchgStep x s.time err
  else s2

/-- COL_XSEQ of a slot (R370). -/
def State.xchgCount (s : State) (slot : Nat) : Nat := s.reg (regColXseq slot) % 2 ^ 32

/-- An exchange that has not entered ends with an abort recorded or received for it: it sends nothing, and its count goes
on (R387). -/
def State.abortUnentered (s : State) (t : Task) (x : Xchg) (err culprit : Nat) : State :=
  let cseq := s.xchgCount x.xslot
  let sig := s.xchgSig t cseq
  let s1 := { s with col := { s.col with early := s.col.early.filter fun y => y.1 != 4096 + sig } }
  (s1.setReg (regColXseq x.xslot) ((cseq + 1) % 2 ^ 32)).abortXchg { x with cseq := cseq, sig := sig, entryTime := s.time }
    err culprit false

/-- The check of an exchange at issue (R326, R336); then it waits for its stake. -/
def State.openXchg (s : State) (t : Task) : State :=
  let ms := s.xchgMembers t
  let load := t.opcode == opDispatch && (t.op? fWstage).isSome
  match ms.find? fun m => !s.windowExch m load with
  | some m => (s.rmeFault 1 0 0 m 0).endTask t.seq errSendWindow 0
  | none =>
    match ms.find? fun m => !s.reachable m with
    | some m => (s.rmeFault 2 0 0 m 0).endTask t.seq errUnreachable 0
    | none =>
      let s1 := { s with col := { s.col with xchgs := s.col.xchgs ++ [Xchg.fresh t ms] } }
      let cseq := s.xchgCount (xslotOf t)
      let sig := s.xchgSig t cseq
      match s.earlyAbort (4096 + sig) (cseq % 2 ^ 18) with
      | some e => s1.abortUnentered t (Xchg.fresh t ms) e.1 e.2
      | none => s1.requestCollStake t.seq

/-- The work of a `DISPATCH.X` at issue: the checks and the sort of R127 and R131, then the exchange. The hamper rows
counted include those of experts with DIR = 1, which stay unfilled: a choice of the model (log entry 37). -/
def State.startDispatchX (s : State) (t : Task) : State :=
  let err := s.dispatchError t
  if err ≠ 0 then s.endTask t.seq err 0
  else if s.rowPoison (t.op fHome) 0 0 then s.endTask t.seq errPoison 0
  else
    let p := s.planX t
    let tokens := (p.1.filter (·.dir)).length
    let weights := (p.1.filter fun x => x.remote && !x.dir && !x.list.isEmpty).length
    let s1 := s.countSort ((t.op 0).d0 * (t.op 0).d1) (hamperRows (t.imm 27 12) p.1)
    let s2 := ((s1.addReg regDsoDirTokens tokens).addReg regDsoDirWeights weights).addReg regDsoWstageFallback p.2.2
    s2.openXchg t

/-- DISPATCH, `.X` form. -/
def execDispatchX (seq : Nat) (s : State) : Result :=
  attempt s fun s => s.launch seq opDispatch 1 State.startDispatchX

/-- The rows that a `COMBINE.X` returns: tag and row, by RECV row (R145). -/
def State.returnRows (s : State) (t : Task) : List (Nat × Nat) :=
  (List.range (t.op 8).d0).filterMap fun i =>
    let g := s.uint (t.op 8) i 0 0
    if g = 0 then none else some (g, i)

/-- The work of a `COMBINE.X` at issue. -/
def State.startCombineX (s : State) (t : Task) : State :=
  if s.rowPoison (t.op 8) 0 0 ∨ ((s.returnRows t).any fun r => s.rowPoison (t.op 7) r.2 0) then
    s.endTask t.seq errPoison 0
  else s.openXchg t

/-- COMBINE, `.X` form. -/
def execCombineX (seq : Nat) (s : State) : Result :=
  attempt s fun s => s.launch seq opCombine 1 State.startCombineX

/-! ### The data phase (R135, R136, R145, R358, R391) -/

/-- A transfer of an exchange to one member, or a multicast of weights. It takes the sequence numbers of queue 0
(log entry 18). -/
def exchXfer (t : Task) (x : Xchg) (dst kind unit : Nat) (data : List Byte) (dests : List (Nat × Nat × Bool)) : Xfer :=
  { Xfer.fresh t dst kind (addrOf x.sig false) data.length data with
      queue := 0, ordered := false, exch := true, unit := unit, dests := dests }

/-- The rows that go to a home device: expert by expert, in list order. -/
def State.sendStream (s : State) (t : Task) (ps : List Placed) (m : Nat) : List Byte :=
  let tok := t.op fTokens
  (ps.filter fun x => x.dir && s.homeOf t x.e == m).flatMap fun x => x.list.flatMap fun c =>
    leBytes 8 (makeTag s.deviceId c.1 c.2 (t.imm 11 0)) ++ s.rowBytesOf tok c.1 0
      ++ (if tok.scaled then s.rdBytes (tok.rowScale c.1 0) (ceilDiv tok.d0 32) else [])

/-- The experts homed on a device. -/
def State.homed (s : State) (t : Task) (dev : Nat) : List Nat :=
  (List.range (t.op 1).d1).filter fun e => s.homeOf t e == dev

/-- The runs of RECV rows: expert, source, first row, rows (R136). -/
def State.recvPlan (s : State) (t : Task) (x : Xchg) : List (Nat × Nat × Nat × Nat) :=
  ((s.homed t s.deviceId).foldl (fun (p : List (Nat × Nat × Nat × Nat) × Nat) e =>
    (x.members.filter (· != s.deviceId)).foldl (fun q m =>
      let n := headerPairs (x.head m) e
      (q.1 ++ [(e, m, q.2, n)], q.2 + n)) p) ([], 0)).1

/-- The RECV rows that one source's stream fills, in the order of the stream. -/
def recvRows (plan : List (Nat × Nat × Nat × Nat)) (m : Nat) : List Nat :=
  (plan.filter fun r => r.2.1 == m).flatMap fun r => (List.range r.2.2.2).map fun i => r.2.2.1 + i

/-- Where the bytes of a source's stream lie. -/
def recvSegs (t : Task) (rows : List Nat) : List Seg :=
  let d := t.op fRecv
  layOut (rows.flatMap fun r => [((t.op fRecvTags).base + 8 * r, 8), (d.row r 0, d.rowBytes)]
    ++ (if d.scaled then [(d.rowScale r 0, ceilDiv d.d0 32)] else []))

/-- The records, row map and empty tags of RECV (R136, R280). -/
def State.writeRecv (s : State) (t : Task) (x : Xchg) : State :=
  let plan := s.recvPlan t x
  let rows := (t.op fRecv).d1
  let recs := (List.range (t.op 1).d1).foldl (fun (p : State × Nat) e =>
    let n := (plan.filter fun r => r.1 == e).foldl (fun a r => a + r.2.2.2) 0
    let home := s.homeOf t e == s.deviceId
    (p.1.putBytes ((t.op fRecvRecords).row e 0) (recordBytes n p.2 p.2 n false (!home)), p.2 + n)) (s, 0)
  let src (i : Nat) : Nat := match plan.find? fun r => decide (r.2.2.1 ≤ i ∧ i < r.2.2.1 + r.2.2.2) with
    | some r => r.2.1
    | none => 0xFFFFFFFF
  let s1 := recs.1.putBytes (t.op fRecvRowmap).base ((List.range rows).flatMap fun i => leBytes 4 (src i))
  s1.putBytes (t.op fRecvTags).base (zeros (8 * rows))

/-- The weight slot that a member gives to an expert (R134). -/
def weightSlot (h : List Byte) (e : Nat) : Nat := ((List.range e).filter (headerAsks h)).length

/-- The transfers of weights that this home serves: one multicast for each requested expert (R358). -/
def State.serveWeights (s : State) (t : Task) (x : Xchg) : State :=
  let w := t.op fWeightsX
  (s.homed t s.deviceId).foldl (fun z e =>
    let ms := x.members.filter fun m => m != s.deviceId && headerAsks (x.head m) e
    if ms = [] then z
    else z.addXfer (exchXfer t x (ms.headD 0) kFanset 0 (s.rdBytes (w.row e 0) w.rowBytes)
      (ms.map fun m => (m, weightSlot (x.head m) e * w.d0, false)))) s

/-- The data phase of a `DISPATCH.X` begins: outputs written, rows and weights sent (R131, R135). -/
def State.dataDispatch (s : State) (t : Task) (x : Xchg) : State :=
  let ps := (s.planX t).1
  let others := x.members.filter (· != s.deviceId)
  let rows := (s.recvPlan t x).foldl (fun a r => a + r.2.2.2) 0
  let asks := (ps.filter fun y => y.remote && !y.dir && !y.list.isEmpty).length
  let sent := others.map fun m => (m, (ps.filter fun y => y.dir && s.homeOf t y.e == m).foldl (fun a y => a + y.list.length) 0)
  let held := (List.range (t.op 1).d1).map fun e =>
    (s.recvPlan t x).foldl (fun a r => if r.1 = e then a + r.2.2.2 else a) 0
  let slot : XSlot := { slot := x.xslot, members := x.members, home := s.xchgHome t, rowBytes := t.x 2 115 84,
                        sent := sent, held := held }
  let s1 := (s.writePlan t ps).writeRecv t x
  let s2 := others.foldl (fun z m =>
    let d := s.sendStream t ps m
    if d = [] then z else z.addXfer (exchXfer t x m kStore (streamRow (t.op fTokens)) d [])) s1
  let s3 := s2.serveWeights t x
  let s4 := { s3 with col := { s3.col with slots := (s3.col.slots.filter fun (y : XSlot) => y.slot != x.xslot) ++ [slot] } }
  s4.setXchg { x with decided := true, expect := rows * streamRow (t.op fRecv) + asks * (t.op fWeightsX).d0 }

/-- The tag of a row of RETURN: a later row on the same place takes it over. -/
def Xchg.noteTag (y : Xchg) (row tag : Nat) : Xchg := { y with tags := y.tags.filter (·.1 != row) ++ [(row, tag)] }

/-- The data phase of a `COMBINE.X` begins: every RECV output row goes to the device that its tag names as ORIGIN, a
member or not (R145). -/
def State.dataCombine (s : State) (t : Task) (x : Xchg) : State :=
  let out := t.op 7
  let ret := t.op 6
  let k := (t.op 2).d0
  let rs := s.returnRows t
  let s1 := ((x.members ++ rs.map fun r => tagOrigin r.1).eraseDups.filter (· != s.deviceId)).foldl (fun z m =>
    let d := (rs.filter fun r => tagOrigin r.1 == m).flatMap fun r => leBytes 8 r.1 ++ s.rowBytesOf out r.2 0
    if d = [] then z else z.addXfer (exchXfer t x m kStore (8 + out.rowBytes) d [])) s
  let own := rs.filter fun r => tagOrigin r.1 == s.deviceId && decide (tagToken r.1 * k + tagRank r.1 < ret.d1)
  let s2 := own.foldl (fun z r => z.putBytes (ret.row (tagToken r.1 * k + tagRank r.1) 0) (s.rowBytesOf out r.2 0)) s1
  let sent := match s.xslot? x.xslot with
    | some y => y.sent.foldl (fun a p => a + p.2) 0
    | none => 0
  s2.setXchg { x with decided := true, expect := sent * (8 + out.rowBytes)
                      tags := (own.foldl (fun (y : Xchg) r => y.noteTag (tagToken r.1 * k + tagRank r.1) r.1) { x with tags := [] }).tags }

/-- SIG that most members carry; a tie goes to the SIG of the lowest device ID (R391). -/
def Xchg.reference (x : Xchg) : Nat :=
  let votes (g : Nat) : Nat := (x.members.filter fun m => x.sigOf m == g).length
  (x.members.foldl (fun (b : Option Nat) m =>
    match b with
    | none => some (x.sigOf m)
    | some g => if votes g < votes (x.sigOf m) then some (x.sigOf m) else b) none).getD 0

/-- The member whose announced receive total exceeds its RECV_ROWS, the lowest first (R391). -/
def State.overflowing (s : State) (t : Task) (x : Xchg) : Option Nat :=
  let home := (s.xchgHome t).map (· % 16384)
  x.members.find? fun d =>
    let total := (List.range home.length).foldl (fun a e =>
      if home.getD e 0 = d then x.members.foldl (fun b m => b + headerPairs (x.head m) e) a else a) 0
    decide (headerRows (x.head d) < total)

/-- Every byte announced to this member has come. -/
def Xchg.complete (x : Xchg) : Bool := x.decided && decide (x.expect ≤ (x.arrived.map (·.len)).foldl (· + ·) 0)

/-- An exchange closes once everything announced has come and everything sent is acknowledged (R389). -/
def State.settleXchg (s : State) (seq : Nat) : State :=
  match s.xchg? seq with
  | none => s
  | some x =>
    let live := s.tasks.any fun t => t.seq == seq && t.phase == .running
    if x.aborted = 0 ∧ x.complete = true ∧ (s.xfersOf seq).all Xfer.complete = true ∧ ¬ (x.kind = 9 ∧ live = true) then
      let s1 := { (s.dropXfers seq) with col := { s.col with xchgs := s.col.xchgs.filter fun y => y.seq != seq } }
      let s2 := s1.xchgStep x x.lastCount 0
      match s2.task? seq with
      | some t => if live then (s2.scrambleOverlaps t).endTask seq 0 0 else s2
      | none => s2
    else s

/-- The decision of R391, once every count header is held. -/
def State.decideXchg (s : State) (seq : Nat) : State :=
  match s.xchg? seq with
  | none => s
  | some x =>
    match s.task? seq with
    | none => s
    | some t =>
      if x.decided ∨ x.aborted ≠ 0 ∨ (x.members.any fun m => (x.header m).isNone) = true then s
      else
        let g := x.reference
        match x.members.find? fun m => x.sigOf m != g with
        | some m => (s.abortXchg x errSeamMismatch m false).addReg regColSeamFaults 1
        | none =>
          match s.overflowing t x with
          | some d => s.abortXchg x errRecvOverflow d false
          | none =>
            let s1 := if x.kind = 8 then s.dataDispatch t x else s.dataCombine t x
            s1.settleXchg seq

/-- The announcement of an exchange: RECV_ROWS, and a count and a request for each expert. A `COMBINE.X` announces the
rows that it holds for each expert of its own (log entry 18). -/
def State.xcountBody (s : State) (t : Task) : List Byte :=
  if t.opcode = opDispatch then countPayload (t.op fRecv).d1 (announce (s.planX t).1)
  else countPayload (t.op 7).d1 (match s.xslot? (xslotOf t) with
    | some x => x.held.map fun n => (n, false)
    | none => [])

/-- The entry of an exchange: its count, its SIG, one count header to every other member (R370, R390). -/
def State.enterXchg (s : State) (t : Task) (x : Xchg) : State :=
  let cseq := s.xchgCount x.xslot
  let sig := s.xchgSig t cseq
  let s1 := s.setReg (regColXseq x.xslot) ((cseq + 1) % 2 ^ 32)
  let x1 := { x with cseq := cseq, sig := sig, entered := true, entryTime := s.time, lastCount := s.time }
  match s.earlyAbort (4096 + sig) (cseq % 2 ^ 18) with
  | some e => s.abortUnentered t x e.1 e.2
  | none =>
    let body := s.xcountBody t
    let base : Pkt := { (Pkt.to 0 3 kXcount) with
      src := s.deviceId, txn := cseq % 2 ^ 18 * 2 ^ 14, addr := addrOf sig false }
    let ps := contribPkts base body
    let keep := s1.col.xchgs.filter fun y => !(y.aborted != 0 && y.xslot == x.xslot && y.seq != x.seq)
    let s2 := ({ s1 with col := { s1.col with xchgs := keep } }.setXchg { x1 with counts := ps }).addReg regColEntered 1
    let s3 := (x.members.filter (· != s.deviceId)).foldl (fun z m =>
      ps.foldl (fun y p => y.injectPkt { p with dst := m }) z) s2
    s3.decideXchg t.seq

/-- COLLECTIVE_ENTER: a task on a group, or an exchange that holds its stake, enters (R369). -/
def execCollectiveEnter (seq : Nat) (s : State) : Result :=
  attempt s fun s =>
    match s.xchg? seq with
    | some x =>
      match s.task? seq with
      | some t =>
        if t.phase = .running ∧ x.entered = false ∧ x.stake = true ∧ s.injectOpen = true ∧ ¬ (s.halted 13 ∨ s.halting 13)
        then some (s.enterXchg t x) else none
      | none => none
    | none => s.enterTask seq

/-- The exchange that a count header belongs to: by its SIG, or else the open one with its CSEQ that lacks a header
from its source (R391; log entry 18). -/
def State.xchgForCount (s : State) (p : Pkt) : Option Xchg :=
  match s.xchgOf p with
  | some x => some x
  | none => s.col.xchgs.find? fun x => x.entered && x.aborted == 0 && !x.decided && x.cseq % 2 ^ 18 == p.cseq18
      && x.members.contains p.src && (x.header p.src).isNone

/-- A count header taken, or one of an aborted exchange discarded. -/
def State.serveXcount (s : State) (p : Pkt) : State :=
  if p.total < p.offset + p.len then s.protocolFault p
  else match s.xchgForCount p with
    | none => s.addReg regColDiscards 1
    | some x =>
      if x.counts.any fun q => q.src == p.src && q.offset == p.offset then s
      else (s.setXchg { x with counts := x.counts ++ [p], lastCount := s.time }).decideXchg x.seq

/-- The first delivered XCOUNT that some exchange here can take or must discard; others wait for their exchange. -/
def State.takeXcount (s : State) : Option (Pkt × State) :=
  match s.rx.find? fun p => p.kind == kXcount && ((s.xchgForCount p).isSome
      || s.col.xchgs.any fun x => x.aborted != 0 && x.sig == p.sig) with
  | some p => some (p, { s with rx := dropFirst p s.rx })
  | none => none

/-- XCOUNT. -/
def execXcount (s : State) : Result := attempt s fun s => s.takeXcount.map fun r => r.2.serveXcount r.1

/-- XCOUNT_TIMEOUT (R392). -/
def execXcountTimeout (seq : Nat) (s : State) : Result :=
  attempt s fun s =>
    match s.xchg? seq with
    | none => none
    | some x =>
      if x.entered = true ∧ x.decided = false ∧ x.aborted = 0 ∧ x.entryTime + s.colTimeout ≤ s.time then
        match x.members.find? fun m => (x.header m).isNone with
        | some m => some ((s.abortXchg x errCollTimeout m true).addReg regColTimeouts 1)
        | none => none
      else none

/-- The exchange that waits for its stake and to which an ABORT belongs, with its task (R387). -/
def State.waitingXchg (s : State) (p : Pkt) : Option (Xchg × Task) :=
  s.col.xchgs.findSome? fun x => match s.task? x.seq with
    | some t =>
      let cseq := s.xchgCount x.xslot
      if !x.entered && x.aborted == 0 && cseq % 2 ^ 18 == p.cseq18 && s.xchgSig t cseq == p.sig then some (x, t) else none
    | none => none

/-- ABORT: of a group's collective, or of an exchange (R386, R387, R392). -/
def State.takeAbort (s : State) (p : Pkt) : State :=
  if p.group ≠ 0 then s.serveAbort p
  else
    let err := leNat (slice p.payload 0 2)
    let culprit := leNat (slice p.payload 2 2)
    match s.xchgOf p with
    | some x => s.abortXchg x err culprit false
    | none =>
      if s.col.xchgs.any fun x => x.aborted != 0 && x.sig == p.sig then s.addReg regColDiscards 1
      else match s.waitingXchg p with
      | some (x, t) => s.abortUnentered t x err culprit
      | none => { s with col := { s.col with early := s.col.early ++ [(4096 + p.sig, p.cseq18, err, culprit)] } }

/-- ABORT. -/
def execAbort (s : State) : Result := attempt s fun s => (s.takeRx kAbort).map fun r => r.2.takeAbort r.1

/-! ### Rows and weights at a receiver -/

/-- Returned rows of one source placed once its whole stream has come: a row for token t at rank r at RETURN row
t × k + r, whatever the bounds of t and r, which phase 1 checks (R145, R146). A row past the buffer's end has no place
and is lost (log entry 18). -/
def State.placeReturns (s : State) (t : Task) (x : Xchg) (src txn : Nat) : State :=
  let ps := x.arrived.filter fun p => p.src == src && p.txn == txn
  let bytes := (sortBy (fun (a b : Pkt) => decide (a.offset < b.offset)) ps).flatMap (·.payload)
  let ret := t.op 6
  let L := 8 + ret.rowBytes
  let k := (t.op 2).d0
  (List.range (bytes.length / L)).foldl (fun z i =>
    let g := leNat (slice bytes (L * i) 8)
    let row := tagToken g * k + tagRank g
    if row < ret.d1 then
      let z1 := z.putBytes (ret.row row 0) (slice bytes (L * i + 8) ret.rowBytes)
      { z1 with col := { z1.col with xchgs := z1.col.xchgs.map fun y =>
          if y.seq = x.seq then y.noteTag row g else y } }
    else z) s

/-- A data packet of an exchange at its receiver; one of an exchange that has ended here is only acknowledged. -/
def State.takeRows (s : State) (p : Pkt) : State :=
  let ack (z : State) : State := z.answer p kAck 0 p.src p.txn []
  if p.total < p.offset + p.len then s.protocolFault p
  else match s.xchgOf p with
    | none => ack (s.addReg regColDiscards 1)
    | some x =>
      match s.task? x.seq with
      | none => ack s
      | some t =>
        if x.decided = false ∨ (x.arrived.any fun q => q.src == p.src && q.txn == p.txn && q.offset == p.offset) = true then
          ack s
        else
          let x1 := { x with arrived := x.arrived ++ [p] }
          let s1 := s.setXchg x1
          let s2 := if x.kind = 8 then s1.putSegs (recvSegs t (recvRows (s.recvPlan t x) p.src)) p.offset p.payload
            else
              let got := ((x1.arrived.filter fun q => q.src == p.src && q.txn == p.txn).map (·.len)).foldl (· + ·) 0
              if p.total ≤ got then s1.placeReturns t x1 p.src p.txn else s1
          (ack s2).settleXchg x.seq

/-- The first delivered STORE that can be applied; rows of an exchange wait until this device has decided it. -/
def State.takeStore (s : State) : Option (Pkt × State) :=
  let waits (p : Pkt) : Bool := p.vc == 3 && (match s.xchgOf p with
    | some x => !x.decided
    | none => false)
  match s.rx.find? fun p => p.kind == kStore && !waits p && (!p.ordered
      || (s.rx.takeWhile (· != p)).all fun q => !(q.ordered && q.src == p.src && q.vc == p.vc)) with
  | some p => some (p, { s with rx := dropFirst p s.rx })
  | none => none

/-- STORE. -/
def execStore (s : State) : Result :=
  attempt s fun s => s.takeStore.map fun r => if r.1.vc = 3 then r.2.takeRows r.1 else r.2.serveStore r.1

/-- A local copy of a multicast packet: a store at a local address, or weights into a staging slot (R355, R358). -/
def State.localCopy (s : State) (p : Pkt) (a : Nat) : State :=
  if p.addr = 0 then
    (if s.targetStatus (a + p.offset) p.len true false = 0 then s.putBytes (a + p.offset) p.payload
     else s.statusFault (s.targetStatus (a + p.offset) p.len true false) (a + p.offset))
  else match s.xchgOf p with
    | none => s
    | some x =>
      match s.task? x.seq with
      | none => s
      | some t =>
        let w := t.op fWstage
        let wb := (t.op fWeightsX).d0
        (s.setXchg { x with arrived := x.arrived ++ [p] }).putBytes (w.row (a / wb) 0 + p.offset) p.payload

/-- Multicast data at this switch (R355 to R357): copied to the ports of its fan entry and to each local address, whose
ACK follows when TOTAL bytes have come there. -/
def State.serveMdata (s : State) (p : Pkt) : State :=
  if p.total < p.offset + p.len then (s.countIn p.epoch 1).protocolFault p
  else match s.fan? p.src p.txn with
    | none => (s.addReg regNswDrops 1).countIn p.epoch 1
    | some f =>
      let s1 := (f.ports.foldl (fun z o => z.injectOn o.1 p) s).countCopies p.epoch (f.ports.length + f.locals.length)
      let s2 := (f.locals.foldl (fun z a => z.localCopy p a.1) s1).countIn p.epoch f.locals.length
      let ends := f.locals.filter fun a => decide (a.2 < f.total ∧ f.total ≤ a.2 + p.len)
      let s3 := s2.setFan { f with locals := f.locals.map fun a => (a.1, a.2 + p.len) }
      let s4 := ends.foldl (fun z a =>
        let st := if p.addr = 0 then z.targetStatus a.1 f.total true false else 0
        z.answer { p with addr := a.1 } kAck st p.src p.txn []) s3
      match s4.xchgOf p with
      | some x => if p.addr = 0 ∨ ends = [] then s4 else s4.settleXchg x.seq
      | none => s4

/-- The first delivered MDATA before which no FANSET of its transfer waits. -/
def State.takeMdata (s : State) : Option (Pkt × State) :=
  match s.rx.find? fun p => p.kind == kMdata && (s.rx.takeWhile (· != p)).all fun q =>
      !(q.kind == kFanset && q.src == p.src && q.txn == p.txn) with
  | some p => some (p, { s with rx := dropFirst p s.rx })
  | none => none

/-- MDATA. -/
def execMdata (s : State) : Result := attempt s fun s => s.takeMdata.map fun r => r.2.serveMdata r.1

/-- COMBINE_PHASE1_START: every member's returns have come (R145); then both phases of R146 and R147. -/
def execCombinePhase1Start (seq : Nat) (s : State) : Result :=
  attempt s fun s =>
    match s.xchg? seq, s.task? seq with
    | some x, some t =>
      if x.kind = 9 ∧ x.aborted = 0 ∧ x.complete = true ∧ t.phase = .running then
        let ret := t.op 6
        let rows := s.tagRows (t.op 1) (t.op 0) ++ (List.range ret.d1).map fun i =>
          ⟨((x.tags.find? fun g => g.1 == i).map (·.2)).getD 0, false, ret, i⟩
        some ((s.runPhases t rows).settleXchg seq)
      else none
    | _, _ => none

/-! ### The device ID (R326) -/

/-- A task that injects into the fabric ends with UNREACHABLE, with what it has begun there. -/
def State.cutOff (s : State) (t : Task) : State :=
  if isRemote t.opcode then
    let d := ((s.xfersOf t.seq).head?.map fun x => (x.dst, x.addr)).getD (0, 0)
    ((s.rmeFault 2 0 (t.imm 18 16) d.1 d.2).dropXfers t.seq).endTask t.seq errUnreachable 0
  else match s.taskColl t.seq with
    | some c => if c.entered then s else (s.dropColl c).endTask t.seq errUnreachable 0
    | none =>
      match s.xchg? t.seq with
      | some x =>
        if x.entered then s
        else { s with col := { s.col with xchgs := s.col.xchgs.filter (·.seq != t.seq) } }.endTask t.seq errUnreachable 0
      | none => s

/-- A write of NSW_DEVICE_ID: without VALID, every task with work in the fabric ends (R326). -/
def State.writeDeviceId (s : State) (v : Nat) : State :=
  s.whWrite 10 fun s =>
    let s1 := s.setReg regNswDeviceId (b2n (bitOf v 31) * 2 ^ 31 + v % 2 ^ 14)
    if bitOf v 31 then s1
    else (s1.tasks.filter fun t => t.phase != .waiting && t.phase != .ended).foldl State.cutOff s1

/-! ### Replies, losses and timeouts at the source -/

/-- A packet of a transfer fails for good (R343, R344, R358). -/
def State.lose (s : State) (x : Xfer) (off err kind status dev : Nat) (addr : Nat) : State :=
  if x.exch ∧ x.dead = false then
    match s.xchg? x.seq with
    | some y => (s.dropReq x off).abortXchg y errMemberFailed dev true
    | none => s.dropXfers x.seq
  else s.failXfer x off err kind status dev addr

/-- ACK of a multicast's destination: that destination has been reached (R357). -/
def State.takeFanAck (s : State) (x : Xfer) (p : Pkt) : State :=
  let st := p.group % 16
  if st ≠ 0 then
    match s.slotOfXfer x with
    | some n => s.parkReply x n 0 st []
    | none => s.lose x 0 errTargetStatus 4 st p.src p.addr
  else
    let ds := x.dests.map fun d => if d.1 = p.src ∧ d.2.1 = p.addr then (d.1, d.2.1, true) else d
    let x1 := { x with dests := ds, reqs := if ds.all (·.2.2) then [] else x.reqs }
    ((s.setXfer x1).settleRemote x.seq).settleXchg x.seq

/-- ACK (R342, R357). -/
def State.takeAck (s : State) (p : Pkt) : State :=
  match s.xfer? p.txn with
  | none => s
  | some x =>
    let st := p.group % 16
    if x.kind = kFanset then s.takeFanAck x p
    else if (x.kind = kStore ∨ x.kind = kReduce) ∧ (x.reqs.any fun r => r.offset == p.offset && r.reply.isNone) = true then
      if x.exch then
        (if st = 0 ∨ x.dead = true then (s.endReq x p.offset []).settleXchg x.seq
         else s.lose x p.offset errTargetStatus 4 st p.src (x.addr + p.offset))
      else s.takeReply x p.offset st []
    else s

/-- ACK. -/
def execAck (s : State) : Result := attempt s fun s => (s.takeRx kAck).map fun r => r.2.takeAck r.1

/-- A request sent again, or its last try spent (R341, R343, R344). -/
def State.retryReq (s : State) (x : Xfer) (r : Req) : State :=
  if x.ordered ∨ s.rmeTries ≤ r.tries then s.lose x r.offset errRemoteTimeout 3 0 x.dst (x.addr + r.offset)
  else s.resendReq x r

/-- A drop notice (R319, R344). -/
def State.takeDrop (s : State) (p : Pkt) : State :=
  let q := Pkt.parse p.payload [] 24
  match s.xfer? q.txn with
  | none => s
  | some x =>
    if q.src ≠ s.deviceId then s
    else if x.kind = kFanset then
      (if q.kind ≠ kFanset ∧ q.kind ≠ kMdata ∨ p.group = 3 then s else s.lose x 0 errUnreachable 2 0 q.dst x.addr)
    else if q.kind = x.kind ∨ q.kind = retryKind x.kind then
      match x.reqs.find? fun r => r.offset == q.offset && r.reply.isNone with
      | none => s
      | some r => if p.group = 3 then s.retryReq x r else s.lose x r.offset errUnreachable 2 0 q.dst (x.addr + r.offset)
    else s

/-- DROP. -/
def execDrop (s : State) : Result := attempt s fun s => (s.takeRx kDrop).map fun r => r.2.takeDrop r.1

/-- RME_REPLY_TIMEOUT (R341, R343): a device without a valid ID injects no retry (R326). -/
def execRmeReplyTimeout (txn off : Nat) (s : State) : Result :=
  attempt s fun s =>
    match s.xfer? txn with
    | none => none
    | some x =>
      match x.reqs.find? fun r => r.offset == off && r.reply.isNone with
      | none => none
      | some r =>
        if x.kind ≠ kFanset ∧ r.busyAt = none ∧ r.sentAt + s.rmeTimeout ≤ s.time ∧ s.stopped = false then
          some (if s.deviceValid then s.retryReq x r
            else s.lose x r.offset errUnreachable 2 0 x.dst (x.addr + r.offset))
        else none

/-- BUSY_RESEND: 1 µs after BUSY, under its own KIND unless it has been retried (R350). -/
def execBusyResend (txn off : Nat) (s : State) : Result :=
  attempt s fun s =>
    match s.xfer? txn with
    | none => none
    | some x =>
      match x.reqs.find? fun r => r.offset == off with
      | none => none
      | some r =>
        match r.busyAt with
        | none => none
        | some b =>
          if b + 1000 ≤ s.time ∧ s.stopped = false ∧ s.deviceValid = true then
            let x1 := { x with reqs := x.reqs.map fun y => if y.offset = off then { y with sentAt := s.time, busyAt := none } else y }
            let kind := if r.tries = 0 then x.kind else retryKind x.kind
            some ((((s.setXfer x1).injectPkt (x.packet off kind)).addReg regRmeBusy 1).addReg regRmePacketsOut 1)
          else none

/-- MSTORE_TIMEOUT (R357, R358). -/
def execMstoreTimeout (seq : Nat) (s : State) : Result :=
  attempt s fun s =>
    let xs := (s.xfersOf seq).filter fun x => x.kind == kFanset
    let last := xs.foldl (fun a x => max a x.lastSent) 0
    match xs.find? fun x => !x.dests.all (·.2.2) with
    | none => none
    | some x =>
      if xs.all (fun y => decide (y.total ≤ y.next)) = true ∧ last + s.rmeTimeout * (s.rmeTries + 1) ≤ s.time then
        if x.exch then some (s.lose x 0 errMemberFailed 6 0 (((x.dests.find? fun d => !d.2.2).map (·.1)).getD 0) 0)
        else match s.task? seq with
          | some t => if t.phase = .running then some (s.endMstore t) else none
          | none => none
      else none

end Sys2Proof.Machine
end

