-- ==== Sys2Proof/Machine/Keys.lean ====
section
/-! DEFINITION. Identity signatures and the verification of signatures (R473, R474), the entropy source's draws, and
link credentials and keys (R485 to R488). -/

namespace Sys2Proof.Machine

open Sys2Proof

/-- Numbers of the signature contexts of R474. -/
abbrev ctxFw : Nat := 0
abbrev ctxJseg : Nat := 2
abbrev ctxTrig : Nat := 3
abbrev ctxAtt : Nat := 4
abbrev ctxLink : Nat := 5

/-- Lengths of an SLH-DSA-SHAKE-256s and of an SLH-DSA-SHAKE-256f signature (R474). -/
abbrev sigLen256s : Nat := 29792
abbrev sigLen256f : Nat := 49856

/-- The device's identity public key (R473). -/
def identityPk : List Byte := (List.range 64).map Config.identityPk

/-- One draw of the entropy source; its number stands for what was drawn. -/
def State.draw (s : State) : Nat × State := (s.sec.draws + 1, { s with sec := { s.sec with draws := s.sec.draws + 1 } })

/-- A signature by the device identity: hedged, or deterministic while the entropy source fails; it is counted
(R474, R489). -/
def State.identitySign (s : State) (ctx : Nat) (msg : List Byte) : List Byte × State :=
  let (r, s1) := if s.bit regSecStatus 7 then (0, s) else s.draw
  ((List.range sigLen256f).map (Config.slhSign ctx msg r), s1.addReg regSecSignatures 1)

/-- The encapsulation key of the current link key pair (R485). -/
def State.linkEk (s : State) : List Byte := (List.range 1568).map (Config.kemPk s.sec.kemPairs)

/-- LINK_CREDENTIAL_GENERATE: a new key pair and its signed credential (R485). -/
def State.makeCredential (s : State) : State :=
  let s1 := { s with sec := { s.sec with kemPairs := s.sec.kemPairs + 1 } }
  let cred := ascii "FD8L" ++ leBytes 4 (s1.reg regRruResets) ++ identityPk ++ s1.linkEk ++ leBytes 8 s1.time
  let (sig, s2) := s1.identitySign ctxLink cred
  { s2 with sec := { s2.sec with credential := cred, credSig := sig } }

/-- The public key and the encapsulation key in a credential. -/
def credPk (c : List Byte) : List Byte := slice c 8 64
def credEk (c : List Byte) : List Byte := slice c 72 1568

/-- The 128-bit prefix of SHAKE256 over a partner's identity public key (R488). -/
def pkPrefix (pk : List Byte) : Nat := leNat (shake256 16 pk)

/-- SEC_PORT_EXPECT(p), and SEC_PORT_PEER(p) set. -/
def State.portExpect (s : State) (p : Nat) : Nat := s.reg (regSecPortExpect p) + s.reg (regSecPortExpectHi p) * 2 ^ 64
def State.setPortPeer (s : State) (p v : Nat) : State :=
  (s.setReg (regSecPortPeer p) (v % 2 ^ 64)).setReg (regSecPortPeerHi p) (v / 2 ^ 64)

/-- A partner's credential is accepted (R488). -/
def State.credentialOk (s : State) (p : Nat) (cred sig : List Byte) : Bool :=
  decide (cred.length = 1648) && decide (sig.length = sigLen256f) && cred.take 4 == ascii "FD8L"
    && Config.slhVerify ctxLink (credPk cred) cred sig && credPk cred != identityPk
    && (s.portExpect p == 0 || s.portExpect p == pkPrefix (credPk cred)) && !s.bit regSecStatus 7

/-- Byte lists compared from byte 0. -/
def bytesLt : List Byte → List Byte → Bool
  | a :: l, b :: m => if a.toNat < b.toNat then true else if b.toNat < a.toNat then false else bytesLt l m
  | [], _ :: _ => true
  | _, [] => false

/-- The keys of a direction pair (R486, R487): own credential, ciphertext and secret, and the partner's. -/
def deriveKeys (ownCred ownCt ownSecret peerCred peerCt peerSecret : List Byte) (rekeys now : Nat) : LinkKeys :=
  let ownIsA := bytesLt (credPk ownCred) (credPk peerCred)
  let t := shake256 32 (if ownIsA then ownCred ++ peerCred ++ ownCt ++ peerCt else peerCred ++ ownCred ++ peerCt ++ ownCt)
  let ks := if ownIsA then ownSecret ++ peerSecret else peerSecret ++ ownSecret
  let m := shake256 72 (ascii "FD8-LINK-KEYS" ++ ks ++ t ++ leBytes 8 rekeys)
  let a := m.take 32
  let b := slice m 32 32
  let sa := slice m 64 4
  let sb := slice m 68 4
  if ownIsA then ⟨a, b, sa, sb, 0, 0, rekeys, now⟩ else ⟨b, a, sb, sa, 0, 0, rekeys, now⟩

end Sys2Proof.Machine
end

