-- ==== Sys2Proof/Machine/Ports.lean ====
section
/-! DEFINITION. The fabric ports: training (R293 to R295), frames, retry and failure (R296 to R301), and link
encryption and its keys (R302 to R304, R485 to R488). -/

namespace Sys2Proof.Machine

open Sys2Proof

/-! ### Going down and failing (R300, R301) -/

/-- The fabric ports begin no training, retrain or rekey while function 11 is halted (R331), nor once their transmitters
are idle after a quench or a trip (R446, R469). -/
def State.trainOpen (s : State) : Bool := !(s.halted 11 || s.halting 11) && !s.quenchOver && !s.bit regPwrStatus 10

/-- A port's link as it is after a failure: nothing under way, the packets in its input buffer and its survey counts
kept. -/
def Port.fresh (x : Port) : Port :=
  { Port.reset x.num with inbuf := x.inbuf, sRetries := x.sRetries, sCorrected := x.sCorrected, sCells := x.sCells,
                          sPeak := x.sPeak, sDetours := x.sDetours, sDrops := x.sDrops }

/-- Packets at the inputs whose deterministic route or tree link uses the port, with no other way out (R301). -/
def State.waitsFor (s : State) (p : Nat) (k : Pkt) : Bool :=
  if 32 ≤ k.port then k.port == 32 + p
  else if k.tree || k.dst == s.deviceId then false
  else
    let r := s.route (k.epoch % 2) k.dst
    routeValid r && routePort r == p && !(adaptiveVc k.vc && ((List.range 24).any fun q => bitOf r (28 + q) && s.portUp q))

/-- The packets of one input that wait for a failed port are discarded with a drop notice. -/
def State.dropWaiting (s : State) (p i : Nat) : State :=
  ((s.inputs i).filter (s.waitsFor p)).foldl (fun a k => (((a.takePkt i k).creditFrame i).dropPkt i k 4).fanLeft k) s

/-- A port becomes FAILED (R300, R301, R385). -/
def State.portFail (s : State) (p : Nat) : State :=
  let s1 := (s.setPortState p 4).modPort p Port.fresh
  let s2 := s1.record { kind := 0x0B, scope := 5, action := 2, unit := unitWord (portDomain p) p, detail := 4 }
  ((List.range 25).foldl (fun a i => a.dropWaiting p i) s2).failTreePort p

/-- A port goes down: its keys are gone, and its partner is no longer known. Frames that are not acknowledged stay in
the retry buffer. -/
def State.portOff (s : State) (p : Nat) : State :=
  let s1 := ((s.setPortState p 0).setBit (regFptPortStatus p) 2 false).setBit (regFptPortPeer p) 31 false
  (s1.setPortPeer p 0).modPort p fun x =>
    { x with keys := none, nextKeys := none, peerCred := [], ownCt := [], ownSecret := [], rekeying := false,
             keyIdx := false, rxIdx := false, discarding := false, tagFails := [],
             retries := [], upSince := none }

/-- A retrain that failed, or whose port went down within 1 s of it, counts; the third in a row fails the port
(R300). -/
def State.retrainFailed (s : State) (p : Nat) : State :=
  if (s.port p).retrain then
    let n := (s.port p).failedTrains + 1
    if 3 ≤ n then s.portFail p else s.modPort p fun x => { x with failedTrains := n }
  else s

/-- A port that was UP or in KEYING goes down (R300). -/
def State.portDown (s : State) (p : Nat) : State :=
  let short := match (s.port p).upSince with
    | some t => decide (s.time < t + secondNs)
    | none => true
  let s1 := s.portOff p
  if short then s1.retrainFailed p else s1.modPort p fun x => { x with failedTrains := 0 }

/-! ### Training (R293 to R295, R302, R327) -/

/-- ENABLE, ENCRYPT and ENCRYPT_REQUIRED of FPT_PORT_CTRL. -/
def State.portEnable (s : State) (p : Nat) : Bool := s.bit (regFptPortCtrl p) 31
def State.portEncrypt (s : State) (p : Nat) : Bool := s.bit (regFptPortCtrl p) 30
def State.portRequired (s : State) (p : Nat) : Bool := s.bit (regFptPortCtrl p) 29

/-- The Ports phase of start-up has begun (R466). -/
def State.portsStarted (s : State) : Bool := decide (6 ≤ s.fld regGlbStartup 3 0) || s.ready

/-- The device's own identity message to a partner (R295). -/
def State.ownIdentity (s : State) (p : Nat) : Out :=
  .identity p s.deviceId s.deviceValid p (s.fld regGlbIdentity 15 8) (s.portEncrypt p)

/-- PORT_TRAINING_START. -/
def execPortTrainingStart (p : Nat) (s : State) : Result :=
  attempt s fun s =>
    if portPresent s.variant p = true ∧ s.portState p = 0 ∧ s.portEnable p = true ∧ s.trainOpen = true
        ∧ s.portsStarted = true then
      some ((s.setPortState p 1).modPort p fun x => { x with retrain := x.wasUp })
    else none

/-- A port comes UP, which completes its training (R331): frames not acknowledged are sent again, in order. -/
def State.portComesUp (s : State) (p : Nat) : State :=
  let s1 := ((s.setPortState p 3).addReg (regFptTrainings p) 1).modPort p fun x =>
    { x with upSince := some s.time, wasUp := true, discarding := false }
  (s1.port p).retry.foldl (fun a r => a.resendFrame p r) s1

/-- CRYPT_MISMATCH: the port stays down (R302, R488). -/
def State.cryptMismatch (s : State) (p : Nat) : State :=
  ((s.portOff p).setBit (regFptPortStatus p) 3 true).retrainFailed p

/-- Keying fails (R488). -/
def State.keyingFails (s : State) (p : Nat) : State := (s.cryptMismatch p).addReg regSecAuthFails 1

/-- The identity message recorded in FPT_PORT_PEER (R295). -/
def State.recordPeer (s : State) (p : Nat) (r : Training) : State :=
  s.setReg (regFptPortPeer p) (2 ^ 31 + b2n r.idValid * 2 ^ 30 + r.port % 32 * 2 ^ 25 + b2n r.encCapable * 2 ^ 24
    + r.variant.toNat * 2 ^ 16 + r.device.toNat)

/-- A training ends (R293 to R295, R302, R327). -/
def State.endTraining (s : State) (p : Nat) (r : Training) : State :=
  if r.lanes = false then (s.portOff p).retrainFailed p
  else
    let s2 := s.setReg (regFptFlight p) r.flight
    if 250 < r.flight then (s2.portOff p).portFail p
    else
      let s3 := (s2.emit (s2.ownIdentity p)).recordPeer p r
      if s3.deviceValid = true ∧ r.idValid = true ∧ r.device.toNat = s3.deviceId then
        (((s3.portOff p).setBit (regFptPortStatus p) 4 true).retrainFailed p)
      else if s3.portEncrypt p then
        (if r.encrypt = true ∧ r.encCapable = true then
          (if s3.bit regSecStatus 7 then s3.keyingFails p
          else (s3.setPortState p 2).emit (.control p (s3.sec.credential ++ s3.sec.credSig)))
        else if s3.portRequired p then s3.cryptMismatch p
        else s3.portComesUp p)
      else if r.encrypt = true ∧ r.required = true then s3.cryptMismatch p
      else s3.portComesUp p

/-- PORT_TRAINING_COMPLETE. -/
def execPortTrainingComplete (p : Nat) (r : Training) (s : State) : Result :=
  attempt s fun s => if portPresent s.variant p = true ∧ s.portState p = 1 then some (s.endTraining p r) else none

/-- LANE_LOCK_LOSS: a port in training fails it, and one UP or in KEYING goes down (R293, R300). -/
def execLaneLockLoss (p : Nat) (s : State) : Result :=
  attempt s fun s =>
    if portPresent s.variant p = true ∧ (s.portState p = 2 ∨ s.portState p = 3) then some (s.portDown p) else none

/-! ### Encapsulation and rekeys (R304, R486, R487) -/

/-- An encapsulation to the partner's key: this side's ciphertext and secret. -/
def State.encapsulate (s : State) (p : Nat) : State :=
  let (r, s1) := s.draw
  let ek := credEk (s1.port p).peerCred
  let ct := (List.range 1568).map (Config.kemCiphertext ek r)
  let ss := (List.range 32).map (Config.kemSecret ek r)
  s1.modPort p fun x => { x with ownCt := ct, ownSecret := ss }

/-- The ciphertext of an encapsulation sent while the port is in KEYING, when no frame carries packets yet. -/
def State.sendCiphertext (s : State) (p : Nat) : State := s.emit (.control p (s.port p).ownCt)

/-- The ciphertext of a rekey put into the injection queue as a packet on VC7 that leaves by the port (R304, R326). -/
def State.injectKey (s : State) (p : Nat) : State :=
  let ct := (s.port p).ownCt
  s.injectOn p { (Pkt.to 0 7 kKey) with src := s.deviceId, hops := 2, total := ct.length, payload := ct }

/-- The keys that follow from the partner's ciphertext. -/
def State.keysFrom (s : State) (p : Nat) (ct : List Byte) (rekeys : Nat) : LinkKeys :=
  let x := s.port p
  let ss := (List.range 32).map (Config.kemDecaps s.sec.kemPairs ct)
  deriveKeys s.sec.credential x.ownCt x.ownSecret x.peerCred ct ss rekeys s.time

/-- A rekey's ciphertext arrives (R304, R487): this side encapsulates as well when the partner began; it sends under
the new key from its next frame on, and receives under the old one until the partner's index flips. -/
def State.rekeyed (s : State) (p : Nat) (ct : List Byte) : State :=
  let s1 := if (s.port p).rekeying then s else (s.encapsulate p).injectKey p
  match (s1.port p).keys with
  | none => s
  | some k =>
    let n := s1.keysFrom p ct (k.rekeys + 1)
    s1.modPort p fun x =>
      { x with keys := some { n with rxKey := k.rxKey, rxSalt := k.rxSalt, rxCount := k.rxCount }, nextKeys := some n,
               keyIdx := !x.keyIdx, rekeying := false }

/-! ### Frames (R296 to R299, R303) -/

/-- Fields of the first six bytes of a frame. -/
def frameSeq (f : Frame) : Nat := leNat (f.header.take 2) / 16
def frameKey (f : Frame) : Bool := bitOf (leNat (f.header.take 2)) 3
def frameAck (f : Frame) : Nat := leNat (slice f.header 2 2) / 16
def frameVc (f : Frame) : Nat := leNat (slice f.header 4 2) / 2 ^ 13
def frameCells (f : Frame) : Nat := leNat (slice f.header 4 2) % 2 ^ 13

/-- All four codewords decode, and the CRC holds (R297). -/
def frameWhole (f : Frame) (most : Nat) : Bool :=
  f.uncorrectable == 0 && f.header.length == 6 && decide (f.stream.length ≤ most)
    && f.crc == BitVec.ofNat 32 (crc32 (f.header ++ f.stream))

/-- Retries of a port in the time before now. -/
def recent (now span : Nat) (ts : List Nat) : Nat := (ts.filter fun t => decide (now < t + span)).length

/-- RETRIED on the running tasks that use the fabric (R94). -/
def State.markFabric (s : State) : State := s.markRetried usesFabric

/-- A retry is requested (R297, R299, R300). The retries of a port are those that it requests as the receiver: the frames
that it resends for its partner count at the partner's end only, a choice of the model (log entry 16). -/
def State.askRetry (s : State) (p : Nat) : State :=
  let s1 := (s.markFabric.addReg (regFptRetries p) 1).modPort p fun x =>
    { x with discarding := true, sRetries := x.sRetries + 1
             retries := (x.retries.filter fun t => decide (s.time < t + 1000000)) ++ [s.time] }
  let x := s1.port p
  let n := recent s.time 10000 x.retries
  let s2 := if n = 2 then
      ((s1.setBit (regFptPortStatus p) 1 true).addReg (regFptDegradedEvents p) 1).record
        { kind := 0x0A, scope := 0, action := 0, unit := unitWord (portDomain p) p, detail := n }
    else s1
  if 64 < x.retries.length then s2.portDown p
  else s2.emit (.retryRequest p x.rxSeq)

/-- A tag fails (R303): a PROTOCOL record, and the third within 1 s takes the port down. -/
def State.tagFails (s : State) (p : Nat) : State :=
  let s1 := (s.addReg (regFptTagFails p) 1).record
    { kind := 0x0C, scope := 0, action := 0, unit := unitWord (portDomain p) p, detail := s.fld (regFptPortPeer p) 13 0 }
  let ts := ((s.port p).tagFails.filter fun t => decide (s.time < t + secondNs)) ++ [s.time]
  let s2 := s1.modPort p fun x => { x with tagFails := ts }
  if 3 ≤ ts.length then s2.portDown p else s2.askRetry p

/-- Acknowledged frames leave the retry buffer: those up to the FSEQ given. -/
def Port.acknowledge (x : Port) (ack : Nat) : Port :=
  match x.retry.findIdx? fun r => r.1 == ack with
  | some i => { x with retry := x.retry.drop (i + 1) }
  | none => x

/-- The whole packets at the front of a stream enter the input buffer; a header whose CRC fails is discarded
(R310, R311). -/
def State.takePackets (s : State) (p : Nat) : Nat → State
  | 0 => s
  | f + 1 =>
    let x := s.port p
    let bs := x.partialBytes
    if bs.length < 32 ∨ bs.length < 32 + headerLen (bs.take 32) then s
    else
      let n := headerLen (bs.take 32)
      let k := { Pkt.parse (bs.take 32) (slice bs 32 n) p with since := s.time }
      let s1 := s.modPort p fun x => { x with partialBytes := x.partialBytes.drop (32 + n) }
      let s2 := if headerOk (bs.take 32) then
          (if k.linkLocal then
            let s3 := s1.modPort p fun x => { x with owed := x.owed.modify k.vc (· + k.cells) }
            if s1.portCrypt p = true ∧ n = 1568 ∧ (s1.port p).nextKeys = none then s3.rekeyed p k.payload else s3
          else s1.modPort p fun x =>
            let y := { x with inbuf := x.inbuf ++ [k] }
            { y with sPeak := max y.sPeak y.cellsUsed })
        else
          (((s1.addReg regNswDrops 1).countIn k.epoch 1).record
            { kind := 0x0C, scope := 0, action := 0, unit := unitWord (portDomain p) p, detail := k.src }).modPort p fun x =>
            { x with sDrops := x.sDrops + 1, owed := x.owed.modify k.vc (· + k.cells) }
      s2.takePackets p f

/-- A frame taken in order: ACK, credit and packet stream (R297, R306). Frames that waited for room in the retry buffer
follow, and one frame at least acknowledges a frame with packet bytes. -/
def State.takeFrame (s : State) (p : Nat) (f : Frame) (stream : List Byte) : State :=
  let s1 := s.modPort p fun x =>
    { ((x.acknowledge (frameAck f)).returnCredit (frameVc f) (frameCells f)) with
      rxSeq := (x.rxSeq + 1) % 4096, discarding := false, partialBytes := x.partialBytes ++ stream }
  let s2 := (s1.takePackets p ((s1.port p).partialBytes.length / 32 + 1)).sendFrames p false
  if stream = [] then s2 else s2.nextFrame p

/-- A frame that failed is discarded, with every later one, and a retry is requested (R297). -/
def State.frameFails (s : State) (p : Nat) (f : Frame) : State :=
  let x := s.port p
  if x.discarding ∧ (frameSeq f) ≠ x.rxSeq then s else s.askRetry p

/-- A frame that passed its checks: the one awaited is taken; a later one shows a loss; an earlier one is a
repetition. -/
def State.frameGood (s : State) (p : Nat) (f : Frame) (stream : List Byte) : State :=
  let x := s.port p
  if (frameSeq f) = x.rxSeq then s.takeFrame p f stream
  else if x.discarding then s
  else if ((frameSeq f) + 4096 - x.rxSeq) % 4096 < 2048 then s.askRetry p
  else s

/-- The receive keys for a frame: the new ones from the first frame whose key index flips (R304), and the count of the
frame (R303). -/
def Port.receiveKeys (x : Port) (idx : Bool) : Port :=
  match x.keys, x.nextKeys with
  | some k, some n =>
    if idx != x.rxIdx then
      { x with keys := some { k with rxKey := n.rxKey, rxSalt := n.rxSalt, rxCount := 0 }, nextKeys := none, rxIdx := idx }
    else x
  | _, _ => x

/-- A frame received by a port that is UP. -/
def State.receiveFrame (s : State) (p : Nat) (f : Frame) : State :=
  let s1 := ((s.addReg (regFptFecCorrected p) f.corrected).addReg (regFptFecUncorrected p) f.uncorrectable).modPort p
    fun x => { x with sCorrected := x.sCorrected + f.corrected }
  if s1.portCrypt p then
    let x := (s1.port p).receiveKeys (frameKey f)
    match x.keys with
    | some k =>
      let s2 := s1.setPort { x with keys := some { k with rxCount := k.rxCount + 1 } }
      let nonce := frameNonce k.rxSalt k.rxCount
      if (frameWhole f 2544) = false then s2.frameFails p f
      else if gcmTag k.rxKey nonce f.header f.stream ≠ f.tag then s2.tagFails p
      else s2.frameGood p f (gcmCrypt k.rxKey nonce f.stream)
    | none => s1
  else if (frameWhole f 2560) = false then s1.frameFails p f
  else s1.frameGood p f f.stream

/-- FRAME_RECEIVE. -/
def execFrameReceive (p : Nat) (f : Frame) (s : State) : Result :=
  attempt s fun s => if s.portUp p then some (s.receiveFrame p f) else none

/-- Frames resent from an FSEQ on; one resent four times without acknowledgement takes the port down (R297, R300). -/
def State.resendFrom (s : State) (p fseq : Nat) : Option State :=
  let x := s.port p
  match x.retry.findIdx? fun r => r.1 == fseq with
  | none => none
  | some i =>
    let due := x.retry.drop i
    if due.any fun r => decide (4 ≤ r.2.2.2) then some (s.portDown p)
    else
      let again := due.map fun r => (r.1, r.2.1, r.2.2.1, r.2.2.2 + 1)
      let s1 := (s.modPort p fun x => { x with retry := x.retry.take i ++ again }).markFabric
      some (again.foldl (fun a r => a.resendFrame p r) s1)

/-- RETRY_REQUEST: the partner asks for the frames from an FSEQ on. -/
def execRetryRequest (p fseq : Nat) (s : State) : Result :=
  attempt s fun s => if s.portUp p then s.resendFrom p fseq else none

/-! ### Keys (R302, R304, R486 to R488) -/

/-- LINK_CREDENTIAL: steps 1 to 3 of R486. -/
def execLinkCredential (p : Nat) (cred sig : List Byte) (s : State) : Result :=
  attempt s fun s =>
    if portPresent s.variant p = true ∧ s.portState p = 2 ∧ (s.port p).peerCred = [] then
      (if s.credentialOk p cred sig then some (((s.modPort p fun x => { x with peerCred := cred }).encapsulate p).sendCiphertext p)
      else some (s.keyingFails p))
    else none

/-- Keying ends: the port comes UP and encrypts, and its partner is known (R486, R488). -/
def State.keyingDone (s : State) (p : Nat) (ct : List Byte) : State :=
  let k := s.keysFrom p ct 0
  let s1 := s.modPort p fun x => { x with keys := some k, nextKeys := none, keyIdx := false, rxIdx := false }
  let s2 := (s1.setBit (regFptPortStatus p) 2 true).setPortPeer p (pkPrefix (credPk (s.port p).peerCred))
  s2.portComesUp p

/-- KEY_CIPHERTEXT: steps 3 and 4 of R486, at KEYING and at a rekey. -/
def execKeyCiphertext (p : Nat) (ct : List Byte) (s : State) : Result :=
  attempt s fun s =>
    if portPresent s.variant p = true ∧ ct.length = 1568 ∧ (s.port p).peerCred ≠ [] then
      (if s.portState p = 2 then some (if s.bit regSecStatus 7 then s.keyingFails p else s.keyingDone p ct)
      else if s.portState p = 3 ∧ s.portCrypt p = true ∧ (s.port p).nextKeys = none then some (s.rekeyed p ct)
      else none)
    else none

/-- REKEY_MIN in ns. -/
def State.rekeyNs (s : State) (p : Nat) : Nat := 60000000000 * max 1 (min 1440 (s.fld (regFptPortCtrl p) 10 0))

/-- A rekey is due (R304). -/
def State.rekeyIsDue (s : State) (p : Nat) : Bool :=
  s.portUp p && s.portCrypt p && s.trainOpen && !(s.port p).rekeying && (s.port p).nextKeys.isNone
    && (match (s.port p).keys with
      | some k => decide (2 ^ 40 ≤ k.txCount + 2 ^ 20 ∨ k.since + s.rekeyNs p ≤ s.time)
      | none => false)

/-- REKEY_DUE. -/
def execRekeyDue (p : Nat) (s : State) : Result :=
  attempt s fun s =>
    if s.rekeyIsDue p then some (((s.encapsulate p).injectKey p).modPort p fun x => { x with rekeying := true }) else none

/-! ### ENABLE (R300) -/

/-- A write of FPT_PORT_CTRL(p): ENABLE = 0 holds the port down, and 0 then 1 leaves FAILED. -/
def State.writePortCtrl (s : State) (p v : Nat) : State :=
  s.whWrite 11 fun s =>
    let on := bitOf v 31
    let s1 := s.setReg (regFptPortCtrl p) (getBits v 31 29 * 2 ^ 29 + getBits v 10 0)
    if on = false then
      (if s.portState p = 4 then s1 else s1.portOff p)
    else if s.portEnable p = false ∧ s.portState p = 4 then s1.setPortState p 0
    else s1

/-- PORT_ENABLE_WRITE. -/
def execPortEnableWrite (p : Nat) (v : Word) (s : State) : Result :=
  attempt s fun s => if s.ready = true ∧ portPresent s.variant p = true then some (s.writePortCtrl p v.toNat) else none

end Sys2Proof.Machine
end

