-- ==== Sys2Proof/Machine/Reliability.lean ====
section
/-! DEFINITION. Fencing and patching of cores (R425 to R428), engine faults (R429), the stop of the device (R430),
trig points (R434 to R436), restores (R440) and region digests (R442). -/

namespace Sys2Proof.Machine

open Sys2Proof

/-- A change of the RRU's state. -/
def State.modRru (s : State) (f : Rru → Rru) : State := { s with rru := f s.rru }

/-! ### The stop of the device (R430) -/

/-- The collectives and exchanges that have not committed are aborted toward the neighbours, with MEMBER_FAILED and this
device as the culprit (R385, R430, R446). -/
def State.abortToward (s : State) : State :=
  let s1 := (s.col.colls.filter fun c => c.aborted == 0 && !c.committed && !c.taskEnded && !c.closed).foldl (fun z c =>
    let p := { z.treePkt c kAbort with total := 8, payload := abortBytes errMemberFailed s.deviceId true }
    (z.treePorts c.group).foldl (fun y o => (y.injectOn o p).countOut p.epoch 1) z) s
  (s.col.xchgs.filter fun x => x.aborted == 0 && x.entered).foldl (fun z x =>
    (x.members.filter (· != s.deviceId)).foldl (fun y m => y.injectPkt { (Pkt.to m 7 kAbort) with
      txn := x.cseq % 2 ^ 18 * 2 ^ 14, total := 8, addr := addrOf x.sig false,
      payload := abortBytes errMemberFailed s.deviceId true }) z) s1

/-- Abort notices that were injected leave before the transmitters go idle; packets in transit are lost (R385, R446,
R463). -/
def State.flushAborts (s : State) : State :=
  let s1 := { s with inject := s.inject.filter fun p => p.kind == kAbort
                     ports := s.ports.map fun x => { x with inbuf := [] } }
  (List.range s1.inject.length).foldl (fun z _ => match z.inject with
    | p :: rest => (z.forward 24 p.vc).getD { z with inject := rest }
    | [] => z) s1

/-- Nothing is at work in any engine. -/
def State.stopEngines (s : State) : State :=
  { s with cores := [], runs := [], parts := [], vblocks := [], guards := [], guardHeld := [], skips := [], rx := []
           rme := { s.rme with xfers := [], stageUsed := 0 }
           col := { s.col with colls := [], xchgs := [] }
           power := { s.power with requests := [] } }

/-- The RRU's path to its error ring works without a domain (R430). -/
def State.pathWithout (s : State) (domain : Option Nat) : Bool :=
  match domain with
  | none => true
  | some d => !(decide (20 ≤ d ∧ d ≤ 23) || d == 38 || d == stackDomain (s.placeOf (s.reg regRruErrBase)).1)

/-- A fault of SCOPE 6 stops the device: engines, collectives, the record, FATAL and the alert (R430). -/
def State.deviceStop (s : State) (kind unit detail : Nat) (lost : Option Nat) : State :=
  let s1 := s.abortToward.stopEngines
  let s2 := if s1.pathWithout lost then
      s1.record { kind := kind, scope := 6, action := 8, unit := unit, detail := detail }
    else s1.addReg (regRruCount kind) 1
  (s2.setBit regRruStatus 8 true).alert 1

/-- ISLAND_LOST. -/
def execIslandLost (domain : Nat) (s : State) : Result :=
  attempt s fun s =>
    if s.bit regGlbIslands domain = true ∧ domain < 40 then
      some ((s.setBit regGlbIslands domain false).deviceStop 0x0E (unitWord domain 0) domain (some domain))
    else none

/-- STEWARD_WATCHDOG. -/
def execStewardWatchdog (core : Nat) (s : State) : Result :=
  attempt s fun s =>
    if s.bit regGlbIslands 38 then some (s.deviceStop 0x0F (unitWord 38 core) core none) else none

/-- The domain of a mesh link: its quadrant, or the spine (R23, R538). -/
def linkDomain (link : Nat) : Nat := if link / 2 ^ 12 < 4 then 20 + link / 2 ^ 12 else 38

/-- MESH_FLIT_RESEND (R422, R538, R539). -/
def execMeshFlitResend (link : BitVec 16) (s : State) : Result :=
  attempt s fun s =>
    let l := link.toNat
    let ts := (s.rru.meshResends.filter fun x => decide (s.time < x.2 + 1000)) ++ [(l, s.time)]
    let s1 := ((s.modRru fun r => { r with meshResends := ts }).addReg regMshResends 1).setReg regMshLastLink (2 ^ 31 + l)
    let u := unitWord (linkDomain l) l
    if 16 < (ts.filter fun x => x.1 == l).length then
      some ((s1.setBit regMshStatus 1 true).deviceStop 0x09 u l none)
    else some (s1.record { kind := 0x09, scope := 0, action := 0, unit := u, detail := l })

/-! ### Cores (R422, R425 to R428) -/

/-- The clock domain and index of a physical core in a record. -/
def coreUnit (k : Nat) : Nat := unitWord (k / 9) k

/-- The spare's place in the cluster of a core. -/
def spareOf (k : Nat) : Nat := 9 * (k / 9) + 8

/-- The cluster's spare can take a core's place (R426). -/
def State.spareOk (s : State) (k : Nat) : Bool :=
  let p := spareOf k
  s.coreSpare p && !bitOf (s.coreMap p) 29 && s.bit (regCoreSelftest p) 30

/-- AUTO_PATCH. -/
def State.autoPatch (s : State) : Bool := s.bit regRruCtrl 0

/-- The logical core of a fenced core that has not been patched. -/
def State.fencedLogical (s : State) (k : Nat) : Nat := getBits (s.coreMap k) 7 0

/-- SEQ of the task that a core works for, or all ones (R420). -/
def CoreSt.seq (c : CoreSt) : Nat :=
  match c.cur.toList ++ c.next.toList, c.vec with
  | r :: _, _ => r.seq
  | [], some b => b.seq
  | [], none => 2 ^ 64 - 1

/-- SEQ of the task that a fenced core worked for. -/
def State.faultTask (s : State) (k : Nat) : Nat := ((s.rru.faultSeq.find? fun x => x.1 == k).map (·.2)).getD (2 ^ 64 - 1)

/-- A core that waits no longer for a patch. -/
def State.dropPatching (s : State) (k : Nat) : State :=
  s.modRru fun r => { r with patching := r.patching.filter (fun x => x.1 != k), faultSeq := r.faultSeq.filter fun x => x.1 != k }

/-- A logical core is lost (R427). -/
def State.loseCore (s : State) (k : Nat) : State :=
  let n := s.fencedLogical k
  let s1 := (s.setBit (regRruCoreLost (n / 64)) (n % 64) true).dropPatching k
  s1.record { kind := 0x07, scope := 2, action := 2, unit := coreUnit k, seq := s.faultTask k, detail := 0xFF }

/-- The fenced cores of a cluster that wait for a patch are lost when the spare cannot serve. -/
def State.loseWaiting (s : State) (k : Nat) : State :=
  if s.spareOk k then s
  else (s.rru.patching.filter fun x => x.1 / 9 == k / 9).foldl (fun z x => z.loseCore x.1) s

/-- A core is fenced: its runs and its block return, and it stays out of service (R182, R425). The record of a serving core
follows with its patch or its loss; that of a spare is written at once (R420). -/
def State.fenceCore (s : State) (k : Nat) : State :=
  let c := s.core k
  let serving := s.coreActive k
  let s1 := (s.setCore (CoreSt.idle k)).setReg (regCoreMap k) (putBits (putBits (s.coreMap k) 29 29 1) 30 30 0)
  let s2 := (c.cur.toList ++ c.next.toList).foldl State.listRun s1
  let s3 := if c.cur.isSome then s2.addReg regCoreReruns 1 else s2
  let s4 := { s3 with vblocks := c.vec.toList ++ s3.vblocks }
  let s5 := s4.setBit (regRruCoreExclude (k / 64)) (k % 64) true
  let s6 := if serving then
      s5.modRru fun r => { r with patching := r.patching ++ [(k, s.time, false)], faultSeq := r.faultSeq ++ [(k, c.seq)] }
    else s5.record { kind := 0x07, scope := 2, action := 2, unit := coreUnit k, detail := 0xFF }
  s6.loseWaiting k

/-- CORE_FAULT_DETECT (R422, R425, R545). -/
def State.coreFault (s : State) (k : Nat) (c : CoreCause) : Option State :=
  if k < 180 ∧ bitOf (s.coreMap k) 29 = false ∧ (s.coreActive k = true ∨ s.coreSpare k = true) then
    match c with
    | .fault => some (s.fenceCore k)
    | .localUe w =>
      if 131072 ≤ w then none
      else
        let staging := decide (0xC0000 ≤ 8 * w)
        let a := if staging || !s.coreActive k then 0 else localBase + 0x100000 * (s.fencedLogical k) + 8 * w
        let hits := (s.rru.localUe.filter fun x => decide (s.time < x.2.2 + dayNs)) ++ [(k, w, s.time)]
        let third := decide (3 ≤ (hits.filter fun x => x.1 == k && x.2.1 == w).length)
        let s1 := (s.modRru fun r => { r with localUe := hits }).record
          { kind := 0x06, scope := if third then 2 else 1, action := if staging then 4 else 1, unit := coreUnit k,
            seq := (s.core k).seq, addr := a, detail := w }
        let s2 := if staging then (if (s.core k).cur.isSome then s1.addReg regCoreReruns 1 else s1)
          else if s.coreActive k then s1.poisonLine (a / 64) else s1
        some (if third then s2.fenceCore k else s2)
  else none

/-- CORE_FAULT_DETECT: physical core `core`. -/
def execCoreFaultDetect (core : Nat) (cause : CoreCause) (s : State) : Result :=
  attempt s fun s => if s.stopped then none else s.coreFault core cause

/-- PATCH_COMPLETE: the spare takes the fenced core's logical number (R426). -/
def execPatchComplete (core : Nat) (s : State) : Result :=
  attempt s fun s =>
    let waits := s.rru.patching.any fun x => x.1 == core && (x.2.2 || s.autoPatch)
    if waits = true ∧ s.spareOk core = true ∧ s.stopped = false then
      let p := spareOf core
      let n := s.fencedLogical core
      let s1 := (s.setReg (regCoreMap p) (2 ^ 30 + n)).setFld (regCoreMap core) 7 0 0xFF
      let s3 := (s1.dropPatching core).record
        { kind := 0x07, scope := 2, action := 3, unit := coreUnit core, seq := s.faultTask core, detail := p }
      some (s3.loseWaiting core)
    else none

/-- A write of RRU_PATCH (R427). -/
def State.writePatch (s : State) (v : Nat) : State :=
  let k := getBits v 7 0
  let s1 := s.setReg regRruPatch k
  if bitOf v 31 then
    s1.modRru fun r => { r with patching := r.patching.map fun x => if x.1 = k then (x.1, x.2.1, true) else x }
  else s1

/-- PATCH_GO. -/
def execPatchGo (v : Word) (s : State) : Result :=
  attempt s fun s => if s.ready then some (s.writePatch v.toNat) else none

/-- PATCH_WAIT_TIMEOUT: 1 ms without PATCH_GO while AUTO_PATCH is 0 (R427). -/
def execPatchWaitTimeout (core : Nat) (s : State) : Result :=
  attempt s fun s =>
    if (s.rru.patching.any fun x => x.1 == core && !x.2.2 && decide (x.2.1 + 1000000 ≤ s.time)) = true
        ∧ s.autoPatch = false then some (s.loseCore core)
    else none

/-! ### Engines (R429) -/

/-- The task at work on an engine with parity: SCU, DSO, CMB, PRU, or the copy engine under `MOVE`. -/
def State.taskOn (s : State) (f : Nat) : Option Task :=
  s.tasks.find? fun t => (functionsOf t.opcode t.form).head? == some f && t.opcode != opPublish
    && decide (t.issueTime ≠ 0) && (t.phase == .running || t.phase == .ended)

/-- A task ended by the fence of its engine: its outputs are undefined, and its transfers and its exchange end with it
(R429; log entry 20). -/
def State.fencedTask (s : State) (t : Task) : State :=
  let s1 := (s.scrambleOutputs t).dropXfers t.seq
  let s2 := { s1 with col := { s1.col with xchgs := s1.col.xchgs.filter fun x => x.seq != t.seq } }
  s2.modTask t.seq fun x => { x with phase := .ended, err := errUnitFenced, outcome := 2 }

/-- ENGINE_FAULT_DETECT: the task restarts once from its beginning (ACTION 7, R422), or the engine is fenced (R429). -/
def execEngineFaultDetect (f : Nat) (s : State) : Result :=
  attempt s fun s =>
    if [2, 3, 4, 6, 8].contains f = true ∧ s.stopped = false then
      match s.taskOn f with
      | none => none
      | some t =>
        let again := s.bit regRruCtrl 2 && t.faults == 0
        let s1 := s.record { kind := 0x08, scope := 3, action := if again then 7 else 2, unit := unitWord 38 f,
                             seq := t.seq, detail := f }
        let s2 := s1.modTask t.seq fun x => { x with faults := x.faults + 1 }
        some (if again then s2
          else (s2.setBit regRruEngineFence f true).fencedTask t)
    else none

/-! ### Trig points (R434 to R436) -/

/-- The regions whose index is set in RRU_TRIG_REGIONS. -/
def State.tracked (s : State) : List Nat := s.regions.filter fun i => s.bit (regRruTrigRegions (i / 64)) (i % 64)

/-- Every page of the tracked regions, ascending. -/
def State.trackedPages (s : State) : List Nat :=
  (s.tracked.flatMap fun i => (List.range (s.regionPages i)).map (s.regionFirst i + ·)).foldl (fun l p => setInsert p l) []

/-- The conditions of R435 but the last (R435, R440). -/
def State.quietDevice (s : State) : Bool :=
  s.halted 1 && s.ctxUsed.isEmpty && s.col.xchgs.all (fun x => x.aborted != 0)
    && ((List.range 64).all fun n => !s.bit (regCmdStrmCtrl n) 0
      || s.reg (regCmdStrmRetire n) == s.reg (regCmdStrmHead n))
    && !s.col.colls.any fun c => c.entered && !c.closed

/-- Offsets of the pages and of the signature in a record of `n` pages (R436). -/
def trigPages (n : Nat) : Nat := 65536 * ceilDiv (69632 + 8 * n) 65536
def trigSig (n : Nat) : Nat := trigPages n + 65536 * n

/-- Bytes 0 to 63 of a trig record. -/
def State.trigHead (s : State) (n : Nat) : List Byte :=
  leBytes 8 (s.reg regRruTrigCount + 1) ++ leBytes 8 s.time ++ leBytes 8 (s.reg regCmdJournalHead - 1)
    ++ leBytes 16 s.chain ++ leBytes 8 (s.reg regRruLogHead) ++ leBytes 2 s.deviceId
    ++ leBytes 1 (s.fld regGlbNumerics 31 24) ++ leBytes 1 (partitionP s.variant (s.bit regGlbPartition 0) - 1)
    ++ leBytes 4 n ++ leBytes 4 (trigSig n) ++ zeros 4

/-- Bytes 4,096 to 69,631 of a trig record, and the page numbers. -/
def State.trigBody (s : State) (pages : List Nat) : List Byte :=
  ((List.range 64).flatMap fun n => leBytes 8 (s.reg (regCmdStrmHead n)))
    ++ ((List.range 2048).flatMap fun e => leBytes 8 (s.reg (regCmdEvent e)))
    ++ ((List.range 4096).flatMap fun g => leBytes 4 (if g = 0 then 0 else s.reg (regColGroupCseq g)))
    ++ zeros 4 ++ ((List.range 8).flatMap fun q => leBytes 4 (s.rme.nextSn.getD q 0)) ++ zeros 28
    ++ ((List.range 512).flatMap fun i => leBytes 8 (s.reg (defReg (i / 8) (i % 8))))
    ++ ((List.range 512).flatMap fun i => leBytes 8 (s.reg (acctReg (i / 8) (i % 8))))
    ++ ((List.range 64).flatMap fun j => leBytes 4 (s.imgVersion j) ++ leBytes 32 (s.imgDigest j))
    ++ ((List.range 64).flatMap fun x => leBytes 4 (s.reg (regColXseq x)))
    ++ zeros (69632 - 48192) ++ pages.flatMap (leBytes 8)

/-- A write of GO to RRU_TRIG_CTRL (R435). A GO while a trig point is under way is ignored (log entry 20). -/
def State.trigGo (s : State) (full : Bool) : State :=
  let s0 := s.setBit regRruTrigCtrl 1 full
  if s0.rru.trig.any (fun t => !t.signing) then s0
  else
    let pages := if full then s0.trackedPages else s0.trackedPages.filter s0.rru.dirty.contains
    if s0.quietDevice = true ∧ trigSig pages.length + sigLen256f ≤ s0.reg regRruTrigSize ∧ s0.stopped = false then
      let t : Trig := { base := s0.reg regRruTrigBase, pages := pages, header := s0.trigHead pages.length,
                        sigOff := trigSig pages.length, digest := [], signing := false }
      let s1 := (s0.setBit regRruTrigCtrl 2 false).setBit regRruTrigCtrl 3 false
      s1.modRru fun r => { r with
        trig := some t, unsigned := r.unsigned ++ r.trig.toList, dirty := r.dirty.filter fun p => !pages.contains p }
    else s0.setBit regRruStatus 4 true

/-- TRIG_GO. -/
def execTrigGo (full : Bool) (s : State) : Result :=
  attempt s fun s => if s.ready then some (s.trigGo full) else none

/-- A page copied into the record line by line; a poisoned line is copied poisoned and recorded, with the row
reported for it before, or a free one (R436, R545; log entry 5). -/
def State.trigCopy (s : State) (number dst page : Nat) : State :=
  (List.range 1024).foldl (fun z i =>
    let a := 65536 * page + 64 * i
    if z.poisoned a then
      let row := leNat ((List.range 4).map fun j => Config.freeByte (z.free + j))
      let ch := (z.placeOf a).1
      let line := (z.placeOf a).2 / 64
      (({ z with free := z.free + 4 }.noteRow ch line row).putPoisoned (dst + 64 * i) (z.rdBytes a 64)).record
        { kind := 0x01, scope := 1, action := 1, unit := unitWord (stackDomain ch) ch, addr := a,
          detail := z.rowOf ch line row, aux := number }
    else z.putBytes (dst + 64 * i) (z.rdBytes a 64)) s

/-- The record written: header, state, page numbers, pages and digest (R436). -/
def State.trigWrite (s : State) (t : Trig) : State :=
  let n := t.pages.length
  let number := s.reg regRruTrigCount + 1
  let s1 := s.putBytes (t.base + 4096) (padTo (trigPages n - 4096) (s.trigBody t.pages))
  let s2 := (List.range n).foldl (fun z i =>
    z.trigCopy number (t.base + trigPages n + 65536 * i) (t.pages.getD i 0)) s1
  let d := shake256 32 (t.header ++ s2.rdBytes (t.base + 4096) (t.sigOff - 4096))
  let s3 := s2.putBytes t.base (t.header ++ d ++ zeros (4096 - 96))
  let s4 := (s3.setReg regRruTrigCount number).setBit regRruTrigCtrl 2 true
  (s4.modRru fun r => { r with trig := some { t with digest := d, signing := true } }).startSigning.irq 71

/-- TRIG_COMPLETE. -/
def execTrigComplete (s : State) : Result :=
  attempt s fun s => match s.rru.trig with
    | some t => if t.signing = false ∧ s.stopped = false then some (s.trigWrite t) else none
    | none => none

/-- A trig record's signature over its digest, stored (R436). -/
def State.signTrig (s : State) (t : Trig) : State :=
  let (sig, s1) := s.identitySign ctxTrig t.digest
  s1.putBytes (t.base + t.sigOff) sig

/-- TRIG_SIGNED: the signature of the oldest record without one is stored; SIGNED tells of the last record (R436,
R443). -/
def execTrigSigned (s : State) : Result :=
  attempt s fun s =>
    if s.signerNow = some .trig ∧ s.stopped = false then
      match s.rru.unsigned, s.rru.trig with
      | t :: rest, _ => some (((s.signTrig t).modRru fun r => { r with unsigned := rest }).nextSigning.irq 71)
      | [], some t =>
        if t.signing then
          some ((((s.signTrig t).setBit regRruTrigCtrl 3 true).modRru fun r => { r with trig := none }).nextSigning.irq 71)
        else none
      | [], none => none
    else none

/-! ### Restores (R440) -/

/-- The images that a record names are ACTIVE with the same digest. -/
def State.restoreImages (s : State) (a : Nat) : Bool :=
  (List.range 64).all fun k =>
    let v := s.rdNat (a + 45632 + 36 * k) 4
    v == 0 || s.images.any fun j => s.imgVersion j == v && s.imgState j == 4
      && s.imgDigest j == s.rdNat (a + 45632 + 36 * k + 4) 32

/-- Every condition of a restore. -/
def State.restoreOk (s : State) : Bool :=
  let a := s.reg regRruRestore
  s.quietDevice && ((List.range 4).all fun i => s.rdNat (a + 64 + 8 * i) 8 == s.reg (regRruRestoreDigest i))
    && s.restoreImages a

/-- Registers `f i` for `i < n` taken from memory, `w` bytes each. -/
def State.loadRegs (s : State) (n w a : Nat) (f : Nat → Nat) : State :=
  (List.range n).foldl (fun z i => z.setReg (f i) (s.rdNat (a + w * i) w)) s

/-- The values after a restore (R440). -/
def State.restoreFrom (s : State) (a : Nat) : State :=
  let s1 := ((s.loadRegs 64 8 (a + 4096) regCmdStrmHead).loadRegs 64 8 (a + 4096) regCmdStrmTail).loadRegs 64 8 (a + 4096)
    regCmdStrmRetire
  let s2 := s1.loadRegs 2048 8 (a + 4608) regCmdEvent
  let s3 := (s2.loadRegs 4095 4 (a + 20996) fun i => regColGroupCseq (i + 1)).loadRegs 64 4 (a + 47936) regColXseq
  let s4 := (s3.loadRegs 512 8 (a + 37440) fun i => defReg (i / 8) (i % 8)).loadRegs 512 8 (a + 41536) fun i =>
    acctReg (i / 8) (i % 8)
  let s5 := (List.range 64).foldl (fun z n => if z.remain n < 0 then z.setRemain n 0 else z) s4
  { s5 with rme := { s5.rme with nextSn := (List.range 8).map fun q => s.rdNat (a + 37380 + 4 * q) 4
                                 window := [], floors := [] }
            rru := { s5.rru with dirty := [] }
            deferred := [] }

/-- What the RRU does at its resume through RRU_CONTROL while the Command Engine is halted (R440; log entry 20). -/
def State.restore (s : State) : State :=
  let a := s.reg regRruRestore
  if s.halted 0 = true ∧ a ≠ 0 then
    (if s.restoreOk then s.restoreFrom a else s.setBit regRruStatus 5 true)
  else s

/-! ### Region digests (R442) -/

/-- A write of RRU_DIGEST_REQ. -/
def State.writeDigestReq (s : State) (v : Nat) : State :=
  let r := getBits v 7 0
  let s1 := s.setFld regRruDigestReq 7 0 r
  if bitOf v 31 = true ∧ s.regionValid r = true then
    (s1.setBit regRruDigestReq 30 false).modRru fun x => { x with digesting := some r }
  else s1

/-- DIGEST_REQ_GO. -/
def execDigestReqGo (region : Nat) (s : State) : Result :=
  attempt s fun s => if s.ready = true ∧ region < 256 then some (s.writeDigestReq (region + 2 ^ 31)) else none

/-- REGION_DIGEST_COMPLETE, after any `PUBLISH` that hashes (R442). -/
def execRegionDigestComplete (s : State) : Result :=
  attempt s fun s => match s.rru.digesting with
    | some r =>
      if (s.pubs.any fun b => b.step == 1) = false ∧ s.stopped = false then
        let d := s.imageDigest (s.regionFirst r) (s.regionPages r)
        let s1 := (List.range 4).foldl (fun z i => z.setReg (regRruDigestOut i) (leNat (slice d (8 * i) 8))) s
        some ((s1.setBit regRruDigestReq 30 true).modRru fun x => { x with digesting := none })
      else none
    | none => none

/-! ### The log's tail (R439) -/

/-- A write of RRU_LOG_TAIL. -/
def State.writeLogTail (s : State) (v : Nat) : State :=
  let t := min v (s.reg regRruLogHead)
  let s1 := s.setReg regRruLogTail t
  if s.reg regRruLogTail < t then s1.setBit regRruStatus 7 false else s1

/-- LOG_TAIL_WRITE. -/
def execLogTailWrite (v : Word) (s : State) : Result :=
  attempt s fun s => if s.ready then some (s.writeLogTail v.toNat) else none

end Sys2Proof.Machine
end

