-- ==== Sys2Proof/Machine/Control.lean ====
section
/-! DEFINITION. Halting and resuming functions (R106 to R109, R277), the actions that wait for an event entry (R104,
R543), the control instructions (R272 to R277), completion (R96), the journal's segments and tails (R100 to R103), the
owner epoch (R110), and the Scheduler's periods, turns and pre-emptions (R400 to R412, R546). -/

namespace Sys2Proof.Machine

open Sys2Proof

/-! ### Completing tasks -/

/-- A task ended with an error code, or DONE, and completed. -/
def State.completeNow (s : State) (q err : Nat) : State :=
  let s1 := s.endTask q err 0
  match s1.task? q with
  | some t => (s1.finish t).takeUpReplies
  | none => s1

/-- The effect of a task is all there, and only its completion is still to come. -/
def Task.over_ (t : Task) : Bool :=
  t.phase == .ended
    || (t.phase == .running && (t.opcode == opGather || t.opcode == opMove || t.opcode == opShadow))

/-- TASK_COMPLETE. -/
def execTaskComplete (seq : Nat) (s : State) : Result :=
  attempt s fun s =>
    if s.stopped then none
    else
      let s1 := if (s.task? seq).any fun t => isRemote t.opcode then s.settleRemote seq else s
      match s1.task? seq with
      | some t => if t.over_ then some ((s1.finish t).takeUpReplies.memberDone seq) else none
      | none => none

/-! ### Resumes (R104, R107, R109, R418, R546) -/

/-- SCH_LC settings take effect at the Scheduler's resume (R546). -/
def State.lcResume (s : State) : State :=
  (List.range 64).foldl (fun z n =>
    let w := z.reg (regSchLc n)
    if w = z.lcSetting n then z
    else
      let cap : Int := (getBits w 31 0 * 1000 : Nat)
      let z1 := z.setRemain n (min cap (z.remain n))
      let reset := resetWord z.variant (regSchLc n)
      { z1 with sched := { z1.sched with
          inForce := mapPut n (if BitVec.ofNat 64 w = reset then none else some (BitVec.ofNat 64 w)) z1.sched.inForce
          periods := (z1.sched.periods ++ List.replicate (n + 1 - z1.sched.periods.length) 0).set n z1.time } }) s

/-- What a function does before its RESUME entry. -/
def State.beforeResume (s : State) (f : Nat) (control : Bool) : State :=
  if f = 1 then s.lcResume.applyResidency
  else if f = 15 ∧ control = true then s.restore
  else s

/-- What a function does once it takes new work again. -/
def State.afterResume (s : State) (f : Nat) : State :=
  if f = 1 then s.resumeParked.takeUpReplies.startPreempts
  else if f = 8 then { s with progMib := min 10 (s.fld regNstCtrl 3 0) }.retireImages
  else if f = 9 then s.smsResume
  else if f = 10 then { s with haltEpoch := none }
  else s

/-- A halted function resumed, its entry written. -/
def State.resumeNow (s : State) (f : Nat) (control : Bool) : State :=
  (((s.beforeResume f control).resumeEntry f).setBit (statusReg f) 1 false).afterResume f

/-- The register through which a function is halted without a task: CMD_CONTROL or RRU_CONTROL. -/
def controlReg (f : Nat) : Option Nat := if f = 0 then some regCmdControl else if f = 15 then some regRruControl else none

/-- RESUME of a control register, which reads 1 until it is taken (R105, R443). -/
def State.setResume (s : State) (f : Nat) (b : Bool) : State :=
  match controlReg f with
  | some r => s.setBit r 1 b
  | none => s

/-- A waiting action performed (R104, R543). -/
def State.act (s : State) : Waiting → State
  | .resume f task =>
    let s := if task.isNone then s.setResume f false else s
    if s.halted f then
      let s1 := s.resumeNow f task.isNone
      match task with
      | some q => s1.completeNow q 0
      | none => s1
    else match task with
      | some q => s.completeNow q errNotHalted
      | none => s
  | .epoch v =>
    let s1 := (List.range 64).foldl (fun z n =>
      z.setReg (regCmdStrmTail n) (z.reg (regCmdStrmHead n) + v.toNat * 2 ^ 32)) (s.setReg regCmdOwnerEpoch v.toNat)
    { s1 with deferred := [] }.epochEntry v.toNat
  | .faultClear n =>
    if s.bit (regCmdStrmStatus n) 1 then
      (s.event evStreamResumed n (shake256 16 (leBytes 4 (s.strmStatus n)))).setBit (regCmdStrmStatus n) 1 false
    else s
  | .darnOpen ch => s.openDarning ch
  | .darnClose => s.closeDarning.darnAll
  | .pubPrepared q =>
    match s.pub? q with
    | some b => let s1 := s.publishPrepared b; s1.publishFinish b
    | none => s
  | .pubCommit q =>
    match s.pub? q with
    | some b => s.publishCommit b
    | none => s

/-- The waiting actions performed in the order in which they arose, as far as their entries can be written. -/
def State.serve (s : State) : Nat → State
  | 0 => s
  | f + 1 =>
    match s.journal.waiting with
    | [] => s
    | w :: rest =>
      if s.eventFits then ({ s with journal := { s.journal with waiting := rest } }.act w).serve f else s

/-- The waiting actions served. -/
def State.serveWaiting (s : State) : State := s.serve (2 * s.journal.waiting.length + 8)

/-- An action that writes an event entry: now, or behind the others that wait. -/
def State.arise (s : State) (w : Waiting) : State := (s.wait w).serveWaiting

/-! ### Halts (R106, R183, R246, R277, R321, R395, R418) -/

/-- A halt of a function requested: it takes no new work. The Activation Guard completes the items that it holds
(R217). -/
def State.requestHalt (s : State) (f : Nat) : State :=
  if s.halted f || s.halting f then s
  else
    let s0 := if f = 7 then { s with guardHeld := s.heldItems } else s
    let s1 := s0.setBit (statusReg f) 0 true
    if f = 1 then (s1.tasks.filter fun t => !t.lc && t.phase == .running).foldl State.preemptTask s1
    else s1

/-- A task in execution works for function `f` (R106). -/
def State.worksFor (s : State) (f : Nat) : Bool :=
  s.tasks.any fun t => (functionsOf t.opcode t.form).contains f && decide (t.issueTime ≠ 0)
    && (t.phase == .running || t.phase == .ended)

/-- The function has no work left that its halt waits for. -/
def State.haltDone (s : State) (f : Nat) : Bool :=
  if f = 1 then (List.range 8).all fun e => (s.holders e).isEmpty
  else if f = 2 ∨ f = 3 ∨ f = 4 ∨ f = 6 then !s.worksFor f
  else if f = 5 then s.cores.all fun c => c.cur.isNone && c.vec.isNone
  else if f = 7 then s.guardHeld.isEmpty
  else if f = 8 then !s.worksFor 8 && s.pages.all fun r => r.place != 1 && r.place != 3
  else if f = 9 then s.hbm.training.isEmpty && s.hbm.margining.isEmpty
  else if f = 10 ∨ f = 13 then
    !(s.col.colls.any fun c => c.entered && !c.closed && c.aborted == 0) && !(s.col.xchgs.any fun x => x.entered && x.aborted == 0)
  else if f = 11 then (List.range 24).all fun p => s.portState p != 1 && s.portState p != 2
  else if f = 12 then s.rme.xfers.all fun x => x.reqs.all (·.reply.isSome)
  else true

/-- The `HALT` or `RESUME` tasks that wait on a function. -/
def State.waitingOn (s : State) (op f : Nat) : List Task :=
  s.tasks.filter fun t => t.opcode == op && t.phase == .running && t.imm 4 0 == f

/-- HALTED set: the `HALT` tasks complete, and resumes that waited for it are taken (R277). -/
def State.haltComplete (s : State) (f : Nat) : State :=
  let s1 := (s.setBit (statusReg f) 0 false).setBit (statusReg f) 1 true
  let s2 := if f = 10 then { s1 with haltEpoch := some s1.epoch } else s1
  let s3 := (s2.waitingOn opHalt f).foldl (fun z t => z.completeNow t.seq 0) s2
  let s4 := (s3.waitingOn opResume f).foldl (fun z t => z.arise (.resume f (some t.seq))) s3
  match controlReg f with
  | some r => if s4.bit r 1 then s4.arise (.resume f none) else s4
  | none => s4

/-- FUNCTION_HALT_COMPLETE. -/
def execFunctionHaltComplete (f : Nat) (s : State) : Result :=
  attempt s fun s => if f < 16 ∧ s.halting f = true ∧ s.haltDone f = true then some (s.haltComplete f) else none

/-- A resume of function `f` through its control register is set and not taken yet. -/
def State.resumeWaits (s : State) (f : Nat) : Bool :=
  match controlReg f with
  | some r => s.bit r 1
  | none => false

/-- A resume through a control register: taken when the function is halted, kept until HALTED while it halts. -/
def State.controlResume (s : State) (f : Nat) : State :=
  if s.halted f then
    (if f = 0 ∧ s.journal.opened = false then
      let s1 := { s with journal := { s.journal with opened := true } }
      (s1.openEntry.resumeNow 0 true).serveWaiting
    else if s.resumeWaits f then s
    else (s.setResume f true).arise (.resume f none))
  else if s.halting f then s.setResume f true
  else s

/-- CMD_HALT. -/
def execCmdHalt (s : State) : Result := attempt s fun s => if s.ready then some (s.requestHalt 0) else none

/-- CMD_RESUME. -/
def execCmdResume (s : State) : Result := attempt s fun s => if s.ready then some (s.controlResume 0) else none

/-- RRU_HALT. -/
def execRruHalt (s : State) : Result := attempt s fun s => if s.ready then some (s.requestHalt 15) else none

/-- RRU_RESUME. -/
def execRruResume (s : State) : Result := attempt s fun s => if s.ready then some (s.controlResume 15) else none

/-! ### The control instructions (R272 to R277) -/

/-- HALT: it completes when the function's HALTED bit is set. -/
def execHalt (seq : Nat) (s : State) : Result :=
  attempt s fun s => match s.tryIssue seq opHalt 0 with
    | some (s1, t) =>
      let f := t.imm 4 0
      let s2 := s1.requestHalt f
      some (if s2.halted f then s2.completeNow seq 0 else s2)
    | none => none

/-- RESUME: it completes after the function's RESUME entry, or with NOT_HALTED. -/
def execResume (seq : Nat) (s : State) : Result :=
  attempt s fun s => match s.tryIssue seq opResume 0 with
    | some (s1, t) =>
      let f := t.imm 4 0
      if s1.halted f then some (s1.arise (.resume f (some seq)))
      else if s1.halting f then some s1
      else some (s1.completeNow seq errNotHalted)
    | none => none

/-- What a `FENCE` waits for beyond its issue conditions (R272). -/
def State.fenceOpen (s : State) (t : Task) : Bool :=
  (t.imm 0 0 == 1 && s.rme.xfers.any fun x => x.stream == t.stream && decide (x.seq < t.seq) && !x.acked)
    || (t.imm 1 1 == 1
      && ((s.col.colls.any fun c => c.stream == t.stream && c.task.any (fun q => decide (q < t.seq)) && !c.closed
          && c.aborted == 0)
        || s.col.xchgs.any fun x => x.stream == t.stream && decide (x.seq < t.seq) && x.aborted == 0))

/-- An issued `FENCE` completes as soon as nothing is open; a failed posted write ends it with POSTED_FAILED. -/
def State.tryFence (s : State) (t : Task) : State :=
  if s.fenceOpen t then s
  else if t.imm 0 0 = 1 ∧ s.rme.postedFailed.contains t.stream = true then
    { s with rme := { s.rme with postedFailed := setErase t.stream s.rme.postedFailed } }.completeNow t.seq errPostedFailed
  else s.completeNow t.seq 0

/-- FENCE. -/
def execFence (seq : Nat) (s : State) : Result :=
  attempt s fun s => match s.task? seq with
    | some t =>
      if t.opcode = opFence ∧ t.phase = .running ∧ s.stopped = false then
        (if s.fenceOpen t then none else some (s.tryFence t))
      else match s.tryIssue seq opFence 0 with
        | some (s1, t1) => some (s1.tryFence t1)
        | none => none
    | none => none

/-- The counter that a `WAIT` names has reached its threshold. -/
def State.waitMet (s : State) (t : Task) : Bool := decide (t.x 1 63 0 ≤ s.reg (regCmdEvent (t.imm 10 0)))

/-- WAIT: it completes at issue. -/
def execWait (seq : Nat) (s : State) : Result :=
  attempt s fun s =>
    if (s.task? seq).any s.waitMet then
      match s.tryIssue seq opWait 0 with
      | some (s1, _) => some (s1.completeNow seq 0)
      | none => none
    else none

/-- WAIT_TIMEOUT: TIMEOUT_US after eligibility with the counter below the threshold. -/
def execWaitTimeout (seq : Nat) (s : State) : Result :=
  attempt s fun s => match s.task? seq with
    | some t =>
      let late := match t.eligible with
        | some e => decide (e + 1000 * t.imm 47 20 ≤ s.time)
        | none => false
      if t.opcode = opWait ∧ t.phase = .waiting ∧ t.imm 47 20 ≠ 0 ∧ late = true ∧ s.waitMet t = false ∧ s.stopped = false then
        some (s.completeNow seq errWaitTimeout)
      else none
    | none => none

/-- SIGNAL. -/
def execSignal (seq : Nat) (s : State) : Result :=
  attempt s fun s => match s.tryIssue seq opSignal 0 with
    | some (s1, t) => some ((s1.eventAdd (t.imm 10 0) (t.imm 47 16)).completeNow seq 0)
    | none => none

/-! ### Events, epoch and faults of streams (R85, R89, R110) -/

/-- A write of CMD_EVENT_ADD. -/
def State.writeEventAdd (s : State) (v : Nat) : State := s.eventAdd (getBits v 42 32) (getBits v 31 0)

/-- EVENT_ADD. -/
def execEventAdd (v : Word) (s : State) : Result :=
  attempt s fun s => if s.ready then some (s.writeEventAdd v.toNat) else none

/-- OWNER_EPOCH_WRITE. -/
def execOwnerEpochWrite (v : BitVec 32) (s : State) : Result :=
  attempt s fun s => if s.ready then some (s.arise (.epoch v)) else none

/-- STREAM_FAULT_CLEAR: FAULT of a stream cleared. -/
def execStreamFaultClear (n : Nat) (s : State) : Result :=
  attempt s fun s =>
    if s.ready = true ∧ n < 64 ∧ s.bit (regCmdStrmStatus n) 1 = true then some (s.arise (.faultClear n)) else none

/-! ### Segments and tails (R100 to R103, R481, R482) -/

/-- SEGMENT_TIME_LIMIT: 1 s after the open segment's first entry. -/
def execSegmentTimeLimit (s : State) : Result :=
  attempt s fun s =>
    if s.journal.count ≠ 0 ∧ s.journal.firstTime + secondNs ≤ s.time ∧ s.bit regRruStatus 8 = false then
      some (s.closeSegment 2)
    else none

/-- A segment record (R482). -/
def State.segmentRecord (s : State) (g : Segment) : List Byte :=
  ascii "FD8J" ++ leBytes 4 1 ++ leBytes 8 g.index ++ leBytes 8 g.firstSeq ++ leBytes 8 g.lastSeq
    ++ leBytes 16 g.lastChain.toNat ++ leBytes 16 g.predChain.toNat ++ leBytes 8 g.time ++ g.digest
    ++ leBytes 4 (s.reg regRruResets) ++ leBytes 4 g.cause
    ++ leBytes 8 (s.reg (regSecFwDigest 0)) ++ leBytes 8 (s.reg (regSecFwDigest 1))

/-- SEGMENT_SIGNED: the oldest closed segment's record and signature are stored in its slot, when it is the turn of its
signature. -/
def execSegmentSigned (s : State) : Result :=
  attempt s fun s => match s.journal.signing with
    | [] => none
    | g :: rest =>
      if s.signerNow = some .segment ∧ s.jsigFree = true ∧ s.bit regRruStatus 8 = false ∧ s.quenchOver = false then
        let r := s.segmentRecord g
        let (sig, s1) := s.identitySign ctxJseg r
        let slot := s.reg regCmdJsigBase + 57344 * (g.index % s.reg regCmdJsigCount)
        let s2 := s1.putBytes slot (padTo 57344 (r ++ sig))
        some { s2 with journal := { s2.journal with signing := rest } }.nextSigning.updateBacklog
      else none

/-- A write of CMD_JOURNAL_TAIL (R103). A value below the earlier one is taken as it is, on which the spec is silent (log
entry 36). -/
def State.writeJournalTail (s : State) (v : Nat) : State :=
  let t := min v (s.reg regCmdJournalClosed)
  let freed := t - s.reg regCmdJournalTail
  let s1 := s.setReg regCmdJournalTail t
  let s2 := { s1 with journal := { s1.journal with reserveUsed := s1.journal.reserveUsed - freed } }
  s2.updateFull.serveWaiting

/-- JOURNAL_TAIL_WRITE. -/
def execJournalTailWrite (v : Word) (s : State) : Result :=
  attempt s fun s => if s.ready then some (s.writeJournalTail v.toNat) else none

/-- A write of CMD_JSIG_TAIL. -/
def State.writeJsigTail (s : State) (v : Nat) : State :=
  (s.setReg regCmdJsigTail (min v (s.reg regCmdJsigHead))).startSigning

/-- JSIG_TAIL_WRITE. -/
def execJsigTailWrite (v : Word) (s : State) : Result :=
  attempt s fun s => if s.ready then some (s.writeJsigTail v.toNat) else none

/-! ### Periods (R400, R403, R546) -/

/-- LC_PERIOD_START: at a multiple of the period since the last start; a latency-critical task that the new budget admits
pre-empts what stands in its way (R399, R409). -/
def execLcPeriodStart (n : Nat) (s : State) : Result :=
  attempt s fun s => if s.periodDue n then some (s.beginPeriod n).startPreempts else none

/-- The admission test of R400 over given settings. -/
def admitOk (settings : List Nat) (blockMax util : Nat) : Bool :=
  let b := max 1 blockMax
  let u := max 1 (min 1000 util)
  let used := settings.filter fun w => getBits w 31 0 != 0
  let sum : Rat := (used.map fun w => ((getBits w 31 0 + b : Nat) : Rat) / (periodOf w : Rat)).foldl (· + ·) 0
  (settings.all fun w => decide (getBits w 31 0 ≤ periodOf w)) && decide (sum ≤ (u : Rat) / 1000)

/-- The settings of SCH_LC, with one replaced. -/
def State.lcSettings (s : State) (n v : Nat) : List Nat :=
  (List.range 64).map fun i => if i = n then v else s.reg (regSchLc i)

/-- A write of SCH_LC(n) (R400). -/
def State.writeLc (s : State) (n v : Nat) : State :=
  s.whWrite 1 fun s =>
    if admitOk (s.lcSettings n v) (s.fld regSchCtrl 47 32) (s.fld regSchCtrl 31 22) then s.setReg (regSchLc n) v
    else s.setBit regSchStatus 4 true

/-- SCH_LC_WRITE. -/
def execSchLcWrite (n : Nat) (v : Word) (s : State) : Result :=
  attempt s fun s => if s.ready = true ∧ n < 64 then some (s.writeLc n v.toNat) else none

/-- A write of SCH_CTRL (R400, R419). -/
def State.writeSchCtrl (s : State) (v : Nat) : State :=
  s.whWrite 1 fun s =>
    let changes := getBits v 47 32 != s.fld regSchCtrl 47 32 || getBits v 31 22 != s.fld regSchCtrl 31 22
    if changes && !admitOk (s.lcSettings 64 0) (getBits v 47 32) (getBits v 31 22) then s.setBit regSchStatus 4 true
    else s.setReg regSchCtrl (getBits v 63 22 * 2 ^ 22 + getBits v 15 8 * 2 ^ 8 + min 8 (getBits v 3 0))

/-- SCH_CTRL_WRITE. -/
def execSchCtrlWrite (v : Word) (s : State) : Result :=
  attempt s fun s => if s.ready then some (s.writeSchCtrl v.toNat) else none

/-! ### Pre-emption and turns (R407 to R412) -/

/-- The boundary of a core task: no core works on it, and no output tile with several parts is begun (R409). -/
def State.coreBoundary (s : State) (t : Task) : Bool :=
  s.cores.all (fun c => !(c.cur.any fun r => r.seq == t.seq) && !(c.vec.any fun b => b.seq == t.seq))
    && !(s.parts.any fun p => p.run.seq == t.seq && decide (1 < p.run.parts))
    && !(s.runs.any fun r => r.seq == t.seq && s.tileStarted r) && !(s.guardHeld.any fun g => g.1 == t.seq)

/-- The runs of a task that cores have claimed next go back to the list. -/
def State.returnNext (s : State) (q : Nat) : State :=
  (s.cores.filter fun c => c.next.any fun r => r.seq == q).foldl (fun z c =>
    match c.next with
    | some r => (z.setCore { c with next := none }).listRun r
    | none => z) s

/-- The boundary that a task has reached: bytes injected of a remote-memory task, and runs and blocks left of another. -/
def State.boundaryOf (s : State) (t : Task) : Nat :=
  if isRemote t.opcode then (s.xfersOf t.seq).foldl (fun n x => n + x.next) 0
  else (s.runs.filter fun r => r.seq == t.seq).length + (s.vblocks.filter fun b => b.seq == t.seq).length

/-- Outstanding requests numbered from an entry on (R410). -/
def numberReqs (e : Nat) : List Xfer → List Xfer
  | [] => []
  | x :: xs =>
    { x with reqs := (List.range x.reqs.length).zipWith (fun i r => { r with entry := e + i }) x.reqs }
      :: numberReqs (e + x.reqs.length) xs

/-- One entry of the outstanding-request table: TXN, OFFSET, LEN, KIND, retries used, timeout deadline (R410; log entry
38). -/
def State.tableEntry (s : State) (x : Xfer) (r : Req) : List Byte :=
  leBytes 4 x.txn ++ leBytes 4 r.offset ++ leBytes 4 r.len ++ leBytes 1 x.kind ++ leBytes 1 r.tries ++ zeros 2
    ++ leBytes 8 (r.sentAt + s.rmeTimeout) ++ zeros 8

/-- The context of a task written to a slot: SEQ, stream, engine and boundary, and engine state, whose form the spec leaves
open; of a remote-memory task also its outstanding requests and empty reply records (R410, R411; log entry 38). -/
def State.saveContext (s : State) (t : Task) (base : Nat) : State :=
  let head := leBytes 8 t.seq ++ leBytes 4 t.stream ++ leBytes 4 ((engineOf t.opcode).getD 8) ++ leBytes 8 (s.boundaryOf t)
  let s1 := (s.scramble base 4096).putBytes base head
  if isRemote t.opcode then
    let xs := numberReqs 0 (s.xfersOf t.seq)
    let rows := xs.flatMap fun x => x.reqs.map (s.tableEntry x)
    let s2 := xs.foldl State.setXfer s1
    (s2.putBytes (base + 4096) (padTo 16384 rows.flatten)).putBytes (base + 20480) (zeros 8192)
  else s1

/-- A pre-empted task's context is saved: its charge, its slot, and the engine freed (R408, R410). -/
def State.park (s : State) (t : Task) : State :=
  let (s1, t1) := s.accrue t
  match (List.range s.ctxSlots).find? fun n => !s.ctxUsed.contains n with
  | none => s
  | some n =>
    let base := s.reg regSchCtxBase + 327680 * n
    let s2 := (s1.setTask { t1 with phase := .parked n, preempt := false }).saveContext t1 base
    (s2.returnNext t.seq).addReg regSchPreempts 1

/-- PREEMPTION_COMPLETE. -/
def execPreemptionComplete (seq : Nat) (s : State) : Result :=
  attempt s fun s => match s.task? seq with
    | some t =>
      if t.preempt = true ∧ t.phase = .running ∧ s.stopped = false
          ∧ (engineOf t.opcode ≠ some 0 ∨ s.coreBoundary t = true) then
        some (s.park t).resumeParked.takeUpReplies
      else none
    | none => none

/-- Someone else waits for an engine: another job's ready task, or a latency-critical one (R407). -/
def State.contended (s : State) (e j : Nat) : Bool :=
  ((s.readyBe e).any fun t => jobIdx t != j)
    || s.tasks.any fun t => engineOf t.opcode == some e && t.lc && s.issueOk t && s.admits t

/-- A turn begins anew for the same job. -/
def State.sameTurn (s : State) (e j : Nat) : State := s.setDeficit j e (s.deficit j e + (s.share j * s.quantumNs : Nat))

/-- A turn ends while the job holds the engine with task `t`; one that cannot be pre-empted, or whose work is done and
only its time runs on, is an overrun (R407). -/
def State.endTurnHeld (s : State) (e j : Nat) (t : Task) : State :=
  if s.contended e j = false then s.sameTurn e j
  else
    let s1 := { s with sched := { s.sched with turn := s.sched.turn.set e none, last := s.sched.last.set e j } }
    let s2 := if t.phase = .running then s1.preemptTask t else s1
    if (s2.task? t.seq).any (·.preempt) then s2 else s2.addReg regSchBeOverruns 1

/-- TURN_END: the charge of the task that holds engine `e` has used up its job's deficit. -/
def execTurnEnd (e : Nat) (s : State) : Result :=
  attempt s fun s =>
    match s.sched.turn.getD e none with
    | none => none
    | some j =>
      match (s.holders e).find? fun t => jobIdx t == j && !t.lc with
      | none => none
      | some t =>
        let (s1, t1) := s.accrue t
        if s1.deficit j e ≤ 0 ∧ s.stopped = false then some (s1.endTurnHeld e j t1) else none

end Sys2Proof.Machine
end

