-- ==== Sys2Proof/Machine/Power.lean ====
section
/-! DEFINITION. The 48 V input and the quench (R444 to R448), voltage trim (R450), peaks (R457) and heat (R458). -/

namespace Sys2Proof.Machine

open Sys2Proof

/-- A change of the power controller's state, and of the input's. -/
def State.modPower (s : State) (f : Power → Power) : State := { s with power := f s.power }

/-- Module TDP in watts (R451). -/
def tdp : Variant → Nat
  | .fd880 => 1400
  | .fd860 => 1000

/-! ### Loss and return of power (R445, R464) -/

/-- The flash with its image header erased: it does not verify (R480; log entry 22). -/
def brokenFlash (f : List Host.Cell) : List Host.Cell :=
  (List.range 4096).foldl (fun m i => mapPut i (some 0xFF) m) f

/-- The fused minimum SVN: fuses that were being blown stand somewhere between the old minimum and the target (R478;
log entry 5). -/
def State.settledFuse (s : State) : Nat :=
  match s.sec.svnTarget with
  | some v => s.sec.svnFuse + (Config.freeByte s.free).toNat % (v - s.sec.svnFuse + 1)
  | none => s.sec.svnFuse

/-- What survives with no power: fuses, flash, and companion memory. -/
def State.unpowered (s : State) (on : Bool) : State :=
  { State.reset with
    variant := s.variant
    mem := s.mem.filter fun c => decide (windowBase ≤ c.1)
    poison := s.poison.filter fun l => decide (windowBase ≤ 64 * l)
    vin := { Vin.reset with mv := s.vin.mv, powered := on, above40 := 0, good := s.vin.good, low := s.vin.mv.toNat,
                            high := s.vin.mv.toNat, surgeStop := s.vin.surgeStop, below58 := s.vin.below58 }
    startup := { Startup.reset with resetLow := s.startup.resetLow, refclk := s.startup.refclk }
    mgmt := { Mgmt.reset with pmAddr := s.mgmt.pmAddr }
    sec := { Sec.reset with svnFuse := s.settledFuse, draws := s.sec.draws, kemPairs := s.sec.kemPairs
                            flash := if s.sec.flashing.isSome then brokenFlash s.sec.flash else s.sec.flash }
    free := s.free + 1
    out := s.out
    pending := s.pending }

/-! ### The quench (R446 to R448) -/

/-- The power record as bytes (R448). -/
def State.powerRecord (s : State) (cause aborted : Nat) : List Byte :=
  leBytes 8 s.time ++ leBytes 1 cause ++ zeros 3 ++ leBytes 4 s.vin.low ++ leBytes 4 s.vin.high
    ++ leBytes 4 s.vin.below38 ++ leBytes 2 (s.fld regPwrInput 31 16) ++ leBytes 2 (s.fld regPwrTemp 15 0)
    ++ leBytes 2 (s.fld regPwrTemp 31 16) ++ leBytes 2 s.unitsGranted ++ leBytes 4 aborted ++ zeros 28

/-- The record put into PWR_QUENCH_RECORD. -/
def State.keepRecord (s : State) (r : List Byte) : State :=
  (List.range 8).foldl (fun z i => z.setReg (regPwrQuenchRecord i) (leNat (slice r (8 * i) 8))) s

/-- The record as PWR_QUENCH_RECORD holds it. -/
def State.keptRecord (s : State) : List Byte := (List.range 8).flatMap fun i => leBytes 8 (s.reg (regPwrQuenchRecord i))

/-- A quench starts (R446): acceptance and issue stop, and the record is taken. -/
def State.startQuench (s : State) (cause : Nat) : State :=
  if s.bit regPwrStatus 9 || s.bit regPwrStatus 10 then s
  else
    let s1 := s.keepRecord (s.powerRecord cause 0)
    let s2 := ((s1.setBit regPwrStatus 9 true).alert 2).irq 69
    let s3 := s2.modPower fun p => { p with quenching := true }
    s3.record { kind := 0x10, scope := 6, action := 8, unit := unitWord 39 14, detail := s.vin.mv.toNat }

/-- A write of 1 to PWR_CTRL.QUENCH. -/
def execPwrQuenchWrite (s : State) : Result := attempt s fun s => if s.ready then some (s.startQuench 4) else none

/-- A region entry cleared, its pages FREE. -/
def State.clearRegion (s : State) (i : Nat) : State := (s.setReg (regCadWregion i) 0).setReg (regCadWregionHi i) 0

/-- A `PUBLISH` cut off before its COMMITTED entry (R238). -/
def State.cutPublish (s : State) (b : Publish) : State :=
  let s1 := s.clearRegion b.region
  if b.step = 3 then s1.freeImage b.entry else s1

/-- Every incomplete task completes ABORTED with QUENCHED, its outputs undefined. -/
def State.abortTasks (s : State) : State :=
  (s.tasks.map (·.seq)).foldl (fun z q =>
    match z.task? q with
    | none => z
    | some t =>
      let t1 := { t with outcome := 5, err := errQuenched, phase := (if t.issueTime = 0 then .ended else t.phase) }
      ((z.scrambleOutputs t).setTask t1).finishOne t1) s

/-- A trig point and its signature are dropped: it never sets DONE (R446). -/
def State.dropTrig (s : State) : State :=
  let s1 := { s with rru := { s.rru with trig := none, unsigned := [] } }
  if s.sec.signer == some Signer.trig then s1.nextSigning else s1

/-- QUENCH_TASKS_STOPPED: the second and third steps of R446. -/
def State.quenchStop (s : State) : State :=
  let n := s.tasks.length
  let s1 := s.abortToward
  let s2 := s1.pubs.foldl State.cutPublish s1
  let s3 := (if s2.bit regRruStatus 8 then s2 else s2.abortTasks).stopEngines
  let r := s3.keptRecord
  let s4 := s3.keepRecord (r.take 32 ++ leBytes 4 n ++ r.drop 36)
  let s5 := if s4.journal.opened = true ∧ s4.bit regRruStatus 8 = false then
      (s4.event evQuench 0 (shake256 16 s4.keptRecord)).closeSegment 3
    else s4
  { s5 with power := { s5.power with stopped := true } }.dropTrig

/-- QUENCH_TASKS_STOPPED. -/
def execQuenchTasksStopped (s : State) : Result :=
  attempt s fun s => if s.power.quenching = true ∧ s.power.stopped = false then some s.quenchStop else none

/-- QUENCH_COMPLETE: closed segments with a slot are signed, HBM is in self-refresh, and the fabric transmitters are
idle; after a surge the stage stops (R444, R446). -/
def execQuenchComplete (s : State) : Result :=
  attempt s fun s =>
    if s.power.stopped = true ∧ s.quenchOver = false ∧ (s.journal.signing = [] ∨ s.jsigFree = false ∨ s.bit regRruStatus 8 = true)
    then
      let s1 := s.flushAborts.setBit regStwAlert 2 false
      let s2 := ((List.range 24).filter fun p => decide (s1.portState p ≠ 0 ∧ s1.portState p ≠ 4)).foldl State.portOff s1
      some (if s2.vin.surgeStop then s2.unpowered false else s2)
    else none

/-! ### The input (R444, R445) -/

/-- VIN is inside 40 V to 60 V. -/
def vinInside (mv : Int) : Bool := decide (40000 ≤ mv ∧ mv ≤ 60000)

/-- The counts after a sample. -/
def Vin.sample (v : Vin) (mv : Int) : Vin :=
  let inside := vinInside mv
  let fresh := !v.excursion && !inside
  let on := v.excursion || !inside
  let lo := if fresh then mv.toNat else min v.low mv.toNat
  let hi := if fresh then mv.toNat else max v.high mv.toNat
  let back := if inside then v.inside + 1 else 0
  { v with
    mv := mv
    above40 := if 40000 ≤ mv then v.above40 + 1 else 0
    good := if inside then v.good + 1 else 0
    below36 := if mv < 36000 then v.below36 + 1 else 0
    below33 := if mv < 33000 then v.below33 + 1 else 0
    above72 := if 72000 < mv then v.above72 + 1 else 0
    excursion := on && !(inside && decide (1000 ≤ back))
    below38 := if on then (if fresh then 0 else v.below38) + (if mv < 38000 then 1 else 0) else v.below38
    above60 := if on then (if fresh then 0 else v.above60) + (if 60000 < mv then 1 else 0) else v.above60
    inside := if on then back else 0
    low := if on then lo else v.low
    high := if on then hi else v.high
    below58 := if mv < 58000 then v.below58 + 1 else 0 }

/-- The flags and counts of PWR_STATUS and PWR_INPUT after a sample. -/
def State.vinFlags (s : State) (was : Bool) : State :=
  let v := s.vin
  let s1 := s.setFld regPwrInput 15 0 (min 65535 (v.mv.toNat / 10))
  let s2 := if v.mv < 40000 then s1.setBit regPwrStatus 4 true else s1
  let s3 := if 60000 < v.mv then s2.setBit regPwrStatus 5 true else s2
  let s4 := s3.setBit regPwrStatus 3 (decide (10000 ≤ v.good))
  if was && !v.excursion && !s4.bit regPwrStatus 9 then s4.addReg regPwrExcursions 1 else s4

/-- The cause for a quench that the input gives, or 0 (R444, R448). -/
def Vin.cause (v : Vin) : Nat :=
  if 1000 < v.below36 then 2 else if 20000 < v.below38 then 1 else if 100000 < v.above60 then 3 else 0

/-- The input is lost: the stage stops at once (R444, R446). -/
def State.vinLost (s : State) : Bool :=
  decide (50 < s.vin.below33) || decide (10 < s.vin.above72)
    || (s.bit regPwrStatus 9 && s.bit regStwAlert 2 && decide (s.vin.mv < 33000))

/-- A sample of VIN while the stage runs. -/
def State.vinRunning (s : State) (mv : Int) : State :=
  let s1 := { s with vin := s.vin.sample mv }.vinFlags s.vin.excursion
  if s1.vinLost then s1.unpowered false
  else
    let c := s1.vin.cause
    if c = 0 ∨ s1.bit regPwrStatus 9 = true then s1
    else
      let s2 := if c = 3 then { s1 with vin := { s1.vin with surgeStop := true, below58 := 0 } } else s1
      s2.startQuench c

/-- A sample of VIN while the stage stands: it starts after 5 ms at or above 40 V, and after a surge once VIN has been
below 58 V for 10 ms. -/
def State.vinOff (s : State) (mv : Int) : State :=
  let v := s.vin.sample mv
  let s1 := { s with vin := { v with excursion := false, below33 := 0, above72 := 0 } }
  if 5000 ≤ v.above40 ∧ (v.surgeStop = false ∨ 10000 ≤ v.below58) then
    let s2 := s1.unpowered true
    { s2 with vin := { s2.vin with surgeStop := false } }
  else s1

/-- VIN_SAMPLE. -/
def execVinSample (mv : Int) (s : State) : Result :=
  attempt s fun s => some (if s.vin.powered then s.vinRunning mv else s.vinOff mv)

/-! ### Peaks (R457) -/

/-- THROTTLE, GATING and PEAK_LIMIT: they follow the level and the peaks, and a trip leaves them as they were, since it
stops the device (R458, R470; log entry 24). -/
def State.updateGating (s : State) : State :=
  if s.power.level = 4 then s
  else
    ((s.setBit regPwrStatus 7 (decide (2 ≤ s.power.level))).setBit regPwrStatus 8
      (s.power.peakGate || decide (s.power.level = 3))).setBit regPwrStatus 6
      (s.power.peakGate || decide (s.power.peakCut ≠ 0))

/-- A sample of the input power, every microsecond. -/
def State.powerSample (s : State) (w : Nat) : State :=
  let cap := tdp s.variant
  let p := s.power
  let above := decide (cap < w)
  let times := (p.overs.filter fun t => decide (s.time < t + 10000000)) ++ (if above then [s.time] else [])
  let spent := above && decide (1000 ≤ times.length)
  let need := ceilDiv (w - cap) 4
  let withdraw := decide (w < cap) && decide (p.peakCut ≠ 0) && decide (p.cutAt + 100000 ≤ s.time)
  let cut := if spent then max p.peakCut need else if withdraw then p.peakCut - 1 else p.peakCut
  let hot := if 1700 < w then p.above1700 + 1 else 0
  let cool := if w < cap then p.belowTdp + 1 else 0
  let gate := if 10 ≤ hot then true else if 100 ≤ cool then false else p.peakGate
  let events := (if spent && p.peakCut == 0 then 1 else 0) + if gate && !p.peakGate then 1 else 0
  let s1 := s.modPower fun p => { p with
    overs := times, peakCut := cut, cutAt := if withdraw || !decide (w < cap) then s.time else p.cutAt
    above1700 := hot, belowTdp := cool, peakGate := gate }
  ((s1.setFld regPwrInput 31 16 (min 65535 w)).addReg regPwrPeakEvents events).updateGating

/-- INPUT_POWER_SAMPLE. -/
def execInputPowerSample (watts : Nat) (s : State) : Result :=
  attempt s fun s => if s.vin.powered then some (s.powerSample watts) else none

/-! ### Heat (R458) -/

/-- WARN_C and THROTTLE_C in tenths of a degree. -/
def State.warnT (s : State) : Nat := 10 * s.fld regPwrCtrl 23 16
def State.throttleT (s : State) : Nat := 10 * min 100 (s.fld regPwrCtrl 15 8)

/-- The highest level that the readings enter. -/
def State.heatEnters (s : State) (j b : Nat) : Nat :=
  let long := match s.power.emergencyAt with
    | some t => decide (t + secondNs ≤ s.time)
    | none => false
  if 1150 ≤ j ∨ 1050 ≤ b ∨ long = true then 4
  else if 1050 ≤ j ∨ 950 ≤ b then 3
  else if s.throttleT ≤ j ∨ 900 ≤ b then 2
  else if s.warnT ≤ j ∨ 850 ≤ b then 1
  else 0

/-- The readings have not yet left a level that was entered. -/
def State.heatStays (s : State) (l j b : Nat) : Bool :=
  match l with
  | 3 => !(decide (j < 1000) && decide (b < 900))
  | 2 => !(decide (j + 30 ≤ s.throttleT) && decide (b + 30 ≤ 900))
  | 1 => !(decide (j + 30 ≤ s.warnT) && decide (b + 30 ≤ 850))
  | _ => l == 4

/-- The level after a reading. -/
def State.heatLevel (s : State) (j b : Nat) : Nat :=
  let e := s.heatEnters j b
  let cur := s.power.level
  if cur < e then e
  else ([4, 3, 2, 1].find? fun l => decide (l ≤ cur) && (decide (l ≤ e) || s.heatStays l j b)).getD 0

/-- Units by which heat reduces the pool. -/
def State.heatUnits (s : State) (l j b : Nat) : Nat :=
  if 2 ≤ l then 8 * max ((j - s.throttleT) / 10) ((b - 900) / 10) else 0

/-- The temperature in a THERMAL record: the reading that entered the level. -/
def State.heatDetail (s : State) (l j b : Nat) : Nat :=
  let t := if l = 4 then 1150 else if l = 3 then 1050 else if l = 2 then s.throttleT else s.warnT
  if t ≤ j ∨ b < 850 then j else b

/-- A trip: the device stops, and the rails of its dies are turned off with everything they held. -/
def State.trip (s : State) (detail : Nat) : State :=
  let s1 := (((s.deviceStop 0x11 (unitWord 39 14) detail none).setBit regPwrStatus 10 true).alert 4)
  let s2 := ((List.range 24).filter fun p => decide (s1.portState p ≠ 0)).foldl State.portOff s1
  { s2.setFld regGlbIslands 37 0 0 with
    mem := s2.mem.filter fun c => decide (windowBase ≤ c.1)
    poison := s2.poison.filter fun l => decide (windowBase ≤ 64 * l) }

/-- Channels whose base die has drifted by more than 10 °C are due for a retrain (R251). -/
def State.driftDue (s : State) : State :=
  let far := (List.range 384).filter fun ch => s.channelServes ch &&
    (let b := s.dieTemp (ch / 32)
     let t := mapGet (s.hbm.trainedBase.getD (ch / 32) 0) ch s.hbm.trainedAt
     decide (t + 100 < b ∨ b + 100 < t))
  s.modHbm fun h => { h with due := far.foldl (fun d c => setInsert c d) h.due }

/-- A reading of the sensors, every 100 µs: the highest junction, and the base dies by stack. -/
def State.heatSample (s : State) (j : Nat) (dies : List Nat) : State :=
  let b := dies.foldl max 0
  let s1 := (s.setReg regPwrTemp (min 65535 j + min 65535 b * 2 ^ 16)).modHbm fun h =>
    { h with dies := (List.range 12).map fun k => dies.getD k b }
  if s1.power.level = 4 then s1
  else
    let l := s1.heatLevel j b
    let old := s1.power.level
    let s2 := s1.modPower fun p => { p with
      level := l, heatCut := s1.heatUnits l j b
      emergencyAt := if l = 3 then (if old = 3 then p.emergencyAt else some s1.time) else none }
    let s3 := s2.updateGating.modHbm fun h => { h with hot := decide (1 ≤ l) }
    let s4 := if s3.ready then s3.driftDue else s3
    let s5 := if old = l then s4 else s4.irq 74
    if l = 4 then s5.trip (s5.heatDetail 4 j b)
    else
      let s6 := if old < l then
          s5.record { kind := 0x11, scope := 0, action := 0, unit := unitWord 39 14, detail := s5.heatDetail l j b }
        else s5
      if l = 3 then s6.alert 3 else s6.setBit regStwAlert 3 false

/-- THERMAL_SAMPLE: the highest junction reading and the reading of each base die, in tenths of a degree; a stack that is
not listed reads as the highest of those listed. -/
def execThermalSample (junction : Nat) (dies : List Nat) (s : State) : Result :=
  attempt s fun s => if s.vin.powered then some (s.heatSample junction dies) else none

/-! ### Voltage trim (R450) -/

/-- VOLTAGE_TRIM: one step of 5 mV, within ±25 mV of the fuse trim. -/
def execVoltageTrim (domain : Nat) (up : Bool) (s : State) : Result :=
  attempt s fun s =>
    let t : Int := match s.power.trims.find? fun x => x.1 == domain with
      | some x => x.2
      | none => 0
    let n := if up then t + 1 else t - 1
    if domain < 40 ∧ s.bit regGlbIslands domain = true ∧ -5 ≤ n ∧ n ≤ 5 then
      some (s.modPower fun p => { p with trims := mapPut domain (if n = 0 then none else some n) p.trims })
    else none

end Sys2Proof.Machine
end

