-- ==== Sys2Proof/Machine/Startup.lean ====
section
/-! DEFINITION. Reset kinds and what each keeps (R461 to R465, R523, R524), the firmware image and its checks (R475,
R476), and the phases of start-up (R466 to R468). -/

namespace Sys2Proof.Machine

open Sys2Proof

/-- GLB_STARTUP.PHASE, and a phase entered. -/
def State.startPhase (s : State) : Nat := s.fld regGlbStartup 3 0
def State.enterPhase (s : State) (n : Nat) : State := s.setFld regGlbStartup 3 0 n

/-- A change of the start-up's state. -/
def State.modStartup (s : State) (f : Startup → Startup) : State := { s with startup := f s.startup }

/-- RRU_STATUS.FATAL. -/
def State.fatal (s : State) : Bool := s.bit regRruStatus 8

/-- Registers can be reached over the Odord link or I3C: start-up has passed phase 2 (R466, R468, R469). -/
def State.reachableRegs (s : State) : Bool := s.vin.powered && decide (3 ≤ s.startPhase)

/-! ### What a reset keeps (R464, R431, R432) -/

/-- The value of a register word after a full or warm reset: RS fields and the entries of ACTIVE images keep theirs. -/
def State.keptWord (s : State) (trip : Bool) (off : Nat) (w : Word) : Option Word :=
  if regCadImage 0 ≤ off ∧ off < regCadImage 512 then
    if trip = false ∧ s.imgState ((off - regCadImage 0) / 64) = 4 then some w else none
  else
    let keep : Word := match regRow off with
      | some r => BitVec.ofNat 64 r.rs
      | none => 0
    let r := resetWord s.variant off
    let v := (r &&& ~~~keep) ||| (w &&& keep)
    if v = r then none else some v

/-- The registers that differ from their reset values after a full or warm reset. -/
def State.keptRegs (s : State) (trip : Bool) : List (Nat × Word) :=
  s.regs.filterMap fun c => (s.keptWord trip c.1 c.2).map fun w => (c.1, w)

/-- An address whose bytes a full or warm reset keeps: HBM, unless a trip lost it, and companion memory. -/
def keptAddr (trip : Bool) (a : Nat) : Bool := decide (windowBase ≤ a) || (!trip && decide (a < bankBase))

/-- A `PUBLISH` between issue and completion is named in RRU_INCOMPLETE (R432, R443). -/
def State.markIncomplete (s : State) (b : Option Publish) : State :=
  match b with
  | some b => s.setReg regRruIncomplete (2 ^ 63 + b.region * 2 ^ 32 + b.version)
  | none => s

/-- The journal's registers after a full or warm reset (R431, R465). -/
def State.journalAfter (s : State) : State :=
  let n := s.reg regRruLastSeq + 1
  let s1 := ((s.setReg regCmdJournalHead n).setReg regCmdJournalTail n).setReg regCmdJournalClosed n
  (s1.setReg (regCmdJournalChain 0) (s.reg (regRruLastChain 0))).setReg (regCmdJournalChain 1) (s.reg (regRruLastChain 1))

/-- The granules of a region on a channel before its darning (R258). -/
def State.granulesOn (s : State) (i ch : Nat) : List Nat :=
  ((List.range (256 * s.regionPages i)).map fun g => 65536 * s.regionFirst i + 256 * g).filter fun a =>
    (s.placeBefore a).1 == ch

/-- Writable regions, SEALED ones among them, with a granule on a channel. -/
def State.regionsOn (s : State) (ch : Nat) : List Nat :=
  s.regions.filter fun i => decide (s.pageState (s.regionFirst i) ≤ 2) && !(s.granulesOn i ch).isEmpty

/-- A migration in step 3 is cut off: its restart is noted, and granules of writable regions hold undefined bytes
(R258). -/
def State.cutDarning (s : State) : State :=
  match s.hbm.darning with
  | some (ch, true) =>
    let rs := s.regionsOn ch
    let s1 := rs.foldl (fun z i => (z.granulesOn i ch).foldl (fun y a => y.scramble a 256) z) s
    s1.modStartup fun u => { u with darnRestart := some (ch, rs) }
  | _ => s

/-- The stacked memory's state that a reset keeps: the darn table (RS, R262), repairs made and the history that R248
looks back on, fenced and failed channels, training, and a darning whose opening or closing entry is still to be written
(log entry 21). -/
def Hbm.kept (h : Hbm) : Hbm :=
  { Hbm.reset with
    corrected := h.corrected, uncorrected := h.uncorrected, rows := h.rows
    spares := h.spares, repairs := h.repairs, fenced := h.fenced, failed := h.failed, refreshed := h.refreshed
    dies := h.dies, trainedBase := h.trainedBase, trainedAt := h.trainedAt, trim := h.trim, darnTable := h.darnTable
    darning := match h.darning with
      | some (ch, false) => some (ch, false)
      | _ => none
    closing := h.closing }

/-- The actions of the stacked memory that still wait for their entry. -/
def Hbm.waits (h : Hbm) : List Waiting :=
  (match h.darning with
    | some (ch, false) => [.darnOpen ch]
    | _ => []) ++ if h.closing then [.darnClose] else []

/-- The state after a full (1) or warm (2) reset, at the beginning of start-up (R464). -/
def State.afterReset (s : State) (kind : Nat) : State :=
  let trip := s.bit regPwrStatus 10
  let base : State := { State.reset with
    variant := s.variant
    regs := s.keptRegs trip
    time := s.time
    mem := s.mem.filter fun c => keptAddr trip c.1
    poison := s.poison.filter fun l => keptAddr trip (64 * l)
    journal := { Journal.reset with waiting := s.hbm.kept.waits }
    sched := { Sched.reset with heatAt := s.time, surveyAt := s.time, slotAt := s.time }
    hbm := s.hbm.kept
    vin := s.vin
    startup := { s.startup with porActive := false, timer := 0, portsAt := 0, stageDone := true }
    sec := { Sec.reset with svnFuse := s.settledFuse, draws := s.sec.draws, kemPairs := s.sec.kemPairs
                            flash := if s.sec.flashing.isSome then brokenFlash s.sec.flash else s.sec.flash }
    odl := { Odl.reset with lastBeat := s.time }
    mgmt := { s.mgmt with dynAddr := none, ibiOn := false, offset := 0 }
    free := s.free + 1
    out := s.out
    pending := s.pending }
  let s1 := base.journalAfter.addReg regRruResets 1
  let s2 := s1.markIncomplete (s.pubs.find? fun b => decide (1 ≤ b.step))
  (s2.setFld regGlbStartup 29 28 kind).enterPhase (if s.startup.resetLow then 1 else 2)

/-- Dirty window lines are written back while the link is up, and dropped otherwise (R463). -/
def State.settleWindow (s : State) : State :=
  if s.fld regOdlStatus 15 12 = 2 then s.odl.dirtyLines.foldl State.writeBack s else s

/-- The kind of a reset whose trigger arrives during start-up: a full trigger makes it full, and a warm one leaves it
as it is (R462). -/
def State.resetKind (s : State) (kind : Nat) : Nat :=
  if s.ready = false ∧ s.fld regGlbStartup 29 28 = 1 then 1 else kind

/-- A full (1) or warm (2) reset trigger (R462, R463). A tripped device takes only a full reset, once it has cooled
below 90 °C (R458). While power-on reset has not ended, start-up begins again from its first phase. -/
def State.resetDevice (s : State) (kind : Nat) : State :=
  if s.bit regPwrStatus 10 = true ∧ (kind = 2 ∨ 900 ≤ s.fld regPwrTemp 15 0 ∨ 900 ≤ s.fld regPwrTemp 31 16) then s
  else if s.startup.porActive then
    (s.modStartup fun u => { u with timer := 0, stageDone := false }).enterPhase 1
  else (s.abortToward.flushAborts.settleWindow.cutDarning).afterReset (s.resetKind kind)

/-- GLB_RESET_FULL. -/
def execGlbResetFull (s : State) : Result :=
  attempt s fun s => if s.reachableRegs then some (s.resetDevice 1) else none

/-- GLB_RESET_WARM. -/
def execGlbResetWarm (s : State) : Result :=
  attempt s fun s => if s.reachableRegs then some (s.resetDevice 2) else none

/-! ### RESET_N and the reference clock (R461, R523, R524) -/

/-- Boundary scan drives pins while RESET_N is low and one of its instructions that drive pins (EXTEST and up, 3 to 7)
is in force (R512). -/
def State.scanDrives (s : State) : State :=
  { s with mgmt := { s.mgmt with driving := decide (3 ≤ s.mgmt.jtag) && s.startup.resetLow } }

/-- RESET_N_ASSERT: RESET_N has been low for `lowNs`. -/
def execResetNAssert (lowNs : Nat) (s : State) : Result :=
  attempt s fun s =>
    if lowNs < 10000 then none
    else
      let s1 := (s.modStartup fun u => { u with resetLow := true }).scanDrives
      some (if s1.vin.powered then s1.resetDevice 1 else s1)

/-- RESET_N_RELEASE: RESET_N rises, and start-up held before phase 2 goes on. -/
def execResetNRelease (s : State) : Result :=
  attempt s fun s =>
    if s.startup.resetLow then
      let s1 := (s.modStartup fun u => { u with resetLow := false }).scanDrives
      some (if s1.vin.powered = true ∧ s1.startup.stageDone = true ∧ s1.startPhase = 1 then s1.enterPhase 2 else s1)
    else none

/-- REFCLK_LOSS: before phase 2 has begun, start-up will hold at its start; later the PLLs lose lock and the device
stops. The record's domain is one of the 40 that lose lock; the spec does not say which (log entry 5). -/
def execRefclkLoss (s : State) : Result :=
  attempt s fun s =>
    if s.startup.refclk then
      let s1 := s.modStartup fun u => { u with refclk := false }
      if s1.vin.powered = true ∧ 2 ≤ s1.startPhase then
        let d := (Config.freeByte s1.free).toNat % 40
        some (({ s1 with free := s1.free + 1 }.setReg regGlbIslands 0).deviceStop 0x0E (unitWord d 0) d (some d))
      else some s1
    else none

/-- REFERENCE_CLOCK_RETURN. -/
def execReferenceClockReturn (s : State) : Result :=
  attempt s fun s =>
    if s.startup.refclk then none else some (s.modStartup fun u => { u with refclk := true })

/-! ### The firmware image (R475, R476) -/

/-- A byte of the SPI flash. -/
def State.flashByte (s : State) (a : Nat) : Byte := mapGet (Config.factoryFlash a) a s.sec.flash

/-- `n` bytes of the SPI flash. -/
def State.flashBytes (s : State) (a n : Nat) : List Byte := (List.range n).map fun i => s.flashByte (a + i)

/-- Header fields of an image. -/
def imgKeySlot (h : List Byte) : Nat := (h.getD 6 0).toNat
def imgSvn (h : List Byte) : Nat := leNat (slice h 8 4)
def imgPayloadLen (h : List Byte) : Nat := leNat (slice h 12 4)

/-- The whole length that a header gives its image. -/
def imgLength (h : List Byte) : Nat := 4096 + imgPayloadLen h + 32768

/-- The first check of R476 that an image fails, or 0. `read` gives its bytes, `len` how many there are, and `least`
the fused minimum SVN. -/
def imageCheck (read : Nat → Nat → List Byte) (len least : Nat) : Nat :=
  let h := read 0 4096
  let n := imgPayloadLen h
  let slot := imgKeySlot h
  let pk := slice h 24 64
  if len < 4096 ∨ h.take 4 ≠ ascii "FD8I" ∨ leNat (slice h 4 2) ≠ 1 ∨ 3 < slot ∨ 128 < imgSvn h ∨ n % 4096 ≠ 0
      ∨ 25128960 < n ∨ len < imgLength h then 1
  else if Config.fwKeyRevoked slot then 2
  else if shake256 32 pk ≠ (List.range 32).map (Config.fwKeyHash slot) then 3
  else if imgSvn h < least then 4
  else if Config.slhVerify ctxFw pk h (read (4096 + n) sigLen256s) = false then 5
  else if shake256 32 (read 4096 n) ≠ slice h 88 32 then 6
  else 0

/-- Bytes of flash that the image may take. -/
abbrev flashImageMax : Nat := 25165824

/-- The result of checking the flash (R476): 7 when it cannot be read. -/
def State.flashCheck (s : State) (readable : Bool) : Nat :=
  if readable then imageCheck s.flashBytes flashImageMax s.sec.svnFuse else 7

/-- Register words set from bytes, eight to a word. -/
def State.setWords (s : State) (f : Nat → Nat) (bs : List Byte) : State :=
  (List.range (bs.length / 8)).foldl (fun z i => z.setReg (f i) (leNat (slice bs (8 * i) 8))) s

/-- An image has passed: what names the running image, the link credential, and phase 4 (R466, R467, R485). `source`
is 0 for the flash and 1 for recovery. -/
def State.bootImage (s : State) (h : List Byte) (source : Nat) : State :=
  let s1 := ((s.setFld regSecBoot 31 28 0).setFld regSecBoot 27 24 source).setFld regSecBoot 23 20 (imgKeySlot h)
  let s2 := (s1.setWords regSecFwDigest (shake256 32 h)).setFld regSecSvn 7 0 (imgSvn h)
  ((s2.setBit regGlbStartup 30 false).enterPhase 4).makeCredential

/-- Verification has failed: RECOVERY is set, and the boot ROM waits (R467, R508). -/
def State.bootFails (s : State) (result : Nat) : State :=
  ((s.setFld regSecBoot 31 28 result).setBit regGlbStartup 30 true).ibi 0x03

/-- SEC_SVN shows the fused minimum. -/
def State.showSvn (s : State) : State := s.setFld regSecSvn 15 8 s.sec.svnFuse

/-! ### The phases (R466) -/

/-- A step of start-up can happen: the device is powered, its clock runs, and it has not stopped. -/
def State.startsUp (s : State) (phase : Nat) : Bool :=
  s.vin.powered && s.startup.refclk && !s.fatal && s.startPhase == phase

/-- STARTUP_STAGE_DONE: the rails are up; phase 2 begins unless RESET_N is low (R523). -/
def execStartupStageDone (s : State) : Result :=
  attempt s fun s =>
    if s.vin.powered = true ∧ s.startPhase = 1 ∧ s.startup.stageDone = false then
      let s1 := s.modStartup fun u => { u with stageDone := true }
      some (if s1.startup.resetLow then s1 else s1.enterPhase 2)
    else none

/-- STARTUP_ROM_DONE: power-on reset ends, the Steward islands run, and the Odord link trains. -/
def execStartupRomDone (s : State) : Result :=
  attempt s fun s =>
    if s.startsUp 2 then
      let s1 := (s.modStartup fun u => { u with porActive := false }).setReg regGlbIslands (2 ^ 38 + 2 ^ 39)
      some ((s1.setFld regOdlStatus 15 12 1).enterPhase 3)
    else none

/-- The Odord link is up by the end of phase 3 (R466). -/
def State.odlUp (s : State) : State :=
  if s.fld regOdlStatus 15 12 = 1 then s.setFld regOdlStatus 15 12 2 else s

/-- FIRMWARE_VERIFY_DONE: the image in flash has been read and checked (R473, R476). -/
def execFirmwareVerifyDone (readable : Bool) (s : State) : Result :=
  attempt s fun s =>
    if s.startsUp 3 = true ∧ s.bit regGlbStartup 30 = false then
      let r := s.flashCheck readable
      let s1 := s.odlUp.showSvn.setWords regSecIdentityPk identityPk
      let s2 := if readable then s1.setWords regSecCert (s1.flashBytes 0x1800000 65536) else s1
      some (if r = 0 then s2.bootImage (s2.flashBytes 0 4096) 0 else s2.bootFails r)
    else none

/-- Domains of the variant (R23, R27). -/
def allIslands : Variant → Nat
  | .fd880 => 2 ^ 40 - 1
  | .fd860 => 2 ^ 40 - 1 - (2 ^ 4 + 2 ^ 9 + 2 ^ 14 + 2 ^ 19 + 2 ^ 26 + 2 ^ 29 + 2 ^ 32 + 2 ^ 35)

/-- A physical core of the variant (R1, R16). -/
def corePresent (v : Variant) (k : Nat) : Bool := decide (k < 180) && (v == .fd880 || k / 9 % 5 != 4)

/-- CORE_SELFTEST of every core: `fails` names failing cores and what each found (R185, R186). -/
def State.selfTests (s : State) (fails : List (Nat × Nat)) : State :=
  ((List.range 180).filter (corePresent s.variant)).foldl (fun z k =>
    match fails.find? fun x => x.1 == k with
    | some x => z.setReg (regCoreSelftest k) (2 ^ 31 + max 1 (min 0xFFFF x.2))
    | none => z.setReg (regCoreSelftest k) (2 ^ 31 + 2 ^ 30)) s

/-- A core that may serve: it passed its self-test, and RRU_CORE_EXCLUDE leaves it in (R428). -/
def State.coreFit (s : State) (k : Nat) : Bool :=
  s.bit (regCoreSelftest k) 30 && !s.bit (regRruCoreExclude (k / 64)) (k % 64)

/-- CORE_MAP of a core that serves no logical core; one that is excluded is fenced (log entry 20). -/
def State.coreOut (s : State) (k : Nat) : State :=
  s.setReg (regCoreMap k) ((if k % 9 = 8 then 2 ^ 31 else 0) + 0xFF
    + (if s.bit (regRruCoreExclude (k / 64)) (k % 64) then 2 ^ 29 else 0))

/-- A logical number that no core of its cluster takes is lost (R427, R428). -/
def State.loseNumber (s : State) (k : Nat) : State :=
  let n := getBits (coreMapReset s.variant k) 7 0
  (s.setBit (regRruCoreLost (n / 64)) (n % 64) true).record
    { kind := 0x07, scope := 2, action := 2, unit := coreUnit k, detail := 0xFF }

/-- The logical numbers of cluster `c` (R428): the spare takes that of the lowest core left out. -/
def State.assignCluster (s : State) (c : Nat) : State :=
  let spare := 9 * c + 8
  let out := ((List.range 8).map (9 * c + ·)).filter fun k => !s.coreFit k
  let s1 := out.foldl State.coreOut s
  match out with
  | k :: rest =>
    if s1.coreFit spare then
      rest.foldl State.loseNumber (s1.setReg (regCoreMap spare) (2 ^ 30 + getBits (coreMapReset s.variant k) 7 0))
    else out.foldl State.loseNumber (s1.coreOut spare)
  | [] => if s1.coreFit spare then s1 else s1.coreOut spare

/-- STARTUP_ISLANDS_DONE: the islands run, the cores have tested themselves, and logical numbers are assigned; page
states follow from the registers (R239). -/
def execStartupIslandsDone (fails : List (Nat × Nat)) (s : State) : Result :=
  attempt s fun s =>
    if s.startsUp 4 then
      let s1 := (s.setReg regGlbIslands (allIslands s.variant)).selfTests fails
      some (((List.range 20).filter fun c => corePresent s.variant (9 * c)).foldl State.assignCluster s1 |>.enterPhase 5)
    else none

/-- A darning migration restarted (R258, R422, R433). -/
def State.restartDarning (s : State) : State :=
  match s.startup.darnRestart with
  | none => s.setBit regSmsStatus 5 s.hbm.darning.isSome
  | some (ch, rs) =>
    let s1 := s.record { kind := 0x12, scope := 4, action := 7, unit := unitWord (stackDomain ch) ch, detail := ch }
    let s2 := rs.foldl (fun z i => z.setBit (regRruAffectedRegions (i / 64)) (i % 64) true) s1
    ((s2.setBit regSmsStatus 5 true).modHbm fun h => { h with darning := some (ch, true) }).modStartup fun u =>
      { u with darnRestart := none }

/-- The channels that phase 5 trains: all that are present and not darned, but after a warm reset only those whose kept
values failed verification (R464, R466). -/
def State.trainedNow (s : State) (afresh : List Nat) : List Nat :=
  (List.range 384).filter fun ch => s.channelServes ch && (s.fld regGlbStartup 29 28 != 2 || afresh.contains ch)

/-- Channels trained: each from its base die's present reading, without an offset of MARGIN_APPLY. -/
def State.trainChannels (s : State) (chans : List Nat) : State :=
  if s.fld regGlbStartup 29 28 = 2 then
    s.modHbm fun h => { h with
      trainedAt := chans.foldl (fun m c => mapPut c (some (s.dieTemp (c / 32))) m) h.trainedAt
      trim := h.trim.filter fun x => !chans.contains x.1 }
  else s.modHbm fun h => { h with trainedBase := (List.range 12).map s.dieTemp, trainedAt := [], trim := [] }

/-- HBM_TRAINING_DONE: the stacks are trained, or verified by a warm reset, in which the channels `afresh` were trained
again; `failed` names channels that did not train. When MARGIN_BOOT is 1, every channel trained is margined: `sweeps`
lists the steps that failed, for the channels where some did (R259, R260). -/
def execHbmTrainingDone (failed : List Nat) (found : HbmTrained) (s : State) : Result :=
  attempt s fun s =>
    if s.startsUp 5 then
      let chans := s.trainedNow found.afresh
      let s1 := s.trainChannels chans
      let s2 := if s1.bit regSmsCtrl 0 then
          chans.foldl (fun z c => z.setMargin c (match found.sweeps.find? fun e => e.1 == c with
            | some e => e.2
            | none => [])) s1
        else s1
      let s3 := s2.restartDarning
      let s4 := failed.foldl State.failChannel s3
      some ((s4.modStartup fun u => { u with portsAt := u.timer }).enterPhase 6)
    else none

/-- Every enabled port is UP. -/
def State.enabledPortsUp (s : State) : Bool :=
  (List.range 24).all fun p => !(portPresent s.variant p && s.portEnable p) || s.portUp p

/-- PORTS_PHASE_DONE: every enabled port is UP, or 30 ms have passed; READY is set and told (R466, R508). -/
def execPortsPhaseDone (s : State) : Result :=
  attempt s fun s =>
    if s.startsUp 6 = true ∧ (s.enabledPortsUp = true ∨ s.startup.portsAt + 30000000 ≤ s.startup.timer) then
      let s1 := (s.enterPhase 7).setFld regGlbStartup 27 12 (min 0xFFFF (s.startup.timer / 1000000))
      some (((s1.setBit regGlbStartup 31 true).irq 65).ibi 0x01)
    else none

end Sys2Proof.Machine
end

