-- ==== Sys2Proof/Machine/Security.lean ====
section
/-! DEFINITION. The Security Unit's commands: entropy health (R474), SVN commit (R478), recovery (R479), the flash
update (R480) and attestation (R484). -/

namespace Sys2Proof.Machine

open Sys2Proof

/-- A change of the Security Unit's state. -/
def State.modSec (s : State) (f : Sec → Sec) : State := { s with sec := f s.sec }

/-- ENTROPY_HEALTH_FAIL: the continuous health tests fail (R474). -/
def execEntropyHealthFail (s : State) : Result :=
  attempt s fun s => if s.reachableRegs then some (s.setBit regSecStatus 7 true) else none

/-- ENTROPY_HEALTH_RECOVER: the tests pass again (R474). -/
def execEntropyHealthRecover (s : State) : Result :=
  attempt s fun s => if s.reachableRegs then some (s.setBit regSecStatus 7 false) else none

/-! ### The fused minimum SVN (R478) -/

/-- A write of 1 to SEC_SVN_COMMIT.GO, once an image runs. -/
def State.commitSvn (s : State) : State :=
  let v := s.fld regSecSvn 7 0
  if s.sec.svnTarget = none ∧ 4 ≤ s.startPhase ∧ s.sec.svnFuse < v then
    (s.modSec fun x => { x with svnTarget := some v }).setBit regSecStatus 2 true
  else s

/-- SVN_COMMIT. -/
def execSvnCommit (s : State) : Result :=
  attempt s fun s => if s.reachableRegs then some s.commitSvn else none

/-- SVN_COMMIT_COMPLETE: the fuses are blown. -/
def execSvnCommitComplete (s : State) : Result :=
  attempt s fun s => match s.sec.svnTarget with
    | some v => some (((s.modSec fun x => { x with svnFuse := v, svnTarget := none }).setBit regSecStatus 2 false).showSvn)
    | none => none

/-! ### Images read from device memory (R479, R480) -/

/-- A source range can be read now: not in the coherent window while the link is not up. -/
def State.sourceReady (s : State) (src : Nat) : Bool :=
  decide (src < windowBase) || s.companionLost || s.fld regOdlStatus 15 12 == 2

/-- The first check of R476 that an image in device memory fails, or 0. A poisoned line is never used as data (R423):
the image's bytes then match no digest. -/
def State.memoryCheck (s : State) (src len : Nat) : Nat :=
  let r := imageCheck (fun off n => s.rdBytes (src + off) n) len s.sec.svnFuse
  if r = 0 ∧ s.anyPoison src len = true then 6 else r

/-! ### Recovery (R467, R479) -/

/-- A write of SEC_RECOVERY_CTRL; a GO is ignored while a check runs, and while no image is awaited. -/
def State.writeRecovery (s : State) (v : Nat) : State :=
  let s1 := s.setReg regSecRecoveryCtrl (getBits v 30 30 * 2 ^ 30 + getBits v 24 0)
  if bitOf v 31 = true ∧ s1.bit regGlbStartup 30 = true ∧ s1.sec.recovery = none then
    s1.modSec fun x => { x with recovery := some (s1.reg regSecRecoverySrc, getBits v 24 0, bitOf v 30) }
  else s1

/-- RECOVERY_GO. -/
def execRecoveryGo (v : Word) (s : State) : Result :=
  attempt s fun s => if s.reachableRegs then some (s.writeRecovery v.toNat) else none

/-- The image lies in the companion's memory behind the coherent window. -/
def inWindow (src len : Nat) : Bool := decide (windowBase ≤ src ∧ src + len ≤ windowBase + 0x100000000)

/-- An update of the flash begins (R480). -/
def State.startFlash (s : State) (src len : Nat) : State :=
  (s.modSec fun x => { x with flashing := some (src, len) }).setBit regSecStatus 4 true

/-- RECOVERY_CHECK_COMPLETE: the streamed image has been checked. -/
def execRecoveryCheckComplete (s : State) : Result :=
  attempt s fun s => match s.sec.recovery with
    | some (src, len, wf) =>
      if s.startsUp 3 = true ∧ s.sourceReady src = true then
        let s1 := s.modSec fun x => { x with recovery := none }
        let r := if inWindow src len then s1.memoryCheck src len else 1
        some (if r = 0 then
            let s2 := s1.bootImage (s1.rdBytes src 4096) 1
            if wf = true ∧ s2.sec.flashing = none then s2.startFlash src len else s2
          else
            (s1.setFld regSecBoot 31 28 r).setFld regSecBoot 7 0 (min 0xFF (s1.fld regSecBoot 7 0 + 1)))
      else none
    | none => none

/-! ### The flash update (R480) -/

/-- A write of SEC_FLASH_CTRL; a GO is ignored while an update is in progress (log entry 22). -/
def State.writeFlash (s : State) (v : Nat) : State :=
  let s1 := s.setReg regSecFlashCtrl (getBits v 24 0)
  if bitOf v 31 = true ∧ s1.sec.flashing = none then s1.startFlash (s1.reg regSecFlashSrc) (getBits v 24 0) else s1

/-- FLASH_UPDATE_GO. -/
def execFlashUpdateGo (v : Word) (s : State) : Result :=
  attempt s fun s => if s.reachableRegs then some (s.writeFlash v.toNat) else none

/-- The flash with its image area erased and an image programmed into it. -/
def programFlash (f : List Host.Cell) (img : List Byte) : List Host.Cell :=
  ((List.range flashImageMax).map fun i => (i, img.getD i 0xFF)) ++ f.filter fun c => decide (flashImageMax ≤ c.1)

/-- FLASH_UPDATE_COMPLETE: the image was checked and, when it passed, programmed; `ok` is the check of what was read
back (R480, R499). -/
def execFlashUpdateComplete (ok : Bool) (s : State) : Result :=
  attempt s fun s => match s.sec.flashing with
    | some (src, len) =>
      if s.sourceReady src then
        let good := s.memoryCheck src len == 0
        let flash := if good then
            (if ok then programFlash s.sec.flash (s.rdBytes src (imgLength (s.rdBytes src 4096))) else brokenFlash s.sec.flash)
          else s.sec.flash
        let s1 := (s.modSec fun x => { x with flashing := none, flash := flash }).setBit regSecStatus 4 false
        some ((if good && ok then s1 else s1.setBit regSecStatus 5 true).irq 72)
      else none
    | none => none

/-! ### Attestation (R484) -/

/-- The image entries in a report. -/
def State.reportImages (s : State) : List Byte :=
  (s.images.filter fun j => decide (3 ≤ s.imgState j ∧ s.imgState j ≤ 5)).flatMap fun j =>
    leBytes 4 (s.imgVersion j) ++ leBytes 1 (s.imgState j) ++ zeros 3 ++ leBytes 4 (s.imgPages j) ++ zeros 4
      ++ leBytes 32 (s.imgDigest j)

/-- Logical cores lost. -/
def State.lostCount (s : State) : Nat := ((List.range 160).filter s.coreLost).length

/-- Register words as bytes. -/
def State.wordBytes (s : State) (n : Nat) (f : Nat → Nat) : List Byte := (List.range n).flatMap fun i => leBytes 8 (s.reg (f i))

/-- The attestation report, captured at one instant (R484). -/
def State.report (s : State) : List Byte :=
  padTo 4096 (padTo 256 (ascii "FD8A" ++ leBytes 4 1 ++ s.wordBytes 4 regSecAttestNonce ++ s.wordBytes 8 regSecIdentityPk
    ++ s.wordBytes 4 regSecFwDigest ++ leBytes 4 (s.fld regSecSvn 7 0) ++ leBytes 4 s.sec.svnFuse
    ++ leBytes 1 (s.fld regGlbIdentity 31 24) ++ leBytes 1 (s.fld regGlbNumerics 31 24)
    ++ leBytes 1 (s.fld regGlbPartition 0 0) ++ zeros 1
    ++ leBytes 2 (s.deviceId + 2 ^ 15 * b2n s.deviceValid) ++ zeros 2 ++ leBytes 4 (s.reg regRruResets)
    ++ leBytes 4 s.lostCount ++ leBytes 8 s.time ++ leBytes 8 (s.reg regCmdJournalHead - 1) ++ leBytes 16 s.chain
    ++ leBytes 4 (s.reportImages.length / 48)) ++ s.reportImages)

/-- A write of 1 to SEC_ATTEST_CTRL.GO; it is ignored while ATTEST_BUSY is 1. -/
def State.attestGo (s : State) : State :=
  if s.sec.attest.isSome then s
  else
    let s1 := (s.setBit regSecAttestCtrl 30 false).setBit regSecStatus 3 true
    (s1.modSec fun x => { x with attest := some (s.reg regSecAttestBase, s.report) }).startSigning

/-- ATTEST_GO. -/
def execAttestGo (s : State) : Result :=
  attempt s fun s => if s.reachableRegs then some s.attestGo else none

/-- ATTEST_COMPLETE: the report and its signature are written, when it is the turn of that signature (R484, R481). -/
def execAttestComplete (s : State) : Result :=
  attempt s fun s => match s.sec.attest with
    | some (base, report) =>
      if s.ready = true ∧ s.signerNow = some .attest ∧ s.fatal = false ∧ s.quenchOver = false then
        let (sig, s1) := s.identitySign ctxAtt report
        let s2 := ((s1.putBytes base (report ++ sig)).setBit regSecAttestCtrl 30 true).setBit regSecStatus 3 false
        some ((s2.modSec fun x => { x with attest := none }).nextSigning.irq 70)
      else none
    | none => none

end Sys2Proof.Machine
end

