-- ==== Sys2Proof/Machine/Odord.lean ====
section
/-! DEFINITION. The Odord link (R490 to R493), the companion's accesses (R494 to R497), interrupt messages (R499 to
R501), and the loss of the link or of the companion (R502 to R504). -/

namespace Sys2Proof.Machine

open Sys2Proof

/-- A change of the link's state. -/
def State.modOdl (s : State) (f : Odl → Odl) : State := { s with odl := f s.odl }

/-- ODL_STATUS.STATE: 0 DOWN, 1 TRAINING, 2 UP, 3 FAILED. -/
def State.odlState (s : State) : Nat := s.fld regOdlStatus 15 12
def State.setOdlState (s : State) (n : Nat) : State := s.setFld regOdlStatus 15 12 n

/-- The link carries transactions. -/
def State.linkUp (s : State) : Bool := s.vin.powered && s.odlState == 2

/-! ### Flits (R490, R492) -/

/-- Flits that the 64 KiB replay buffer holds. -/
abbrev replayFlits : Nat := 256

/-- A flit sent and kept until it is acknowledged. Its header, payload layout and check bytes are not in the spec and
are free (log entries 5 and 18); its CRC covers header and payload. -/
def State.sendFlit (s : State) : State :=
  let body := (List.range 244).map fun i => Config.freeByte (s.free + i)
  let flit := body ++ leBytes 4 (crc32 body) ++ (List.range 8).map fun i => Config.freeByte (s.free + 244 + i)
  let s1 := { s with free := s.free + 252 }
  (s1.modOdl fun o => { o with txSeq := o.txSeq + 1, replay := o.replay ++ [(o.txSeq, flit, 0)] }).emit (.flit flit)

/-- The replay buffer has room. -/
def State.flitRoom (s : State) : Bool := decide (s.odl.replay.length < replayFlits)

/-- RETRIED on the running tasks that use the coherent window (R493, R94). -/
def State.markWindow (s : State) : State := s.markRetried fun t => touches t fun a _ => decide (windowBase ≤ a)

/-- The link goes down and retrains (R493). -/
def State.odlDown (s : State) : State :=
  ((s.setOdlState 1).modOdl fun o => { o with replays := [], downSince := some (o.downSince.getD s.time) }).markWindow

/-- A replay counted; more than 64 in 1 ms take the link down (R492, R493). -/
def State.countReplay (s : State) : State :=
  let ts := (s.odl.replays.filter fun t => decide (s.time < t + 1000000)) ++ [s.time]
  let s1 := (s.modOdl fun o => { o with replays := ts }).addReg regOdlReplays 1
  if 64 < ts.length then s1.odlDown else s1

/-- The flit is correct once its code has acted: at most one 10-bit symbol was in error, and the CRC holds. -/
def flitOk (f : Flit) : Bool :=
  decide (f.badSymbols ≤ 1) && decide (f.header.length = 4) && decide (f.payload.length = 240)
    && crc32 (f.header ++ f.payload) == f.crc.toNat

/-- An intact flit acknowledges the flits that its sender has taken, and is itself taken when it is the next in order:
one that a replay brings again, or that follows a discarded one, is not (R492; log entry 18). -/
def Odl.takeFlit (o : Odl) (f : Flit) : Odl :=
  let o1 := { o with replay := o.replay.filter fun r => decide (f.ack ≤ r.1) }
  if f.num = o.rxSeq then { o1 with rxSeq := o.rxSeq + 1, taken := o.taken ++ [f.payload] } else o1

/-- ODL_FLIT_RECEIVE: an intact flit is taken in order; any other is discarded, and its replay is requested. -/
def execOdlFlitReceive (f : Flit) (s : State) : Result :=
  attempt s fun s =>
    if s.linkUp then
      some (if flitOk f then s.modOdl fun o => o.takeFlit f
        else (s.emit (.replayRequest s.odl.rxSeq)).countReplay)
    else none

/-- ODL_REPLAY_REQUEST: flits are resent from `from_` on; one already resent four times takes the link down
(R492, R493). -/
def execOdlReplayRequest (from_ : Nat) (s : State) : Result :=
  attempt s fun s =>
    if s.linkUp = true ∧ (s.odl.replay.any fun r => r.1 == from_) = true then
      let due := s.odl.replay.filter fun r => decide (from_ ≤ r.1)
      if due.any fun r => decide (4 ≤ r.2.2) then some s.odlDown
      else
        let again := due.map fun r => (r.1, r.2.1, r.2.2 + 1)
        let s1 := s.modOdl fun o => { o with replay := again }
        some ((again.foldl (fun z r => z.emit (.flit r.2.1)) s1).countReplay)
    else none

/-- ODL_LINK_DOWN: either end takes the link down (R493). -/
def execOdlLinkDown (s : State) : Result := attempt s fun s => if s.linkUp then some s.odlDown else none

/-! ### Interrupt messages (R499 to R501) -/

/-- Bit `v` of ODL_IRQ_PENDING and of ODL_IRQ_MASK. -/
def State.irqPending (s : State) (v : Nat) : Bool := s.bit (regOdlIrqPending (v / 64)) (v % 64)
def State.irqMasked (s : State) (v : Nat) : Bool := s.bit (regOdlIrqMask (v / 64)) (v % 64)

/-- HOLDOFF × 100 ns have passed since the last message for a vector. -/
def State.holdoffOver (s : State) (v : Nat) : Bool :=
  match s.odl.lastMsg.find? fun x => x.1 == v with
  | some x => decide (x.2 + 100 * s.fld regOdlCtrl 7 0 ≤ s.time)
  | none => true

/-- The conditions of R500. -/
def State.canSignal (s : State) (v : Nat) : Bool :=
  s.irqPending v && !s.irqMasked v && s.reg regOdlIrqAddr != 0 && !s.odl.sent.contains v && s.holdoffOver v

/-- The message of a vector sent. -/
def State.sendMessage (s : State) (v : Nat) : State :=
  ((s.emit (.message v)).modOdl fun o =>
    { o with sent := setInsert v o.sent, lastMsg := mapPut v (some s.time) o.lastMsg }).sendFlit

/-- IRQ_MESSAGE. -/
def execIrqMessage (v : Nat) (s : State) : Result :=
  attempt s fun s =>
    if v < 128 ∧ s.linkUp = true ∧ s.flitRoom = true ∧ s.canSignal v = true then some (s.sendMessage v) else none

/-- The vectors held while the link was down are signalled in ascending order (R501). -/
def State.signalHeld (s : State) : State :=
  (List.range 128).foldl (fun z v => if z.canSignal v && z.flitRoom then z.sendMessage v else z) s

/-- A write of ODL_IRQ_PENDING: the bits written 1 are cleared, and their vectors may signal again (R500). -/
def State.clearPending (s : State) (half mask : Nat) : State :=
  let r := regOdlIrqPending half
  let s1 := s.setReg r ((s.reg r) &&& (2 ^ 64 - 1 - mask % 2 ^ 64))
  s1.modOdl fun o => { o with sent := o.sent.filter fun v => !(v / 64 == half && bitOf mask (v % 64)) }

/-- IRQ_PENDING_CLEAR. -/
def execIrqPendingClear (half : Nat) (mask : Word) (s : State) : Result :=
  attempt s fun s => if s.reachableRegs = true ∧ half < 2 then some (s.clearPending half mask.toNat) else none

/-! ### Training (R491, R493) -/

/-- Lanes 0 to 7, and lanes 8 to 15, have trained completely. -/
def lowHalf (lanes : BitVec 16) : Bool := lanes.toNat % 256 == 255
def highHalf (lanes : BitVec 16) : Bool := lanes.toNat / 256 == 255

/-- The link comes up; a retrain is counted, flits not acknowledged are resent, held messages go out, and the companion
is found again (R491, R493, R501, R504). -/
def State.odlComesUp (s : State) (degraded : Bool) : State :=
  let retrain := s.odl.downSince.isSome
  let s1 := ((s.setOdlState 2).setBit regOdlStatus 1 degraded).setBit regOdlStatus 3 false
  let s2 := if retrain then s1.setReg regOdlRetrains ((s1.reg regOdlRetrains + 1) % 2 ^ 32) else s1
  let s3 := s2.modOdl fun o => { o with downSince := none, failed := 0, replays := [],
                                        replay := o.replay.map fun r => (r.1, r.2.1, 0) }
  (s3.odl.replay.foldl (fun z r => z.emit (.flit r.2.1)) s3).signalHeld

/-- ODL_RETRAIN_COMPLETE: training or a retrain ends; `lanes` are those that trained. -/
def execOdlRetrainComplete (lanes : BitVec 16) (s : State) : Result :=
  attempt s fun s =>
    if s.vin.powered = true ∧ s.odlState = 1 then
      if lowHalf lanes || highHalf lanes then some (s.odlComesUp (!(lowHalf lanes && highHalf lanes)))
      else
        let n := s.odl.failed + 1
        let s1 := s.modOdl fun o => { o with failed := n }
        some (if 3 ≤ n then s1.setOdlState 3 else s1)
    else none

/-! ### Companion accesses (R495, R496) -/

/-- Bytes of device memory can be reached: the stacks from phase 6 on while they are not in self-refresh, and on-chip
memory from phase 5 on; a trip turns both off (R446, R458, R466). -/
def State.memoryRuns (s : State) (a : Nat) : Bool :=
  !s.bit regPwrStatus 10 && (match s.place a with
    | .hbm => decide (6 ≤ s.startPhase) && !s.quenchOver
    | .unmapped => false
    | _ => decide (5 ≤ s.startPhase))

/-- The bytes of an aperture read; a byte that the spec gives no value for is free (log entry 5). -/
def State.apertureBytes (s : State) (a n : Nat) : List Byte :=
  (List.range n).map fun i => if s.memoryRuns (a + i) then s.rd (a + i) else Config.freeByte (s.free + i)

/-- COMPANION_MEMORY_READ: `len` bytes at device address `addr`, and the lines that are poisoned. -/
def execCompanionMemoryRead (addr len : Nat) (s : State) : Result :=
  attempt s fun s =>
    if s.linkUp = true ∧ s.flitRoom = true ∧ addr + len ≤ windowBase then
      let bad := (linesOf addr len).filter fun l => s.poisoned (max addr (64 * l))
      let s1 := s.emit (.bytes (s.apertureBytes addr len) bad)
      some ({ s1 with free := s1.free + len }.sendFlit)
    else none

/-- An address that a companion write may change: a page in state REGION, a program area, or an addressable local store
outside its residency area (R495). -/
def State.companionMay (s : State) (a : Nat) : Bool :=
  match s.place a with
  | .hbm => s.pageState (a / 65536) == 1
  | .program _ => true
  | .local_ _ off => decide (off < s.residencyStart)
  | _ => false

/-- A companion write within one line: taken, or discarded as ACCESS. -/
def State.companionPut (s : State) (a : Nat) (bs : List Byte) : State :=
  if s.companionMay a then (if s.memoryRuns a then s.put a bs else s) else s.accessFault a

/-- COMPANION_MEMORY_WRITE. -/
def execCompanionMemoryWrite (addr : Nat) (data : List Byte) (s : State) : Result :=
  attempt s fun s =>
    if s.linkUp = true ∧ addr + data.length ≤ windowBase then
      some ((linePieces (data.length / 64 + 2) addr data).foldl (fun z p => z.companionPut p.1 p.2) s)
    else none

/-- The window lines that the device holds dirty among those of a range. -/
def State.heldLines (s : State) (a n : Nat) : List Nat := (linesOf a n).filter s.odl.dirtyLines.contains

/-- A companion access to `n` bytes of the window takes back what the device holds dirty there (R496). -/
def State.takeBack (s : State) (a n : Nat) : State := (s.heldLines a n).foldl State.writeBack s

/-- COMPANION_WINDOW_ACCESS: the companion reads the 64-byte line at window offset `off`, or writes bytes there. A line
held dirty is served over the link, so the access waits while the link is not up. -/
def execCompanionWindowAccess (off : Nat) (data : Option (List Byte)) (s : State) : Result :=
  attempt s fun s =>
    let a := windowBase + (match data with
      | none => off / 64 * 64
      | some _ => off)
    let n := match data with
      | none => 64
      | some d => d.length
    if off < 0x100000000 ∧ a + n ≤ windowBase + 0x100000000 ∧ (s.heldLines a n = [] ∨ s.linkUp = true) then
      let s1 := s.takeBack a n
      match data with
      | none => some (s1.emit (.bytes (s1.rdBytes a 64) []))
      | some d =>
        let cover := (wholeLines a n).map s1.lineKey
        some { s1 with mem := memPutAll s1.mem (s1.memKey a) d, poison := s1.poison.filter fun l => !cover.contains l }
    else none

/-! ### Loss of the companion (R502 to R504) -/

/-- The companion is lost (R502, R503). -/
def State.loseCompanion (s : State) : State :=
  if s.companionLost then s
  else
    let s1 := ((s.setBit regOdlStatus 3 true).setReg regOdlLossTime s.time).ibi 0x04
    if s1.bit regOdlCtrl 8 then s1.startQuench 4 else s1

/-- A write of ODL_HEARTBEAT: it counts, and a companion that was lost is found again (R502, R504). -/
def State.beat (s : State) : State :=
  let s1 := (s.setReg regOdlHeartbeat ((s.reg regOdlHeartbeat + 1) % 2 ^ 32)).modOdl fun o => { o with lastBeat := s.time }
  if s1.linkUp then s1.setBit regOdlStatus 3 false else s1

/-- HEARTBEAT. -/
def execHeartbeat (_v : Word) (s : State) : Result :=
  attempt s fun s => if s.reachableRegs then some s.beat else none

/-- HEARTBEAT_TIMEOUT: HB_MS milliseconds without a heartbeat. -/
def execHeartbeatTimeout (s : State) : Result :=
  attempt s fun s =>
    let hb := s.fld regOdlCtrl 31 16
    if s.reachableRegs = true ∧ hb ≠ 0 ∧ s.companionLost = false ∧ s.odl.lastBeat + 1000000 * hb ≤ s.time then
      some s.loseCompanion
    else none

/-- LINK_DOWN_TIMEOUT: the link has been down for more than 10 ms. -/
def execLinkDownTimeout (s : State) : Result :=
  attempt s fun s => match s.odl.downSince with
    | some t =>
      if t + 10000000 < s.time ∧ ¬ (s.companionLost = true ∧ s.bit regOdlStatus 2 = true) then
        some (s.loseCompanion.setBit regOdlStatus 2 true)
      else none
    | none => none

/-! ### The window's base (R513) -/

/-- A write of ODL_CW_BASE: the lines held dirty go back to the old window before the new one is in force. -/
def State.writeCwBase (s : State) (v : Nat) : State :=
  if s.ready = false ∨ (s.halted 0 = true ∧ s.tasks = []) then
    (s.odl.dirtyLines.foldl State.writeBack s).setReg regOdlCwBase (v / 2 ^ 32 * 2 ^ 32)
  else s.setBit regOdlStatus 4 true

/-- CW_BASE_WRITE. -/
def execCwBaseWrite (v : Word) (s : State) : Result :=
  attempt s fun s => if s.reachableRegs then some (s.writeCwBase v.toNat) else none

end Sys2Proof.Machine
end

