-- ==== Sys2Proof/Machine/Accept.lean ====
section
/-! DEFINITION. Doorbells (R74), the fetch of slots and descriptors (R71, R73, R79, R80), and acceptance (R75, R83 to R86,
R233, R439). -/

namespace Sys2Proof.Machine

open Sys2Proof

/-! ### Streams -/

/-- Fields of CMD_STRM_CTRL(n). -/
def State.strmEnable (s : State) (n : Nat) : Bool := s.bit (regCmdStrmCtrl n) 0
def State.strmLc (s : State) (n : Nat) : Bool := s.bit (regCmdStrmCtrl n) 1
def State.strmLog2 (s : State) (n : Nat) : Nat := s.fld (regCmdStrmCtrl n) 12 8
def State.strmDcount (s : State) (n : Nat) : Nat := s.fld (regCmdStrmCtrl n) 28 16
def State.strmJob (s : State) (n : Nat) : Nat := s.fld (regCmdStrmCtrl n) 63 32

/-- HEAD and TAIL of a stream (R72). -/
def State.strmHead (s : State) (n : Nat) : Nat := s.fld (regCmdStrmHead n) 31 0
def State.strmTail (s : State) (n : Nat) : Nat := s.fld (regCmdStrmTail n) 31 0

/-- Slots from HEAD to a TAIL, modulo 2^32. -/
def ringDistance (head tail : Nat) : Nat := (tail + 2 ^ 32 - head) % 2 ^ 32

/-- A doorbell (R74): a stale epoch, a TAIL outside the ring, or a new TAIL. -/
def State.ringDoorbell (s : State) (n v : Nat) : State :=
  if v / 2 ^ 32 ≠ s.fld regCmdOwnerEpoch 31 0 then s.streamFlag n 3
  else if 2 ^ s.strmLog2 n < ringDistance (s.strmHead n) (v % 2 ^ 32) then s.streamFlag n 2
  else s.setReg (regCmdStrmTail n) v

/-- DOORBELL: a write of CMD_STRM_TAIL(n). -/
def execDoorbell (n : Nat) (v : Word) (s : State) : Result :=
  attempt s fun s => if s.ready = true ∧ n < 64 then some (s.ringDoorbell n v.toNat) else none

/-! ### Fetching (R71, R73, R79, R80) -/

/-- Bytes that the Command Engine reads for acceptance. A poisoned or unmapped byte has no value that the spec gives and
is free (R423, R503; log entry 5). -/
def State.fetchBytes (s : State) (a n : Nat) : List Byte × State :=
  ((List.range n).map fun i =>
      if s.poisoned (a + i) = true ∨ s.place (a + i) = .unmapped then Config.freeByte (s.free + i) else s.rd (a + i),
    { s with free := s.free + n })

/-- Address of a stream's next slot. A base that is not 64-byte aligned is taken as written (R70; log entry 36). -/
def State.slotAddr (s : State) (n : Nat) : Nat := s.reg (regCmdStrmBase n) + 64 * (s.strmHead n % 2 ^ s.strmLog2 n)

/-- The device can read an address now: the coherent window only while the link is up, or once the companion is lost
(R493, R503). -/
def State.windowWaits (s : State) (a : Nat) : Bool := decide (windowBase ≤ a) && !s.linkUp && !s.companionLost

/-- A stream has a slot that may be fetched (R75, R85, R503). -/
def State.strmPending (s : State) (n : Nat) : Bool :=
  s.strmEnable n && !s.bit (regCmdStrmStatus n) 1 && s.strmHead n != s.strmTail n
    && !(decide (windowBase ≤ s.reg (regCmdStrmBase n)) && (s.companionLost || !s.linkUp))
    && !s.windowWaits (s.reg (regCmdStrmDtab n))

/-- The stream that is served next: latency-critical streams first, round-robin within a class (R75). -/
def State.nextStream (s : State) : Option Nat :=
  let order := ((List.range 64).map fun i => (s.sched.rr + 1 + i) % 64).filter s.strmPending
  match order.find? s.strmLc with
  | some n => some n
  | none => order.head?

/-- The descriptor fields of a slot, in the order of R97. -/
def descFields (word : BitVec 128) : List (Nat × Nat) × List Nat :=
  match layout (wordOpcode word) (wordForm word) with
  | some l => if wordNext word = l.next then (l.descs, List.range (4 + l.descs.length)) else ([], List.range 4)
  | none => ([], List.range 4)

/-- The named descriptors read: those whose index is below DCOUNT (R79, R97). A table base that is not 64-byte aligned
is taken as written (log entry 36). -/
def State.fetchOps (s : State) (n : Nat) : List (Nat × Nat) → List Operand × State
  | [] => ([], s)
  | (f, i) :: rest =>
    let (bs, s1) := s.fetchBytes (s.reg (regCmdStrmDtab n) + 64 * i) 64
    let (os, s2) := s1.fetchOps n rest
    (⟨f, i, Desc.parse bs⟩ :: os, s2)

/-- The next slot of stream `n` as a task, whether some descriptor index is not below DCOUNT, and the state after the
read. -/
def State.fetchTask (s : State) (n : Nat) : Task × Bool × State :=
  let (bs, s1) := s.fetchBytes (s.slotAddr n) 64
  let w (i : Nat) : BitVec 128 := BitVec.ofNat 128 (leNat (slice bs (16 * i) 16))
  let ext := (List.range (wordNext (w 0))).map fun i => w (i + 1)
  let (descs, fields) := descFields (w 0)
  let named := (fields.map fun f => (f, fieldIndex (w 0) ext descs f)).filter fun p => p.2 != 0
  let (ops, s2) := s1.fetchOps n (named.filter fun p => decide (p.2 < s.strmDcount n))
  ({ seq := s.reg regCmdJournalHead, stream := n, ring := s.strmHead n, word := w 0, ext := ext, ops := ops
     job := s.strmJob n, lc := s.strmLc n, bound := 0, sat := s.bit regGlbNumerics 0, portable := s.bit regGlbPartition 0
     acceptTime := s.time, phase := .waiting, issueTime := 0, lastCharge := 0, engineNs := 0, outcome := 0, err := 0
     detail := 0, grantLo := 0, grantHi := 0, logNeed := 0, eligible := none, faults := 0, preempt := false
     noPreempt := false, logData := [], guardCounts := [], fixed := false, noIron := [] },
   named.any fun p => decide (s.strmDcount n ≤ p.2), s2)

/-! ### Acceptance (R83 to R85) -/

/-- HEAD advanced past a slot. -/
def State.advanceHead (s : State) (n : Nat) : State :=
  (s.setReg (regCmdStrmHead n) ((s.strmHead n + 1) % 2 ^ 32)).updateRetire n

/-- A task refused (R85). -/
def State.refuse (s : State) (t : Task) (err : Nat) : State :=
  let s1 := (s.refusedEntry t err).advanceHead t.stream
  (s1.setFld (regCmdStrmStatus t.stream) 31 16 err).streamFlag t.stream 1

/-- What acceptance does for a `PUBLISH`: the region becomes SEALED, and the lowest free image entry is reserved
(R233). -/
def State.sealPublish (s : State) (t : Task) : State :=
  if t.opcode = opPublish then
    let r := t.imm 7 0
    match (List.range 64).find? fun j => s.imgState j == 0 && !(s.pubs.any fun b => b.entry == j) with
    | some j =>
      let s1 := s.setBit (regCadWregion r) 62 true
      { s1 with pubs := s1.pubs ++ [{ seq := t.seq, region := r, version := t.imm 47 16, pred := t.x 1 31 0, entry := j,
                                      step := 0, digest := [] }] }
    | none => s
  else s

/-- A task accepted: its entry, HEAD, and its place with the Scheduler (R84). -/
def State.accept (s : State) (t : Task) : State :=
  let t1 := { t with bound := s.bound t, logNeed := logReserve (s.logEntrySize t) }
  let s1 := (s.taskEntry t1).sealPublish t1
  let s2 := { s1 with tasks := s1.tasks ++ [t1] }
  ((s2.advanceHead t1.stream).markEligible).startPreempts

/-- A task deferred for want of log space stops acceptance on every stream (R439). -/
def State.logIsFull (s : State) : State := (s.setBit regRruStatus 7 true).irq 67

/-- Acceptance is open (R103, R106, R107, R439, R446, R481). -/
def State.acceptOpen (s : State) : Bool :=
  s.ready && !(s.halted 0 || s.halting 0) && !s.stopped && s.journal.opened && !s.bit regCmdStatus 3
    && !s.bit regSecStatus 6 && !s.bit regRruStatus 7

/-- A slot that was read and deferred, as the task it makes now: what was read, with the SEQ, time and device settings
of this attempt (R73, R83). -/
def State.retake (s : State) (t : Task) : Task :=
  { t with seq := s.reg regCmdJournalHead, sat := s.bit regGlbNumerics 0, portable := s.bit regGlbPartition 0,
           acceptTime := s.time }

/-- The next slot of stream `n` as a task: the one deferred, or else the one read now (R73). -/
def State.nextTask (s : State) (n : Nat) : Task × Bool × State :=
  match s.deferred.find? fun t => t.stream == n with
  | some t => (s.retake t, false, { s with deferred := s.deferred.filter fun t => t.stream != n })
  | none => s.fetchTask n

/-- A slot kept as it was read. -/
def State.defer (s : State) (t : Task) : State := { s with deferred := s.deferred ++ [t] }

/-- One slot taken: refused, deferred, or accepted. -/
def State.takeSlot (s : State) (n : Nat) : Option State :=
  let (t, indexBad, s1) := s.nextTask n
  let s2 := { s1 with sched := { s1.sched with rr := n } }
  let err := s2.check t indexBad
  if err ≠ 0 then some (s2.refuse t err)
  else if 4096 ≤ s.tasks.length then some (s1.defer t)
  else if s2.logFree < logReserve (s2.logEntrySize t) then some (s1.defer t).logIsFull
  else some (s2.accept t)

/-- ACCEPT_TASK. -/
def execAcceptTask (s : State) : Result :=
  attempt s fun s =>
    if s.acceptOpen then
      match s.nextStream with
      | some n => s.takeSlot n
      | none => none
    else none

end Sys2Proof.Machine
end

