-- ==== Sys2Proof/Machine/RegAccess.lean ====
section
/-! DEFINITION. Register accesses (R9 to R14, R468, R534): a write by the access codes of the register's fields, with
the registers that act when they are written, and a 32-bit read with the latch of R14. -/

namespace Sys2Proof.Machine

open Sys2Proof

/-! ### Which registers answer -/

/-- The windows that answer before READY: Global, ODL and SEC (R468). -/
def earlyWindow (off : Nat) : Bool :=
  decide (off < 0x1000) || decide (0xD00000 ≤ off ∧ off < 0xD01000) || decide (0x1000000 ≤ off ∧ off < 0x1100000)

/-- The register row that answers at an offset now (R2, R468, R534). -/
def State.answering (s : State) (off : Nat) : Option RegRow :=
  if (s.ready || earlyWindow off) && !absentOff s.variant off then regRow off else none

/-! ### Writes by access code (R9 to R12) -/

/-- The word that a write leaves: written fields take the value, W1C bits written 1 are cleared. -/
def RegRow.merge (r : RegRow) (halted : Bool) (old v : Nat) : Nat :=
  let o : Word := BitVec.ofNat 64 old
  let x : Word := BitVec.ofNat 64 v
  let m : Word := BitVec.ofNat 64 r.rw ||| (if halted then BitVec.ofNat 64 r.wh else 0)
  (((o &&& ~~~m) ||| (x &&& m)) &&& ~~~(x &&& BitVec.ofNat 64 r.w1c)).toNat

/-- The base registers of device areas, but for CAD_TABLE_BASE, whose 0 names no table (R230, R239). -/
def areaBases : List Nat :=
  [regCmdJournalBase, regCmdJsigBase, regSchCtxBase, regRruErrBase, regRruLogBase, regRruTrigBase, regNswSurveyBase,
   regColStepBase]

/-- A register whose fields act only as their access codes say (R9, R10). -/
def State.writeFields (s : State) (r : RegRow) (off v : Nat) : State :=
  let halted := decide (r.owner < 16) && s.halted r.owner
  let s0 := s.setReg off (r.merge halted (s.reg off) v)
  let s1 := if halted && areaBases.contains off then { s0 with named := setInsert off s0.named } else s0
  if r.wh ≠ 0 ∧ halted = false then s1.whWrite r.owner id else s1

/-- A written value with the limits that its register sets on it: a value outside reads back as the nearer limit, or as
the value that its field table names (R105, R149, R330, R395, R443, R470, R513). DCOUNT, for which the spec names neither, is
kept and used as written (log entry 36). -/
def limitWrite (off x : Nat) : Nat :=
  if off = regCmdJournalLog2 then clampTo 16 28 x
  else if off = regCmdJsigCount then clampTo 16 4096 x
  else if regCmdStrmBase 0 ≤ off ∧ off < regCmdStrmBase 64 ∧ off % 0x40 = 8 then
    (if getBits x 12 8 < 6 ∨ 16 < getBits x 12 8 then putBits x 12 8 6 else x)
  else if off = regDsoCtrl then (if getBits x 3 2 = 3 then putBits x 3 2 0 else x)
  else if off = regNswSurveyCtrl then putBits (putBits x 47 32 (max 16 (getBits x 47 32))) 15 0 (max 10 (getBits x 15 0))
  else if off = regColStepSlots then clampTo 16 65535 x
  else if off = regColCtrl then putBits x 8 0 (min 256 (getBits x 8 0))
  else if off = regRruErrSlots then clampTo 16 65535 x
  else if off = regPwrCtrl then putBits x 15 8 (min 100 (getBits x 15 8))
  else if off = regOdlIrqAddr then x / 4 * 4
  else x

/-! ### Registers that act when they are written -/

/-- HALT and RESUME of CMD_CONTROL and RRU_CONTROL: a write that sets both is discarded (R105, R443). -/
def State.writeControl (s : State) (f v : Nat) : State :=
  if bitOf v 0 = true ∧ bitOf v 1 = true then s
  else if bitOf v 0 then s.requestHalt f
  else if bitOf v 1 then s.controlResume f
  else s

/-- GLB_RESET: FULL, or else WARM (R462). -/
def State.writeReset (s : State) (v : Nat) : State :=
  if bitOf v 30 then s.resetDevice 1 else if bitOf v 31 then s.resetDevice 2 else s

/-- CMD_STRM_STATUS(n): STALE_DOORBELL and BAD_DOORBELL are W1C; a 1 in FAULT clears it once its entry is written
(R85, R105). -/
def State.writeStrmStatus (s : State) (n v : Nat) : State :=
  let r := regCmdStrmStatus n
  let s1 := s.setReg r (s.reg r - (if bitOf v 3 && s.bit r 3 then 8 else 0) - (if bitOf v 2 && s.bit r 2 then 4 else 0))
  if bitOf v 1 = true ∧ s.bit r 1 = true then s1.arise (.faultClear n) else s1

/-- RRU_TRIG_CTRL: GO starts a trig point with the FULL of the same write (R435). -/
def State.writeTrigCtrl (s : State) (v : Nat) : State :=
  if bitOf v 0 then s.trigGo (bitOf v 1) else s.setBit regRruTrigCtrl 1 (bitOf v 1)

/-- RRU_TRIG_REGIONS: a region that becomes tracked has the dirty bits of all its pages set (R434). -/
def State.writeTrigRegions (s : State) (i v : Nat) : State :=
  s.whWrite 15 fun s =>
    let old := s.reg (regRruTrigRegions i)
    let s1 := s.setReg (regRruTrigRegions i) v
    let fresh := (List.range 64).filter fun b => bitOf v b && !bitOf old b && s.regionValid (64 * i + b)
    let ps := fresh.flatMap fun b => (List.range (s.regionPages (64 * i + b))).map (s.regionFirst (64 * i + b) + ·)
    s1.modRru fun x => { x with dirty := ps.foldl (fun d p => setInsert p d) x.dirty }

/-- PWR_CTRL: the thresholds are WH; a 1 in QUENCH starts a quench (R446, R470). -/
def State.writePwrCtrl (s : State) (v : Nat) : State :=
  let s1 := s.whWrite 14 fun s => s.setReg regPwrCtrl (getBits (limitWrite regPwrCtrl v) 23 8 * 2 ^ 8)
  if bitOf v 31 then s1.startQuench 4 else s1

/-- Registers of the Global and Command blocks that act. -/
def State.writeActing0 (s : State) (off v : Nat) : Option State :=
  if off = regGlbPartition then (if s.variant = .fd860 then some s else none)
  else if off = regGlbReset then some (s.writeReset v)
  else if off = regCmdControl then some (s.writeControl 0 v)
  else if off = regCmdOwnerEpoch then some (s.arise (.epoch (BitVec.ofNat 32 v)))
  else if off = regCmdJournalTail then some (s.writeJournalTail v)
  else if off = regCmdJsigTail then some (s.writeJsigTail v)
  else if off = regCmdEventAdd then some (s.writeEventAdd v)
  else if regCmdStrmBase 0 ≤ off ∧ off < regCmdStrmBase 64 then
    let n := (off - regCmdStrmBase 0) / 0x40
    if off = regCmdStrmTail n then some (s.ringDoorbell n v)
    else if off = regCmdStrmStatus n then some (s.writeStrmStatus n v)
    else none
  else none

/-- Registers of the Scheduler, the routing engines, the memory and the stacks that act. -/
def State.writeActing1 (s : State) (off v : Nat) : Option State :=
  if off = regSchCtrl then some (s.writeSchCtrl v)
  else if regSchLc 0 ≤ off ∧ off < regSchLc 64 then some (s.writeLc ((off - regSchLc 0) / 8) v)
  else if off = regDsoHamperPeak then some (if bitOf v 31 then s.setFld regDsoHamperPeak 24 0 0 else s)
  else if off = regNstCtrl then some (s.writeProgMib v)
  else if off = regCadTableBase then some (s.writeTableBase v)
  else if regCadWregion 0 ≤ off ∧ off < regCadWregion 256 then
    let i := (off - regCadWregion 0) / 0x10
    some (if off = regCadWregion i then s.writeRegionLow i v else s.writeRegionHigh i v)
  else if off = regSmsNearUnits then some (s.writeNearUnits v)
  else if off = regSmsDarn then some (s.writeHeadroom v)
  else if regSmsRetrainReq 0 ≤ off ∧ off < regSmsRetrainReq 6 then
    some (s.setReg off (s.serveMask ((off - regSmsRetrainReq 0) / 8) v))
  else if regSmsMarginReq 0 ≤ off ∧ off < regSmsMarginReq 6 then
    some (s.setReg off (s.serveMask ((off - regSmsMarginReq 0) / 8) v))
  else if off = regSmsDarnReq then some (s.writeDarnReq v)
  else none

/-- Registers of the fabric, the remote memory and the collectives that act. -/
def State.writeActing2 (s : State) (off v : Nat) : Option State :=
  if off = regNswEpoch then some (s.writeEpoch v)
  else if off = regNswRetire then some (s.writeRetire v)
  else if regNswRoute 0 ≤ off ∧ off < regNswRoute 32768 then
    let i := (off - regNswRoute 0) / 8
    some (s.writeRoute (i / 16384) (i % 16384) v)
  else if off = regNswDeviceId then some (s.writeDeviceId v)
  else if regFptPortCtrl 0 ≤ off ∧ off < regFptPortCtrl 24 ∧ off % 0x1000 = 8 then
    some (s.writePortCtrl ((off - regFptPortCtrl 0) / 0x1000) v)
  else if off = regRmeCtrl then some (s.writeRmeCtrl v)
  else if regColGroup 0 ≤ off ∧ off < regColGroup 4096 then
    let i := off - regColGroup 0
    some (s.writeGroup (i / 0x20) (i % 0x20 / 8) v)
  else none

/-- Registers of the Odord link, the power, the RRU and the Security Unit that act. -/
def State.writeActing3 (s : State) (off v : Nat) : Option State :=
  if off = regOdlCwBase then some (s.writeCwBase v)
  else if off = regOdlIrqPending 0 then some (s.clearPending 0 v)
  else if off = regOdlIrqPending 1 then some (s.clearPending 1 v)
  else if off = regOdlHeartbeat then some s.beat
  else if off = regPwrCtrl then some (s.writePwrCtrl v)
  else if off = regRruErrTail then some (s.setReg off (min v (s.reg regRruErrHead)))
  else if off = regRruLogTail then some (s.writeLogTail v)
  else if off = regRruIncomplete then some (if bitOf v 63 then s else s.setReg off 0)
  else if off = regRruTrigCtrl then some (s.writeTrigCtrl v)
  else if regRruTrigRegions 0 ≤ off ∧ off < regRruTrigRegions 4 then
    some (s.writeTrigRegions ((off - regRruTrigRegions 0) / 8) v)
  else if off = regRruDigestReq then some (s.writeDigestReq v)
  else if off = regRruPatch then some (s.writePatch v)
  else if off = regRruControl then some (s.writeControl 15 v)
  else if off = regSecSvnCommit then some (if bitOf v 0 then s.commitSvn else s)
  else if off = regSecRecoveryCtrl then some (s.writeRecovery v)
  else if off = regSecFlashCtrl then some (s.writeFlash v)
  else if off = regSecAttestCtrl then some (if bitOf v 31 then s.attestGo else s)
  else none

/-- The effect of a write of a register that acts. -/
def State.writeActing (s : State) (off v : Nat) : Option State :=
  if off < 0x200000 then s.writeActing0 off v
  else if off < 0x800000 then s.writeActing1 off v
  else if off < 0xD00000 then s.writeActing2 off v
  else s.writeActing3 off v

/-- A register write of `width` bits: discarded where no register of that width answers (R2, R468, R534). -/
def State.writeReg (s : State) (off width v : Nat) : State :=
  match s.answering off with
  | none => s
  | some r =>
    if r.width ≠ width then s
    else match s.writeActing off v with
      | some t => t
      | none => s.writeFields r off (limitWrite off v)

/-- REGISTER_WRITE: by the companion over the Odord aperture (R494), or by Steward firmware over the mesh (R540). -/
def execRegisterWrite (off width : Nat) (v : Word) (src : Src) (s : State) : Result :=
  attempt s fun s =>
    if s.reachableRegs = true ∧ (src = .companion → s.linkUp = true) then
      some (s.writeReg off width (v.toNat % 2 ^ width))
    else none

/-! ### Reads (R14, R534) -/

/-- STATUS words with the bits that follow from the rest of the state. -/
def State.statusView (s : State) (off : Nat) : Option Nat :=
  let busy (b : Bool) := some (s.reg off + 8 * b2n b)
  if off = regScuStatus then busy !(s.holders 1).isEmpty
  else if off = regDsoStatus then busy (!(s.holders 2).isEmpty || !(s.holders 3).isEmpty)
  else if off = regCmbStatus then busy !(s.holders 4).isEmpty
  else if off = regPruStatus then busy !(s.holders 5).isEmpty
  else if off = regAgdStatus then busy !s.heldItems.isEmpty
  else if off = regSchStatus then
    some (s.reg off + 64 * b2n (s.tasks.any fun t => s.issueOk t && !s.blockOk t))
  else if off = regCadStatus then some (s.reg off + 16 * b2n (s.tasks.any fun t => t.opcode == opPublish && t.issueTime != 0))
  else if off = regNswStatus then some (s.reg off + 256 * (s.epoch % 2))
  else if off = regMshStatus then some (s.reg off + b2n (s.rru.meshResends.any fun x => decide (s.time < x.2 + 1000)))
  else if regCmdStrmBase 0 ≤ off ∧ off < regCmdStrmBase 64 ∧ off % 0x40 = 0x28 then
    some (s.strmStatus ((off - regCmdStrmBase 0) / 0x40))
  else none

/-- CORE_STATUS of physical core `k` (R186). FROZEN follows from the timing of the feeders; it is free while the array
works (log entry 5). -/
def State.coreStatus (s : State) (k : Nat) : Nat :=
  let c := s.core k
  let waits := s.power.requests.any fun r => !r.collective && s.logical k == some r.core && s.requestStands r
  let irons := c.vec.any fun b => b.owner != k
  b2n c.cur.isSome + 2 * b2n c.vec.isSome
    + (if c.cur.isSome then 4 * ((Config.freeByte s.free).toNat % 2) else 0) + 8 * b2n waits + 16 * b2n irons

/-- A counter of a core's cycles while the core holds a run: CORE_ARRAY_CYCLES, CORE_DRY_CYCLES, CORE_DRAIN_CYCLES,
CORE_STAKE_CYCLES. They count timing, which the model leaves out: what the run in hand has added is free (R186; log entry
11). -/
def State.coreCycles (s : State) (off : Nat) : Bool :=
  decide (regCoreMap 0 ≤ off ∧ off < regCoreMap 180 ∧ 0x20 ≤ off % 0x1000 ∧ off % 0x1000 < 0x40)
    && (s.core ((off - regCoreMap 0) / 0x1000)).cur.isSome

/-- Registers that hold no state of their own. -/
def State.derivedView (s : State) (off : Nat) : Option Nat :=
  if off = regGlbTime then some (s.time % 2 ^ 64)
  else if off = regSmsLimit then some s.smsLimit
  else if off = regSmsAllocLimit then some s.allocLimit
  else if off = regSchCtxUsed then some s.ctxUsed.length
  else if off = regCoreTilePending then some s.runs.length
  else if off = regCadFramesUsed then some s.framesUsed.length
  else if off = regPwrGranted then some (s.poolUnits * 2 ^ 16 + s.unitsGranted)
  else if off = regOdlCwDirty then some s.odl.dirtyLines.length
  else if regSchLcRemain 0 ≤ off ∧ off < regSchLcRemain 64 then
    some (s.remainNow ((off - regSchLcRemain 0) / 8) % (2 ^ 64 : Int)).toNat
  else if regSchShareAcct 0 ≤ off ∧ off < regSchShareAcct 512 then
    some ((s.reg off + s.openCharge ((off - regSchShareAcct 0) / 0x40) ((off - regSchShareAcct 0) % 0x40 / 8) false) % 2 ^ 64)
  else if regSchDeficit 0 ≤ off ∧ off < regSchDeficit 512 then
    let j := (off - regSchDeficit 0) / 0x40
    let e := (off - regSchDeficit 0) % 0x40 / 8
    some ((s.deficit j e - s.openCharge j e true) % (2 ^ 64 : Int)).toNat
  else if regRmeQueueOut 0 ≤ off ∧ off < regRmeQueueOut 8 then some (s.queueOut ((off - regRmeQueueOut 0) / 8))
  else if regCoreStatus 0 ≤ off ∧ off < regCoreStatus 180 ∧ off % 0x1000 = 8 then
    some (s.coreStatus ((off - regCoreStatus 0) / 0x1000))
  else if s.coreCycles off then
    some ((s.reg off + leNat ((List.range 4).map fun i => Config.freeByte (s.free + i))) % 2 ^ 64)
  else if regCadImage 0 ≤ off ∧ off < regCadImage 512 ∧ off % 0x40 = 0x10 then
    let j := (off - regCadImage 0) / 0x40
    some (s.imgPred j + (if s.imgState j = 0 then 0 else s.readers j) * 2 ^ 32)
  else none

/-- The whole value of the register word at an offset, as it reads. -/
def State.readWord (s : State) (r : RegRow) (off : Nat) : Nat :=
  (match s.statusView off with
    | some v => v
    | none => match s.derivedView off with
      | some v => v
      | none => s.reg off) % 2 ^ r.width

/-- The state after a read of CORE_STATUS or of a cycle counter, which draws free values. -/
def State.afterRead (s : State) (off : Nat) : State :=
  if regCoreStatus 0 ≤ off ∧ off < regCoreStatus 180 ∧ off % 0x1000 = 8 then { s with free := s.free + 1 }
  else if s.coreCycles off then { s with free := s.free + 4 }
  else s

/-- A 32-bit read: a 32-bit register; the low half of a 64-bit word, which latches the high half; or a high half, the
latched one when there is one. Anything else reads 0. -/
def State.read32 (s : State) (off : Nat) : Nat × State :=
  match s.answering off with
  | some r =>
    let v := s.readWord r off
    let s1 := s.afterRead off
    if r.width = 32 then (v, s1)
    else (v % 2 ^ 32, { s1 with latch := mapPut off (some (BitVec.ofNat 32 (v / 2 ^ 32))) s1.latch })
  | none =>
    if off % 8 ≠ 4 then (0, s)
    else match s.answering (off - 4) with
      | none => (0, s)
      | some r =>
        if r.width = 32 then (0, s)
        else match s.latch.find? fun l => l.1 == off - 4 with
          | some l => (l.2.toNat, { s with latch := mapPut (off - 4) none s.latch })
          | none => (s.readWord r (off - 4) / 2 ^ 32, s)

/-- REGISTER_READ_LOW_HALF: a 32-bit read over the Odord aperture or the mesh. -/
def execRegisterReadLowHalf (off : Nat) (s : State) : Result :=
  attempt s fun s =>
    if s.reachableRegs = true ∧ off % 4 = 0 then
      let r := s.read32 off
      some (r.2.emit (.readData (BitVec.ofNat 64 r.1)))
    else none

end Sys2Proof.Machine
end

