-- ==== Sys2Proof/Machine/Mgmt.lean ====
section
/-! DEFINITION. The management interfaces: the I3C target (R505 to R508), PMBus (R510) and boundary scan (R511,
R512). -/

namespace Sys2Proof.Machine

open Sys2Proof

/-- The management interfaces changed. -/
def State.modMgmt (s : State) (f : Mgmt → Mgmt) : State := { s with mgmt := f s.mgmt }

/-! ### I3C (R505 to R508) -/

/-- The Provisional ID: the manufacturer's code in [47:33] and the low 16 bits of SERIAL in [15:0] (R505). -/
def provisionalId : Nat :=
  Config.mipiCode.toNat * 2 ^ 33 + Config.pidInstance.toNat * 2 ^ 16 + Config.serial.toNat % 2 ^ 16

/-- A transfer to the device's dynamic address: the target is active from the end of phase 2 (R469), and a target
without a dynamic address is not addressed. -/
def State.i3cActive (s : State) : Bool := s.reachableRegs && s.mgmt.dynAddr.isSome

/-- An answer of the I3C target. -/
def i3cAnswer (bs : List Byte) (s : State) : Result :=
  attempt s fun s => if s.i3cActive then some (s.emit (.i3c bs)) else none

/-- ENTDAA: a target without a dynamic address sends its Provisional ID, BCR and DCR, and takes the address. -/
def execEntdaa (addr : BitVec 7) (s : State) : Result :=
  attempt s fun s =>
    if s.reachableRegs = true ∧ s.mgmt.dynAddr = none then
      some ((s.modMgmt fun m => { m with dynAddr := some addr }).emit
        (.i3c (beBytes 6 provisionalId ++ [Config.bcr, Config.dcr])))
    else none

/-- SETDASA from the static address 0x5C. -/
def execSetdasa (addr : BitVec 7) (s : State) : Result :=
  attempt s fun s =>
    if s.reachableRegs = true ∧ s.mgmt.dynAddr = none then some (s.modMgmt fun m => { m with dynAddr := some addr })
    else none

/-- RSTDAA. -/
def execRstdaa (s : State) : Result :=
  attempt s fun s => if s.reachableRegs then some (s.modMgmt fun m => { m with dynAddr := none }) else none

/-- GETPID. -/
def execGetpid (s : State) : Result := i3cAnswer (beBytes 6 provisionalId) s

/-- GETBCR. -/
def execGetbcr (s : State) : Result := i3cAnswer [Config.bcr] s

/-- GETDCR. -/
def execGetdcr (s : State) : Result := i3cAnswer [Config.dcr] s

/-- GETSTATUS: the status word, most significant byte first. -/
def execGetstatus (s : State) : Result :=
  attempt s fun s =>
    if s.i3cActive then
      some ((s.modMgmt fun m => { m with statuses := m.statuses + 1 }).emit
        (.i3c (beBytes 2 (Config.i3cStatus s.mgmt.statuses).toNat)))
    else none

/-- Bit 0 of the event byte names in-band interrupts (log entry 23). -/
def namesIbi (events : Byte) : Bool := events.toNat % 2 == 1

/-- ENEC: in-band interrupts are enabled. -/
def execEnec (events : Byte) (s : State) : Result :=
  attempt s fun s =>
    if s.reachableRegs then some (s.modMgmt fun m => { m with ibiOn := m.ibiOn || namesIbi events }) else none

/-- DISEC: in-band interrupts are disabled. -/
def execDisec (events : Byte) (s : State) : Result :=
  attempt s fun s =>
    if s.reachableRegs then some (s.modMgmt fun m => { m with ibiOn := m.ibiOn && !namesIbi events }) else none

/-- RSTACT with its reset pattern (R507). -/
def execRstact (defining : Byte) (s : State) : Result :=
  attempt s fun s =>
    if s.reachableRegs then
      (if defining = 0x01#8 ∨ defining = 0x02#8 then some (s.resetDevice 1)
      else if defining = 0x00#8 then some s
      else some (s.emit .nack))
    else none

/-- I3C_OFFSET_WRITE. -/
def execI3cOffsetWrite (off : BitVec 32) (s : State) : Result :=
  attempt s fun s => if s.i3cActive then some (s.modMgmt fun m => { m with offset := off.toNat }) else none

/-- I3C_PRIVATE_READ: four bytes of the register at the offset (R506, R534). -/
def execI3cPrivateRead (s : State) : Result :=
  attempt s fun s =>
    if s.i3cActive then
      let r := s.read32 s.mgmt.offset
      some (r.2.emit (.i3c (leBytes 4 r.1)))
    else none

/-- The registers that the board may write (R506). -/
def State.i3cWrite (s : State) (off v : Nat) : State :=
  if off = regGlbReset then s.writeReset v
  else if off = regPwrCtrl then (if bitOf v 31 = true ∧ s.ready = true then s.startQuench 4 else s)
  else if off = regStwAlert then s.writeReg regStwAlert 32 v
  else s

/-- I3C_DATA_WRITE: offset and data together. -/
def execI3cDataWrite (off v : BitVec 32) (s : State) : Result :=
  attempt s fun s =>
    if s.i3cActive then some ((s.modMgmt fun m => { m with offset := off.toNat }).i3cWrite off.toNat v.toNat) else none

/-! ### PMBus (R510) -/

/-- The stage answers from the end of phase 2 while VIN is present (R469, R510). -/
def State.pmbusOn (s : State) : Bool := s.vin.powered && decide (3 ≤ s.startPhase)

/-- An answer of the PMBus target. -/
def pmbusAnswer (f : Mgmt → List Byte) (s : State) : Result :=
  attempt s fun s => if s.pmbusOn then some (s.emit (.pmbus (f s.mgmt))) else none

/-- LINEAR11 of `num` / `den`: the smallest exponent from −16 whose rounded mantissa fits (log entry 23). -/
def linear11 (num : Int) (den : Nat) : Nat :=
  let mant (k : Nat) : Int := (num * 2 ^ 17 + den * 2 ^ k) / (den * 2 ^ (k + 1) : Nat)
  let k := ((List.range 32).find? fun k => decide (-1024 ≤ mant k ∧ mant k ≤ 1023)).getD 31
  (k + 16) % 32 * 2048 + (mant k % 2048).toNat

/-- The input faults that the last readings show. -/
def Mgmt.uvNow (m : Mgmt) : Bool := decide (m.readings.vin < 40000)
def Mgmt.ovNow (m : Mgmt) : Bool := decide (60000 < m.readings.vin)

/-- CLEAR_FAULTS. -/
def execClearFaults (s : State) : Result :=
  attempt s fun s =>
    if s.pmbusOn then
      some (s.modMgmt fun m => { m with commFault := false, uvFault := m.uvFault && m.uvNow, ovFault := m.ovFault && m.ovNow })
    else none

/-- STATUS_INPUT: overvoltage in bit 7, undervoltage in bit 4, inrush limiting in bit 2 (log entry 23). -/
def Mgmt.statusInput (m : Mgmt) : Nat := 128 * b2n m.ovFault + 16 * b2n m.uvFault + 4 * b2n m.readings.inrush

/-- STATUS_WORD: output in bit 15, input in bit 13, undervoltage in bit 3, temperature in bit 2, communication in
bit 1 (log entry 23). The spec does not say when the output and temperature bits are set: they are free. -/
def Mgmt.statusWord (m : Mgmt) (output temperature : Bool) : Nat :=
  2 ^ 15 * b2n output + 2 ^ 13 * b2n (m.statusInput != 0) + 8 * b2n m.uvFault + 4 * b2n temperature + 2 * b2n m.commFault

/-- STATUS_WORD. -/
def execStatusWord (s : State) : Result :=
  attempt s fun s =>
    if s.pmbusOn then
      let (b, s1) := s.fresh
      some (s1.emit (.pmbus (leBytes 2 (s1.mgmt.statusWord (b.toNat % 2 == 1) (b.toNat / 2 % 2 == 1)))))
    else none

/-- STATUS_INPUT. -/
def execStatusInput (s : State) : Result := pmbusAnswer (fun m => leBytes 1 m.statusInput) s

/-- READ_VIN. -/
def execReadVin (s : State) : Result := pmbusAnswer (fun m => leBytes 2 (linear11 m.readings.vin 1000)) s

/-- READ_IIN. -/
def execReadIin (s : State) : Result := pmbusAnswer (fun m => leBytes 2 (linear11 m.readings.iin 1000)) s

/-- READ_VOUT: VIB in LINEAR16 with exponent −12. -/
def execReadVout (s : State) : Result :=
  pmbusAnswer (fun m => leBytes 2 (min 0xFFFF ((m.readings.vout * 4096 + 500) / 1000))) s

/-- READ_IOUT. -/
def execReadIout (s : State) : Result := pmbusAnswer (fun m => leBytes 2 (linear11 m.readings.iout 1000)) s

/-- READ_TEMPERATURE_1. -/
def execReadTemperature1 (s : State) : Result := pmbusAnswer (fun m => leBytes 2 (linear11 m.readings.temp 10)) s

/-- READ_POUT. -/
def execReadPout (s : State) : Result := pmbusAnswer (fun m => leBytes 2 (linear11 m.readings.pout 1000)) s

/-- READ_PIN. -/
def execReadPin (s : State) : Result := pmbusAnswer (fun m => leBytes 2 (linear11 m.readings.pin 1000)) s

/-- PMBUS_REVISION. -/
def execPmbusRevision (s : State) : Result := pmbusAnswer (fun _ => [0x33#8]) s

/-- MFR_ID: a block read, its length first. -/
def execMfrId (s : State) : Result := pmbusAnswer (fun _ => 8#8 :: ascii "HERUANKO") s

/-- The command codes that the stage supports (R510). -/
def pmbusCodes : List Nat := [0x03, 0x79, 0x7C, 0x88, 0x89, 0x8B, 0x8C, 0x8D, 0x96, 0x97, 0x98, 0x99]

/-- PMBUS_UNSUPPORTED: every other command is answered with a NACK. -/
def execPmbusUnsupported (code : Byte) (s : State) : Result :=
  attempt s fun s =>
    if s.pmbusOn = true ∧ ¬ code.toNat ∈ pmbusCodes then
      some ((s.modMgmt fun m => { m with commFault := true }).emit .nack)
    else none

/-- `a` agrees with `b` to within 1 % and the resolution `step` of `b` (R510; log entry 23). -/
def agrees (a b step : Nat) : Bool := decide (100 * a ≤ 101 * b + 100 * step ∧ 99 * b ≤ 100 * a + 100 * step)

/-- The readings agree with PWR_INPUT (R510). -/
def State.readingsOk (s : State) (r : Readings) : Bool :=
  agrees r.vin (10 * s.fld regPwrInput 15 0) 10 && agrees r.pin (1000 * s.fld regPwrInput 31 16) 1000

/-- PMBUS_READING_UPDATE: the readings of the last 100 µs, which agree with PWR_INPUT; faults that they show are
latched. -/
def execPmbusReadingUpdate (r : Readings) (s : State) : Result :=
  attempt s fun s =>
    if s.vin.powered = true ∧ s.readingsOk r = true then
      some (s.modMgmt fun m =>
        let m1 := { m with readings := r }
        { m1 with uvFault := m1.uvFault || m1.uvNow, ovFault := m1.ovFault || m1.ovNow })
    else none

/-! ### Boundary scan (R511, R512) -/

/-- The instructions as `Mgmt.jtag` numbers them; IDCODE is in force after power-on (IEEE 1149.1). -/
abbrev jtIdcode : Nat := 0
abbrev jtBypass : Nat := 1
abbrev jtSample : Nat := 2
abbrev jtExtest : Nat := 3
abbrev jtExtestPulse : Nat := 4
abbrev jtExtestTrain : Nat := 5
abbrev jtClamp : Nat := 6
abbrev jtHighz : Nat := 7

/-- An instruction taken into force while the module is powered; those that drive pins do so only while RESET_N is held
low (R512). -/
def State.jtagLoad (s : State) (n : Nat) : State := (s.modMgmt fun m => { m with jtag := n }).scanDrives

/-- An instruction with the bits that it shifts out. -/
def jtagTake (n : Nat) (bits : List Bool) (s : State) : Result :=
  attempt s fun s => if s.vin.powered then some ((s.jtagLoad n).emit (.jtag bits)) else none

/-- BYPASS: the one-bit bypass register captures 0. -/
def execBypass (s : State) : Result := jtagTake jtBypass [false] s

/-- The IDCODE word: version, part number, JEP106 code and a final 1 (R511). -/
def idcode (v : Variant) : Nat :=
  1 * 2 ^ 28 + (match v with
    | .fd880 => 0x8800
    | .fd860 => 0x8600) * 2 ^ 12 + Config.jep106.toNat * 2 + 1

/-- IDCODE: 32 bits, least significant first. -/
def execIdcode (s : State) : Result :=
  jtagTake jtIdcode ((List.range 32).map fun i => bitOf (idcode s.variant) i) s

/-- SAMPLE/PRELOAD: the pins are observed and the boundary register loaded. -/
def execSamplePreload (bits pins : List Bool) (s : State) : Result :=
  attempt s fun s =>
    if s.vin.powered then
      some (((s.jtagLoad jtSample).modMgmt fun m => { m with boundary := bits }).emit (.jtag pins))
    else none

/-- EXTEST. -/
def execExtest (s : State) : Result := jtagTake jtExtest [] s

/-- EXTEST_PULSE. -/
def execExtestPulse (s : State) : Result := jtagTake jtExtestPulse [] s

/-- EXTEST_TRAIN. -/
def execExtestTrain (s : State) : Result := jtagTake jtExtestTrain [] s

/-- CLAMP. -/
def execClamp (s : State) : Result := jtagTake jtClamp [] s

/-- HIGHZ. -/
def execHighz (s : State) : Result := jtagTake jtHighz [] s

end Sys2Proof.Machine
end

