-- ==== Sys2Proof/Machine/Dispatch.lean ====
section
/-! DEFINITION. The dispatch of a command to its meaning, one arm for each row of the table. -/

namespace Sys2Proof.Machine

open Sys2Proof

def exec (i : Instr) (s : State) : Host.Outcome State Fault Refusal :=
  match i with
  | .registerWrite off width v src => Sys2Proof.Machine.execRegisterWrite off width v src s
  | .registerReadLowHalf off => Sys2Proof.Machine.execRegisterReadLowHalf off s
  | .vinSample mv => Sys2Proof.Machine.execVinSample mv s
  | .startupStageDone => Sys2Proof.Machine.execStartupStageDone s
  | .startupRomDone => Sys2Proof.Machine.execStartupRomDone s
  | .firmwareVerifyDone readable => Sys2Proof.Machine.execFirmwareVerifyDone readable s
  | .startupIslandsDone fails => Sys2Proof.Machine.execStartupIslandsDone fails s
  | .hbmTrainingDone failed found => Sys2Proof.Machine.execHbmTrainingDone failed found s
  | .portsPhaseDone => Sys2Proof.Machine.execPortsPhaseDone s
  | .resetNAssert lowNs => Sys2Proof.Machine.execResetNAssert lowNs s
  | .resetNRelease => Sys2Proof.Machine.execResetNRelease s
  | .glbResetFull => Sys2Proof.Machine.execGlbResetFull s
  | .glbResetWarm => Sys2Proof.Machine.execGlbResetWarm s
  | .refclkLoss => Sys2Proof.Machine.execRefclkLoss s
  | .doorbell n v => Sys2Proof.Machine.execDoorbell n v s
  | .acceptTask => Sys2Proof.Machine.execAcceptTask s
  | .segmentTimeLimit => Sys2Proof.Machine.execSegmentTimeLimit s
  | .segmentSigned => Sys2Proof.Machine.execSegmentSigned s
  | .journalTailWrite v => Sys2Proof.Machine.execJournalTailWrite v s
  | .jsigTailWrite v => Sys2Proof.Machine.execJsigTailWrite v s
  | .cmdHalt => Sys2Proof.Machine.execCmdHalt s
  | .cmdResume => Sys2Proof.Machine.execCmdResume s
  | .ownerEpochWrite v => Sys2Proof.Machine.execOwnerEpochWrite v s
  | .streamFaultClear n => Sys2Proof.Machine.execStreamFaultClear n s
  | .eventAdd v => Sys2Proof.Machine.execEventAdd v s
  | .functionHaltComplete f => Sys2Proof.Machine.execFunctionHaltComplete f s
  | .taskComplete seq => Sys2Proof.Machine.execTaskComplete seq s
  | .fence seq => Sys2Proof.Machine.execFence seq s
  | .wait seq => Sys2Proof.Machine.execWait seq s
  | .waitTimeout seq => Sys2Proof.Machine.execWaitTimeout seq s
  | .signal seq => Sys2Proof.Machine.execSignal seq s
  | .halt seq => Sys2Proof.Machine.execHalt seq s
  | .resume seq => Sys2Proof.Machine.execResume seq s
  | .score seq => Sys2Proof.Machine.execScore seq s
  | .dispatch seq => Sys2Proof.Machine.execDispatch seq s
  | .dispatchX seq => Sys2Proof.Machine.execDispatchX seq s
  | .gather seq splits => Sys2Proof.Machine.execGather seq splits s
  | .combine seq => Sys2Proof.Machine.execCombine seq s
  | .combineX seq => Sys2Proof.Machine.execCombineX seq s
  | .combinePhase1Start seq => Sys2Proof.Machine.execCombinePhase1Start seq s
  | .dmm seq => Sys2Proof.Machine.execDmm seq s
  | .dmmAr seq => Sys2Proof.Machine.execDmmAr seq s
  | .dmmRs seq => Sys2Proof.Machine.execDmmRs seq s
  | .dmmAg seq => Sys2Proof.Machine.execDmmAg seq s
  | .xmm seq => Sys2Proof.Machine.execXmm seq s
  | .xmmK seq => Sys2Proof.Machine.execXmmK seq s
  | .ewise seq => Sys2Proof.Machine.execEwise seq s
  | .ewiseStochastic seq => Sys2Proof.Machine.execEwiseStochastic seq s
  | .pruneMask seq => Sys2Proof.Machine.execPruneMask seq s
  | .prunePack seq => Sys2Proof.Machine.execPrunePack seq s
  | .shadow seq => Sys2Proof.Machine.execShadow seq s
  | .move seq => Sys2Proof.Machine.execMove seq s
  | .publish seq => Sys2Proof.Machine.execPublish seq s
  | .publishHashComplete seq => Sys2Proof.Machine.execPublishHashComplete seq s
  | .rload seq => Sys2Proof.Machine.execRload seq s
  | .rstore seq => Sys2Proof.Machine.execRstore seq s
  | .mstore seq => Sys2Proof.Machine.execMstore seq s
  | .ratomic seq => Sys2Proof.Machine.execRatomic seq s
  | .rreduce seq => Sys2Proof.Machine.execRreduce seq s
  | .collectAllReduce seq => Sys2Proof.Machine.execCollectAllReduce seq s
  | .collectReduceScatter seq => Sys2Proof.Machine.execCollectReduceScatter seq s
  | .collectAllGather seq => Sys2Proof.Machine.execCollectAllGather seq s
  | .collectBroadcast seq => Sys2Proof.Machine.execCollectBroadcast seq s
  | .collectBarrier seq => Sys2Proof.Machine.execCollectBarrier seq s
  | .lcPeriodStart n => Sys2Proof.Machine.execLcPeriodStart n s
  | .schLcWrite n v => Sys2Proof.Machine.execSchLcWrite n v s
  | .schCtrlWrite v => Sys2Proof.Machine.execSchCtrlWrite v s
  | .preemptionComplete seq => Sys2Proof.Machine.execPreemptionComplete seq s
  | .residencyCopyComplete n => Sys2Proof.Machine.execResidencyCopyComplete n s
  | .runClaim core => Sys2Proof.Machine.execRunClaim core s
  | .runComplete core => Sys2Proof.Machine.execRunComplete core s
  | .stakeGrant => Sys2Proof.Machine.execStakeGrant s
  | .partialSumStart seq tile => Sys2Proof.Machine.execPartialSumStart seq tile s
  | .vectorBlockClaim core => Sys2Proof.Machine.execVectorBlockClaim core s
  | .vectorBlockComplete core => Sys2Proof.Machine.execVectorBlockComplete core s
  | .guardDecision seq expert block => Sys2Proof.Machine.execGuardDecision seq expert block s
  | .hamperPeakClear => Sys2Proof.Machine.execHamperPeakClear s
  | .regionValidSet n v => Sys2Proof.Machine.execRegionValidSet n v s
  | .regionValidClear n => Sys2Proof.Machine.execRegionValidClear n s
  | .cadTableBaseWrite v => Sys2Proof.Machine.execCadTableBaseWrite v s
  | .nearUnitsWrite v => Sys2Proof.Machine.execNearUnitsWrite v s
  | .progMibWrite v => Sys2Proof.Machine.execProgMibWrite v s
  | .headroomWrite v => Sys2Proof.Machine.execHeadroomWrite v s
  | .heatEpochEnd => Sys2Proof.Machine.execHeatEpochEnd s
  | .promotionComplete page ok => Sys2Proof.Machine.execPromotionComplete page ok s
  | .evictionComplete page => Sys2Proof.Machine.execEvictionComplete page s
  | .hbmReadComplete addr len bad by_ => Sys2Proof.Machine.execHbmReadComplete addr len bad by_ s
  | .rowRepair chan row => Sys2Proof.Machine.execRowRepair chan row s
  | .refreshSlot chan bank => Sys2Proof.Machine.execRefreshSlot chan bank s
  | .rinseStep chan off symbols row => Sys2Proof.Machine.execRinseStep chan off symbols row s
  | .retrainSlot => Sys2Proof.Machine.execRetrainSlot s
  | .retrainReqWrite n v => Sys2Proof.Machine.execRetrainReqWrite n v s
  | .retrainComplete chan ok ns => Sys2Proof.Machine.execRetrainComplete chan ok ns s
  | .marginReqWrite n v => Sys2Proof.Machine.execMarginReqWrite n v s
  | .marginSegmentComplete chan seg => Sys2Proof.Machine.execMarginSegmentComplete chan seg s
  | .darnReqWrite v => Sys2Proof.Machine.execDarnReqWrite v s
  | .darnMigrationComplete => Sys2Proof.Machine.execDarnMigrationComplete s
  | .meshFlitResend link => Sys2Proof.Machine.execMeshFlitResend link s
  | .portTrainingStart p => Sys2Proof.Machine.execPortTrainingStart p s
  | .portTrainingComplete p r => Sys2Proof.Machine.execPortTrainingComplete p r s
  | .laneLockLoss p => Sys2Proof.Machine.execLaneLockLoss p s
  | .frameReceive p f => Sys2Proof.Machine.execFrameReceive p f s
  | .retryRequest p fseq => Sys2Proof.Machine.execRetryRequest p fseq s
  | .rekeyDue p => Sys2Proof.Machine.execRekeyDue p s
  | .linkCredential p cred sig => Sys2Proof.Machine.execLinkCredential p cred sig s
  | .keyCiphertext p ct => Sys2Proof.Machine.execKeyCiphertext p ct s
  | .entropyHealthFail => Sys2Proof.Machine.execEntropyHealthFail s
  | .packetForward inp vc => Sys2Proof.Machine.execPacketForward inp vc s
  | .portEnableWrite p v => Sys2Proof.Machine.execPortEnableWrite p v s
  | .routeWrite b d v => Sys2Proof.Machine.execRouteWrite b d v s
  | .nswEpochWrite v => Sys2Proof.Machine.execNswEpochWrite v s
  | .nswRetireWrite v => Sys2Proof.Machine.execNswRetireWrite v s
  | .surveyInterval => Sys2Proof.Machine.execSurveyInterval s
  | .rmeInject q => Sys2Proof.Machine.execRmeInject q s
  | .loadReq => Sys2Proof.Machine.execLoadReq s
  | .loadData => Sys2Proof.Machine.execLoadData s
  | .store => Sys2Proof.Machine.execStore s
  | .fanset => Sys2Proof.Machine.execFanset s
  | .mdata => Sys2Proof.Machine.execMdata s
  | .atomic => Sys2Proof.Machine.execAtomic s
  | .atomicRetry => Sys2Proof.Machine.execAtomicRetry s
  | .atomicReply => Sys2Proof.Machine.execAtomicReply s
  | .reduce => Sys2Proof.Machine.execReduce s
  | .reduceRetry => Sys2Proof.Machine.execReduceRetry s
  | .ack => Sys2Proof.Machine.execAck s
  | .drop => Sys2Proof.Machine.execDrop s
  | .rmeReplyTimeout txn off => Sys2Proof.Machine.execRmeReplyTimeout txn off s
  | .busyResend txn off => Sys2Proof.Machine.execBusyResend txn off s
  | .mstoreTimeout seq => Sys2Proof.Machine.execMstoreTimeout seq s
  | .rmeCtrlWrite v => Sys2Proof.Machine.execRmeCtrlWrite v s
  | .collectiveEnter seq => Sys2Proof.Machine.execCollectiveEnter seq s
  | .contrib => Sys2Proof.Machine.execContrib s
  | .result => Sys2Proof.Machine.execResult s
  | .tackUp => Sys2Proof.Machine.execTackUp s
  | .tackDown => Sys2Proof.Machine.execTackDown s
  | .ring => Sys2Proof.Machine.execRing s
  | .abort => Sys2Proof.Machine.execAbort s
  | .done => Sys2Proof.Machine.execDone s
  | .closed => Sys2Proof.Machine.execClosed s
  | .xcount => Sys2Proof.Machine.execXcount s
  | .collectiveTimeout g => Sys2Proof.Machine.execCollectiveTimeout g s
  | .closingTimeout g => Sys2Proof.Machine.execClosingTimeout g s
  | .xcountTimeout seq => Sys2Proof.Machine.execXcountTimeout seq s
  | .colGroupWrite g w v => Sys2Proof.Machine.execColGroupWrite g w v s
  | .coreFaultDetect core cause => Sys2Proof.Machine.execCoreFaultDetect core cause s
  | .patchComplete core => Sys2Proof.Machine.execPatchComplete core s
  | .patchGo v => Sys2Proof.Machine.execPatchGo v s
  | .patchWaitTimeout core => Sys2Proof.Machine.execPatchWaitTimeout core s
  | .engineFaultDetect f => Sys2Proof.Machine.execEngineFaultDetect f s
  | .islandLost domain => Sys2Proof.Machine.execIslandLost domain s
  | .stewardWatchdog core => Sys2Proof.Machine.execStewardWatchdog core s
  | .trigGo full => Sys2Proof.Machine.execTrigGo full s
  | .trigComplete => Sys2Proof.Machine.execTrigComplete s
  | .trigSigned => Sys2Proof.Machine.execTrigSigned s
  | .digestReqGo region => Sys2Proof.Machine.execDigestReqGo region s
  | .regionDigestComplete => Sys2Proof.Machine.execRegionDigestComplete s
  | .rruHalt => Sys2Proof.Machine.execRruHalt s
  | .rruResume => Sys2Proof.Machine.execRruResume s
  | .logTailWrite v => Sys2Proof.Machine.execLogTailWrite v s
  | .pwrQuenchWrite => Sys2Proof.Machine.execPwrQuenchWrite s
  | .quenchTasksStopped => Sys2Proof.Machine.execQuenchTasksStopped s
  | .quenchComplete => Sys2Proof.Machine.execQuenchComplete s
  | .inputPowerSample watts => Sys2Proof.Machine.execInputPowerSample watts s
  | .thermalSample junction dies => Sys2Proof.Machine.execThermalSample junction dies s
  | .voltageTrim domain up => Sys2Proof.Machine.execVoltageTrim domain up s
  | .svnCommit => Sys2Proof.Machine.execSvnCommit s
  | .svnCommitComplete => Sys2Proof.Machine.execSvnCommitComplete s
  | .recoveryGo v => Sys2Proof.Machine.execRecoveryGo v s
  | .recoveryCheckComplete => Sys2Proof.Machine.execRecoveryCheckComplete s
  | .flashUpdateGo v => Sys2Proof.Machine.execFlashUpdateGo v s
  | .flashUpdateComplete ok => Sys2Proof.Machine.execFlashUpdateComplete ok s
  | .attestGo => Sys2Proof.Machine.execAttestGo s
  | .attestComplete => Sys2Proof.Machine.execAttestComplete s
  | .odlFlitReceive f => Sys2Proof.Machine.execOdlFlitReceive f s
  | .odlReplayRequest from_ => Sys2Proof.Machine.execOdlReplayRequest from_ s
  | .odlLinkDown => Sys2Proof.Machine.execOdlLinkDown s
  | .odlRetrainComplete lanes => Sys2Proof.Machine.execOdlRetrainComplete lanes s
  | .companionMemoryRead addr len => Sys2Proof.Machine.execCompanionMemoryRead addr len s
  | .companionMemoryWrite addr data => Sys2Proof.Machine.execCompanionMemoryWrite addr data s
  | .irqMessage v => Sys2Proof.Machine.execIrqMessage v s
  | .irqPendingClear half mask => Sys2Proof.Machine.execIrqPendingClear half mask s
  | .heartbeat v => Sys2Proof.Machine.execHeartbeat v s
  | .heartbeatTimeout => Sys2Proof.Machine.execHeartbeatTimeout s
  | .linkDownTimeout => Sys2Proof.Machine.execLinkDownTimeout s
  | .cwBaseWrite v => Sys2Proof.Machine.execCwBaseWrite v s
  | .entdaa addr => Sys2Proof.Machine.execEntdaa addr s
  | .setdasa addr => Sys2Proof.Machine.execSetdasa addr s
  | .rstdaa => Sys2Proof.Machine.execRstdaa s
  | .getpid => Sys2Proof.Machine.execGetpid s
  | .getbcr => Sys2Proof.Machine.execGetbcr s
  | .getdcr => Sys2Proof.Machine.execGetdcr s
  | .getstatus => Sys2Proof.Machine.execGetstatus s
  | .enec events => Sys2Proof.Machine.execEnec events s
  | .disec events => Sys2Proof.Machine.execDisec events s
  | .rstact defining => Sys2Proof.Machine.execRstact defining s
  | .i3cOffsetWrite off => Sys2Proof.Machine.execI3cOffsetWrite off s
  | .i3cPrivateRead => Sys2Proof.Machine.execI3cPrivateRead s
  | .i3cDataWrite off v => Sys2Proof.Machine.execI3cDataWrite off v s
  | .clearFaults => Sys2Proof.Machine.execClearFaults s
  | .statusWord => Sys2Proof.Machine.execStatusWord s
  | .statusInput => Sys2Proof.Machine.execStatusInput s
  | .readVin => Sys2Proof.Machine.execReadVin s
  | .readIin => Sys2Proof.Machine.execReadIin s
  | .readVout => Sys2Proof.Machine.execReadVout s
  | .readIout => Sys2Proof.Machine.execReadIout s
  | .readTemperature1 => Sys2Proof.Machine.execReadTemperature1 s
  | .readPout => Sys2Proof.Machine.execReadPout s
  | .readPin => Sys2Proof.Machine.execReadPin s
  | .pmbusRevision => Sys2Proof.Machine.execPmbusRevision s
  | .mfrId => Sys2Proof.Machine.execMfrId s
  | .pmbusUnsupported code => Sys2Proof.Machine.execPmbusUnsupported code s
  | .pmbusReadingUpdate r => Sys2Proof.Machine.execPmbusReadingUpdate r s
  | .bypass => Sys2Proof.Machine.execBypass s
  | .idcode => Sys2Proof.Machine.execIdcode s
  | .samplePreload bits pins => Sys2Proof.Machine.execSamplePreload bits pins s
  | .extest => Sys2Proof.Machine.execExtest s
  | .extestPulse => Sys2Proof.Machine.execExtestPulse s
  | .extestTrain => Sys2Proof.Machine.execExtestTrain s
  | .clamp => Sys2Proof.Machine.execClamp s
  | .highz => Sys2Proof.Machine.execHighz s
  | .companionWindowAccess off data => Sys2Proof.Machine.execCompanionWindowAccess off data s
  | .entropyHealthRecover => Sys2Proof.Machine.execEntropyHealthRecover s
  | .referenceClockReturn => Sys2Proof.Machine.execReferenceClockReturn s
  | .turnEnd e => Sys2Proof.Machine.execTurnEnd e s

end Sys2Proof.Machine
end

