-- ==== Sys2Proof/Machine/Tick.lean ====
section
/-! DEFINITION. The passing of a nanosecond on an empty queue (log entry 2): GLB_TIME, the counters of
nanoseconds, and the copying of a darning (R256). -/

namespace Sys2Proof.Machine

/-- GLB_TIME counts once power-on reset has ended, while the module is powered and its reference clock runs (R8, R461,
R464). -/
def State.timeRuns (s : State) : Bool := s.vin.powered && !s.startup.porActive && s.startup.refclk

/-- The requests for a power unit that wait (R456). -/
def State.waitingStakes (s : State) : Nat := (s.power.requests.filter s.requestStands).length

/-- The parts of frames in hand leave every port that is UP (R296). -/
def State.flushPorts (s : State) : State :=
  (s.ports.filter fun x => !x.txStream.isEmpty && s.portUp x.num).foldl (fun z x => z.sendFrames x.num true) s

/-- What goes on while time runs: the counters of nanoseconds, and the work that no command starts. -/
def State.timeWork (s : State) : State :=
  let s1 := s.darnCopies.flushPorts.addReg regPwrStakeWaitNs s.waitingStakes
  let s2 := s1.addReg regPwrThrottleNs (b2n (decide (2 ≤ s.power.level)))
  s2.addReg regPwrEmergNs (b2n (s.bit regPwrStatus 8))

/-- One nanosecond passes. -/
def State.tick (s : State) : State :=
  let s1 := if s.timeRuns then s.quiet.timeWork else s.quiet
  { s1 with
    time := if s.timeRuns then s.time + 1 else s.time
    startup := { s1.startup with timer := s.startup.timer + b2n (s.vin.powered && !s.ready) } }

end Sys2Proof.Machine
end

