-- ==== Sys2Proof/Safety.lean ====
section
/-! DEFINITION. What counts as a safe run of the block: its stored lists keep their canonical form, so that equal
contents are equal data, and no step stops. -/

namespace Sys2Proof.Machine

open Sys2Proof

/-- The keys of a sparse map rise strictly. -/
abbrev Rising {α : Type} (m : List (Nat × α)) : Prop := m.Pairwise fun x y => x.1 < y.1

/-- Memory in canonical form: addresses rise strictly and no listed byte is 0. -/
abbrev Memory.wf (m : List Host.Cell) : Prop := Rising m ∧ ∀ c ∈ m, c.2 ≠ 0

/-- Stored registers in canonical form: offsets rise strictly, and no listed word is the reset value of its register. -/
abbrev RegsWf (v : Variant) (m : List (Nat × Word)) : Prop := Rising m ∧ ∀ c ∈ m, c.2 ≠ resetWord v c.1

/-- The stored lists of a state are in canonical form. -/
structure State.Canonical (s : State) : Prop where
  regs : RegsWf s.variant s.regs
  mem : Memory.wf s.mem
  poison : s.poison.Pairwise (· < ·)

/-- The fuses that are being blown raise the fused minimum SVN (R478). -/
def State.SvnOk (s : State) : Prop := ∀ v, s.sec.svnTarget = some v → s.sec.svnFuse ≤ v

/-- Every byte of device memory reads as before. -/
def State.SameBytes (s t : State) : Prop := ∀ a, t.rd a = s.rd a

/-- Outside the offsets listed, every register reads as before; every byte of device memory does; and nothing but
registers and outputs has changed: stored bytes, poison marks, tasks, engines, links and queue stand as they were. -/
def State.OnlyRegs (s t : State) (offs : List Nat) : Prop :=
  (∀ o, o ∉ offs → t.reg o = s.reg o) ∧ s.SameBytes t ∧ { t with regs := s.regs, out := s.out } = s

/-- Every byte of device memory outside the Cadastre table, which shows the records that the Cadastre holds, reads as
before. -/
def State.SameOutsideTable (s t : State) : Prop :=
  ∀ a, ¬ (t.reg0 regCadTableBase ≠ 0 ∧ t.reg0 regCadTableBase ≤ a ∧ a < t.reg0 regCadTableBase + tableBytes t.variant) →
    t.rd a = s.rd a

/-- As `State.OnlyRegs`, where the registers listed may change what the Cadastre table shows. -/
def State.OnlyRegsBesideTable (s t : State) (offs : List Nat) : Prop :=
  (∀ o, o ∉ offs → t.reg o = s.reg o) ∧ s.SameOutsideTable t ∧ { t with regs := s.regs, out := s.out } = s

/-- An answer that stops the block. -/
def Stops (r : Result) : Bool :=
  match r with
  | .next _ => false
  | _ => true

end Sys2Proof.Machine
end

