-- ==== Sys2Proof/Certificates/Slice0/Obligations.lean ====
section
/-! DEFINITION. The statements about the model that are to be proved, one definition for each. -/

open Sys2Proof Sys2Proof.Machine

/-- With a command at the front of the queue, a step performs that command on the state with the rest of the queue.
The queue is the model's (log entry 1). (17 Module interface, Log entry 1) -/
def Obligations.StepRunsFront : Prop :=
  ∀ (c : Instr) (rest : List Instr) (s : State), s.pending = c :: rest → step s = exec c { s with pending := rest }

/-- With an empty queue a step adds 1 ns to GLB_TIME while time runs, adds the number of waiting stake requests to
PWR_STAKE_WAIT_NS, and leaves every register but the three counters of nanoseconds as it was; while time does not run,
GLB_TIME stands. That an empty queue lets a nanosecond pass is the model's choice (log entry 2). (R8, R456, R461, Log
entry 2) -/
def Obligations.IdleStepIsNanosecond : Prop :=
  ∀ (s : State), s.Canonical → s.pending = [] → ∃ t, step s = .next t ∧ t.mem = s.mem ∧ t.tasks = s.tasks ∧
    (∀ o, o ≠ regPwrStakeWaitNs → o ≠ regPwrThrottleNs → o ≠ regPwrEmergNs → t.reg o = s.reg o) ∧
    (s.timeRuns = true → t.time = s.time + 1 ∧
      t.reg regPwrStakeWaitNs = (s.reg regPwrStakeWaitNs + s.waitingStakes) % 2 ^ 64) ∧
    (s.timeRuns = false → t.time = s.time)

/-- Every command answers a next state in every state: an event whose conditions do not hold changes nothing (log
entry 1), and an access that the spec forbids has an effect of its own. (R9, R227, Log entry 1) -/
def Obligations.NoCommandStops : Prop :=
  ∀ (c : Instr) (s : State), Stops (exec c s) = false

/-- After power-on reset the stored registers, memory and poison marks are in canonical form, and no fuse is being
blown. (R462, R464, R478, Log entry 7) -/
def Obligations.ResetIsCanonical : Prop :=
  State.reset.Canonical ∧ State.reset.SvnOk

/-- After power-on reset HEADROOM is 2 with no channel darned, DSO_CTRL holds DIR_NUM 16 and IRON 1, PWR_POOL is 176,
every event counter is 0, READY is 0, no task waits, and SMS_ALLOC_LIMIT lies two channels below the capacity. (R89,
R149, R254, R451, R466) -/
def Obligations.ResetValues : Prop :=
  State.reset.fld regSmsDarn 3 0 = 2 ∧ State.reset.fld regSmsDarn 19 16 = 0 ∧ State.reset.fld regDsoCtrl 31 16 = 16 ∧
    State.reset.bit regDsoCtrl 0 = true ∧ State.reset.fld regPwrPool 8 0 = 176 ∧
    (∀ e ∈ [0, 1, 1023, 2047], State.reset.reg (regCmdEvent e) = 0) ∧ State.reset.ready = false ∧
    State.reset.tasks = [] ∧ State.reset.allocLimit = 768000000000 - 65536 * 61036

/-- From every state whose stored registers, memory and poison marks are in canonical form, a step of any kind,
whatever command stands at the front of the queue or none, answers only states that are: equal contents stay equal
data. (R218, R423, Log entry 7) -/
def Obligations.StepKeepsCanonical : Prop :=
  ∀ (s t : State), s.Canonical → step s = .next t → t.Canonical

/-- Whatever command is performed, the commands that wait and the variant of the device stay as they were, and
GLB_TIME is what it was or 0: it is counted from the reference clock and cleared only with a loss of power. (00 Scope,
R8, R461, R464, Log entry 1) -/
def Obligations.CommandKeepsQueueVariantAndTime : Prop :=
  ∀ (c : Instr) (s t : State), exec c s = .next t →
    t.pending = s.pending ∧ t.variant = s.variant ∧ (t.time = s.time ∨ t.time = 0)

/-- The blowing of fuses cannot be undone: from every state in which the fuses being blown raise the minimum, no step
lowers the fused minimum, be it a command, a reset, a loss of power in the middle of the blowing, or the passing of
time, and the condition holds again after it. (R472, R478) -/
def Obligations.FusedMinimumNeverFalls : Prop :=
  ∀ (s t : State), s.SvnOk → step s = .next t → t.SvnOk ∧ s.sec.svnFuse ≤ t.sec.svnFuse

/-- Before READY is set, a 32-bit read at an aligned offset outside the Global, ODL and SEC windows answers 0 and
changes nothing, and a write there of any width is discarded with nothing changed, WH_VIOLATION included. (R468) -/
def Obligations.UnreadyRegistersDoNotAnswer : Prop :=
  ∀ (s : State) (off : Nat), s.reachableRegs = true → s.ready = false →
    ¬ (off < 0x1000 ∨ (0xD00000 ≤ off ∧ off < 0xD01000) ∨ (0x1000000 ≤ off ∧ off < 0x1100000)) →
    (off % 4 = 0 → exec (.registerReadLowHalf off) s = .next (s.quiet.emit (.readData 0))) ∧
    ∀ (width : Nat) (v : Word) (src : Src), (src = .companion → s.linkUp = true) →
      exec (.registerWrite off width v src) s = .next s.quiet

/-- A 32-bit read of a window that belongs to an absent cluster, stack, port or Pruning Unit answers 0 and changes
nothing, and every write there is discarded with nothing changed and no error reported. (R2) -/
def Obligations.AbsentUnitsDoNotAnswer : Prop :=
  ∀ (s : State) (off : Nat), s.reachableRegs = true → absentOff s.variant off = true →
    (off % 4 = 0 → exec (.registerReadLowHalf off) s = .next (s.quiet.emit (.readData 0))) ∧
    ∀ (width : Nat) (v : Word) (src : Src), (src = .companion → s.linkUp = true) →
      exec (.registerWrite off width v src) s = .next s.quiet

/-- A write of its own width to a register without an action of its own sets RW bits, sets WH bits while the owning
function is halted, clears W1C bits written 1, and keeps every other bit; limits that a register sets on a written
value are applied first. A write to WH fields of a function that is not halted sets WH_VIOLATION of that function. No
other register changes, and memory and tasks stay. (R9, R10, R12) -/
def Obligations.RegisterWriteByAccessCodes : Prop :=
  ∀ (s : State) (off width : Nat) (v : Word) (src : Src) (r : RegRow), s.Canonical → s.reachableRegs = true →
    (src = .companion → s.linkUp = true) → s.quiet.answering off = some r → r.width = width →
    s.quiet.writeActing off (v.toNat % 2 ^ width) = none →
    ∃ t, exec (.registerWrite off width v src) s = .next t ∧
      (∀ i, i < 64 → (t.reg off).testBit i =
        (if r.w1c.testBit i && (limitWrite off (v.toNat % 2 ^ width)).testBit i then false
         else if r.rw.testBit i || (decide (r.owner < 16) && s.halted r.owner && r.wh.testBit i) then
           (limitWrite off (v.toNat % 2 ^ width)).testBit i
         else (s.reg off).testBit i)) ∧
      (r.wh ≠ 0 → r.owner < 16 → r.owner ≠ 6 → s.halted r.owner = false → t.bit (statusReg r.owner) 2 = true) ∧
      (∀ o, o ≠ off → o ≠ statusReg r.owner → t.reg o = s.reg o) ∧ t.mem = s.mem ∧ t.tasks = s.tasks

/-- A 32-bit read of the low half of a 64-bit register answers its low 32 bits; the next read of the high half answers
the high 32 bits of that same moment, whatever the register holds by then. (R14) -/
def Obligations.LowHalfReadLatchesHighHalf : Prop :=
  ∀ (s : State) (off : Nat) (r : RegRow), s.reachableRegs = true → off % 8 = 0 →
    s.quiet.answering off = some r → r.width = 64 →
    ∃ t, exec (.registerReadLowHalf off) s = .next t ∧
      t.out = [.readData (BitVec.ofNat 64 (s.quiet.readWord r off % 2 ^ 32))] ∧ t.regs = s.regs ∧
      ∀ (u : State), u.reachableRegs = true → u.latch = t.latch → u.quiet.answering off = some r →
        u.quiet.answering (off + 4) = none →
        ∃ w, exec (.registerReadLowHalf (off + 4)) u = .next w ∧
          w.out = [.readData (BitVec.ofNat 64 (s.quiet.readWord r off / 2 ^ 32))] ∧ w.regs = u.regs

/-- While the owning function is not halted, each command that writes a WH register leaves every register as it was,
memory and all other state too, and sets WH_VIOLATION in the STATUS register of the owning block, whose other bits
stay: the writes of SCH_LC, SCH_CTRL, region entries, CAD_TABLE_BASE, NST_CTRL, SMS_NEAR_UNITS, SMS_DARN, NSW_EPOCH,
FPT_PORT_CTRL, RME_CTRL and COL_GROUP, and a REGISTER_WRITE of a register whose fields are WH fields of such a
function alone. A write of NSW_EPOCH sets ROUTE_REJECT beside it (R330). (R10) -/
def Obligations.WhWritesOutsideHalt : Prop :=
  ∀ (s : State), s.Canonical → s.ready = true →
    let refused (c : Instr) (f : Nat) : Prop :=
      s.halted f = false → ∃ t, exec c s = .next t ∧ s.OnlyRegs t [statusReg f] ∧ t.bit (statusReg f) 2 = true ∧
        ∀ i, i < 64 → i ≠ 2 → t.bit (statusReg f) i = s.bit (statusReg f) i
    (∀ (n : Nat) (v : Word), n < 64 → refused (.schLcWrite n v) 1) ∧ (∀ (v : Word), refused (.schCtrlWrite v) 1) ∧
    (∀ (i : Nat) (v : Word), i < 256 → bitOf v.toNat 63 = true → refused (.regionValidSet i v) 8) ∧
    (∀ (i : Nat), i < 256 → refused (.regionValidClear i) 8) ∧ (∀ (v : Word), refused (.cadTableBaseWrite v) 8) ∧
    (∀ (v : Word), refused (.progMibWrite v) 8) ∧ (∀ (v : Word), refused (.nearUnitsWrite v) 9) ∧
    (∀ (v : Word), refused (.headroomWrite v) 9) ∧
    (∀ (v : Word), s.halted 10 = false → ∃ t, exec (.nswEpochWrite v) s = .next t ∧ s.OnlyRegs t [regNswStatus] ∧
      t.bit regNswStatus 2 = true ∧ t.bit regNswStatus 10 = true ∧
      ∀ i, i < 64 → i ≠ 2 → i ≠ 10 → t.bit regNswStatus i = s.bit regNswStatus i) ∧
    (∀ (p : Nat) (v : Word), portPresent s.variant p = true → refused (.portEnableWrite p v) 11) ∧
    (∀ (v : Word), refused (.rmeCtrlWrite v) 12) ∧
    (∀ (g w : Nat) (v : Word), 1 ≤ g → g < 4096 → w < 4 → refused (.colGroupWrite g w v) 13) ∧
    ∀ (off : Nat) (v : Word) (r : RegRow), s.reachableRegs = true → s.linkUp = true → s.quiet.answering off = some r →
      r.wh ≠ 0 → r.rw = 0 → r.w1c = 0 → r.owner < 16 → r.owner ≠ 6 →
      s.quiet.writeActing off (v.toNat % 2 ^ r.width) = none → refused (.registerWrite off r.width v .companion) r.owner

/-- A doorbell whose epoch differs from CMD_OWNER_EPOCH sets STALE_DOORBELL; one whose TAIL lies before HEAD, or more
than 2^RING_LOG2 past it, sets BAD_DOORBELL; each also raises interrupt vector 73, and neither changes anything else
of the stream or of the device. Any other doorbell is taken: CMD_STRM_TAIL holds the value written, and nothing else
changes. (R74) -/
def Obligations.DoorbellMovesTailOrIsRefused : Prop :=
  ∀ (s : State) (n : Nat) (v : Word), s.Canonical → s.ready = true → n < 64 →
    let past := (v.toNat % 2 ^ 32 + 2 ^ 32 - s.fld (regCmdStrmHead n) 31 0) % 2 ^ 32
    let flags (i : Nat) : Prop := ∃ t, exec (.doorbell n v) s = .next t ∧ t.bit (regCmdStrmStatus n) i = true ∧
      t.bit (regOdlIrqPending 1) 9 = true ∧ s.OnlyRegs t [regCmdStrmStatus n, regOdlIrqPending 1] ∧
      ∀ k, k < 64 → k ≠ i → t.bit (regCmdStrmStatus n) k = s.bit (regCmdStrmStatus n) k
    (v.toNat / 2 ^ 32 ≠ s.fld regCmdOwnerEpoch 31 0 → flags 3) ∧
    (v.toNat / 2 ^ 32 = s.fld regCmdOwnerEpoch 31 0 → 2 ^ s.fld (regCmdStrmCtrl n) 12 8 < past → flags 2) ∧
    (v.toNat / 2 ^ 32 = s.fld regCmdOwnerEpoch 31 0 → past ≤ 2 ^ s.fld (regCmdStrmCtrl n) 12 8 →
      ∃ t, exec (.doorbell n v) s = .next t ∧ t.reg (regCmdStrmTail n) = v.toNat ∧ s.OnlyRegs t [regCmdStrmTail n])

/-- With acceptance open and a slot of stream n next, ACCEPT_TASK refuses the fetched task with the first failing
check, or, when it passes all and the input-and-seed log has no room for it, sets LOG_FULL and raises vector 67, or
else accepts it. A slot that finds no log space, or 4,096 tasks incomplete, is deferred as it was read, and the next
attempt takes what was read then. ACCEPT_TASK does nothing when acceptance is closed or no slot waits. (R73, R75, R83,
R84, R85, R439) -/
def Obligations.AcceptTaskOutcomes : Prop :=
  ∀ (s : State) (n : Nat), s.Canonical →
    (s.acceptOpen = false → exec .acceptTask s = .next s.quiet) ∧
    (s.acceptOpen = true → s.nextStream = none → exec .acceptTask s = .next s.quiet) ∧
    (s.acceptOpen = true → s.nextStream = some n →
      ∀ (t : Task) (bad : Bool) (s1 : State), s.quiet.nextTask n = (t, bad, s1) →
      let s2 := { s1 with sched := { s1.sched with rr := n } }
      { s1 with free := s.free, deferred := s.deferred } = s.quiet ∧
      (∀ d, (s.deferred.find? fun d => d.stream == n) = some d → t = s.retake d ∧ bad = false ∧ s1.free = s.free) ∧
      ((∀ d ∈ s.deferred, d.stream ≠ n) → s.quiet.fetchTask n = (t, bad, s1)) ∧
      (s2.check t bad ≠ 0 → exec .acceptTask s = .next (s2.refuse t (s2.check t bad))) ∧
      (s2.check t bad = 0 → 4096 ≤ s.tasks.length → exec .acceptTask s = .next (s1.defer t)) ∧
      (s2.check t bad = 0 → s.tasks.length < 4096 → s2.logFree < logReserve (s2.logEntrySize t) →
        ∃ u, exec .acceptTask s = .next u ∧ u.bit regRruStatus 7 = true ∧ u.bit (regOdlIrqPending 1) 3 = true ∧
          (s1.defer t).OnlyRegs u [regRruStatus, regOdlIrqPending 1]) ∧
      (s2.check t bad = 0 → s.tasks.length < 4096 → logReserve (s2.logEntrySize t) ≤ s2.logFree →
        exec .acceptTask s = .next (s2.accept t)))

/-- Writing an entry makes CMD_JOURNAL_CHAIN the first 128 bits of SHAKE256 over the chain before it followed by bytes
0 to 47 of the entry, and raises CMD_JOURNAL_HEAD by one. (R95, R98) -/
def Obligations.EntryExtendsChain : Prop :=
  ∀ (s : State) (head tail : List Byte), s.Canonical → s.reg regCmdJournalHead + 1 < 2 ^ 64 →
    (s.writeEntry head tail).chain = leNat (shake256 16 (leBytes 16 s.chain ++ head)) ∧
    (s.writeEntry head tail).reg regCmdJournalHead = s.reg regCmdJournalHead + 1

/-- JSIG_TAIL_WRITE sets CMD_JSIG_TAIL to the value written or CMD_JSIG_HEAD, the lesser; LOG_TAIL_WRITE sets
RRU_LOG_TAIL to the value written or RRU_LOG_HEAD, the lesser, and clears LOG_FULL when the tail advances; with no
action waiting, JOURNAL_TAIL_WRITE sets CMD_JOURNAL_TAIL to the value written or CMD_JOURNAL_CLOSED, the lesser, and
JOURNAL_FULL then says whether fewer than 4,160 entries are free; actions that wait for their event entry are
performed as their entries fit. (R101, R103, R104, R105, R439) -/
def Obligations.TailWritesAreBounded : Prop :=
  ∀ (s : State) (v : Word), s.Canonical → s.ready = true →
    (∃ t, exec (.jsigTailWrite v) s = .next t ∧ t.reg regCmdJsigTail = min v.toNat (s.reg regCmdJsigHead) ∧
      t.sec = { s.sec with signer := t.sec.signer } ∧ s.OnlyRegs { t with sec := s.sec } [regCmdJsigTail]) ∧
    (∃ t, exec (.logTailWrite v) s = .next t ∧ t.reg regRruLogTail = min v.toNat (s.reg regRruLogHead) ∧
      (s.reg regRruLogTail < min v.toNat (s.reg regRruLogHead) → t.bit regRruStatus 7 = false) ∧
      s.OnlyRegs t [regRruLogTail, regRruStatus]) ∧
    exec (.journalTailWrite v) s = .next (s.quiet.writeJournalTail v.toNat) ∧
    (s.journal.waiting = [] → ∃ t, exec (.journalTailWrite v) s = .next t ∧
      t.reg regCmdJournalTail = min v.toNat (s.reg regCmdJournalClosed) ∧
      t.bit regCmdStatus 3 = decide (s.journalSize - (s.reg regCmdJournalHead - min v.toNat (s.reg regCmdJournalClosed)) < 4160) ∧
      t.tasks = s.tasks ∧ t.mem = s.mem)

/-- Once the open segment is one second old, SEGMENT_TIME_LIMIT closes it with cause 2: CMD_JOURNAL_CLOSED becomes
CMD_JOURNAL_HEAD, CMD_JSIG_HEAD rises by one, the segment queues for its signature with its first and last SEQ and the
chain, and no entry is open. SEGMENT_SIGNED, when it is the turn of a segment, stores the record and signature of the
oldest queued segment in slot index mod CMD_JSIG_COUNT, when that slot is free, and takes it off the queue. (R100,
R101, R482) -/
def Obligations.SegmentsCloseAndAreSigned : Prop :=
  ∀ (s : State), s.Canonical → s.bit regRruStatus 8 = false →
    (s.journal.count ≠ 0 → s.journal.firstTime + 1000000000 ≤ s.time → s.reg regCmdJournalHead ≠ 0 →
      s.reg regCmdJsigHead + 1 < 2 ^ 64 →
      ∃ (t : State) (g : Segment), exec .segmentTimeLimit s = .next t ∧ t.journal.count = 0 ∧
        t.journal.signing = s.journal.signing ++ [g] ∧ g.index = s.reg regCmdJsigHead ∧ g.firstSeq = s.journal.firstSeq ∧
        g.lastSeq + 1 = s.reg regCmdJournalHead ∧ g.lastChain = BitVec.ofNat 128 s.chain ∧ g.time = s.time ∧ g.cause = 2 ∧
        t.reg regCmdJournalClosed = s.reg regCmdJournalHead ∧ t.reg regCmdJsigHead = s.reg regCmdJsigHead + 1 ∧
        t.reg regCmdJournalHead = s.reg regCmdJournalHead ∧ t.mem = s.mem ∧ t.tasks = s.tasks) ∧
    (∀ (g : Segment) (rest : List Segment), s.journal.signing = g :: rest →
      s.jsigFree = true → s.sec.signer = none ∨ s.sec.signer = some .segment → s.quenchOver = false →
      ∃ (t s1 : State) (sig : List Byte), exec .segmentSigned s = .next t ∧ t.journal.signing = rest ∧
        s.quiet.identitySign ctxJseg (s.segmentRecord g) = (sig, s1) ∧
        t.mem = (s1.putBytes (s.reg regCmdJsigBase + 57344 * (g.index % s.reg regCmdJsigCount))
          (padTo 57344 (s.segmentRecord g ++ sig))).mem)

/-- CMD_HALT and RRU_HALT set HALTING of the Command Engine and of the RRU, change nothing else, and do nothing when
the function is halting or halted. FUNCTION_HALT_COMPLETE of a halting function whose work is done, with no task and
no resume waiting for it, clears HALTING and sets HALTED; the switch notes the epoch with which it goes on injecting.
(R106, R277, R321, R443) -/
def Obligations.HaltsAreRequestedAndCompleted : Prop :=
  ∀ (s : State), s.Canonical →
    (∀ (c : Instr) (f : Nat), (c = .cmdHalt ∧ f = 0) ∨ (c = .rruHalt ∧ f = 15) → s.ready = true →
      ((s.halted f || s.halting f) = true → exec c s = .next s.quiet) ∧
      ((s.halted f || s.halting f) = false → ∃ t, exec c s = .next t ∧ t.halting f = true ∧ t.halted f = false ∧
        s.OnlyRegs t [statusReg f])) ∧
    ∀ (f : Nat), f < 16 → s.halting f = true → s.haltDone f = true → s.waitingOn opHalt f = [] →
      s.waitingOn opResume f = [] → s.resumeWaits f = false →
      ∃ t, exec (.functionHaltComplete f) s = .next t ∧ t.halting f = false ∧ t.halted f = true ∧
        (∀ o, o ≠ statusReg f → t.reg o = s.reg o) ∧ t.tasks = s.tasks ∧ t.mem = s.mem ∧
        t.haltEpoch = if f = 10 then some s.epoch else s.haltEpoch

/-- CMD_RESUME and RRU_RESUME do nothing for a function that is neither halted nor halting, and while it halts RESUME
reads 1 until it is taken. For a halted function the resume goes behind the actions that wait for their event entry;
the first resume of the Command Engine after a reset writes the OPEN entry and then the RESUME entry. (R99, R104,
R105, R107, R109, R443) -/
def Obligations.ResumesThroughControlRegisters : Prop :=
  ∀ (s : State) (c : Instr) (f r : Nat), s.Canonical → s.ready = true →
    (c = .cmdResume ∧ f = 0 ∧ r = regCmdControl) ∨ (c = .rruResume ∧ f = 15 ∧ r = regRruControl) →
    (s.halted f = false → s.halting f = false → exec c s = .next s.quiet) ∧
    (s.halted f = false → s.halting f = true →
      ∃ t, exec c s = .next t ∧ t.bit r 1 = true ∧ s.OnlyRegs t [r]) ∧
    (s.halted f = true → (f = 0 → s.journal.opened = true) → s.bit r 1 = false →
      exec c s = .next ((s.quiet.setBit r 1 true).arise (.resume f none))) ∧
    (s.halted f = true → f = 0 → s.journal.opened = false →
      exec c s = .next (((({ s.quiet with journal := { s.journal with opened := true } }).openEntry).resumeNow 0 true).serveWaiting))

/-- OWNER_EPOCH_WRITE and STREAM_FAULT_CLEAR put their action behind those that wait for an event entry. Performed,
the epoch action sets CMD_OWNER_EPOCH, sets TAIL of every stream back to its HEAD under the new epoch, and writes the
EPOCH entry; the fault action writes STREAM_RESUMED over the stream's status and clears FAULT. While the journal has
not been opened the action waits and no register changes. (R85, R99, R104, R110, R543) -/
def Obligations.EventEntriesOfEpochAndStream : Prop :=
  ∀ (s : State) (v : BitVec 32) (n : Nat), s.Canonical → s.ready = true → n < 64 →
    exec (.ownerEpochWrite v) s = .next (s.quiet.arise (.epoch v)) ∧
    (s.bit (regCmdStrmStatus n) 1 = true → exec (.streamFaultClear n) s = .next (s.quiet.arise (.faultClear n))) ∧
    (∃ x : State, x.reg regCmdOwnerEpoch = v.toNat ∧
      (∀ k, k < 64 → x.reg (regCmdStrmTail k) = (s.reg (regCmdStrmHead k) + v.toNat * 2 ^ 32) % 2 ^ 64) ∧
      (∀ k, k < 64 → x.reg (regCmdStrmHead k) = s.reg (regCmdStrmHead k)) ∧ x.mem = s.mem ∧
      s.act (.epoch v) = x.epochEntry v.toNat) ∧
    (s.bit (regCmdStrmStatus n) 1 = true → (s.act (.faultClear n)).bit (regCmdStrmStatus n) 1 = false) ∧
    (s.journal.opened = false → s.journal.waiting = [] →
      ∃ t, exec (.ownerEpochWrite v) s = .next t ∧ t.journal.waiting = [.epoch v] ∧ s.OnlyRegs { t with journal := s.journal } [])

/-- EVENT_ADD raises the event counter named in bits [42:32] by the amount in bits [31:0], up to the largest 64-bit
value, and changes nothing else. That the counter saturates there follows SIGNAL. (R89, R105, R275) -/
def Obligations.EventAddRaisesCounter : Prop :=
  ∀ (s : State) (v : Word), s.Canonical → s.ready = true →
    ∃ t, exec (.eventAdd v) s = .next t ∧
      t.reg (regCmdEvent (getBits v.toNat 42 32)) =
        min (2 ^ 64 - 1) (s.reg (regCmdEvent (getBits v.toNat 42 32)) + getBits v.toNat 31 0) ∧
      s.OnlyRegs t [regCmdEvent (getBits v.toNat 42 32)]

/-- When the ordering conditions of a control instruction hold, SIGNAL raises its counter and completes; WAIT, once
its counter has reached the threshold, completes at issue, and ends with WAIT_TIMEOUT when TIMEOUT_US has passed since
it became eligible; FENCE completes as soon as nothing that it waits for is open; HALT requests the halt of its
function and completes when HALTED is set; RESUME completes with NOT_HALTED when its function is neither halted nor
halting, and otherwise goes behind the waiting actions once it is halted. (R272, R273, R275, R277) -/
def Obligations.ControlInstructionsComplete : Prop :=
  ∀ (s : State) (t : Task) (q : Nat), s.task? q = some t → t.form = 0 →
    let due (op : Nat) : Prop := t.opcode = op ∧ s.quiet.issueOk t = true ∧ (t.lc = true → s.admits t = true)
    let u := (s.quiet.issue t).1
    (due opSignal → exec (.signal q) s = .next ((u.eventAdd (t.imm 10 0) (t.imm 47 16)).completeNow q 0)) ∧
    (due opWait → t.x 1 63 0 ≤ s.reg (regCmdEvent (t.imm 10 0)) → exec (.wait q) s = .next (u.completeNow q 0)) ∧
    (t.opcode = opWait → t.phase = .waiting → t.imm 47 20 ≠ 0 → s.stopped = false →
      (∃ e, t.eligible = some e ∧ e + 1000 * t.imm 47 20 ≤ s.time) → s.reg (regCmdEvent (t.imm 10 0)) < t.x 1 63 0 →
      exec (.waitTimeout q) s = .next (s.quiet.completeNow q errWaitTimeout)) ∧
    (t.opcode = opFence → t.phase = .running → s.stopped = false → s.fenceOpen t = false →
      exec (.fence q) s = .next (s.quiet.tryFence t)) ∧
    (due opFence → exec (.fence q) s = .next (u.tryFence (s.quiet.issue t).2)) ∧
    (due opHalt → exec (.halt q) s = .next
      (if (u.requestHalt (t.imm 4 0)).halted (t.imm 4 0) then (u.requestHalt (t.imm 4 0)).completeNow q 0
       else u.requestHalt (t.imm 4 0))) ∧
    (due opResume → exec (.resume q) s = .next
      (if u.halted (t.imm 4 0) then u.arise (.resume (t.imm 4 0) (some q))
       else if u.halting (t.imm 4 0) then u else u.completeNow q errNotHalted))

/-- TASK_COMPLETE of a task whose engines have finished writes its completion and what follows from it. A task whose
completion is written is on the list no more, and CMD_STRM_RETIRE of its stream is then the ring counter of the
stream's oldest incomplete task, or HEAD when none is left. (R92, R96) -/
def Obligations.TaskCompletesAndLeaves : Prop :=
  ∀ (s : State) (t : Task) (q : Nat),
    (s.stopped = false → s.task? q = some t → isRemote t.opcode = false → t.over_ = true →
      exec (.taskComplete q) s = .next ((s.quiet.finish t).takeUpReplies.memberDone q)) ∧
    (s.Canonical → t.stream < 64 →
      (∀ x ∈ (s.finishOne t).tasks, x.seq ≠ t.seq) ∧
      (s.finishOne t).reg (regCmdStrmRetire t.stream) =
        match (s.finishOne t).tasks.find? fun x => x.stream == t.stream with
        | some x => x.ring % 2 ^ 64
        | none => (s.finishOne t).reg (regCmdStrmHead t.stream))

/-- While the Scheduler is halted, a write of SCH_LC(n) that passes the admission test stores the value, and one that
breaks it sets ADMIT_REJECT and stores nothing; a write of SCH_CTRL that changes BLOCK_MAX_US or LC_UTIL passes the
same test over the settings of every stream. At a multiple of its period a stream starts with BUDGET_US x 1,000 ns
less the debt that SCH_LC_REMAIN carries, and a task that the new budget admits starts its pre-emptions. (R399, R400,
R403, R419) -/
def Obligations.LatencyCriticalSettingsAndPeriods : Prop :=
  ∀ (s : State) (n : Nat) (v : Word), s.Canonical → n < 64 →
    (s.ready = true → s.halted 1 = true →
      (admitOk ((List.range 64).map fun i => if i = n then v.toNat else s.reg (regSchLc i))
          (s.fld regSchCtrl 47 32) (s.fld regSchCtrl 31 22) = true →
        ∃ t, exec (.schLcWrite n v) s = .next t ∧ t.reg (regSchLc n) = v.toNat ∧ s.OnlyRegs t [regSchLc n]) ∧
      (admitOk ((List.range 64).map fun i => if i = n then v.toNat else s.reg (regSchLc i))
          (s.fld regSchCtrl 47 32) (s.fld regSchCtrl 31 22) = false →
        ∃ t, exec (.schLcWrite n v) s = .next t ∧ t.bit regSchStatus 4 = true ∧ s.OnlyRegs t [regSchStatus]) ∧
      (admitOk ((List.range 64).map fun i => s.reg (regSchLc i)) (getBits v.toNat 47 32) (getBits v.toNat 31 22) = true ∨
          (getBits v.toNat 47 32 = s.fld regSchCtrl 47 32 ∧ getBits v.toNat 31 22 = s.fld regSchCtrl 31 22) →
        ∃ t, exec (.schCtrlWrite v) s = .next t ∧ t.fld regSchCtrl 63 22 = getBits v.toNat 63 22 ∧
          t.fld regSchCtrl 15 8 = getBits v.toNat 15 8 ∧ t.fld regSchCtrl 3 0 = min 8 (getBits v.toNat 3 0) ∧
          s.OnlyRegs t [regSchCtrl]) ∧
      (admitOk ((List.range 64).map fun i => s.reg (regSchLc i)) (getBits v.toNat 47 32) (getBits v.toNat 31 22) = false →
        (getBits v.toNat 47 32 ≠ s.fld regSchCtrl 47 32 ∨ getBits v.toNat 31 22 ≠ s.fld regSchCtrl 31 22) →
        ∃ t, exec (.schCtrlWrite v) s = .next t ∧ t.bit regSchStatus 4 = true ∧ s.OnlyRegs t [regSchStatus])) ∧
    (s.periodStart n / (1000 * s.lcPeriod n) < s.time / (1000 * s.lcPeriod n) →
      ∃ u, exec (.lcPeriodStart n) s = .next (State.startPreempts u) ∧
        u.remain n = (s.lcBudget n * 1000 : Nat) + min 0 (s.remain n) ∧
        u.periodStart n = s.time ∧ s.OnlyRegs { u with sched := s.sched } [regSchLcRemain n])

/-- PREEMPTION_COMPLETE of a running task that is being pre-empted parks it, when it holds a core grant only at a
boundary of its cores, and the engine goes to the next task. TURN_END brings the charge of the task that holds the
engine in its job's turn up to date and ends the turn once the job's deficit is spent. RESIDENCY_COPY_COMPLETE marks a
LOCAL residency entry READY after its copies. (R406, R407, R408, R409, R410, R416) -/
def Obligations.TurnsAndPreemptions : Prop :=
  ∀ (s : State),
    (∀ (q : Nat) (t : Task), s.task? q = some t → t.preempt = true → t.phase = .running → s.stopped = false →
      (engineOf t.opcode ≠ some 0 ∨ s.coreBoundary t = true) →
      exec (.preemptionComplete q) s = .next (s.quiet.park t).resumeParked.takeUpReplies) ∧
    (∀ (e j : Nat) (t : Task), s.sched.turn.getD e none = some j →
      ((s.holders e).find? fun t => jobIdx t == j && !t.lc) = some t → s.stopped = false →
      (s.quiet.accrue t).1.deficit j e ≤ 0 →
      exec (.turnEnd e) s = .next ((s.quiet.accrue t).1.endTurnHeld e j (s.quiet.accrue t).2)) ∧
    (∀ (i j : Nat), i < 64 → s.ready = true → s.activeImage (s.resVersion i) = some j → s.resValid i = true → s.resLocal i = true →
      s.resSpilled i = false → s.resReady i = false → s.resFirst i + s.resPages i ≤ s.imgPages j → s.oldReaders j = false →
      ∃ t, exec (.residencyCopyComplete i) s = .next t ∧
        ∃ u : State, t = u.setRes i false true ∧ u.mem = (s.quiet.copyLocal i j).mem)

/-- When the ordering and function conditions of a task hold and its engine takes it next, its instruction's command
issues it and performs the work of its opcode and form; a task whose engine is fenced ends at issue with none of it.
GATHER takes from the command how each long segment is split, which the spec leaves to the engine (log entry 28).
(R87, R278, R279, R280, R281, R283, R396, R398, R429) -/
def Obligations.EngineInstructionsComplete : Prop :=
  ∀ (s : State) (q : Nat),
    let runs (c : Instr) (op form : Nat) (work : State → Task → State) : Prop :=
      ∀ (t : Task) (e : Nat), s.task? q = some t → t.opcode = op → t.form = form → s.quiet.issueOk t = true →
        engineOf op = some e → (s.quiet.pick e).2.map (·.seq) = some q →
        let p := (s.quiet.pick e).1.issue t
        (p.2.phase ≠ .ended → exec c s = .next (work p.1 p.2)) ∧ (p.2.phase = .ended → exec c s = .next p.1)
    runs (.score q) opScore 0 State.runScore ∧ runs (.dispatch q) opDispatch 0 State.runDispatch ∧
    runs (.dispatchX q) opDispatch 1 State.startDispatchX ∧
    (∀ splits, runs (.gather q splits) opGather 0 fun x t => x.runGather splits t) ∧
    runs (.combine q) opCombine 0 State.runCombine ∧ runs (.combineX q) opCombine 1 State.startCombineX ∧
    runs (.dmm q) opDmm 0 State.startDmm ∧ runs (.dmmAr q) opDmm 1 State.startFused ∧
    runs (.dmmRs q) opDmm 2 State.startFused ∧ runs (.dmmAg q) opDmm 3 State.startFused ∧
    runs (.xmm q) opXmm 0 State.startXmm ∧ runs (.xmmK q) opXmm 1 State.startXmm ∧
    runs (.ewise q) opEwise 0 State.startEwise ∧ runs (.ewiseStochastic q) opEwise 1 State.startEwise ∧
    runs (.pruneMask q) opPrune 0 State.pruneMask ∧ runs (.prunePack q) opPrune 1 State.prunePack ∧
    runs (.shadow q) opShadow 0 State.runShadow ∧ runs (.move q) opMove 0 State.runMove ∧
    runs (.publish q) opPublish 0 State.startPublish

/-- A remote-memory instruction whose queue has room issues and starts its transfers; COLLECT of each kind issues and
opens its collective. Neither holds an engine. A task whose function is fenced ends at issue with none of it. (R278,
R283, R289, R333, R370, R402, R429) -/
def Obligations.RemoteAndGroupInstructionsComplete : Prop :=
  ∀ (s : State) (q : Nat),
    let runs (c : Instr) (op : Nat) (also : Task → Prop) (work : State → Task → State) : Prop :=
      ∀ (t : Task), s.task? q = some t → t.opcode = op → t.form = 0 → s.quiet.issueOk t = true →
        (t.lc = true → s.admits t = true) → also t →
        let p := s.quiet.issue t
        (p.2.phase ≠ .ended → exec c s = .next (work p.1 p.2)) ∧ (p.2.phase = .ended → exec c s = .next p.1)
    let room (t : Task) : Prop := s.queueLoad (t.imm 18 16) < 512 ∧
      (t.opcode = opRload → s.rme.stageUsed + (t.op 0).span ≤ 8388608)
    runs (.rload q) opRload room State.startRemote ∧ runs (.rstore q) opRstore room State.startRemote ∧
    runs (.mstore q) opMstore room State.startRemote ∧ runs (.ratomic q) opRatomic room State.startRemote ∧
    runs (.rreduce q) opRreduce room State.startRemote ∧
    runs (.collectAllReduce q) opCollect (fun t => t.imm 15 12 = 0) State.openTask ∧
    runs (.collectReduceScatter q) opCollect (fun t => t.imm 15 12 = 1) State.openTask ∧
    runs (.collectAllGather q) opCollect (fun t => t.imm 15 12 = 2) State.openTask ∧
    runs (.collectBroadcast q) opCollect (fun t => t.imm 15 12 = 3) State.openTask ∧
    runs (.collectBarrier q) opCollect (fun t => t.imm 15 12 = 4) State.openTask

/-- For one token, SCORE chooses among the eligible experts the k that come first, in order, by the rule: NaN ranks
below every number, a greater selection score ranks ahead, and equal scores, -0 and +0 among them, rank by the lower
index. The experts chosen are distinct, and each ranks ahead of every eligible expert not chosen. (R118, R119, R120)
-/
def Obligations.ScoreRanksByTheTotalOrder : Prop :=
  (∀ (a b : F32) (e f : Nat), before (a, e) (b, f) =
    (if (ofF32 a).isNan && (ofF32 b).isNan then decide (e < f) else if (ofF32 a).isNan then false
     else if (ofF32 b).isNan then true else if (ofF32 b).lt (ofF32 a) then true
     else if (ofF32 a).lt (ofF32 b) then false else decide (e < f))) ∧
  ∀ (p : ScoreSpec) (bias : Option (List F32)) (xs : List F32),
    let q := match bias with
      | some b => List.zipWith f32Add (normalise p.norm xs) b
      | none => normalise p.norm xs
    let able := eligible p.g p.topg p.j q
    let chosen := (scoreToken p bias xs).1
    chosen.length = min p.k able.length ∧ chosen.Nodup ∧
    (∀ e ∈ chosen, (q.getD e f32Nan, e) ∈ able) ∧
    chosen.Pairwise (fun e f => before (q.getD e f32Nan, e) (q.getD f f32Nan, f) = true) ∧
    (∀ e ∈ chosen, ∀ x ∈ able, x.2 ∉ chosen → before (q.getD e f32Nan, e) x = true) ∧
    (p.g = 1 → able = (List.range q.length).map fun e => (q.getD e f32Nan, e))

/-- The j-th pair of an expert's list goes to own row e x CAP + j when j < CAP, and otherwise to hamper row E x CAP +
H_e + (j - CAP), H_e the overflow of the experts before it. No two pairs share a row, no pair takes two rows, every
pair whose choice names an expert has a row, and no row lies past the own rows and the hamper's total overflow. (R124,
R125) -/
def Obligations.DispatchPlacesEachPairOnce : Prop :=
  ∀ (s : State) (d : Desc) (E cap : Nat),
    let c (e : Nat) : List (Nat × Nat) := s.expertList d e
    let ham (e : Nat) : Nat := ((List.range e).map fun f => (c f).length - cap).sum
    let rows := planRows E cap (s.sortPlan d E cap)
    (∀ e j, e < E → j < (c e).length →
      (if j < cap then e * cap + j else E * cap + ham e + (j - cap), (c e).getD j (0, 0)) ∈ rows) ∧
    (rows.map (·.1)).Nodup ∧ (rows.map (·.2)).Nodup ∧
    (∀ t r, t < d.d1 → r < d.d0 → 0 ≤ s.choice d t r → s.choice d t r < (E : Int) → ∃ i, (i, (t, r)) ∈ rows) ∧
    ∀ f ∈ rows, f.1 < E * cap + ham E

/-- The fields ORIGIN, TOKEN, RANK and LAYER of a tag read back as written, CHECK is the CRC of bits [63:16], or 1
where that is 0, and no tag is 0. In the spec's example, device 37, token 709, rank 2 and layer 13, bits [63:16] are
0x0094_000B_148D. (R129, R130) -/
def Obligations.TagsRoundTrip : Prop :=
  (∀ (o k r l : Nat), o < 2 ^ 14 → k < 2 ^ 24 → r < 2 ^ 4 →
    tagOrigin (makeTag o k r l) = o ∧ tagToken (makeTag o k r l) = k ∧ tagRank (makeTag o k r l) = r ∧
    tagLayer (makeTag o k r l) = l % 64 ∧ makeTag o k r l < 2 ^ 64 ∧ makeTag o k r l ≠ 0 ∧
    getBits (makeTag o k r l) 15 0 =
      (if crc16 (beBytes 6 (getBits (makeTag o k r l) 63 16)) = 0 then 1
       else crc16 (beBytes 6 (getBits (makeTag o k r l) 63 16)))) ∧
  getBits (makeTag 37 709 2 13) 63 16 = 0x0094000B148D

/-- While the array is open, RUN_CLAIM takes the first claimable run of the list for a core without a next run, off
the list: it becomes the core's current run, with a stake requested when the core holds none, or its next run.
RUN_COMPLETE of a core that holds a stake computes its current run and hands the tile on. PARTIAL_SUM_START adds the
parts of a tile in ascending order once all are there. VECTOR_BLOCK_CLAIM gives an idle vector unit its next block,
and VECTOR_BLOCK_COMPLETE writes it. GUARD_DECISION takes a decision item that a slice of the guard holds, and while
the guard is neither halted nor halting the first items of a running XMM are held, one for each slice. (R165, R170,
R174, R177, R178, R181, R184, R205, R215, R217) -/
def Obligations.CoresClaimAndComplete : Prop :=
  ∀ (s : State) (k : Nat),
    (∀ (l : Nat) (r : Run), s.logical k = some l → s.quiet.arrayOpen = true → (s.core k).next = none →
      s.runs.find? (s.quiet.claimable l) = some r →
      let u := { s.quiet with runs := s.runs.filter fun x => !(x.seq == r.seq && x.ord == r.ord) }
      ((s.core k).cur = none → (s.core k).stake = true →
        exec (.runClaim k) s = .next (u.setCore { s.core k with cur := some r, slot := s.slotOf r })) ∧
      ((s.core k).cur = none → (s.core k).stake = false →
        exec (.runClaim k) s =
          .next ((u.setCore { s.core k with cur := some r, slot := s.slotOf r }).requestCoreStake r.seq l)) ∧
      ((s.core k).cur ≠ none → exec (.runClaim k) s = .next (u.setCore { s.core k with next := some r }))) ∧
    (∀ (r : Run) (t : Task), (s.core k).cur = some r → s.task? r.seq = some t → (s.core k).stake = true →
      s.power.stopped = false →
      (r.proj = 2 → let w := s.quiet.ewRun t r
        exec (.runComplete k) s = .next (((w.1.countRun k t.seq w.2.1 1 0 w.2.2).advanceCore k).settleCore t.seq)) ∧
      (r.proj ≠ 2 → let o := s.quiet.computeRun t k r
        ∃ u : State, u.regs = s.regs ∧ u.mem = s.mem ∧ u.tasks = s.tasks ∧ u.cores = s.cores ∧
          exec (.runComplete k) s = .next (((((u.countRun k t.seq o.fallbacks o.ran o.skips o.gated).advanceCore k).note
            t.seq 0 o.part.poisoned).partReady t o.part).settleCore t.seq))) ∧
    (∀ (q tile : Nat) (t : Task) (p : Part) (ps : List Part), s.task? q = some t → t.phase = .running → s.stopped = false →
      s.rawParts t.seq tile = p :: ps → p.run.part = 0 → ps.length + 1 = p.run.parts →
      exec (.partialSumStart q tile) s = .next (({ s.quiet with parts := s.parts.filter fun x =>
          !(x.run.seq == t.seq && decide (1 < x.run.parts) && x.run.ord == tile + x.run.part) }.tileReady t
        { run := { p.run with parts := 1 }, core := p.core, vals := ps.foldl (fun a (x : Part) => addRows a x.vals) p.vals,
          poisoned := (p :: ps).any (·.poisoned) }).settleCore t.seq)) ∧
    (∀ (l : Nat) (b : VBlock), s.logical k = some l → s.quiet.arrayOpen = true → (s.core k).vec = none →
      s.quiet.nextBlock k l = some b →
      let u := ({ s.quiet with vblocks := s.vblocks.erase b }).setCore { s.core k with vec := some b }
      exec (.vectorBlockClaim k) s = .next (if u.blockOwner b.owner = k then u else u.addReg (regCoreIroned k) 1)) ∧
    (∀ (b : VBlock) (t : Task), (s.core k).vec = some b → s.task? b.seq = some t → s.power.stopped = false →
      exec (.vectorBlockComplete k) s =
        .next ((((s.quiet.runBlock t b).setCore { s.core k with vec := none }).dropPiece b).settleCore b.seq)) ∧
    (∀ (q e blk : Nat) (t : Task), s.task? q = some t → t.phase = .running → s.heldItems.contains (q, e, blk) = true →
      s.stopped = false → exec (.guardDecision q e blk) s = .next (s.quiet.takeDecision t e blk)) ∧
    ∀ (t : Task), t ∈ s.tasks → t.phase = .running → t.opcode = opXmm → s.halting 7 = false → s.halted 7 = false →
      ∀ g ∈ (s.guards.filter fun g => g.1 == t.seq).take (ceilDiv (t.grantHi - t.grantLo) 8), g ∈ s.heldItems

/-- With a unit free in the pool and the ramp below 100 units in the last microsecond, STAKE_GRANT grants the request
that stands first: latency-critical before best-effort, collective before core, then the lower SEQ, then the lower
logical core. No request ahead of it is waiting; it goes to its requester and leaves the list. When the pool or the
ramp allows no unit, or nothing waits, nothing happens. (R452, R454, R455) -/
def Obligations.StakesAreGrantedInOrder : Prop :=
  (∀ a b : StakeReq, a.ahead b = true ↔ (a.lc = true ∧ b.lc = false) ∨ (a.lc = b.lc ∧
    ((a.collective = true ∧ b.collective = false) ∨ (a.collective = b.collective ∧
      (a.seq < b.seq ∨ (a.seq = b.seq ∧ a.core < b.core)))))) ∧
  ∀ (s : State),
    (s.unitsGranted < s.poolUnits → s.rampUnits < 100 → s.stopped = false →
      (∃ x ∈ s.power.requests, s.requestStands x = true) →
      ∃ (t u : State) (r : StakeReq), exec .stakeGrant s = .next t ∧ r ∈ s.power.requests ∧ s.requestStands r = true ∧
        (∀ x ∈ s.power.requests, s.requestStands x = true → x.ahead r = false) ∧ t = u.giveStake r ∧
        u.regs = s.regs ∧ u.mem = s.mem ∧ u.tasks = s.tasks ∧ u.cores = s.cores ∧ u.col = s.col ∧
        u.power.requests.length + 1 = (s.power.requests.filter s.requestStands).length ∧
        u.power.ramp.head? = some (1, s.time)) ∧
    (s.poolUnits ≤ s.unitsGranted ∨ 100 ≤ s.rampUnits ∨ s.power.requests = [] → exec .stakeGrant s = .next s.quiet)

/-- COLLECTIVE_ENTER of an exchange that holds its stake, while the switch may inject and the Collective Unit is not
halted, sends its count and enters it; of a group's collective it enters, unless a poisoned contribution ends the
task, which leaves inputs that have come from others where they are; of a fused form whose contribution is complete it
opens the collective, unless the contribution is poisoned. COMBINE_PHASE1_START adds the returned rows once all have
come. HAMPER_PEAK_CLEAR clears PEAK and nothing else. (R145, R149, R369, R370, R387, R390) -/
def Obligations.CollectivesAndExchangesEnter : Prop :=
  ∀ (s : State) (q : Nat),
    (∀ (x : Xchg) (t : Task), s.xchg? q = some x → s.task? q = some t → t.phase = .running → x.entered = false →
      x.stake = true → s.injectOpen = true → s.halted 13 = false → s.halting 13 = false →
      exec (.collectiveEnter q) s = .next (s.quiet.enterXchg t x)) ∧
    (∀ (t : Task), s.xchg? q = none → s.task? q = some t → t.phase = .running → collGroup t ≠ none →
      (∀ (c : Coll), s.taskColl q = some c → c.entered = false → c.stake = true → s.injectOpen = true →
        s.halted 13 = false → s.halting 13 = false →
        (s.quiet.segsPoison (s.quiet.collSpec t).ranges = false →
          exec (.collectiveEnter q) s = .next (s.quiet.enterColl t c)) ∧
        (s.quiet.segsPoison (s.quiet.collSpec t).ranges = true →
          (c.inputs = [] → exec (.collectiveEnter q) s = .next ((s.quiet.dropColl c).endTask q errPoison 0)) ∧
          (c.inputs ≠ [] → exec (.collectiveEnter q) s =
            .next ((s.quiet.setColl { c with task := none, stake := false }).endTask q errPoison 0)))) ∧
      (s.taskColl q = none → t.opcode = opDmm → s.coreWorkDone q = true →
        (t.err ≠ errPoison → exec (.collectiveEnter q) s = .next (s.quiet.openTask t)) ∧
        (t.err = errPoison → exec (.collectiveEnter q) s = .next (s.quiet.endTask q errPoison 0)))) ∧
    (∀ (x : Xchg) (t : Task), s.xchg? q = some x → s.task? q = some t → x.kind = 9 → x.aborted = 0 → x.complete = true →
      t.phase = .running →
      exec (.combinePhase1Start q) s = .next ((s.quiet.runPhases t (s.quiet.tagRows (t.op 1) (t.op 0) ++
        (List.range (t.op 6).d1).map fun i =>
          ⟨((x.tags.find? fun g => g.1 == i).map (·.2)).getD 0, false, t.op 6, i⟩)).settleXchg q)) ∧
    (s.Canonical → s.ready = true → ∃ t, exec .hamperPeakClear s = .next t ∧ t.fld regDsoHamperPeak 24 0 = 0 ∧
      (∀ i, 25 ≤ i → i < 64 → t.bit regDsoHamperPeak i = s.bit regDsoHamperPeak i) ∧ s.OnlyRegs t [regDsoHamperPeak])

/-- While the Cadastre is halted, a write that sets VALID of an entry takes effect when PAGES is not 0 and every page
of the range is FREE and lies below SMS_ALLOC_LIMIT: the entry is then VALID with the FIRST_PAGE written and not
SEALED. A write to a VALID entry that leaves FIRST_PAGE as it is has no effect. A write that clears VALID takes effect
when no task names an operand in the region, no device area lies in it and it is not SEALED. Any other such write sets
REGION_REJECT and changes nothing else. Bytes stay as they were; the Cadastre table alone may show other states. That
PAGES may not be 0 is the model's choice (log entry 30). (R228, R229, R230, Log entry 30) -/
def Obligations.RegionsAreSetAndCleared : Prop :=
  ∀ (s : State) (i : Nat) (v : Word), s.Canonical → s.ready = true → s.halted 8 = true → i < 256 →
    let lo := 65536 * s.regionFirst i
    let n := 65536 * s.regionPages i
    let rejected (c : Instr) : Prop :=
      ∃ t, exec c s = .next t ∧ t.bit regCadStatus 3 = true ∧ s.OnlyRegs t [regCadStatus]
    let inUse : Prop := (∃ t ∈ s.tasks, ∃ l, layout t.opcode t.form = some l ∧ ∃ o ∈ namedOps l t,
        ∃ p ∈ spansOf o.desc o.role.weight, rangesMeet p.1 p.2 lo n = true) ∨
      (∃ r ∈ s.deviceAreas, rangesMeet r.1 r.2 lo n = true) ∨ s.regionSealed i = true
    (bitOf v.toNat 63 = true →
      (s.regionValid i = false → s.regionPages i ≠ 0 → s.pagesFree (getBits v.toNat 23 0) (s.regionPages i) = true →
        ∃ t, exec (.regionValidSet i v) s = .next t ∧ t.regionValid i = true ∧ t.regionSealed i = false ∧
          t.regionFirst i = getBits v.toNat 23 0 ∧ t.regionPages i = s.regionPages i ∧
          s.OnlyRegsBesideTable t [regCadWregion i]) ∧
      (s.regionValid i = false →
        s.regionPages i = 0 ∨ s.pagesFree (getBits v.toNat 23 0) (s.regionPages i) = false → rejected (.regionValidSet i v)) ∧
      (s.regionValid i = true → getBits v.toNat 23 0 = s.regionFirst i → exec (.regionValidSet i v) s = .next s.quiet) ∧
      (s.regionValid i = true → getBits v.toNat 23 0 ≠ s.regionFirst i → rejected (.regionValidSet i v))) ∧
    (s.regionValid i = true → ¬ inUse →
      ∃ t, exec (.regionValidClear i) s = .next t ∧ t.regionValid i = false ∧ t.regionFirst i = s.regionFirst i ∧
        s.OnlyRegsBesideTable t [regCadWregion i]) ∧
    (s.regionValid i = true → inUse → rejected (.regionValidClear i))

/-- While the Cadastre is halted, a write of CAD_TABLE_BASE takes effect when the base is a multiple of 64 KiB and not
0, CAD_TABLE_BASE is 0, the range is FREE and an entry is free: the lowest free entry becomes a VALID region over it,
and every byte outside the table reads as before. A write of PROG_MIB acts as at most 10, and is refused when it would
take frames while a page holds one. A refused write sets REGION_REJECT and nothing else. (R224, R239, R261) -/
def Obligations.TableAndBankSettingsAreTaken : Prop :=
  ∀ (s : State) (v : Word), s.Canonical → s.ready = true → s.halted 8 = true →
    let rejected (c : Instr) : Prop :=
      ∃ t, exec c s = .next t ∧ t.bit regCadStatus 3 = true ∧ s.OnlyRegs t [regCadStatus]
    let n := ceilDiv (tableBytes s.variant) 65536
    let ok : Prop := v.toNat ≠ 0 ∧ v.toNat % 65536 = 0 ∧ s.reg regCadTableBase = 0 ∧ s.pagesFree (v.toNat / 65536) n = true
    (∀ i, i < 256 → s.regionValid i = false → (∀ k, k < i → s.regionValid k = true) → ok →
      ∃ t, exec (.cadTableBaseWrite v) s = .next t ∧ t.reg regCadTableBase = v.toNat ∧ t.regionValid i = true ∧
        t.regionFirst i = v.toNat / 65536 ∧ t.regionPages i = n ∧ t.mem = s.mem ∧ t.pages = s.pages ∧ t.tasks = s.tasks ∧
        s.SameOutsideTable t ∧
        ∀ o, o ∉ [regCadTableBase, regCadWregion i, regCadWregionHi i] → t.reg o = s.reg o) ∧
    (¬ ok ∨ (∀ k, k < 256 → s.regionValid k = true) → rejected (.cadTableBaseWrite v)) ∧
    (min 10 (getBits v.toNat 3 0) ≤ s.progMib ∨ s.framesUsed = [] →
      ∃ t, exec (.progMibWrite v) s = .next t ∧ t.fld regNstCtrl 3 0 = min 10 (getBits v.toNat 3 0) ∧
        s.OnlyRegs t [regNstCtrl]) ∧
    (s.progMib < min 10 (getBits v.toNat 3 0) → s.framesUsed ≠ [] → rejected (.progMibWrite v))

/-- An address in the far region goes to its quadrant, stack, channel and channel offset by the rule of the far
interleave, one in a near region by the rule of the near interleave, and the address can be had back from its channel
and offset; below the capacity the channel exists and the offset lies within its 2,000,000,000 bytes. With NU = 16 the
byte 1,000,000 past the start of the far region lies in S7.C5, and the byte 1,000,000 past the start of near region 1
in S3.C22, as the worked example finds (the addresses that it prints lie elsewhere, log entry 30). (R222) -/
def Obligations.ChannelMapIsOneToOne : Prop :=
  (∀ (s : State) (a : Nat),
    let nu := s.fld regSmsNearUnits 5 0
    let cq := chansPerQuad s.variant
    let ns := stacksPerQuad s.variant
    let c := 4 * cq
    let u := nu * 32000000 * cq
    (4 * u ≤ a →
      let g := (a - 4 * u) / 256
      let q := g % c % 4
      let j := g % c / 4
      s.channelOf a = (32 * (3 * q + j % ns) + j / ns, nu * 32000000 + g / c * 256 + a % 256)) ∧
    (∀ q, q < 4 → q * u ≤ a → a < (q + 1) * u →
      let g := (a - q * u) / 256
      let j := g % cq
      s.channelOf a = (32 * (3 * q + j % ns) + j / ns, g / cq * 256 + a % 256)) ∧
    addressOf s.variant nu (s.channelOf a).1 (s.channelOf a).2 = a ∧
    (nu ≤ 62 → a < capacity s.variant →
      channelPresent s.variant (s.channelOf a).1 = true ∧ (s.channelOf a).2 < 2000000000)) ∧
  ∀ (s : State), s.variant = .fd880 → s.fld regSmsNearUnits 5 0 = 16 →
    s.channelOf 196609000000 = (32 * 7 + 5, 512002624) ∧ s.channelOf 49153000000 = (32 * 3 + 22, 10304)

/-- While the Stack Memory Subsystem is halted, a write of NEAR_UNITS is taken when the value is at most 62 and no
page is in use: with no channel darned, each channel keeps the bytes at each of its offsets. Otherwise MAP_REJECT is
set. A write of HEADROOM acts as at most 8; it is refused with REGION_REJECT when it would reserve a page in use, and
otherwise channels that are fenced are darned as H allows. SMS_DARN_REQ with GO names a failed channel: with none
darning, no headroom or 8 darned, it is fenced and its lines read poisoned, but for those of a page that is served
from its frame; otherwise D rises by one and H falls by one, the darn table gains the channel, and the migration waits
for its opening entry. (R221, R254, R255, R256) -/
def Obligations.MappingAndHeadroomAreTaken : Prop :=
  ∀ (s : State) (v : Word), s.Canonical → s.ready = true →
    (s.halted 9 = true →
      (getBits v.toNat 5 0 ≤ 62 → s.fld regSmsNearUnits 5 0 ≤ 62 → s.regions = [] → s.images = [] →
        ∃ t, exec (.nearUnitsWrite v) s = .next t ∧ t.reg regSmsNearUnits = getBits v.toNat 5 0 ∧
          (s.hbm.darnTable = [] → ∀ a, a < capacity s.variant → mapGet 0 (addressOf s.variant (getBits v.toNat 5 0) (s.channelOf a).1
            (s.channelOf a).2) t.mem = mapGet 0 a s.mem) ∧
          (∀ a, capacity s.variant ≤ a → mapGet 0 a t.mem = mapGet 0 a s.mem) ∧
          (∀ o, o ≠ regSmsNearUnits → t.reg o = s.reg o) ∧ t.tasks = s.tasks) ∧
      (63 = getBits v.toNat 5 0 ∨ s.regions ≠ [] ∨ s.images ≠ [] →
        ∃ t, exec (.nearUnitsWrite v) s = .next t ∧ t.bit regSmsStatus 3 = true ∧ s.OnlyRegs t [regSmsStatus]) ∧
      (let u := s.quiet.setFld regSmsDarn 3 0 (min 8 (getBits v.toNat 3 0))
       let lo := u.allocLimit / 65536
       let k := s.allocLimit / 65536 - lo
       let taken : Prop := (∃ i ∈ s.regions, rangesMeet lo k (s.regionFirst i) (s.regionPages i) = true) ∨
         ∃ j ∈ s.images, rangesMeet lo k (s.imgFirst j) (s.imgPages j) = true
       (k = 0 ∨ ¬ taken → exec (.headroomWrite v) s = .next u.refence) ∧
       (k ≠ 0 → taken → ∃ t, exec (.headroomWrite v) s = .next t ∧ t.bit regCadStatus 3 = true ∧
         s.OnlyRegs t [regCadStatus]))) ∧
    (bitOf v.toNat 31 = false → ∃ t, exec (.darnReqWrite v) s = .next t ∧ t.reg regSmsDarnReq = getBits v.toNat 15 0 ∧
      s.OnlyRegs t [regSmsDarnReq]) ∧
    (let ch := getBits v.toNat 15 0
     bitOf v.toNat 31 = true → channelPresent s.variant ch = true → s.isDarned ch = false → ch ∉ s.hbm.fenced →
     s.hbm.failed = [] →
      (s.darnOk = false → ∃ t, exec (.darnReqWrite v) s = .next t ∧ ch ∈ t.hbm.fenced ∧
        ∀ a, a < t.smsLimit → (t.placeOf a).1 = ch → t.framed a = false → t.poisoned a = true) ∧
      (s.darnOk = true → s.smsOpen = true → s.hbm.darning = none → s.hbm.closing = false →
        ∃ t u : State, exec (.darnReqWrite v) s = .next t ∧ (t = u.openDarning ch ∨ t = u.wait (.darnOpen ch)) ∧
          u.fld regSmsDarn 19 16 = (s.fld regSmsDarn 19 16 + 1) % 16 ∧ u.fld regSmsDarn 3 0 + 1 = s.fld regSmsDarn 3 0 ∧
          u.bit regSmsStatus 5 = true ∧ u.hbm.darning = some (ch, false) ∧
          u.hbm.darnTable = ch :: s.hbm.darnTable ∧ u.mem = s.mem ∧ u.tasks = s.tasks))

/-- At the end of a heat epoch every page's HEAT is half of what it was, rounded down, and its QREADS are 0. A
promotion whose copy succeeds makes the page PROMOTED and counts it; one whose copy fails, or meets a poisoned line,
puts the page back to HOME, and its frame is used by no page but those that used it before. An eviction ends once no
reader holds the frame and is counted: the page is at HOME, and the frame goes to the page that follows when that page
is ACTIVE and at HOME and the Cadastre runs, whose promotion starts; otherwise no page uses it but those that used it
before. Images that were waiting for their last page at HOME are freed after that. No byte of memory and no task
changes. (R242, R243, R244) -/
def Obligations.HeatHalvesAndPagesMove : Prop :=
  ∀ (s : State) (p : Nat), s.Canonical →
    let free (u : State) : Prop := ∀ f, f ∈ u.framesUsed ↔ ∃ r ∈ s.pages, r.page ≠ p ∧ r.place ≠ 0 ∧ r.frame = f
    let others (u : State) : Prop := ∀ x, x ≠ p → (s.pageRec p).successor ≠ some x → u.pageRec x = s.pageRec x
    (s.reg regCadTableBase ≠ 0 → s.sched.heatAt + 1000 * s.epochUs ≤ s.time → s.halted 8 = false → s.halting 8 = false →
      s.stopped = false → s.ready = true →
      ∃ t, exec .heatEpochEnd s = .next t ∧
        (∀ x, (t.pageRec x).heat = (s.pageRec x).heat / 2 ∧ (t.pageRec x).qreads = [0, 0, 0, 0]) ∧
        t.sched.heatAt = s.time ∧ t.mem = s.mem ∧ t.tasks = s.tasks) ∧
    ((s.pageRec p).place = 1 → s.anyPoison (65536 * p) 65536 = false →
      ∃ u, exec (.promotionComplete p true) s = .next (State.retireImages u) ∧
        u.pageRec p = { s.pageRec p with page := p, place := 2 } ∧ (∀ x, x ≠ p → u.pageRec x = s.pageRec x) ∧
        u.reg regCadPromotions = (s.reg regCadPromotions + 1) % 2 ^ 64 ∧ u.mem = s.mem ∧ u.tasks = s.tasks) ∧
    (∀ ok, (s.pageRec p).place = 1 → ok = false ∨ s.anyPoison (65536 * p) 65536 = true →
      ∃ u, exec (.promotionComplete p ok) s = .next (State.retireImages u) ∧ (u.pageRec p).place = 0 ∧
        (∀ x, x ≠ p → u.pageRec x = s.pageRec x) ∧ free u ∧ u.regs = s.regs ∧ u.mem = s.mem ∧ u.tasks = s.tasks) ∧
    ((s.pageRec p).place = 3 → (s.pageRec p).readers = 0 → (s.pageRec p).successor ≠ some p →
      ∃ u, exec (.evictionComplete p) s = .next (State.retireImages u) ∧ (u.pageRec p).place = 0 ∧ others u ∧
        u.reg regCadEvictions = (s.reg regCadEvictions + 1) % 2 ^ 64 ∧ u.mem = s.mem ∧ u.tasks = s.tasks ∧
        ((s.pageRec p).successor = none → free u) ∧
        ∀ c, (s.pageRec p).successor = some c →
          (s.pageState c = 4 → (s.pageRec c).place = 0 → s.cadOpen = true →
            (u.pageRec c).place = 1 ∧ (u.pageRec c).frame = (s.pageRec p).frame) ∧
          (s.pageState c ≠ 4 ∨ (s.pageRec c).place ≠ 0 ∨ s.cadOpen = false → u.pageRec c = s.pageRec c ∧ free u))

/-- PUBLISH_HASH_COMPLETE of a running PUBLISH that has begun takes the digest of the region's pages and goes on to
the prepared and committed entries; when a page of the region reads poisoned, the task ends with IMAGE_POISON, the
region is no longer SEALED and stays a region. (R232, R235, R236) -/
def Obligations.PublicationHashesThenCommits : Prop :=
  ∀ (s : State) (q : Nat) (b : Publish) (t : Task), s.Canonical → s.pub? q = some b → s.task? q = some t → b.step = 1 →
    t.phase = .running → s.stopped = false → b.region < 256 →
    (s.anyPoison (65536 * s.regionFirst b.region) (65536 * s.regionPages b.region) = false →
      let d := s.imageDigest (s.regionFirst b.region) (s.regionPages b.region)
      exec (.publishHashComplete q) s =
        .next ((s.quiet.modPub q fun _ => { b with digest := d, step := 2 }).publishGoOn { b with digest := d, step := 2 })) ∧
    (s.anyPoison (65536 * s.regionFirst b.region) (65536 * s.regionPages b.region) = true →
      ∃ u, exec (.publishHashComplete q) s = .next u ∧ u.regionSealed b.region = false ∧
        u.regionValid b.region = s.regionValid b.region ∧ (∀ x ∈ u.pubs, x.seq ≠ q) ∧
        (∃ x, u.task? q = some x ∧ x.phase = .ended ∧ x.err = errImagePoison) ∧
        (∀ o, o ≠ regCadWregion b.region → u.reg o = s.reg o) ∧ u.mem = s.mem)

/-- A read request of at most 4 KiB within a page counts heat once. Served by the channels, a line with no symbol in
error, or on a fenced channel, only counts heat; one with a single symbol in error is corrected and the channel's
count of them rises; one with two or more is uncorrectable: its line reads poisoned from then on, the channel's count
of them rises and the row is queued for repair. A request routed to the frame of a PROMOTED page raises FRAME_READERS,
which falls when it is delivered; an uncorrectable error in the frame counts in CAD_FRAME_ERRORS and starts the
eviction of the page while the Cadastre runs. A line of a program or device area with two or more bits in error is
poisoned and recorded. RINSE_STEP reads each line once in a period and treats its errors the same way; a line of an
image that is poisoned already is recorded again. (R225, R241, R244, R247, R250, R424, R545) -/
def Obligations.StackReadsCountTheirErrors : Prop :=
  ∀ (s : State), s.Canonical →
    (∀ (addr len : Nat) (r : Reader), 0 < len → len ≤ 4096 → addr % 65536 + len ≤ 65536 →
      let x := s.quiet.heat addr r
      let read (bad : List LineError) (st : ReadStage) : Result := exec (.hbmReadComplete addr len bad ⟨r, st⟩) s
      let q (bad : List LineError) : HbmRead := ⟨addr, len, bad, r, .served⟩
      let line (e : LineError) : Nat := 64 * (addr / 64 + e.line)
      let at_ (e : LineError) : Nat × Nat := x.placeOf (line e)
      (addr < s.smsLimit →
        (x.framed addr = false → (addr, len) ∉ s.hbm.routed →
          (∀ bad, read bad .served = .next ((linesRead (q bad)).foldl (fun z p => z.channelLine p.1 p.2) x)) ∧
          read [] .served = .next x ∧
          ∀ e : LineError, 64 * e.line < addr % 64 + len →
            (e.symbols = 0 ∨ (at_ e).1 ∈ s.hbm.fenced → read [e] .served = .next x) ∧
            (e.symbols = 1 → (at_ e).1 ∉ s.hbm.fenced → ∃ t, read [e] .served = .next t ∧
              t = x.correctedRead (at_ e).1 e.row ((at_ e).2 / 64) ∧ t.mem = s.mem ∧
              t.reg (regSmsChCorrected (at_ e).1) = (s.reg (regSmsChCorrected (at_ e).1) + 1) % 2 ^ 64) ∧
            (2 ≤ e.symbols → (at_ e).1 ∉ s.hbm.fenced → ∃ t, read [e] .served = .next t ∧
              t = (x.poisonLine (line e / 64)).uncorrectedRead (at_ e).1 e.row ((at_ e).2 / 64) (line e) ∧
              (x.poisonLine (line e / 64)).poisoned (line e) = true ∧
              t.repairQueued (at_ e).1 (s.rowOf (at_ e).1 ((at_ e).2 / 64) e.row) = true ∧
              t.reg (regSmsChUncorrected (at_ e).1) = (s.reg (regSmsChUncorrected (at_ e).1) + 1) % 2 ^ 64)) ∧
        (∀ bad, (s.pageRec (addr / 65536)).place = 2 → ∃ t, read bad .routed = .next t ∧
          (t.pageRec (addr / 65536)).readers = (s.pageRec (addr / 65536)).readers + 1 ∧
          t.hbm = { s.hbm with routed := s.hbm.routed ++ [(addr, len)] } ∧ t.regs = s.regs ∧ t.mem = s.mem) ∧
        (∀ bad, (addr, len) ∈ s.hbm.routed → read bad .served = .next ((x.frameRead (q bad)).delivered (q bad)) ∧
          ((x.frameRead (q bad)).delivered (q bad)).hbm.routed = s.hbm.routed.erase (addr, len)) ∧
        (∀ bad, (addr, len) ∉ s.hbm.routed → x.framed addr = true → read bad .served = .next (x.frameRead (q bad))) ∧
        ∀ bad, ((∀ e ∈ bad, e.symbols < 2) → x.frameRead (q bad) = x) ∧
          ((∃ e ∈ bad, 2 ≤ e.symbols) →
            (x.frameRead (q bad)).reg regCadFrameErrors = (s.reg regCadFrameErrors + 1) % 2 ^ 64 ∧
            ((x.pageRec (addr / 65536)).place = 2 → s.cadOpen = true →
              ((x.frameRead (q bad)).pageRec (addr / 65536)).place = 3))) ∧
      (∀ b, s.place addr = .program b ∨ (s.place addr = .bankOther b ∧ addr < bankBase + 0x1000000 * b + 0x100000) →
        ∀ e : LineError, 64 * e.line < addr % 64 + len → let k := (line e - bankBase) / 0x1000000
          (e.symbols < 2 → read [e] .served = .next s.quiet) ∧
          (2 ≤ e.symbols → read [e] .served = .next ((s.quiet.poisonLine (line e / 64)).record { kind := 0x05, scope := 1, action := 1, unit := unitWord (20 + k / 8) k, addr := line e, detail := k })))) ∧
    ∀ (chan off symbols row : Nat), s.smsOpen = true → s.ready = true → s.channelServes chan = true →
      chan ∉ s.hbm.fenced → (s.hbm.rinsePeriod = s.time / s.rinseNs → (chan, off / 64) ∉ s.hbm.rinsed) →
      let done := if s.hbm.rinsePeriod = s.time / s.rinseNs then s.hbm.rinsed else []
      let z := { s.quiet with hbm := { s.hbm with
        rinsePeriod := s.time / s.rinseNs, rinsed := done ++ [(chan, off / 64)] } }
      let steps (t : State) : Prop := exec (.rinseStep chan off symbols row) s = .next t
      (∀ a, s.rinseAddr chan off = some a →
        let image := decide (3 ≤ s.pageState (a / 65536) ∧ s.pageState (a / 65536) ≤ 5)
        (symbols = 0 → image = false ∨ a / 64 ∉ s.poison → steps z) ∧
        (symbols = 0 → image = true → a / 64 ∈ s.poison →
          steps ((z.noteRow chan (off / 64) row).recordUe chan (s.rowOf chan (off / 64) row) (64 * (a / 64)))) ∧
        (symbols = 1 → steps (z.correctedRead chan row (off / 64))) ∧
        (2 ≤ symbols → steps ((z.poisonLine (a / 64)).uncorrectedRead chan row (off / 64)
          (if image then 64 * (a / 64) else off)))) ∧
      (2000000000 ≤ off → (symbols = 0 → steps z) ∧ (symbols = 1 → steps (z.correctedRead chan row (off / 64))) ∧
        (2 ≤ symbols → steps (z.uncorrectedRead chan row (off / 64) off)))

/-- A request word holds the requests of the channels that serve. A slot comes in the first 50 us of a period, once. A
retrain that succeeds counts and ends the run of failures; one that fails is due again, and the third failure in a row
fails the channel. A margining segment adds its steps to the sweep; after all 2,048 SMS_CH_MARGIN holds VALID and the
width and height of the read and the write eye. A row is repaired once its bank has been refreshed since it was
queued, on a spare row of the bank while one of the 16 is left. REFRESH_SLOT counts the refresh of a bank. A darning
migration that ends names its channel in SMS_DARNED and clears DARNING. (R248, R249, R251, R252, R253, R256, R259,
R260) -/
def Obligations.ChannelsRetrainAndMargin : Prop :=
  ∀ (s : State) (ch : Nat), s.Canonical → ch < 384 →
    (∀ (i : Nat) (v : Word), s.ready = true → i < 6 →
      (∃ t, exec (.retrainReqWrite i v) s = .next t ∧
        (∀ b, b < 64 → t.bit (regSmsRetrainReq i) b = (bitOf v.toNat b && s.channelServes (64 * i + b))) ∧
        s.OnlyRegs t [regSmsRetrainReq i]) ∧
      ∃ t, exec (.marginReqWrite i v) s = .next t ∧
        (∀ b, b < 64 → t.bit (regSmsMarginReq i) b = (bitOf v.toNat b && s.channelServes (64 * i + b))) ∧
        s.OnlyRegs t [regSmsMarginReq i]) ∧
    (s.sched.slotAt / s.slotPeriod < s.time / s.slotPeriod → s.time % s.slotPeriod < 50000 → s.smsOpen = true → s.ready = true →
      ∃ t, exec .retrainSlot s = .next t ∧ t.sched.slotAt = s.time ∧ t.mem = s.mem ∧
        t.hbm = ((List.range 12).foldl State.slotStack s.quiet).hbm) ∧
    (∀ ns, ch ∈ s.hbm.training →
      (∃ t u : State, exec (.retrainComplete ch true ns) s = .next t ∧ t = u.updateRetraining.startUrgent ∧
        u.reg (regSmsChRetrains ch) = (s.reg (regSmsChRetrains ch) + 1) % 2 ^ 64 ∧ u.hbm.fails = mapPut ch none s.hbm.fails) ∧
      (mapGet 0 ch s.hbm.fails < 2 → ∃ t u : State, exec (.retrainComplete ch false ns) s = .next t ∧
        t = u.updateRetraining.startUrgent ∧ ch ∈ u.hbm.due ∧ u.hbm.fails = mapPut ch (some (mapGet 0 ch s.hbm.fails + 1)) s.hbm.fails) ∧
      (2 ≤ mapGet 0 ch s.hbm.fails → ∃ t u : State, exec (.retrainComplete ch false ns) s = .next t ∧
        t = (u.failChannel ch).updateRetraining.startUrgent ∧ ch ∉ u.hbm.training)) ∧
    (ch ∈ s.hbm.margining →
      ∀ (n : Nat) (failed : List Nat), 0 < n → n ≤ 50 →
        let old := mapGet (0, []) ch s.hbm.sweeps
        let bad := old.2 ++ failed.filter fun i => decide (old.1 ≤ i ∧ i < old.1 + n)
        ∃ t u : State, exec (.marginSegmentComplete ch ⟨n, failed⟩) s = .next t ∧ t = u.updateRetraining.startUrgent ∧
          u.mem = s.mem ∧ u.tasks = s.tasks ∧
          (old.1 + n < 2048 → u.hbm.sweeps = mapPut ch (some (old.1 + n, bad)) s.hbm.sweeps ∧ u.regs = s.regs) ∧
          (2048 ≤ old.1 + n → u.hbm.sweeps = mapPut ch none s.hbm.sweeps ∧ u.bit (regSmsChMargin ch) 63 = true ∧
            (u.fld (regSmsChMargin ch) 7 0, u.fld (regSmsChMargin ch) 15 8) = eyeSize (eyeOf bad 0) ∧
            (u.fld (regSmsChMargin ch) 23 16, u.fld (regSmsChMargin ch) 31 24) = eyeSize (eyeOf bad 1) ∧
            ∀ o, o ≠ regSmsChMargin ch → u.reg o = s.reg o)) ∧
    (∀ (row at_ : Nat), (s.hbm.repairs.find? fun x => x.1 == ch && x.2.1 == row) = some (ch, row, at_) →
      at_ < s.refreshes ch (rowBank row) →
      let used := match s.hbm.spares.find? fun x => x.1 == ch && x.2.1 == rowBank row with
        | some x => x.2.2
        | none => 0
      (used < 16 → ∃ t u : State, exec (.rowRepair ch row) s = .next t ∧ (t = u ∨ t = u.failChannel ch) ∧
        u.repairQueued ch row = false ∧ (ch, rowBank row, used + 1) ∈ u.hbm.spares ∧
        u.reg (regSmsChRepairs ch) = (s.reg (regSmsChRepairs ch) + 1) % 2 ^ 64) ∧
      (16 ≤ used → ∃ t u : State, exec (.rowRepair ch row) s = .next t ∧ (t = u ∨ t = u.failChannel ch) ∧
        u.repairQueued ch row = false ∧ u.hbm.spares = s.hbm.spares ∧ u.regs = s.regs)) ∧
    (∀ bank, channelPresent s.variant ch = true → bank < 128 → ∃ t, exec (.refreshSlot ch bank) s = .next t ∧
      (ch, bank, s.refreshes ch bank + 1) ∈ t.hbm.refreshed ∧ t.regs = s.regs ∧ t.mem = s.mem) ∧
    (s.hbm.darning = some (ch, true) → s.smsOpen = true → 1 ≤ s.fld regSmsDarn 19 16 → s.fld regSmsDarn 19 16 ≤ 8 →
      ∃ t u : State, exec .darnMigrationComplete s = .next t ∧
        (t = (u.wait .darnClose).darnAll ∨ t = u.closeDarning.darnAll) ∧ u.hbm.darning = none ∧
        u.darnedEntry (s.fld regSmsDarn 19 16 - 1) = ch % 65536 ∧ u.bit regSmsStatus 5 = false)

/-- A packet whose fields fit their widths comes back from its 32-byte header and its payload with every field as it
was; the header's LEN is the payload's length and its CRC holds. (R310, R311) -/
def Obligations.PacketHeaderRoundTrip : Prop :=
  ∀ (p : Pkt), p.dst < 2 ^ 14 → p.src < 2 ^ 14 → p.epoch < 2 ^ 8 → p.vc < 2 ^ 3 → p.kind < 2 ^ 5 → p.group < 2 ^ 12 →
    p.hops < 2 ^ 6 → p.txn < 2 ^ 32 → p.total < 2 ^ 32 → p.offset < 2 ^ 32 → p.addr < 2 ^ 50 → p.payload.length ≤ 4096 →
    Pkt.parse p.header p.payload p.port = p ∧ p.header.length = 32 ∧ headerLen p.header = p.payload.length ∧
    headerOk p.header = true ∧ p.bytes.take 32 = p.header ∧
    Pkt.parse (p.bytes.take 32) (slice p.bytes 32 (headerLen (p.bytes.take 32))) p.port = p

/-- A write of NSW_ROUTE to an entry of the active bank, or to any entry while RETIRE_PENDING is 1, sets ROUTE_REJECT
and changes nothing else. Any other write stores the entry, whether or not the switch is halted, and changes nothing
else. (R320) -/
def Obligations.RouteWritesReachTheInactiveBank : Prop :=
  ∀ (s : State) (b d : Nat) (v : Word), s.Canonical → s.ready = true → b < 2 → d < 16384 →
    (b = s.fld regNswEpoch 7 0 % 2 ∨ s.bit regNswStatus 9 = true →
      ∃ t, exec (.routeWrite b d v) s = .next t ∧ t.bit regNswStatus 10 = true ∧ s.OnlyRegs t [regNswStatus]) ∧
    (b ≠ s.fld regNswEpoch 7 0 % 2 → s.bit regNswStatus 9 = false →
      ∃ t, exec (.routeWrite b d v) s = .next t ∧ t.reg (regNswRoute (16384 * b + d)) = v.toNat / 2 ^ 28 * 2 ^ 28 ∧
        s.OnlyRegs t [regNswRoute (16384 * b + d)])

/-- A write of NSW_EPOCH changes the epoch only while the switch is halted, only to current + 1 modulo 256 and only
while RETIRE_PENDING is 0. It then makes the bank numbered epoch mod 2 active, clears NSW_EPOCH_OUT and NSW_EPOCH_IN
of that bank and sets RETIRE_PENDING; packets with the previous epoch are still current and routed by the previous
bank, whose entries stand. A write of 1 to NSW_RETIRE clears RETIRE_PENDING. (R322) -/
def Obligations.EpochAdvancesByOneWhileHalted : Prop :=
  ∀ (s : State) (v : Word), s.Canonical → s.ready = true →
    let e := getBits v.toNat 7 0
    let ok : Prop := s.halted 10 = true ∧ e = (s.epoch + 1) % 256 ∧ s.retirePending = false
    (ok → ∃ t, exec (.nswEpochWrite v) s = .next t ∧ t.epoch = e ∧ t.bank = e % 2 ∧ t.reg (regNswEpochOut (e % 2)) = 0 ∧
      t.reg (regNswEpochIn (e % 2)) = 0 ∧ t.retirePending = true ∧ t.epochOk s.epoch = true ∧
      (∀ b d, b < 2 → d < 16384 → t.route b d = s.route b d) ∧
      s.OnlyRegs t [regNswEpoch, regNswEpochOut (e % 2), regNswEpochIn (e % 2), regNswStatus]) ∧
    (¬ ok → ∃ t, exec (.nswEpochWrite v) s = .next t ∧ t.epoch = s.epoch ∧ t.retirePending = s.retirePending ∧
      s.OnlyRegs t [regNswStatus]) ∧
    (bitOf v.toNat 0 = true → ∃ t, exec (.nswRetireWrite v) s = .next t ∧ t.retirePending = false ∧
      s.OnlyRegs t [regNswStatus]) ∧
    (bitOf v.toNat 0 = false → exec (.nswRetireWrite v) s = .next s.quiet)

/-- The packet at the head of its channel at an input, where it may advance: one that this node sends on along a tree
leaves by its port in its turn or waits, and is dropped with reason 4 when that port has failed and with reason 2
without hops left; one whose epoch is neither current nor awaiting retirement is dropped with reason 3; a tree packet
is taken when its table has room, and waits otherwise; one for this device, or whose route says so, is delivered after
pressing; without a valid route it is dropped with reason 1, without hops left with reason 2; any other is pressed and
sent by the output that R317 gives, in its channel's turn with credit for all of it, or else unpressed, a detour being
counted for one from a port that leaves the deterministic route; when none of that sends it, it is dropped with reason
4 if the port of its route has failed, and waits otherwise. A packet that may not advance waits. (R305, R308, R315,
R316, R317, R319, R323, R326) -/
def Obligations.PacketsAreDeliveredForwardedOrDropped : Prop :=
  ∀ (s : State) (i vc : Nat) (p : Pkt), s.headPkt i vc = some p →
    let u := (s.quiet.takePkt i p).creditFrame i
    let r := s.route (p.epoch % 2) p.dst
    let here (z : State) : Prop := exec (.packetForward i vc) s = .next z
    (s.movable i p = false → here s.quiet) ∧
    (s.movable i p = true →
      (32 ≤ p.port →
        (s.portState (p.port - 32) = 4 → here ((u.dropPkt i p 4).fanLeft p)) ∧
        (s.portState (p.port - 32) ≠ 4 → p.hops ≤ 1 → here ((u.dropPkt i p 2).fanLeft p)) ∧
        (s.portState (p.port - 32) ≠ 4 → 1 < p.hops →
          (∀ z, u.sendInTurn s.quiet (p.port - 32) p = some z → here (z.fanLeft p)) ∧
          (u.sendInTurn s.quiet (p.port - 32) p = none → here s.quiet))) ∧
      (p.port < 32 → s.epochOk p.epoch = false → here (u.dropPkt i p 3)) ∧
      (p.port < 32 → s.epochOk p.epoch = true → p.tree = true →
        (s.quiet.treeRoom p = true → here (u.deliver p) ∧ (u.deliver p).rx = s.rx ++ [p]) ∧
        (s.quiet.treeRoom p = false → here s.quiet)) ∧
      (p.port < 32 → s.epochOk p.epoch = true → p.tree = false →
        let w := u.press i p
        (p.dst = s.deviceId ∨ routeValid r = true ∧ routePort r = 31 →
          here ((w.1.countIn w.2.epoch 1).deliver w.2) ∧
          (p.kind ≠ kReduce → ((w.1.countIn w.2.epoch 1).deliver w.2).rx = s.rx ++ [p])) ∧
        (p.dst ≠ s.deviceId → routeValid r = false → here (u.dropPkt i p 1)) ∧
        (p.dst ≠ s.deviceId → routeValid r = true → routePort r ≠ 31 →
          (p.hops ≤ 1 → here (u.dropPkt i p 2)) ∧
          (1 < p.hops →
            let out := s.quiet.outputOf p r
            let sent := (w.1.sendInTurn s.quiet out w.2).orElse fun _ => u.sendInTurn s.quiet out p
            (∀ z, sent = some z →
              (adaptiveVc p.vc = false ∨ out = routePort r ∨ 24 ≤ i → here z) ∧
              (adaptiveVc p.vc = true → out ≠ routePort r → i < 24 →
                here (z.modPort i fun x => { x with sDetours := x.sDetours + 1 }))) ∧
            (sent = none → (s.portState (routePort r) = 4 → here (u.dropPkt i p 4)) ∧
              (s.portState (routePort r) ≠ 4 → here s.quiet))))))

/-- A port that is down, enabled and not held trains. A training that ends with four lanes, a flight time of at most
250 ns, a partner with another ID and no encryption asked for here or required there brings it UP: the flight time and
the partner are recorded, this device's identity message is sent and FPT_TRAININGS rises. Without its lanes it goes
down; above 250 ns it fails; where only the partner asks for encryption and requires it, the port stays down with
CRYPT_MISMATCH. With encryption asked for by both, it enters KEYING. A port that is UP or in KEYING goes down on a
lane's loss. In KEYING a credential that is accepted is kept and one that is not ends it; the partner's ciphertext
then ends KEYING in UP with encryption and keys, or without a way to encapsulate in a failure; at a rekey it gives the
next keys. A rekey that is due queues its packet on VC7. ENABLE = 0 holds the port down and, written to 1 again,
leaves FAILED. (R293, R294, R295, R300, R302, R304, R331, R486, R488) -/
def Obligations.PortsTrainKeyAndGoDown : Prop :=
  ∀ (s : State) (p : Nat), s.Canonical → portPresent s.variant p = true →
    (s.portState p = 0 → s.portEnable p = true → s.trainOpen = true → s.portsStarted = true →
      ∃ t, exec (.portTrainingStart p) s = .next t ∧ t.portState p = 1 ∧ (t.port p).retrain = (s.port p).wasUp ∧
        (∀ o, o ≠ regFptPortStatus p → t.reg o = s.reg o) ∧ t.mem = s.mem ∧ t.tasks = s.tasks) ∧
    (∀ r : Training, s.portState p = 1 →
      let other : Prop := s.deviceValid = true → r.idValid = true → r.device.toNat ≠ s.deviceId
      (r.lanes = false → exec (.portTrainingComplete p r) s = .next ((s.quiet.portOff p).retrainFailed p)) ∧
      (r.lanes = true → 250 < r.flight →
        exec (.portTrainingComplete p r) s = .next (((s.quiet.setReg (regFptFlight p) r.flight).portOff p).portFail p)) ∧
      (r.lanes = true → r.flight ≤ 250 → other → s.portEncrypt p = false →
        let u := ((s.quiet.setReg (regFptFlight p) r.flight).emit (s.ownIdentity p)).recordPeer p r
        (r.encrypt = true → r.required = true → exec (.portTrainingComplete p r) s = .next (u.cryptMismatch p)) ∧
        (r.encrypt = false ∨ r.required = false →
          ∃ t, exec (.portTrainingComplete p r) s = .next t ∧ t.portState p = 3 ∧ t.reg (regFptFlight p) = r.flight ∧
            t.bit (regFptPortPeer p) 31 = true ∧ t.fld (regFptPortPeer p) 15 0 = r.device.toNat ∧
            t.reg (regFptTrainings p) = (s.reg (regFptTrainings p) + 1) % 2 ^ 64 ∧ s.ownIdentity p ∈ t.out ∧
            t.tasks = s.tasks)) ∧
      (r.lanes = true → r.flight ≤ 250 → other → s.portEncrypt p = true → r.encrypt = true → r.encCapable = true →
        s.bit regSecStatus 7 = false → ∃ t, exec (.portTrainingComplete p r) s = .next t ∧ t.portState p = 2 ∧
          t.reg (regFptTrainings p) = s.reg (regFptTrainings p) ∧ t.tasks = s.tasks)) ∧
    (s.portState p = 2 ∨ s.portState p = 3 → exec (.laneLockLoss p) s = .next (s.quiet.portDown p)) ∧
    (∀ cred sig, s.portState p = 2 → (s.port p).peerCred = [] →
      (s.credentialOk p cred sig = true → ∃ t, exec (.linkCredential p cred sig) s = .next t ∧
        (t.port p).peerCred = cred ∧ t.regs = s.regs ∧ t.mem = s.mem) ∧
      (s.credentialOk p cred sig = false → exec (.linkCredential p cred sig) s = .next (s.quiet.keyingFails p))) ∧
    (∀ ct : List Byte, ct.length = 1568 → (s.port p).peerCred ≠ [] →
      (s.portState p = 2 → s.bit regSecStatus 7 = false → ∃ t, exec (.keyCiphertext p ct) s = .next t ∧
        t.portState p = 3 ∧ t.portCrypt p = true ∧ ((t.port p).keys).isSome = true ∧ t.mem = s.mem) ∧
      (s.portState p = 2 → s.bit regSecStatus 7 = true → exec (.keyCiphertext p ct) s = .next (s.quiet.keyingFails p)) ∧
      (s.portState p = 3 → s.portCrypt p = true → (s.port p).nextKeys = none →
        exec (.keyCiphertext p ct) s = .next (s.quiet.rekeyed p ct) ∧
        ((s.port p).keys.isSome = true → ((s.quiet.rekeyed p ct).port p).nextKeys.isSome = true))) ∧
    (s.rekeyIsDue p = true → ∃ t k, exec (.rekeyDue p) s = .next t ∧ (t.port p).rekeying = true ∧
      (t.port p).keys = (s.port p).keys ∧ t.inject = s.inject ++ [k] ∧ k.vc = 7 ∧ k.port = 32 + p ∧ k.len = 1568 ∧
      t.regs = s.regs ∧ t.mem = s.mem) ∧
    (∀ v : Word, s.ready = true → s.halted 11 = true → ∃ t, exec (.portEnableWrite p v) s = .next t ∧
      t.reg (regFptPortCtrl p) = getBits v.toNat 31 29 * 2 ^ 29 + getBits v.toNat 10 0 ∧
      (bitOf v.toNat 31 = false → s.portState p ≠ 4 → t.portState p = 0) ∧
      (bitOf v.toNat 31 = false → s.portState p = 4 → t.portState p = 4) ∧
      (bitOf v.toNat 31 = true → s.portEnable p = false → s.portState p = 4 → t.portState p = 0) ∧
      (bitOf v.toNat 31 = true → s.portEnable p = true ∨ s.portState p ≠ 4 → t.portState p = s.portState p))

/-- On a port that is UP and not encrypting, a frame that fails its checks leaves the frame number awaited, the input
buffer and every delivered packet as they were, and a retry is requested for that number; a whole frame with the
number awaited moves it on by one. On an encrypting port a whole frame whose tag fails is counted in FPT_TAG_FAILS and
asked for again as well. A RETRY_REQUEST for a frame in the retry buffer resends each frame from it on, in order, with
one more resend counted for each, unless one of them has been resent four times, when the port goes down. (R296, R297,
R300, R303) -/
def Obligations.FramesAreTakenInOrderOrRetried : Prop :=
  ∀ (s : State) (p : Nat) (f : Frame), s.Canonical → s.portUp p = true →
    exec (.frameReceive p f) s = .next (s.quiet.receiveFrame p f) ∧
    (s.portCrypt p = false → frameWhole f 2560 = false → (s.port p).discarding = false → (s.port p).retries.length < 64 →
      ∃ t, exec (.frameReceive p f) s = .next t ∧ (t.port p).rxSeq = (s.port p).rxSeq ∧ (t.port p).discarding = true ∧
        (t.port p).inbuf = (s.port p).inbuf ∧ t.rx = s.rx ∧ Out.retryRequest p (s.port p).rxSeq ∈ t.out) ∧
    (s.portCrypt p = false → frameWhole f 2560 = true → frameSeq f = (s.port p).rxSeq →
      ∃ t, exec (.frameReceive p f) s = .next t ∧ (t.port p).rxSeq = ((s.port p).rxSeq + 1) % 4096 ∧
        (t.port p).discarding = false ∧ t.rx = s.rx ∧ t.tasks = s.tasks) ∧
    (∀ k : LinkKeys, s.portCrypt p = true → (s.port p).keys = some k → (s.port p).nextKeys = none →
      frameWhole f 2544 = true → gcmTag k.rxKey (frameNonce k.rxSalt k.rxCount) f.header f.stream ≠ f.tag →
      (s.port p).tagFails.length < 2 → (s.port p).retries.length < 64 →
      ∃ t, exec (.frameReceive p f) s = .next t ∧ t.reg (regFptTagFails p) = (s.reg (regFptTagFails p) + 1) % 2 ^ 64 ∧
        (t.port p).rxSeq = (s.port p).rxSeq ∧ (t.port p).discarding = true ∧ (t.port p).inbuf = (s.port p).inbuf ∧
        t.rx = s.rx ∧ Out.retryRequest p (s.port p).rxSeq ∈ t.out) ∧
    ∀ (fseq i : Nat), ((s.port p).retry.findIdx? fun r => r.1 == fseq) = some i →
      let due := (s.port p).retry.drop i
      ((∀ r ∈ due, r.2.2.2 < 4) → ∃ t, exec (.retryRequest p fseq) s = .next t ∧
        (t.port p).retry = (s.port p).retry.take i ++ due.map (fun r => (r.1, r.2.1, r.2.2.1, r.2.2.2 + 1)) ∧
        (s.portCrypt p = false → t.out = due.map fun r => Out.frame p (s.makeFrame p r.1 r.2.1 r.2.2.1).2) ∧
        t.regs = s.regs) ∧
      ((∃ r ∈ due, 4 ≤ r.2.2.2) → exec (.retryRequest p fseq) s = .next (s.quiet.portDown p))

/-- Once INTERVAL_US has passed, SURVEY_INTERVAL writes a record for each present port in ascending order and starts a
new interval. MESH_FLIT_RESEND counts, notes the link in MSH_LAST_LINK and records the event; the seventeenth of a
link within a microsecond is fatal to the device. (R328, R329, R538, R539) -/
def Obligations.SurveysAndMeshResendsAreRecorded : Prop :=
  ∀ (s : State), s.Canonical →
    (s.sched.surveyAt + 1000 * s.surveyUs ≤ s.time → s.ready = true → s.stopped = false →
      let u := ((List.range 24).filter (portPresent s.variant)).foldl State.surveyPort s.quiet
      exec .surveyInterval s = .next { u with sched := { u.sched with surveyAt := s.time } }) ∧
    ∀ (link : BitVec 16),
      let n := (s.rru.meshResends.filter fun x => decide (s.time < x.2 + 1000) && x.1 == link.toNat).length
      (n < 16 → ∃ t, exec (.meshFlitResend link) s = .next t ∧
        t.reg regMshResends = (s.reg regMshResends + 1) % 2 ^ 64 ∧ t.reg regMshLastLink = 2 ^ 31 + link.toNat ∧
        t.reg (regRruCount 9) = (s.reg (regRruCount 9) + 1) % 2 ^ 64 ∧ t.tasks = s.tasks) ∧
      (16 ≤ n → ∃ t u : State, exec (.meshFlitResend link) s = .next t ∧ u.bit regMshStatus 1 = true ∧
        t = u.deviceStop 0x09 (unitWord (linkDomain link.toNat) link.toNat) link.toNat none)

/-- A packet row takes the first delivered packet of its kind that may be taken, and serves it. LOAD_REQ, STORE,
ATOMIC, REDUCE and the two retries take one that is not ordered, or before which no ordered packet of its source and
channel waits; a STORE on VC3 waits while its exchange is undecided, MDATA while a FANSET of its transfer waits before
it, an XCOUNT until an exchange here can take it or has been aborted under its SIG, a RING packet until this device is
a member of its group or the packet is stale. Without such a packet nothing changes. A load of readable bytes that are
not poisoned injects LOAD_DATA with them; a store of bytes that may be written writes them and is acknowledged; a
reduction that the window does not hold, of fresh constituents and with room, combines its data with the bytes there,
enters the window and is acknowledged to each constituent; a reply with status OK to an outstanding request of a task
that is not parked completes that request. (R309, R332, R338, R339, R340, R342, R345, R349, R354, R355, R372, R390) -/
def Obligations.DeliveredPacketsAreServed : Prop :=
  ∀ (s : State),
    let z := s.quiet
    let rest (p : Pkt) : State := { z with rx := dropFirst p s.rx }
    let first (k : Nat) (ok : Pkt → Bool) (p : Pkt) : Prop := (s.rx.find? fun p => p.kind == k && ok p) = some p
    let takes (k : Nat) (c : Instr) (ok : Pkt → Bool) (serve : State → Pkt → State) : Prop :=
      (∀ p, first k ok p → exec c s = .next (serve (rest p) p)) ∧
      ((∀ p ∈ s.rx, p.kind = k → ok p = false) → exec c s = .next z)
    let before (p : Pkt) : List Pkt := s.rx.takeWhile (· != p)
    let any (_ : Pkt) : Bool := true
    let inOrder (p : Pkt) : Bool := !p.ordered || (before p).all fun q => !(q.ordered && q.src == p.src && q.vc == p.vc)
    let decided (p : Pkt) : Bool := !(p.vc == 3 && (z.xchgOf p).any fun x => !x.decided)
    let answers (c : Instr) (p : Pkt) (kind : Nat) (bs : List Byte) (mem : List Host.Cell) : Prop :=
      ∃ t, exec c s = .next t ∧ t.mem = mem ∧ t.tasks = s.tasks ∧
        (t.inject.getLast?.map fun r => (r.kind, r.group, r.dst, r.txn, r.payload)) = some (kind, 0, p.src, p.txn, bs)
    takes kLoadReq .loadReq inOrder State.serveLoad ∧ takes kLoadData .loadData any State.takeLoadData ∧
    takes kAtomic .atomic inOrder State.serveAtomic ∧ takes kAtomicRetry .atomicRetry inOrder State.serveAtomic ∧
    takes kAtomicReply .atomicReply any State.takeAtomicReply ∧ takes kReduce .reduce inOrder State.serveReduce ∧
    takes kReduceRetry .reduceRetry inOrder State.serveReduce ∧ takes kFanset .fanset any State.serveFanset ∧
    takes kAck .ack any State.takeAck ∧ takes kDrop .drop any State.takeDrop ∧
    takes kContrib .contrib any State.takeContrib ∧ takes kTackUp .tackUp any State.takeContrib ∧
    takes kResult .result any State.takeDown ∧ takes kTackDown .tackDown any State.takeDown ∧
    takes kAbort .abort any State.takeAbort ∧ takes kDone .done any State.serveDone ∧
    takes kClosed .closed any State.serveClosed ∧
    takes kStore .store (fun p => decided p && inOrder p) (fun u p => if p.vc = 3 then u.takeRows p else u.serveStore p) ∧
    takes kMdata .mdata (fun p => (before p).all fun q => !(q.kind == kFanset && q.src == p.src && q.txn == p.txn))
      State.serveMdata ∧
    takes kXcount .xcount (fun p => (z.xchgForCount p).isSome || s.col.xchgs.any fun x => x.aborted != 0 && x.sig == p.sig)
      State.serveXcount ∧
    takes kRing .ring (fun p => s.grpLocal p.group || z.stalePkt p) State.serveRing ∧
    (∀ p, first kLoadReq inOrder p → p.offset < p.total →
      let n := min 4096 (p.total - p.offset)
      s.targetStatus (p.addr + p.offset) n false false = 0 → s.anyPoison (p.addr + p.offset) n = false →
      answers .loadReq p kLoadData (s.rdBytes (p.addr + p.offset) n) s.mem) ∧
    (∀ p, first kStore (fun p => decided p && inOrder p) p → p.vc ≠ 3 → p.offset + p.len ≤ p.total →
      s.targetStatus (p.addr + p.offset) p.len true false = 0 →
      ∃ t, exec .store s = .next t ∧ t.mem = ((rest p).putBytes (p.addr + p.offset) p.payload).mem ∧
        (t.inject.getLast?.map fun r => (r.kind, r.group, r.dst, r.txn)) = some (kAck, 0, p.src, p.txn)) ∧
    (∀ p k c, first k inOrder p → (k = kReduce ∧ c = Instr.reduce ∨ k = kReduceRetry ∧ c = Instr.reduceRetry) →
      let u := if p.count = 0 then rest p else (rest p).addReg regRmePressed p.count
      let a := p.addr + p.offset
      let n := p.redData.length
      p.offset + n ≤ p.total → u.replay? p.src p.txn p.offset = none →
      (∀ d ∈ p.constituents, u.freshKey d.1 d.2 = true) → u.targetStatus a n true true = 0 → u.anyPoison a n = false →
      u.rme.window.length + p.constituents.length ≤ 65536 →
      exec c s = .next ((p.constituents.foldl (fun z d => z.recordReplay d.1 d.2 p.offset 0 0)
        (u.putBytes a (combineBytes p.redOp p.redFmt (u.rdBytes a n) p.redData))).ackAll p 0)) ∧
    (∀ p x, s.xfer? p.txn = some x → s.slotOfXfer x = none → p.group % 16 = 0 →
      let waits (off : Nat) : Prop := (x.reqs.any fun r => r.offset == off && r.reply.isNone) = true
      (first kLoadData any p → p.offset + p.len ≤ p.total → x.kind = kLoadReq → waits p.offset →
        exec .loadData s = .next ((rest p).endReq x p.offset p.payload)) ∧
      (first kAtomicReply any p → x.kind = kAtomic → waits 0 →
        exec .atomicReply s = .next ((rest p).endReq x 0 (p.payload.take 8))) ∧
      (first kAck any p → x.exch = false → x.kind = kStore ∨ x.kind = kReduce → waits p.offset →
        exec .ack s = .next ((rest p).endReq x p.offset [])))

/-- An ATOMIC whose OFFSET and LEN stay within TOTAL, that the replay window does not hold, fresh, at an address that
may be written and is not poisoned, with room in the window, applies its operation to the bytes there, replies with
their value before it, and enters the window. In any later state that still holds that entry, an ATOMIC_RETRY of the
same source, TXN and OFFSET, within its TOTAL, changes no byte of memory and gets the same reply. (R340, R343, R349,
R350) -/
def Obligations.AtomicsApplyAtMostOnce : Prop :=
  ∀ (s : State) (p : Pkt),
    (s.rx.find? fun p => p.kind == kAtomic && (!p.ordered ||
      (s.rx.takeWhile (· != p)).all fun q => !(q.ordered && q.src == p.src && q.vc == p.vc))) = some p →
    p.offset + p.len ≤ p.total → s.replay? p.src p.txn p.offset = none → s.freshKey p.src p.txn = true →
    let n := if bitOf p.group 7 then 8 else 4
    s.targetStatus p.addr n true true = 0 → s.anyPoison p.addr n = false → s.rme.window.length < 65536 →
    ∃ t, exec .atomic s = .next t ∧
      t.mem = (({ s.quiet with rx := dropFirst p s.rx }).putBytes p.addr (leBytes n (atomicOp (getBits p.group 11 8)
        (8 * n) (s.rdNat p.addr n) (leNat (slice p.payload 0 n)) (leNat (slice p.payload 8 n))))).mem ∧
      (t.inject.getLast?.map fun r => (r.kind, r.dst, r.txn, r.group, r.payload)) =
        some (kAtomicReply, p.src, p.txn, 0, leBytes 8 (s.rdNat p.addr n)) ∧
      ∀ (u : State) (q : Pkt), u.rme.window = t.rme.window →
        (u.rx.find? fun p => p.kind == kAtomicRetry && (!p.ordered ||
          (u.rx.takeWhile (· != p)).all fun q => !(q.ordered && q.src == p.src && q.vc == p.vc))) = some q →
        q.src = p.src → q.txn = p.txn → q.offset = p.offset → q.offset + q.len ≤ q.total →
        ∃ w, exec .atomicRetry u = .next w ∧ w.mem = u.mem ∧ w.poison = u.poison ∧ w.odl = u.odl ∧ w.tasks = u.tasks ∧
          (w.inject.getLast?.map fun r => (r.kind, r.dst, r.txn, r.group, r.payload)) =
            some (kAtomicReply, p.src, p.txn, 0, leBytes 8 (s.rdNat p.addr n))

/-- RME_INJECT by the queue whose turn it is injects one packet of its first transfer that may go on, for another
queue nothing; the packet of a transfer that is no multicast carries its TXN and the offset reached. A request with no
reply for TIMEOUT_US is sent again, or is lost with REMOTE_TIMEOUT when it is ordered or its tries are spent; on a
device without a valid ID it is lost as UNREACHABLE. After BUSY it goes again a microsecond later, under its own KIND
while it has not been retried. An MSTORE whose acknowledgements are missing after (RETRIES + 1) x TIMEOUT_US from its
last packet ends; a multicast of weights is lost with MEMBER_FAILED, naming a destination not reached. RME_CTRL takes
no value with (RETRIES + 1) x TIMEOUT_US above HOLD_MS x 500. (R326, R333, R341, R343, R350, R352, R357, R358) -/
def Obligations.TransfersInjectRetryAndTimeOut : Prop :=
  ∀ (s : State), s.Canonical →
    (∀ (q : Nat) (x : Xfer), s.quiet.queueTurn = some q → s.quiet.nextXfer q = some x →
      ∃ t, exec (.rmeInject q) s = .next t ∧ t.rme.rr = q ∧ t.mem = s.mem ∧
        t = { s.quiet.injectXfer x with rme := { (s.quiet.injectXfer x).rme with rr := q } } ∧
        t.inject.length = s.inject.length + 1 ∧
        (x.kind ≠ kFanset → (t.inject.getLast?.map fun p => (p.kind, p.dst, p.txn, p.offset, p.total)) =
          some (x.kind, x.dst, x.txn, x.next, x.total))) ∧
    (∀ q : Nat, s.quiet.queueTurn ≠ some q → exec (.rmeInject q) s = .next s.quiet) ∧
    (∀ (txn off : Nat) (x : Xfer) (r : Req), s.xfer? txn = some x → s.stopped = false →
      ((x.reqs.find? fun r => r.offset == off && r.reply.isNone) = some r →
        x.kind ≠ kFanset → r.busyAt = none → r.sentAt + s.rmeTimeout ≤ s.time →
        (s.deviceValid = true → x.ordered = false → r.tries < s.rmeTries →
          exec (.rmeReplyTimeout txn off) s = .next (s.quiet.resendReq x r)) ∧
        (s.deviceValid = true → x.ordered = true ∨ s.rmeTries ≤ r.tries → exec (.rmeReplyTimeout txn off) s =
          .next (s.quiet.lose x r.offset errRemoteTimeout 3 0 x.dst (x.addr + r.offset))) ∧
        (s.deviceValid = false → exec (.rmeReplyTimeout txn off) s =
          .next (s.quiet.lose x r.offset errUnreachable 2 0 x.dst (x.addr + r.offset)))) ∧
      ((x.reqs.find? fun r => r.offset == off) = some r → s.deviceValid = true →
        ∀ b, r.busyAt = some b → b + 1000 ≤ s.time → ∃ t, exec (.busyResend txn off) s = .next t ∧
          t.inject.length = s.inject.length + 1 ∧
          (t.inject.getLast?.map fun p => (p.kind, p.dst, p.txn, p.offset)) =
            some (if r.tries = 0 then x.kind else retryKind x.kind, x.dst, x.txn, off) ∧
          t.reg regRmeBusy = (s.reg regRmeBusy + 1) % 2 ^ 64 ∧ t.mem = s.mem ∧ t.tasks = s.tasks)) ∧
    (∀ (q : Nat) (x : Xfer) (t : Task), ((s.xfersOf q).filter fun x => x.kind == kFanset).find?
        (fun x => !x.dests.all (·.2.2)) = some x →
      (∀ y ∈ (s.xfersOf q).filter fun x => x.kind == kFanset, y.total ≤ y.next ∧
        y.lastSent + s.rmeTimeout * (s.rmeTries + 1) ≤ s.time) →
      (x.exch = false → s.task? q = some t → t.phase = .running → exec (.mstoreTimeout q) s = .next (s.quiet.endMstore t)) ∧
      (x.exch = true → ∃ d, d ∈ x.dests ∧ d.2.2 = false ∧
        exec (.mstoreTimeout q) s = .next (s.quiet.lose x 0 errMemberFailed 6 0 d.1 0))) ∧
    (∀ v : Word, s.ready = true → s.halted 12 = true →
      (max 1 (getBits v.toNat 63 48) * 500 < (getBits v.toNat 31 28 + 1) * max 1 (getBits v.toNat 47 32) →
        ∃ t, exec (.rmeCtrlWrite v) s = .next t ∧ t.bit regRmeStatus 3 = true ∧ s.OnlyRegs t [regRmeStatus]) ∧
      ((getBits v.toNat 31 28 + 1) * max 1 (getBits v.toNat 47 32) ≤ max 1 (getBits v.toNat 63 48) * 500 →
        ∃ t, exec (.rmeCtrlWrite v) s = .next t ∧ t.fld regRmeCtrl 63 28 = getBits v.toNat 63 28 ∧
          t.bit regRmeCtrl 0 = bitOf v.toNat 0 ∧ s.OnlyRegs t [regRmeCtrl]))

/-- A collective whose input is still missing TIMEOUT_US after its first aborts with COLL_TIMEOUT and names the device
of the missing input; one whose results stopped ends its task with MEMBER_FAILED. At the root the closing ends without
the DONE packets that are missing TIMEOUT_US after the first. An exchange aborts with COLL_TIMEOUT when a count header
is missing TIMEOUT_US after its entry. While the Collective Unit is halted a write of a word of COL_GROUP(g) stores
its fields and clears the group's count. (R370, R380, R384, R389, R392, R395) -/
def Obligations.CollectivesTimeOutAndGroupsAreWritten : Prop :=
  ∀ (s : State) (g : Nat), s.Canonical →
    (∀ c, s.col.colls.find? (fun c => c.group == g && c.aborted == 0 && (s.quiet.timeoutColl c).isSome) = some c →
      (∀ i, s.missingInput c = some i → exec (.collectiveTimeout g) s = .next ((s.quiet.abortColl c errCollTimeout
        (if i = 24 then s.deviceId else if i = 25 then s.grpPrev c.group else s.peerDevice i) true 99).addReg
          regColTimeouts 1)) ∧
      (s.missingInput c = none → ∃ t u : State, exec (.collectiveTimeout g) s = .next t ∧
        u = (s.quiet.abortTask c errMemberFailed).abortInfo c.group c.cseq errMemberFailed 0 false ∧
        t = (u.setColl { c with taskEnded := true, aborted := errMemberFailed, closed := true, stake := false }).memberRecord
          0)) ∧
    (∀ c, s.col.colls.find? (fun c => c.group == g && c.aborted == 0 && (s.parentPort g).isNone &&
        (c.doneTime.any fun a => decide (a + s.colTimeout ≤ s.time))) = some c →
      exec (.closingTimeout g) s = .next (s.quiet.rootCloses c true)) ∧
    (∀ (q m : Nat) (x : Xchg), s.xchg? q = some x → x.entered = true → x.decided = false → x.aborted = 0 →
      x.entryTime + s.colTimeout ≤ s.time → (x.members.find? fun m => (x.header m).isNone) = some m →
      exec (.xcountTimeout q) s = .next ((s.quiet.abortXchg x errCollTimeout m true).addReg regColTimeouts 1)) ∧
    (∀ (w : Nat) (v : Word), s.ready = true → s.halted 13 = true → 1 ≤ g → g < 4096 → w < 4 →
      let off := [regColGroup g, regColGroupW1 g, regColGroupW2 g, regColGroupW3 g].getD w 0
      let mask := [0, 0xFFFFFFFF00000000, 0x3FFF3FFF3FFF0000, 0xFFFF1FFFFFFF7FFF].getD w 0
      ∃ t, exec (.colGroupWrite g w v) s = .next t ∧ t.reg off = v.toNat &&& mask ∧ t.reg (regColGroupCseq g) = 0 ∧
        s.OnlyRegs t [off, regColGroupCseq g])

/-- A faulty core is fenced: its runs go back on the list, it holds nothing, and it is excluded; its spare takes its
logical number when PATCH_COMPLETE comes, or the number is lost 1 ms after the fault without PATCH_GO while AUTO_PATCH
is 0. A local-store error is counted and poisons its line, and the third of a word within 24 hours fences the core as
well. An engine fault runs the task again when RETRY is set and it is the first, or fences the engine and ends the
task with UNIT_FENCED. A lost island or a Steward watchdog sets FATAL with its alert and leaves no engine at work.
(R422, R425, R426, R427, R429, R430) -/
def Obligations.FaultsFencePatchAndStop : Prop :=
  ∀ (s : State) (k : Nat), s.Canonical →
    (k < 180 → s.stopped = false → bitOf (s.coreMap k) 29 = false → s.coreActive k = true ∨ s.coreSpare k = true →
      (∃ t u : State, exec (.coreFaultDetect k .fault) s = .next t ∧ t = u.loseWaiting k ∧ t = s.quiet.fenceCore k ∧
        u.bit (regCoreMap k) 29 = true ∧ u.bit (regCoreMap k) 30 = false ∧
        u.bit (regRruCoreExclude (k / 64)) (k % 64) = true ∧ u.core k = CoreSt.idle k ∧
        ∀ r ∈ (s.core k).cur.toList ++ (s.core k).next.toList, r ∈ u.runs) ∧
      ∀ w, w < 131072 → ∃ t u : State, exec (.coreFaultDetect k (.localUe w)) s = .next t ∧
        t = (if 2 ≤ (s.rru.localUe.filter fun x => decide (s.time < x.2.2 + dayNs) && (x.1 == k && x.2.1 == w)).length
          then u.fenceCore k else u) ∧
        u.reg (regRruCount 6) = (s.reg (regRruCount 6) + 1) % 2 ^ 64 ∧
        (8 * w < 0xC0000 → s.coreActive k = true → u.poisoned (localBase + 0x100000 * s.fencedLogical k + 8 * w) = true)) ∧
    (k < 180 → (s.rru.patching.any fun x => x.1 == k && (x.2.2 || s.autoPatch)) = true → s.spareOk k = true →
      s.stopped = false → ∃ t u : State, exec (.patchComplete k) s = .next t ∧ t = u.loseWaiting k ∧
        (∀ x ∈ u.rru.patching, x.1 ≠ k) ∧ u.fld (regCoreMap k) 7 0 = 0xFF ∧
        (k ≠ spareOf k → u.coreMap (spareOf k) = 2 ^ 30 + s.fencedLogical k)) ∧
    (∀ v : Word, s.ready = true → ∃ t, exec (.patchGo v) s = .next t ∧ t.reg regRruPatch = getBits v.toNat 7 0 ∧
      (bitOf v.toNat 31 = true → ∀ x ∈ t.rru.patching, x.1 = getBits v.toNat 7 0 → x.2.2 = true) ∧
      (bitOf v.toNat 31 = false → t.rru = s.rru) ∧ s.OnlyRegs { t with rru := s.rru } [regRruPatch]) ∧
    ((s.rru.patching.any fun x => x.1 == k && !x.2.2 && decide (x.2.1 + 1000000 ≤ s.time)) = true → s.autoPatch = false →
      exec (.patchWaitTimeout k) s = .next (s.quiet.loseCore k)) ∧
    (∀ t : Task, k ∈ [2, 3, 4, 6, 8] → s.stopped = false → s.taskOn k = some t →
      (s.bit regRruCtrl 2 = true → t.faults = 0 → ∃ u, exec (.engineFaultDetect k) s = .next u ∧
        u.tasks = s.tasks.map (fun x => if x.seq = t.seq then { x with faults := x.faults + 1 } else x) ∧
        u.reg (regRruCount 8) = (s.reg (regRruCount 8) + 1) % 2 ^ 64) ∧
      (s.bit regRruCtrl 2 = false ∨ t.faults ≠ 0 → ∃ u z : State, exec (.engineFaultDetect k) s = .next z ∧
        u.bit regRruEngineFence k = true ∧ (∃ x ∈ z.tasks, x.seq = t.seq ∧ x.phase = .ended ∧ x.err = errUnitFenced) ∧
        z = u.fencedTask t ∧ z.xfersOf t.seq = [] ∧ z.xchg? t.seq = none)) ∧
    (let stops (c : Instr) : Prop := ∃ t, exec c s = .next t ∧ t.fatal = true ∧ t.bit regStwAlert 1 = true ∧
        t.alertLow = true ∧ t.cores = [] ∧ t.runs = [] ∧ t.rme.xfers = [] ∧ t.col.colls = []
     (k < 40 → s.bit regGlbIslands k = true → stops (.islandLost k)) ∧
     (s.bit regGlbIslands 38 = true → stops (.stewardWatchdog k)))

/-- TRIG_GO on a quiet device with room for the record starts a trig point and clears DONE and SIGNED; otherwise it
sets TRIG_REJECT. TRIG_COMPLETE raises the count and sets DONE; TRIG_SIGNED, when a trig record's signature is in the
making, stores that of the oldest record without one and sets SIGNED for the last record; each with interrupt vector
71. DIGEST_REQ of a valid region clears DONE and starts, and its end stores the four digest words and sets DONE.
(R434, R435, R436, R442, R481) -/
def Obligations.TrigPointsAndDigestsAreTaken : Prop :=
  ∀ (s : State), s.Canonical →
    (∀ full, s.ready = true → (s.rru.trig.any fun t => !t.signing) = false →
      let z := s.quiet.setBit regRruTrigCtrl 1 full
      let pages := if full then z.trackedPages else z.trackedPages.filter z.rru.dirty.contains
      let ok : Prop := z.quietDevice = true ∧ trigSig pages.length + sigLen256f ≤ s.reg regRruTrigSize ∧ s.stopped = false
      (ok → ∃ t, exec (.trigGo full) s = .next t ∧ (∃ g, t.rru.trig = some g ∧ g.pages = pages ∧ g.signing = false) ∧
        t.bit regRruTrigCtrl 2 = false ∧ t.bit regRruTrigCtrl 3 = false ∧ t.mem = s.mem ∧ t.tasks = s.tasks ∧
        ∀ p ∈ pages, p ∉ t.rru.dirty) ∧
      (¬ ok → ∃ t, exec (.trigGo full) s = .next t ∧ t.bit regRruStatus 4 = true ∧
        s.OnlyRegs t [regRruTrigCtrl, regRruStatus])) ∧
    (∀ g : Trig, s.rru.trig = some g → s.stopped = false →
      (g.signing = false → ∃ t, exec .trigComplete s = .next t ∧
        t.reg regRruTrigCount = (s.reg regRruTrigCount + 1) % 2 ^ 64 ∧ t.bit regRruTrigCtrl 2 = true ∧
        t.bit (regOdlIrqPending 1) 7 = true ∧ ∃ h, t.rru.trig = some h ∧ h.signing = true ∧ h.pages = g.pages) ∧
      (g.signing = true → s.signerNow = some .trig → s.rru.unsigned = [] → ∃ t, exec .trigSigned s = .next t ∧
        t.mem = (s.quiet.signTrig g).mem ∧ t.bit regRruTrigCtrl 3 = true ∧ t.bit (regOdlIrqPending 1) 7 = true ∧
        t.rru.trig = none)) ∧
    (∀ (g : Trig) (rest : List Trig), s.rru.unsigned = g :: rest → s.signerNow = some .trig → s.stopped = false →
      ∃ t, exec .trigSigned s = .next t ∧ t.mem = (s.quiet.signTrig g).mem ∧ t.rru.unsigned = rest ∧
        t.rru.trig = s.rru.trig ∧ t.bit regRruTrigCtrl 3 = s.bit regRruTrigCtrl 3 ∧ t.bit (regOdlIrqPending 1) 7 = true) ∧
    (∀ r, s.ready = true → r < 256 → ∃ t, exec (.digestReqGo r) s = .next t ∧ t.fld regRruDigestReq 7 0 = r ∧
      (s.regionValid r = true → t.rru.digesting = some r ∧ t.bit regRruDigestReq 30 = false) ∧
      (s.regionValid r = false → t.rru.digesting = s.rru.digesting) ∧ t.mem = s.mem ∧
      ∀ o, o ≠ regRruDigestReq → t.reg o = s.reg o) ∧
    (∀ r, s.rru.digesting = some r → (s.pubs.any fun b => b.step == 1) = false → s.stopped = false →
      ∃ t, exec .regionDigestComplete s = .next t ∧ t.rru.digesting = none ∧ t.bit regRruDigestReq 30 = true ∧
        (∀ i, i < 4 → t.reg (regRruDigestOut i) =
          leNat (slice (s.imageDigest (s.regionFirst r) (s.regionPages r)) (8 * i) 8)) ∧ t.mem = s.mem ∧ t.tasks = s.tasks)

/-- A quench sets QUENCHED, its alert and vector 69 and stops acceptance and issue; once the engines have stopped and
the segments are signed its alert goes and every port is down or failed. A sample after 50 us below 33 V that is below
it too stops the stage. Readings appear in PWR_INPUT and PWR_TEMP, of the base dies the highest, and a change of the
thermal level raises vector 74; a junction at 115 C or a base die at 105 C trips the device. 10 us above 1,700 W gate.
A rail moves by one step within five of its fuse trim. (R444, R445, R446, R450, R457, R458) -/
def Obligations.PowerSamplesQuenchesAndTrips : Prop :=
  ∀ (s : State), s.Canonical →
    (s.ready = true → s.bit regPwrStatus 9 = false → s.bit regPwrStatus 10 = false →
      ∃ t, exec .pwrQuenchWrite s = .next t ∧ t.power.quenching = true ∧ t.stopped = true ∧ t.bit regPwrStatus 9 = true ∧
        t.bit regStwAlert 2 = true ∧ t.bit (regOdlIrqPending 1) 5 = true ∧ t.tasks = s.tasks) ∧
    (s.ready = true → s.bit regPwrStatus 9 = true ∨ s.bit regPwrStatus 10 = true →
      exec .pwrQuenchWrite s = .next s.quiet) ∧
    (s.power.quenching = true → s.power.stopped = false → ∃ t, exec .quenchTasksStopped s = .next t ∧ t = s.quiet.quenchStop ∧
      t.power.stopped = true ∧ t.rru.trig = none ∧ t.cores = [] ∧ t.rme.xfers = [] ∧ t.col.colls = []) ∧
    (s.power.stopped = true → s.quenchOver = false →
      s.journal.signing = [] ∨ s.jsigFree = false ∨ s.bit regRruStatus 8 = true →
      (s.vin.surgeStop = false → ∃ t, exec .quenchComplete s = .next t ∧ t.bit regStwAlert 2 = false ∧
        (∀ p, p < 24 → t.portState p = 0 ∨ t.portState p = 4) ∧ t.mem = s.mem ∧ t.tasks = s.tasks) ∧
      (s.vin.surgeStop = true → ∃ t, exec .quenchComplete s = .next t ∧ t.vin.powered = false ∧ t.tasks = [])) ∧
    (∀ mv : Int, (s.vin.powered = true → exec (.vinSample mv) s = .next (s.quiet.vinRunning mv)) ∧
      (s.vin.powered = true → 50 ≤ s.vin.below33 → mv < 33000 →
        ∃ t, exec (.vinSample mv) s = .next t ∧ t.vin.powered = false ∧ t.tasks = [] ∧ t.time = 0) ∧
      (s.vin.powered = false → mv < 40000 → ∃ t, exec (.vinSample mv) s = .next t ∧ t.vin.powered = false ∧
        t.vin.above40 = 0 ∧ t.regs = s.regs ∧ t.mem = s.mem)) ∧
    (∀ w, s.vin.powered = true → ∃ t, exec (.inputPowerSample w) s = .next t ∧
      t.fld regPwrInput 31 16 = min 65535 w ∧ (1700 < w → 9 ≤ s.power.above1700 → t.power.peakGate = true) ∧
      t.mem = s.mem ∧ t.tasks = s.tasks ∧
      ∀ o, o ≠ regPwrInput → o ≠ regPwrPeakEvents → o ≠ regPwrStatus → t.reg o = s.reg o) ∧
    (∀ (j : Nat) (dies : List Nat), s.vin.powered = true → let b := dies.foldl max 0
      ∃ t, exec (.thermalSample j dies) s = .next t ∧ t.fld regPwrTemp 15 0 = min 65535 j ∧
      t.fld regPwrTemp 31 16 = min 65535 b ∧
      (t.power.level ≠ s.power.level → t.bit (regOdlIrqPending 1) 10 = true) ∧
      (s.power.level ≠ 4 → 1150 ≤ j ∨ 1050 ≤ b → t.power.level = 4 ∧ t.thermtripLow = true ∧ t.fatal = true)) ∧
    ∀ (d : Nat) (up : Bool),
      let old : Int := ((s.power.trims.find? fun x => x.1 == d).map (·.2)).getD 0
      let n := if up then old + 1 else old - 1
      (d < 40 → s.bit regGlbIslands d = true → -5 ≤ n → n ≤ 5 → exec (.voltageTrim d up) s = .next { s.quiet with
        power := { s.power with trims := mapPut d (if n = 0 then none else some n) s.power.trims } }) ∧
      (40 ≤ d ∨ s.bit regGlbIslands d = false ∨ n < -5 ∨ 5 < n → exec (.voltageTrim d up) s = .next s.quiet)

/-- Each phase of start-up ends with its row: the stage, the boot ROM, the firmware check, the islands, the stacks,
and the ports, where READY is set. A firmware check that fails sets RECOVERY and notes its result. A full or warm
reset of a ready device that has not tripped begins start-up again: no task is left, READY is 0, GLB_TIME goes on, its
kind is noted, and with no darning and nothing dirty in the window HBM keeps its bytes. RESET_N acts after 10 us. A
loss of the reference clock after phase 2 stops the device. (R461, R462, R464, R466, R467, R523, R524) -/
def Obligations.StartupAndResets : Prop :=
  ∀ (s : State), s.Canonical →
    (s.vin.powered = true → s.startPhase = 1 → s.startup.stageDone = false →
      ∃ t, exec .startupStageDone s = .next t ∧ t.startup.stageDone = true ∧
        t.startPhase = if s.startup.resetLow then 1 else 2) ∧
    (s.startsUp 2 = true → ∃ t, exec .startupRomDone s = .next t ∧ t.startPhase = 3 ∧ t.startup.porActive = false ∧
      t.reg regGlbIslands = 2 ^ 38 + 2 ^ 39 ∧ t.odlState = 1) ∧
    (∀ readable, s.startsUp 3 = true → s.bit regGlbStartup 30 = false →
      (s.flashCheck readable = 0 → ∃ t, exec (.firmwareVerifyDone readable) s = .next t ∧ t.startPhase = 4 ∧
        t.fld regSecBoot 31 24 = 0 ∧ t.bit regGlbStartup 30 = false) ∧
      (s.flashCheck readable ≠ 0 → ∃ t, exec (.firmwareVerifyDone readable) s = .next t ∧ t.startPhase = 3 ∧
        t.fld regSecBoot 31 28 = s.flashCheck readable ∧ t.bit regGlbStartup 30 = true)) ∧
    (∀ fails, s.startsUp 4 = true → ∃ t, exec (.startupIslandsDone fails) s = .next t ∧ t.startPhase = 5) ∧
    (∀ failed found, s.startsUp 5 = true → ∃ t, exec (.hbmTrainingDone failed found) s = .next t ∧ t.startPhase = 6 ∧
      t.startup.portsAt = s.startup.timer) ∧
    (s.startsUp 6 = true → s.enabledPortsUp = true ∨ s.startup.portsAt + 30000000 ≤ s.startup.timer →
      ∃ t, exec .portsPhaseDone s = .next t ∧ t.startPhase = 7 ∧ t.ready = true ∧ t.bit (regOdlIrqPending 1) 1 = true ∧
        t.mem = s.mem) ∧
    (∀ c kind, (c = .glbResetFull ∧ kind = 1) ∨ (c = .glbResetWarm ∧ kind = 2) → s.reachableRegs = true → s.ready = true →
      s.bit regPwrStatus 10 = false → s.startup.porActive = false →
      ∃ t, exec c s = .next t ∧ t = s.quiet.resetDevice kind ∧ t.tasks = [] ∧ t.ready = false ∧ t.time = s.time ∧
        t.startPhase = (if s.startup.resetLow then 1 else 2) ∧ t.fld regGlbStartup 29 28 = kind ∧
        (s.hbm.darning = none → s.odl.dirty = [] → ∀ a, a < bankBase → mapGet 0 a t.mem = mapGet 0 a s.mem)) ∧
    (∀ ns, (ns < 10000 → exec (.resetNAssert ns) s = .next s.quiet) ∧
      (10000 ≤ ns → s.vin.powered = false → ∃ t, exec (.resetNAssert ns) s = .next t ∧ t.startup.resetLow = true ∧
        t.regs = s.regs ∧ t.mem = s.mem) ∧
      (10000 ≤ ns → s.vin.powered = true → ∃ u : State, u.startup.resetLow = true ∧ u.regs = s.regs ∧ u.mem = s.mem ∧
        exec (.resetNAssert ns) s = .next (u.resetDevice 1))) ∧
    (s.startup.resetLow = true → ∃ t, exec .resetNRelease s = .next t ∧ t.startup.resetLow = false ∧ t.mem = s.mem ∧
      (s.vin.powered = true → s.startup.stageDone = true → s.startPhase = 1 → t.startPhase = 2) ∧
      (s.vin.powered = false ∨ s.startup.stageDone = false ∨ s.startPhase ≠ 1 → t.startPhase = s.startPhase)) ∧
    (s.startup.refclk = true → (s.vin.powered = false ∨ s.startPhase < 2 → ∃ t, exec .refclkLoss s = .next t ∧
        t.startup.refclk = false ∧ t.regs = s.regs ∧ t.mem = s.mem) ∧
      (s.vin.powered = true → 2 ≤ s.startPhase → ∃ t, exec .refclkLoss s = .next t ∧ t.startup.refclk = false ∧
        t.reg regGlbIslands = 0 ∧ t.fatal = true)) ∧
    (s.startup.refclk = false → exec .referenceClockReturn s = .next { s.quiet with
      startup := { s.startup with refclk := true } })

/-- ENTROPY_FAIL follows the health tests. An SVN commit is taken when the running image's SVN is above the fused
minimum and no commit runs, and its completion raises the fused minimum to it. A recovery GO while an image is awaited
streams it, and its check boots it or notes the failure. A flash update programs an image that passes its check, and
sets FLASH_FAILED when the image fails it or does not read back. An attestation GO captures the report at once, and
its completion, in the turn of its signature, writes report and signature and sets DONE. (R474, R476, R478, R479,
R480, R481, R484, R499) -/
def Obligations.SecurityUnitCommands : Prop :=
  ∀ (s : State), s.Canonical →
    (s.reachableRegs = true →
      (∃ t, exec .entropyHealthFail s = .next t ∧ t.bit regSecStatus 7 = true ∧ s.OnlyRegs t [regSecStatus]) ∧
      (∃ t, exec .entropyHealthRecover s = .next t ∧ t.bit regSecStatus 7 = false ∧ s.OnlyRegs t [regSecStatus]) ∧
      (s.sec.svnTarget = none → 4 ≤ s.startPhase → s.sec.svnFuse < s.fld regSecSvn 7 0 →
        ∃ t, exec .svnCommit s = .next t ∧ t.sec = { s.sec with svnTarget := some (s.fld regSecSvn 7 0) } ∧
          t.bit regSecStatus 2 = true ∧ s.OnlyRegs { t with sec := s.sec } [regSecStatus]) ∧
      (s.sec.svnTarget ≠ none ∨ s.startPhase < 4 ∨ s.fld regSecSvn 7 0 ≤ s.sec.svnFuse →
        exec .svnCommit s = .next s.quiet) ∧
      (∀ v : Word, ∃ t, exec (.recoveryGo v) s = .next t ∧
        (bitOf v.toNat 31 = true → s.bit regGlbStartup 30 = true → s.sec.recovery = none →
          t.sec.recovery = some (s.reg regSecRecoverySrc, getBits v.toNat 24 0, bitOf v.toNat 30)) ∧
        (bitOf v.toNat 31 = false ∨ s.bit regGlbStartup 30 = false ∨ s.sec.recovery ≠ none → t.sec = s.sec) ∧
        t.fld regSecRecoveryCtrl 24 0 = getBits v.toNat 24 0 ∧ s.OnlyRegs { t with sec := s.sec } [regSecRecoveryCtrl]) ∧
      (∀ v : Word, ∃ t, exec (.flashUpdateGo v) s = .next t ∧
        (bitOf v.toNat 31 = true → s.sec.flashing = none → t.bit regSecStatus 4 = true ∧
          t.sec.flashing = some (s.reg regSecFlashSrc, getBits v.toNat 24 0)) ∧
        (bitOf v.toNat 31 = false ∨ s.sec.flashing ≠ none → t.sec = s.sec) ∧
        t.reg regSecFlashCtrl = getBits v.toNat 24 0 ∧ s.OnlyRegs { t with sec := s.sec } [regSecFlashCtrl, regSecStatus]) ∧
      (s.sec.attest = none → ∃ t, exec .attestGo s = .next t ∧ t.sec.attest = some (s.reg regSecAttestBase, s.report) ∧
        t.bit regSecStatus 3 = true ∧ t.bit regSecAttestCtrl 30 = false ∧
        s.OnlyRegs { t with sec := s.sec } [regSecStatus, regSecAttestCtrl])) ∧
    (∀ v, s.sec.svnTarget = some v → ∃ t, exec .svnCommitComplete s = .next t ∧ t.sec.svnFuse = v ∧
      t.sec.svnTarget = none ∧ t.bit regSecStatus 2 = false ∧ t.fld regSecSvn 15 8 = v % 256 ∧
      s.OnlyRegs { t with sec := s.sec } [regSecStatus, regSecSvn]) ∧
    (∀ src len wf, s.sec.recovery = some (src, len, wf) → s.startsUp 3 = true → s.sourceReady src = true →
      let u := { s.quiet with sec := { s.sec with recovery := none } }
      let r := if inWindow src len then u.memoryCheck src len else 1
      (r = 0 → ∃ t, exec .recoveryCheckComplete s = .next t ∧ t.startPhase = 4 ∧ t.fld regSecBoot 27 24 = 1 ∧
        t.sec.flashing = if wf = true ∧ s.sec.flashing = none then some (src, len) else s.sec.flashing) ∧
      (r ≠ 0 → ∃ t, exec .recoveryCheckComplete s = .next t ∧ t.startPhase = 3 ∧ t.fld regSecBoot 31 28 = r ∧
        t.sec = u.sec ∧ s.OnlyRegs { t with sec := s.sec } [regSecBoot])) ∧
    (∀ src len ok, s.sec.flashing = some (src, len) → s.sourceReady src = true →
      ∃ t, exec (.flashUpdateComplete ok) s = .next t ∧ t.sec.flashing = none ∧ t.bit regSecStatus 4 = false ∧
        t.bit (regOdlIrqPending 1) 8 = true ∧
        (s.memoryCheck src len = 0 → ok = true →
          t.sec.flash = programFlash s.sec.flash (s.rdBytes src (imgLength (s.rdBytes src 4096))) ∧
          t.bit regSecStatus 5 = s.bit regSecStatus 5) ∧
        (s.memoryCheck src len = 0 → ok = false →
          t.sec.flash = brokenFlash s.sec.flash ∧ t.bit regSecStatus 5 = true) ∧
        (s.memoryCheck src len ≠ 0 → t.sec.flash = s.sec.flash ∧ t.bit regSecStatus 5 = true) ∧
        s.OnlyRegs { t with sec := s.sec } [regSecStatus, regOdlIrqPending 1]) ∧
    (∀ base report, s.sec.attest = some (base, report) → s.ready = true → s.signerNow = some .attest →
      s.fatal = false → s.quenchOver = false →
      ∃ (t u : State) (sig : List Byte), exec .attestComplete s = .next t ∧ s.quiet.identitySign ctxAtt report = (sig, u) ∧
        t.mem = (u.putBytes base (report ++ sig)).mem ∧ t.bit regSecAttestCtrl 30 = true ∧ t.bit regSecStatus 3 = false ∧
        t.sec.attest = none ∧ t.bit (regOdlIrqPending 1) 6 = true)

/-- A flit that arrives intact is taken when it is the next in order, and frees the flits that it acknowledges; one
that is damaged is asked for again. A link that goes down trains; it comes up with all lanes of either half, DEGRADED
with one, and the third training in a row that fails makes it FAILED. A vector that is pending, unmasked and has not
been sent is sent once the link carries it, and not again until its pending bit is cleared. A companion without
heartbeats for HB_MS, or with the link down for more than 10 ms, is lost, and its loss time noted; a heartbeat finds
it again. ODL_CW_BASE moves before READY, or while the Command Engine is halted without tasks, when every dirty line
has gone back. (R491, R492, R493, R494, R495, R496, R500, R502, R504, R513) -/
def Obligations.CompanionLinkAndInterrupts : Prop :=
  ∀ (s : State), s.Canonical →
    (s.linkUp = true →
      (∀ f : Flit, (flitOk f = true → ∃ t, exec (.odlFlitReceive f) s = .next t ∧
          t.odl.replay = (s.odl.replay.filter fun r => decide (f.ack ≤ r.1)) ∧
          (f.num = s.odl.rxSeq → t.odl.rxSeq = s.odl.rxSeq + 1 ∧ t.odl.taken = s.odl.taken ++ [f.payload]) ∧
          (f.num ≠ s.odl.rxSeq → t.odl.rxSeq = s.odl.rxSeq ∧ t.odl.taken = s.odl.taken) ∧ t.regs = s.regs ∧ t.mem = s.mem) ∧
        (flitOk f = false → ∃ t, exec (.odlFlitReceive f) s = .next t ∧ t.odl.rxSeq = s.odl.rxSeq ∧
          t.odl.taken = s.odl.taken ∧ Out.replayRequest s.odl.rxSeq ∈ t.out ∧ t.mem = s.mem ∧
          t.reg regOdlReplays = (s.reg regOdlReplays + 1) % 2 ^ 64)) ∧
      (∀ n, (∃ r ∈ s.odl.replay, r.1 = n) →
        ((∃ r ∈ s.odl.replay, n ≤ r.1 ∧ 4 ≤ r.2.2) → exec (.odlReplayRequest n) s = .next s.quiet.odlDown) ∧
        ((∀ r ∈ s.odl.replay, n ≤ r.1 → r.2.2 < 4) → ∃ t, exec (.odlReplayRequest n) s = .next t ∧
          (∀ r ∈ s.odl.replay, n ≤ r.1 → Out.flit r.2.1 ∈ t.out) ∧ t.mem = s.mem)) ∧
      (∃ t, exec .odlLinkDown s = .next t ∧ t.odlState = 1 ∧ t.mem = s.mem ∧ ∀ o, o ≠ regOdlStatus → t.reg o = s.reg o) ∧
      (∀ a n, s.flitRoom = true → a + n ≤ windowBase → ∃ t, exec (.companionMemoryRead a n) s = .next t ∧
        ((∀ i, i < n → s.memoryRuns (a + i) = true) → ∃ bad, Out.bytes (s.rdBytes a n) bad ∈ t.out ∧
          ∀ l ∈ linesOf a n, l ∈ bad ↔ s.poisoned (max a (64 * l)) = true) ∧ t.mem = s.mem ∧ t.regs = s.regs) ∧
      (∀ (a : Nat) (d : List Byte), a + d.length ≤ windowBase → exec (.companionMemoryWrite a d) s =
        .next ((linePieces (d.length / 64 + 2) a d).foldl (fun z p => z.companionPut p.1 p.2) s.quiet)) ∧
      (∀ v, v < 128 → s.flitRoom = true → s.canSignal v = true → ∃ t, exec (.irqMessage v) s = .next t ∧
        Out.message v ∈ t.out ∧ t.canSignal v = false ∧ t.irqPending v = true ∧ t.regs = s.regs ∧ t.mem = s.mem)) ∧
    (∀ lanes : BitVec 16, s.vin.powered = true → s.odlState = 1 →
      (lowHalf lanes = true ∨ highHalf lanes = true → ∃ t, exec (.odlRetrainComplete lanes) s = .next t ∧ t.odlState = 2 ∧
        t.bit regOdlStatus 1 = (!(lowHalf lanes && highHalf lanes)) ∧ t.companionLost = false ∧ t.odl.downSince = none) ∧
      (lowHalf lanes = false → highHalf lanes = false → ∃ t, exec (.odlRetrainComplete lanes) s = .next t ∧
        t.odlState = (if 2 ≤ s.odl.failed then 3 else 1) ∧ t.odl.failed = s.odl.failed + 1)) ∧
    (∀ off, off < 0x100000000 → s.heldLines (windowBase + off / 64 * 64) 64 = [] ∨ s.linkUp = true →
      let u := s.quiet.takeBack (windowBase + off / 64 * 64) 64
      exec (.companionWindowAccess off none) s = .next (u.emit (.bytes (u.rdBytes (windowBase + off / 64 * 64) 64) []))) ∧
    (∀ (off : Nat) (d : List Byte), off < 0x100000000 → off + d.length ≤ 0x100000000 →
      s.heldLines (windowBase + off) d.length = [] ∨ s.linkUp = true →
      ∃ t, exec (.companionWindowAccess off (some d)) s = .next t ∧ t.regs = s.regs ∧
        t.mem = memPutAll (s.quiet.takeBack (windowBase + off) d.length).mem (s.memKey (windowBase + off)) d) ∧
    (∀ (half : Nat) (m : Word), s.reachableRegs = true → half < 2 → ∃ t, exec (.irqPendingClear half m) s = .next t ∧
      (∀ i, i < 64 → t.irqPending (64 * half + i) = (s.irqPending (64 * half + i) && !bitOf m.toNat i)) ∧
      (∀ i, i < 64 → bitOf m.toNat i = true → 64 * half + i ∉ t.odl.sent) ∧
      s.OnlyRegs { t with odl := s.odl } [regOdlIrqPending half]) ∧
    (∀ v : Word, s.reachableRegs = true → ∃ t, exec (.heartbeat v) s = .next t ∧ t.odl.lastBeat = s.time ∧
      t.reg regOdlHeartbeat = (s.reg regOdlHeartbeat + 1) % 2 ^ 32 ∧ (s.linkUp = true → t.companionLost = false)) ∧
    (s.companionLost = false →
      (s.reachableRegs = true → s.fld regOdlCtrl 31 16 ≠ 0 →
        s.odl.lastBeat + 1000000 * s.fld regOdlCtrl 31 16 ≤ s.time →
        ∃ t, exec .heartbeatTimeout s = .next t ∧ t.companionLost = true ∧ t.reg regOdlLossTime = s.time % 2 ^ 64) ∧
      (∀ d, s.odl.downSince = some d → d + 10000000 < s.time → ∃ t, exec .linkDownTimeout s = .next t ∧
        t.companionLost = true ∧ t.bit regOdlStatus 2 = true ∧ t.reg regOdlLossTime = s.time % 2 ^ 64)) ∧
    (∀ v : Word, s.reachableRegs = true →
      (s.ready = false ∨ (s.halted 0 = true ∧ s.tasks = []) → ∃ t, exec (.cwBaseWrite v) s = .next t ∧
        t.reg regOdlCwBase = v.toNat / 2 ^ 32 * 2 ^ 32 ∧ t.odl.dirtyLines = [] ∧ ∀ o, o ≠ regOdlCwBase → t.reg o = s.reg o) ∧
      (s.ready = true → s.halted 0 = false ∨ s.tasks ≠ [] → ∃ t, exec (.cwBaseWrite v) s = .next t ∧
        t.bit regOdlStatus 4 = true ∧ s.OnlyRegs t [regOdlStatus]))

/-- ENTDAA and SETDASA give the I3C target an address, RSTDAA takes it; an addressed target answers its identity, its
status and register reads, and takes the board's writes. RSTACT with 01h or 02h resets the device. The PMBus stage
takes readings that agree with PWR_INPUT, answers its codes from the last of them and refuses every other with a
communication fault; CLEAR_FAULTS keeps what still holds. A JTAG instruction comes into force and shifts its bits out.
Each leaves registers, memory and tasks as they were, apart from the resets and writes named. ALERT_N is low while a
bit of STW_ALERT is set. The PMBus bit places are presumed (log entry 23). (R505, R506, R507, R508, R509, R510, R511,
R512, Log entry 23) -/
def Obligations.ManagementInterfacesAnswer : Prop :=
  ∀ (s : State),
    let m := s.mgmt
    let mg (x : Mgmt) : State := { s.quiet with mgmt := x }
    let answers (o : Out) : State := s.quiet.emit o
    let shifts (n : Nat) (bits : List Bool) (x : Mgmt) : State :=
      { s with mgmt := { x with jtag := n, driving := decide (3 ≤ n) && s.startup.resetLow }, out := [.jtag bits] }
    (s.alertLow = true ↔ ∃ i, i < 64 ∧ s.bit regStwAlert i = true) ∧
    (s.reachableRegs = true →
      (∀ a, m.dynAddr = none → exec (.entdaa a) s = .next ((mg { m with dynAddr := some a }).emit
          (.i3c (beBytes 6 provisionalId ++ [Config.bcr, Config.dcr]))) ∧
        exec (.setdasa a) s = .next (mg { m with dynAddr := some a })) ∧
      exec .rstdaa s = .next (mg { m with dynAddr := none }) ∧
      (∀ e : Byte, exec (.enec e) s = .next (mg { m with ibiOn := m.ibiOn || (e.toNat % 2 == 1) }) ∧
        exec (.disec e) s = .next (mg { m with ibiOn := m.ibiOn && !(e.toNat % 2 == 1) })) ∧
      exec (.rstact 0x01) s = .next (s.quiet.resetDevice 1) ∧ exec (.rstact 0x02) s = .next (s.quiet.resetDevice 1) ∧
      exec (.rstact 0x00) s = .next s.quiet ∧
      (∀ d : Byte, d ≠ 0 → d ≠ 1 → d ≠ 2 → exec (.rstact d) s = .next (answers .nack)) ∧
      (m.dynAddr.isSome = true → exec .getpid s = .next (answers (.i3c (beBytes 6 provisionalId))) ∧
        exec .getbcr s = .next (answers (.i3c [Config.bcr])) ∧ exec .getdcr s = .next (answers (.i3c [Config.dcr])) ∧
        (∃ b, exec .getstatus s = .next ((mg { m with statuses := m.statuses + 1 }).emit (.i3c b)) ∧ b.length = 2) ∧
        (∀ off, exec (.i3cOffsetWrite off) s = .next (mg { m with offset := off.toNat })) ∧
        exec .i3cPrivateRead s = .next ((s.quiet.read32 m.offset).2.emit (.i3c (leBytes 4 (s.quiet.read32 m.offset).1))) ∧
        ∀ off v, exec (.i3cDataWrite off v) s = .next ((mg { m with offset := off.toNat }).i3cWrite off.toNat v.toNat) ∧
          (off.toNat ≠ regGlbReset → off.toNat ≠ regPwrCtrl → off.toNat ≠ regStwAlert →
            exec (.i3cDataWrite off v) s = .next (mg { m with offset := off.toNat })))) ∧
    (s.vin.powered = true → 3 ≤ s.startPhase → let r := m.readings
      exec .clearFaults s = .next (mg { m with
        commFault := false, uvFault := m.uvFault && decide (r.vin < 40000), ovFault := m.ovFault && decide (60000 < r.vin) }) ∧
      (∃ o t, exec .statusWord s = .next ({ answers (.pmbus (leBytes 2 (m.statusWord o t))) with free := s.free + 1 })) ∧
      exec .statusInput s = .next (answers (.pmbus (leBytes 1 m.statusInput))) ∧
      exec .readVin s = .next (answers (.pmbus (leBytes 2 (linear11 r.vin 1000)))) ∧
      exec .readIin s = .next (answers (.pmbus (leBytes 2 (linear11 r.iin 1000)))) ∧
      exec .readVout s = .next (answers (.pmbus (leBytes 2 (min 0xFFFF ((r.vout * 4096 + 500) / 1000))))) ∧
      exec .readIout s = .next (answers (.pmbus (leBytes 2 (linear11 r.iout 1000)))) ∧
      exec .readTemperature1 s = .next (answers (.pmbus (leBytes 2 (linear11 r.temp 10)))) ∧
      exec .readPout s = .next (answers (.pmbus (leBytes 2 (linear11 r.pout 1000)))) ∧
      exec .readPin s = .next (answers (.pmbus (leBytes 2 (linear11 r.pin 1000)))) ∧
      exec .pmbusRevision s = .next (answers (.pmbus [0x33])) ∧
      exec .mfrId s = .next (answers (.pmbus [8, 72, 69, 82, 85, 65, 78, 75, 79])) ∧
      ∀ c : Byte, c.toNat ∉ pmbusCodes →
        exec (.pmbusUnsupported c) s = .next ((mg { m with commFault := true }).emit .nack)) ∧
    (s.vin.powered = true →
      (∀ r : Readings, (s.readingsOk r = true → exec (.pmbusReadingUpdate r) s = .next (mg { m with
        readings := r, uvFault := m.uvFault || decide (r.vin < 40000), ovFault := m.ovFault || decide (60000 < r.vin) })) ∧
        (s.readingsOk r = false → exec (.pmbusReadingUpdate r) s = .next s.quiet)) ∧
      exec .bypass s = .next (shifts 1 [false] m) ∧
      exec .idcode s = .next (shifts 0 ((List.range 32).map fun i => bitOf (idcode s.variant) i) m) ∧
      (∀ bits pins, exec (.samplePreload bits pins) s = .next (shifts 2 pins { m with boundary := bits })) ∧
      exec .extest s = .next (shifts 3 [] m) ∧ exec .extestPulse s = .next (shifts 4 [] m) ∧
      exec .extestTrain s = .next (shifts 5 [] m) ∧ exec .clamp s = .next (shifts 6 [] m) ∧
      exec .highz s = .next (shifts 7 [] m))
end

