-- ==== Sys2Proof/Laws/Maps.lean ====
section
/-! SUPPORT. Laws of the sorted sparse maps that hold memory and registers: every operation keeps the canonical form,
a key reads as it was last set, and every other key reads as before. -/

set_option Elab.async false

namespace Sys2Proof.Machine

open Sys2Proof

/-! ### `mapPut` -/

theorem mem_mapPut {α : Type} {k : Nat} {v : Option α} {m : List (Nat × α)} {c : Nat × α} (h : c ∈ mapPut k v m) :
    (v = some c.2 ∧ k = c.1) ∨ c ∈ m := by
  induction m with
  | nil => cases v <;> simp_all [mapPut]
  | cons x xs ih =>
    obtain ⟨k', v'⟩ := x
    unfold mapPut at h
    split at h
    · cases v <;> simp_all
      rcases h with h | h | h
      · subst h; simp
      · exact .inr (.inl h)
      · exact .inr (.inr h)
    · split at h
      · cases v <;> simp_all
        rcases h with h | h
        · subst h; simp
        · exact .inr (.inr h)
      · rcases List.mem_cons.mp h with h | h
        · exact .inr (by simp [h])
        · rcases ih h with h | h
          · exact .inl h
          · exact .inr (by simp [h])

theorem mapPut_rising {α : Type} {k : Nat} {v : Option α} {m : List (Nat × α)} (h : Rising m) :
    Rising (mapPut k v m) := by
  induction m with
  | nil => cases v <;> simp [mapPut]
  | cons x xs ih =>
    obtain ⟨k', v'⟩ := x
    have h' := List.pairwise_cons.mp h
    unfold mapPut
    split
    · rename_i lt
      cases v
      · exact h
      · refine List.pairwise_cons.mpr ⟨fun y hy => ?_, h⟩
        rcases List.mem_cons.mp hy with rfl | hy
        · exact lt
        · exact lt_trans lt (h'.1 y hy)
    · split
      · rename_i _ he
        subst he
        cases v
        · exact h'.2
        · exact List.pairwise_cons.mpr ⟨fun y hy => h'.1 y hy, h'.2⟩
      · rename_i n1 n2
        refine List.pairwise_cons.mpr ⟨fun y hy => ?_, ih h'.2⟩
        rcases mem_mapPut hy with ⟨-, e⟩ | hy
        · simp only; omega
        · exact h'.1 y hy

theorem mapGet_of_not_mem {α : Type} {d : α} {k : Nat} {m : List (Nat × α)} (h : ∀ c ∈ m, c.1 ≠ k) :
    mapGet d k m = d := by
  induction m with
  | nil => rfl
  | cons x xs ih =>
    obtain ⟨k', v'⟩ := x
    have : k ≠ k' := fun e => h (k', v') (by simp) e.symm
    simp only [mapGet, this, if_false]
    exact ih fun c hc => h c (by simp [hc])

/-- A key reads as it was last set. -/
theorem mapGet_mapPut_same {α : Type} {d : α} {k : Nat} {v : Option α} {m : List (Nat × α)} (h : Rising m) :
    mapGet d k (mapPut k v m) = v.getD d := by
  induction m with
  | nil => cases v <;> simp [mapPut, mapGet]
  | cons x xs ih =>
    obtain ⟨k', v'⟩ := x
    have h' := List.pairwise_cons.mp h
    unfold mapPut
    split
    · rename_i lt
      cases v
      · refine mapGet_of_not_mem fun c hc => ?_
        rcases List.mem_cons.mp hc with rfl | hc
        · exact (ne_of_lt lt).symm
        · exact (ne_of_lt (lt_trans lt (h'.1 c hc))).symm
      · simp [mapGet]
    · split
      · rename_i _ he
        subst he
        cases v
        · exact mapGet_of_not_mem fun c hc => (ne_of_lt (h'.1 c hc)).symm
        · simp [mapGet]
      · rename_i _ ne
        simp only [mapGet, ne, if_false]
        exact ih h'.2

/-- Every other key reads as before. -/
theorem mapGet_mapPut_other {α : Type} {d : α} {j k : Nat} {v : Option α} {m : List (Nat × α)} (hj : j ≠ k) :
    mapGet d j (mapPut k v m) = mapGet d j m := by
  induction m with
  | nil => cases v <;> simp [mapPut, mapGet, hj]
  | cons x xs ih =>
    obtain ⟨k', v'⟩ := x
    unfold mapPut
    split
    · cases v <;> simp [mapGet, hj]
    · split
      · rename_i _ he
        subst he
        cases v <;> simp [mapGet, hj]
      · simp only [mapGet, ih]

/-! ### Memory -/

theorem memPut_wf {m : List Host.Cell} {a : Nat} {b : Byte} (h : Memory.wf m) : Memory.wf (memPut m a b) := by
  refine ⟨mapPut_rising h.1, fun c hc => ?_⟩
  rcases mem_mapPut hc with ⟨hv, -⟩ | hc
  · intro e; split at hv <;> simp_all
  · exact h.2 c hc

theorem memPutAll_wf {bs : List Byte} {m : List Host.Cell} {a : Nat} (h : Memory.wf m) :
    Memory.wf (memPutAll m a bs) := by
  induction bs generalizing m a with
  | nil => exact h
  | cons b bs ih => exact ih (memPut_wf h)

theorem filter_wf {p : Host.Cell → Bool} {m : List Host.Cell} (h : Memory.wf m) : Memory.wf (m.filter p) :=
  ⟨h.1.filter _, fun c hc => h.2 c (List.mem_filter.mp hc).1⟩

theorem foldl_memPut_wf {α : Type} {l : List α} {key : α → Nat} {byte : α → Byte} {m : List Host.Cell}
    (h : Memory.wf m) : Memory.wf (l.foldl (fun m c => memPut m (key c) (byte c)) m) := by
  induction l generalizing m with
  | nil => exact h
  | cons c cs ih => exact ih (memPut_wf h)

theorem mapGet_memPut_same {m : List Host.Cell} {a : Nat} {b : Byte} (h : Rising m) :
    mapGet 0 a (memPut m a b) = b := by
  unfold memPut
  rw [mapGet_mapPut_same h]
  split <;> simp_all

theorem mapGet_memPut_other {m : List Host.Cell} {a j : Nat} {b : Byte} (hj : j ≠ a) :
    mapGet 0 j (memPut m a b) = mapGet 0 j m := mapGet_mapPut_other hj

/-- Bytes outside the stored ones read as before. -/
theorem mapGet_memPutAll_other {bs : List Byte} {m : List Host.Cell} {a j : Nat} (hj : j < a ∨ a + bs.length ≤ j) :
    mapGet 0 j (memPutAll m a bs) = mapGet 0 j m := by
  induction bs generalizing m a with
  | nil => rfl
  | cons b bs ih =>
    simp only [List.length_cons] at hj
    rw [memPutAll, ih (by omega), mapGet_memPut_other (by omega)]

/-- The stored bytes read back. -/
theorem mapGet_memPutAll_same {bs : List Byte} {m : List Host.Cell} {a j : Nat} (h : Memory.wf m) (h1 : a ≤ j)
    (h2 : j < a + bs.length) : mapGet 0 j (memPutAll m a bs) = bs.getD (j - a) 0 := by
  induction bs generalizing m a with
  | nil => simp only [List.length_nil] at h2; omega
  | cons b bs ih =>
    simp only [List.length_cons] at h2
    rcases Nat.eq_or_lt_of_le h1 with rfl | h1
    · rw [memPutAll, mapGet_memPutAll_other (by omega), mapGet_memPut_same h.1]
      simp
    · rw [memPutAll, ih (memPut_wf h) h1 (by omega), show j - a = (j - (a + 1)) + 1 by omega]
      simp

/-! ### Ascending lists -/

theorem mem_setInsert {k x : Nat} {l : List Nat} (h : x ∈ setInsert k l) : x = k ∨ x ∈ l := by
  induction l with
  | nil => simpa [setInsert] using h
  | cons a l ih =>
    unfold setInsert at h
    split at h
    · simpa using h
    · split at h
      · exact .inr h
      · rcases List.mem_cons.mp h with h | h
        · exact .inr (by simp [h])
        · rcases ih h with h | h
          · exact .inl h
          · exact .inr (by simp [h])

theorem setInsert_ascending {k : Nat} {l : List Nat} (h : l.Pairwise (· < ·)) : (setInsert k l).Pairwise (· < ·) := by
  induction l with
  | nil => simp [setInsert]
  | cons a l ih =>
    have h' := List.pairwise_cons.mp h
    unfold setInsert
    split
    · rename_i lt
      refine List.pairwise_cons.mpr ⟨fun y hy => ?_, h⟩
      rcases List.mem_cons.mp hy with rfl | hy
      · exact lt
      · exact lt_trans lt (h'.1 y hy)
    · split
      · exact h
      · rename_i n1 n2
        refine List.pairwise_cons.mpr ⟨fun y hy => ?_, ih h'.2⟩
        rcases mem_setInsert hy with rfl | hy
        · omega
        · exact h'.1 y hy

theorem foldl_setInsert_ascending {α : Type} {l : List α} {key : α → Nat} {p : List Nat} (h : p.Pairwise (· < ·)) :
    (l.foldl (fun p x => setInsert (key x) p) p).Pairwise (· < ·) := by
  induction l generalizing p with
  | nil => exact h
  | cons c cs ih => exact ih (setInsert_ascending h)

/-! ### Registers -/

theorem mapPut_regsWf {v : Variant} {m : List (Nat × Word)} {off : Nat} {w : Word} (h : RegsWf v m) :
    RegsWf v (mapPut off (if w = resetWord v off then none else some w) m) := by
  refine ⟨mapPut_rising h.1, fun c hc => ?_⟩
  rcases mem_mapPut hc with ⟨hv, rfl⟩ | hc
  · intro e; split at hv <;> simp_all
  · exact h.2 c hc

theorem filter_regsWf {v : Variant} {p : Nat × Word → Bool} {m : List (Nat × Word)} (h : RegsWf v m) :
    RegsWf v (m.filter p) :=
  ⟨h.1.filter _, fun c hc => h.2 c (List.mem_filter.mp hc).1⟩

end Sys2Proof.Machine
end

