-- ==== Sys2Proof/Laws/State.lean ====
section
/-! SUPPORT. Reading a field of the state after a named update: one lemma for each update and each field, so that no
proof unfolds a record update. -/

set_option Elab.async false

namespace Sys2Proof.Machine

variable (s : State)

/-! ### `State.setReg` -/

@[simp] theorem State.setReg_variant (off v : Nat) : (s.setReg off v).variant = s.variant := rfl
@[simp] theorem State.setReg_latch (off v : Nat) : (s.setReg off v).latch = s.latch := rfl
@[simp] theorem State.setReg_named (off v : Nat) : (s.setReg off v).named = s.named := rfl
@[simp] theorem State.setReg_time (off v : Nat) : (s.setReg off v).time = s.time := rfl
@[simp] theorem State.setReg_mem (off v : Nat) : (s.setReg off v).mem = s.mem := rfl
@[simp] theorem State.setReg_poison (off v : Nat) : (s.setReg off v).poison = s.poison := rfl
@[simp] theorem State.setReg_pages (off v : Nat) : (s.setReg off v).pages = s.pages := rfl
@[simp] theorem State.setReg_pubs (off v : Nat) : (s.setReg off v).pubs = s.pubs := rfl
@[simp] theorem State.setReg_tasks (off v : Nat) : (s.setReg off v).tasks = s.tasks := rfl
@[simp] theorem State.setReg_deferred (off v : Nat) : (s.setReg off v).deferred = s.deferred := rfl
@[simp] theorem State.setReg_journal (off v : Nat) : (s.setReg off v).journal = s.journal := rfl
@[simp] theorem State.setReg_sched (off v : Nat) : (s.setReg off v).sched = s.sched := rfl
@[simp] theorem State.setReg_runs (off v : Nat) : (s.setReg off v).runs = s.runs := rfl
@[simp] theorem State.setReg_parts (off v : Nat) : (s.setReg off v).parts = s.parts := rfl
@[simp] theorem State.setReg_cores (off v : Nat) : (s.setReg off v).cores = s.cores := rfl
@[simp] theorem State.setReg_vblocks (off v : Nat) : (s.setReg off v).vblocks = s.vblocks := rfl
@[simp] theorem State.setReg_guards (off v : Nat) : (s.setReg off v).guards = s.guards := rfl
@[simp] theorem State.setReg_guardHeld (off v : Nat) : (s.setReg off v).guardHeld = s.guardHeld := rfl
@[simp] theorem State.setReg_skips (off v : Nat) : (s.setReg off v).skips = s.skips := rfl
@[simp] theorem State.setReg_hbm (off v : Nat) : (s.setReg off v).hbm = s.hbm := rfl
@[simp] theorem State.setReg_progMib (off v : Nat) : (s.setReg off v).progMib = s.progMib := rfl
@[simp] theorem State.setReg_ports (off v : Nat) : (s.setReg off v).ports = s.ports := rfl
@[simp] theorem State.setReg_inject (off v : Nat) : (s.setReg off v).inject = s.inject := rfl
@[simp] theorem State.setReg_rx (off v : Nat) : (s.setReg off v).rx = s.rx := rfl
@[simp] theorem State.setReg_haltEpoch (off v : Nat) : (s.setReg off v).haltEpoch = s.haltEpoch := rfl
@[simp] theorem State.setReg_rme (off v : Nat) : (s.setReg off v).rme = s.rme := rfl
@[simp] theorem State.setReg_col (off v : Nat) : (s.setReg off v).col = s.col := rfl
@[simp] theorem State.setReg_rru (off v : Nat) : (s.setReg off v).rru = s.rru := rfl
@[simp] theorem State.setReg_vin (off v : Nat) : (s.setReg off v).vin = s.vin := rfl
@[simp] theorem State.setReg_power (off v : Nat) : (s.setReg off v).power = s.power := rfl
@[simp] theorem State.setReg_startup (off v : Nat) : (s.setReg off v).startup = s.startup := rfl
@[simp] theorem State.setReg_sec (off v : Nat) : (s.setReg off v).sec = s.sec := rfl
@[simp] theorem State.setReg_odl (off v : Nat) : (s.setReg off v).odl = s.odl := rfl
@[simp] theorem State.setReg_mgmt (off v : Nat) : (s.setReg off v).mgmt = s.mgmt := rfl
@[simp] theorem State.setReg_free (off v : Nat) : (s.setReg off v).free = s.free := rfl
@[simp] theorem State.setReg_out (off v : Nat) : (s.setReg off v).out = s.out := rfl
@[simp] theorem State.setReg_pending (off v : Nat) : (s.setReg off v).pending = s.pending := rfl

/-! ### `State.setFld` -/

@[simp] theorem State.setFld_variant (off hi lo v : Nat) : (s.setFld off hi lo v).variant = s.variant := rfl
@[simp] theorem State.setFld_latch (off hi lo v : Nat) : (s.setFld off hi lo v).latch = s.latch := rfl
@[simp] theorem State.setFld_named (off hi lo v : Nat) : (s.setFld off hi lo v).named = s.named := rfl
@[simp] theorem State.setFld_time (off hi lo v : Nat) : (s.setFld off hi lo v).time = s.time := rfl
@[simp] theorem State.setFld_mem (off hi lo v : Nat) : (s.setFld off hi lo v).mem = s.mem := rfl
@[simp] theorem State.setFld_poison (off hi lo v : Nat) : (s.setFld off hi lo v).poison = s.poison := rfl
@[simp] theorem State.setFld_pages (off hi lo v : Nat) : (s.setFld off hi lo v).pages = s.pages := rfl
@[simp] theorem State.setFld_pubs (off hi lo v : Nat) : (s.setFld off hi lo v).pubs = s.pubs := rfl
@[simp] theorem State.setFld_tasks (off hi lo v : Nat) : (s.setFld off hi lo v).tasks = s.tasks := rfl
@[simp] theorem State.setFld_deferred (off hi lo v : Nat) : (s.setFld off hi lo v).deferred = s.deferred := rfl
@[simp] theorem State.setFld_journal (off hi lo v : Nat) : (s.setFld off hi lo v).journal = s.journal := rfl
@[simp] theorem State.setFld_sched (off hi lo v : Nat) : (s.setFld off hi lo v).sched = s.sched := rfl
@[simp] theorem State.setFld_runs (off hi lo v : Nat) : (s.setFld off hi lo v).runs = s.runs := rfl
@[simp] theorem State.setFld_parts (off hi lo v : Nat) : (s.setFld off hi lo v).parts = s.parts := rfl
@[simp] theorem State.setFld_cores (off hi lo v : Nat) : (s.setFld off hi lo v).cores = s.cores := rfl
@[simp] theorem State.setFld_vblocks (off hi lo v : Nat) : (s.setFld off hi lo v).vblocks = s.vblocks := rfl
@[simp] theorem State.setFld_guards (off hi lo v : Nat) : (s.setFld off hi lo v).guards = s.guards := rfl
@[simp] theorem State.setFld_guardHeld (off hi lo v : Nat) : (s.setFld off hi lo v).guardHeld = s.guardHeld := rfl
@[simp] theorem State.setFld_skips (off hi lo v : Nat) : (s.setFld off hi lo v).skips = s.skips := rfl
@[simp] theorem State.setFld_hbm (off hi lo v : Nat) : (s.setFld off hi lo v).hbm = s.hbm := rfl
@[simp] theorem State.setFld_progMib (off hi lo v : Nat) : (s.setFld off hi lo v).progMib = s.progMib := rfl
@[simp] theorem State.setFld_ports (off hi lo v : Nat) : (s.setFld off hi lo v).ports = s.ports := rfl
@[simp] theorem State.setFld_inject (off hi lo v : Nat) : (s.setFld off hi lo v).inject = s.inject := rfl
@[simp] theorem State.setFld_rx (off hi lo v : Nat) : (s.setFld off hi lo v).rx = s.rx := rfl
@[simp] theorem State.setFld_haltEpoch (off hi lo v : Nat) : (s.setFld off hi lo v).haltEpoch = s.haltEpoch := rfl
@[simp] theorem State.setFld_rme (off hi lo v : Nat) : (s.setFld off hi lo v).rme = s.rme := rfl
@[simp] theorem State.setFld_col (off hi lo v : Nat) : (s.setFld off hi lo v).col = s.col := rfl
@[simp] theorem State.setFld_rru (off hi lo v : Nat) : (s.setFld off hi lo v).rru = s.rru := rfl
@[simp] theorem State.setFld_vin (off hi lo v : Nat) : (s.setFld off hi lo v).vin = s.vin := rfl
@[simp] theorem State.setFld_power (off hi lo v : Nat) : (s.setFld off hi lo v).power = s.power := rfl
@[simp] theorem State.setFld_startup (off hi lo v : Nat) : (s.setFld off hi lo v).startup = s.startup := rfl
@[simp] theorem State.setFld_sec (off hi lo v : Nat) : (s.setFld off hi lo v).sec = s.sec := rfl
@[simp] theorem State.setFld_odl (off hi lo v : Nat) : (s.setFld off hi lo v).odl = s.odl := rfl
@[simp] theorem State.setFld_mgmt (off hi lo v : Nat) : (s.setFld off hi lo v).mgmt = s.mgmt := rfl
@[simp] theorem State.setFld_free (off hi lo v : Nat) : (s.setFld off hi lo v).free = s.free := rfl
@[simp] theorem State.setFld_out (off hi lo v : Nat) : (s.setFld off hi lo v).out = s.out := rfl
@[simp] theorem State.setFld_pending (off hi lo v : Nat) : (s.setFld off hi lo v).pending = s.pending := rfl

/-! ### `State.setBit` -/

@[simp] theorem State.setBit_variant (off i : Nat) (b : Bool) : (s.setBit off i b).variant = s.variant := rfl
@[simp] theorem State.setBit_latch (off i : Nat) (b : Bool) : (s.setBit off i b).latch = s.latch := rfl
@[simp] theorem State.setBit_named (off i : Nat) (b : Bool) : (s.setBit off i b).named = s.named := rfl
@[simp] theorem State.setBit_time (off i : Nat) (b : Bool) : (s.setBit off i b).time = s.time := rfl
@[simp] theorem State.setBit_mem (off i : Nat) (b : Bool) : (s.setBit off i b).mem = s.mem := rfl
@[simp] theorem State.setBit_poison (off i : Nat) (b : Bool) : (s.setBit off i b).poison = s.poison := rfl
@[simp] theorem State.setBit_pages (off i : Nat) (b : Bool) : (s.setBit off i b).pages = s.pages := rfl
@[simp] theorem State.setBit_pubs (off i : Nat) (b : Bool) : (s.setBit off i b).pubs = s.pubs := rfl
@[simp] theorem State.setBit_tasks (off i : Nat) (b : Bool) : (s.setBit off i b).tasks = s.tasks := rfl
@[simp] theorem State.setBit_deferred (off i : Nat) (b : Bool) : (s.setBit off i b).deferred = s.deferred := rfl
@[simp] theorem State.setBit_journal (off i : Nat) (b : Bool) : (s.setBit off i b).journal = s.journal := rfl
@[simp] theorem State.setBit_sched (off i : Nat) (b : Bool) : (s.setBit off i b).sched = s.sched := rfl
@[simp] theorem State.setBit_runs (off i : Nat) (b : Bool) : (s.setBit off i b).runs = s.runs := rfl
@[simp] theorem State.setBit_parts (off i : Nat) (b : Bool) : (s.setBit off i b).parts = s.parts := rfl
@[simp] theorem State.setBit_cores (off i : Nat) (b : Bool) : (s.setBit off i b).cores = s.cores := rfl
@[simp] theorem State.setBit_vblocks (off i : Nat) (b : Bool) : (s.setBit off i b).vblocks = s.vblocks := rfl
@[simp] theorem State.setBit_guards (off i : Nat) (b : Bool) : (s.setBit off i b).guards = s.guards := rfl
@[simp] theorem State.setBit_guardHeld (off i : Nat) (b : Bool) : (s.setBit off i b).guardHeld = s.guardHeld := rfl
@[simp] theorem State.setBit_skips (off i : Nat) (b : Bool) : (s.setBit off i b).skips = s.skips := rfl
@[simp] theorem State.setBit_hbm (off i : Nat) (b : Bool) : (s.setBit off i b).hbm = s.hbm := rfl
@[simp] theorem State.setBit_progMib (off i : Nat) (b : Bool) : (s.setBit off i b).progMib = s.progMib := rfl
@[simp] theorem State.setBit_ports (off i : Nat) (b : Bool) : (s.setBit off i b).ports = s.ports := rfl
@[simp] theorem State.setBit_inject (off i : Nat) (b : Bool) : (s.setBit off i b).inject = s.inject := rfl
@[simp] theorem State.setBit_rx (off i : Nat) (b : Bool) : (s.setBit off i b).rx = s.rx := rfl
@[simp] theorem State.setBit_haltEpoch (off i : Nat) (b : Bool) : (s.setBit off i b).haltEpoch = s.haltEpoch := rfl
@[simp] theorem State.setBit_rme (off i : Nat) (b : Bool) : (s.setBit off i b).rme = s.rme := rfl
@[simp] theorem State.setBit_col (off i : Nat) (b : Bool) : (s.setBit off i b).col = s.col := rfl
@[simp] theorem State.setBit_rru (off i : Nat) (b : Bool) : (s.setBit off i b).rru = s.rru := rfl
@[simp] theorem State.setBit_vin (off i : Nat) (b : Bool) : (s.setBit off i b).vin = s.vin := rfl
@[simp] theorem State.setBit_power (off i : Nat) (b : Bool) : (s.setBit off i b).power = s.power := rfl
@[simp] theorem State.setBit_startup (off i : Nat) (b : Bool) : (s.setBit off i b).startup = s.startup := rfl
@[simp] theorem State.setBit_sec (off i : Nat) (b : Bool) : (s.setBit off i b).sec = s.sec := rfl
@[simp] theorem State.setBit_odl (off i : Nat) (b : Bool) : (s.setBit off i b).odl = s.odl := rfl
@[simp] theorem State.setBit_mgmt (off i : Nat) (b : Bool) : (s.setBit off i b).mgmt = s.mgmt := rfl
@[simp] theorem State.setBit_free (off i : Nat) (b : Bool) : (s.setBit off i b).free = s.free := rfl
@[simp] theorem State.setBit_out (off i : Nat) (b : Bool) : (s.setBit off i b).out = s.out := rfl
@[simp] theorem State.setBit_pending (off i : Nat) (b : Bool) : (s.setBit off i b).pending = s.pending := rfl

/-! ### `State.addReg` -/

@[simp] theorem State.addReg_variant (off n : Nat) : (s.addReg off n).variant = s.variant := rfl
@[simp] theorem State.addReg_latch (off n : Nat) : (s.addReg off n).latch = s.latch := rfl
@[simp] theorem State.addReg_named (off n : Nat) : (s.addReg off n).named = s.named := rfl
@[simp] theorem State.addReg_time (off n : Nat) : (s.addReg off n).time = s.time := rfl
@[simp] theorem State.addReg_mem (off n : Nat) : (s.addReg off n).mem = s.mem := rfl
@[simp] theorem State.addReg_poison (off n : Nat) : (s.addReg off n).poison = s.poison := rfl
@[simp] theorem State.addReg_pages (off n : Nat) : (s.addReg off n).pages = s.pages := rfl
@[simp] theorem State.addReg_pubs (off n : Nat) : (s.addReg off n).pubs = s.pubs := rfl
@[simp] theorem State.addReg_tasks (off n : Nat) : (s.addReg off n).tasks = s.tasks := rfl
@[simp] theorem State.addReg_deferred (off n : Nat) : (s.addReg off n).deferred = s.deferred := rfl
@[simp] theorem State.addReg_journal (off n : Nat) : (s.addReg off n).journal = s.journal := rfl
@[simp] theorem State.addReg_sched (off n : Nat) : (s.addReg off n).sched = s.sched := rfl
@[simp] theorem State.addReg_runs (off n : Nat) : (s.addReg off n).runs = s.runs := rfl
@[simp] theorem State.addReg_parts (off n : Nat) : (s.addReg off n).parts = s.parts := rfl
@[simp] theorem State.addReg_cores (off n : Nat) : (s.addReg off n).cores = s.cores := rfl
@[simp] theorem State.addReg_vblocks (off n : Nat) : (s.addReg off n).vblocks = s.vblocks := rfl
@[simp] theorem State.addReg_guards (off n : Nat) : (s.addReg off n).guards = s.guards := rfl
@[simp] theorem State.addReg_guardHeld (off n : Nat) : (s.addReg off n).guardHeld = s.guardHeld := rfl
@[simp] theorem State.addReg_skips (off n : Nat) : (s.addReg off n).skips = s.skips := rfl
@[simp] theorem State.addReg_hbm (off n : Nat) : (s.addReg off n).hbm = s.hbm := rfl
@[simp] theorem State.addReg_progMib (off n : Nat) : (s.addReg off n).progMib = s.progMib := rfl
@[simp] theorem State.addReg_ports (off n : Nat) : (s.addReg off n).ports = s.ports := rfl
@[simp] theorem State.addReg_inject (off n : Nat) : (s.addReg off n).inject = s.inject := rfl
@[simp] theorem State.addReg_rx (off n : Nat) : (s.addReg off n).rx = s.rx := rfl
@[simp] theorem State.addReg_haltEpoch (off n : Nat) : (s.addReg off n).haltEpoch = s.haltEpoch := rfl
@[simp] theorem State.addReg_rme (off n : Nat) : (s.addReg off n).rme = s.rme := rfl
@[simp] theorem State.addReg_col (off n : Nat) : (s.addReg off n).col = s.col := rfl
@[simp] theorem State.addReg_rru (off n : Nat) : (s.addReg off n).rru = s.rru := rfl
@[simp] theorem State.addReg_vin (off n : Nat) : (s.addReg off n).vin = s.vin := rfl
@[simp] theorem State.addReg_power (off n : Nat) : (s.addReg off n).power = s.power := rfl
@[simp] theorem State.addReg_startup (off n : Nat) : (s.addReg off n).startup = s.startup := rfl
@[simp] theorem State.addReg_sec (off n : Nat) : (s.addReg off n).sec = s.sec := rfl
@[simp] theorem State.addReg_odl (off n : Nat) : (s.addReg off n).odl = s.odl := rfl
@[simp] theorem State.addReg_mgmt (off n : Nat) : (s.addReg off n).mgmt = s.mgmt := rfl
@[simp] theorem State.addReg_free (off n : Nat) : (s.addReg off n).free = s.free := rfl
@[simp] theorem State.addReg_out (off n : Nat) : (s.addReg off n).out = s.out := rfl
@[simp] theorem State.addReg_pending (off n : Nat) : (s.addReg off n).pending = s.pending := rfl

/-! ### `State.emit` -/

@[simp] theorem State.emit_variant (o : Out) : (s.emit o).variant = s.variant := rfl
@[simp] theorem State.emit_regs (o : Out) : (s.emit o).regs = s.regs := rfl
@[simp] theorem State.emit_latch (o : Out) : (s.emit o).latch = s.latch := rfl
@[simp] theorem State.emit_named (o : Out) : (s.emit o).named = s.named := rfl
@[simp] theorem State.emit_time (o : Out) : (s.emit o).time = s.time := rfl
@[simp] theorem State.emit_mem (o : Out) : (s.emit o).mem = s.mem := rfl
@[simp] theorem State.emit_poison (o : Out) : (s.emit o).poison = s.poison := rfl
@[simp] theorem State.emit_pages (o : Out) : (s.emit o).pages = s.pages := rfl
@[simp] theorem State.emit_pubs (o : Out) : (s.emit o).pubs = s.pubs := rfl
@[simp] theorem State.emit_tasks (o : Out) : (s.emit o).tasks = s.tasks := rfl
@[simp] theorem State.emit_deferred (o : Out) : (s.emit o).deferred = s.deferred := rfl
@[simp] theorem State.emit_journal (o : Out) : (s.emit o).journal = s.journal := rfl
@[simp] theorem State.emit_sched (o : Out) : (s.emit o).sched = s.sched := rfl
@[simp] theorem State.emit_runs (o : Out) : (s.emit o).runs = s.runs := rfl
@[simp] theorem State.emit_parts (o : Out) : (s.emit o).parts = s.parts := rfl
@[simp] theorem State.emit_cores (o : Out) : (s.emit o).cores = s.cores := rfl
@[simp] theorem State.emit_vblocks (o : Out) : (s.emit o).vblocks = s.vblocks := rfl
@[simp] theorem State.emit_guards (o : Out) : (s.emit o).guards = s.guards := rfl
@[simp] theorem State.emit_guardHeld (o : Out) : (s.emit o).guardHeld = s.guardHeld := rfl
@[simp] theorem State.emit_skips (o : Out) : (s.emit o).skips = s.skips := rfl
@[simp] theorem State.emit_hbm (o : Out) : (s.emit o).hbm = s.hbm := rfl
@[simp] theorem State.emit_progMib (o : Out) : (s.emit o).progMib = s.progMib := rfl
@[simp] theorem State.emit_ports (o : Out) : (s.emit o).ports = s.ports := rfl
@[simp] theorem State.emit_inject (o : Out) : (s.emit o).inject = s.inject := rfl
@[simp] theorem State.emit_rx (o : Out) : (s.emit o).rx = s.rx := rfl
@[simp] theorem State.emit_haltEpoch (o : Out) : (s.emit o).haltEpoch = s.haltEpoch := rfl
@[simp] theorem State.emit_rme (o : Out) : (s.emit o).rme = s.rme := rfl
@[simp] theorem State.emit_col (o : Out) : (s.emit o).col = s.col := rfl
@[simp] theorem State.emit_rru (o : Out) : (s.emit o).rru = s.rru := rfl
@[simp] theorem State.emit_vin (o : Out) : (s.emit o).vin = s.vin := rfl
@[simp] theorem State.emit_power (o : Out) : (s.emit o).power = s.power := rfl
@[simp] theorem State.emit_startup (o : Out) : (s.emit o).startup = s.startup := rfl
@[simp] theorem State.emit_sec (o : Out) : (s.emit o).sec = s.sec := rfl
@[simp] theorem State.emit_odl (o : Out) : (s.emit o).odl = s.odl := rfl
@[simp] theorem State.emit_mgmt (o : Out) : (s.emit o).mgmt = s.mgmt := rfl
@[simp] theorem State.emit_free (o : Out) : (s.emit o).free = s.free := rfl
@[simp] theorem State.emit_out (o : Out) : (s.emit o).out = s.out ++ [o] := rfl
@[simp] theorem State.emit_pending (o : Out) : (s.emit o).pending = s.pending := rfl

/-! ### `State.quiet` -/

@[simp] theorem State.quiet_variant : s.quiet.variant = s.variant := rfl
@[simp] theorem State.quiet_regs : s.quiet.regs = s.regs := rfl
@[simp] theorem State.quiet_latch : s.quiet.latch = s.latch := rfl
@[simp] theorem State.quiet_named : s.quiet.named = s.named := rfl
@[simp] theorem State.quiet_time : s.quiet.time = s.time := rfl
@[simp] theorem State.quiet_mem : s.quiet.mem = s.mem := rfl
@[simp] theorem State.quiet_poison : s.quiet.poison = s.poison := rfl
@[simp] theorem State.quiet_pages : s.quiet.pages = s.pages := rfl
@[simp] theorem State.quiet_pubs : s.quiet.pubs = s.pubs := rfl
@[simp] theorem State.quiet_tasks : s.quiet.tasks = s.tasks := rfl
@[simp] theorem State.quiet_deferred : s.quiet.deferred = s.deferred := rfl
@[simp] theorem State.quiet_journal : s.quiet.journal = s.journal := rfl
@[simp] theorem State.quiet_sched : s.quiet.sched = s.sched := rfl
@[simp] theorem State.quiet_runs : s.quiet.runs = s.runs := rfl
@[simp] theorem State.quiet_parts : s.quiet.parts = s.parts := rfl
@[simp] theorem State.quiet_cores : s.quiet.cores = s.cores := rfl
@[simp] theorem State.quiet_vblocks : s.quiet.vblocks = s.vblocks := rfl
@[simp] theorem State.quiet_guards : s.quiet.guards = s.guards := rfl
@[simp] theorem State.quiet_guardHeld : s.quiet.guardHeld = s.guardHeld := rfl
@[simp] theorem State.quiet_skips : s.quiet.skips = s.skips := rfl
@[simp] theorem State.quiet_hbm : s.quiet.hbm = s.hbm := rfl
@[simp] theorem State.quiet_progMib : s.quiet.progMib = s.progMib := rfl
@[simp] theorem State.quiet_ports : s.quiet.ports = s.ports := rfl
@[simp] theorem State.quiet_inject : s.quiet.inject = s.inject := rfl
@[simp] theorem State.quiet_rx : s.quiet.rx = s.rx := rfl
@[simp] theorem State.quiet_haltEpoch : s.quiet.haltEpoch = s.haltEpoch := rfl
@[simp] theorem State.quiet_rme : s.quiet.rme = s.rme := rfl
@[simp] theorem State.quiet_col : s.quiet.col = s.col := rfl
@[simp] theorem State.quiet_rru : s.quiet.rru = s.rru := rfl
@[simp] theorem State.quiet_vin : s.quiet.vin = s.vin := rfl
@[simp] theorem State.quiet_power : s.quiet.power = s.power := rfl
@[simp] theorem State.quiet_startup : s.quiet.startup = s.startup := rfl
@[simp] theorem State.quiet_sec : s.quiet.sec = s.sec := rfl
@[simp] theorem State.quiet_odl : s.quiet.odl = s.odl := rfl
@[simp] theorem State.quiet_mgmt : s.quiet.mgmt = s.mgmt := rfl
@[simp] theorem State.quiet_free : s.quiet.free = s.free := rfl
@[simp] theorem State.quiet_out : s.quiet.out = [] := rfl
@[simp] theorem State.quiet_pending : s.quiet.pending = s.pending := rfl

/-! ### `State.modHbm` -/

@[simp] theorem State.modHbm_variant (f : Hbm → Hbm) : (s.modHbm f).variant = s.variant := rfl
@[simp] theorem State.modHbm_regs (f : Hbm → Hbm) : (s.modHbm f).regs = s.regs := rfl
@[simp] theorem State.modHbm_latch (f : Hbm → Hbm) : (s.modHbm f).latch = s.latch := rfl
@[simp] theorem State.modHbm_named (f : Hbm → Hbm) : (s.modHbm f).named = s.named := rfl
@[simp] theorem State.modHbm_time (f : Hbm → Hbm) : (s.modHbm f).time = s.time := rfl
@[simp] theorem State.modHbm_mem (f : Hbm → Hbm) : (s.modHbm f).mem = s.mem := rfl
@[simp] theorem State.modHbm_poison (f : Hbm → Hbm) : (s.modHbm f).poison = s.poison := rfl
@[simp] theorem State.modHbm_pages (f : Hbm → Hbm) : (s.modHbm f).pages = s.pages := rfl
@[simp] theorem State.modHbm_pubs (f : Hbm → Hbm) : (s.modHbm f).pubs = s.pubs := rfl
@[simp] theorem State.modHbm_tasks (f : Hbm → Hbm) : (s.modHbm f).tasks = s.tasks := rfl
@[simp] theorem State.modHbm_deferred (f : Hbm → Hbm) : (s.modHbm f).deferred = s.deferred := rfl
@[simp] theorem State.modHbm_journal (f : Hbm → Hbm) : (s.modHbm f).journal = s.journal := rfl
@[simp] theorem State.modHbm_sched (f : Hbm → Hbm) : (s.modHbm f).sched = s.sched := rfl
@[simp] theorem State.modHbm_runs (f : Hbm → Hbm) : (s.modHbm f).runs = s.runs := rfl
@[simp] theorem State.modHbm_parts (f : Hbm → Hbm) : (s.modHbm f).parts = s.parts := rfl
@[simp] theorem State.modHbm_cores (f : Hbm → Hbm) : (s.modHbm f).cores = s.cores := rfl
@[simp] theorem State.modHbm_vblocks (f : Hbm → Hbm) : (s.modHbm f).vblocks = s.vblocks := rfl
@[simp] theorem State.modHbm_guards (f : Hbm → Hbm) : (s.modHbm f).guards = s.guards := rfl
@[simp] theorem State.modHbm_guardHeld (f : Hbm → Hbm) : (s.modHbm f).guardHeld = s.guardHeld := rfl
@[simp] theorem State.modHbm_skips (f : Hbm → Hbm) : (s.modHbm f).skips = s.skips := rfl
@[simp] theorem State.modHbm_hbm (f : Hbm → Hbm) : (s.modHbm f).hbm = f s.hbm := rfl
@[simp] theorem State.modHbm_progMib (f : Hbm → Hbm) : (s.modHbm f).progMib = s.progMib := rfl
@[simp] theorem State.modHbm_ports (f : Hbm → Hbm) : (s.modHbm f).ports = s.ports := rfl
@[simp] theorem State.modHbm_inject (f : Hbm → Hbm) : (s.modHbm f).inject = s.inject := rfl
@[simp] theorem State.modHbm_rx (f : Hbm → Hbm) : (s.modHbm f).rx = s.rx := rfl
@[simp] theorem State.modHbm_haltEpoch (f : Hbm → Hbm) : (s.modHbm f).haltEpoch = s.haltEpoch := rfl
@[simp] theorem State.modHbm_rme (f : Hbm → Hbm) : (s.modHbm f).rme = s.rme := rfl
@[simp] theorem State.modHbm_col (f : Hbm → Hbm) : (s.modHbm f).col = s.col := rfl
@[simp] theorem State.modHbm_rru (f : Hbm → Hbm) : (s.modHbm f).rru = s.rru := rfl
@[simp] theorem State.modHbm_vin (f : Hbm → Hbm) : (s.modHbm f).vin = s.vin := rfl
@[simp] theorem State.modHbm_power (f : Hbm → Hbm) : (s.modHbm f).power = s.power := rfl
@[simp] theorem State.modHbm_startup (f : Hbm → Hbm) : (s.modHbm f).startup = s.startup := rfl
@[simp] theorem State.modHbm_sec (f : Hbm → Hbm) : (s.modHbm f).sec = s.sec := rfl
@[simp] theorem State.modHbm_odl (f : Hbm → Hbm) : (s.modHbm f).odl = s.odl := rfl
@[simp] theorem State.modHbm_mgmt (f : Hbm → Hbm) : (s.modHbm f).mgmt = s.mgmt := rfl
@[simp] theorem State.modHbm_free (f : Hbm → Hbm) : (s.modHbm f).free = s.free := rfl
@[simp] theorem State.modHbm_out (f : Hbm → Hbm) : (s.modHbm f).out = s.out := rfl
@[simp] theorem State.modHbm_pending (f : Hbm → Hbm) : (s.modHbm f).pending = s.pending := rfl

/-! ### `State.modPower` -/

@[simp] theorem State.modPower_variant (f : Power → Power) : (s.modPower f).variant = s.variant := rfl
@[simp] theorem State.modPower_regs (f : Power → Power) : (s.modPower f).regs = s.regs := rfl
@[simp] theorem State.modPower_latch (f : Power → Power) : (s.modPower f).latch = s.latch := rfl
@[simp] theorem State.modPower_named (f : Power → Power) : (s.modPower f).named = s.named := rfl
@[simp] theorem State.modPower_time (f : Power → Power) : (s.modPower f).time = s.time := rfl
@[simp] theorem State.modPower_mem (f : Power → Power) : (s.modPower f).mem = s.mem := rfl
@[simp] theorem State.modPower_poison (f : Power → Power) : (s.modPower f).poison = s.poison := rfl
@[simp] theorem State.modPower_pages (f : Power → Power) : (s.modPower f).pages = s.pages := rfl
@[simp] theorem State.modPower_pubs (f : Power → Power) : (s.modPower f).pubs = s.pubs := rfl
@[simp] theorem State.modPower_tasks (f : Power → Power) : (s.modPower f).tasks = s.tasks := rfl
@[simp] theorem State.modPower_deferred (f : Power → Power) : (s.modPower f).deferred = s.deferred := rfl
@[simp] theorem State.modPower_journal (f : Power → Power) : (s.modPower f).journal = s.journal := rfl
@[simp] theorem State.modPower_sched (f : Power → Power) : (s.modPower f).sched = s.sched := rfl
@[simp] theorem State.modPower_runs (f : Power → Power) : (s.modPower f).runs = s.runs := rfl
@[simp] theorem State.modPower_parts (f : Power → Power) : (s.modPower f).parts = s.parts := rfl
@[simp] theorem State.modPower_cores (f : Power → Power) : (s.modPower f).cores = s.cores := rfl
@[simp] theorem State.modPower_vblocks (f : Power → Power) : (s.modPower f).vblocks = s.vblocks := rfl
@[simp] theorem State.modPower_guards (f : Power → Power) : (s.modPower f).guards = s.guards := rfl
@[simp] theorem State.modPower_guardHeld (f : Power → Power) : (s.modPower f).guardHeld = s.guardHeld := rfl
@[simp] theorem State.modPower_skips (f : Power → Power) : (s.modPower f).skips = s.skips := rfl
@[simp] theorem State.modPower_hbm (f : Power → Power) : (s.modPower f).hbm = s.hbm := rfl
@[simp] theorem State.modPower_progMib (f : Power → Power) : (s.modPower f).progMib = s.progMib := rfl
@[simp] theorem State.modPower_ports (f : Power → Power) : (s.modPower f).ports = s.ports := rfl
@[simp] theorem State.modPower_inject (f : Power → Power) : (s.modPower f).inject = s.inject := rfl
@[simp] theorem State.modPower_rx (f : Power → Power) : (s.modPower f).rx = s.rx := rfl
@[simp] theorem State.modPower_haltEpoch (f : Power → Power) : (s.modPower f).haltEpoch = s.haltEpoch := rfl
@[simp] theorem State.modPower_rme (f : Power → Power) : (s.modPower f).rme = s.rme := rfl
@[simp] theorem State.modPower_col (f : Power → Power) : (s.modPower f).col = s.col := rfl
@[simp] theorem State.modPower_rru (f : Power → Power) : (s.modPower f).rru = s.rru := rfl
@[simp] theorem State.modPower_vin (f : Power → Power) : (s.modPower f).vin = s.vin := rfl
@[simp] theorem State.modPower_power (f : Power → Power) : (s.modPower f).power = f s.power := rfl
@[simp] theorem State.modPower_startup (f : Power → Power) : (s.modPower f).startup = s.startup := rfl
@[simp] theorem State.modPower_sec (f : Power → Power) : (s.modPower f).sec = s.sec := rfl
@[simp] theorem State.modPower_odl (f : Power → Power) : (s.modPower f).odl = s.odl := rfl
@[simp] theorem State.modPower_mgmt (f : Power → Power) : (s.modPower f).mgmt = s.mgmt := rfl
@[simp] theorem State.modPower_free (f : Power → Power) : (s.modPower f).free = s.free := rfl
@[simp] theorem State.modPower_out (f : Power → Power) : (s.modPower f).out = s.out := rfl
@[simp] theorem State.modPower_pending (f : Power → Power) : (s.modPower f).pending = s.pending := rfl

/-! ### `State.modRru` -/

@[simp] theorem State.modRru_variant (f : Rru → Rru) : (s.modRru f).variant = s.variant := rfl
@[simp] theorem State.modRru_regs (f : Rru → Rru) : (s.modRru f).regs = s.regs := rfl
@[simp] theorem State.modRru_latch (f : Rru → Rru) : (s.modRru f).latch = s.latch := rfl
@[simp] theorem State.modRru_named (f : Rru → Rru) : (s.modRru f).named = s.named := rfl
@[simp] theorem State.modRru_time (f : Rru → Rru) : (s.modRru f).time = s.time := rfl
@[simp] theorem State.modRru_mem (f : Rru → Rru) : (s.modRru f).mem = s.mem := rfl
@[simp] theorem State.modRru_poison (f : Rru → Rru) : (s.modRru f).poison = s.poison := rfl
@[simp] theorem State.modRru_pages (f : Rru → Rru) : (s.modRru f).pages = s.pages := rfl
@[simp] theorem State.modRru_pubs (f : Rru → Rru) : (s.modRru f).pubs = s.pubs := rfl
@[simp] theorem State.modRru_tasks (f : Rru → Rru) : (s.modRru f).tasks = s.tasks := rfl
@[simp] theorem State.modRru_deferred (f : Rru → Rru) : (s.modRru f).deferred = s.deferred := rfl
@[simp] theorem State.modRru_journal (f : Rru → Rru) : (s.modRru f).journal = s.journal := rfl
@[simp] theorem State.modRru_sched (f : Rru → Rru) : (s.modRru f).sched = s.sched := rfl
@[simp] theorem State.modRru_runs (f : Rru → Rru) : (s.modRru f).runs = s.runs := rfl
@[simp] theorem State.modRru_parts (f : Rru → Rru) : (s.modRru f).parts = s.parts := rfl
@[simp] theorem State.modRru_cores (f : Rru → Rru) : (s.modRru f).cores = s.cores := rfl
@[simp] theorem State.modRru_vblocks (f : Rru → Rru) : (s.modRru f).vblocks = s.vblocks := rfl
@[simp] theorem State.modRru_guards (f : Rru → Rru) : (s.modRru f).guards = s.guards := rfl
@[simp] theorem State.modRru_guardHeld (f : Rru → Rru) : (s.modRru f).guardHeld = s.guardHeld := rfl
@[simp] theorem State.modRru_skips (f : Rru → Rru) : (s.modRru f).skips = s.skips := rfl
@[simp] theorem State.modRru_hbm (f : Rru → Rru) : (s.modRru f).hbm = s.hbm := rfl
@[simp] theorem State.modRru_progMib (f : Rru → Rru) : (s.modRru f).progMib = s.progMib := rfl
@[simp] theorem State.modRru_ports (f : Rru → Rru) : (s.modRru f).ports = s.ports := rfl
@[simp] theorem State.modRru_inject (f : Rru → Rru) : (s.modRru f).inject = s.inject := rfl
@[simp] theorem State.modRru_rx (f : Rru → Rru) : (s.modRru f).rx = s.rx := rfl
@[simp] theorem State.modRru_haltEpoch (f : Rru → Rru) : (s.modRru f).haltEpoch = s.haltEpoch := rfl
@[simp] theorem State.modRru_rme (f : Rru → Rru) : (s.modRru f).rme = s.rme := rfl
@[simp] theorem State.modRru_col (f : Rru → Rru) : (s.modRru f).col = s.col := rfl
@[simp] theorem State.modRru_rru (f : Rru → Rru) : (s.modRru f).rru = f s.rru := rfl
@[simp] theorem State.modRru_vin (f : Rru → Rru) : (s.modRru f).vin = s.vin := rfl
@[simp] theorem State.modRru_power (f : Rru → Rru) : (s.modRru f).power = s.power := rfl
@[simp] theorem State.modRru_startup (f : Rru → Rru) : (s.modRru f).startup = s.startup := rfl
@[simp] theorem State.modRru_sec (f : Rru → Rru) : (s.modRru f).sec = s.sec := rfl
@[simp] theorem State.modRru_odl (f : Rru → Rru) : (s.modRru f).odl = s.odl := rfl
@[simp] theorem State.modRru_mgmt (f : Rru → Rru) : (s.modRru f).mgmt = s.mgmt := rfl
@[simp] theorem State.modRru_free (f : Rru → Rru) : (s.modRru f).free = s.free := rfl
@[simp] theorem State.modRru_out (f : Rru → Rru) : (s.modRru f).out = s.out := rfl
@[simp] theorem State.modRru_pending (f : Rru → Rru) : (s.modRru f).pending = s.pending := rfl

/-! ### `State.modOdl` -/

@[simp] theorem State.modOdl_variant (f : Odl → Odl) : (s.modOdl f).variant = s.variant := rfl
@[simp] theorem State.modOdl_regs (f : Odl → Odl) : (s.modOdl f).regs = s.regs := rfl
@[simp] theorem State.modOdl_latch (f : Odl → Odl) : (s.modOdl f).latch = s.latch := rfl
@[simp] theorem State.modOdl_named (f : Odl → Odl) : (s.modOdl f).named = s.named := rfl
@[simp] theorem State.modOdl_time (f : Odl → Odl) : (s.modOdl f).time = s.time := rfl
@[simp] theorem State.modOdl_mem (f : Odl → Odl) : (s.modOdl f).mem = s.mem := rfl
@[simp] theorem State.modOdl_poison (f : Odl → Odl) : (s.modOdl f).poison = s.poison := rfl
@[simp] theorem State.modOdl_pages (f : Odl → Odl) : (s.modOdl f).pages = s.pages := rfl
@[simp] theorem State.modOdl_pubs (f : Odl → Odl) : (s.modOdl f).pubs = s.pubs := rfl
@[simp] theorem State.modOdl_tasks (f : Odl → Odl) : (s.modOdl f).tasks = s.tasks := rfl
@[simp] theorem State.modOdl_deferred (f : Odl → Odl) : (s.modOdl f).deferred = s.deferred := rfl
@[simp] theorem State.modOdl_journal (f : Odl → Odl) : (s.modOdl f).journal = s.journal := rfl
@[simp] theorem State.modOdl_sched (f : Odl → Odl) : (s.modOdl f).sched = s.sched := rfl
@[simp] theorem State.modOdl_runs (f : Odl → Odl) : (s.modOdl f).runs = s.runs := rfl
@[simp] theorem State.modOdl_parts (f : Odl → Odl) : (s.modOdl f).parts = s.parts := rfl
@[simp] theorem State.modOdl_cores (f : Odl → Odl) : (s.modOdl f).cores = s.cores := rfl
@[simp] theorem State.modOdl_vblocks (f : Odl → Odl) : (s.modOdl f).vblocks = s.vblocks := rfl
@[simp] theorem State.modOdl_guards (f : Odl → Odl) : (s.modOdl f).guards = s.guards := rfl
@[simp] theorem State.modOdl_guardHeld (f : Odl → Odl) : (s.modOdl f).guardHeld = s.guardHeld := rfl
@[simp] theorem State.modOdl_skips (f : Odl → Odl) : (s.modOdl f).skips = s.skips := rfl
@[simp] theorem State.modOdl_hbm (f : Odl → Odl) : (s.modOdl f).hbm = s.hbm := rfl
@[simp] theorem State.modOdl_progMib (f : Odl → Odl) : (s.modOdl f).progMib = s.progMib := rfl
@[simp] theorem State.modOdl_ports (f : Odl → Odl) : (s.modOdl f).ports = s.ports := rfl
@[simp] theorem State.modOdl_inject (f : Odl → Odl) : (s.modOdl f).inject = s.inject := rfl
@[simp] theorem State.modOdl_rx (f : Odl → Odl) : (s.modOdl f).rx = s.rx := rfl
@[simp] theorem State.modOdl_haltEpoch (f : Odl → Odl) : (s.modOdl f).haltEpoch = s.haltEpoch := rfl
@[simp] theorem State.modOdl_rme (f : Odl → Odl) : (s.modOdl f).rme = s.rme := rfl
@[simp] theorem State.modOdl_col (f : Odl → Odl) : (s.modOdl f).col = s.col := rfl
@[simp] theorem State.modOdl_rru (f : Odl → Odl) : (s.modOdl f).rru = s.rru := rfl
@[simp] theorem State.modOdl_vin (f : Odl → Odl) : (s.modOdl f).vin = s.vin := rfl
@[simp] theorem State.modOdl_power (f : Odl → Odl) : (s.modOdl f).power = s.power := rfl
@[simp] theorem State.modOdl_startup (f : Odl → Odl) : (s.modOdl f).startup = s.startup := rfl
@[simp] theorem State.modOdl_sec (f : Odl → Odl) : (s.modOdl f).sec = s.sec := rfl
@[simp] theorem State.modOdl_odl (f : Odl → Odl) : (s.modOdl f).odl = f s.odl := rfl
@[simp] theorem State.modOdl_mgmt (f : Odl → Odl) : (s.modOdl f).mgmt = s.mgmt := rfl
@[simp] theorem State.modOdl_free (f : Odl → Odl) : (s.modOdl f).free = s.free := rfl
@[simp] theorem State.modOdl_out (f : Odl → Odl) : (s.modOdl f).out = s.out := rfl
@[simp] theorem State.modOdl_pending (f : Odl → Odl) : (s.modOdl f).pending = s.pending := rfl

/-! ### `State.modMgmt` -/

@[simp] theorem State.modMgmt_variant (f : Mgmt → Mgmt) : (s.modMgmt f).variant = s.variant := rfl
@[simp] theorem State.modMgmt_regs (f : Mgmt → Mgmt) : (s.modMgmt f).regs = s.regs := rfl
@[simp] theorem State.modMgmt_latch (f : Mgmt → Mgmt) : (s.modMgmt f).latch = s.latch := rfl
@[simp] theorem State.modMgmt_named (f : Mgmt → Mgmt) : (s.modMgmt f).named = s.named := rfl
@[simp] theorem State.modMgmt_time (f : Mgmt → Mgmt) : (s.modMgmt f).time = s.time := rfl
@[simp] theorem State.modMgmt_mem (f : Mgmt → Mgmt) : (s.modMgmt f).mem = s.mem := rfl
@[simp] theorem State.modMgmt_poison (f : Mgmt → Mgmt) : (s.modMgmt f).poison = s.poison := rfl
@[simp] theorem State.modMgmt_pages (f : Mgmt → Mgmt) : (s.modMgmt f).pages = s.pages := rfl
@[simp] theorem State.modMgmt_pubs (f : Mgmt → Mgmt) : (s.modMgmt f).pubs = s.pubs := rfl
@[simp] theorem State.modMgmt_tasks (f : Mgmt → Mgmt) : (s.modMgmt f).tasks = s.tasks := rfl
@[simp] theorem State.modMgmt_deferred (f : Mgmt → Mgmt) : (s.modMgmt f).deferred = s.deferred := rfl
@[simp] theorem State.modMgmt_journal (f : Mgmt → Mgmt) : (s.modMgmt f).journal = s.journal := rfl
@[simp] theorem State.modMgmt_sched (f : Mgmt → Mgmt) : (s.modMgmt f).sched = s.sched := rfl
@[simp] theorem State.modMgmt_runs (f : Mgmt → Mgmt) : (s.modMgmt f).runs = s.runs := rfl
@[simp] theorem State.modMgmt_parts (f : Mgmt → Mgmt) : (s.modMgmt f).parts = s.parts := rfl
@[simp] theorem State.modMgmt_cores (f : Mgmt → Mgmt) : (s.modMgmt f).cores = s.cores := rfl
@[simp] theorem State.modMgmt_vblocks (f : Mgmt → Mgmt) : (s.modMgmt f).vblocks = s.vblocks := rfl
@[simp] theorem State.modMgmt_guards (f : Mgmt → Mgmt) : (s.modMgmt f).guards = s.guards := rfl
@[simp] theorem State.modMgmt_guardHeld (f : Mgmt → Mgmt) : (s.modMgmt f).guardHeld = s.guardHeld := rfl
@[simp] theorem State.modMgmt_skips (f : Mgmt → Mgmt) : (s.modMgmt f).skips = s.skips := rfl
@[simp] theorem State.modMgmt_hbm (f : Mgmt → Mgmt) : (s.modMgmt f).hbm = s.hbm := rfl
@[simp] theorem State.modMgmt_progMib (f : Mgmt → Mgmt) : (s.modMgmt f).progMib = s.progMib := rfl
@[simp] theorem State.modMgmt_ports (f : Mgmt → Mgmt) : (s.modMgmt f).ports = s.ports := rfl
@[simp] theorem State.modMgmt_inject (f : Mgmt → Mgmt) : (s.modMgmt f).inject = s.inject := rfl
@[simp] theorem State.modMgmt_rx (f : Mgmt → Mgmt) : (s.modMgmt f).rx = s.rx := rfl
@[simp] theorem State.modMgmt_haltEpoch (f : Mgmt → Mgmt) : (s.modMgmt f).haltEpoch = s.haltEpoch := rfl
@[simp] theorem State.modMgmt_rme (f : Mgmt → Mgmt) : (s.modMgmt f).rme = s.rme := rfl
@[simp] theorem State.modMgmt_col (f : Mgmt → Mgmt) : (s.modMgmt f).col = s.col := rfl
@[simp] theorem State.modMgmt_rru (f : Mgmt → Mgmt) : (s.modMgmt f).rru = s.rru := rfl
@[simp] theorem State.modMgmt_vin (f : Mgmt → Mgmt) : (s.modMgmt f).vin = s.vin := rfl
@[simp] theorem State.modMgmt_power (f : Mgmt → Mgmt) : (s.modMgmt f).power = s.power := rfl
@[simp] theorem State.modMgmt_startup (f : Mgmt → Mgmt) : (s.modMgmt f).startup = s.startup := rfl
@[simp] theorem State.modMgmt_sec (f : Mgmt → Mgmt) : (s.modMgmt f).sec = s.sec := rfl
@[simp] theorem State.modMgmt_odl (f : Mgmt → Mgmt) : (s.modMgmt f).odl = s.odl := rfl
@[simp] theorem State.modMgmt_mgmt (f : Mgmt → Mgmt) : (s.modMgmt f).mgmt = f s.mgmt := rfl
@[simp] theorem State.modMgmt_free (f : Mgmt → Mgmt) : (s.modMgmt f).free = s.free := rfl
@[simp] theorem State.modMgmt_out (f : Mgmt → Mgmt) : (s.modMgmt f).out = s.out := rfl
@[simp] theorem State.modMgmt_pending (f : Mgmt → Mgmt) : (s.modMgmt f).pending = s.pending := rfl

/-! ### `State.modSec` -/

@[simp] theorem State.modSec_variant (f : Sec → Sec) : (s.modSec f).variant = s.variant := rfl
@[simp] theorem State.modSec_regs (f : Sec → Sec) : (s.modSec f).regs = s.regs := rfl
@[simp] theorem State.modSec_latch (f : Sec → Sec) : (s.modSec f).latch = s.latch := rfl
@[simp] theorem State.modSec_named (f : Sec → Sec) : (s.modSec f).named = s.named := rfl
@[simp] theorem State.modSec_time (f : Sec → Sec) : (s.modSec f).time = s.time := rfl
@[simp] theorem State.modSec_mem (f : Sec → Sec) : (s.modSec f).mem = s.mem := rfl
@[simp] theorem State.modSec_poison (f : Sec → Sec) : (s.modSec f).poison = s.poison := rfl
@[simp] theorem State.modSec_pages (f : Sec → Sec) : (s.modSec f).pages = s.pages := rfl
@[simp] theorem State.modSec_pubs (f : Sec → Sec) : (s.modSec f).pubs = s.pubs := rfl
@[simp] theorem State.modSec_tasks (f : Sec → Sec) : (s.modSec f).tasks = s.tasks := rfl
@[simp] theorem State.modSec_deferred (f : Sec → Sec) : (s.modSec f).deferred = s.deferred := rfl
@[simp] theorem State.modSec_journal (f : Sec → Sec) : (s.modSec f).journal = s.journal := rfl
@[simp] theorem State.modSec_sched (f : Sec → Sec) : (s.modSec f).sched = s.sched := rfl
@[simp] theorem State.modSec_runs (f : Sec → Sec) : (s.modSec f).runs = s.runs := rfl
@[simp] theorem State.modSec_parts (f : Sec → Sec) : (s.modSec f).parts = s.parts := rfl
@[simp] theorem State.modSec_cores (f : Sec → Sec) : (s.modSec f).cores = s.cores := rfl
@[simp] theorem State.modSec_vblocks (f : Sec → Sec) : (s.modSec f).vblocks = s.vblocks := rfl
@[simp] theorem State.modSec_guards (f : Sec → Sec) : (s.modSec f).guards = s.guards := rfl
@[simp] theorem State.modSec_guardHeld (f : Sec → Sec) : (s.modSec f).guardHeld = s.guardHeld := rfl
@[simp] theorem State.modSec_skips (f : Sec → Sec) : (s.modSec f).skips = s.skips := rfl
@[simp] theorem State.modSec_hbm (f : Sec → Sec) : (s.modSec f).hbm = s.hbm := rfl
@[simp] theorem State.modSec_progMib (f : Sec → Sec) : (s.modSec f).progMib = s.progMib := rfl
@[simp] theorem State.modSec_ports (f : Sec → Sec) : (s.modSec f).ports = s.ports := rfl
@[simp] theorem State.modSec_inject (f : Sec → Sec) : (s.modSec f).inject = s.inject := rfl
@[simp] theorem State.modSec_rx (f : Sec → Sec) : (s.modSec f).rx = s.rx := rfl
@[simp] theorem State.modSec_haltEpoch (f : Sec → Sec) : (s.modSec f).haltEpoch = s.haltEpoch := rfl
@[simp] theorem State.modSec_rme (f : Sec → Sec) : (s.modSec f).rme = s.rme := rfl
@[simp] theorem State.modSec_col (f : Sec → Sec) : (s.modSec f).col = s.col := rfl
@[simp] theorem State.modSec_rru (f : Sec → Sec) : (s.modSec f).rru = s.rru := rfl
@[simp] theorem State.modSec_vin (f : Sec → Sec) : (s.modSec f).vin = s.vin := rfl
@[simp] theorem State.modSec_power (f : Sec → Sec) : (s.modSec f).power = s.power := rfl
@[simp] theorem State.modSec_startup (f : Sec → Sec) : (s.modSec f).startup = s.startup := rfl
@[simp] theorem State.modSec_sec (f : Sec → Sec) : (s.modSec f).sec = f s.sec := rfl
@[simp] theorem State.modSec_odl (f : Sec → Sec) : (s.modSec f).odl = s.odl := rfl
@[simp] theorem State.modSec_mgmt (f : Sec → Sec) : (s.modSec f).mgmt = s.mgmt := rfl
@[simp] theorem State.modSec_free (f : Sec → Sec) : (s.modSec f).free = s.free := rfl
@[simp] theorem State.modSec_out (f : Sec → Sec) : (s.modSec f).out = s.out := rfl
@[simp] theorem State.modSec_pending (f : Sec → Sec) : (s.modSec f).pending = s.pending := rfl

/-! ### `State.modStartup` -/

@[simp] theorem State.modStartup_variant (f : Startup → Startup) : (s.modStartup f).variant = s.variant := rfl
@[simp] theorem State.modStartup_regs (f : Startup → Startup) : (s.modStartup f).regs = s.regs := rfl
@[simp] theorem State.modStartup_latch (f : Startup → Startup) : (s.modStartup f).latch = s.latch := rfl
@[simp] theorem State.modStartup_named (f : Startup → Startup) : (s.modStartup f).named = s.named := rfl
@[simp] theorem State.modStartup_time (f : Startup → Startup) : (s.modStartup f).time = s.time := rfl
@[simp] theorem State.modStartup_mem (f : Startup → Startup) : (s.modStartup f).mem = s.mem := rfl
@[simp] theorem State.modStartup_poison (f : Startup → Startup) : (s.modStartup f).poison = s.poison := rfl
@[simp] theorem State.modStartup_pages (f : Startup → Startup) : (s.modStartup f).pages = s.pages := rfl
@[simp] theorem State.modStartup_pubs (f : Startup → Startup) : (s.modStartup f).pubs = s.pubs := rfl
@[simp] theorem State.modStartup_tasks (f : Startup → Startup) : (s.modStartup f).tasks = s.tasks := rfl
@[simp] theorem State.modStartup_deferred (f : Startup → Startup) : (s.modStartup f).deferred = s.deferred := rfl
@[simp] theorem State.modStartup_journal (f : Startup → Startup) : (s.modStartup f).journal = s.journal := rfl
@[simp] theorem State.modStartup_sched (f : Startup → Startup) : (s.modStartup f).sched = s.sched := rfl
@[simp] theorem State.modStartup_runs (f : Startup → Startup) : (s.modStartup f).runs = s.runs := rfl
@[simp] theorem State.modStartup_parts (f : Startup → Startup) : (s.modStartup f).parts = s.parts := rfl
@[simp] theorem State.modStartup_cores (f : Startup → Startup) : (s.modStartup f).cores = s.cores := rfl
@[simp] theorem State.modStartup_vblocks (f : Startup → Startup) : (s.modStartup f).vblocks = s.vblocks := rfl
@[simp] theorem State.modStartup_guards (f : Startup → Startup) : (s.modStartup f).guards = s.guards := rfl
@[simp] theorem State.modStartup_guardHeld (f : Startup → Startup) : (s.modStartup f).guardHeld = s.guardHeld := rfl
@[simp] theorem State.modStartup_skips (f : Startup → Startup) : (s.modStartup f).skips = s.skips := rfl
@[simp] theorem State.modStartup_hbm (f : Startup → Startup) : (s.modStartup f).hbm = s.hbm := rfl
@[simp] theorem State.modStartup_progMib (f : Startup → Startup) : (s.modStartup f).progMib = s.progMib := rfl
@[simp] theorem State.modStartup_ports (f : Startup → Startup) : (s.modStartup f).ports = s.ports := rfl
@[simp] theorem State.modStartup_inject (f : Startup → Startup) : (s.modStartup f).inject = s.inject := rfl
@[simp] theorem State.modStartup_rx (f : Startup → Startup) : (s.modStartup f).rx = s.rx := rfl
@[simp] theorem State.modStartup_haltEpoch (f : Startup → Startup) : (s.modStartup f).haltEpoch = s.haltEpoch := rfl
@[simp] theorem State.modStartup_rme (f : Startup → Startup) : (s.modStartup f).rme = s.rme := rfl
@[simp] theorem State.modStartup_col (f : Startup → Startup) : (s.modStartup f).col = s.col := rfl
@[simp] theorem State.modStartup_rru (f : Startup → Startup) : (s.modStartup f).rru = s.rru := rfl
@[simp] theorem State.modStartup_vin (f : Startup → Startup) : (s.modStartup f).vin = s.vin := rfl
@[simp] theorem State.modStartup_power (f : Startup → Startup) : (s.modStartup f).power = s.power := rfl
@[simp] theorem State.modStartup_startup (f : Startup → Startup) : (s.modStartup f).startup = f s.startup := rfl
@[simp] theorem State.modStartup_sec (f : Startup → Startup) : (s.modStartup f).sec = s.sec := rfl
@[simp] theorem State.modStartup_odl (f : Startup → Startup) : (s.modStartup f).odl = s.odl := rfl
@[simp] theorem State.modStartup_mgmt (f : Startup → Startup) : (s.modStartup f).mgmt = s.mgmt := rfl
@[simp] theorem State.modStartup_free (f : Startup → Startup) : (s.modStartup f).free = s.free := rfl
@[simp] theorem State.modStartup_out (f : Startup → Startup) : (s.modStartup f).out = s.out := rfl
@[simp] theorem State.modStartup_pending (f : Startup → Startup) : (s.modStartup f).pending = s.pending := rfl

/-! ### `State.setTask` -/

@[simp] theorem State.setTask_variant (x : Task) : (s.setTask x).variant = s.variant := rfl
@[simp] theorem State.setTask_regs (x : Task) : (s.setTask x).regs = s.regs := rfl
@[simp] theorem State.setTask_latch (x : Task) : (s.setTask x).latch = s.latch := rfl
@[simp] theorem State.setTask_named (x : Task) : (s.setTask x).named = s.named := rfl
@[simp] theorem State.setTask_time (x : Task) : (s.setTask x).time = s.time := rfl
@[simp] theorem State.setTask_mem (x : Task) : (s.setTask x).mem = s.mem := rfl
@[simp] theorem State.setTask_poison (x : Task) : (s.setTask x).poison = s.poison := rfl
@[simp] theorem State.setTask_pages (x : Task) : (s.setTask x).pages = s.pages := rfl
@[simp] theorem State.setTask_pubs (x : Task) : (s.setTask x).pubs = s.pubs := rfl
@[simp] theorem State.setTask_deferred (x : Task) : (s.setTask x).deferred = s.deferred := rfl
@[simp] theorem State.setTask_journal (x : Task) : (s.setTask x).journal = s.journal := rfl
@[simp] theorem State.setTask_sched (x : Task) : (s.setTask x).sched = s.sched := rfl
@[simp] theorem State.setTask_runs (x : Task) : (s.setTask x).runs = s.runs := rfl
@[simp] theorem State.setTask_parts (x : Task) : (s.setTask x).parts = s.parts := rfl
@[simp] theorem State.setTask_cores (x : Task) : (s.setTask x).cores = s.cores := rfl
@[simp] theorem State.setTask_vblocks (x : Task) : (s.setTask x).vblocks = s.vblocks := rfl
@[simp] theorem State.setTask_guards (x : Task) : (s.setTask x).guards = s.guards := rfl
@[simp] theorem State.setTask_guardHeld (x : Task) : (s.setTask x).guardHeld = s.guardHeld := rfl
@[simp] theorem State.setTask_skips (x : Task) : (s.setTask x).skips = s.skips := rfl
@[simp] theorem State.setTask_hbm (x : Task) : (s.setTask x).hbm = s.hbm := rfl
@[simp] theorem State.setTask_progMib (x : Task) : (s.setTask x).progMib = s.progMib := rfl
@[simp] theorem State.setTask_ports (x : Task) : (s.setTask x).ports = s.ports := rfl
@[simp] theorem State.setTask_inject (x : Task) : (s.setTask x).inject = s.inject := rfl
@[simp] theorem State.setTask_rx (x : Task) : (s.setTask x).rx = s.rx := rfl
@[simp] theorem State.setTask_haltEpoch (x : Task) : (s.setTask x).haltEpoch = s.haltEpoch := rfl
@[simp] theorem State.setTask_rme (x : Task) : (s.setTask x).rme = s.rme := rfl
@[simp] theorem State.setTask_col (x : Task) : (s.setTask x).col = s.col := rfl
@[simp] theorem State.setTask_rru (x : Task) : (s.setTask x).rru = s.rru := rfl
@[simp] theorem State.setTask_vin (x : Task) : (s.setTask x).vin = s.vin := rfl
@[simp] theorem State.setTask_power (x : Task) : (s.setTask x).power = s.power := rfl
@[simp] theorem State.setTask_startup (x : Task) : (s.setTask x).startup = s.startup := rfl
@[simp] theorem State.setTask_sec (x : Task) : (s.setTask x).sec = s.sec := rfl
@[simp] theorem State.setTask_odl (x : Task) : (s.setTask x).odl = s.odl := rfl
@[simp] theorem State.setTask_mgmt (x : Task) : (s.setTask x).mgmt = s.mgmt := rfl
@[simp] theorem State.setTask_free (x : Task) : (s.setTask x).free = s.free := rfl
@[simp] theorem State.setTask_out (x : Task) : (s.setTask x).out = s.out := rfl
@[simp] theorem State.setTask_pending (x : Task) : (s.setTask x).pending = s.pending := rfl

/-! ### `State.modTask` -/

@[simp] theorem State.modTask_variant (q : Nat) (f : Task → Task) : (s.modTask q f).variant = s.variant := rfl
@[simp] theorem State.modTask_regs (q : Nat) (f : Task → Task) : (s.modTask q f).regs = s.regs := rfl
@[simp] theorem State.modTask_latch (q : Nat) (f : Task → Task) : (s.modTask q f).latch = s.latch := rfl
@[simp] theorem State.modTask_named (q : Nat) (f : Task → Task) : (s.modTask q f).named = s.named := rfl
@[simp] theorem State.modTask_time (q : Nat) (f : Task → Task) : (s.modTask q f).time = s.time := rfl
@[simp] theorem State.modTask_mem (q : Nat) (f : Task → Task) : (s.modTask q f).mem = s.mem := rfl
@[simp] theorem State.modTask_poison (q : Nat) (f : Task → Task) : (s.modTask q f).poison = s.poison := rfl
@[simp] theorem State.modTask_pages (q : Nat) (f : Task → Task) : (s.modTask q f).pages = s.pages := rfl
@[simp] theorem State.modTask_pubs (q : Nat) (f : Task → Task) : (s.modTask q f).pubs = s.pubs := rfl
@[simp] theorem State.modTask_deferred (q : Nat) (f : Task → Task) : (s.modTask q f).deferred = s.deferred := rfl
@[simp] theorem State.modTask_journal (q : Nat) (f : Task → Task) : (s.modTask q f).journal = s.journal := rfl
@[simp] theorem State.modTask_sched (q : Nat) (f : Task → Task) : (s.modTask q f).sched = s.sched := rfl
@[simp] theorem State.modTask_runs (q : Nat) (f : Task → Task) : (s.modTask q f).runs = s.runs := rfl
@[simp] theorem State.modTask_parts (q : Nat) (f : Task → Task) : (s.modTask q f).parts = s.parts := rfl
@[simp] theorem State.modTask_cores (q : Nat) (f : Task → Task) : (s.modTask q f).cores = s.cores := rfl
@[simp] theorem State.modTask_vblocks (q : Nat) (f : Task → Task) : (s.modTask q f).vblocks = s.vblocks := rfl
@[simp] theorem State.modTask_guards (q : Nat) (f : Task → Task) : (s.modTask q f).guards = s.guards := rfl
@[simp] theorem State.modTask_guardHeld (q : Nat) (f : Task → Task) : (s.modTask q f).guardHeld = s.guardHeld := rfl
@[simp] theorem State.modTask_skips (q : Nat) (f : Task → Task) : (s.modTask q f).skips = s.skips := rfl
@[simp] theorem State.modTask_hbm (q : Nat) (f : Task → Task) : (s.modTask q f).hbm = s.hbm := rfl
@[simp] theorem State.modTask_progMib (q : Nat) (f : Task → Task) : (s.modTask q f).progMib = s.progMib := rfl
@[simp] theorem State.modTask_ports (q : Nat) (f : Task → Task) : (s.modTask q f).ports = s.ports := rfl
@[simp] theorem State.modTask_inject (q : Nat) (f : Task → Task) : (s.modTask q f).inject = s.inject := rfl
@[simp] theorem State.modTask_rx (q : Nat) (f : Task → Task) : (s.modTask q f).rx = s.rx := rfl
@[simp] theorem State.modTask_haltEpoch (q : Nat) (f : Task → Task) : (s.modTask q f).haltEpoch = s.haltEpoch := rfl
@[simp] theorem State.modTask_rme (q : Nat) (f : Task → Task) : (s.modTask q f).rme = s.rme := rfl
@[simp] theorem State.modTask_col (q : Nat) (f : Task → Task) : (s.modTask q f).col = s.col := rfl
@[simp] theorem State.modTask_rru (q : Nat) (f : Task → Task) : (s.modTask q f).rru = s.rru := rfl
@[simp] theorem State.modTask_vin (q : Nat) (f : Task → Task) : (s.modTask q f).vin = s.vin := rfl
@[simp] theorem State.modTask_power (q : Nat) (f : Task → Task) : (s.modTask q f).power = s.power := rfl
@[simp] theorem State.modTask_startup (q : Nat) (f : Task → Task) : (s.modTask q f).startup = s.startup := rfl
@[simp] theorem State.modTask_sec (q : Nat) (f : Task → Task) : (s.modTask q f).sec = s.sec := rfl
@[simp] theorem State.modTask_odl (q : Nat) (f : Task → Task) : (s.modTask q f).odl = s.odl := rfl
@[simp] theorem State.modTask_mgmt (q : Nat) (f : Task → Task) : (s.modTask q f).mgmt = s.mgmt := rfl
@[simp] theorem State.modTask_free (q : Nat) (f : Task → Task) : (s.modTask q f).free = s.free := rfl
@[simp] theorem State.modTask_out (q : Nat) (f : Task → Task) : (s.modTask q f).out = s.out := rfl
@[simp] theorem State.modTask_pending (q : Nat) (f : Task → Task) : (s.modTask q f).pending = s.pending := rfl

end Sys2Proof.Machine
end

