-- ==== Sys2Proof/Laws/Registers.lean ====
section
/-! SUPPORT. Laws of registers: a register reads as it was last set, and every other register reads as before; the
same for fields and bits. -/

set_option Elab.async false

namespace Sys2Proof.Machine

open Sys2Proof

/-! ### Bit fields -/

theorem getBits_lt (v hi lo : Nat) : getBits v hi lo < 2 ^ (hi + 1 - lo) := Nat.mod_lt _ (Nat.two_pow_pos _)

theorem getBits_shift_le (v hi lo : Nat) : getBits v hi lo <<< lo ≤ v := by
  simp only [getBits, Nat.shiftLeft_eq, Nat.shiftRight_eq_div_pow]
  calc v / 2 ^ lo % 2 ^ (hi + 1 - lo) * 2 ^ lo ≤ v / 2 ^ lo * 2 ^ lo := Nat.mul_le_mul_right _ (Nat.mod_le _ _)
    _ ≤ v := Nat.div_mul_le_self _ _

/-- A number is its field, what lies below the field, and what lies above it. -/
theorem bits_split (v hi lo : Nat) (h : lo ≤ hi + 1) :
    v = v % 2 ^ lo + getBits v hi lo * 2 ^ lo + v / 2 ^ (hi + 1) * 2 ^ (hi + 1) := by
  have e : 2 ^ (hi + 1) = 2 ^ lo * 2 ^ (hi + 1 - lo) := by rw [← Nat.pow_add]; congr 1; omega
  have h1 := Nat.div_add_mod v (2 ^ lo)
  have h2 := Nat.div_add_mod (v / 2 ^ lo) (2 ^ (hi + 1 - lo))
  simp only [getBits, Nat.shiftRight_eq_div_pow]
  rw [e, ← Nat.div_div_eq_div_mul]
  generalize v / 2 ^ lo / 2 ^ (hi + 1 - lo) = a at *
  generalize v / 2 ^ lo % 2 ^ (hi + 1 - lo) = b at *
  generalize v % 2 ^ lo = c at *
  rw [← h1, ← h2]
  ring

theorem putBits_eq (v hi lo x : Nat) (h : lo ≤ hi + 1) :
    putBits v hi lo x = v % 2 ^ lo + x % 2 ^ (hi + 1 - lo) * 2 ^ lo + v / 2 ^ (hi + 1) * 2 ^ (hi + 1) := by
  have := bits_split v hi lo h
  simp only [putBits, Nat.shiftLeft_eq]
  omega

theorem below_lt (v hi lo x : Nat) (h : lo ≤ hi + 1) :
    v % 2 ^ lo + x % 2 ^ (hi + 1 - lo) * 2 ^ lo < 2 ^ (hi + 1) := by
  have e : 2 ^ (hi + 1) = 2 ^ (hi + 1 - lo) * 2 ^ lo := by rw [← Nat.pow_add]; congr 1; omega
  have h1 : v % 2 ^ lo < 2 ^ lo := Nat.mod_lt _ (Nat.two_pow_pos _)
  have h2 : x % 2 ^ (hi + 1 - lo) + 1 ≤ 2 ^ (hi + 1 - lo) := Nat.mod_lt _ (Nat.two_pow_pos _)
  rw [e]
  calc v % 2 ^ lo + x % 2 ^ (hi + 1 - lo) * 2 ^ lo < 2 ^ lo + x % 2 ^ (hi + 1 - lo) * 2 ^ lo := by omega
    _ = (x % 2 ^ (hi + 1 - lo) + 1) * 2 ^ lo := by ring
    _ ≤ _ := Nat.mul_le_mul_right _ h2

/-- A field reads as it was put. -/
theorem getBits_putBits (v hi lo x : Nat) (h : lo ≤ hi + 1) : getBits (putBits v hi lo x) hi lo = x % 2 ^ (hi + 1 - lo) := by
  have e : 2 ^ (hi + 1) = 2 ^ (hi + 1 - lo) * 2 ^ lo := by rw [← Nat.pow_add]; congr 1; omega
  rw [putBits_eq v hi lo x h, getBits, Nat.shiftRight_eq_div_pow, e, ← Nat.mul_assoc, Nat.add_assoc, ← Nat.add_mul,
    Nat.add_mul_div_right _ _ (Nat.two_pow_pos _), Nat.div_eq_of_lt (Nat.mod_lt _ (Nat.two_pow_pos _)), Nat.zero_add,
    Nat.add_mul_mod_self_right, Nat.mod_mod]

theorem putBits_div (v hi lo x : Nat) (h : lo ≤ hi + 1) : putBits v hi lo x / 2 ^ (hi + 1) = v / 2 ^ (hi + 1) := by
  rw [putBits_eq v hi lo x h, Nat.add_mul_div_right _ _ (Nat.two_pow_pos _), Nat.div_eq_of_lt (below_lt v hi lo x h),
    Nat.zero_add]

/-- A field put into a 64-bit word leaves a 64-bit word. -/
theorem putBits_lt (v hi lo x : Nat) (h : lo ≤ hi + 1) (hh : hi < 64) (hv : v < 2 ^ 64) : putBits v hi lo x < 2 ^ 64 := by
  have e : 2 ^ 64 = 2 ^ (hi + 1) * 2 ^ (63 - hi) := by rw [← Nat.pow_add]; congr 1; omega
  rw [e] at hv ⊢
  have hd := putBits_div v hi lo x h
  have hq : v / 2 ^ (hi + 1) < 2 ^ (63 - hi) := Nat.div_lt_of_lt_mul hv
  rw [← hd, Nat.div_lt_iff_lt_mul (Nat.two_pow_pos _), Nat.mul_comm] at hq
  exact hq

/-- A bit outside the field is as before. -/
theorem testBit_putBits (v hi lo x i : Nat) (h : lo ≤ hi + 1) (hi' : i < lo ∨ hi < i) :
    (putBits v hi lo x).testBit i = v.testBit i := by
  rcases hi' with hlt | hgt
  · have key : putBits v hi lo x % 2 ^ lo = v % 2 ^ lo := by
      have e : 2 ^ (hi + 1) = 2 ^ (hi + 1 - lo) * 2 ^ lo := by rw [← Nat.pow_add]; congr 1; omega
      rw [putBits_eq v hi lo x h, e, ← Nat.mul_assoc, Nat.add_assoc, ← Nat.add_mul, Nat.add_mul_mod_self_right,
        Nat.mod_mod]
    have a := Nat.testBit_mod_two_pow (putBits v hi lo x) lo i
    have b := Nat.testBit_mod_two_pow v lo i
    simp only [hlt, decide_true, Bool.true_and] at a b
    rw [← a, ← b, key]
  · have key := putBits_div v hi lo x h
    have a := Nat.testBit_div_two_pow (n := hi + 1) (putBits v hi lo x) (i - (hi + 1))
    have b := Nat.testBit_div_two_pow (n := hi + 1) v (i - (hi + 1))
    rw [show i - (hi + 1) + (hi + 1) = i by omega] at a b
    rw [← a, ← b, key]

/-! ### Registers -/

theorem State.reg_lt (s : State) (off : Nat) : s.reg off < 2 ^ 64 := BitVec.isLt _

/-- A register reads as it was last set. -/
theorem State.reg_setReg_same (s : State) (off v : Nat) (h : Rising s.regs) (hv : v < 2 ^ 64) :
    (s.setReg off v).reg off = v := by
  unfold State.reg State.setReg
  simp only
  rw [mapGet_mapPut_same h]
  split
  · rename_i e; rw [Option.getD_none, ← e, BitVec.toNat_ofNat, Nat.mod_eq_of_lt hv]
  · rw [Option.getD_some, BitVec.toNat_ofNat, Nat.mod_eq_of_lt hv]

/-- Every other register reads as before. -/
theorem State.reg_setReg_other (s : State) (off v j : Nat) (hj : j ≠ off) : (s.setReg off v).reg j = s.reg j := by
  unfold State.reg State.setReg
  simp only
  rw [mapGet_mapPut_other hj]

theorem State.setReg_rising (s : State) (off v : Nat) (h : Rising s.regs) : Rising (s.setReg off v).regs :=
  mapPut_rising h

theorem State.fld_setFld_same (s : State) (off hi lo v : Nat) (h : Rising s.regs) (hl : lo ≤ hi + 1) (hh : hi < 64) :
    (s.setFld off hi lo v).fld off hi lo = v % 2 ^ (hi + 1 - lo) := by
  unfold State.fld State.setFld
  rw [s.reg_setReg_same off _ h (putBits_lt _ hi lo v hl hh (s.reg_lt off)), getBits_putBits _ hi lo v hl]

theorem State.reg_setFld_other (s : State) (off hi lo v j : Nat) (hj : j ≠ off) :
    (s.setFld off hi lo v).reg j = s.reg j := s.reg_setReg_other off _ j hj

theorem State.bit_setBit_same (s : State) (off i : Nat) (b : Bool) (h : Rising s.regs) (hi : i < 64) :
    (s.setBit off i b).bit off i = b := by
  unfold State.bit State.setBit
  rw [s.fld_setFld_same off i i _ h (by omega) hi]
  cases b <;> simp [b2n]

theorem State.reg_setBit_other (s : State) (off i j : Nat) (b : Bool) (hj : j ≠ off) :
    (s.setBit off i b).reg j = s.reg j := s.reg_setReg_other off _ j hj

/-- A counter counts modulo 2⁶⁴. -/
theorem State.reg_addReg_same (s : State) (off n : Nat) (h : Rising s.regs) :
    (s.addReg off n).reg off = (s.reg off + n) % 2 ^ 64 :=
  s.reg_setReg_same off _ h (Nat.mod_lt _ (Nat.two_pow_pos _))

theorem State.reg_addReg_other (s : State) (off n j : Nat) (hj : j ≠ off) : (s.addReg off n).reg j = s.reg j :=
  s.reg_setReg_other off _ j hj

theorem bitOf_eq_testBit (v i : Nat) : bitOf v i = v.testBit i := by
  rw [bitOf, getBits, show i + 1 - i = 1 by omega, Nat.shiftRight_eq_div_pow, Nat.testBit_eq_decide_div_mod_eq]
  simp [Bool.beq_eq_decide_eq]

theorem State.bit_eq_testBit (s : State) (off i : Nat) : s.bit off i = (s.reg off).testBit i := bitOf_eq_testBit _ _

theorem State.bit_setFld_other (s : State) (off hi lo v i : Nat) (h : Rising s.regs) (hl : lo ≤ hi + 1) (hh : hi < 64)
    (hi' : i < lo ∨ hi < i) : (s.setFld off hi lo v).bit off i = s.bit off i := by
  rw [State.bit_eq_testBit, State.bit_eq_testBit, State.setFld,
    s.reg_setReg_same off _ h (putBits_lt _ hi lo v hl hh (s.reg_lt off)), testBit_putBits _ hi lo v i hl hi']

theorem State.bit_setBit_other (s : State) (off i j : Nat) (b : Bool) (h : Rising s.regs) (hi : i < 64) (hj : j ≠ i) :
    (s.setBit off i b).bit off j = s.bit off j :=
  s.bit_setFld_other off i i _ j h (by omega) hi (by omega)

end Sys2Proof.Machine
end

