-- ==== Sys2Proof/Laws/Frames.lean ====
section
/-! SUPPORT. Frames: which registers decide what a byte of device memory reads as, and the frame of a change of
registers (`State.OnlyRegs`). -/

set_option Elab.async false

namespace Sys2Proof.Machine

open Sys2Proof

/-- The registers that decide how a byte of device memory reads: the window's base, the Cadastre table's base, the
limits of the stacks, and the region and image entries. -/
def byteReg (o : Nat) : Bool :=
  o == regOdlCwBase || o == regCadTableBase || o == regSmsDarn
    || decide (regCadWregion 0 ≤ o ∧ o < regCadWregion 256) || decide (regCadImage 0 ≤ o ∧ o < regCadImage 512)

theorem byteReg_wregion {i : Nat} (h : i < 256) : byteReg (regCadWregion i) = true := by
  simp only [byteReg, Bool.or_eq_true, decide_eq_true_eq]
  left; right
  constructor <;> simp only [regCadWregion] <;> omega

theorem byteReg_wregionHi {i : Nat} (h : i < 256) : byteReg (regCadWregionHi i) = true := by
  simp only [byteReg, Bool.or_eq_true, decide_eq_true_eq]
  left; right
  constructor <;> simp only [regCadWregion, regCadWregionHi] <;> omega

theorem byteReg_image {i : Nat} (h : i < 512) : byteReg (regCadImage i) = true := by
  simp only [byteReg, Bool.or_eq_true, decide_eq_true_eq]
  right
  constructor <;> simp only [regCadImage] <;> omega

/-- Two find? over lists whose predicates agree on the members. -/
theorem find?_congr {α : Type} {l : List α} {p q : α → Bool} (h : ∀ x ∈ l, p x = q x) : l.find? p = l.find? q := by
  induction l with
  | nil => rfl
  | cons x l ih =>
    have hx := h x (List.mem_cons_self ..)
    simp only [List.find?, hx, ih fun y hy => h y (List.mem_cons_of_mem x hy)]

/-- A byte of device memory reads alike in two states that differ in other registers and in their outputs only. -/
theorem State.rd_of_regs {s : State} {r : List (Nat × Word)} {o : List Out}
    (hr : ∀ k, byteReg k = true → ∀ d, mapGet d k r = mapGet d k s.regs) (a : Nat) :
    ({ s with regs := r, out := o } : State).rd a = s.rd a := by
  generalize ht : ({ s with regs := r, out := o } : State) = t
  have e1 : t.mem = s.mem := by rw [← ht]
  have e2 : t.odl = s.odl := by rw [← ht]
  have e3 : t.variant = s.variant := by rw [← ht]
  have e4 : t.pages = s.pages := by rw [← ht]
  have e5 : t.pubs = s.pubs := by rw [← ht]
  have e6 : t.regs = r := by rw [← ht]
  have r0 : ∀ k, byteReg k = true → t.reg0 k = s.reg0 k := fun k hk => by
    simp only [State.reg0, e6, hr k hk]
  have hd : t.reg regSmsDarn = s.reg regSmsDarn := by
    simp only [State.reg, e6, e3, hr regSmsDarn (by decide)]
  have hw : ∀ i, i < 256 → t.reg0 (regCadWregion i) = s.reg0 (regCadWregion i) := fun i h => r0 _ (byteReg_wregion h)
  have hh : ∀ i, i < 256 → t.reg0 (regCadWregionHi i) = s.reg0 (regCadWregionHi i) :=
    fun i h => r0 _ (byteReg_wregionHi h)
  have hi : ∀ i, i < 512 → t.reg0 (regCadImage i) = s.reg0 (regCadImage i) := fun i h => r0 _ (byteReg_image h)
  have hl : t.smsLimit = s.smsLimit := by simp only [State.smsLimit, State.fld, hd, e3]
  have ha : t.allocLimit = s.allocLimit := by simp only [State.allocLimit, State.fld, hd, e3]
  have hreg : t.regions = s.regions := by
    unfold State.regions
    refine List.filter_congr fun i h => ?_
    simp only [State.regionValid, hw i (List.mem_range.mp h)]
  have hrm : ∀ i ∈ s.regions, i < 256 := fun i h => List.mem_range.mp (List.mem_filter.mp h).1
  have hro : ∀ p, t.regionOf p = s.regionOf p := fun p => by
    unfold State.regionOf
    rw [hreg]
    refine find?_congr fun i h => ?_
    have f : t.regionFirst i = s.regionFirst i := by simp only [State.regionFirst, hw i (hrm i h)]
    have g : t.regionPages i = s.regionPages i := by simp only [State.regionPages, hh i (hrm i h)]
    rw [f, g]
  have him : t.images = s.images := by
    unfold State.images
    refine List.filter_congr fun j h => ?_
    have : j < 64 := List.mem_range.mp h
    simp only [State.imgState, hi (8 * j) (by omega)]
  have hjm : ∀ j ∈ s.images, j < 64 := fun j h => List.mem_range.mp (List.mem_filter.mp h).1
  have hio : ∀ p, t.imageOf p = s.imageOf p := fun p => by
    unfold State.imageOf
    rw [him]
    refine find?_congr fun j h => ?_
    have := hjm j h
    have f : t.imgFirst j = s.imgFirst j := by simp only [State.imgFirst, hi (8 * j + 1) (by omega)]
    have g : t.imgPages j = s.imgPages j := by simp only [State.imgPages, hi (8 * j + 1) (by omega)]
    rw [f, g]
  have hps : ∀ p, t.pageState p = s.pageState p := fun p => by
    unfold State.pageState
    rw [hl, ha, hio p, hro p, e5]
    split
    · rfl
    · split
      · rfl
      · split
        · rename_i j hj
          have : j < 64 := hjm j (List.mem_of_find?_eq_some hj)
          simp only [State.imgState, hi (8 * j) (by omega)]
        · split
          · rename_i i hj
            have : i < 256 := hrm i (List.mem_of_find?_eq_some hj)
            have f : t.regionSealed i = s.regionSealed i := by simp only [State.regionSealed, hw i this]
            rw [f]
          · rfl
  have hpr : ∀ p, t.pageRecord p = s.pageRecord p := fun p => by
    have hrec : t.pageRec p = s.pageRec p := by
      unfold State.pageRec
      rw [e4]
    unfold State.pageRecord
    rw [hrec, hio p, hro p, hps p]
  have hk : t.memKey a = s.memKey a := by
    unfold State.memKey
    rw [r0 regOdlCwBase (by decide)]
  have hb : t.reg0 regCadTableBase = s.reg0 regCadTableBase := r0 regCadTableBase (by decide)
  unfold State.rd
  dsimp only
  rw [hk, hb, e1, e2, e3, hpr]

/-- The frame of a change of registers none of which decides how a byte reads. -/
theorem State.OnlyRegs.of_regs {s t : State} {offs : List Nat} (hb : offs.all (fun k => !byteReg k) = true)
    (he : { t with regs := s.regs, out := s.out } = s)
    (hr : ∀ k, k ∉ offs → ∀ d, mapGet d k t.regs = mapGet d k s.regs) : s.OnlyRegs t offs := by
  have ev : t.variant = s.variant := by rw [← he]
  have et : t = { s with regs := t.regs, out := t.out } := by rw [← he]
  refine ⟨fun o ho => ?_, fun a => ?_, he⟩
  · simp only [State.reg, hr o ho, ev]
  · rw [et]
    refine State.rd_of_regs (fun k hk d => ?_) a
    refine hr k (fun hm => ?_) d
    have := List.all_eq_true.mp hb k hm
    rw [hk] at this
    cases this

/-- A register word set. -/
theorem State.mapGet_setReg_other (s : State) (off v k : Nat) (hk : k ≠ off) (d : Word) :
    mapGet d k (s.setReg off v).regs = mapGet d k s.regs := mapGet_mapPut_other hk

/-- The frame of one register set. -/
theorem State.onlyRegs_setReg (s : State) (off v : Nat) (hb : byteReg off = false) : s.OnlyRegs (s.setReg off v) [off] :=
  .of_regs (by simp [hb]) rfl fun _ hk d => s.mapGet_setReg_other off v _ (fun e => hk (by simp [e])) d

/-- Frames in a row. -/
theorem State.OnlyRegs.trans {s t u : State} {l m n : List Nat} (h : s.OnlyRegs t l) (g : t.OnlyRegs u m)
    (hl : ∀ o ∈ l, o ∈ n) (hm : ∀ o ∈ m, o ∈ n) : s.OnlyRegs u n := by
  refine ⟨fun o ho => (g.1 o fun x => ho (hm o x)).trans (h.1 o fun x => ho (hl o x)), fun a => (g.2.1 a).trans (h.2.1 a), ?_⟩
  have e1 := g.2.2
  have e2 := h.2.2
  rw [← e1] at e2
  exact e2

/-- The outputs of the last command gone. -/
theorem State.onlyRegs_quiet (s : State) : s.OnlyRegs s.quiet [] := ⟨fun _ _ => rfl, fun _ => rfl, rfl⟩

end Sys2Proof.Machine
end

