-- ==== Sys2Proof/Laws/Kept.lean ====
section
/-! SUPPORT. What every operation of the block keeps: the waiting commands, the variant, the canonical form of the
stored lists, GLB_TIME (which only a loss of power clears, R461), and a fused minimum SVN that never falls (R478).
`Keeps k s` says it of the step from `k` to `s`; the files KeptRegMap to KeptExec have one lemma for each operation. -/

set_option Elab.async false

namespace Sys2Proof.Machine

open Sys2Proof

/-- From `k` to `s` the queue and the variant are kept, and the canonical form of the stored lists; the time stands or
is cleared; the fused minimum SVN does not fall. -/
structure Keeps (k s : State) : Prop where
  pending : s.pending = k.pending
  variant : s.variant = k.variant
  canonical : k.Canonical → s.Canonical
  time : s.time = k.time ∨ s.time = 0
  fuse : k.SvnOk → s.SvnOk ∧ k.sec.svnFuse ≤ s.sec.svnFuse

/-- Every state that an operation may answer is one that `Keeps` reaches. -/
def KeepsO (k : State) (o : Option State) : Prop := ∀ t, o = some t → Keeps k t

/-- The same of an answer that carries the state first, or second, in a pair. -/
def KeepsO1 {α : Type} (k : State) (o : Option (State × α)) : Prop := ∀ r, o = some r → Keeps k r.1
def KeepsO2 {α : Type} (k : State) (o : Option (α × State)) : Prop := ∀ r, o = some r → Keeps k r.2

theorem Keeps.refl (k : State) : Keeps k k := ⟨rfl, rfl, id, .inl rfl, fun o => ⟨o, Nat.le_refl _⟩⟩

theorem Keeps.trans {k s t : State} (h : Keeps k s) (g : Keeps s t) : Keeps k t :=
  ⟨g.pending.trans h.pending, g.variant.trans h.variant, fun c => g.canonical (h.canonical c),
    g.time.elim (fun e => h.time.imp e.trans e.trans) .inr,
    fun o => ⟨(g.fuse (h.fuse o).1).1, Nat.le_trans (h.fuse o).2 (g.fuse (h.fuse o).1).2⟩⟩

/-- The time and the fuses after a step that leaves them alone. -/
theorem Keeps.time_of {k s t : State} (h : Keeps k s) (e : t.time = s.time) : t.time = k.time ∨ t.time = 0 :=
  h.time.imp e.trans e.trans

theorem Keeps.fuse_of {k s t : State} (h : Keeps k s) (ef : t.sec.svnFuse = s.sec.svnFuse)
    (et : t.sec.svnTarget = s.sec.svnTarget) (o : k.SvnOk) : t.SvnOk ∧ k.sec.svnFuse ≤ t.sec.svnFuse := by
  obtain ⟨a, b⟩ := h.fuse o
  refine ⟨fun v hv => ?_, by rw [ef]; exact b⟩
  rw [ef]; exact a v (et ▸ hv)

/-- A change that touches none of the fields concerned. -/
theorem Keeps.congr {k s t : State} (h : Keeps k s) (hp : t.pending = s.pending) (hv : t.variant = s.variant)
    (hr : t.regs = s.regs) (hm : t.mem = s.mem) (hl : t.poison = s.poison) (ht : t.time = s.time := by rfl)
    (hf : t.sec.svnFuse = s.sec.svnFuse := by rfl) (hg : t.sec.svnTarget = s.sec.svnTarget := by rfl) : Keeps k t :=
  ⟨hp.trans h.pending, hv.trans h.variant, fun c => by
    have d := h.canonical c
    exact ⟨by rw [hv, hr]; exact d.regs, by rw [hm]; exact d.mem, by rw [hl]; exact d.poison⟩,
    h.time_of ht, h.fuse_of hf hg⟩

/-- A record update of fields other than those concerned. -/
theorem Keeps.update {k s : State}
    {latch : List (Nat × BitVec 32)} {named : List Nat} {pages : List PageRec} {pubs : List Publish} {tasks :
    List Task} {deferred : List Task} {journal : Journal} {sched : Sched} {runs : List Run} {parts : List Part}
    {cores : List CoreSt} {vblocks : List VBlock} {guards : List (Nat × Nat × Nat)} {guardHeld : List (Nat × Nat
    × Nat)} {skips : List (Nat × Nat × Nat × Nat)} {hbm : Hbm} {progMib : Nat} {ports : List Port} {inject :
    List Pkt} {rx : List Pkt} {haltEpoch : Option Nat} {rme : Rme} {col : Col} {rru : Rru} {vin : Vin} {power :
    Power} {startup : Startup} {odl : Odl} {mgmt : Mgmt} {free : Nat} {out : List Out} :
    Keeps k ⟨s.variant, s.regs, latch, named, s.time, s.mem, s.poison, pages, pubs, tasks, deferred, journal,
    sched, runs, parts, cores, vblocks, guards, guardHeld, skips, hbm, progMib, ports, inject, rx, haltEpoch,
    rme, col, rru, vin, power, startup, s.sec, odl, mgmt, free, out, s.pending⟩ ↔ Keeps k s :=
  ⟨fun h => h.congr rfl rfl rfl rfl rfl, fun h => h.congr rfl rfl rfl rfl rfl⟩

/-- A change that keeps the queue, the variant and the registers, and leaves memory and poison marks in canonical
form. -/
theorem Keeps.mem_poison {k s t : State} (h : Keeps k s) (hp : t.pending = s.pending) (hv : t.variant = s.variant)
    (hr : t.regs = s.regs) (hm : Memory.wf s.mem → Memory.wf t.mem)
    (hl : s.poison.Pairwise (· < ·) → t.poison.Pairwise (· < ·)) (ht : t.time = s.time := by rfl)
    (hf : t.sec.svnFuse = s.sec.svnFuse := by rfl) (hg : t.sec.svnTarget = s.sec.svnTarget := by rfl) : Keeps k t :=
  ⟨hp.trans h.pending, hv.trans h.variant, fun c => by
    have d := h.canonical c
    exact ⟨by rw [hv, hr]; exact d.regs, hm d.mem, hl d.poison⟩, h.time_of ht, h.fuse_of hf hg⟩

/-! ### Answers -/

theorem KeepsO.none {k : State} : KeepsO k none := fun _ h => nomatch h
theorem KeepsO1.none {α : Type} {k : State} : KeepsO1 (α := α) k none := fun _ h => nomatch h
theorem KeepsO2.none {α : Type} {k : State} : KeepsO2 (α := α) k none := fun _ h => nomatch h

theorem KeepsO.some {k t : State} (h : Keeps k t) : KeepsO k (some t) := fun _ e => Option.some.inj e ▸ h
theorem KeepsO1.some {α : Type} {k : State} {r : State × α} (h : Keeps k r.1) : KeepsO1 k (some r) :=
  fun _ e => Option.some.inj e ▸ h
theorem KeepsO2.some {α : Type} {k : State} {r : α × State} (h : Keeps k r.2) : KeepsO2 k (some r) :=
  fun _ e => Option.some.inj e ▸ h

theorem Keeps.ite {k a b : State} {c : Prop} [Decidable c] (ha : Keeps k a) (hb : Keeps k b) :
    Keeps k (if c then a else b) := by
  split <;> assumption

theorem KeepsO.ite {k : State} {a b : Option State} {c : Prop} [Decidable c] (ha : KeepsO k a) (hb : KeepsO k b) :
    KeepsO k (if c then a else b) := by
  split <;> assumption

theorem Keeps.of_some {k t : State} {o : Option State} (e : o = some t) (h : KeepsO k o) : Keeps k t := h t e
theorem Keeps.of_some1 {α : Type} {k t : State} {a : α} {o : Option (State × α)} (e : o = some (t, a))
    (h : KeepsO1 k o) : Keeps k t := h (t, a) e
theorem Keeps.of_some2 {α : Type} {k t : State} {a : α} {o : Option (α × State)} (e : o = some (a, t))
    (h : KeepsO2 k o) : Keeps k t := h (a, t) e
theorem Keeps.of_fst {α : Type} {k t : State} {a : α} {p : State × α} (e : p = (t, a)) (h : Keeps k p.1) : Keeps k t := by
  rw [e] at h; exact h
theorem Keeps.of_snd {α : Type} {k t : State} {a : α} {p : α × State} (e : p = (a, t)) (h : Keeps k p.2) : Keeps k t := by
  rw [e] at h; exact h

theorem Keeps.of_third {α β : Type} {k t : State} {a : α} {b : β} {p : α × β × State} (e : p = (a, b, t))
    (h : Keeps k p.2.2) : Keeps k t := by
  rw [e] at h; exact h

theorem KeepsO.map {k : State} {o : Option State} {f : State → State} (h : KeepsO k o)
    (hf : ∀ t, Keeps k t → Keeps k (f t)) : KeepsO k (o.map f) := by
  intro t e
  cases o with
  | none => cases e
  | some r => cases e; exact hf r (h r rfl)

theorem KeepsO.orElse {k : State} {o : Option State} {g : Unit → Option State} (h : KeepsO k o) (hg : KeepsO k (g ())) :
    KeepsO k (o.orElse g) := by
  cases o with
  | none => exact hg
  | some r => exact h

theorem KeepsO.map1 {α : Type} {k : State} {o : Option (State × α)} {f : State × α → State} (h : KeepsO1 k o)
    (hf : ∀ r, Keeps k r.1 → Keeps k (f r)) : KeepsO k (o.map f) := by
  intro t e
  cases o with
  | none => cases e
  | some r => cases e; exact hf r (h r rfl)

theorem KeepsO.map2 {α : Type} {k : State} {o : Option (α × State)} {f : α × State → State} (h : KeepsO2 k o)
    (hf : ∀ r, Keeps k r.2 → Keeps k (f r)) : KeepsO k (o.map f) := by
  intro t e
  cases o with
  | none => cases e
  | some r => cases e; exact hf r (h r rfl)

theorem Keeps.getD {k d : State} {o : Option State} (h : KeepsO k o) (hd : Keeps k d) : Keeps k (o.getD d) := by
  cases o with
  | none => exact hd
  | some t => exact h t rfl

/-! ### Folds -/

theorem Keeps.foldl {α : Type} {k s : State} {l : List α} {f : State → α → State} (h : Keeps k s)
    (hf : ∀ t a, Keeps k t → Keeps k (f t a)) : Keeps k (l.foldl f s) := by
  induction l generalizing s with
  | nil => exact h
  | cons a l ih => exact ih (hf s a h)

theorem Keeps.foldl1 {α β : Type} {k : State} {l : List α} {f : State × β → α → State × β} {p : State × β}
    (h : Keeps k p.1) (hf : ∀ q a, Keeps k q.1 → Keeps k (f q a).1) : Keeps k (l.foldl f p).1 := by
  induction l generalizing p with
  | nil => exact h
  | cons a l ih => exact ih (hf p a h)

theorem Keeps.foldl2 {α β : Type} {k : State} {l : List α} {f : β × State → α → β × State} {p : β × State}
    (h : Keeps k p.2) (hf : ∀ q a, Keeps k q.2 → Keeps k (f q a).2) : Keeps k (l.foldl f p).2 := by
  induction l generalizing p with
  | nil => exact h
  | cons a l ih => exact ih (hf p a h)

/-! ### Commands -/

/-- Every next state that a command answers is one that `Keeps` reaches. -/
def KeepsX (k : State) (r : Result) : Prop := ∀ t, r = .next t → Keeps k t

theorem State.quiet_keeps {k s : State} (h : Keeps k s) : Keeps k s.quiet := h.congr rfl rfl rfl rfl rfl

theorem attempt_keeps {k s : State} {f : State → Option State} (h : Keeps k s)
    (hf : ∀ z, Keeps k z → KeepsO k (f z)) : KeepsX k (attempt s f) := by
  intro t e
  cases e
  exact Keeps.getD (hf _ (State.quiet_keeps h)) (State.quiet_keeps h)

end Sys2Proof.Machine
end

