-- ==== Sys2Proof/Laws/KeptRegMap.lean ====
section
/-! SUPPORT. What the operations of Machine/RegMap.lean keep (Laws/Kept.lean). -/

set_option Elab.async false

set_option linter.unusedTactic false
set_option linter.unreachableTactic false

namespace Sys2Proof.Machine

open Sys2Proof

theorem State.setReg_keeps {k s : State} {off v : Nat} (h : Keeps k s) : Keeps k (s.setReg off v) :=
  ⟨h.pending, h.variant, fun c => by
    have d := h.canonical c
    exact ⟨mapPut_regsWf d.regs, d.mem, d.poison⟩, h.time_of rfl, h.fuse_of rfl rfl⟩

theorem State.setFld_keeps {k : State} {s : State} {off : ℕ} {hi : ℕ} {lo : ℕ} {v : ℕ} (h : Keeps k s) :
    Keeps k (State.setFld s off hi lo v) := by
  unfold State.setFld
  repeat' first
    | with_reducible assumption
    | with_reducible apply State.setReg_keeps
    | split
    | with_reducible apply Keeps.ite
    | (intro)

theorem State.setBit_keeps {k : State} {s : State} {off : ℕ} {i : ℕ} {b : Bool} (h : Keeps k s) :
    Keeps k (State.setBit s off i b) := by
  unfold State.setBit
  repeat' first
    | with_reducible assumption
    | with_reducible apply State.setFld_keeps
    | split
    | with_reducible apply Keeps.ite
    | (intro)

theorem State.addReg_keeps {k : State} {s : State} {off : ℕ} {n : ℕ} (h : Keeps k s) :
    Keeps k (State.addReg s off n) := by
  unfold State.addReg
  repeat' first
    | with_reducible assumption
    | with_reducible apply State.setReg_keeps
    | split
    | with_reducible apply Keeps.ite
    | (intro)

theorem State.emit_keeps {k : State} {s : State} {o : Out} (h : Keeps k s) :
    Keeps k (State.emit s o) := by
  unfold State.emit
  repeat' first
    | with_reducible assumption
    | split
    | with_reducible apply Keeps.ite
    | (intro)
    | fail_if_no_progress with_reducible apply Keeps.update.mpr

end Sys2Proof.Machine
end

