-- ==== Sys2Proof/Laws/KeptOps.lean ====
section
/-! SUPPORT. What the operations of Machine/Ops.lean keep (Laws/Kept.lean). -/

set_option Elab.async false

set_option linter.unusedTactic false
set_option linter.unreachableTactic false

namespace Sys2Proof.Machine

open Sys2Proof

theorem State.darnWrite_keeps {k : State} {s : State} {a : Nat} (h : Keeps k s) :
    Keeps k (State.darnWrite s a) := by
  unfold State.darnWrite
  repeat' first
    | extract_lets
    | with_reducible assumption
    | split
    | with_reducible apply Keeps.ite
    | (intro)
    | fail_if_no_progress with_reducible apply Keeps.update.mpr

theorem State.setPageRec_keeps {k : State} {s : State} {r : PageRec} (h : Keeps k s) :
    Keeps k (State.setPageRec s r) := by
  unfold State.setPageRec
  repeat' first
    | extract_lets
    | with_reducible assumption
    | split
    | with_reducible apply Keeps.ite
    | (intro)
    | fail_if_no_progress with_reducible apply Keeps.update.mpr

theorem State.store_keeps {k s : State} {a : Nat} {bs : List Byte} (h : Keeps k s) : Keeps k (s.store a bs) :=
  h.mem_poison rfl rfl rfl memPutAll_wf (List.Pairwise.filter _)

theorem State.storeWindow_keeps {k s : State} {a : Nat} {bs : List Byte} (h : Keeps k s) :
    Keeps k (s.storeWindow a bs) :=
  h.mem_poison rfl rfl rfl id (List.Pairwise.filter _)

theorem State.writeBack_keeps {k s : State} {l : Nat} (h : Keeps k s) : Keeps k (s.writeBack l) :=
  h.mem_poison rfl rfl rfl foldl_memPut_wf id

theorem State.trimWindow_keeps {k : State} {s : State} (h : Keeps k s) :
    Keeps k (State.trimWindow s) := by
  unfold State.trimWindow
  repeat' first
    | with_reducible assumption
    | with_reducible apply State.writeBack_keeps
    | with_reducible apply Keeps.foldl
    | split
    | with_reducible apply Keeps.ite
    | (intro)
    | fail_if_no_progress with_reducible apply Keeps.update.mpr

theorem State.poisonLine_keeps {k s : State} {l : Nat} (h : Keeps k s) : Keeps k (s.poisonLine l) :=
  h.mem_poison rfl rfl rfl id setInsert_ascending

theorem State.poisonRange_keeps {k : State} {s : State} {a : ℕ} {n : ℕ} (h : Keeps k s) :
    Keeps k (State.poisonRange s a n) := by
  unfold State.poisonRange
  repeat' first
    | with_reducible assumption
    | with_reducible apply State.poisonLine_keeps
    | with_reducible apply Keeps.foldl
    | split
    | with_reducible apply Keeps.ite
    | (intro)

theorem State.fresh_keeps {k : State} {s : State} (h : Keeps k s) :
    Keeps k (State.fresh s).2 := by
  unfold State.fresh
  repeat' first
    | with_reducible assumption
    | split
    | with_reducible apply Keeps.ite
    | (intro)
    | fail_if_no_progress with_reducible apply Keeps.update.mpr

theorem State.scramble_keeps {k : State} {s : State} {a : ℕ} {n : ℕ} (h : Keeps k s) :
    Keeps k (State.scramble s a n) := by
  unfold State.scramble
  repeat' first
    | with_reducible assumption
    | with_reducible apply State.store_keeps
    | split
    | with_reducible apply Keeps.ite
    | (intro)
    | fail_if_no_progress with_reducible apply Keeps.update.mpr

theorem State.irq_keeps {k : State} {s : State} {v : ℕ} (h : Keeps k s) :
    Keeps k (State.irq s v) := by
  unfold State.irq
  repeat' first
    | with_reducible assumption
    | with_reducible apply State.setBit_keeps
    | split
    | with_reducible apply Keeps.ite
    | (intro)

theorem State.ibi_keeps {k : State} {s : State} {d : Byte} (h : Keeps k s) :
    Keeps k (State.ibi s d) := by
  unfold State.ibi
  repeat' first
    | with_reducible assumption
    | with_reducible apply State.emit_keeps
    | split
    | with_reducible apply Keeps.ite
    | (intro)

theorem State.alert_keeps {k : State} {s : State} {i : ℕ} (h : Keeps k s) :
    Keeps k (State.alert s i) := by
  unfold State.alert
  repeat' first
    | with_reducible assumption
    | with_reducible apply State.ibi_keeps
    | with_reducible apply State.setBit_keeps
    | split
    | with_reducible apply Keeps.ite
    | (intro)

theorem State.land_keeps {k : State} {s : State} {a : Nat} {bs : List Byte} (h : Keeps k s) :
    Keeps k (State.land s a bs) := by
  have d : Keeps k (s.darnWrite a) := State.darnWrite_keeps h
  unfold State.land
  generalize s.place a = p
  cases p with
  | window => exact .ite h (State.trimWindow_keeps (State.storeWindow_keeps h))
  | hbm => exact .ite h (State.store_keeps d)
  | local_ n off => exact .ite h (State.store_keeps h)
  | unmapped => exact h
  | _ => exact State.store_keeps h

theorem State.putRing_keeps {k : State} {s : State} {off : Nat} {bs : List Byte} (h : Keeps k s) :
    Keeps k (State.putRing s off bs) := by
  unfold State.putRing
  repeat' first
    | with_reducible assumption
    | with_reducible apply Keeps.foldl
    | with_reducible apply Keeps.foldl1
    | with_reducible apply Keeps.foldl2
    | with_reducible apply State.addReg_keeps
    | with_reducible apply State.land_keeps
    | split
    | with_reducible apply Keeps.ite
    | (intro)
    | fail_if_no_progress with_reducible apply Keeps.update.mpr

theorem State.recordNew_keeps {k : State} {s : State} {r : ErrRec} (h : Keeps k s) :
    Keeps k (State.recordNew s r) := by
  unfold State.recordNew
  repeat' first
    | extract_lets
    | with_reducible assumption
    | with_reducible apply State.alert_keeps
    | with_reducible apply State.irq_keeps
    | with_reducible apply State.putRing_keeps
    | with_reducible apply State.setBit_keeps
    | with_reducible apply State.setReg_keeps
    | split
    | with_reducible apply Keeps.ite
    | (intro)
    | fail_if_no_progress with_reducible apply Keeps.update.mpr

theorem State.record_keeps {k : State} {s : State} {r : ErrRec} (h : Keeps k s) :
    Keeps k (State.record s r) := by
  unfold State.record
  repeat' first
    | extract_lets
    | with_reducible assumption
    | with_reducible apply State.addReg_keeps
    | with_reducible apply State.putRing_keeps
    | with_reducible apply State.recordNew_keeps
    | split
    | with_reducible apply Keeps.ite
    | (intro)
    | fail_if_no_progress with_reducible apply Keeps.update.mpr

theorem State.accessFault_keeps {k : State} {s : State} {a : ℕ} (h : Keeps k s) :
    Keeps k (State.accessFault s a) := by
  unfold State.accessFault
  repeat' first
    | with_reducible assumption
    | with_reducible apply State.record_keeps
    | split
    | with_reducible apply Keeps.ite
    | (intro)

theorem State.put_keeps {k : State} {s : State} {a : Nat} {bs : List Byte} (h : Keeps k s) :
    Keeps k (State.put s a bs) := by
  unfold State.put
  repeat' first
    | with_reducible assumption
    | with_reducible apply State.accessFault_keeps
    | with_reducible apply State.land_keeps
    | split
    | with_reducible apply Keeps.ite
    | (intro)
    | fail_if_no_progress with_reducible apply Keeps.update.mpr

theorem State.putBytes_keeps {k : State} {s : State} {a : Nat} {bs : List Byte} (h : Keeps k s) :
    Keeps k (State.putBytes s a bs) := by
  unfold State.putBytes
  repeat' first
    | with_reducible assumption
    | with_reducible apply Keeps.foldl
    | with_reducible apply Keeps.foldl1
    | with_reducible apply Keeps.foldl2
    | with_reducible apply State.put_keeps
    | split
    | with_reducible apply Keeps.ite
    | (intro)
    | fail_if_no_progress with_reducible apply Keeps.update.mpr

theorem State.putPoisoned_keeps {k : State} {s : State} {a : Nat} {bs : List Byte} (h : Keeps k s) :
    Keeps k (State.putPoisoned s a bs) := by
  unfold State.putPoisoned
  repeat' first
    | with_reducible assumption
    | with_reducible apply Keeps.foldl
    | with_reducible apply Keeps.foldl1
    | with_reducible apply Keeps.foldl2
    | with_reducible apply State.accessFault_keeps
    | with_reducible apply State.land_keeps
    | with_reducible apply State.poisonLine_keeps
    | split
    | with_reducible apply Keeps.ite
    | (intro)
    | fail_if_no_progress with_reducible apply Keeps.update.mpr

theorem State.putArea_keeps {k : State} {s : State} {base : Nat} {off : Nat} {bs : List Byte} (h : Keeps k s) :
    Keeps k (State.putArea s base off bs) := by
  unfold State.putArea
  repeat' first
    | with_reducible assumption
    | with_reducible apply State.putBytes_keeps
    | split
    | with_reducible apply Keeps.ite
    | (intro)
    | fail_if_no_progress with_reducible apply Keeps.update.mpr

end Sys2Proof.Machine
end

