-- ==== Sys2Proof/Laws/KeptOperands.lean ====
section
/-! SUPPORT. What the operations of Machine/Operands.lean keep (Laws/Kept.lean). -/

set_option Elab.async false

set_option linter.unusedTactic false
set_option linter.unreachableTactic false

namespace Sys2Proof.Machine

open Sys2Proof

theorem State.putMarked_keeps {k : State} {s : State} {poison : Bool} {a : ℕ} {bs : List Byte} (h : Keeps k s) :
    Keeps k (State.putMarked s poison a bs) := by
  unfold State.putMarked
  repeat' first
    | with_reducible assumption
    | with_reducible apply State.putPoisoned_keeps
    | with_reducible apply State.putBytes_keeps
    | split
    | with_reducible apply Keeps.ite
    | (intro)

theorem State.writeSeg_keeps {k : State} {s : State} {sat : Bool} {poison : Bool} {d : Desc} {x0 : ℕ} {y : ℕ} {z :
    ℕ} {vals : List (Fp × Rounding)} (h : Keeps k s) :
    Keeps k (State.writeSeg s sat poison d x0 y z vals).1 := by
  unfold State.writeSeg
  repeat' first
    | extract_lets
    | with_reducible assumption
    | with_reducible apply State.putMarked_keeps
    | split
    | with_reducible apply Keeps.ite
    | (intro)

theorem State.writeRow_keeps {k : State} {s : State} {sat : Bool} {poison : Bool} {d : Desc} {y : ℕ} {z : ℕ} {vals :
    List F32} (h : Keeps k s) :
    Keeps k (State.writeRow s sat poison d y z vals).1 := by
  unfold State.writeRow
  repeat' first
    | with_reducible assumption
    | with_reducible apply State.writeSeg_keeps
    | split
    | with_reducible apply Keeps.ite
    | with_reducible refine Keeps.of_fst (by assumption) ?_
    | (intro)

end Sys2Proof.Machine
end

