-- ==== Sys2Proof/Laws/KeptJournal.lean ====
section
/-! SUPPORT. What the operations of Machine/Journal.lean keep (Laws/Kept.lean). -/

set_option Elab.async false

set_option linter.unusedTactic false
set_option linter.unreachableTactic false

namespace Sys2Proof.Machine

open Sys2Proof

theorem State.startSigning_keeps {k : State} {s : State} (h : Keeps k s) : Keeps k (State.startSigning s) :=
  h.congr rfl rfl rfl rfl rfl

theorem State.nextSigning_keeps {k : State} {s : State} (h : Keeps k s) : Keeps k (State.nextSigning s) :=
  State.startSigning_keeps (h.congr rfl rfl rfl rfl rfl)

theorem State.updateBacklog_keeps {k : State} {s : State} (h : Keeps k s) :
    Keeps k (State.updateBacklog s) := by
  unfold State.updateBacklog
  repeat' first
    | extract_lets
    | with_reducible assumption
    | with_reducible apply State.setBit_keeps
    | with_reducible apply State.irq_keeps
    | split
    | with_reducible apply Keeps.ite
    | (intro)

theorem State.closeSegment_keeps {k : State} {s : State} {cause : ℕ} (h : Keeps k s) :
    Keeps k (State.closeSegment s cause) := by
  unfold State.closeSegment
  repeat' first
    | extract_lets
    | with_reducible assumption
    | with_reducible apply State.startSigning_keeps
    | with_reducible apply State.updateBacklog_keeps
    | with_reducible apply State.addReg_keeps
    | with_reducible apply State.setReg_keeps
    | split
    | with_reducible apply Keeps.ite
    | (intro)
    | fail_if_no_progress with_reducible apply Keeps.update.mpr

theorem State.updateFull_keeps {k : State} {s : State} (h : Keeps k s) :
    Keeps k (State.updateFull s) := by
  unfold State.updateFull
  repeat' first
    | extract_lets
    | with_reducible assumption
    | with_reducible apply State.setBit_keeps
    | with_reducible apply State.closeSegment_keeps
    | with_reducible apply State.irq_keeps
    | split
    | with_reducible apply Keeps.ite
    | (intro)
    | fail_if_no_progress with_reducible apply Keeps.update.mpr

theorem State.writeEntry_keeps {k : State} {s : State} {head48 : List Byte} {tail64 : List Byte} (h : Keeps k s) :
    Keeps k (State.writeEntry s head48 tail64) := by
  unfold State.writeEntry
  repeat' first
    | extract_lets
    | with_reducible assumption
    | with_reducible apply State.putBytes_keeps
    | with_reducible apply State.setReg_keeps
    | with_reducible apply State.updateFull_keeps
    | with_reducible apply State.closeSegment_keeps
    | split
    | with_reducible apply Keeps.ite
    | (intro)
    | fail_if_no_progress with_reducible apply Keeps.update.mpr

theorem State.taskEntry_keeps {k : State} {s : State} {t : Task} (h : Keeps k s) :
    Keeps k (State.taskEntry s t) := by
  unfold State.taskEntry
  repeat' first
    | with_reducible assumption
    | with_reducible apply State.writeEntry_keeps
    | split
    | with_reducible apply Keeps.ite
    | (intro)

theorem State.refusedEntry_keeps {k : State} {s : State} {t : Task} {err : ℕ} (h : Keeps k s) :
    Keeps k (State.refusedEntry s t err) := by
  unfold State.refusedEntry
  repeat' first
    | extract_lets
    | with_reducible assumption
    | with_reducible apply State.writeEntry_keeps
    | split
    | with_reducible apply Keeps.ite
    | (intro)

theorem State.issueEntry_keeps {k : State} {s : State} {t : Task} (h : Keeps k s) :
    Keeps k (State.issueEntry s t) := by
  unfold State.issueEntry
  repeat' first
    | with_reducible assumption
    | with_reducible apply State.putBytes_keeps
    | split
    | with_reducible apply Keeps.ite
    | (intro)

theorem State.completeEntry_keeps {k : State} {s : State} {t : Task} (h : Keeps k s) :
    Keeps k (State.completeEntry s t) := by
  unfold State.completeEntry
  repeat' first
    | extract_lets
    | with_reducible assumption
    | with_reducible apply State.putBytes_keeps
    | with_reducible apply State.writeEntry_keeps
    | split
    | with_reducible apply Keeps.ite
    | (intro)

theorem State.event_keeps {k : State} {s : State} {code : ℕ} {arg : ℕ} {digest : List Byte} (h : Keeps k s) :
    Keeps k (State.event s code arg digest) := by
  unfold State.event
  repeat' first
    | extract_lets
    | with_reducible assumption
    | with_reducible apply State.writeEntry_keeps
    | split
    | with_reducible apply Keeps.ite
    | (intro)
    | fail_if_no_progress with_reducible apply Keeps.update.mpr

theorem State.resumeEntry_keeps {k : State} {s : State} {f : ℕ} (h : Keeps k s) :
    Keeps k (State.resumeEntry s f) := by
  unfold State.resumeEntry
  repeat' first
    | with_reducible assumption
    | with_reducible apply State.event_keeps
    | split
    | with_reducible apply Keeps.ite
    | (intro)

theorem State.openEntry_keeps {k : State} {s : State} (h : Keeps k s) :
    Keeps k (State.openEntry s) := by
  unfold State.openEntry
  repeat' first
    | extract_lets
    | with_reducible assumption
    | with_reducible apply State.event_keeps
    | split
    | with_reducible apply Keeps.ite
    | (intro)

theorem State.epochEntry_keeps {k : State} {s : State} {v : ℕ} (h : Keeps k s) :
    Keeps k (State.epochEntry s v) := by
  unfold State.epochEntry
  repeat' first
    | with_reducible assumption
    | with_reducible apply State.event_keeps
    | split
    | with_reducible apply Keeps.ite
    | (intro)

theorem State.wait_keeps {k : State} {s : State} {w : Waiting} (h : Keeps k s) :
    Keeps k (State.wait s w) := by
  unfold State.wait
  repeat' first
    | with_reducible assumption
    | split
    | with_reducible apply Keeps.ite
    | (intro)
    | fail_if_no_progress with_reducible apply Keeps.update.mpr

theorem State.streamFlag_keeps {k : State} {s : State} {n : ℕ} {i : ℕ} (h : Keeps k s) :
    Keeps k (State.streamFlag s n i) := by
  unfold State.streamFlag
  repeat' first
    | with_reducible assumption
    | with_reducible apply State.irq_keeps
    | with_reducible apply State.setBit_keeps
    | split
    | with_reducible apply Keeps.ite
    | (intro)

end Sys2Proof.Machine
end

