-- ==== Sys2Proof/Laws/KeptSched.lean ====
section
/-! SUPPORT. What the operations of Machine/Sched.lean keep (Laws/Kept.lean). -/

set_option Elab.async false

set_option linter.unusedTactic false
set_option linter.unreachableTactic false

namespace Sys2Proof.Machine

open Sys2Proof

theorem State.setTask_keeps {k : State} {s : State} {t : Task} (h : Keeps k s) :
    Keeps k (State.setTask s t) := by
  unfold State.setTask
  repeat' first
    | with_reducible assumption
    | split
    | with_reducible apply Keeps.ite
    | (intro)
    | fail_if_no_progress with_reducible apply Keeps.update.mpr

theorem State.modTask_keeps {k : State} {s : State} {q : ℕ} {f : Task → Task} (h : Keeps k s) :
    Keeps k (State.modTask s q f) := by
  unfold State.modTask
  repeat' first
    | with_reducible assumption
    | split
    | with_reducible apply Keeps.ite
    | (intro)
    | fail_if_no_progress with_reducible apply Keeps.update.mpr

theorem State.endTask_keeps {k : State} {s : State} {q : ℕ} {err : ℕ} {detail : ℕ} (h : Keeps k s) :
    Keeps k (State.endTask s q err detail) := by
  unfold State.endTask
  repeat' first
    | with_reducible assumption
    | with_reducible apply State.modTask_keeps
    | split
    | with_reducible apply Keeps.ite
    | (intro)
    | fail_if_no_progress with_reducible apply Keeps.update.mpr

theorem State.setRemain_keeps {k : State} {s : State} {n : ℕ} {v : ℤ} (h : Keeps k s) :
    Keeps k (State.setRemain s n v) := by
  unfold State.setRemain
  repeat' first
    | with_reducible assumption
    | with_reducible apply State.setReg_keeps
    | split
    | with_reducible apply Keeps.ite
    | (intro)

theorem State.beginPeriod_keeps {k : State} {s : State} {n : Nat} (h : Keeps k s) :
    Keeps k (State.beginPeriod s n) := by
  unfold State.beginPeriod
  repeat' first
    | extract_lets
    | with_reducible assumption
    | with_reducible apply State.setRemain_keeps
    | split
    | with_reducible apply Keeps.ite
    | (intro)
    | fail_if_no_progress with_reducible apply Keeps.update.mpr

theorem State.periodUpTo_keeps {k : State} {s : State} {n : Nat} (h : Keeps k s) :
    Keeps k (State.periodUpTo s n) := by
  unfold State.periodUpTo
  repeat' first
    | with_reducible assumption
    | with_reducible apply State.beginPeriod_keeps
    | split
    | with_reducible apply Keeps.ite
    | (intro)
    | fail_if_no_progress with_reducible apply Keeps.update.mpr

theorem State.setDeficit_keeps {k : State} {s : State} {j : ℕ} {e : ℕ} {v : ℤ} (h : Keeps k s) :
    Keeps k (State.setDeficit s j e v) := by
  unfold State.setDeficit
  repeat' first
    | with_reducible assumption
    | with_reducible apply State.setReg_keeps
    | split
    | with_reducible apply Keeps.ite
    | (intro)

theorem State.accrue_keeps {k : State} {s : State} {t : Task} (h : Keeps k s) :
    Keeps k (State.accrue s t).1 := by
  unfold State.accrue
  repeat' first
    | extract_lets
    | with_reducible assumption
    | with_reducible apply State.addReg_keeps
    | with_reducible apply State.setDeficit_keeps
    | with_reducible apply State.setTask_keeps
    | split
    | with_reducible apply Keeps.ite
    | (intro)
    | fail_if_no_progress with_reducible apply Keeps.update.mpr
    | dsimp +zetaDelta only

theorem State.accrueAll_keeps {k : State} {s : State} {e : Nat} (h : Keeps k s) :
    Keeps k (State.accrueAll s e) := by
  unfold State.accrueAll
  repeat' first
    | with_reducible assumption
    | with_reducible apply Keeps.foldl
    | with_reducible apply Keeps.foldl1
    | with_reducible apply Keeps.foldl2
    | with_reducible apply State.accrue_keeps
    | split
    | with_reducible apply Keeps.ite
    | (intro)
    | fail_if_no_progress with_reducible apply Keeps.update.mpr

theorem State.serveTurns_keeps {k : State} {s : State} {e : ℕ} {ready : List Task} {a3 : ℕ} (h : Keeps k s) :
    Keeps k (State.serveTurns s e ready a3).1 := by
  induction a3 generalizing s with
  | zero => exact h
  | succ n ih =>
    unfold State.serveTurns
    repeat' first
      | extract_lets
      | with_reducible apply ih
      | with_reducible assumption
      | with_reducible apply State.setDeficit_keeps
      | split
      | with_reducible apply Keeps.ite
      | (intro)
      | fail_if_no_progress with_reducible apply Keeps.update.mpr
      | dsimp +zetaDelta only

theorem State.pick_keeps {k : State} {s : State} {e : ℕ} (h : Keeps k s) :
    Keeps k (State.pick s e).1 := by
  unfold State.pick
  dsimp only
  repeat' first
    | extract_lets
    | with_reducible assumption
    | with_reducible apply State.accrueAll_keeps
    | with_reducible apply State.serveTurns_keeps
    | split
    | with_reducible apply Keeps.ite
    | with_reducible refine Keeps.of_fst (by assumption) ?_
    | (intro)
    | fail_if_no_progress with_reducible apply Keeps.update.mpr
    | dsimp +zetaDelta only

theorem State.preemptTask_keeps {k : State} {s : State} {t : Task} (h : Keeps k s) :
    Keeps k (State.preemptTask s t) := by
  unfold State.preemptTask
  repeat' first
    | extract_lets
    | with_reducible assumption
    | with_reducible apply State.setTask_keeps
    | with_reducible apply State.addReg_keeps
    | with_reducible apply State.setBit_keeps
    | split
    | with_reducible apply Keeps.ite
    | (intro)
    | fail_if_no_progress with_reducible apply Keeps.update.mpr

theorem State.startPreempts_keeps {k : State} {s : State} (h : Keeps k s) :
    Keeps k (State.startPreempts s) := by
  unfold State.startPreempts
  repeat' first
    | extract_lets
    | with_reducible assumption
    | with_reducible apply State.preemptTask_keeps
    | with_reducible apply Keeps.foldl
    | split
    | with_reducible apply Keeps.ite
    | (intro)
    | fail_if_no_progress with_reducible apply Keeps.update.mpr
    | dsimp +zetaDelta only

theorem State.markEligible_keeps {k : State} {s : State} (h : Keeps k s) :
    Keeps k (State.markEligible s) := by
  unfold State.markEligible
  repeat' first
    | with_reducible assumption
    | split
    | with_reducible apply Keeps.ite
    | (intro)
    | fail_if_no_progress with_reducible apply Keeps.update.mpr

theorem State.markRetried_keeps {k : State} {s : State} {f : Task → Bool} (h : Keeps k s) :
    Keeps k (State.markRetried s f) := by
  unfold State.markRetried
  repeat' first
    | with_reducible assumption
    | split
    | with_reducible apply Keeps.ite
    | (intro)
    | fail_if_no_progress with_reducible apply Keeps.update.mpr

theorem State.issue_keeps {k : State} {s : State} {t : Task} (h : Keeps k s) :
    Keeps k (State.issue s t).1 := by
  unfold State.issue
  repeat' first
    | extract_lets
    | with_reducible assumption
    | with_reducible apply State.periodUpTo_keeps
    | with_reducible apply State.startPreempts_keeps
    | with_reducible apply State.setRemain_keeps
    | with_reducible apply State.markEligible_keeps
    | with_reducible apply State.issueEntry_keeps
    | with_reducible apply State.setTask_keeps
    | split
    | with_reducible apply Keeps.ite
    | (intro)
    | fail_if_no_progress with_reducible apply Keeps.update.mpr

theorem State.tryIssue_keeps {k : State} {s : State} {q : ℕ} {op : ℕ} {form : ℕ} (h : Keeps k s) :
    KeepsO1 k (State.tryIssue s q op form) := by
  unfold State.tryIssue
  repeat' first
    | extract_lets
    | with_reducible exact KeepsO1.none
    | with_reducible apply KeepsO1.some
    | with_reducible assumption
    | with_reducible apply State.pick_keeps
    | with_reducible apply State.issue_keeps
    | split
    | with_reducible apply Keeps.ite
    | with_reducible refine Keeps.of_fst (by assumption) ?_
    | (intro)
    | fail_if_no_progress with_reducible apply Keeps.update.mpr
    | dsimp +zetaDelta only

theorem State.resumeTask_keeps {k : State} {s : State} {t : Task} (h : Keeps k s) :
    Keeps k (State.resumeTask s t) := by
  unfold State.resumeTask
  repeat' first
    | extract_lets
    | with_reducible assumption
    | with_reducible apply State.setTask_keeps
    | split
    | with_reducible apply Keeps.ite
    | (intro)
    | fail_if_no_progress with_reducible apply Keeps.update.mpr

theorem State.resumeRemote_keeps {k : State} {s : State} (h : Keeps k s) :
    Keeps k (State.resumeRemote s) := by
  unfold State.resumeRemote
  repeat' first
    | with_reducible assumption
    | with_reducible apply State.resumeTask_keeps
    | with_reducible apply Keeps.foldl
    | split
    | with_reducible apply Keeps.ite
    | (intro)
    | fail_if_no_progress with_reducible apply Keeps.update.mpr

theorem State.resumeParked_keeps {k : State} {s : State} (h : Keeps k s) :
    Keeps k (State.resumeParked s) := by
  unfold State.resumeParked
  repeat' first
    | with_reducible assumption
    | with_reducible apply State.pick_keeps
    | with_reducible apply State.resumeTask_keeps
    | with_reducible apply State.resumeRemote_keeps
    | with_reducible apply Keeps.foldl
    | split
    | with_reducible apply Keeps.ite
    | with_reducible refine Keeps.of_fst (by assumption) ?_
    | (intro)
    | fail_if_no_progress with_reducible apply Keeps.update.mpr

theorem State.eventAdd_keeps {k : State} {s : State} {i : ℕ} {n : ℕ} (h : Keeps k s) :
    Keeps k (State.eventAdd s i n) := by
  unfold State.eventAdd
  repeat' first
    | with_reducible assumption
    | with_reducible apply State.setReg_keeps
    | split
    | with_reducible apply Keeps.ite
    | (intro)

theorem State.logEntry_keeps {k : State} {s : State} {t : Task} (h : Keeps k s) :
    Keeps k (State.logEntry s t) := by
  unfold State.logEntry
  repeat' first
    | extract_lets
    | with_reducible assumption
    | with_reducible apply State.setReg_keeps
    | with_reducible apply State.putArea_keeps
    | split
    | with_reducible apply Keeps.ite
    | (intro)

theorem State.freeImage_keeps {k : State} {s : State} {j : ℕ} (h : Keeps k s) :
    Keeps k (State.freeImage s j) := by
  unfold State.freeImage
  repeat' first
    | extract_lets
    | with_reducible assumption
    | with_reducible apply State.setReg_keeps
    | with_reducible apply Keeps.foldl
    | split
    | with_reducible apply Keeps.ite
    | (intro)
    | fail_if_no_progress with_reducible apply Keeps.update.mpr

theorem State.evict_keeps {k : State} {s : State} {p : ℕ} {succ : Option ℕ} (h : Keeps k s) :
    Keeps k (State.evict s p succ) := by
  unfold State.evict
  repeat' first
    | with_reducible assumption
    | with_reducible apply State.setPageRec_keeps
    | split
    | with_reducible apply Keeps.ite
    | (intro)
    | fail_if_no_progress with_reducible apply Keeps.update.mpr

theorem State.retireImage_keeps {k : State} {s : State} {j : Nat} (h : Keeps k s) :
    Keeps k (State.retireImage s j) := by
  unfold State.retireImage
  repeat' first
    | with_reducible assumption
    | with_reducible apply Keeps.foldl
    | with_reducible apply Keeps.foldl1
    | with_reducible apply Keeps.foldl2
    | with_reducible apply State.evict_keeps
    | with_reducible apply State.freeImage_keeps
    | split
    | with_reducible apply Keeps.ite
    | (intro)
    | fail_if_no_progress with_reducible apply Keeps.update.mpr

theorem State.retireImages_keeps {k : State} {s : State} (h : Keeps k s) :
    Keeps k (State.retireImages s) := by
  unfold State.retireImages
  repeat' first
    | with_reducible assumption
    | with_reducible apply Keeps.foldl1
    | with_reducible apply Keeps.foldl2
    | with_reducible apply State.retireImage_keeps
    | with_reducible apply State.freeImage_keeps
    | with_reducible apply Keeps.foldl
    | split
    | with_reducible apply Keeps.ite
    | (intro)

theorem State.stepRecord_keeps {k : State} {s : State} {group : ℕ} {kind : ℕ} {path : ℕ} {cseq : ℕ} {entry : ℕ}
    {first : ℕ} {err : ℕ} {depth : ℕ} {lagging : Bool} (h : Keeps k s) :
    Keeps k (State.stepRecord s group kind path cseq entry first err depth lagging) := by
  unfold State.stepRecord
  repeat' first
    | extract_lets
    | with_reducible assumption
    | with_reducible apply State.setBit_keeps
    | with_reducible apply State.setReg_keeps
    | with_reducible apply State.putArea_keeps
    | split
    | with_reducible apply Keeps.ite
    | (intro)

theorem State.updateRetire_keeps {k : State} {s : State} {n : ℕ} (h : Keeps k s) :
    Keeps k (State.updateRetire s n) := by
  unfold State.updateRetire
  repeat' first
    | extract_lets
    | with_reducible assumption
    | with_reducible apply State.setReg_keeps
    | split
    | with_reducible apply Keeps.ite
    | (intro)
    | fail_if_no_progress with_reducible apply Keeps.update.mpr
    | dsimp +zetaDelta only

theorem State.settle_keeps {k : State} {s : State} {t : Task} (h : Keeps k s) :
    Keeps k (State.settle s t) := by
  unfold State.settle
  repeat' first
    | extract_lets
    | with_reducible assumption
    | with_reducible apply State.periodUpTo_keeps
    | with_reducible apply State.setRemain_keeps
    | with_reducible apply State.addReg_keeps
    | split
    | with_reducible apply Keeps.ite
    | (intro)

theorem State.endTurn_keeps {k : State} {s : State} {t : Task} (h : Keeps k s) :
    Keeps k (State.endTurn s t) := by
  unfold State.endTurn
  repeat' first
    | extract_lets
    | with_reducible assumption
    | with_reducible apply State.setDeficit_keeps
    | split
    | with_reducible apply Keeps.ite
    | (intro)
    | fail_if_no_progress with_reducible apply Keeps.update.mpr
    | dsimp +zetaDelta only

theorem State.scrambleBytes_keeps {k : State} {s : State} {a : ℕ} {n : ℕ} (h : Keeps k s) :
    Keeps k (State.scrambleBytes s a n) := by
  unfold State.scrambleBytes
  repeat' first
    | with_reducible assumption
    | with_reducible apply State.putBytes_keeps
    | split
    | with_reducible apply Keeps.ite
    | (intro)
    | fail_if_no_progress with_reducible apply Keeps.update.mpr

theorem State.scrambleFirst_keeps {k : State} {s : State} {d : Desc} {n : ℕ} (h : Keeps k s) :
    Keeps k (State.scrambleFirst s d n) := by
  unfold State.scrambleFirst
  repeat' first
    | with_reducible assumption
    | with_reducible apply State.scrambleBytes_keeps
    | with_reducible apply Keeps.foldl
    | with_reducible apply Keeps.foldl1
    | with_reducible apply Keeps.foldl2
    | split
    | with_reducible apply Keeps.ite
    | (intro)

theorem State.dropScratch_keeps {k : State} {s : State} {t : Task} (h : Keeps k s) :
    Keeps k (State.dropScratch s t) := by
  unfold State.dropScratch
  repeat' first
    | with_reducible assumption
    | with_reducible apply State.scrambleFirst_keeps
    | split
    | with_reducible apply Keeps.ite
    | (intro)
    | fail_if_no_progress with_reducible apply Keeps.update.mpr

theorem State.finishOne_keeps {k : State} {s : State} {t : Task} (h : Keeps k s) :
    Keeps k (State.finishOne s t) := by
  unfold State.finishOne
  repeat' first
    | extract_lets
    | with_reducible assumption
    | with_reducible apply State.dropScratch_keeps
    | with_reducible apply State.accrue_keeps
    | with_reducible apply State.logEntry_keeps
    | with_reducible apply State.completeEntry_keeps
    | with_reducible apply State.eventAdd_keeps
    | with_reducible apply State.settle_keeps
    | with_reducible apply State.updateRetire_keeps
    | with_reducible apply State.irq_keeps
    | split
    | with_reducible apply Keeps.ite
    | with_reducible refine Keeps.of_fst (by assumption) ?_
    | (intro)
    | fail_if_no_progress with_reducible apply Keeps.update.mpr
    | dsimp +zetaDelta only

theorem State.finishAll_keeps {k : State} {s : State} {f : Nat} {l : List Task} (h : Keeps k s) :
    Keeps k (State.finishAll s f l) := by
  induction f generalizing s l with
  | zero => cases l <;> exact h
  | succ n ih =>
    cases l with
    | nil => exact h
    | cons t0 rest =>
      unfold State.finishAll
      split
      · exact ih h
      · exact ih (State.finishOne_keeps h)

theorem State.finish_keeps {k : State} {s : State} {t : Task} (h : Keeps k s) :
    Keeps k (State.finish s t) := by
  unfold State.finish
  repeat' first
    | extract_lets
    | with_reducible assumption
    | with_reducible apply State.finishAll_keeps
    | with_reducible apply State.resumeParked_keeps
    | with_reducible apply State.endTurn_keeps
    | with_reducible apply State.retireImages_keeps
    | with_reducible apply State.markEligible_keeps
    | with_reducible apply State.startPreempts_keeps
    | split
    | with_reducible apply Keeps.ite
    | (intro)

end Sys2Proof.Machine
end

