-- ==== Sys2Proof/Laws/KeptRouting.lean ====
section
/-! SUPPORT. What the operations of Machine/Routing.lean keep (Laws/Kept.lean). -/

set_option Elab.async false

set_option linter.unusedTactic false
set_option linter.unreachableTactic false

namespace Sys2Proof.Machine

open Sys2Proof

theorem State.launch_keeps {k : State} {s : State} {q : ℕ} {op : ℕ} {form : ℕ} {work : State → Task → State} (h :
    Keeps k s) (hf : ∀ z t, Keeps k z → Keeps k (work z t)) :
    KeepsO k (State.launch s q op form work) := by
  unfold State.launch
  repeat' first
    | with_reducible exact KeepsO.none
    | with_reducible apply KeepsO.some
    | with_reducible assumption
    | with_reducible apply State.tryIssue_keeps
    | with_reducible apply hf
    | with_reducible apply KeepsO.map1
    | with_reducible apply KeepsO.map2
    | split
    | with_reducible apply KeepsO.ite
    | with_reducible apply Keeps.ite
    | with_reducible refine Keeps.of_some1 (by assumption) ?_
    | (intro)

theorem State.scrambleOverlaps_keeps {k : State} {s : State} {t : Task} (h : Keeps k s) :
    Keeps k (State.scrambleOverlaps s t) := by
  unfold State.scrambleOverlaps
  repeat' first
    | extract_lets
    | with_reducible assumption
    | with_reducible apply State.scrambleBytes_keeps
    | with_reducible apply Keeps.foldl
    | with_reducible apply Keeps.foldl1
    | with_reducible apply Keeps.foldl2
    | split
    | with_reducible apply Keeps.ite
    | (intro)
    | fail_if_no_progress with_reducible apply Keeps.update.mpr
    | dsimp +zetaDelta only

theorem State.scrambleOutputs_keeps {k : State} {s : State} {t : Task} (h : Keeps k s) :
    Keeps k (State.scrambleOutputs s t) := by
  unfold State.scrambleOutputs
  repeat' first
    | with_reducible assumption
    | with_reducible apply State.scrambleBytes_keeps
    | with_reducible apply Keeps.foldl
    | with_reducible apply Keeps.foldl1
    | with_reducible apply Keeps.foldl2
    | split
    | with_reducible apply Keeps.ite
    | (intro)
    | fail_if_no_progress with_reducible apply Keeps.update.mpr

theorem State.putElems_keeps {k : State} {s : State} {d : Desc} {y : ℕ} {bits : List ℕ} (h : Keeps k s) :
    Keeps k (State.putElems s d y bits) := by
  unfold State.putElems
  repeat' first
    | with_reducible assumption
    | with_reducible apply State.putBytes_keeps
    | split
    | with_reducible apply Keeps.ite
    | (intro)

theorem State.runScore_keeps {k : State} {s : State} {t : Task} (h : Keeps k s) :
    Keeps k (State.runScore s t) := by
  unfold State.runScore
  repeat' first
    | extract_lets
    | with_reducible assumption
    | with_reducible apply State.endTask_keeps
    | with_reducible apply State.putElems_keeps
    | with_reducible apply State.addReg_keeps
    | with_reducible apply State.scrambleOverlaps_keeps
    | with_reducible apply Keeps.foldl
    | with_reducible apply Keeps.foldl1
    | with_reducible apply Keeps.foldl2
    | split
    | with_reducible apply Keeps.ite
    | (intro)

theorem State.copyRow_keeps {k : State} {s : State} {o : State} {src : Desc} {y : Nat} {z : Nat} {dst : Desc} {v : Nat} {w : Nat} (h : Keeps k s) :
    Keeps k (State.copyRow s o src y z dst v w) := by
  unfold State.copyRow
  repeat' first
    | extract_lets
    | with_reducible assumption
    | with_reducible apply State.putBytes_keeps
    | split
    | with_reducible apply Keeps.ite
    | (intro)

theorem State.writePlan_keeps {k : State} {s : State} {t : Task} {ps : List Placed} (h : Keeps k s) :
    Keeps k (State.writePlan s t ps) := by
  unfold State.writePlan
  repeat' first
    | extract_lets
    | with_reducible assumption
    | with_reducible apply State.putBytes_keeps
    | with_reducible apply State.copyRow_keeps
    | with_reducible apply Keeps.foldl
    | with_reducible apply Keeps.foldl1
    | with_reducible apply Keeps.foldl2
    | split
    | with_reducible apply Keeps.ite
    | (intro)
    | fail_if_no_progress with_reducible apply Keeps.update.mpr
    | dsimp +zetaDelta only

theorem State.countSort_keeps {k : State} {s : State} {pairs : ℕ} {ham : ℕ} (h : Keeps k s) :
    Keeps k (State.countSort s pairs ham) := by
  unfold State.countSort
  repeat' first
    | extract_lets
    | with_reducible assumption
    | with_reducible apply State.addReg_keeps
    | with_reducible apply State.setFld_keeps
    | split
    | with_reducible apply Keeps.ite
    | (intro)

theorem State.runDispatch_keeps {k : State} {s : State} {t : Task} (h : Keeps k s) :
    Keeps k (State.runDispatch s t) := by
  unfold State.runDispatch
  repeat' first
    | extract_lets
    | with_reducible assumption
    | with_reducible apply State.endTask_keeps
    | with_reducible apply State.countSort_keeps
    | with_reducible apply State.writePlan_keeps
    | with_reducible apply State.scrambleOverlaps_keeps
    | split
    | with_reducible apply Keeps.ite
    | (intro)

theorem State.runGather_keeps {k : State} {s : State} {splits : List (ℕ × ℕ × ℕ)} {t : Task} (h : Keeps k s) :
    Keeps k (State.runGather s splits t) := by
  unfold State.runGather
  repeat' first
    | extract_lets
    | with_reducible assumption
    | with_reducible apply State.endTask_keeps
    | with_reducible apply State.copyRow_keeps
    | with_reducible apply State.scrambleOverlaps_keeps
    | with_reducible apply State.writeRow_keeps
    | with_reducible apply State.modTask_keeps
    | with_reducible apply State.addReg_keeps
    | with_reducible apply Keeps.foldl
    | with_reducible apply Keeps.foldl1
    | with_reducible apply Keeps.foldl2
    | split
    | with_reducible apply Keeps.ite
    | with_reducible refine Keeps.of_fst (by assumption) ?_
    | (intro)
    | fail_if_no_progress with_reducible apply Keeps.update.mpr

theorem State.runPhases_keeps {k : State} {s : State} {t : Task} {rows : List TagRow} (h : Keeps k s) :
    Keeps k (State.runPhases s t rows) := by
  unfold State.runPhases
  repeat' first
    | extract_lets
    | with_reducible assumption
    | with_reducible apply State.scrambleFirst_keeps
    | with_reducible apply State.endTask_keeps
    | with_reducible apply State.addReg_keeps
    | with_reducible apply State.setReg_keeps
    | with_reducible apply State.writeRow_keeps
    | with_reducible apply State.scrambleOverlaps_keeps
    | with_reducible apply Keeps.foldl
    | with_reducible apply Keeps.foldl1
    | with_reducible apply Keeps.foldl2
    | split
    | with_reducible apply Keeps.ite
    | with_reducible refine Keeps.of_fst (by assumption) ?_
    | (intro)
    | fail_if_no_progress with_reducible apply Keeps.update.mpr
    | dsimp +zetaDelta only

theorem State.runCombine_keeps {k : State} {s : State} {t : Task} (h : Keeps k s) :
    Keeps k (State.runCombine s t) := by
  unfold State.runCombine
  repeat' first
    | with_reducible assumption
    | with_reducible apply State.runPhases_keeps
    | split
    | with_reducible apply Keeps.ite
    | (intro)

end Sys2Proof.Machine
end

