-- ==== Sys2Proof/Laws/KeptMatrix.lean ====
section
/-! SUPPORT. What the operations of Machine/Matrix.lean keep (Laws/Kept.lean). -/

set_option Elab.async false

set_option linter.unusedTactic false
set_option linter.unreachableTactic false

namespace Sys2Proof.Machine

open Sys2Proof

theorem State.setCore_keeps {k : State} {s : State} {c : CoreSt} (h : Keeps k s) :
    Keeps k (State.setCore s c) := by
  unfold State.setCore
  repeat' first
    | with_reducible assumption
    | split
    | with_reducible apply Keeps.ite
    | (intro)
    | fail_if_no_progress with_reducible apply Keeps.update.mpr

theorem State.listRun_keeps {k : State} {s : State} {r : Run} (h : Keeps k s) :
    Keeps k (State.listRun s r) := by
  unfold State.listRun
  repeat' first
    | with_reducible assumption
    | split
    | with_reducible apply Keeps.ite
    | (intro)
    | fail_if_no_progress with_reducible apply Keeps.update.mpr

theorem State.guardReport_keeps {k : State} {s : State} {t : Task} (h : Keeps k s) :
    Keeps k (State.guardReport s t) := by
  unfold State.guardReport
  repeat' first
    | with_reducible assumption
    | with_reducible apply State.putBytes_keeps
    | split
    | with_reducible apply Keeps.ite
    | (intro)
    | fail_if_no_progress with_reducible apply Keeps.update.mpr

theorem State.settleCore_keeps {k : State} {s : State} {seq : ℕ} (h : Keeps k s) :
    Keeps k (State.settleCore s seq) := by
  unfold State.settleCore
  repeat' first
    | extract_lets
    | with_reducible assumption
    | with_reducible apply State.endTask_keeps
    | with_reducible apply State.scrambleOverlaps_keeps
    | with_reducible apply State.guardReport_keeps
    | split
    | with_reducible apply Keeps.ite
    | (intro)
    | fail_if_no_progress with_reducible apply Keeps.update.mpr
    | dsimp +zetaDelta only

theorem State.note_keeps {k : State} {s : State} {seq : ℕ} {detail : ℕ} {poison : Bool} (h : Keeps k s) :
    Keeps k (State.note s seq detail poison) := by
  unfold State.note
  repeat' first
    | with_reducible assumption
    | with_reducible apply State.modTask_keeps
    | split
    | with_reducible apply Keeps.ite
    | (intro)
    | fail_if_no_progress with_reducible apply Keeps.update.mpr

theorem State.tileReady_keeps {k : State} {s : State} {t : Task} {p : Part} (h : Keeps k s) :
    Keeps k (State.tileReady s t p) := by
  unfold State.tileReady
  repeat' first
    | extract_lets
    | with_reducible assumption
    | with_reducible apply State.writeSeg_keeps
    | with_reducible apply State.note_keeps
    | with_reducible apply Keeps.foldl
    | with_reducible apply Keeps.foldl1
    | with_reducible apply Keeps.foldl2
    | split
    | with_reducible apply Keeps.ite
    | with_reducible refine Keeps.of_fst (by assumption) ?_
    | (intro)
    | fail_if_no_progress with_reducible apply Keeps.update.mpr

theorem State.partReady_keeps {k : State} {s : State} {t : Task} {p : Part} (h : Keeps k s) :
    Keeps k (State.partReady s t p) := by
  unfold State.partReady
  repeat' first
    | with_reducible assumption
    | with_reducible apply State.tileReady_keeps
    | split
    | with_reducible apply Keeps.ite
    | (intro)
    | fail_if_no_progress with_reducible apply Keeps.update.mpr

theorem State.sumParts_keeps {k : State} {s : State} {t : Task} {ord : ℕ} (h : Keeps k s) :
    KeepsO k (State.sumParts s t ord) := by
  unfold State.sumParts
  repeat' first
    | extract_lets
    | with_reducible exact KeepsO.none
    | with_reducible apply KeepsO.some
    | with_reducible assumption
    | with_reducible apply State.settleCore_keeps
    | with_reducible apply State.tileReady_keeps
    | with_reducible apply Keeps.foldl
    | split
    | with_reducible apply KeepsO.ite
    | with_reducible apply Keeps.ite
    | (intro)
    | fail_if_no_progress with_reducible apply Keeps.update.mpr
    | dsimp +zetaDelta only

theorem State.epilogueBlock_keeps {k : State} {s : State} {t : Task} {b : VBlock} (h : Keeps k s) :
    Keeps k (State.epilogueBlock s t b) := by
  unfold State.epilogueBlock
  repeat' first
    | extract_lets
    | with_reducible assumption
    | with_reducible apply State.writeSeg_keeps
    | with_reducible apply State.note_keeps
    | with_reducible apply Keeps.foldl
    | with_reducible apply Keeps.foldl1
    | with_reducible apply Keeps.foldl2
    | split
    | with_reducible apply Keeps.ite
    | with_reducible refine Keeps.of_fst (by assumption) ?_
    | (intro)

theorem State.fusedBlock_keeps {k : State} {s : State} {t : Task} {b : VBlock} (h : Keeps k s) :
    Keeps k (State.fusedBlock s t b) := by
  unfold State.fusedBlock
  repeat' first
    | extract_lets
    | with_reducible assumption
    | with_reducible apply State.writeSeg_keeps
    | with_reducible apply State.note_keeps
    | split
    | with_reducible apply Keeps.ite
    | with_reducible refine Keeps.of_fst (by assumption) ?_
    | (intro)
    | fail_if_no_progress with_reducible apply Keeps.update.mpr

theorem State.ewBlock_keeps {k : State} {s : State} {t : Task} {b : VBlock} (h : Keeps k s) :
    Keeps k (State.ewBlock s t b) := by
  unfold State.ewBlock
  repeat' first
    | extract_lets
    | with_reducible assumption
    | with_reducible apply State.writeSeg_keeps
    | with_reducible apply State.note_keeps
    | split
    | with_reducible apply Keeps.ite
    | with_reducible refine Keeps.of_fst (by assumption) ?_
    | (intro)

theorem State.ewRun_keeps {k : State} {s : State} {t : Task} {r : Run} (h : Keeps k s) :
    Keeps k (State.ewRun s t r).1 := by
  unfold State.ewRun
  repeat' first
    | extract_lets
    | with_reducible assumption
    | with_reducible apply Keeps.foldl
    | with_reducible apply Keeps.foldl1
    | with_reducible apply Keeps.foldl2
    | with_reducible apply State.writeSeg_keeps
    | with_reducible apply State.note_keeps
    | split
    | with_reducible apply Keeps.ite
    | with_reducible refine Keeps.of_fst (by assumption) ?_
    | (intro)

theorem State.startDmm_keeps {k : State} {s : State} {t : Task} (h : Keeps k s) :
    Keeps k (State.startDmm s t) := by
  unfold State.startDmm
  repeat' first
    | with_reducible assumption
    | with_reducible apply State.listRun_keeps
    | with_reducible apply Keeps.foldl
    | split
    | with_reducible apply Keeps.ite
    | (intro)

theorem State.startXmm_keeps {k : State} {s : State} {t : Task} (h : Keeps k s) :
    Keeps k (State.startXmm s t) := by
  unfold State.startXmm
  repeat' first
    | extract_lets
    | with_reducible assumption
    | with_reducible apply State.addReg_keeps
    | with_reducible apply State.endTask_keeps
    | with_reducible apply State.listRun_keeps
    | with_reducible apply State.modTask_keeps
    | with_reducible apply State.settleCore_keeps
    | with_reducible apply Keeps.foldl
    | split
    | with_reducible apply Keeps.ite
    | (intro)
    | fail_if_no_progress with_reducible apply Keeps.update.mpr

theorem State.startEwise_keeps {k : State} {s : State} {t : Task} (h : Keeps k s) :
    Keeps k (State.startEwise s t) := by
  unfold State.startEwise
  repeat' first
    | with_reducible assumption
    | with_reducible apply State.listRun_keeps
    | with_reducible apply Keeps.foldl
    | split
    | with_reducible apply Keeps.ite
    | (intro)
    | fail_if_no_progress with_reducible apply Keeps.update.mpr

theorem State.requestCoreStake_keeps {k : State} {s : State} {seq : ℕ} {core : ℕ} (h : Keeps k s) :
    Keeps k (State.requestCoreStake s seq core) := by
  unfold State.requestCoreStake
  repeat' first
    | extract_lets
    | with_reducible assumption
    | split
    | with_reducible apply Keeps.ite
    | (intro)
    | fail_if_no_progress with_reducible apply Keeps.update.mpr

theorem State.claimRun_keeps {k : State} {s : State} {k_ : ℕ} (h : Keeps k s) :
    KeepsO k (State.claimRun s k_) := by
  unfold State.claimRun
  repeat' first
    | extract_lets
    | with_reducible exact KeepsO.none
    | with_reducible apply KeepsO.some
    | with_reducible assumption
    | with_reducible apply KeepsO1.some
    | with_reducible apply KeepsO1.none
    | with_reducible apply KeepsO2.some
    | with_reducible apply KeepsO2.none
    | with_reducible apply State.setCore_keeps
    | with_reducible apply State.requestCoreStake_keeps
    | split
    | with_reducible apply KeepsO.ite
    | with_reducible apply Keeps.ite
    | (intro)
    | fail_if_no_progress with_reducible apply Keeps.update.mpr
    | dsimp +zetaDelta only

theorem State.countCycles_keeps {k : State} {s : State} {k_ : Nat} (h : Keeps k s) :
    Keeps k (State.countCycles s k_) := by
  unfold State.countCycles
  repeat' first
    | extract_lets
    | with_reducible assumption
    | with_reducible apply Keeps.foldl
    | with_reducible apply Keeps.foldl1
    | with_reducible apply Keeps.foldl2
    | with_reducible apply State.addReg_keeps
    | split
    | with_reducible apply Keeps.ite
    | (intro)
    | fail_if_no_progress with_reducible apply Keeps.update.mpr

theorem State.countRun_keeps {k : State} {s : State} {k_ : ℕ} {seq : ℕ} {fallbacks : ℕ} {ran : ℕ} {skips : ℕ} {gated
    : ℕ} (h : Keeps k s) :
    Keeps k (State.countRun s k_ seq fallbacks ran skips gated) := by
  unfold State.countRun
  repeat' first
    | extract_lets
    | with_reducible assumption
    | with_reducible apply State.countCycles_keeps
    | with_reducible apply State.addReg_keeps
    | with_reducible apply State.setFld_keeps
    | with_reducible apply State.modTask_keeps
    | with_reducible apply State.note_keeps
    | split
    | with_reducible apply Keeps.ite
    | (intro)
    | fail_if_no_progress with_reducible apply Keeps.update.mpr

theorem State.advanceCore_keeps {k : State} {s : State} {k_ : ℕ} (h : Keeps k s) :
    Keeps k (State.advanceCore s k_) := by
  unfold State.advanceCore
  repeat' first
    | extract_lets
    | with_reducible assumption
    | with_reducible apply State.setCore_keeps
    | with_reducible apply State.listRun_keeps
    | split
    | with_reducible apply Keeps.ite
    | (intro)
    | fail_if_no_progress with_reducible apply Keeps.update.mpr
    | dsimp +zetaDelta only

theorem State.completeRun_keeps {k : State} {s : State} {k_ : ℕ} (h : Keeps k s) :
    KeepsO k (State.completeRun s k_) := by
  unfold State.completeRun
  repeat' first
    | extract_lets
    | with_reducible exact KeepsO.none
    | with_reducible apply KeepsO.some
    | with_reducible assumption
    | with_reducible apply KeepsO1.some
    | with_reducible apply KeepsO1.none
    | with_reducible apply KeepsO2.some
    | with_reducible apply KeepsO2.none
    | with_reducible apply State.ewRun_keeps
    | with_reducible apply State.settleCore_keeps
    | with_reducible apply State.advanceCore_keeps
    | with_reducible apply State.countRun_keeps
    | with_reducible apply State.note_keeps
    | with_reducible apply State.partReady_keeps
    | split
    | with_reducible apply KeepsO.ite
    | with_reducible apply Keeps.ite
    | with_reducible refine Keeps.of_fst (by assumption) ?_
    | (intro)
    | fail_if_no_progress with_reducible apply Keeps.update.mpr
    | dsimp +zetaDelta only

theorem State.claimBlock_keeps {k : State} {s : State} {k_ : ℕ} (h : Keeps k s) :
    KeepsO k (State.claimBlock s k_) := by
  unfold State.claimBlock
  repeat' first
    | extract_lets
    | with_reducible exact KeepsO.none
    | with_reducible apply KeepsO.some
    | with_reducible assumption
    | with_reducible apply State.setCore_keeps
    | with_reducible apply State.addReg_keeps
    | split
    | with_reducible apply KeepsO.ite
    | with_reducible apply Keeps.ite
    | (intro)
    | fail_if_no_progress with_reducible apply Keeps.update.mpr
    | dsimp +zetaDelta only

theorem State.dropPiece_keeps {k : State} {s : State} {b : VBlock} (h : Keeps k s) :
    Keeps k (State.dropPiece s b) := by
  unfold State.dropPiece
  repeat' first
    | extract_lets
    | with_reducible assumption
    | split
    | with_reducible apply Keeps.ite
    | (intro)
    | fail_if_no_progress with_reducible apply Keeps.update.mpr

theorem State.runBlock_keeps {k : State} {s : State} {t : Task} {b : VBlock} (h : Keeps k s) :
    Keeps k (State.runBlock s t b) := by
  unfold State.runBlock
  repeat' first
    | with_reducible assumption
    | with_reducible apply State.ewBlock_keeps
    | with_reducible apply State.fusedBlock_keeps
    | with_reducible apply State.epilogueBlock_keeps
    | split
    | with_reducible apply Keeps.ite
    | (intro)

theorem State.completeBlock_keeps {k : State} {s : State} {k_ : ℕ} (h : Keeps k s) :
    KeepsO k (State.completeBlock s k_) := by
  unfold State.completeBlock
  repeat' first
    | extract_lets
    | with_reducible exact KeepsO.none
    | with_reducible apply KeepsO.some
    | with_reducible assumption
    | with_reducible apply State.settleCore_keeps
    | with_reducible apply State.dropPiece_keeps
    | with_reducible apply State.setCore_keeps
    | with_reducible apply State.runBlock_keeps
    | split
    | with_reducible apply KeepsO.ite
    | with_reducible apply Keeps.ite
    | (intro)
    | fail_if_no_progress with_reducible apply Keeps.update.mpr
    | dsimp +zetaDelta only

theorem State.zeroTile_keeps {k : State} {s : State} {t : Task} {rows : List ℕ} {tile : ℕ} (h : Keeps k s) :
    Keeps k (State.zeroTile s t rows tile) := by
  unfold State.zeroTile
  repeat' first
    | extract_lets
    | with_reducible assumption
    | with_reducible apply State.writeSeg_keeps
    | with_reducible apply Keeps.foldl
    | with_reducible apply Keeps.foldl1
    | with_reducible apply Keeps.foldl2
    | split
    | with_reducible apply Keeps.ite
    | with_reducible refine Keeps.of_fst (by assumption) ?_
    | (intro)

theorem State.takeDecision_keeps {k : State} {s : State} {t : Task} {e : ℕ} {blk : ℕ} (h : Keeps k s) :
    Keeps k (State.takeDecision s t e blk) := by
  unfold State.takeDecision
  repeat' first
    | extract_lets
    | with_reducible assumption
    | with_reducible apply Keeps.foldl1
    | with_reducible apply Keeps.foldl2
    | with_reducible apply State.zeroTile_keeps
    | with_reducible apply State.addReg_keeps
    | with_reducible apply State.settleCore_keeps
    | with_reducible apply State.modTask_keeps
    | with_reducible apply Keeps.foldl
    | split
    | with_reducible apply Keeps.ite
    | (intro)
    | fail_if_no_progress with_reducible apply Keeps.update.mpr

end Sys2Proof.Machine
end

