-- ==== Sys2Proof/Laws/KeptPrune.lean ====
section
/-! SUPPORT. What the operations of Machine/Prune.lean keep (Laws/Kept.lean). -/

set_option Elab.async false

set_option linter.unusedTactic false
set_option linter.unreachableTactic false

namespace Sys2Proof.Machine

open Sys2Proof

theorem State.writeForm_keeps {k : State} {s : State} {d : Desc} {q : ℕ} {z : ℕ} {cols : List PackCol} (h : Keeps k
    s) :
    Keeps k (State.writeForm s d q z cols) := by
  unfold State.writeForm
  repeat' first
    | extract_lets
    | with_reducible assumption
    | with_reducible apply State.putBytes_keeps
    | with_reducible apply Keeps.foldl
    | split
    | with_reducible apply Keeps.ite
    | (intro)

theorem State.packMatrix_keeps {k : State} {s : State} {o : State} {t : Task} {z : Nat} {kept : Nat → Nat → Bool} (h : Keeps k s) :
    Keeps k (State.packMatrix s o t z kept).1 := by
  unfold State.packMatrix
  repeat' first
    | extract_lets
    | with_reducible assumption
    | with_reducible apply State.writeForm_keeps
    | split
    | with_reducible apply Keeps.ite
    | (intro)
    | fail_if_no_progress with_reducible apply Keeps.update.mpr
    | dsimp +zetaDelta only

theorem State.pruneFails_keeps {k : State} {s : State} {t : Task} {err : ℕ} (h : Keeps k s) :
    Keeps k (State.pruneFails s t err) := by
  unfold State.pruneFails
  repeat' first
    | with_reducible assumption
    | with_reducible apply State.endTask_keeps
    | with_reducible apply State.addReg_keeps
    | split
    | with_reducible apply Keeps.ite
    | (intro)

theorem State.packAll_keeps {k : State} {s : State} {o : State} {t : Task} {words : Nat → List ((Nat × Nat) × Nat)} (h : Keeps k s) :
    Keeps k (State.packAll s o t words) := by
  unfold State.packAll
  repeat' first
    | extract_lets
    | with_reducible assumption
    | with_reducible apply State.packMatrix_keeps
    | with_reducible apply State.endTask_keeps
    | with_reducible apply State.scrambleOverlaps_keeps
    | with_reducible apply State.addReg_keeps
    | with_reducible apply Keeps.foldl
    | with_reducible apply Keeps.foldl1
    | with_reducible apply Keeps.foldl2
    | split
    | with_reducible apply Keeps.ite
    | with_reducible refine Keeps.of_fst (by assumption) ?_
    | (intro)

theorem State.pruneMask_keeps {k : State} {s : State} {t : Task} (h : Keeps k s) :
    Keeps k (State.pruneMask s t) := by
  unfold State.pruneMask
  repeat' first
    | extract_lets
    | with_reducible assumption
    | with_reducible apply State.endTask_keeps
    | with_reducible apply State.putBytes_keeps
    | with_reducible apply State.addReg_keeps
    | with_reducible apply State.packAll_keeps
    | with_reducible apply State.pruneFails_keeps
    | with_reducible apply Keeps.foldl
    | with_reducible apply Keeps.foldl1
    | with_reducible apply Keeps.foldl2
    | split
    | with_reducible apply Keeps.ite
    | (intro)

theorem State.prunePack_keeps {k : State} {s : State} {t : Task} (h : Keeps k s) :
    Keeps k (State.prunePack s t) := by
  unfold State.prunePack
  repeat' first
    | extract_lets
    | with_reducible assumption
    | with_reducible apply State.endTask_keeps
    | with_reducible apply State.packAll_keeps
    | with_reducible apply State.pruneFails_keeps
    | split
    | with_reducible apply Keeps.ite
    | (intro)

theorem State.putSection_keeps {k : State} {s : State} {poison : Bool} {a : ℕ} {bs : List Byte} (h : Keeps k s) :
    Keeps k (State.putSection s poison a bs) := by
  unfold State.putSection
  repeat' first
    | extract_lets
    | with_reducible assumption
    | with_reducible apply State.putMarked_keeps
    | split
    | with_reducible apply Keeps.ite
    | (intro)
    | fail_if_no_progress with_reducible apply Keeps.update.mpr

theorem State.shadowTable_keeps {k : State} {s : State} {o : State} {t : Task} {z : Nat} (h : Keeps k s) :
    Keeps k (State.shadowTable s o t z) := by
  unfold State.shadowTable
  repeat' first
    | extract_lets
    | with_reducible assumption
    | with_reducible apply State.record_keeps
    | with_reducible apply State.putMarked_keeps
    | with_reducible apply State.putSection_keeps
    | with_reducible apply State.note_keeps
    | split
    | with_reducible apply Keeps.ite
    | (intro)
    | fail_if_no_progress with_reducible apply Keeps.update.mpr

theorem State.runShadow_keeps {k : State} {s : State} {t : Task} (h : Keeps k s) :
    Keeps k (State.runShadow s t) := by
  unfold State.runShadow
  repeat' first
    | with_reducible assumption
    | with_reducible apply Keeps.foldl1
    | with_reducible apply Keeps.foldl2
    | with_reducible apply State.scrambleOverlaps_keeps
    | with_reducible apply State.shadowTable_keeps
    | with_reducible apply Keeps.foldl
    | split
    | with_reducible apply Keeps.ite
    | (intro)

theorem State.putFlagged_keeps {k : State} {s : State} {seq : ℕ} {a : ℕ} {bs : List Byte} {fs : List Bool} (h :
    Keeps k s) :
    Keeps k (State.putFlagged s seq a bs fs) := by
  unfold State.putFlagged
  repeat' first
    | extract_lets
    | with_reducible assumption
    | with_reducible apply State.note_keeps
    | with_reducible apply State.putMarked_keeps
    | with_reducible apply Keeps.foldl
    | with_reducible apply Keeps.foldl1
    | with_reducible apply Keeps.foldl2
    | split
    | with_reducible apply Keeps.ite
    | (intro)

theorem State.moveRanges_keeps {k : State} {s : State} {o : State} {seq : Nat} {src : List (Nat × Nat)} {dst : List (Nat × Nat)} (h : Keeps k s) :
    Keeps k (State.moveRanges s o seq src dst) := by
  unfold State.moveRanges
  repeat' first
    | extract_lets
    | with_reducible assumption
    | with_reducible apply Keeps.foldl
    | with_reducible apply Keeps.foldl1
    | with_reducible apply Keeps.foldl2
    | with_reducible apply State.putFlagged_keeps
    | split
    | with_reducible apply Keeps.ite
    | (intro)
    | fail_if_no_progress with_reducible apply Keeps.update.mpr

theorem State.runMove_keeps {k : State} {s : State} {t : Task} (h : Keeps k s) :
    Keeps k (State.runMove s t) := by
  unfold State.runMove
  repeat' first
    | extract_lets
    | with_reducible assumption
    | with_reducible apply State.moveRanges_keeps
    | with_reducible apply State.note_keeps
    | with_reducible apply State.putMarked_keeps
    | with_reducible apply State.putFlagged_keeps
    | with_reducible apply State.scrambleOverlaps_keeps
    | with_reducible apply Keeps.foldl
    | with_reducible apply Keeps.foldl1
    | with_reducible apply Keeps.foldl2
    | split
    | with_reducible apply Keeps.ite
    | (intro)

end Sys2Proof.Machine
end

