-- ==== Sys2Proof/Laws/KeptStakes.lean ====
section
/-! SUPPORT. What the operations of Machine/Stakes.lean keep (Laws/Kept.lean). -/

set_option Elab.async false

set_option linter.unusedTactic false
set_option linter.unreachableTactic false

namespace Sys2Proof.Machine

open Sys2Proof

theorem State.requestCollStake_keeps {k : State} {s : State} {seq : ℕ} (h : Keeps k s) :
    Keeps k (State.requestCollStake s seq) := by
  unfold State.requestCollStake
  repeat' first
    | extract_lets
    | with_reducible assumption
    | split
    | with_reducible apply Keeps.ite
    | (intro)
    | fail_if_no_progress with_reducible apply Keeps.update.mpr

theorem State.giveStake_keeps {k : State} {s : State} {r : StakeReq} (h : Keeps k s) :
    Keeps k (State.giveStake s r) := by
  unfold State.giveStake
  repeat' first
    | with_reducible assumption
    | split
    | with_reducible apply Keeps.ite
    | (intro)
    | fail_if_no_progress with_reducible apply Keeps.update.mpr

theorem State.grantStake_keeps {k : State} {s : State} (h : Keeps k s) :
    KeepsO k (State.grantStake s) := by
  unfold State.grantStake
  repeat' first
    | extract_lets
    | with_reducible exact KeepsO.none
    | with_reducible apply KeepsO.some
    | with_reducible assumption
    | with_reducible apply State.giveStake_keeps
    | split
    | with_reducible apply KeepsO.ite
    | with_reducible apply Keeps.ite
    | (intro)
    | fail_if_no_progress with_reducible apply Keeps.update.mpr
    | dsimp +zetaDelta only

end Sys2Proof.Machine
end

