-- ==== Sys2Proof/Laws/KeptCadastre.lean ====
section
/-! SUPPORT. What the operations of Machine/Cadastre.lean keep (Laws/Kept.lean). -/

set_option Elab.async false

set_option linter.unusedTactic false
set_option linter.unreachableTactic false

namespace Sys2Proof.Machine

open Sys2Proof

theorem State.whWrite_keeps {k : State} {s : State} {f : ℕ} {act : State → State} (h : Keeps k s) (hf : ∀ z, Keeps k
    z → Keeps k (act z)) :
    Keeps k (State.whWrite s f act) := by
  unfold State.whWrite
  repeat' first
    | with_reducible assumption
    | with_reducible apply State.setBit_keeps
    | with_reducible apply hf
    | split
    | with_reducible apply Keeps.ite
    | (intro)

theorem State.regionReject_keeps {k : State} {s : State} (h : Keeps k s) :
    Keeps k (State.regionReject s) := by
  unfold State.regionReject
  repeat' first
    | with_reducible assumption
    | with_reducible apply State.setBit_keeps
    | split
    | with_reducible apply Keeps.ite
    | (intro)

theorem State.regionSet_keeps {k : State} {s : State} {i : ℕ} {v : ℕ} (h : Keeps k s) :
    Keeps k (State.regionSet s i v) := by
  unfold State.regionSet
  repeat' first
    | with_reducible assumption
    | with_reducible apply State.regionReject_keeps
    | with_reducible apply State.setReg_keeps
    | split
    | with_reducible apply Keeps.ite
    | (intro)

theorem State.regionClear_keeps {k : State} {s : State} {i : ℕ} {v : ℕ} (h : Keeps k s) :
    Keeps k (State.regionClear s i v) := by
  unfold State.regionClear
  repeat' first
    | extract_lets
    | with_reducible assumption
    | with_reducible apply State.regionReject_keeps
    | with_reducible apply State.setReg_keeps
    | split
    | with_reducible apply Keeps.ite
    | (intro)
    | fail_if_no_progress with_reducible apply Keeps.update.mpr
    | dsimp +zetaDelta only

theorem State.writeRegionLow_keeps {k : State} {s : State} {i : ℕ} {v : ℕ} (h : Keeps k s) :
    Keeps k (State.writeRegionLow s i v) := by
  unfold State.writeRegionLow
  repeat' first
    | with_reducible assumption
    | with_reducible apply State.whWrite_keeps
    | with_reducible apply State.regionSet_keeps
    | with_reducible apply State.regionClear_keeps
    | split
    | with_reducible apply Keeps.ite
    | (intro)

theorem State.writeRegionHigh_keeps {k : State} {s : State} {i : ℕ} {v : ℕ} (h : Keeps k s) :
    Keeps k (State.writeRegionHigh s i v) := by
  unfold State.writeRegionHigh
  repeat' first
    | with_reducible assumption
    | with_reducible apply State.whWrite_keeps
    | with_reducible apply State.regionReject_keeps
    | with_reducible apply State.setReg_keeps
    | split
    | with_reducible apply Keeps.ite
    | (intro)

theorem State.writeTableBase_keeps {k : State} {s : State} {v : ℕ} (h : Keeps k s) :
    Keeps k (State.writeTableBase s v) := by
  unfold State.writeTableBase
  repeat' first
    | extract_lets
    | with_reducible assumption
    | with_reducible apply State.whWrite_keeps
    | with_reducible apply State.setReg_keeps
    | with_reducible apply State.regionReject_keeps
    | split
    | with_reducible apply Keeps.ite
    | (intro)
    | fail_if_no_progress with_reducible apply Keeps.update.mpr
    | dsimp +zetaDelta only

theorem State.writeProgMib_keeps {k : State} {s : State} {v : ℕ} (h : Keeps k s) :
    Keeps k (State.writeProgMib s v) := by
  unfold State.writeProgMib
  repeat' first
    | extract_lets
    | with_reducible assumption
    | with_reducible apply State.whWrite_keeps
    | with_reducible apply State.regionReject_keeps
    | with_reducible apply State.setReg_keeps
    | split
    | with_reducible apply Keeps.ite
    | (intro)

/-- A property that every step of a fold keeps holds of its result. -/
theorem foldl_keeps {α β : Type} {P : β → Prop} {f : β → α → β} {l : List α} {b : β} (hb : P b)
    (hf : ∀ x a, P x → P (f x a)) : P (l.foldl f b) := by
  induction l generalizing b with
  | nil => exact hb
  | cons a l ih => exact ih (hf b a hb)

theorem State.remap_keeps {k s : State} {units : Nat} (h : Keeps k s) : Keeps k (s.remap units) :=
  h.mem_poison rfl rfl rfl
    (fun _ => foldl_keeps ⟨List.Pairwise.nil, by simp⟩ fun m c hm => by
      cases s.moved units c.1 with
      | none => exact hm
      | some a => exact memPut_wf hm)
    (fun _ => foldl_keeps List.Pairwise.nil fun p l hp => by
      cases s.moved units (64 * l) with
      | none => exact hp
      | some a => exact setInsert_ascending hp)

theorem State.writeNearUnits_keeps {k : State} {s : State} {v : ℕ} (h : Keeps k s) :
    Keeps k (State.writeNearUnits s v) := by
  unfold State.writeNearUnits
  repeat' first
    | extract_lets
    | with_reducible assumption
    | with_reducible apply State.whWrite_keeps
    | with_reducible apply State.setReg_keeps
    | with_reducible apply State.remap_keeps
    | with_reducible apply State.setBit_keeps
    | split
    | with_reducible apply Keeps.ite
    | (intro)

theorem State.promote_keeps {k : State} {s : State} {p : ℕ} {f : ℕ} (h : Keeps k s) :
    Keeps k (State.promote s p f) := by
  unfold State.promote
  repeat' first
    | with_reducible assumption
    | with_reducible apply State.setPageRec_keeps
    | split
    | with_reducible apply Keeps.ite
    | (intro)
    | fail_if_no_progress with_reducible apply Keeps.update.mpr

theorem State.setRes_keeps {k : State} {s : State} {i : ℕ} {spilled : Bool} {ready : Bool} (h : Keeps k s) :
    Keeps k (State.setRes s i spilled ready) := by
  unfold State.setRes
  repeat' first
    | with_reducible assumption
    | with_reducible apply State.setBit_keeps
    | split
    | with_reducible apply Keeps.ite
    | (intro)

theorem State.applyEntry_keeps {k : State} {a : Applied} {i : Nat} (h : Keeps k a.st) :
    Keeps k (State.applyEntry a i).st := by
  unfold State.applyEntry
  repeat' first
    | with_reducible assumption
    | with_reducible apply State.setRes_keeps
    | extract_lets
    | split

theorem foldl_applyEntry_keeps {k : State} {l : List Nat} {a : Applied} (h : Keeps k a.st) :
    Keeps k (l.foldl State.applyEntry a).st := by
  induction l generalizing a with
  | nil => exact h
  | cons i l ih => exact ih (State.applyEntry_keeps h)

theorem State.residency_keeps {k s : State} (h : Keeps k s) : Keeps k s.residency.st := foldl_applyEntry_keeps h

theorem State.applyResidency_keeps {k : State} {s : State} (h : Keeps k s) :
    Keeps k (State.applyResidency s) := by
  unfold State.applyResidency
  repeat' first
    | extract_lets
    | with_reducible assumption
    | with_reducible apply State.setRes_keeps
    | with_reducible apply State.setPageRec_keeps
    | with_reducible apply State.setBit_keeps
    | with_reducible apply State.residency_keeps
    | with_reducible apply Keeps.foldl
    | with_reducible apply Keeps.foldl1
    | with_reducible apply Keeps.foldl2
    | split
    | with_reducible apply Keeps.ite
    | (intro)
    | fail_if_no_progress with_reducible apply Keeps.update.mpr

theorem State.refreshReady_keeps {k : State} {s : State} (h : Keeps k s) :
    Keeps k (State.refreshReady s) := by
  unfold State.refreshReady
  repeat' first
    | with_reducible assumption
    | with_reducible apply State.setRes_keeps
    | with_reducible apply Keeps.foldl
    | split
    | with_reducible apply Keeps.ite
    | (intro)
    | fail_if_no_progress with_reducible apply Keeps.update.mpr

theorem State.copyLocal_keeps {k : State} {s : State} {i : ℕ} {j : ℕ} (h : Keeps k s) :
    Keeps k (State.copyLocal s i j) := by
  unfold State.copyLocal
  repeat' first
    | extract_lets
    | with_reducible assumption
    | with_reducible apply State.putMarked_keeps
    | with_reducible apply Keeps.foldl
    | split
    | with_reducible apply Keeps.ite
    | (intro)

theorem State.residencyCopied_keeps {k : State} {s : State} {i : ℕ} (h : Keeps k s) :
    KeepsO k (State.residencyCopied s i) := by
  unfold State.residencyCopied
  repeat' first
    | extract_lets
    | with_reducible exact KeepsO.none
    | with_reducible apply KeepsO.some
    | with_reducible assumption
    | with_reducible apply KeepsO1.some
    | with_reducible apply KeepsO1.none
    | with_reducible apply KeepsO2.some
    | with_reducible apply KeepsO2.none
    | with_reducible apply State.copyLocal_keeps
    | with_reducible apply State.setRes_keeps
    | split
    | with_reducible apply KeepsO.ite
    | with_reducible apply Keeps.ite
    | (intro)
    | fail_if_no_progress with_reducible apply Keeps.update.mpr
    | dsimp +zetaDelta only

theorem State.placePage_keeps {k : State} {p : State × ℕ} {page : ℕ} {q : ℕ} {margin : Option ℕ} (h : Keeps k p.1) :
    Keeps k (State.placePage p page q margin).1 := by
  unfold State.placePage
  repeat' first
    | extract_lets
    | with_reducible assumption
    | with_reducible apply State.promote_keeps
    | with_reducible apply State.evict_keeps
    | split
    | with_reducible apply Keeps.ite
    | (intro)
    | fail_if_no_progress with_reducible apply Keeps.update.mpr
    | dsimp +zetaDelta only

theorem State.heatEpoch_keeps {k : State} {s : State} (h : Keeps k s) :
    Keeps k (State.heatEpoch s) := by
  unfold State.heatEpoch
  repeat' first
    | extract_lets
    | with_reducible assumption
    | with_reducible apply State.applyResidency_keeps
    | with_reducible apply State.evict_keeps
    | with_reducible apply State.placePage_keeps
    | with_reducible apply State.setPageRec_keeps
    | with_reducible apply Keeps.foldl
    | with_reducible apply Keeps.foldl1
    | with_reducible apply Keeps.foldl2
    | split
    | with_reducible apply Keeps.ite
    | with_reducible refine Keeps.of_fst (by assumption) ?_
    | (intro)
    | fail_if_no_progress with_reducible apply Keeps.update.mpr

theorem State.promotionEnds_keeps {k : State} {s : State} {p : ℕ} {ok : Bool} (h : Keeps k s) :
    KeepsO k (State.promotionEnds s p ok) := by
  unfold State.promotionEnds
  repeat' first
    | extract_lets
    | with_reducible exact KeepsO.none
    | with_reducible apply KeepsO.some
    | with_reducible assumption
    | with_reducible apply State.retireImages_keeps
    | with_reducible apply KeepsO1.some
    | with_reducible apply KeepsO1.none
    | with_reducible apply KeepsO2.some
    | with_reducible apply KeepsO2.none
    | with_reducible apply State.refreshReady_keeps
    | with_reducible apply State.addReg_keeps
    | with_reducible apply State.setPageRec_keeps
    | split
    | with_reducible apply KeepsO.ite
    | with_reducible apply Keeps.ite
    | (intro)
    | fail_if_no_progress with_reducible apply Keeps.update.mpr

theorem State.evictionEnds_keeps {k : State} {s : State} {p : ℕ} (h : Keeps k s) :
    KeepsO k (State.evictionEnds s p) := by
  unfold State.evictionEnds
  repeat' first
    | extract_lets
    | with_reducible exact KeepsO.none
    | with_reducible apply KeepsO.some
    | with_reducible assumption
    | with_reducible apply State.retireImages_keeps
    | with_reducible apply KeepsO1.some
    | with_reducible apply KeepsO1.none
    | with_reducible apply KeepsO2.some
    | with_reducible apply KeepsO2.none
    | with_reducible apply State.addReg_keeps
    | with_reducible apply State.setPageRec_keeps
    | with_reducible apply State.promote_keeps
    | with_reducible apply State.refreshReady_keeps
    | split
    | with_reducible apply KeepsO.ite
    | with_reducible apply Keeps.ite
    | (intro)
    | fail_if_no_progress with_reducible apply Keeps.update.mpr
    | dsimp +zetaDelta only

theorem State.heat_keeps {k : State} {s : State} {addr : ℕ} {r : Reader} (h : Keeps k s) :
    Keeps k (State.heat s addr r) := by
  unfold State.heat
  repeat' first
    | extract_lets
    | with_reducible assumption
    | with_reducible apply State.setPageRec_keeps
    | split
    | with_reducible apply Keeps.ite
    | (intro)
    | fail_if_no_progress with_reducible apply Keeps.update.mpr
    | dsimp +zetaDelta only

theorem State.modPub_keeps {k : State} {s : State} {q : ℕ} {f : Publish → Publish} (h : Keeps k s) :
    Keeps k (State.modPub s q f) := by
  unfold State.modPub
  repeat' first
    | with_reducible assumption
    | split
    | with_reducible apply Keeps.ite
    | (intro)
    | fail_if_no_progress with_reducible apply Keeps.update.mpr

theorem State.startPublish_keeps {k : State} {s : State} {t : Task} (h : Keeps k s) :
    Keeps k (State.startPublish s t) := by
  unfold State.startPublish
  repeat' first
    | with_reducible assumption
    | with_reducible apply State.modPub_keeps
    | split
    | with_reducible apply Keeps.ite
    | (intro)
    | fail_if_no_progress with_reducible apply Keeps.update.mpr

theorem State.fillImage_keeps {k : State} {s : State} {b : Publish} {st : ℕ} (h : Keeps k s) :
    Keeps k (State.fillImage s b st) := by
  unfold State.fillImage
  repeat' first
    | extract_lets
    | with_reducible assumption
    | with_reducible apply State.setReg_keeps
    | split
    | with_reducible apply Keeps.ite
    | (intro)

theorem State.publishPrepared_keeps {k : State} {s : State} {b : Publish} (h : Keeps k s) :
    Keeps k (State.publishPrepared s b) := by
  unfold State.publishPrepared
  repeat' first
    | with_reducible assumption
    | with_reducible apply State.event_keeps
    | with_reducible apply State.modPub_keeps
    | with_reducible apply State.fillImage_keeps
    | split
    | with_reducible apply Keeps.ite
    | (intro)
    | fail_if_no_progress with_reducible apply Keeps.update.mpr

theorem State.follow_keeps {k : State} {s : State} {pred : ℕ} {new : ℕ} (h : Keeps k s) :
    Keeps k (State.follow s pred new) := by
  unfold State.follow
  repeat' first
    | with_reducible assumption
    | with_reducible apply State.setFld_keeps
    | with_reducible apply Keeps.foldl
    | split
    | with_reducible apply Keeps.ite
    | (intro)

theorem State.publishCommit_keeps {k : State} {s : State} {b : Publish} (h : Keeps k s) :
    Keeps k (State.publishCommit s b) := by
  unfold State.publishCommit
  repeat' first
    | extract_lets
    | with_reducible assumption
    | with_reducible apply State.setReg_keeps
    | with_reducible apply State.setFld_keeps
    | with_reducible apply State.event_keeps
    | with_reducible apply State.follow_keeps
    | with_reducible apply State.endTask_keeps
    | with_reducible apply State.applyResidency_keeps
    | with_reducible apply State.retireImages_keeps
    | split
    | with_reducible apply Keeps.ite
    | (intro)
    | fail_if_no_progress with_reducible apply Keeps.update.mpr
    | dsimp +zetaDelta only

theorem State.publishFinish_keeps {k : State} {s : State} {b : Publish} (h : Keeps k s) :
    Keeps k (State.publishFinish s b) := by
  unfold State.publishFinish
  repeat' first
    | with_reducible assumption
    | with_reducible apply State.publishCommit_keeps
    | with_reducible apply State.wait_keeps
    | split
    | with_reducible apply Keeps.ite
    | (intro)

theorem State.publishGoOn_keeps {k : State} {s : State} {b : Publish} (h : Keeps k s) :
    Keeps k (State.publishGoOn s b) := by
  unfold State.publishGoOn
  repeat' first
    | with_reducible assumption
    | with_reducible apply State.publishFinish_keeps
    | with_reducible apply State.publishPrepared_keeps
    | with_reducible apply State.wait_keeps
    | with_reducible apply State.modPub_keeps
    | split
    | with_reducible apply Keeps.ite
    | (intro)
    | fail_if_no_progress with_reducible apply Keeps.update.mpr

theorem State.hashComplete_keeps {k : State} {s : State} {seq : ℕ} (h : Keeps k s) :
    KeepsO k (State.hashComplete s seq) := by
  unfold State.hashComplete
  repeat' first
    | extract_lets
    | with_reducible exact KeepsO.none
    | with_reducible apply KeepsO.some
    | with_reducible assumption
    | with_reducible apply State.setBit_keeps
    | with_reducible apply State.endTask_keeps
    | with_reducible apply State.publishGoOn_keeps
    | with_reducible apply State.modPub_keeps
    | split
    | with_reducible apply KeepsO.ite
    | with_reducible apply Keeps.ite
    | (intro)
    | fail_if_no_progress with_reducible apply Keeps.update.mpr
    | dsimp +zetaDelta only

end Sys2Proof.Machine
end

