-- ==== Sys2Proof/Laws/KeptHbm.lean ====
section
/-! SUPPORT. What the operations of Machine/Hbm.lean keep (Laws/Kept.lean). -/

set_option Elab.async false

set_option linter.unusedTactic false
set_option linter.unreachableTactic false

namespace Sys2Proof.Machine

open Sys2Proof

theorem State.modHbm_keeps {k : State} {s : State} {f : Hbm → Hbm} (h : Keeps k s) :
    Keeps k (State.modHbm s f) := by
  unfold State.modHbm
  repeat' first
    | with_reducible assumption
    | split
    | with_reducible apply Keeps.ite
    | (intro)
    | fail_if_no_progress with_reducible apply Keeps.update.mpr

theorem State.recordFailed_keeps {k : State} {s : State} {ch : ℕ} {action : ℕ} (h : Keeps k s) :
    Keeps k (State.recordFailed s ch action) := by
  unfold State.recordFailed
  repeat' first
    | with_reducible assumption
    | with_reducible apply State.record_keeps
    | split
    | with_reducible apply Keeps.ite
    | (intro)

theorem State.fence_keeps {k : State} {s : State} {ch : ℕ} (h : Keeps k s) :
    Keeps k (State.fence s ch) := by
  unfold State.fence
  repeat' first
    | with_reducible assumption
    | with_reducible apply State.recordFailed_keeps
    | with_reducible apply State.modHbm_keeps
    | split
    | with_reducible apply Keeps.ite
    | (intro)
    | fail_if_no_progress with_reducible apply Keeps.update.mpr

theorem State.openDarning_keeps {k : State} {s : State} {ch : ℕ} (h : Keeps k s) :
    Keeps k (State.openDarning s ch) := by
  unfold State.openDarning
  repeat' first
    | with_reducible assumption
    | with_reducible apply State.resumeEntry_keeps
    | with_reducible apply State.modHbm_keeps
    | with_reducible apply State.setReg_keeps
    | split
    | with_reducible apply Keeps.ite
    | (intro)
    | fail_if_no_progress with_reducible apply Keeps.update.mpr

theorem State.closeDarning_keeps {k : State} {s : State} (h : Keeps k s) :
    Keeps k (State.closeDarning s) := by
  unfold State.closeDarning
  repeat' first
    | with_reducible assumption
    | with_reducible apply State.resumeEntry_keeps
    | with_reducible apply State.modHbm_keeps
    | with_reducible apply State.setReg_keeps
    | split
    | with_reducible apply Keeps.ite
    | (intro)
    | fail_if_no_progress with_reducible apply Keeps.update.mpr

theorem State.startDarning_keeps {k : State} {s : State} {ch : ℕ} (h : Keeps k s) :
    Keeps k (State.startDarning s ch) := by
  unfold State.startDarning
  repeat' first
    | extract_lets
    | with_reducible assumption
    | with_reducible apply State.setBit_keeps
    | with_reducible apply State.setFld_keeps
    | with_reducible apply State.modHbm_keeps
    | with_reducible apply State.openDarning_keeps
    | with_reducible apply State.wait_keeps
    | split
    | with_reducible apply Keeps.ite
    | (intro)
    | fail_if_no_progress with_reducible apply Keeps.update.mpr

theorem State.darnNext_keeps {k : State} {s : State} {a1 : ℕ} (h : Keeps k s) :
    Keeps k (State.darnNext s a1) := by
  induction a1 generalizing s with
  | zero => exact h
  | succ n ih =>
    unfold State.darnNext
    repeat' first
      | with_reducible assumption
      | with_reducible apply ih
      | with_reducible apply State.modHbm_keeps
      | with_reducible apply State.startDarning_keeps
      | with_reducible apply State.fence_keeps
      | split
      | with_reducible apply Keeps.ite
      | (intro)
      | fail_if_no_progress with_reducible apply Keeps.update.mpr

theorem State.darnAll_keeps {k : State} {s : State} (h : Keeps k s) :
    Keeps k (State.darnAll s) := by
  unfold State.darnAll
  repeat' first
    | with_reducible assumption
    | with_reducible apply State.darnNext_keeps
    | split
    | with_reducible apply Keeps.ite
    | (intro)

theorem State.failChannel_keeps {k : State} {s : State} {ch : ℕ} (h : Keeps k s) :
    Keeps k (State.failChannel s ch) := by
  unfold State.failChannel
  repeat' first
    | with_reducible assumption
    | with_reducible apply State.darnAll_keeps
    | with_reducible apply State.modHbm_keeps
    | split
    | with_reducible apply Keeps.ite
    | (intro)
    | fail_if_no_progress with_reducible apply Keeps.update.mpr

theorem State.refence_keeps {k : State} {s : State} (h : Keeps k s) :
    Keeps k (State.refence s) := by
  unfold State.refence
  repeat' first
    | with_reducible assumption
    | with_reducible apply State.darnAll_keeps
    | with_reducible apply State.modHbm_keeps
    | split
    | with_reducible apply Keeps.ite
    | (intro)
    | fail_if_no_progress with_reducible apply Keeps.update.mpr

theorem State.writeHeadroom_keeps {k : State} {s : State} {v : ℕ} (h : Keeps k s) :
    Keeps k (State.writeHeadroom s v) := by
  unfold State.writeHeadroom
  repeat' first
    | extract_lets
    | with_reducible assumption
    | with_reducible apply State.whWrite_keeps
    | with_reducible apply State.setFld_keeps
    | with_reducible apply State.regionReject_keeps
    | with_reducible apply State.refence_keeps
    | split
    | with_reducible apply Keeps.ite
    | (intro)

theorem State.writeDarnReq_keeps {k : State} {s : State} {v : ℕ} (h : Keeps k s) :
    Keeps k (State.writeDarnReq s v) := by
  unfold State.writeDarnReq
  repeat' first
    | extract_lets
    | with_reducible assumption
    | with_reducible apply State.setReg_keeps
    | with_reducible apply State.failChannel_keeps
    | split
    | with_reducible apply Keeps.ite
    | (intro)

theorem State.darnLost_keeps {k : State} {s : State} {ch : Nat} {line : Nat} (h : Keeps k s) :
    Keeps k (State.darnLost s ch line) := by
  unfold State.darnLost
  repeat' first
    | extract_lets
    | with_reducible assumption
    | with_reducible apply State.poisonLine_keeps
    | split
    | with_reducible apply Keeps.ite
    | (intro)
    | fail_if_no_progress with_reducible apply Keeps.update.mpr

theorem State.migrationDone_keeps {k : State} {s : State} (h : Keeps k s) :
    KeepsO k (State.migrationDone s) := by
  unfold State.migrationDone
  repeat' first
    | extract_lets
    | with_reducible exact KeepsO.none
    | with_reducible apply KeepsO.some
    | with_reducible assumption
    | with_reducible apply Keeps.foldl1
    | with_reducible apply Keeps.foldl2
    | with_reducible apply State.darnLost_keeps
    | with_reducible apply KeepsO1.some
    | with_reducible apply KeepsO1.none
    | with_reducible apply KeepsO2.some
    | with_reducible apply KeepsO2.none
    | with_reducible apply State.setFld_keeps
    | with_reducible apply State.recordFailed_keeps
    | with_reducible apply State.setBit_keeps
    | with_reducible apply State.modHbm_keeps
    | with_reducible apply State.closeDarning_keeps
    | with_reducible apply State.wait_keeps
    | with_reducible apply State.darnAll_keeps
    | with_reducible apply Keeps.foldl
    | split
    | with_reducible apply KeepsO.ite
    | with_reducible apply Keeps.ite
    | (intro)
    | fail_if_no_progress with_reducible apply Keeps.update.mpr
    | dsimp +zetaDelta only

theorem State.darnCopies_keeps {k : State} {s : State} (h : Keeps k s) :
    Keeps k (State.darnCopies s) := by
  unfold State.darnCopies
  repeat' first
    | extract_lets
    | with_reducible assumption
    | with_reducible apply State.modHbm_keeps
    | split
    | with_reducible apply Keeps.ite
    | (intro)
    | fail_if_no_progress with_reducible apply Keeps.update.mpr

theorem State.updateRetraining_keeps {k : State} {s : State} (h : Keeps k s) :
    Keeps k (State.updateRetraining s) := by
  unfold State.updateRetraining
  repeat' first
    | with_reducible assumption
    | with_reducible apply State.setBit_keeps
    | split
    | with_reducible apply Keeps.ite
    | (intro)

theorem State.waitersOn_keeps {k : State} {s : State} {ch : ℕ} (h : Keeps k s) :
    Keeps k (State.waitersOn s ch) := by
  unfold State.waitersOn
  repeat' first
    | extract_lets
    | with_reducible assumption
    | with_reducible apply State.markRetried_keeps
    | split
    | with_reducible apply Keeps.ite
    | (intro)
    | fail_if_no_progress with_reducible apply Keeps.update.mpr
    | dsimp +zetaDelta only

theorem State.startRetrain_keeps {k : State} {s : State} {ch : ℕ} (h : Keeps k s) :
    Keeps k (State.startRetrain s ch) := by
  unfold State.startRetrain
  repeat' first
    | extract_lets
    | with_reducible assumption
    | with_reducible apply State.modHbm_keeps
    | with_reducible apply State.updateRetraining_keeps
    | with_reducible apply State.waitersOn_keeps
    | with_reducible apply State.setBit_keeps
    | split
    | with_reducible apply Keeps.ite
    | (intro)
    | fail_if_no_progress with_reducible apply Keeps.update.mpr

theorem State.startUrgent_keeps {k : State} {s : State} (h : Keeps k s) :
    Keeps k (State.startUrgent s) := by
  unfold State.startUrgent
  repeat' first
    | with_reducible assumption
    | with_reducible apply State.startRetrain_keeps
    | with_reducible apply Keeps.foldl
    | split
    | with_reducible apply Keeps.ite
    | (intro)

theorem State.slotStack_keeps {k : State} {s : State} {k_ : ℕ} (h : Keeps k s) :
    Keeps k (State.slotStack s k_) := by
  unfold State.slotStack
  repeat' first
    | extract_lets
    | with_reducible assumption
    | with_reducible apply State.startRetrain_keeps
    | with_reducible apply State.setBit_keeps
    | with_reducible apply State.modHbm_keeps
    | with_reducible apply State.updateRetraining_keeps
    | with_reducible apply State.waitersOn_keeps
    | split
    | with_reducible apply Keeps.ite
    | (intro)
    | fail_if_no_progress with_reducible apply Keeps.update.mpr
    | dsimp +zetaDelta only

theorem State.retrainEnds_keeps {k : State} {s : State} {ch : ℕ} {ok : Bool} {ns : ℕ} (h : Keeps k s) :
    KeepsO k (State.retrainEnds s ch ok ns) := by
  unfold State.retrainEnds
  repeat' first
    | extract_lets
    | with_reducible exact KeepsO.none
    | with_reducible apply KeepsO.some
    | with_reducible assumption
    | with_reducible apply KeepsO1.some
    | with_reducible apply KeepsO1.none
    | with_reducible apply KeepsO2.some
    | with_reducible apply KeepsO2.none
    | with_reducible apply State.modHbm_keeps
    | with_reducible apply State.record_keeps
    | with_reducible apply State.addReg_keeps
    | with_reducible apply State.failChannel_keeps
    | with_reducible apply State.startUrgent_keeps
    | with_reducible apply State.updateRetraining_keeps
    | split
    | with_reducible apply KeepsO.ite
    | with_reducible apply Keeps.ite
    | (intro)
    | fail_if_no_progress with_reducible apply Keeps.update.mpr

theorem State.setMargin_keeps {k : State} {s : State} {ch : Nat} {failed : List Nat} (h : Keeps k s) :
    Keeps k (State.setMargin s ch failed) := by
  unfold State.setMargin
  repeat' first
    | extract_lets
    | with_reducible assumption
    | with_reducible apply State.modHbm_keeps
    | with_reducible apply State.setReg_keeps
    | split
    | with_reducible apply Keeps.ite
    | (intro)
    | fail_if_no_progress with_reducible apply Keeps.update.mpr

theorem State.marginEnds_keeps {k : State} {s : State} {ch : Nat} {steps : Nat} {failed : List Nat} (h : Keeps k s) :
    KeepsO k (State.marginEnds s ch steps failed) := by
  unfold State.marginEnds
  repeat' first
    | extract_lets
    | with_reducible exact KeepsO.none
    | with_reducible apply KeepsO.some
    | with_reducible assumption
    | with_reducible apply KeepsO1.some
    | with_reducible apply KeepsO1.none
    | with_reducible apply KeepsO2.some
    | with_reducible apply KeepsO2.none
    | with_reducible apply State.modHbm_keeps
    | with_reducible apply State.setMargin_keeps
    | with_reducible apply State.startUrgent_keeps
    | with_reducible apply State.updateRetraining_keeps
    | split
    | with_reducible apply KeepsO.ite
    | with_reducible apply Keeps.ite
    | (intro)
    | fail_if_no_progress with_reducible apply Keeps.update.mpr
    | dsimp +zetaDelta only

theorem State.noteRow_keeps {k : State} {s : State} {ch : Nat} {line : Nat} {row : Nat} (h : Keeps k s) :
    Keeps k (State.noteRow s ch line row) := by
  unfold State.noteRow
  repeat' first
    | with_reducible assumption
    | with_reducible apply State.modHbm_keeps
    | split
    | with_reducible apply Keeps.ite
    | (intro)
    | fail_if_no_progress with_reducible apply Keeps.update.mpr

theorem State.queueRepair_keeps {k : State} {s : State} {ch : ℕ} {row : ℕ} (h : Keeps k s) :
    Keeps k (State.queueRepair s ch row) := by
  unfold State.queueRepair
  repeat' first
    | with_reducible assumption
    | with_reducible apply State.modHbm_keeps
    | split
    | with_reducible apply Keeps.ite
    | (intro)
    | fail_if_no_progress with_reducible apply Keeps.update.mpr

theorem State.correctedRead_keeps {k : State} {s : State} {ch : Nat} {row0 : Nat} {line : Nat} (h : Keeps k s) :
    Keeps k (State.correctedRead s ch row0 line) := by
  unfold State.correctedRead
  repeat' first
    | extract_lets
    | with_reducible assumption
    | with_reducible apply State.noteRow_keeps
    | with_reducible apply State.modHbm_keeps
    | with_reducible apply State.addReg_keeps
    | with_reducible apply State.queueRepair_keeps
    | with_reducible apply State.startUrgent_keeps
    | split
    | with_reducible apply Keeps.ite
    | (intro)
    | fail_if_no_progress with_reducible apply Keeps.update.mpr

theorem State.recordUe_keeps {k : State} {s : State} {ch : ℕ} {row : ℕ} {addr : ℕ} (h : Keeps k s) :
    Keeps k (State.recordUe s ch row addr) := by
  unfold State.recordUe
  repeat' first
    | with_reducible assumption
    | with_reducible apply State.record_keeps
    | split
    | with_reducible apply Keeps.ite
    | (intro)

theorem State.uncorrectedRead_keeps {k : State} {s : State} {ch : Nat} {row0 : Nat} {line : Nat} {addr : Nat} (h : Keeps k s) :
    Keeps k (State.uncorrectedRead s ch row0 line addr) := by
  unfold State.uncorrectedRead
  repeat' first
    | extract_lets
    | with_reducible assumption
    | with_reducible apply State.noteRow_keeps
    | with_reducible apply State.modHbm_keeps
    | with_reducible apply State.addReg_keeps
    | with_reducible apply State.queueRepair_keeps
    | with_reducible apply State.recordUe_keeps
    | with_reducible apply State.startUrgent_keeps
    | with_reducible apply State.failChannel_keeps
    | with_reducible apply Keeps.foldl
    | with_reducible apply Keeps.foldl1
    | with_reducible apply Keeps.foldl2
    | split
    | with_reducible apply Keeps.ite
    | (intro)
    | fail_if_no_progress with_reducible apply Keeps.update.mpr

theorem State.channelLine_keeps {k : State} {s : State} {a : Nat} {e : LineError} (h : Keeps k s) :
    Keeps k (State.channelLine s a e) := by
  unfold State.channelLine
  repeat' first
    | extract_lets
    | with_reducible assumption
    | with_reducible apply State.correctedRead_keeps
    | with_reducible apply State.poisonLine_keeps
    | with_reducible apply State.uncorrectedRead_keeps
    | split
    | with_reducible apply Keeps.ite
    | (intro)
    | fail_if_no_progress with_reducible apply Keeps.update.mpr

theorem State.bankLine_keeps {k : State} {s : State} {a : Nat} {e : LineError} (h : Keeps k s) :
    Keeps k (State.bankLine s a e) := by
  unfold State.bankLine
  repeat' first
    | extract_lets
    | with_reducible assumption
    | with_reducible apply State.poisonLine_keeps
    | with_reducible apply State.record_keeps
    | split
    | with_reducible apply Keeps.ite
    | (intro)
    | fail_if_no_progress with_reducible apply Keeps.update.mpr

theorem State.frameRead_keeps {k : State} {s : State} {q : HbmRead} (h : Keeps k s) :
    Keeps k (State.frameRead s q) := by
  unfold State.frameRead
  repeat' first
    | extract_lets
    | with_reducible assumption
    | with_reducible apply State.addReg_keeps
    | with_reducible apply State.evict_keeps
    | with_reducible apply State.record_keeps
    | split
    | with_reducible apply Keeps.ite
    | (intro)
    | fail_if_no_progress with_reducible apply Keeps.update.mpr

theorem State.delivered_keeps {k : State} {s : State} {q : HbmRead} (h : Keeps k s) :
    Keeps k (State.delivered s q) := by
  unfold State.delivered
  repeat' first
    | extract_lets
    | with_reducible assumption
    | with_reducible apply State.modHbm_keeps
    | with_reducible apply State.setPageRec_keeps
    | split
    | with_reducible apply Keeps.ite
    | (intro)
    | fail_if_no_progress with_reducible apply Keeps.update.mpr

theorem State.hbmRead_keeps {k : State} {s : State} {q : HbmRead} (h : Keeps k s) :
    KeepsO k (State.hbmRead s q) := by
  unfold State.hbmRead
  repeat' first
    | extract_lets
    | with_reducible exact KeepsO.none
    | with_reducible apply KeepsO.some
    | with_reducible assumption
    | with_reducible apply Keeps.foldl
    | with_reducible apply Keeps.foldl1
    | with_reducible apply Keeps.foldl2
    | with_reducible apply State.bankLine_keeps
    | with_reducible apply State.channelLine_keeps
    | with_reducible apply State.delivered_keeps
    | with_reducible apply State.frameRead_keeps
    | with_reducible apply State.modHbm_keeps
    | with_reducible apply State.setPageRec_keeps
    | with_reducible apply KeepsO1.some
    | with_reducible apply KeepsO1.none
    | with_reducible apply KeepsO2.some
    | with_reducible apply KeepsO2.none
    | with_reducible apply State.heat_keeps
    | with_reducible apply State.record_keeps
    | with_reducible apply State.addReg_keeps
    | with_reducible apply State.evict_keeps
    | with_reducible apply State.correctedRead_keeps
    | with_reducible apply State.uncorrectedRead_keeps
    | with_reducible apply State.poisonLine_keeps
    | split
    | with_reducible apply KeepsO.ite
    | with_reducible apply Keeps.ite
    | (intro)
    | fail_if_no_progress with_reducible apply Keeps.update.mpr

theorem State.repairRow_keeps {k : State} {s : State} {ch : ℕ} {row : ℕ} (h : Keeps k s) :
    KeepsO k (State.repairRow s ch row) := by
  unfold State.repairRow
  repeat' first
    | extract_lets
    | with_reducible exact KeepsO.none
    | with_reducible apply KeepsO.some
    | with_reducible assumption
    | with_reducible apply KeepsO1.some
    | with_reducible apply KeepsO1.none
    | with_reducible apply KeepsO2.some
    | with_reducible apply KeepsO2.none
    | with_reducible apply State.modHbm_keeps
    | with_reducible apply State.record_keeps
    | with_reducible apply State.addReg_keeps
    | with_reducible apply State.failChannel_keeps
    | split
    | with_reducible apply KeepsO.ite
    | with_reducible apply Keeps.ite
    | (intro)
    | fail_if_no_progress with_reducible apply Keeps.update.mpr
    | dsimp +zetaDelta only

theorem State.rinse_keeps {k : State} {s : State} {ch : ℕ} {off : ℕ} {symbols : ℕ} {row : ℕ} (h : Keeps k s) :
    KeepsO k (State.rinse s ch off symbols row) := by
  unfold State.rinse
  repeat' first
    | extract_lets
    | with_reducible exact KeepsO.none
    | with_reducible apply KeepsO.some
    | with_reducible assumption
    | with_reducible apply State.noteRow_keeps
    | with_reducible apply KeepsO1.some
    | with_reducible apply KeepsO1.none
    | with_reducible apply KeepsO2.some
    | with_reducible apply KeepsO2.none
    | with_reducible apply State.modHbm_keeps
    | with_reducible apply State.recordUe_keeps
    | with_reducible apply State.correctedRead_keeps
    | with_reducible apply State.uncorrectedRead_keeps
    | with_reducible apply State.poisonLine_keeps
    | split
    | with_reducible apply KeepsO.ite
    | with_reducible apply Keeps.ite
    | (intro)
    | fail_if_no_progress with_reducible apply Keeps.update.mpr
    | dsimp +zetaDelta only

theorem State.smsResume_keeps {k : State} {s : State} (h : Keeps k s) :
    Keeps k (State.smsResume s) := by
  unfold State.smsResume
  repeat' first
    | with_reducible assumption
    | with_reducible apply State.startUrgent_keeps
    | with_reducible apply State.darnAll_keeps
    | split
    | with_reducible apply Keeps.ite
    | (intro)

end Sys2Proof.Machine
end

