-- ==== Sys2Proof/Laws/KeptFabric.lean ====
section
/-! SUPPORT. What the operations of Machine/Fabric.lean keep (Laws/Kept.lean). -/

set_option Elab.async false

set_option linter.unusedTactic false
set_option linter.unreachableTactic false

namespace Sys2Proof.Machine

open Sys2Proof

theorem State.setPort_keeps {k : State} {s : State} {x : Port} (h : Keeps k s) :
    Keeps k (State.setPort s x) := by
  unfold State.setPort
  repeat' first
    | with_reducible assumption
    | split
    | with_reducible apply Keeps.ite
    | (intro)
    | fail_if_no_progress with_reducible apply Keeps.update.mpr

theorem State.modPort_keeps {k : State} {s : State} {p : ℕ} {f : Port → Port} (h : Keeps k s) :
    Keeps k (State.modPort s p f) := by
  unfold State.modPort
  repeat' first
    | with_reducible assumption
    | with_reducible apply State.setPort_keeps
    | split
    | with_reducible apply Keeps.ite
    | (intro)

theorem State.setPortState_keeps {k : State} {s : State} {p : ℕ} {v : ℕ} (h : Keeps k s) :
    Keeps k (State.setPortState s p v) := by
  unfold State.setPortState
  repeat' first
    | with_reducible assumption
    | with_reducible apply State.setFld_keeps
    | split
    | with_reducible apply Keeps.ite
    | (intro)

theorem State.makeFrame_keeps {k : State} {s : State} {p : ℕ} {fseq : ℕ} {credit : ℕ} {stream : List Byte} (h :
    Keeps k s) :
    Keeps k (State.makeFrame s p fseq credit stream).1 := by
  unfold State.makeFrame
  repeat' first
    | extract_lets
    | with_reducible assumption
    | with_reducible apply State.setPort_keeps
    | split
    | with_reducible apply Keeps.ite
    | (intro)
    | fail_if_no_progress with_reducible apply Keeps.update.mpr
    | dsimp +zetaDelta only

theorem State.nextFrame_keeps {k : State} {s : State} {p : Nat} (h : Keeps k s) :
    Keeps k (State.nextFrame s p) := by
  unfold State.nextFrame
  repeat' first
    | extract_lets
    | with_reducible assumption
    | with_reducible apply State.emit_keeps
    | with_reducible apply State.makeFrame_keeps
    | with_reducible apply State.setPort_keeps
    | split
    | with_reducible apply Keeps.ite
    | with_reducible refine Keeps.of_fst (by assumption) ?_
    | with_reducible refine Keeps.of_snd (by assumption) ?_
    | (intro)
    | fail_if_no_progress with_reducible apply Keeps.update.mpr

theorem State.resendFrame_keeps {k : State} {s : State} {p : ℕ} {r : ℕ × ℕ × List Byte × ℕ} (h : Keeps k s) :
    Keeps k (State.resendFrame s p r) := by
  unfold State.resendFrame
  repeat' first
    | extract_lets
    | with_reducible assumption
    | with_reducible apply State.makeFrame_keeps
    | with_reducible apply State.emit_keeps
    | split
    | with_reducible apply Keeps.ite
    | with_reducible refine Keeps.of_fst (by assumption) ?_
    | (intro)

theorem State.pump_keeps {k : State} {s : State} {p least n : Nat} (h : Keeps k s) :
    Keeps k (State.pump s p least n) := by
  induction n generalizing s with
  | zero => exact h
  | succ n ih =>
    unfold State.pump
    exact .ite h (ih (State.nextFrame_keeps h))

theorem State.sendFrames_keeps {k : State} {s : State} {p : Nat} {flush : Bool} (h : Keeps k s) :
    Keeps k (State.sendFrames s p flush) := by
  unfold State.sendFrames
  repeat' first
    | with_reducible assumption
    | with_reducible apply State.pump_keeps
    | split
    | with_reducible apply Keeps.ite
    | (intro)
    | fail_if_no_progress with_reducible apply Keeps.update.mpr

theorem State.countOut_keeps {k : State} {s : State} {e : ℕ} {n : ℕ} (h : Keeps k s) :
    Keeps k (State.countOut s e n) := by
  unfold State.countOut
  repeat' first
    | with_reducible assumption
    | with_reducible apply State.addReg_keeps
    | split
    | with_reducible apply Keeps.ite
    | (intro)

theorem State.countIn_keeps {k : State} {s : State} {e : ℕ} {n : ℕ} (h : Keeps k s) :
    Keeps k (State.countIn s e n) := by
  unfold State.countIn
  repeat' first
    | with_reducible assumption
    | with_reducible apply State.addReg_keeps
    | split
    | with_reducible apply Keeps.ite
    | (intro)

theorem State.countCopies_keeps {k : State} {s : State} {e : ℕ} {r : ℕ} (h : Keeps k s) :
    Keeps k (State.countCopies s e r) := by
  unfold State.countCopies
  repeat' first
    | with_reducible assumption
    | with_reducible apply State.countIn_keeps
    | with_reducible apply State.countOut_keeps
    | split
    | with_reducible apply Keeps.ite
    | (intro)

theorem State.injectPkt_keeps {k : State} {s : State} {p : Pkt} (h : Keeps k s) :
    Keeps k (State.injectPkt s p) := by
  unfold State.injectPkt
  repeat' first
    | extract_lets
    | with_reducible assumption
    | with_reducible apply State.countOut_keeps
    | split
    | with_reducible apply Keeps.ite
    | (intro)
    | fail_if_no_progress with_reducible apply Keeps.update.mpr

theorem State.injectOn_keeps {k : State} {s : State} {out : ℕ} {p : Pkt} (h : Keeps k s) :
    Keeps k (State.injectOn s out p) := by
  unfold State.injectOn
  repeat' first
    | with_reducible assumption
    | split
    | with_reducible apply Keeps.ite
    | (intro)
    | fail_if_no_progress with_reducible apply Keeps.update.mpr

theorem State.takePkt_keeps {k : State} {s : State} {i : ℕ} {p : Pkt} (h : Keeps k s) :
    Keeps k (State.takePkt s i p) := by
  unfold State.takePkt
  repeat' first
    | with_reducible assumption
    | with_reducible apply State.modPort_keeps
    | split
    | with_reducible apply Keeps.ite
    | (intro)
    | fail_if_no_progress with_reducible apply Keeps.update.mpr

theorem State.creditFrame_keeps {k : State} {s : State} {i : ℕ} (h : Keeps k s) :
    Keeps k (State.creditFrame s i) := by
  unfold State.creditFrame
  repeat' first
    | with_reducible assumption
    | with_reducible apply State.nextFrame_keeps
    | split
    | with_reducible apply Keeps.ite
    | (intro)

theorem State.dropPkt_keeps {k : State} {s : State} {i : ℕ} {p : Pkt} {reason : ℕ} (h : Keeps k s) :
    Keeps k (State.dropPkt s i p reason) := by
  unfold State.dropPkt
  repeat' first
    | extract_lets
    | with_reducible assumption
    | with_reducible apply State.countIn_keeps
    | with_reducible apply State.addReg_keeps
    | with_reducible apply State.modPort_keeps
    | with_reducible apply State.injectPkt_keeps
    | split
    | with_reducible apply Keeps.ite
    | (intro)
    | fail_if_no_progress with_reducible apply Keeps.update.mpr

theorem State.sendOut_keeps {k : State} {s : State} {out : ℕ} {p : Pkt} (h : Keeps k s) :
    KeepsO k (State.sendOut s out p) := by
  unfold State.sendOut
  repeat' first
    | extract_lets
    | with_reducible exact KeepsO.none
    | with_reducible apply KeepsO.some
    | with_reducible assumption
    | with_reducible apply State.sendFrames_keeps
    | with_reducible apply KeepsO1.some
    | with_reducible apply KeepsO1.none
    | with_reducible apply KeepsO2.some
    | with_reducible apply KeepsO2.none
    | with_reducible apply State.setPort_keeps
    | split
    | with_reducible apply KeepsO.ite
    | with_reducible apply Keeps.ite
    | (intro)
    | fail_if_no_progress with_reducible apply Keeps.update.mpr
    | dsimp +zetaDelta only

theorem State.press_keeps {k : State} {s : State} {i : ℕ} {p : Pkt} (h : Keeps k s) :
    Keeps k (State.press s i p).1 := by
  unfold State.press
  repeat' first
    | with_reducible assumption
    | with_reducible apply State.creditFrame_keeps
    | with_reducible apply State.countIn_keeps
    | with_reducible apply State.takePkt_keeps
    | with_reducible apply Keeps.foldl
    | with_reducible apply Keeps.foldl1
    | with_reducible apply Keeps.foldl2
    | split
    | with_reducible apply Keeps.ite
    | (intro)
    | fail_if_no_progress with_reducible apply Keeps.update.mpr

theorem State.deliver_keeps {k : State} {s : State} {p : Pkt} (h : Keeps k s) :
    Keeps k (State.deliver s p) := by
  unfold State.deliver
  repeat' first
    | with_reducible assumption
    | split
    | with_reducible apply Keeps.ite
    | (intro)
    | fail_if_no_progress with_reducible apply Keeps.update.mpr

theorem State.sendInTurn_keeps {k : State} {s : State} {s0 : State} {out : Nat} {p : Pkt} (h : Keeps k s) :
    KeepsO k (State.sendInTurn s s0 out p) := by
  unfold State.sendInTurn
  exact .ite (.map (State.sendOut_keeps h) fun t ht => .ite ht (State.sendFrames_keeps ht)) .none

theorem State.setFan_keeps {k : State} {s : State} {f : Fan} (h : Keeps k s) :
    Keeps k (State.setFan s f) := by
  unfold State.setFan
  repeat' first
    | with_reducible assumption
    | extract_lets
    | split
    | with_reducible apply Keeps.ite
    | (intro)
    | fail_if_no_progress with_reducible apply Keeps.update.mpr

theorem State.fanLeft_keeps {k : State} {s : State} {p : Pkt} (h : Keeps k s) :
    Keeps k (State.fanLeft s p) := by
  unfold State.fanLeft
  repeat' first
    | with_reducible assumption
    | with_reducible apply State.setFan_keeps
    | split
    | with_reducible apply Keeps.ite
    | (intro)
    | fail_if_no_progress with_reducible apply Keeps.update.mpr

theorem State.forward_keeps {k : State} {s : State} {i : ℕ} {vc : ℕ} (h : Keeps k s) :
    KeepsO k (State.forward s i vc) := by
  unfold State.forward
  split
  · exact .none
  · rename_i p _
    have h1 : Keeps k ((s.takePkt i p).creditFrame i) := State.creditFrame_keeps (State.takePkt_keeps h)
    have hp : Keeps k (((s.takePkt i p).creditFrame i).press i p).1 := State.press_keeps h1
    refine .ite .none (.ite (.ite (.some (State.fanLeft_keeps (State.dropPkt_keeps h1)))
      (.ite (.some (State.fanLeft_keeps (State.dropPkt_keeps h1)))
        (.map (State.sendInTurn_keeps h1) fun t ht => State.fanLeft_keeps ht))) ?_)
    refine .ite (.some (State.dropPkt_keeps h1)) (.ite (.ite (.some (State.deliver_keeps h1)) .none) ?_)
    refine .ite (.some (State.deliver_keeps (State.countIn_keeps hp))) (.ite (.some (State.dropPkt_keeps h1))
      (.ite (.some (State.dropPkt_keeps h1)) ?_))
    generalize ((s.takePkt i p).creditFrame i).press i p = r at hp
    obtain ⟨s2, q⟩ := r
    dsimp only
    split
    · rename_i t e
      have ht : Keeps k t := KeepsO.orElse (g := fun _ => ((s.takePkt i p).creditFrame i).sendInTurn s _ p)
        (State.sendInTurn_keeps hp) (State.sendInTurn_keeps h1) t e
      exact .some (.ite (State.modPort_keeps ht) ht)
    · exact .ite (.some (State.dropPkt_keeps h1)) .none

theorem State.takeRx_keeps {k : State} {s : State} {kind : ℕ} (h : Keeps k s) :
    KeepsO2 k (State.takeRx s kind) := by
  unfold State.takeRx
  repeat' first
    | with_reducible exact KeepsO2.none
    | with_reducible apply KeepsO2.some
    | with_reducible assumption
    | split
    | with_reducible apply Keeps.ite
    | (intro)
    | fail_if_no_progress with_reducible apply Keeps.update.mpr

theorem State.takeOrdered_keeps {k : State} {s : State} {kind : ℕ} (h : Keeps k s) :
    KeepsO2 k (State.takeOrdered s kind) := by
  unfold State.takeOrdered
  repeat' first
    | with_reducible exact KeepsO2.none
    | with_reducible apply KeepsO2.some
    | with_reducible assumption
    | split
    | with_reducible apply Keeps.ite
    | (intro)
    | fail_if_no_progress with_reducible apply Keeps.update.mpr

theorem State.routeReject_keeps {k : State} {s : State} (h : Keeps k s) :
    Keeps k (State.routeReject s) := by
  unfold State.routeReject
  repeat' first
    | with_reducible assumption
    | with_reducible apply State.setBit_keeps
    | split
    | with_reducible apply Keeps.ite
    | (intro)

theorem State.writeRoute_keeps {k : State} {s : State} {b : ℕ} {d : ℕ} {v : ℕ} (h : Keeps k s) :
    Keeps k (State.writeRoute s b d v) := by
  unfold State.writeRoute
  repeat' first
    | with_reducible assumption
    | with_reducible apply State.routeReject_keeps
    | with_reducible apply State.setReg_keeps
    | split
    | with_reducible apply Keeps.ite
    | (intro)

theorem State.writeEpoch_keeps {k : State} {s : State} {v : ℕ} (h : Keeps k s) :
    Keeps k (State.writeEpoch s v) := by
  unfold State.writeEpoch
  exact .ite (State.routeReject_keeps (State.whWrite_keeps h fun _ hz => hz))
    (.ite (State.setBit_keeps (State.setReg_keeps (State.setReg_keeps (State.setReg_keeps h)))) (State.routeReject_keeps h))

theorem State.writeRetire_keeps {k : State} {s : State} {v : ℕ} (h : Keeps k s) :
    Keeps k (State.writeRetire s v) := by
  unfold State.writeRetire
  repeat' first
    | with_reducible assumption
    | with_reducible apply State.setBit_keeps
    | split
    | with_reducible apply Keeps.ite
    | (intro)

theorem State.surveyPort_keeps {k : State} {s : State} {p : ℕ} (h : Keeps k s) :
    Keeps k (State.surveyPort s p) := by
  unfold State.surveyPort
  repeat' first
    | extract_lets
    | with_reducible assumption
    | with_reducible apply State.setBit_keeps
    | with_reducible apply State.setReg_keeps
    | with_reducible apply State.putArea_keeps
    | with_reducible apply State.injectPkt_keeps
    | with_reducible apply State.modPort_keeps
    | split
    | with_reducible apply Keeps.ite
    | (intro)
    | fail_if_no_progress with_reducible apply Keeps.update.mpr

end Sys2Proof.Machine
end

