-- ==== Sys2Proof/Laws/KeptRemote.lean ====
section
/-! SUPPORT. What the operations of Machine/Remote.lean keep (Laws/Kept.lean). -/

set_option Elab.async false

set_option linter.unusedTactic false
set_option linter.unreachableTactic false

namespace Sys2Proof.Machine

open Sys2Proof

theorem State.writeRmeCtrl_keeps {k : State} {s : State} {v : ℕ} (h : Keeps k s) :
    Keeps k (State.writeRmeCtrl s v) := by
  unfold State.writeRmeCtrl
  repeat' first
    | extract_lets
    | with_reducible assumption
    | with_reducible apply State.whWrite_keeps
    | with_reducible apply State.setBit_keeps
    | with_reducible apply State.setReg_keeps
    | split
    | with_reducible apply Keeps.ite
    | (intro)

theorem State.setXfer_keeps {k : State} {s : State} {x : Xfer} (h : Keeps k s) :
    Keeps k (State.setXfer s x) := by
  unfold State.setXfer
  repeat' first
    | with_reducible assumption
    | split
    | with_reducible apply Keeps.ite
    | (intro)
    | fail_if_no_progress with_reducible apply Keeps.update.mpr

theorem State.addXfer_keeps {k : State} {s : State} {x : Xfer} (h : Keeps k s) :
    Keeps k (State.addXfer s x) := by
  unfold State.addXfer
  repeat' first
    | extract_lets
    | with_reducible assumption
    | split
    | with_reducible apply Keeps.ite
    | (intro)
    | fail_if_no_progress with_reducible apply Keeps.update.mpr

theorem State.dropXfers_keeps {k : State} {s : State} {seq : ℕ} (h : Keeps k s) :
    Keeps k (State.dropXfers s seq) := by
  unfold State.dropXfers
  repeat' first
    | extract_lets
    | with_reducible assumption
    | with_reducible apply Keeps.foldl
    | split
    | with_reducible apply Keeps.ite
    | (intro)
    | fail_if_no_progress with_reducible apply Keeps.update.mpr

theorem State.stopXfers_keeps {k : State} {s : State} {seq : Nat} (h : Keeps k s) :
    Keeps k (State.stopXfers s seq) := by
  unfold State.stopXfers
  repeat' first
    | extract_lets
    | with_reducible assumption
    | split
    | with_reducible apply Keeps.ite
    | (intro)
    | fail_if_no_progress with_reducible apply Keeps.update.mpr

theorem State.rmeFault_keeps {k : State} {s : State} {kind : ℕ} {status : ℕ} {queue : ℕ} {dev : ℕ} {addr : ℕ} (h :
    Keeps k s) :
    Keeps k (State.rmeFault s kind status queue dev addr) := by
  unfold State.rmeFault
  repeat' first
    | with_reducible assumption
    | with_reducible apply State.setReg_keeps
    | split
    | with_reducible apply Keeps.ite
    | (intro)

theorem State.dropReq_keeps {k : State} {s : State} {x : Xfer} {off : Nat} (h : Keeps k s) :
    Keeps k (State.dropReq s x off) := by
  unfold State.dropReq
  repeat' first
    | with_reducible assumption
    | split
    | with_reducible apply Keeps.ite
    | (intro)
    | fail_if_no_progress with_reducible apply Keeps.update.mpr

theorem State.failXfer_keeps {k : State} {s : State} {x : Xfer} {off : Nat} {err : Nat} {kind : Nat} {status : Nat} {dev : Nat} {addr : Nat} (h : Keeps k s) :
    Keeps k (State.failXfer s x off err kind status dev addr) := by
  unfold State.failXfer
  repeat' first
    | extract_lets
    | with_reducible assumption
    | with_reducible apply State.dropReq_keeps
    | with_reducible apply State.stopXfers_keeps
    | with_reducible apply State.endTask_keeps
    | with_reducible apply State.dropXfers_keeps
    | with_reducible apply State.rmeFault_keeps
    | with_reducible apply State.addReg_keeps
    | split
    | with_reducible apply Keeps.ite
    | (intro)
    | fail_if_no_progress with_reducible apply Keeps.update.mpr

theorem State.resendReq_keeps {k : State} {s : State} {x : Xfer} {r : Req} (h : Keeps k s) :
    Keeps k (State.resendReq s x r) := by
  unfold State.resendReq
  repeat' first
    | extract_lets
    | with_reducible assumption
    | with_reducible apply State.addReg_keeps
    | with_reducible apply State.injectPkt_keeps
    | with_reducible apply State.setXfer_keeps
    | split
    | with_reducible apply Keeps.ite
    | (intro)
    | fail_if_no_progress with_reducible apply Keeps.update.mpr

theorem State.settlePosted_keeps {k : State} {s : State} {x : Xfer} (h : Keeps k s) :
    Keeps k (State.settlePosted s x) := by
  unfold State.settlePosted
  repeat' first
    | with_reducible assumption
    | with_reducible apply State.endTask_keeps
    | split
    | with_reducible apply Keeps.ite
    | (intro)
    | fail_if_no_progress with_reducible apply Keeps.update.mpr

theorem State.injectFan_keeps {k : State} {s : State} {x : Xfer} (h : Keeps k s) :
    Keeps k (State.injectFan s x) := by
  unfold State.injectFan
  repeat' first
    | extract_lets
    | with_reducible assumption
    | with_reducible apply State.addReg_keeps
    | with_reducible apply State.injectPkt_keeps
    | with_reducible apply State.setXfer_keeps
    | split
    | with_reducible apply Keeps.ite
    | (intro)
    | fail_if_no_progress with_reducible apply Keeps.update.mpr

theorem State.injectXfer_keeps {k : State} {s : State} {x : Xfer} (h : Keeps k s) :
    Keeps k (State.injectXfer s x) := by
  unfold State.injectXfer
  repeat' first
    | extract_lets
    | with_reducible assumption
    | with_reducible apply State.injectFan_keeps
    | with_reducible apply State.setXfer_keeps
    | with_reducible apply State.addReg_keeps
    | with_reducible apply State.injectPkt_keeps
    | with_reducible apply State.settlePosted_keeps
    | with_reducible apply Keeps.foldl
    | with_reducible apply Keeps.foldl1
    | with_reducible apply Keeps.foldl2
    | split
    | with_reducible apply Keeps.ite
    | (intro)
    | fail_if_no_progress with_reducible apply Keeps.update.mpr

theorem State.startXfers_keeps {k : State} {s : State} {t : Task} (h : Keeps k s) :
    Keeps k (State.startXfers s t) := by
  unfold State.startXfers
  repeat' first
    | extract_lets
    | with_reducible assumption
    | with_reducible apply State.fresh_keeps
    | with_reducible apply State.addXfer_keeps
    | with_reducible apply Keeps.foldl
    | with_reducible apply Keeps.foldl1
    | with_reducible apply Keeps.foldl2
    | split
    | with_reducible apply Keeps.ite
    | (intro)
    | fail_if_no_progress with_reducible apply Keeps.update.mpr

theorem State.startRemote_keeps {k : State} {s : State} {t : Task} (h : Keeps k s) :
    Keeps k (State.startRemote s t) := by
  unfold State.startRemote
  repeat' first
    | extract_lets
    | with_reducible assumption
    | with_reducible apply State.endTask_keeps
    | with_reducible apply State.rmeFault_keeps
    | with_reducible apply State.startXfers_keeps
    | split
    | with_reducible apply Keeps.ite
    | (intro)
    | fail_if_no_progress with_reducible apply Keeps.update.mpr
    | dsimp +zetaDelta only

theorem State.launchRemote_keeps {k : State} {s : State} {seq : ℕ} {op : ℕ} (h : Keeps k s) :
    KeepsO k (State.launchRemote s seq op) := by
  unfold State.launchRemote
  repeat' first
    | with_reducible exact KeepsO.none
    | with_reducible apply KeepsO.some
    | with_reducible assumption
    | with_reducible apply State.launch_keeps
    | with_reducible apply State.startRemote_keeps
    | split
    | with_reducible apply KeepsO.ite
    | with_reducible apply Keeps.ite
    | with_reducible refine Keeps.of_some (by assumption) ?_
    | (intro)
    | fail_if_no_progress with_reducible apply Keeps.update.mpr

theorem State.endMstore_keeps {k : State} {s : State} {t : Task} (h : Keeps k s) :
    Keeps k (State.endMstore s t) := by
  unfold State.endMstore
  repeat' first
    | extract_lets
    | with_reducible assumption
    | with_reducible apply State.putBytes_keeps
    | with_reducible apply State.endTask_keeps
    | with_reducible apply State.dropXfers_keeps
    | with_reducible apply State.scrambleOverlaps_keeps
    | with_reducible apply State.rmeFault_keeps
    | split
    | with_reducible apply Keeps.ite
    | (intro)
    | fail_if_no_progress with_reducible apply Keeps.update.mpr
    | dsimp +zetaDelta only

theorem State.settleRemote_keeps {k : State} {s : State} {seq : ℕ} (h : Keeps k s) :
    Keeps k (State.settleRemote s seq) := by
  unfold State.settleRemote
  repeat' first
    | extract_lets
    | with_reducible assumption
    | with_reducible apply State.endMstore_keeps
    | with_reducible apply State.putBytes_keeps
    | with_reducible apply State.endTask_keeps
    | with_reducible apply State.dropXfers_keeps
    | split
    | with_reducible apply Keeps.ite
    | (intro)
    | fail_if_no_progress with_reducible apply Keeps.update.mpr
    | dsimp +zetaDelta only

theorem State.modReq_keeps {k : State} {s : State} {x : Xfer} {off : Nat} {f : Req → Req} (h : Keeps k s) :
    Keeps k (State.modReq s x off f) := by
  unfold State.modReq
  repeat' first
    | with_reducible assumption
    | with_reducible apply State.setXfer_keeps
    | split
    | with_reducible apply Keeps.ite
    | (intro)
    | fail_if_no_progress with_reducible apply Keeps.update.mpr

theorem State.parkReply_keeps {k : State} {s : State} {x : Xfer} {n : Nat} {off : Nat} {status : Nat} {data : List Byte} (h : Keeps k s) :
    Keeps k (State.parkReply s x n off status data) := by
  unfold State.parkReply
  repeat' first
    | extract_lets
    | with_reducible assumption
    | with_reducible apply State.modReq_keeps
    | with_reducible apply State.putBytes_keeps
    | with_reducible apply State.scrambleBytes_keeps
    | split
    | with_reducible apply Keeps.ite
    | (intro)
    | fail_if_no_progress with_reducible apply Keeps.update.mpr
    | dsimp +zetaDelta only

theorem State.endReq_keeps {k : State} {s : State} {x : Xfer} {off : ℕ} {data : List Byte} (h : Keeps k s) :
    Keeps k (State.endReq s x off data) := by
  unfold State.endReq
  repeat' first
    | extract_lets
    | with_reducible assumption
    | with_reducible apply State.settleRemote_keeps
    | with_reducible apply State.parkReply_keeps
    | with_reducible apply State.setXfer_keeps
    | split
    | with_reducible apply Keeps.ite
    | (intro)
    | fail_if_no_progress with_reducible apply Keeps.update.mpr

theorem State.actReply_keeps {k : State} {s : State} {x : Xfer} {off : Nat} {status : Nat} {data : List Byte} (h : Keeps k s) :
    Keeps k (State.actReply s x off status data) := by
  unfold State.actReply
  repeat' first
    | with_reducible assumption
    | with_reducible apply State.endReq_keeps
    | with_reducible apply State.failXfer_keeps
    | split
    | with_reducible apply Keeps.ite
    | (intro)
    | fail_if_no_progress with_reducible apply Keeps.update.mpr

theorem State.takeReply_keeps {k : State} {s : State} {x : Xfer} {off : Nat} {status : Nat} {data : List Byte} (h : Keeps k s) :
    Keeps k (State.takeReply s x off status data) := by
  unfold State.takeReply
  repeat' first
    | with_reducible assumption
    | with_reducible apply State.actReply_keeps
    | with_reducible apply State.modReq_keeps
    | with_reducible apply State.parkReply_keeps
    | split
    | with_reducible apply Keeps.ite
    | (intro)
    | fail_if_no_progress with_reducible apply Keeps.update.mpr

theorem State.takeUp_keeps {k : State} {s : State} {n : Nat} (h : Keeps k s) : Keeps k (State.takeUp s n) := by
  induction n generalizing s with
  | zero => exact h
  | succ n ih =>
    unfold State.takeUp
    split
    · exact h
    · exact ih (.ite (State.failXfer_keeps h) (State.actReply_keeps h))

theorem State.takeUpReplies_keeps {k : State} {s : State} (h : Keeps k s) :
    Keeps k (State.takeUpReplies s) := by
  unfold State.takeUpReplies
  repeat' first
    | with_reducible assumption
    | with_reducible apply Keeps.foldl
    | with_reducible apply Keeps.foldl1
    | with_reducible apply Keeps.foldl2
    | with_reducible apply State.takeUp_keeps
    | split
    | with_reducible apply Keeps.ite
    | (intro)
    | fail_if_no_progress with_reducible apply Keeps.update.mpr

theorem State.protocolFault_keeps {k : State} {s : State} {p : Pkt} (h : Keeps k s) :
    Keeps k (State.protocolFault s p) := by
  unfold State.protocolFault
  repeat' first
    | with_reducible assumption
    | with_reducible apply State.record_keeps
    | split
    | with_reducible apply Keeps.ite
    | (intro)

theorem State.takeLoadData_keeps {k : State} {s : State} {p : Pkt} (h : Keeps k s) :
    Keeps k (State.takeLoadData s p) := by
  unfold State.takeLoadData
  repeat' first
    | with_reducible assumption
    | with_reducible apply State.takeReply_keeps
    | with_reducible apply State.protocolFault_keeps
    | with_reducible apply State.endReq_keeps
    | split
    | with_reducible apply Keeps.ite
    | (intro)
    | fail_if_no_progress with_reducible apply Keeps.update.mpr

theorem State.takeAtomicReply_keeps {k : State} {s : State} {p : Pkt} (h : Keeps k s) :
    Keeps k (State.takeAtomicReply s p) := by
  unfold State.takeAtomicReply
  repeat' first
    | with_reducible assumption
    | with_reducible apply State.takeReply_keeps
    | with_reducible apply State.endReq_keeps
    | split
    | with_reducible apply Keeps.ite
    | (intro)
    | fail_if_no_progress with_reducible apply Keeps.update.mpr

theorem State.statusFault_keeps {k : State} {s : State} {st : ℕ} {a : ℕ} (h : Keeps k s) :
    Keeps k (State.statusFault s st a) := by
  unfold State.statusFault
  repeat' first
    | with_reducible assumption
    | with_reducible apply State.accessFault_keeps
    | split
    | with_reducible apply Keeps.ite
    | (intro)

theorem State.answer_keeps {k : State} {s : State} {p : Pkt} {kind : ℕ} {status : ℕ} {dst : ℕ} {txn : ℕ} {payload :
    List Byte} (h : Keeps k s) :
    Keeps k (State.answer s p kind status dst txn payload) := by
  unfold State.answer
  repeat' first
    | with_reducible assumption
    | with_reducible apply State.injectPkt_keeps
    | split
    | with_reducible apply Keeps.ite
    | (intro)
    | fail_if_no_progress with_reducible apply Keeps.update.mpr

theorem State.serveLoad_keeps {k : State} {s : State} {p : Pkt} (h : Keeps k s) :
    Keeps k (State.serveLoad s p) := by
  unfold State.serveLoad
  repeat' first
    | extract_lets
    | with_reducible assumption
    | with_reducible apply State.protocolFault_keeps
    | with_reducible apply State.answer_keeps
    | split
    | with_reducible apply Keeps.ite
    | (intro)

theorem State.evictReplay_keeps {k : State} {s : State} (h : Keeps k s) :
    Keeps k (State.evictReplay s) := by
  unfold State.evictReplay
  repeat' first
    | extract_lets
    | with_reducible assumption
    | split
    | with_reducible apply Keeps.ite
    | (intro)
    | fail_if_no_progress with_reducible apply Keeps.update.mpr
    | dsimp +zetaDelta only

theorem State.replayRoom_keeps {k : State} {s : State} {n f : Nat} (h : Keeps k s) : KeepsO k (State.replayRoom s n f) := by
  induction f generalizing s with
  | zero => exact .ite (.some h) .none
  | succ f ih =>
    unfold State.replayRoom
    refine .ite (.some h) ?_
    split
    · exact .ite (ih (State.evictReplay_keeps h)) .none
    · exact .none

theorem State.recordReplay_keeps {k : State} {s : State} {src : ℕ} {txn : ℕ} {off : ℕ} {status : ℕ} {old : ℕ} (h :
    Keeps k s) :
    Keeps k (State.recordReplay s src txn off status old) := by
  unfold State.recordReplay
  repeat' first
    | with_reducible assumption
    | split
    | with_reducible apply Keeps.ite
    | (intro)
    | fail_if_no_progress with_reducible apply Keeps.update.mpr

theorem State.serveAtomic_keeps {k : State} {s : State} {p : Pkt} (h : Keeps k s) :
    Keeps k (State.serveAtomic s p) := by
  unfold State.serveAtomic
  repeat' first
    | extract_lets
    | with_reducible assumption
    | with_reducible apply State.protocolFault_keeps
    | with_reducible apply State.answer_keeps
    | with_reducible apply State.addReg_keeps
    | with_reducible apply State.statusFault_keeps
    | with_reducible apply State.replayRoom_keeps
    | with_reducible apply State.putBytes_keeps
    | with_reducible apply State.recordReplay_keeps
    | split
    | with_reducible apply Keeps.ite
    | with_reducible refine Keeps.of_some (by assumption) ?_
    | (intro)
    | fail_if_no_progress with_reducible apply Keeps.update.mpr
    | dsimp +zetaDelta only

theorem State.ackAll_keeps {k : State} {s : State} {p : Pkt} {status : ℕ} (h : Keeps k s) :
    Keeps k (State.ackAll s p status) := by
  unfold State.ackAll
  repeat' first
    | with_reducible assumption
    | with_reducible apply State.answer_keeps
    | with_reducible apply Keeps.foldl
    | with_reducible apply Keeps.foldl1
    | with_reducible apply Keeps.foldl2
    | split
    | with_reducible apply Keeps.ite
    | (intro)

theorem State.serveReduce_keeps {k : State} {s : State} {p : Pkt} (h : Keeps k s) :
    Keeps k (State.serveReduce s p) := by
  unfold State.serveReduce
  repeat' first
    | extract_lets
    | with_reducible assumption
    | with_reducible apply State.addReg_keeps
    | with_reducible apply State.protocolFault_keeps
    | with_reducible apply State.ackAll_keeps
    | with_reducible apply State.statusFault_keeps
    | with_reducible apply State.replayRoom_keeps
    | with_reducible apply State.putBytes_keeps
    | with_reducible apply State.recordReplay_keeps
    | with_reducible apply Keeps.foldl
    | with_reducible apply Keeps.foldl1
    | with_reducible apply Keeps.foldl2
    | split
    | with_reducible apply Keeps.ite
    | with_reducible refine Keeps.of_some (by assumption) ?_
    | (intro)
    | fail_if_no_progress with_reducible apply Keeps.update.mpr
    | dsimp +zetaDelta only

theorem State.serveStore_keeps {k : State} {s : State} {p : Pkt} (h : Keeps k s) :
    Keeps k (State.serveStore s p) := by
  unfold State.serveStore
  repeat' first
    | extract_lets
    | with_reducible assumption
    | with_reducible apply State.protocolFault_keeps
    | with_reducible apply State.answer_keeps
    | with_reducible apply State.statusFault_keeps
    | with_reducible apply State.putBytes_keeps
    | split
    | with_reducible apply Keeps.ite
    | (intro)

theorem State.serveFanset_keeps {k : State} {s : State} {p : Pkt} (h : Keeps k s) :
    Keeps k (State.serveFanset s p) := by
  unfold State.serveFanset
  repeat' first
    | extract_lets
    | with_reducible assumption
    | with_reducible apply State.countIn_keeps
    | with_reducible apply State.addReg_keeps
    | with_reducible apply State.injectOn_keeps
    | with_reducible apply State.setFan_keeps
    | with_reducible apply State.dropPkt_keeps
    | with_reducible apply State.countCopies_keeps
    | with_reducible apply Keeps.foldl
    | with_reducible apply Keeps.foldl1
    | with_reducible apply Keeps.foldl2
    | split
    | with_reducible apply Keeps.ite
    | (intro)
    | fail_if_no_progress with_reducible apply Keeps.update.mpr
    | dsimp +zetaDelta only

end Sys2Proof.Machine
end

