-- ==== Sys2Proof/Laws/KeptCollective.lean ====
section
/-! SUPPORT. What the operations of Machine/Collective.lean keep (Laws/Kept.lean). -/

set_option Elab.async false

set_option linter.unusedTactic false
set_option linter.unreachableTactic false

namespace Sys2Proof.Machine

open Sys2Proof

theorem State.putSegs_keeps {k : State} {s : State} {segs : List Seg} {off : ℕ} {bs : List Byte} (h : Keeps k s) :
    Keeps k (State.putSegs s segs off bs) := by
  unfold State.putSegs
  repeat' first
    | extract_lets
    | with_reducible assumption
    | with_reducible apply State.putBytes_keeps
    | with_reducible apply Keeps.foldl
    | with_reducible apply Keeps.foldl1
    | with_reducible apply Keeps.foldl2
    | split
    | with_reducible apply Keeps.ite
    | (intro)

theorem State.setColl_keeps {k : State} {s : State} {c : Coll} (h : Keeps k s) :
    Keeps k (State.setColl s c) := by
  unfold State.setColl
  repeat' first
    | extract_lets
    | with_reducible assumption
    | split
    | with_reducible apply Keeps.ite
    | (intro)
    | fail_if_no_progress with_reducible apply Keeps.update.mpr

theorem State.dropColl_keeps {k : State} {s : State} {c : Coll} (h : Keeps k s) :
    Keeps k (State.dropColl s c) := by
  unfold State.dropColl
  repeat' first
    | with_reducible assumption
    | split
    | with_reducible apply Keeps.ite
    | (intro)
    | fail_if_no_progress with_reducible apply Keeps.update.mpr

theorem State.injectLocal_keeps {k : State} {s : State} {p : Pkt} (h : Keeps k s) :
    Keeps k (State.injectLocal s p) := by
  unfold State.injectLocal
  repeat' first
    | with_reducible assumption
    | with_reducible apply State.countOut_keeps
    | split
    | with_reducible apply Keeps.ite
    | (intro)
    | fail_if_no_progress with_reducible apply Keeps.update.mpr

theorem State.collStep_keeps {k : State} {s : State} {c : Coll} {first : ℕ} {err : ℕ} (h : Keeps k s) :
    Keeps k (State.collStep s c first err) := by
  unfold State.collStep
  repeat' first
    | extract_lets
    | with_reducible assumption
    | with_reducible apply State.addReg_keeps
    | with_reducible apply State.stepRecord_keeps
    | split
    | with_reducible apply Keeps.ite
    | (intro)

theorem State.abortInfo_keeps {k : State} {s : State} {group : ℕ} {cseq : ℕ} {err : ℕ} {culprit : ℕ} {named : Bool}
    (h : Keeps k s) :
    Keeps k (State.abortInfo s group cseq err culprit named) := by
  unfold State.abortInfo
  repeat' first
    | with_reducible assumption
    | with_reducible apply State.setReg_keeps
    | split
    | with_reducible apply Keeps.ite
    | (intro)

theorem State.memberRecord_keeps {k : State} {s : State} {dev : ℕ} (h : Keeps k s) :
    Keeps k (State.memberRecord s dev) := by
  unfold State.memberRecord
  repeat' first
    | with_reducible assumption
    | with_reducible apply State.record_keeps
    | split
    | with_reducible apply Keeps.ite
    | (intro)

theorem State.freeInputs_keeps {k : State} {s : State} {c : Coll} (h : Keeps k s) :
    Keeps k (State.freeInputs s c) := by
  unfold State.freeInputs
  repeat' first
    | with_reducible assumption
    | with_reducible apply State.countIn_keeps
    | with_reducible apply Keeps.foldl
    | split
    | with_reducible apply Keeps.ite
    | (intro)

theorem State.abortTask_keeps {k : State} {s : State} {c : Coll} {err : ℕ} (h : Keeps k s) :
    Keeps k (State.abortTask s c err) := by
  unfold State.abortTask
  repeat' first
    | extract_lets
    | with_reducible assumption
    | with_reducible apply State.collStep_keeps
    | with_reducible apply State.addReg_keeps
    | with_reducible apply State.endTask_keeps
    | split
    | with_reducible apply Keeps.ite
    | (intro)
    | fail_if_no_progress with_reducible apply Keeps.update.mpr
    | dsimp +zetaDelta only

theorem State.passCseq_keeps {k : State} {s : State} {c : Coll} (h : Keeps k s) :
    Keeps k (State.passCseq s c) := by
  unfold State.passCseq
  repeat' first
    | with_reducible assumption
    | with_reducible apply State.setReg_keeps
    | split
    | with_reducible apply Keeps.ite
    | (intro)
    | fail_if_no_progress with_reducible apply Keeps.update.mpr

theorem State.abortColl_keeps {k : State} {s : State} {c : Coll} {err : ℕ} {culprit : ℕ} {named : Bool} {from_ : ℕ}
    (h : Keeps k s) :
    Keeps k (State.abortColl s c err culprit named from_) := by
  unfold State.abortColl
  repeat' first
    | extract_lets
    | with_reducible assumption
    | with_reducible apply Keeps.foldl1
    | with_reducible apply Keeps.foldl2
    | with_reducible apply State.passCseq_keeps
    | with_reducible apply State.countOut_keeps
    | with_reducible apply State.injectOn_keeps
    | with_reducible apply State.abortInfo_keeps
    | with_reducible apply State.freeInputs_keeps
    | with_reducible apply State.abortTask_keeps
    | with_reducible apply State.setColl_keeps
    | with_reducible apply Keeps.foldl
    | split
    | with_reducible apply Keeps.ite
    | (intro)
    | fail_if_no_progress with_reducible apply Keeps.update.mpr

theorem State.endColl_keeps {k : State} {s : State} {c : Coll} (h : Keeps k s) :
    Keeps k (State.endColl s c) := by
  unfold State.endColl
  repeat' first
    | extract_lets
    | with_reducible assumption
    | with_reducible apply State.collStep_keeps
    | with_reducible apply State.setColl_keeps
    | with_reducible apply State.endTask_keeps
    | with_reducible apply State.scrambleOverlaps_keeps
    | with_reducible apply State.settleCore_keeps
    | split
    | with_reducible apply Keeps.ite
    | (intro)
    | fail_if_no_progress with_reducible apply Keeps.update.mpr
    | dsimp +zetaDelta only

theorem State.takeResult_keeps {k : State} {s : State} {c : Coll} {p : Pkt} (h : Keeps k s) :
    Keeps k (State.takeResult s c p) := by
  unfold State.takeResult
  repeat' first
    | extract_lets
    | with_reducible assumption
    | with_reducible apply Keeps.foldl1
    | with_reducible apply Keeps.foldl2
    | with_reducible apply State.putSegs_keeps
    | with_reducible apply State.setColl_keeps
    | with_reducible apply State.endColl_keeps
    | with_reducible apply Keeps.foldl
    | split
    | with_reducible apply Keeps.ite
    | (intro)
    | fail_if_no_progress with_reducible apply Keeps.update.mpr
    | dsimp +zetaDelta only

theorem State.spreadResult_keeps {k : State} {s : State} {c0 : Coll} {p : Pkt} (h : Keeps k s) :
    Keeps k (State.spreadResult s c0 p) := by
  unfold State.spreadResult
  repeat' first
    | extract_lets
    | with_reducible assumption
    | with_reducible apply Keeps.foldl1
    | with_reducible apply Keeps.foldl2
    | with_reducible apply State.setColl_keeps
    | with_reducible apply State.countCopies_keeps
    | with_reducible apply State.injectOn_keeps
    | with_reducible apply State.takeResult_keeps
    | with_reducible apply State.countIn_keeps
    | with_reducible apply Keeps.foldl
    | split
    | with_reducible apply Keeps.ite
    | (intro)
    | fail_if_no_progress with_reducible apply Keeps.update.mpr

theorem State.sendMerged_keeps {k : State} {s : State} {c : Coll} {ins : List ℕ} {off : ℕ} {m : Pkt} (h : Keeps k s)
    :
    Keeps k (State.sendMerged s c ins off m) := by
  unfold State.sendMerged
  repeat' first
    | extract_lets
    | with_reducible assumption
    | with_reducible apply State.countIn_keeps
    | with_reducible apply State.setColl_keeps
    | with_reducible apply State.injectOn_keeps
    | with_reducible apply State.spreadResult_keeps
    | split
    | with_reducible apply Keeps.ite
    | (intro)
    | fail_if_no_progress with_reducible apply Keeps.update.mpr
    | dsimp +zetaDelta only

theorem State.mergeAll_keeps {k : State} {s : State} {g : ℕ} {cseq : ℕ} {ins : List ℕ} {a4 : ℕ} (h : Keeps k s) :
    Keeps k (State.mergeAll s g cseq ins a4) := by
  induction a4 generalizing s with
  | zero => exact h
  | succ n ih =>
    unfold State.mergeAll
    repeat' first
      | with_reducible assumption
      | with_reducible apply ih
      | with_reducible apply State.sendMerged_keeps
      | split
      | with_reducible apply Keeps.ite
      | (intro)
      | fail_if_no_progress with_reducible apply Keeps.update.mpr

theorem State.tryMerge_keeps {k : State} {s : State} {c : Coll} (h : Keeps k s) :
    Keeps k (State.tryMerge s c) := by
  unfold State.tryMerge
  repeat' first
    | extract_lets
    | with_reducible assumption
    | with_reducible apply State.addReg_keeps
    | with_reducible apply State.abortColl_keeps
    | with_reducible apply State.mergeAll_keeps
    | split
    | with_reducible apply Keeps.ite
    | (intro)
    | fail_if_no_progress with_reducible apply Keeps.update.mpr
    | dsimp +zetaDelta only

theorem State.discardPkt_keeps {k : State} {s : State} {p : Pkt} (h : Keeps k s) :
    Keeps k (State.discardPkt s p) := by
  unfold State.discardPkt
  repeat' first
    | with_reducible assumption
    | with_reducible apply State.countIn_keeps
    | with_reducible apply State.addReg_keeps
    | split
    | with_reducible apply Keeps.ite
    | (intro)

theorem State.openFor_keeps {k : State} {s : State} {p : Pkt} (h : Keeps k s) :
    Keeps k (State.openFor s p).1 := by
  unfold State.openFor
  repeat' first
    | extract_lets
    | with_reducible assumption
    | with_reducible apply State.fresh_keeps
    | with_reducible apply State.setColl_keeps
    | split
    | with_reducible apply Keeps.ite
    | (intro)
    | fail_if_no_progress with_reducible apply Keeps.update.mpr
    | dsimp +zetaDelta only

theorem State.takeContrib_keeps {k : State} {s : State} {p : Pkt} (h : Keeps k s) :
    Keeps k (State.takeContrib s p) := by
  unfold State.takeContrib
  repeat' first
    | extract_lets
    | with_reducible assumption
    | with_reducible apply State.protocolFault_keeps
    | with_reducible apply State.countIn_keeps
    | with_reducible apply State.discardPkt_keeps
    | with_reducible apply State.openFor_keeps
    | with_reducible apply State.tryMerge_keeps
    | with_reducible apply State.setColl_keeps
    | split
    | with_reducible apply Keeps.ite
    | with_reducible refine Keeps.of_fst (by assumption) ?_
    | (intro)
    | fail_if_no_progress with_reducible apply Keeps.update.mpr

theorem State.takeDown_keeps {k : State} {s : State} {p : Pkt} (h : Keeps k s) :
    Keeps k (State.takeDown s p) := by
  unfold State.takeDown
  repeat' first
    | with_reducible assumption
    | with_reducible apply State.protocolFault_keeps
    | with_reducible apply State.countIn_keeps
    | with_reducible apply State.discardPkt_keeps
    | with_reducible apply State.spreadResult_keeps
    | split
    | with_reducible apply Keeps.ite
    | (intro)
    | fail_if_no_progress with_reducible apply Keeps.update.mpr

theorem State.abortEarly_keeps {k : State} {s : State} {c : Coll} {err : Nat} (h : Keeps k s) :
    Keeps k (State.abortEarly s c err) := by
  unfold State.abortEarly
  repeat' first
    | with_reducible assumption
    | with_reducible apply State.abortTask_keeps
    | with_reducible apply State.passCseq_keeps
    | split
    | with_reducible apply Keeps.ite
    | (intro)
    | fail_if_no_progress with_reducible apply Keeps.update.mpr

theorem State.openTask_keeps {k : State} {s : State} {t : Task} (h : Keeps k s) :
    Keeps k (State.openTask s t) := by
  unfold State.openTask
  repeat' first
    | extract_lets
    | with_reducible assumption
    | with_reducible apply State.abortEarly_keeps
    | with_reducible apply State.endTask_keeps
    | with_reducible apply State.setReg_keeps
    | with_reducible apply State.abortTask_keeps
    | with_reducible apply State.requestCollStake_keeps
    | with_reducible apply State.setColl_keeps
    | split
    | with_reducible apply Keeps.ite
    | (intro)
    | fail_if_no_progress with_reducible apply Keeps.update.mpr
    | dsimp +zetaDelta only

theorem State.startFused_keeps {k : State} {s : State} {t : Task} (h : Keeps k s) :
    Keeps k (State.startFused s t) := by
  unfold State.startFused
  repeat' first
    | extract_lets
    | with_reducible assumption
    | with_reducible apply State.abortEarly_keeps
    | with_reducible apply State.startDmm_keeps
    | split
    | with_reducible apply Keeps.ite
    | (intro)
    | fail_if_no_progress with_reducible apply Keeps.update.mpr

theorem State.launchCollect_keeps {k : State} {s : State} {seq : ℕ} {kind : ℕ} (h : Keeps k s) :
    KeepsO k (State.launchCollect s seq kind) := by
  unfold State.launchCollect
  repeat' first
    | with_reducible exact KeepsO.none
    | with_reducible apply KeepsO.some
    | with_reducible assumption
    | with_reducible apply State.launch_keeps
    | with_reducible apply State.openTask_keeps
    | split
    | with_reducible apply KeepsO.ite
    | with_reducible apply Keeps.ite
    | with_reducible refine Keeps.of_some (by assumption) ?_
    | (intro)
    | fail_if_no_progress with_reducible apply Keeps.update.mpr

theorem State.takeRing_keeps {k : State} {s : State} (h : Keeps k s) :
    KeepsO2 k (State.takeRing s) := by
  unfold State.takeRing
  repeat' first
    | with_reducible exact KeepsO2.none
    | with_reducible apply KeepsO2.some
    | with_reducible assumption
    | with_reducible apply KeepsO.none
    | with_reducible apply KeepsO.some
    | with_reducible apply KeepsO.ite
    | with_reducible apply KeepsO1.some
    | with_reducible apply KeepsO1.none
    | split
    | with_reducible apply Keeps.ite
    | (intro)
    | fail_if_no_progress with_reducible apply Keeps.update.mpr

theorem State.ringBlock_keeps {k : State} {s : State} {c : Coll} {t : Task} {p : Pkt} (h : Keeps k s) :
    Keeps k (State.ringBlock s c t p) := by
  unfold State.ringBlock
  repeat' first
    | extract_lets
    | with_reducible assumption
    | with_reducible apply State.endColl_keeps
    | with_reducible apply State.injectPkt_keeps
    | with_reducible apply State.putSegs_keeps
    | with_reducible apply State.setColl_keeps
    | split
    | with_reducible apply Keeps.ite
    | (intro)
    | fail_if_no_progress with_reducible apply Keeps.update.mpr

theorem State.ringInput_keeps {k : State} {s : State} {p : Pkt} (h : Keeps k s) :
    Keeps k (State.ringInput s p) := by
  unfold State.ringInput
  repeat' first
    | extract_lets
    | with_reducible assumption
    | with_reducible apply State.abortColl_keeps
    | with_reducible apply State.addReg_keeps
    | with_reducible apply State.openFor_keeps
    | with_reducible apply State.ringBlock_keeps
    | with_reducible apply State.setColl_keeps
    | split
    | with_reducible apply Keeps.ite
    | with_reducible refine Keeps.of_fst (by assumption) ?_
    | with_reducible refine Keeps.of_snd (by assumption) ?_
    | (intro)
    | fail_if_no_progress with_reducible apply Keeps.update.mpr

theorem State.serveRing_keeps {k : State} {s : State} {p : Pkt} (h : Keeps k s) :
    Keeps k (State.serveRing s p) := by
  unfold State.serveRing
  repeat' first
    | extract_lets
    | with_reducible assumption
    | with_reducible apply State.ringInput_keeps
    | with_reducible apply State.protocolFault_keeps
    | with_reducible apply State.addReg_keeps
    | with_reducible apply State.abortColl_keeps
    | with_reducible apply State.putSegs_keeps
    | with_reducible apply State.setColl_keeps
    | with_reducible apply State.injectPkt_keeps
    | with_reducible apply State.endColl_keeps
    | split
    | with_reducible apply Keeps.ite
    | (intro)
    | fail_if_no_progress with_reducible apply Keeps.update.mpr
    | dsimp +zetaDelta only

theorem State.enterColl_keeps {k : State} {s : State} {t : Task} {c : Coll} (h : Keeps k s) :
    Keeps k (State.enterColl s t c) := by
  unfold State.enterColl
  repeat' first
    | extract_lets
    | with_reducible assumption
    | with_reducible apply Keeps.foldl1
    | with_reducible apply Keeps.foldl2
    | with_reducible apply State.ringInput_keeps
    | with_reducible apply State.addReg_keeps
    | with_reducible apply State.setReg_keeps
    | with_reducible apply State.setColl_keeps
    | with_reducible apply State.putSegs_keeps
    | with_reducible apply State.endColl_keeps
    | with_reducible apply State.injectPkt_keeps
    | with_reducible apply State.injectLocal_keeps
    | with_reducible apply Keeps.foldl
    | split
    | with_reducible apply Keeps.ite
    | (intro)
    | fail_if_no_progress with_reducible apply Keeps.update.mpr

theorem State.enterTask_keeps {k : State} {s : State} {seq : ℕ} (h : Keeps k s) :
    KeepsO k (State.enterTask s seq) := by
  unfold State.enterTask
  repeat' first
    | with_reducible exact KeepsO.none
    | with_reducible apply KeepsO.some
    | with_reducible assumption
    | with_reducible apply State.setColl_keeps
    | with_reducible apply KeepsO1.some
    | with_reducible apply KeepsO1.none
    | with_reducible apply KeepsO2.some
    | with_reducible apply KeepsO2.none
    | with_reducible apply State.endTask_keeps
    | with_reducible apply State.openTask_keeps
    | with_reducible apply State.dropColl_keeps
    | with_reducible apply State.enterColl_keeps
    | split
    | with_reducible apply KeepsO.ite
    | with_reducible apply Keeps.ite
    | (intro)
    | fail_if_no_progress with_reducible apply Keeps.update.mpr

theorem State.serveAbort_keeps {k : State} {s : State} {p : Pkt} (h : Keeps k s) :
    Keeps k (State.serveAbort s p) := by
  unfold State.serveAbort
  repeat' first
    | extract_lets
    | with_reducible assumption
    | with_reducible apply State.discardPkt_keeps
    | with_reducible apply State.openFor_keeps
    | with_reducible apply State.abortColl_keeps
    | with_reducible apply State.countIn_keeps
    | split
    | with_reducible apply Keeps.ite
    | with_reducible refine Keeps.of_fst (by assumption) ?_
    | (intro)

theorem State.timeoutColl_keeps {k : State} {s : State} {c : Coll} (h : Keeps k s) :
    KeepsO k (State.timeoutColl s c) := by
  unfold State.timeoutColl
  repeat' first
    | extract_lets
    | with_reducible exact KeepsO.none
    | with_reducible apply KeepsO.some
    | with_reducible assumption
    | with_reducible apply KeepsO1.some
    | with_reducible apply KeepsO1.none
    | with_reducible apply KeepsO2.some
    | with_reducible apply KeepsO2.none
    | with_reducible apply State.addReg_keeps
    | with_reducible apply State.abortColl_keeps
    | with_reducible apply State.abortInfo_keeps
    | with_reducible apply State.abortTask_keeps
    | with_reducible apply State.memberRecord_keeps
    | with_reducible apply State.setColl_keeps
    | split
    | with_reducible apply KeepsO.ite
    | with_reducible apply Keeps.ite
    | (intro)
    | fail_if_no_progress with_reducible apply Keeps.update.mpr
    | dsimp +zetaDelta only

theorem State.failTreePort_keeps {k : State} {s : State} {port : ℕ} (h : Keeps k s) :
    Keeps k (State.failTreePort s port) := by
  unfold State.failTreePort
  repeat' first
    | with_reducible assumption
    | with_reducible apply State.abortColl_keeps
    | with_reducible apply Keeps.foldl
    | split
    | with_reducible apply Keeps.ite
    | (intro)

theorem State.memberDone_keeps {k : State} {s : State} {seq : ℕ} (h : Keeps k s) :
    Keeps k (State.memberDone s seq) := by
  unfold State.memberDone
  repeat' first
    | with_reducible assumption
    | with_reducible apply State.injectLocal_keeps
    | with_reducible apply State.setColl_keeps
    | split
    | with_reducible apply Keeps.ite
    | (intro)
    | fail_if_no_progress with_reducible apply Keeps.update.mpr

theorem State.closeColl_keeps {k : State} {s : State} {c : Coll} {missing : Bool} (h : Keeps k s) :
    Keeps k (State.closeColl s c missing) := by
  unfold State.closeColl
  repeat' first
    | extract_lets
    | with_reducible assumption
    | with_reducible apply State.abortTask_keeps
    | with_reducible apply State.collStep_keeps
    | with_reducible apply State.memberRecord_keeps
    | with_reducible apply State.stepRecord_keeps
    | with_reducible apply State.dropColl_keeps
    | split
    | with_reducible apply Keeps.ite
    | (intro)

theorem State.spreadClosed_keeps {k : State} {s : State} {c : Coll} {p : Pkt} (h : Keeps k s) :
    Keeps k (State.spreadClosed s c p) := by
  unfold State.spreadClosed
  repeat' first
    | extract_lets
    | with_reducible assumption
    | with_reducible apply State.countCopies_keeps
    | with_reducible apply State.injectOn_keeps
    | with_reducible apply State.closeColl_keeps
    | with_reducible apply Keeps.foldl
    | split
    | with_reducible apply Keeps.ite
    | (intro)

theorem State.rootCloses_keeps {k : State} {s : State} {c : Coll} {missing : Bool} (h : Keeps k s) :
    Keeps k (State.rootCloses s c missing) := by
  unfold State.rootCloses
  repeat' first
    | extract_lets
    | with_reducible assumption
    | with_reducible apply State.spreadClosed_keeps
    | with_reducible apply State.countOut_keeps
    | split
    | with_reducible apply Keeps.ite
    | (intro)
    | fail_if_no_progress with_reducible apply Keeps.update.mpr

theorem State.serveDone_keeps {k : State} {s : State} {p : Pkt} (h : Keeps k s) :
    Keeps k (State.serveDone s p) := by
  unfold State.serveDone
  repeat' first
    | extract_lets
    | with_reducible assumption
    | with_reducible apply State.discardPkt_keeps
    | with_reducible apply State.countIn_keeps
    | with_reducible apply State.setColl_keeps
    | with_reducible apply State.injectOn_keeps
    | with_reducible apply State.countOut_keeps
    | with_reducible apply State.rootCloses_keeps
    | split
    | with_reducible apply Keeps.ite
    | (intro)
    | fail_if_no_progress with_reducible apply Keeps.update.mpr
    | dsimp +zetaDelta only

theorem State.serveClosed_keeps {k : State} {s : State} {p : Pkt} (h : Keeps k s) :
    Keeps k (State.serveClosed s p) := by
  unfold State.serveClosed
  repeat' first
    | with_reducible assumption
    | with_reducible apply State.discardPkt_keeps
    | with_reducible apply State.spreadClosed_keeps
    | split
    | with_reducible apply Keeps.ite
    | (intro)
    | fail_if_no_progress with_reducible apply Keeps.update.mpr

theorem State.writeGroup_keeps {k : State} {s : State} {g : ℕ} {w : ℕ} {v : ℕ} (h : Keeps k s) :
    Keeps k (State.writeGroup s g w v) := by
  unfold State.writeGroup
  repeat' first
    | extract_lets
    | with_reducible assumption
    | with_reducible apply State.whWrite_keeps
    | with_reducible apply State.setReg_keeps
    | split
    | with_reducible apply Keeps.ite
    | (intro)

end Sys2Proof.Machine
end

