-- ==== Sys2Proof/Laws/KeptExchange.lean ====
section
/-! SUPPORT. What the operations of Machine/Exchange.lean keep (Laws/Kept.lean). -/

set_option Elab.async false

set_option linter.unusedTactic false
set_option linter.unreachableTactic false

namespace Sys2Proof.Machine

open Sys2Proof

theorem State.setXchg_keeps {k : State} {s : State} {x : Xchg} (h : Keeps k s) :
    Keeps k (State.setXchg s x) := by
  unfold State.setXchg
  repeat' first
    | with_reducible assumption
    | split
    | with_reducible apply Keeps.ite
    | (intro)
    | fail_if_no_progress with_reducible apply Keeps.update.mpr

theorem State.xchgStep_keeps {k : State} {s : State} {x : Xchg} {first : ℕ} {err : ℕ} (h : Keeps k s) :
    Keeps k (State.xchgStep s x first err) := by
  unfold State.xchgStep
  repeat' first
    | extract_lets
    | with_reducible assumption
    | with_reducible apply State.addReg_keeps
    | with_reducible apply State.stepRecord_keeps
    | split
    | with_reducible apply Keeps.ite
    | (intro)

theorem State.abortXchg_keeps {k : State} {s : State} {x : Xchg} {err : ℕ} {culprit : ℕ} {send : Bool} (h : Keeps k
    s) :
    Keeps k (State.abortXchg s x err culprit send) := by
  unfold State.abortXchg
  repeat' first
    | extract_lets
    | with_reducible assumption
    | with_reducible apply Keeps.foldl1
    | with_reducible apply Keeps.foldl2
    | with_reducible apply State.stopXfers_keeps
    | with_reducible apply State.abortInfo_keeps
    | with_reducible apply State.injectPkt_keeps
    | with_reducible apply State.setXchg_keeps
    | with_reducible apply State.dropXfers_keeps
    | with_reducible apply State.xchgStep_keeps
    | with_reducible apply State.addReg_keeps
    | with_reducible apply State.endTask_keeps
    | with_reducible apply Keeps.foldl
    | split
    | with_reducible apply Keeps.ite
    | (intro)
    | fail_if_no_progress with_reducible apply Keeps.update.mpr

theorem State.abortUnentered_keeps {k : State} {s : State} {t : Task} {x : Xchg} {err : Nat} {culprit : Nat} (h : Keeps k s) :
    Keeps k (State.abortUnentered s t x err culprit) := by
  unfold State.abortUnentered
  repeat' first
    | extract_lets
    | with_reducible assumption
    | with_reducible apply State.abortXchg_keeps
    | with_reducible apply State.setReg_keeps
    | split
    | with_reducible apply Keeps.ite
    | (intro)
    | fail_if_no_progress with_reducible apply Keeps.update.mpr

theorem State.openXchg_keeps {k : State} {s : State} {t : Task} (h : Keeps k s) :
    Keeps k (State.openXchg s t) := by
  unfold State.openXchg
  repeat' first
    | extract_lets
    | with_reducible assumption
    | with_reducible apply State.abortUnentered_keeps
    | with_reducible apply State.fresh_keeps
    | with_reducible apply State.endTask_keeps
    | with_reducible apply State.rmeFault_keeps
    | with_reducible apply State.requestCollStake_keeps
    | split
    | with_reducible apply Keeps.ite
    | (intro)
    | fail_if_no_progress with_reducible apply Keeps.update.mpr
    | dsimp +zetaDelta only

theorem State.startDispatchX_keeps {k : State} {s : State} {t : Task} (h : Keeps k s) :
    Keeps k (State.startDispatchX s t) := by
  unfold State.startDispatchX
  repeat' first
    | extract_lets
    | with_reducible assumption
    | with_reducible apply State.endTask_keeps
    | with_reducible apply State.countSort_keeps
    | with_reducible apply State.addReg_keeps
    | with_reducible apply State.openXchg_keeps
    | split
    | with_reducible apply Keeps.ite
    | (intro)

theorem State.startCombineX_keeps {k : State} {s : State} {t : Task} (h : Keeps k s) :
    Keeps k (State.startCombineX s t) := by
  unfold State.startCombineX
  repeat' first
    | with_reducible assumption
    | with_reducible apply State.endTask_keeps
    | with_reducible apply State.openXchg_keeps
    | split
    | with_reducible apply Keeps.ite
    | (intro)

theorem State.writeRecv_keeps {k : State} {s : State} {t : Task} {x : Xchg} (h : Keeps k s) :
    Keeps k (State.writeRecv s t x) := by
  unfold State.writeRecv
  repeat' first
    | extract_lets
    | with_reducible assumption
    | with_reducible apply State.putBytes_keeps
    | with_reducible apply Keeps.foldl
    | with_reducible apply Keeps.foldl1
    | with_reducible apply Keeps.foldl2
    | split
    | with_reducible apply Keeps.ite
    | (intro)
    | fail_if_no_progress with_reducible apply Keeps.update.mpr
    | dsimp +zetaDelta only

theorem State.serveWeights_keeps {k : State} {s : State} {t : Task} {x : Xchg} (h : Keeps k s) :
    Keeps k (State.serveWeights s t x) := by
  unfold State.serveWeights
  repeat' first
    | extract_lets
    | with_reducible assumption
    | with_reducible apply Keeps.foldl1
    | with_reducible apply Keeps.foldl2
    | with_reducible apply State.addXfer_keeps
    | with_reducible apply Keeps.foldl
    | split
    | with_reducible apply Keeps.ite
    | (intro)

theorem State.dataDispatch_keeps {k : State} {s : State} {t : Task} {x : Xchg} (h : Keeps k s) :
    Keeps k (State.dataDispatch s t x) := by
  unfold State.dataDispatch
  repeat' first
    | extract_lets
    | with_reducible assumption
    | with_reducible apply State.writeRecv_keeps
    | with_reducible apply State.writePlan_keeps
    | with_reducible apply State.addXfer_keeps
    | with_reducible apply State.serveWeights_keeps
    | with_reducible apply State.setXchg_keeps
    | with_reducible apply Keeps.foldl
    | with_reducible apply Keeps.foldl1
    | with_reducible apply Keeps.foldl2
    | split
    | with_reducible apply Keeps.ite
    | (intro)
    | fail_if_no_progress with_reducible apply Keeps.update.mpr

theorem State.dataCombine_keeps {k : State} {s : State} {t : Task} {x : Xchg} (h : Keeps k s) :
    Keeps k (State.dataCombine s t x) := by
  unfold State.dataCombine
  repeat' first
    | extract_lets
    | with_reducible assumption
    | with_reducible apply State.addXfer_keeps
    | with_reducible apply State.putBytes_keeps
    | with_reducible apply State.setXchg_keeps
    | with_reducible apply Keeps.foldl
    | with_reducible apply Keeps.foldl1
    | with_reducible apply Keeps.foldl2
    | split
    | with_reducible apply Keeps.ite
    | (intro)
    | fail_if_no_progress with_reducible apply Keeps.update.mpr
    | dsimp +zetaDelta only

theorem State.settleXchg_keeps {k : State} {s : State} {seq : ℕ} (h : Keeps k s) :
    Keeps k (State.settleXchg s seq) := by
  unfold State.settleXchg
  repeat' first
    | extract_lets
    | with_reducible assumption
    | with_reducible apply State.dropXfers_keeps
    | with_reducible apply State.xchgStep_keeps
    | with_reducible apply State.endTask_keeps
    | with_reducible apply State.scrambleOverlaps_keeps
    | split
    | with_reducible apply Keeps.ite
    | (intro)
    | fail_if_no_progress with_reducible apply Keeps.update.mpr
    | dsimp +zetaDelta only

theorem State.decideXchg_keeps {k : State} {s : State} {seq : ℕ} (h : Keeps k s) :
    Keeps k (State.decideXchg s seq) := by
  unfold State.decideXchg
  repeat' first
    | extract_lets
    | with_reducible assumption
    | with_reducible apply State.addReg_keeps
    | with_reducible apply State.abortXchg_keeps
    | with_reducible apply State.dataDispatch_keeps
    | with_reducible apply State.dataCombine_keeps
    | with_reducible apply State.settleXchg_keeps
    | split
    | with_reducible apply Keeps.ite
    | (intro)
    | fail_if_no_progress with_reducible apply Keeps.update.mpr
    | dsimp +zetaDelta only

theorem State.enterXchg_keeps {k : State} {s : State} {t : Task} {x : Xchg} (h : Keeps k s) :
    Keeps k (State.enterXchg s t x) := by
  unfold State.enterXchg
  repeat' first
    | extract_lets
    | with_reducible assumption
    | with_reducible apply State.abortUnentered_keeps
    | with_reducible apply State.setReg_keeps
    | with_reducible apply State.abortXchg_keeps
    | with_reducible apply State.setXchg_keeps
    | with_reducible apply State.addReg_keeps
    | with_reducible apply State.injectPkt_keeps
    | with_reducible apply State.decideXchg_keeps
    | with_reducible apply Keeps.foldl
    | with_reducible apply Keeps.foldl1
    | with_reducible apply Keeps.foldl2
    | split
    | with_reducible apply Keeps.ite
    | (intro)
    | fail_if_no_progress with_reducible apply Keeps.update.mpr
    | dsimp +zetaDelta only

theorem State.serveXcount_keeps {k : State} {s : State} {p : Pkt} (h : Keeps k s) :
    Keeps k (State.serveXcount s p) := by
  unfold State.serveXcount
  repeat' first
    | with_reducible assumption
    | with_reducible apply State.protocolFault_keeps
    | with_reducible apply State.addReg_keeps
    | with_reducible apply State.decideXchg_keeps
    | with_reducible apply State.setXchg_keeps
    | split
    | with_reducible apply Keeps.ite
    | (intro)
    | fail_if_no_progress with_reducible apply Keeps.update.mpr

theorem State.takeXcount_keeps {k : State} {s : State} (h : Keeps k s) :
    KeepsO2 k (State.takeXcount s) := by
  unfold State.takeXcount
  repeat' first
    | with_reducible exact KeepsO2.none
    | with_reducible apply KeepsO2.some
    | with_reducible assumption
    | split
    | with_reducible apply Keeps.ite
    | (intro)
    | fail_if_no_progress with_reducible apply Keeps.update.mpr

theorem State.takeAbort_keeps {k : State} {s : State} {p : Pkt} (h : Keeps k s) :
    Keeps k (State.takeAbort s p) := by
  unfold State.takeAbort
  repeat' first
    | extract_lets
    | with_reducible assumption
    | with_reducible apply State.abortUnentered_keeps
    | with_reducible apply State.serveAbort_keeps
    | with_reducible apply State.abortXchg_keeps
    | with_reducible apply State.addReg_keeps
    | split
    | with_reducible apply Keeps.ite
    | (intro)
    | fail_if_no_progress with_reducible apply Keeps.update.mpr
    | dsimp +zetaDelta only

theorem State.placeReturns_keeps {k : State} {s : State} {t : Task} {x : Xchg} {src : ℕ} {txn : ℕ} (h : Keeps k s) :
    Keeps k (State.placeReturns s t x src txn) := by
  unfold State.placeReturns
  repeat' first
    | extract_lets
    | with_reducible assumption
    | with_reducible apply Keeps.foldl1
    | with_reducible apply Keeps.foldl2
    | with_reducible apply State.putBytes_keeps
    | with_reducible apply Keeps.foldl
    | split
    | with_reducible apply Keeps.ite
    | (intro)
    | fail_if_no_progress with_reducible apply Keeps.update.mpr

theorem State.takeRows_keeps {k : State} {s : State} {p : Pkt} (h : Keeps k s) :
    Keeps k (State.takeRows s p) := by
  unfold State.takeRows
  repeat' first
    | extract_lets
    | with_reducible assumption
    | with_reducible apply State.answer_keeps
    | with_reducible apply State.protocolFault_keeps
    | with_reducible apply State.addReg_keeps
    | with_reducible apply State.setXchg_keeps
    | with_reducible apply State.putSegs_keeps
    | with_reducible apply State.placeReturns_keeps
    | with_reducible apply State.settleXchg_keeps
    | with_reducible apply Keeps.foldl
    | split
    | with_reducible apply Keeps.ite
    | (intro)
    | fail_if_no_progress with_reducible apply Keeps.update.mpr
    | dsimp +zetaDelta only

theorem State.takeStore_keeps {k : State} {s : State} (h : Keeps k s) :
    KeepsO2 k (State.takeStore s) := by
  unfold State.takeStore
  repeat' first
    | extract_lets
    | with_reducible exact KeepsO2.none
    | with_reducible apply KeepsO2.some
    | with_reducible assumption
    | split
    | with_reducible apply Keeps.ite
    | (intro)
    | fail_if_no_progress with_reducible apply Keeps.update.mpr
    | dsimp +zetaDelta only

theorem State.localCopy_keeps {k : State} {s : State} {p : Pkt} {a : ℕ} (h : Keeps k s) :
    Keeps k (State.localCopy s p a) := by
  unfold State.localCopy
  repeat' first
    | extract_lets
    | with_reducible assumption
    | with_reducible apply State.putBytes_keeps
    | with_reducible apply State.statusFault_keeps
    | with_reducible apply State.setXchg_keeps
    | split
    | with_reducible apply Keeps.ite
    | (intro)
    | fail_if_no_progress with_reducible apply Keeps.update.mpr
    | dsimp +zetaDelta only

theorem State.serveMdata_keeps {k : State} {s : State} {p : Pkt} (h : Keeps k s) :
    Keeps k (State.serveMdata s p) := by
  unfold State.serveMdata
  repeat' first
    | extract_lets
    | with_reducible assumption
    | with_reducible apply Keeps.foldl1
    | with_reducible apply Keeps.foldl2
    | with_reducible apply State.protocolFault_keeps
    | with_reducible apply State.countIn_keeps
    | with_reducible apply State.addReg_keeps
    | with_reducible apply State.countCopies_keeps
    | with_reducible apply State.injectOn_keeps
    | with_reducible apply State.localCopy_keeps
    | with_reducible apply State.answer_keeps
    | with_reducible apply State.settleXchg_keeps
    | with_reducible apply State.setFan_keeps
    | with_reducible apply Keeps.foldl
    | split
    | with_reducible apply Keeps.ite
    | (intro)
    | fail_if_no_progress with_reducible apply Keeps.update.mpr
    | dsimp +zetaDelta only

theorem State.takeMdata_keeps {k : State} {s : State} (h : Keeps k s) :
    KeepsO2 k (State.takeMdata s) := by
  unfold State.takeMdata
  repeat' first
    | with_reducible exact KeepsO2.none
    | with_reducible apply KeepsO2.some
    | with_reducible assumption
    | split
    | with_reducible apply Keeps.ite
    | (intro)
    | fail_if_no_progress with_reducible apply Keeps.update.mpr

theorem State.cutOff_keeps {k : State} {s : State} {t : Task} (h : Keeps k s) :
    Keeps k (State.cutOff s t) := by
  unfold State.cutOff
  repeat' first
    | extract_lets
    | with_reducible assumption
    | with_reducible apply State.dropColl_keeps
    | with_reducible apply State.dropXfers_keeps
    | with_reducible apply State.endTask_keeps
    | with_reducible apply State.rmeFault_keeps
    | split
    | with_reducible apply Keeps.ite
    | (intro)
    | fail_if_no_progress with_reducible apply Keeps.update.mpr

theorem State.writeDeviceId_keeps {k : State} {s : State} {v : Nat} (h : Keeps k s) :
    Keeps k (State.writeDeviceId s v) := by
  unfold State.writeDeviceId
  repeat' first
    | extract_lets
    | with_reducible assumption
    | with_reducible apply Keeps.foldl
    | with_reducible apply Keeps.foldl1
    | with_reducible apply Keeps.foldl2
    | with_reducible apply State.cutOff_keeps
    | with_reducible apply State.setReg_keeps
    | with_reducible apply State.whWrite_keeps
    | split
    | with_reducible apply Keeps.ite
    | (intro)
    | fail_if_no_progress with_reducible apply Keeps.update.mpr

theorem State.lose_keeps {k : State} {s : State} {x : Xfer} {off : Nat} {err : Nat} {kind : Nat} {status : Nat} {dev : Nat} {addr : Nat} (h : Keeps k s) :
    Keeps k (State.lose s x off err kind status dev addr) := by
  unfold State.lose
  repeat' first
    | with_reducible assumption
    | with_reducible apply State.dropReq_keeps
    | with_reducible apply State.abortXchg_keeps
    | with_reducible apply State.dropXfers_keeps
    | with_reducible apply State.failXfer_keeps
    | split
    | with_reducible apply Keeps.ite
    | (intro)
    | fail_if_no_progress with_reducible apply Keeps.update.mpr

theorem State.takeFanAck_keeps {k : State} {s : State} {x : Xfer} {p : Pkt} (h : Keeps k s) :
    Keeps k (State.takeFanAck s x p) := by
  unfold State.takeFanAck
  repeat' first
    | extract_lets
    | with_reducible assumption
    | with_reducible apply State.lose_keeps
    | with_reducible apply State.parkReply_keeps
    | with_reducible apply State.setXfer_keeps
    | with_reducible apply State.settleRemote_keeps
    | with_reducible apply State.settleXchg_keeps
    | split
    | with_reducible apply Keeps.ite
    | (intro)
    | fail_if_no_progress with_reducible apply Keeps.update.mpr

theorem State.takeAck_keeps {k : State} {s : State} {p : Pkt} (h : Keeps k s) :
    Keeps k (State.takeAck s p) := by
  unfold State.takeAck
  repeat' first
    | extract_lets
    | with_reducible assumption
    | with_reducible apply State.takeFanAck_keeps
    | with_reducible apply State.takeReply_keeps
    | with_reducible apply State.lose_keeps
    | with_reducible apply State.settleXchg_keeps
    | with_reducible apply State.settleRemote_keeps
    | with_reducible apply State.setXfer_keeps
    | with_reducible apply State.endReq_keeps
    | split
    | with_reducible apply Keeps.ite
    | (intro)
    | fail_if_no_progress with_reducible apply Keeps.update.mpr
    | dsimp +zetaDelta only

theorem State.retryReq_keeps {k : State} {s : State} {x : Xfer} {r : Req} (h : Keeps k s) :
    Keeps k (State.retryReq s x r) := by
  unfold State.retryReq
  repeat' first
    | with_reducible assumption
    | with_reducible apply State.lose_keeps
    | with_reducible apply State.resendReq_keeps
    | split
    | with_reducible apply Keeps.ite
    | (intro)

theorem State.takeDrop_keeps {k : State} {s : State} {p : Pkt} (h : Keeps k s) :
    Keeps k (State.takeDrop s p) := by
  unfold State.takeDrop
  repeat' first
    | extract_lets
    | with_reducible assumption
    | with_reducible apply State.lose_keeps
    | with_reducible apply State.retryReq_keeps
    | split
    | with_reducible apply Keeps.ite
    | (intro)
    | fail_if_no_progress with_reducible apply Keeps.update.mpr
    | dsimp +zetaDelta only

end Sys2Proof.Machine
end

