-- ==== Sys2Proof/Laws/KeptKeys.lean ====
section
/-! SUPPORT. What the operations of Machine/Keys.lean keep (Laws/Kept.lean). -/

set_option Elab.async false

set_option linter.unusedTactic false
set_option linter.unreachableTactic false

namespace Sys2Proof.Machine

open Sys2Proof

theorem State.draw_keeps {k s : State} (h : Keeps k s) : Keeps k (State.draw s).2 :=
  h.congr rfl rfl rfl rfl rfl

theorem State.identitySign_keeps {k : State} {s : State} {ctx : ℕ} {msg : List Byte} (h : Keeps k s) :
    Keeps k (State.identitySign s ctx msg).2 := by
  unfold State.identitySign
  repeat' first
    | extract_lets
    | with_reducible assumption
    | with_reducible apply State.draw_keeps
    | with_reducible apply State.addReg_keeps
    | split
    | with_reducible apply Keeps.ite
    | with_reducible refine Keeps.of_snd (by assumption) ?_
    | (intro)

theorem State.makeCredential_keeps {k s : State} (h : Keeps k s) : Keeps k (State.makeCredential s) := by
  have h1 : Keeps k { s with sec := { s.sec with kemPairs := s.sec.kemPairs + 1 } } := h.congr rfl rfl rfl rfl rfl
  have h2 := fun m => State.identitySign_keeps (ctx := ctxLink) (msg := m) h1
  unfold State.makeCredential
  dsimp only at h2 ⊢
  exact Keeps.congr (h2 _) rfl rfl rfl rfl rfl

theorem State.setPortPeer_keeps {k : State} {s : State} {p : ℕ} {v : ℕ} (h : Keeps k s) :
    Keeps k (State.setPortPeer s p v) := by
  unfold State.setPortPeer
  repeat' first
    | with_reducible assumption
    | with_reducible apply State.setReg_keeps
    | split
    | with_reducible apply Keeps.ite
    | (intro)

end Sys2Proof.Machine
end

