-- ==== Sys2Proof/Laws/KeptPorts.lean ====
section
/-! SUPPORT. What the operations of Machine/Ports.lean keep (Laws/Kept.lean). -/

set_option Elab.async false

set_option linter.unusedTactic false
set_option linter.unreachableTactic false

namespace Sys2Proof.Machine

open Sys2Proof

theorem State.dropWaiting_keeps {k : State} {s : State} {p : ℕ} {i : ℕ} (h : Keeps k s) :
    Keeps k (State.dropWaiting s p i) := by
  unfold State.dropWaiting
  repeat' first
    | with_reducible assumption
    | with_reducible apply Keeps.foldl1
    | with_reducible apply Keeps.foldl2
    | with_reducible apply State.fanLeft_keeps
    | with_reducible apply State.dropPkt_keeps
    | with_reducible apply State.creditFrame_keeps
    | with_reducible apply State.takePkt_keeps
    | with_reducible apply Keeps.foldl
    | split
    | with_reducible apply Keeps.ite
    | (intro)

theorem State.portFail_keeps {k : State} {s : State} {p : ℕ} (h : Keeps k s) :
    Keeps k (State.portFail s p) := by
  unfold State.portFail
  repeat' first
    | extract_lets
    | with_reducible assumption
    | with_reducible apply State.modPort_keeps
    | with_reducible apply State.setPortState_keeps
    | with_reducible apply State.record_keeps
    | with_reducible apply State.failTreePort_keeps
    | with_reducible apply State.dropWaiting_keeps
    | with_reducible apply Keeps.foldl
    | split
    | with_reducible apply Keeps.ite
    | (intro)

theorem State.portOff_keeps {k : State} {s : State} {p : ℕ} (h : Keeps k s) :
    Keeps k (State.portOff s p) := by
  unfold State.portOff
  repeat' first
    | extract_lets
    | with_reducible assumption
    | with_reducible apply State.setBit_keeps
    | with_reducible apply State.setPortState_keeps
    | with_reducible apply State.modPort_keeps
    | with_reducible apply State.setPortPeer_keeps
    | split
    | with_reducible apply Keeps.ite
    | (intro)
    | fail_if_no_progress with_reducible apply Keeps.update.mpr

theorem State.retrainFailed_keeps {k : State} {s : State} {p : ℕ} (h : Keeps k s) :
    Keeps k (State.retrainFailed s p) := by
  unfold State.retrainFailed
  repeat' first
    | extract_lets
    | with_reducible assumption
    | with_reducible apply State.portFail_keeps
    | with_reducible apply State.modPort_keeps
    | split
    | with_reducible apply Keeps.ite
    | (intro)
    | fail_if_no_progress with_reducible apply Keeps.update.mpr

theorem State.portDown_keeps {k : State} {s : State} {p : ℕ} (h : Keeps k s) :
    Keeps k (State.portDown s p) := by
  unfold State.portDown
  repeat' first
    | extract_lets
    | with_reducible assumption
    | with_reducible apply State.portOff_keeps
    | with_reducible apply State.retrainFailed_keeps
    | with_reducible apply State.modPort_keeps
    | split
    | with_reducible apply Keeps.ite
    | (intro)
    | fail_if_no_progress with_reducible apply Keeps.update.mpr
    | dsimp +zetaDelta only

theorem State.portComesUp_keeps {k : State} {s : State} {p : ℕ} (h : Keeps k s) :
    Keeps k (State.portComesUp s p) := by
  unfold State.portComesUp
  repeat' first
    | extract_lets
    | with_reducible assumption
    | with_reducible apply Keeps.foldl1
    | with_reducible apply Keeps.foldl2
    | with_reducible apply State.addReg_keeps
    | with_reducible apply State.modPort_keeps
    | with_reducible apply State.setPortState_keeps
    | with_reducible apply State.resendFrame_keeps
    | with_reducible apply Keeps.foldl
    | split
    | with_reducible apply Keeps.ite
    | (intro)
    | fail_if_no_progress with_reducible apply Keeps.update.mpr

theorem State.cryptMismatch_keeps {k : State} {s : State} {p : ℕ} (h : Keeps k s) :
    Keeps k (State.cryptMismatch s p) := by
  unfold State.cryptMismatch
  repeat' first
    | with_reducible assumption
    | with_reducible apply State.retrainFailed_keeps
    | with_reducible apply State.setBit_keeps
    | with_reducible apply State.portOff_keeps
    | split
    | with_reducible apply Keeps.ite
    | (intro)

theorem State.keyingFails_keeps {k : State} {s : State} {p : ℕ} (h : Keeps k s) :
    Keeps k (State.keyingFails s p) := by
  unfold State.keyingFails
  repeat' first
    | with_reducible assumption
    | with_reducible apply State.addReg_keeps
    | with_reducible apply State.cryptMismatch_keeps
    | split
    | with_reducible apply Keeps.ite
    | (intro)

theorem State.recordPeer_keeps {k : State} {s : State} {p : ℕ} {r : Training} (h : Keeps k s) :
    Keeps k (State.recordPeer s p r) := by
  unfold State.recordPeer
  repeat' first
    | with_reducible assumption
    | with_reducible apply State.setReg_keeps
    | split
    | with_reducible apply Keeps.ite
    | (intro)

theorem State.endTraining_keeps {k : State} {s : State} {p : ℕ} {r : Training} (h : Keeps k s) :
    Keeps k (State.endTraining s p r) := by
  unfold State.endTraining
  repeat' first
    | extract_lets
    | with_reducible assumption
    | with_reducible apply State.addReg_keeps
    | with_reducible apply State.retrainFailed_keeps
    | with_reducible apply State.portOff_keeps
    | with_reducible apply State.setReg_keeps
    | with_reducible apply State.portFail_keeps
    | with_reducible apply State.recordPeer_keeps
    | with_reducible apply State.setBit_keeps
    | with_reducible apply State.keyingFails_keeps
    | with_reducible apply State.emit_keeps
    | with_reducible apply State.setPortState_keeps
    | with_reducible apply State.cryptMismatch_keeps
    | with_reducible apply State.portComesUp_keeps
    | split
    | with_reducible apply Keeps.ite
    | (intro)
    | dsimp +zetaDelta only

theorem State.encapsulate_keeps {k : State} {s : State} {p : ℕ} (h : Keeps k s) :
    Keeps k (State.encapsulate s p) := by
  unfold State.encapsulate
  repeat' first
    | extract_lets
    | with_reducible assumption
    | with_reducible apply State.draw_keeps
    | with_reducible apply State.emit_keeps
    | with_reducible apply State.modPort_keeps
    | split
    | with_reducible apply Keeps.ite
    | with_reducible refine Keeps.of_snd (by assumption) ?_
    | with_reducible refine Keeps.of_fst (by assumption) ?_
    | with_reducible refine Keeps.of_snd (by assumption) ?_
    | (intro)
    | fail_if_no_progress with_reducible apply Keeps.update.mpr

theorem State.sendCiphertext_keeps {k : State} {s : State} {p : Nat} (h : Keeps k s) :
    Keeps k (State.sendCiphertext s p) := by
  unfold State.sendCiphertext
  repeat' first
    | with_reducible assumption
    | with_reducible apply State.emit_keeps
    | split
    | with_reducible apply Keeps.ite
    | (intro)
    | fail_if_no_progress with_reducible apply Keeps.update.mpr

theorem State.injectKey_keeps {k : State} {s : State} {p : Nat} (h : Keeps k s) :
    Keeps k (State.injectKey s p) := by
  unfold State.injectKey
  repeat' first
    | extract_lets
    | with_reducible assumption
    | with_reducible apply State.injectOn_keeps
    | split
    | with_reducible apply Keeps.ite
    | (intro)
    | fail_if_no_progress with_reducible apply Keeps.update.mpr

theorem State.rekeyed_keeps {k : State} {s : State} {p : ℕ} {ct : List Byte} (h : Keeps k s) :
    Keeps k (State.rekeyed s p ct) := by
  unfold State.rekeyed
  repeat' first
    | extract_lets
    | with_reducible assumption
    | with_reducible apply State.injectKey_keeps
    | with_reducible apply State.encapsulate_keeps
    | with_reducible apply State.modPort_keeps
    | split
    | with_reducible apply Keeps.ite
    | (intro)
    | fail_if_no_progress with_reducible apply Keeps.update.mpr
    | dsimp +zetaDelta only

theorem State.markFabric_keeps {k : State} {s : State} (h : Keeps k s) :
    Keeps k (State.markFabric s) := by
  unfold State.markFabric
  repeat' first
    | with_reducible assumption
    | with_reducible apply State.markRetried_keeps
    | split
    | with_reducible apply Keeps.ite
    | (intro)
    | fail_if_no_progress with_reducible apply Keeps.update.mpr

theorem State.askRetry_keeps {k : State} {s : State} {p : ℕ} (h : Keeps k s) :
    Keeps k (State.askRetry s p) := by
  unfold State.askRetry
  repeat' first
    | extract_lets
    | with_reducible assumption
    | with_reducible apply State.markFabric_keeps
    | with_reducible apply State.modPort_keeps
    | with_reducible apply State.addReg_keeps
    | with_reducible apply State.record_keeps
    | with_reducible apply State.setBit_keeps
    | with_reducible apply State.portDown_keeps
    | with_reducible apply State.emit_keeps
    | split
    | with_reducible apply Keeps.ite
    | (intro)
    | fail_if_no_progress with_reducible apply Keeps.update.mpr

theorem State.tagFails_keeps {k : State} {s : State} {p : ℕ} (h : Keeps k s) :
    Keeps k (State.tagFails s p) := by
  unfold State.tagFails
  repeat' first
    | extract_lets
    | with_reducible assumption
    | with_reducible apply State.record_keeps
    | with_reducible apply State.addReg_keeps
    | with_reducible apply State.modPort_keeps
    | with_reducible apply State.portDown_keeps
    | with_reducible apply State.askRetry_keeps
    | split
    | with_reducible apply Keeps.ite
    | (intro)
    | fail_if_no_progress with_reducible apply Keeps.update.mpr

theorem State.takePackets_keeps {k : State} {s : State} {p : ℕ} {a2 : ℕ} (h : Keeps k s) :
    Keeps k (State.takePackets s p a2) := by
  induction a2 generalizing s with
  | zero => exact h
  | succ n ih =>
    unfold State.takePackets
    repeat' first
      | extract_lets
      | with_reducible apply ih
      | with_reducible assumption
      | with_reducible apply State.countIn_keeps
      | with_reducible apply State.rekeyed_keeps
      | with_reducible apply State.modPort_keeps
      | with_reducible apply State.record_keeps
      | with_reducible apply State.addReg_keeps
      | split
      | with_reducible apply Keeps.ite
      | (intro)
      | fail_if_no_progress with_reducible apply Keeps.update.mpr

theorem State.takeFrame_keeps {k : State} {s : State} {p : ℕ} {f : Frame} {stream : List Byte} (h : Keeps k s) :
    Keeps k (State.takeFrame s p f stream) := by
  unfold State.takeFrame
  repeat' first
    | extract_lets
    | with_reducible assumption
    | with_reducible apply State.nextFrame_keeps
    | with_reducible apply State.sendFrames_keeps
    | with_reducible apply State.modPort_keeps
    | with_reducible apply State.takePackets_keeps
    | split
    | with_reducible apply Keeps.ite
    | (intro)
    | fail_if_no_progress with_reducible apply Keeps.update.mpr

theorem State.frameFails_keeps {k : State} {s : State} {p : ℕ} {f : Frame} (h : Keeps k s) :
    Keeps k (State.frameFails s p f) := by
  unfold State.frameFails
  repeat' first
    | extract_lets
    | with_reducible assumption
    | with_reducible apply State.askRetry_keeps
    | split
    | with_reducible apply Keeps.ite
    | (intro)

theorem State.frameGood_keeps {k : State} {s : State} {p : ℕ} {f : Frame} {stream : List Byte} (h : Keeps k s) :
    Keeps k (State.frameGood s p f stream) := by
  unfold State.frameGood
  repeat' first
    | extract_lets
    | with_reducible assumption
    | with_reducible apply State.takeFrame_keeps
    | with_reducible apply State.askRetry_keeps
    | split
    | with_reducible apply Keeps.ite
    | (intro)

theorem State.receiveFrame_keeps {k : State} {s : State} {p : ℕ} {f : Frame} (h : Keeps k s) :
    Keeps k (State.receiveFrame s p f) := by
  unfold State.receiveFrame
  repeat' first
    | extract_lets
    | with_reducible assumption
    | with_reducible apply State.modPort_keeps
    | with_reducible apply State.addReg_keeps
    | with_reducible apply State.setPort_keeps
    | with_reducible apply State.frameFails_keeps
    | with_reducible apply State.tagFails_keeps
    | with_reducible apply State.frameGood_keeps
    | split
    | with_reducible apply Keeps.ite
    | (intro)
    | fail_if_no_progress with_reducible apply Keeps.update.mpr
    | dsimp +zetaDelta only

theorem State.resendFrom_keeps {k : State} {s : State} {p : ℕ} {fseq : ℕ} (h : Keeps k s) :
    KeepsO k (State.resendFrom s p fseq) := by
  unfold State.resendFrom
  repeat' first
    | extract_lets
    | with_reducible exact KeepsO.none
    | with_reducible apply KeepsO.some
    | with_reducible assumption
    | with_reducible apply State.portDown_keeps
    | with_reducible apply State.markFabric_keeps
    | with_reducible apply State.modPort_keeps
    | with_reducible apply State.resendFrame_keeps
    | with_reducible apply Keeps.foldl
    | with_reducible apply Keeps.foldl1
    | with_reducible apply Keeps.foldl2
    | with_reducible apply KeepsO.map1
    | with_reducible apply KeepsO.map2
    | split
    | with_reducible apply KeepsO.ite
    | with_reducible apply Keeps.ite
    | (intro)
    | fail_if_no_progress with_reducible apply Keeps.update.mpr
    | dsimp +zetaDelta only

theorem State.keyingDone_keeps {k : State} {s : State} {p : ℕ} {ct : List Byte} (h : Keeps k s) :
    Keeps k (State.keyingDone s p ct) := by
  unfold State.keyingDone
  repeat' first
    | extract_lets
    | with_reducible assumption
    | with_reducible apply State.modPort_keeps
    | with_reducible apply State.setPortPeer_keeps
    | with_reducible apply State.setBit_keeps
    | with_reducible apply State.portComesUp_keeps
    | split
    | with_reducible apply Keeps.ite
    | (intro)
    | fail_if_no_progress with_reducible apply Keeps.update.mpr

theorem State.writePortCtrl_keeps {k : State} {s : State} {p : ℕ} {v : ℕ} (h : Keeps k s) :
    Keeps k (State.writePortCtrl s p v) := by
  unfold State.writePortCtrl
  repeat' first
    | extract_lets
    | with_reducible assumption
    | with_reducible apply State.whWrite_keeps
    | with_reducible apply State.setReg_keeps
    | with_reducible apply State.portOff_keeps
    | with_reducible apply State.setPortState_keeps
    | split
    | with_reducible apply Keeps.ite
    | (intro)

end Sys2Proof.Machine
end

