-- ==== Sys2Proof/Laws/KeptReliability.lean ====
section
/-! SUPPORT. What the operations of Machine/Reliability.lean keep (Laws/Kept.lean). -/

set_option Elab.async false

set_option linter.unusedTactic false
set_option linter.unreachableTactic false

namespace Sys2Proof.Machine

open Sys2Proof

theorem State.modRru_keeps {k : State} {s : State} {f : Rru → Rru} (h : Keeps k s) :
    Keeps k (State.modRru s f) := by
  unfold State.modRru
  repeat' first
    | with_reducible assumption
    | split
    | with_reducible apply Keeps.ite
    | (intro)
    | fail_if_no_progress with_reducible apply Keeps.update.mpr

theorem State.abortToward_keeps {k : State} {s : State} (h : Keeps k s) :
    Keeps k (State.abortToward s) := by
  unfold State.abortToward
  repeat' first
    | extract_lets
    | with_reducible assumption
    | with_reducible apply State.countOut_keeps
    | with_reducible apply State.injectOn_keeps
    | with_reducible apply State.injectPkt_keeps
    | with_reducible apply Keeps.foldl
    | split
    | with_reducible apply Keeps.ite
    | (intro)
    | fail_if_no_progress with_reducible apply Keeps.update.mpr

theorem State.flushAborts_keeps {k : State} {s : State} (h : Keeps k s) :
    Keeps k (State.flushAborts s) := by
  unfold State.flushAborts
  repeat' first
    | extract_lets
    | with_reducible assumption
    | with_reducible apply Keeps.foldl1
    | with_reducible apply Keeps.foldl2
    | with_reducible apply Keeps.getD
    | with_reducible apply State.forward_keeps
    | with_reducible apply Keeps.foldl
    | split
    | with_reducible apply Keeps.ite
    | with_reducible refine Keeps.of_some (by assumption) ?_
    | (intro)
    | fail_if_no_progress with_reducible apply Keeps.update.mpr
    | dsimp +zetaDelta only

theorem State.stopEngines_keeps {k : State} {s : State} (h : Keeps k s) :
    Keeps k (State.stopEngines s) := by
  unfold State.stopEngines
  repeat' first
    | with_reducible assumption
    | split
    | with_reducible apply Keeps.ite
    | (intro)
    | fail_if_no_progress with_reducible apply Keeps.update.mpr

theorem State.deviceStop_keeps {k : State} {s : State} {kind : ℕ} {unit : ℕ} {detail : ℕ} {lost : Option ℕ} (h :
    Keeps k s) :
    Keeps k (State.deviceStop s kind unit detail lost) := by
  unfold State.deviceStop
  repeat' first
    | extract_lets
    | with_reducible assumption
    | with_reducible apply State.stopEngines_keeps
    | with_reducible apply State.abortToward_keeps
    | with_reducible apply State.record_keeps
    | with_reducible apply State.addReg_keeps
    | with_reducible apply State.alert_keeps
    | with_reducible apply State.setBit_keeps
    | split
    | with_reducible apply Keeps.ite
    | (intro)

theorem State.dropPatching_keeps {k : State} {s : State} {k_ : Nat} (h : Keeps k s) :
    Keeps k (State.dropPatching s k_) := by
  unfold State.dropPatching
  repeat' first
    | with_reducible assumption
    | with_reducible apply State.modRru_keeps
    | split
    | with_reducible apply Keeps.ite
    | (intro)
    | fail_if_no_progress with_reducible apply Keeps.update.mpr

theorem State.loseCore_keeps {k : State} {s : State} {k_ : ℕ} (h : Keeps k s) :
    Keeps k (State.loseCore s k_) := by
  unfold State.loseCore
  repeat' first
    | extract_lets
    | with_reducible assumption
    | with_reducible apply State.dropPatching_keeps
    | with_reducible apply State.modRru_keeps
    | with_reducible apply State.setBit_keeps
    | with_reducible apply State.record_keeps
    | split
    | with_reducible apply Keeps.ite
    | (intro)
    | fail_if_no_progress with_reducible apply Keeps.update.mpr

theorem State.loseWaiting_keeps {k : State} {s : State} {k_ : ℕ} (h : Keeps k s) :
    Keeps k (State.loseWaiting s k_) := by
  unfold State.loseWaiting
  repeat' first
    | with_reducible assumption
    | with_reducible apply State.loseCore_keeps
    | with_reducible apply Keeps.foldl
    | with_reducible apply Keeps.foldl1
    | with_reducible apply Keeps.foldl2
    | split
    | with_reducible apply Keeps.ite
    | (intro)

theorem State.fenceCore_keeps {k : State} {s : State} {k_ : ℕ} (h : Keeps k s) :
    Keeps k (State.fenceCore s k_) := by
  unfold State.fenceCore
  repeat' first
    | extract_lets
    | with_reducible assumption
    | with_reducible apply Keeps.foldl1
    | with_reducible apply Keeps.foldl2
    | with_reducible apply State.record_keeps
    | with_reducible apply State.setReg_keeps
    | with_reducible apply State.setCore_keeps
    | with_reducible apply State.listRun_keeps
    | with_reducible apply State.addReg_keeps
    | with_reducible apply State.setBit_keeps
    | with_reducible apply State.modRru_keeps
    | with_reducible apply State.loseWaiting_keeps
    | with_reducible apply Keeps.foldl
    | split
    | with_reducible apply Keeps.ite
    | (intro)
    | fail_if_no_progress with_reducible apply Keeps.update.mpr

theorem State.coreFault_keeps {k : State} {s : State} {k_ : ℕ} {c : CoreCause} (h : Keeps k s) :
    KeepsO k (State.coreFault s k_ c) := by
  unfold State.coreFault
  repeat' first
    | extract_lets
    | with_reducible exact KeepsO.none
    | with_reducible apply KeepsO.some
    | with_reducible assumption
    | with_reducible apply KeepsO1.some
    | with_reducible apply KeepsO1.none
    | with_reducible apply KeepsO2.some
    | with_reducible apply KeepsO2.none
    | with_reducible apply State.fenceCore_keeps
    | with_reducible apply State.record_keeps
    | with_reducible apply State.modRru_keeps
    | with_reducible apply State.addReg_keeps
    | with_reducible apply State.poisonLine_keeps
    | split
    | with_reducible apply KeepsO.ite
    | with_reducible apply Keeps.ite
    | (intro)
    | fail_if_no_progress with_reducible apply Keeps.update.mpr
    | dsimp +zetaDelta only

theorem State.writePatch_keeps {k : State} {s : State} {v : ℕ} (h : Keeps k s) :
    Keeps k (State.writePatch s v) := by
  unfold State.writePatch
  repeat' first
    | extract_lets
    | with_reducible assumption
    | with_reducible apply State.setReg_keeps
    | with_reducible apply State.modRru_keeps
    | split
    | with_reducible apply Keeps.ite
    | (intro)
    | fail_if_no_progress with_reducible apply Keeps.update.mpr

theorem State.fencedTask_keeps {k : State} {s : State} {t : Task} (h : Keeps k s) :
    Keeps k (State.fencedTask s t) := by
  unfold State.fencedTask
  repeat' first
    | extract_lets
    | with_reducible assumption
    | with_reducible apply State.dropXfers_keeps
    | with_reducible apply State.modTask_keeps
    | with_reducible apply State.scrambleOutputs_keeps
    | split
    | with_reducible apply Keeps.ite
    | (intro)
    | fail_if_no_progress with_reducible apply Keeps.update.mpr

theorem State.trigGo_keeps {k : State} {s : State} {full : Bool} (h : Keeps k s) :
    Keeps k (State.trigGo s full) := by
  unfold State.trigGo
  repeat' first
    | extract_lets
    | with_reducible assumption
    | with_reducible apply State.setBit_keeps
    | with_reducible apply State.modRru_keeps
    | split
    | with_reducible apply Keeps.ite
    | (intro)
    | fail_if_no_progress with_reducible apply Keeps.update.mpr

theorem State.trigCopy_keeps {k : State} {s : State} {number : ℕ} {dst : ℕ} {page : ℕ} (h : Keeps k s) :
    Keeps k (State.trigCopy s number dst page) := by
  unfold State.trigCopy
  repeat' first
    | extract_lets
    | with_reducible assumption
    | with_reducible apply State.noteRow_keeps
    | with_reducible apply State.record_keeps
    | with_reducible apply State.putPoisoned_keeps
    | with_reducible apply State.putBytes_keeps
    | with_reducible apply Keeps.foldl
    | with_reducible apply Keeps.foldl1
    | with_reducible apply Keeps.foldl2
    | split
    | with_reducible apply Keeps.ite
    | (intro)
    | fail_if_no_progress with_reducible apply Keeps.update.mpr

theorem State.trigWrite_keeps {k : State} {s : State} {t : Trig} (h : Keeps k s) :
    Keeps k (State.trigWrite s t) := by
  unfold State.trigWrite
  repeat' first
    | extract_lets
    | with_reducible assumption
    | with_reducible apply Keeps.foldl1
    | with_reducible apply Keeps.foldl2
    | with_reducible apply State.startSigning_keeps
    | with_reducible apply State.putBytes_keeps
    | with_reducible apply State.trigCopy_keeps
    | with_reducible apply State.setBit_keeps
    | with_reducible apply State.setReg_keeps
    | with_reducible apply State.irq_keeps
    | with_reducible apply State.modRru_keeps
    | with_reducible apply Keeps.foldl
    | split
    | with_reducible apply Keeps.ite
    | (intro)
    | fail_if_no_progress with_reducible apply Keeps.update.mpr

theorem State.signTrig_keeps {k : State} {s : State} {t : Trig} (h : Keeps k s) :
    Keeps k (State.signTrig s t) := by
  unfold State.signTrig
  repeat' first
    | extract_lets
    | with_reducible assumption
    | with_reducible apply State.identitySign_keeps
    | with_reducible apply State.putBytes_keeps
    | split
    | with_reducible apply Keeps.ite
    | with_reducible refine Keeps.of_fst (by assumption) ?_
    | with_reducible refine Keeps.of_snd (by assumption) ?_
    | (intro)
    | fail_if_no_progress with_reducible apply Keeps.update.mpr

theorem State.loadRegs_keeps {k : State} {s : State} {n : ℕ} {w : ℕ} {a : ℕ} {f : ℕ → ℕ} (h : Keeps k s) :
    Keeps k (State.loadRegs s n w a f) := by
  unfold State.loadRegs
  repeat' first
    | with_reducible assumption
    | with_reducible apply State.setReg_keeps
    | with_reducible apply Keeps.foldl
    | split
    | with_reducible apply Keeps.ite
    | (intro)

theorem State.restoreFrom_keeps {k : State} {s : State} {a : ℕ} (h : Keeps k s) :
    Keeps k (State.restoreFrom s a) := by
  unfold State.restoreFrom
  repeat' first
    | extract_lets
    | with_reducible assumption
    | with_reducible apply Keeps.foldl1
    | with_reducible apply Keeps.foldl2
    | with_reducible apply State.loadRegs_keeps
    | with_reducible apply State.setRemain_keeps
    | with_reducible apply Keeps.foldl
    | split
    | with_reducible apply Keeps.ite
    | (intro)
    | fail_if_no_progress with_reducible apply Keeps.update.mpr

theorem State.restore_keeps {k : State} {s : State} (h : Keeps k s) :
    Keeps k (State.restore s) := by
  unfold State.restore
  repeat' first
    | extract_lets
    | with_reducible assumption
    | with_reducible apply State.restoreFrom_keeps
    | with_reducible apply State.setBit_keeps
    | split
    | with_reducible apply Keeps.ite
    | (intro)

theorem State.writeDigestReq_keeps {k : State} {s : State} {v : ℕ} (h : Keeps k s) :
    Keeps k (State.writeDigestReq s v) := by
  unfold State.writeDigestReq
  repeat' first
    | extract_lets
    | with_reducible assumption
    | with_reducible apply State.setFld_keeps
    | with_reducible apply State.modRru_keeps
    | with_reducible apply State.setBit_keeps
    | split
    | with_reducible apply Keeps.ite
    | (intro)
    | fail_if_no_progress with_reducible apply Keeps.update.mpr

theorem State.writeLogTail_keeps {k : State} {s : State} {v : ℕ} (h : Keeps k s) :
    Keeps k (State.writeLogTail s v) := by
  unfold State.writeLogTail
  repeat' first
    | extract_lets
    | with_reducible assumption
    | with_reducible apply State.setReg_keeps
    | with_reducible apply State.setBit_keeps
    | split
    | with_reducible apply Keeps.ite
    | (intro)

end Sys2Proof.Machine
end

