-- ==== Sys2Proof/Laws/KeptControl.lean ====
section
/-! SUPPORT. What the operations of Machine/Control.lean keep (Laws/Kept.lean). -/

set_option Elab.async false

set_option linter.unusedTactic false
set_option linter.unreachableTactic false

namespace Sys2Proof.Machine

open Sys2Proof

theorem State.completeNow_keeps {k : State} {s : State} {q : ℕ} {err : ℕ} (h : Keeps k s) :
    Keeps k (State.completeNow s q err) := by
  unfold State.completeNow
  repeat' first
    | extract_lets
    | with_reducible assumption
    | with_reducible apply State.takeUpReplies_keeps
    | with_reducible apply State.endTask_keeps
    | with_reducible apply State.finish_keeps
    | split
    | with_reducible apply Keeps.ite
    | (intro)
    | fail_if_no_progress with_reducible apply Keeps.update.mpr
    | dsimp +zetaDelta only

theorem State.lcResume_keeps {k : State} {s : State} (h : Keeps k s) :
    Keeps k (State.lcResume s) := by
  unfold State.lcResume
  repeat' first
    | extract_lets
    | with_reducible assumption
    | with_reducible apply State.setRemain_keeps
    | with_reducible apply Keeps.foldl
    | split
    | with_reducible apply Keeps.ite
    | (intro)
    | fail_if_no_progress with_reducible apply Keeps.update.mpr

theorem State.beforeResume_keeps {k : State} {s : State} {f : ℕ} {control : Bool} (h : Keeps k s) :
    Keeps k (State.beforeResume s f control) := by
  unfold State.beforeResume
  repeat' first
    | with_reducible assumption
    | with_reducible apply State.applyResidency_keeps
    | with_reducible apply State.lcResume_keeps
    | with_reducible apply State.restore_keeps
    | split
    | with_reducible apply Keeps.ite
    | (intro)

theorem State.afterResume_keeps {k : State} {s : State} {f : ℕ} (h : Keeps k s) :
    Keeps k (State.afterResume s f) := by
  unfold State.afterResume
  repeat' first
    | with_reducible assumption
    | with_reducible apply State.retireImages_keeps
    | with_reducible apply State.takeUpReplies_keeps
    | with_reducible apply State.startPreempts_keeps
    | with_reducible apply State.resumeParked_keeps
    | with_reducible apply State.smsResume_keeps
    | split
    | with_reducible apply Keeps.ite
    | (intro)
    | fail_if_no_progress with_reducible apply Keeps.update.mpr

theorem State.resumeNow_keeps {k : State} {s : State} {f : ℕ} {control : Bool} (h : Keeps k s) :
    Keeps k (State.resumeNow s f control) := by
  unfold State.resumeNow
  repeat' first
    | with_reducible assumption
    | with_reducible apply State.afterResume_keeps
    | with_reducible apply State.setBit_keeps
    | with_reducible apply State.resumeEntry_keeps
    | with_reducible apply State.beforeResume_keeps
    | split
    | with_reducible apply Keeps.ite
    | (intro)

theorem State.setResume_keeps {k : State} {s : State} {f : ℕ} {b : Bool} (h : Keeps k s) :
    Keeps k (State.setResume s f b) := by
  unfold State.setResume
  repeat' first
    | with_reducible assumption
    | with_reducible apply State.setBit_keeps
    | split
    | with_reducible apply Keeps.ite
    | (intro)
    | fail_if_no_progress with_reducible apply Keeps.update.mpr

theorem State.act_keeps {k : State} {s : State} {a1 : Waiting} (h : Keeps k s) :
    Keeps k (State.act s a1) := by
  unfold State.act
  repeat' first
    | extract_lets
    | with_reducible assumption
    | with_reducible apply Keeps.foldl1
    | with_reducible apply Keeps.foldl2
    | with_reducible apply State.setResume_keeps
    | with_reducible apply State.resumeNow_keeps
    | with_reducible apply State.completeNow_keeps
    | with_reducible apply State.setReg_keeps
    | with_reducible apply State.epochEntry_keeps
    | with_reducible apply State.setBit_keeps
    | with_reducible apply State.event_keeps
    | with_reducible apply State.openDarning_keeps
    | with_reducible apply State.darnAll_keeps
    | with_reducible apply State.closeDarning_keeps
    | with_reducible apply State.publishPrepared_keeps
    | with_reducible apply State.publishFinish_keeps
    | with_reducible apply State.publishCommit_keeps
    | with_reducible apply Keeps.foldl
    | split
    | with_reducible apply Keeps.ite
    | (intro)
    | fail_if_no_progress with_reducible apply Keeps.update.mpr
    | dsimp +zetaDelta only

theorem State.serve_keeps {k : State} {s : State} {a1 : ℕ} (h : Keeps k s) :
    Keeps k (State.serve s a1) := by
  induction a1 generalizing s with
  | zero => exact h
  | succ n ih =>
    unfold State.serve
    repeat' first
      | with_reducible assumption
      | with_reducible apply ih
      | with_reducible apply State.act_keeps
      | split
      | with_reducible apply Keeps.ite
      | (intro)
      | fail_if_no_progress with_reducible apply Keeps.update.mpr

theorem State.serveWaiting_keeps {k : State} {s : State} (h : Keeps k s) :
    Keeps k (State.serveWaiting s) := by
  unfold State.serveWaiting
  repeat' first
    | with_reducible assumption
    | with_reducible apply State.serve_keeps
    | split
    | with_reducible apply Keeps.ite
    | (intro)

theorem State.arise_keeps {k : State} {s : State} {w : Waiting} (h : Keeps k s) :
    Keeps k (State.arise s w) := by
  unfold State.arise
  repeat' first
    | with_reducible assumption
    | with_reducible apply State.serveWaiting_keeps
    | with_reducible apply State.wait_keeps
    | split
    | with_reducible apply Keeps.ite
    | (intro)

theorem State.requestHalt_keeps {k : State} {s : State} {f : ℕ} (h : Keeps k s) :
    Keeps k (State.requestHalt s f) := by
  unfold State.requestHalt
  repeat' first
    | extract_lets
    | with_reducible assumption
    | with_reducible apply Keeps.foldl1
    | with_reducible apply Keeps.foldl2
    | with_reducible apply State.setBit_keeps
    | with_reducible apply State.preemptTask_keeps
    | with_reducible apply Keeps.foldl
    | split
    | with_reducible apply Keeps.ite
    | (intro)
    | fail_if_no_progress with_reducible apply Keeps.update.mpr

theorem State.haltComplete_keeps {k : State} {s : State} {f : ℕ} (h : Keeps k s) :
    Keeps k (State.haltComplete s f) := by
  unfold State.haltComplete
  repeat' first
    | extract_lets
    | with_reducible assumption
    | with_reducible apply State.setBit_keeps
    | with_reducible apply State.completeNow_keeps
    | with_reducible apply State.arise_keeps
    | with_reducible apply Keeps.foldl
    | split
    | with_reducible apply Keeps.ite
    | (intro)
    | fail_if_no_progress with_reducible apply Keeps.update.mpr
    | dsimp +zetaDelta only

theorem State.controlResume_keeps {k : State} {s : State} {f : ℕ} (h : Keeps k s) :
    Keeps k (State.controlResume s f) := by
  unfold State.controlResume
  repeat' first
    | extract_lets
    | with_reducible assumption
    | with_reducible apply State.serveWaiting_keeps
    | with_reducible apply State.resumeNow_keeps
    | with_reducible apply State.openEntry_keeps
    | with_reducible apply State.arise_keeps
    | with_reducible apply State.setResume_keeps
    | split
    | with_reducible apply Keeps.ite
    | (intro)
    | fail_if_no_progress with_reducible apply Keeps.update.mpr

theorem State.tryFence_keeps {k : State} {s : State} {t : Task} (h : Keeps k s) :
    Keeps k (State.tryFence s t) := by
  unfold State.tryFence
  repeat' first
    | extract_lets
    | with_reducible assumption
    | with_reducible apply State.completeNow_keeps
    | split
    | with_reducible apply Keeps.ite
    | (intro)
    | fail_if_no_progress with_reducible apply Keeps.update.mpr

theorem State.writeEventAdd_keeps {k : State} {s : State} {v : ℕ} (h : Keeps k s) :
    Keeps k (State.writeEventAdd s v) := by
  unfold State.writeEventAdd
  repeat' first
    | with_reducible assumption
    | with_reducible apply State.eventAdd_keeps
    | split
    | with_reducible apply Keeps.ite
    | (intro)

theorem State.writeJournalTail_keeps {k : State} {s : State} {v : ℕ} (h : Keeps k s) :
    Keeps k (State.writeJournalTail s v) := by
  unfold State.writeJournalTail
  repeat' first
    | extract_lets
    | with_reducible assumption
    | with_reducible apply State.setReg_keeps
    | with_reducible apply State.serveWaiting_keeps
    | with_reducible apply State.updateFull_keeps
    | split
    | with_reducible apply Keeps.ite
    | (intro)
    | fail_if_no_progress with_reducible apply Keeps.update.mpr

theorem State.writeJsigTail_keeps {k : State} {s : State} {v : ℕ} (h : Keeps k s) :
    Keeps k (State.writeJsigTail s v) := by
  unfold State.writeJsigTail
  repeat' first
    | with_reducible assumption
    | with_reducible apply State.startSigning_keeps
    | with_reducible apply State.setReg_keeps
    | split
    | with_reducible apply Keeps.ite
    | (intro)

theorem State.writeLc_keeps {k : State} {s : State} {n : ℕ} {v : ℕ} (h : Keeps k s) :
    Keeps k (State.writeLc s n v) := by
  unfold State.writeLc
  repeat' first
    | with_reducible assumption
    | with_reducible apply State.whWrite_keeps
    | with_reducible apply State.setReg_keeps
    | with_reducible apply State.setBit_keeps
    | split
    | with_reducible apply Keeps.ite
    | (intro)

theorem State.writeSchCtrl_keeps {k : State} {s : State} {v : ℕ} (h : Keeps k s) :
    Keeps k (State.writeSchCtrl s v) := by
  unfold State.writeSchCtrl
  repeat' first
    | extract_lets
    | with_reducible assumption
    | with_reducible apply State.whWrite_keeps
    | with_reducible apply State.setBit_keeps
    | with_reducible apply State.setReg_keeps
    | split
    | with_reducible apply Keeps.ite
    | (intro)

theorem State.returnNext_keeps {k : State} {s : State} {q : ℕ} (h : Keeps k s) :
    Keeps k (State.returnNext s q) := by
  unfold State.returnNext
  repeat' first
    | with_reducible assumption
    | with_reducible apply State.listRun_keeps
    | with_reducible apply State.setCore_keeps
    | with_reducible apply Keeps.foldl
    | split
    | with_reducible apply Keeps.ite
    | (intro)
    | fail_if_no_progress with_reducible apply Keeps.update.mpr

theorem State.saveContext_keeps {k : State} {s : State} {t : Task} {base : Nat} (h : Keeps k s) :
    Keeps k (State.saveContext s t base) := by
  unfold State.saveContext
  repeat' first
    | extract_lets
    | with_reducible assumption
    | with_reducible apply Keeps.foldl
    | with_reducible apply Keeps.foldl1
    | with_reducible apply Keeps.foldl2
    | with_reducible apply State.putBytes_keeps
    | with_reducible apply State.scramble_keeps
    | with_reducible apply State.setXfer_keeps
    | split
    | with_reducible apply Keeps.ite
    | (intro)
    | fail_if_no_progress with_reducible apply Keeps.update.mpr

theorem State.park_keeps {k : State} {s : State} {t : Task} (h : Keeps k s) :
    Keeps k (State.park s t) := by
  unfold State.park
  repeat' first
    | extract_lets
    | with_reducible assumption
    | with_reducible apply State.saveContext_keeps
    | with_reducible apply State.accrue_keeps
    | with_reducible apply State.scramble_keeps
    | with_reducible apply State.setTask_keeps
    | with_reducible apply State.addReg_keeps
    | with_reducible apply State.returnNext_keeps
    | split
    | with_reducible apply Keeps.ite
    | with_reducible refine Keeps.of_fst (by assumption) ?_
    | (intro)
    | fail_if_no_progress with_reducible apply Keeps.update.mpr
    | dsimp +zetaDelta only

theorem State.sameTurn_keeps {k : State} {s : State} {e : ℕ} {j : ℕ} (h : Keeps k s) :
    Keeps k (State.sameTurn s e j) := by
  unfold State.sameTurn
  repeat' first
    | with_reducible assumption
    | with_reducible apply State.setDeficit_keeps
    | split
    | with_reducible apply Keeps.ite
    | (intro)

theorem State.endTurnHeld_keeps {k : State} {s : State} {e : ℕ} {j : ℕ} {t : Task} (h : Keeps k s) :
    Keeps k (State.endTurnHeld s e j t) := by
  unfold State.endTurnHeld
  repeat' first
    | extract_lets
    | with_reducible assumption
    | with_reducible apply State.sameTurn_keeps
    | with_reducible apply State.preemptTask_keeps
    | with_reducible apply State.addReg_keeps
    | split
    | with_reducible apply Keeps.ite
    | (intro)
    | fail_if_no_progress with_reducible apply Keeps.update.mpr

end Sys2Proof.Machine
end

