-- ==== Sys2Proof/Laws/KeptPower.lean ====
section
/-! SUPPORT. What the operations of Machine/Power.lean keep (Laws/Kept.lean). -/

set_option Elab.async false

set_option linter.unusedTactic false
set_option linter.unreachableTactic false

namespace Sys2Proof.Machine

open Sys2Proof

theorem State.modPower_keeps {k : State} {s : State} {f : Power → Power} (h : Keeps k s) :
    Keeps k (State.modPower s f) := by
  unfold State.modPower
  repeat' first
    | with_reducible assumption
    | split
    | with_reducible apply Keeps.ite
    | (intro)
    | fail_if_no_progress with_reducible apply Keeps.update.mpr

/-- Fuses that were being blown stand at or above the old minimum (R478). -/
theorem State.le_settledFuse (s : State) : s.sec.svnFuse ≤ s.settledFuse := by
  unfold State.settledFuse
  split
  · exact Nat.le_add_right _ _
  · exact Nat.le_refl _

theorem State.unpowered_keeps {k s : State} {on : Bool} (h : Keeps k s) : Keeps k (s.unpowered on) :=
  ⟨h.pending, h.variant, fun c =>
    ⟨⟨List.Pairwise.nil, by intro c hc; cases hc⟩, filter_wf (h.canonical c).mem, (h.canonical c).poison.filter _⟩,
    .inr rfl, fun o => ⟨fun _ hv => (nomatch hv), Nat.le_trans (h.fuse o).2 s.le_settledFuse⟩⟩

theorem State.keepRecord_keeps {k : State} {s : State} {r : List Byte} (h : Keeps k s) :
    Keeps k (State.keepRecord s r) := by
  unfold State.keepRecord
  repeat' first
    | with_reducible assumption
    | with_reducible apply State.setReg_keeps
    | with_reducible apply Keeps.foldl
    | split
    | with_reducible apply Keeps.ite
    | (intro)

theorem State.startQuench_keeps {k : State} {s : State} {cause : ℕ} (h : Keeps k s) :
    Keeps k (State.startQuench s cause) := by
  unfold State.startQuench
  repeat' first
    | extract_lets
    | with_reducible assumption
    | with_reducible apply State.keepRecord_keeps
    | with_reducible apply State.irq_keeps
    | with_reducible apply State.alert_keeps
    | with_reducible apply State.setBit_keeps
    | with_reducible apply State.modPower_keeps
    | with_reducible apply State.record_keeps
    | split
    | with_reducible apply Keeps.ite
    | (intro)
    | fail_if_no_progress with_reducible apply Keeps.update.mpr

theorem State.clearRegion_keeps {k : State} {s : State} {i : ℕ} (h : Keeps k s) :
    Keeps k (State.clearRegion s i) := by
  unfold State.clearRegion
  repeat' first
    | with_reducible assumption
    | with_reducible apply State.setReg_keeps
    | split
    | with_reducible apply Keeps.ite
    | (intro)

theorem State.cutPublish_keeps {k : State} {s : State} {b : Publish} (h : Keeps k s) :
    Keeps k (State.cutPublish s b) := by
  unfold State.cutPublish
  repeat' first
    | extract_lets
    | with_reducible assumption
    | with_reducible apply State.clearRegion_keeps
    | with_reducible apply State.freeImage_keeps
    | split
    | with_reducible apply Keeps.ite
    | (intro)

theorem State.abortTasks_keeps {k : State} {s : State} (h : Keeps k s) :
    Keeps k (State.abortTasks s) := by
  unfold State.abortTasks
  repeat' first
    | extract_lets
    | with_reducible assumption
    | with_reducible apply State.finishOne_keeps
    | with_reducible apply State.setTask_keeps
    | with_reducible apply State.scrambleOutputs_keeps
    | with_reducible apply Keeps.foldl
    | split
    | with_reducible apply Keeps.ite
    | (intro)
    | fail_if_no_progress with_reducible apply Keeps.update.mpr
    | dsimp +zetaDelta only

theorem State.dropTrig_keeps {k : State} {s : State} (h : Keeps k s) :
    Keeps k (State.dropTrig s) := by
  unfold State.dropTrig
  repeat' first
    | extract_lets
    | with_reducible assumption
    | with_reducible apply State.nextSigning_keeps
    | split
    | with_reducible apply Keeps.ite
    | (intro)
    | fail_if_no_progress with_reducible apply Keeps.update.mpr

theorem State.quenchStop_keeps {k : State} {s : State} (h : Keeps k s) :
    Keeps k (State.quenchStop s) := by
  unfold State.quenchStop
  repeat' first
    | extract_lets
    | with_reducible assumption
    | with_reducible apply Keeps.foldl1
    | with_reducible apply Keeps.foldl2
    | with_reducible apply State.dropTrig_keeps
    | with_reducible apply State.abortToward_keeps
    | with_reducible apply State.cutPublish_keeps
    | with_reducible apply State.stopEngines_keeps
    | with_reducible apply State.abortTasks_keeps
    | with_reducible apply State.keepRecord_keeps
    | with_reducible apply State.closeSegment_keeps
    | with_reducible apply State.event_keeps
    | with_reducible apply Keeps.foldl
    | split
    | with_reducible apply Keeps.ite
    | (intro)
    | fail_if_no_progress with_reducible apply Keeps.update.mpr

theorem State.vinFlags_keeps {k : State} {s : State} {was : Bool} (h : Keeps k s) :
    Keeps k (State.vinFlags s was) := by
  unfold State.vinFlags
  repeat' first
    | extract_lets
    | with_reducible assumption
    | with_reducible apply State.setFld_keeps
    | with_reducible apply State.setBit_keeps
    | with_reducible apply State.addReg_keeps
    | split
    | with_reducible apply Keeps.ite
    | (intro)

theorem State.vinRunning_keeps {k : State} {s : State} {mv : ℤ} (h : Keeps k s) :
    Keeps k (State.vinRunning s mv) := by
  unfold State.vinRunning
  repeat' first
    | extract_lets
    | with_reducible assumption
    | with_reducible apply State.vinFlags_keeps
    | with_reducible apply State.unpowered_keeps
    | with_reducible apply State.startQuench_keeps
    | split
    | with_reducible apply Keeps.ite
    | (intro)
    | fail_if_no_progress with_reducible apply Keeps.update.mpr

theorem State.vinOff_keeps {k : State} {s : State} {mv : ℤ} (h : Keeps k s) :
    Keeps k (State.vinOff s mv) := by
  unfold State.vinOff
  repeat' first
    | extract_lets
    | with_reducible assumption
    | with_reducible apply State.unpowered_keeps
    | split
    | with_reducible apply Keeps.ite
    | (intro)
    | fail_if_no_progress with_reducible apply Keeps.update.mpr

theorem State.updateGating_keeps {k : State} {s : State} (h : Keeps k s) :
    Keeps k (State.updateGating s) := by
  unfold State.updateGating
  repeat' first
    | with_reducible assumption
    | with_reducible apply State.setBit_keeps
    | split
    | with_reducible apply Keeps.ite
    | (intro)

theorem State.powerSample_keeps {k : State} {s : State} {w : ℕ} (h : Keeps k s) :
    Keeps k (State.powerSample s w) := by
  unfold State.powerSample
  repeat' first
    | extract_lets
    | with_reducible assumption
    | with_reducible apply State.modPower_keeps
    | with_reducible apply State.updateGating_keeps
    | with_reducible apply State.addReg_keeps
    | with_reducible apply State.setFld_keeps
    | split
    | with_reducible apply Keeps.ite
    | (intro)
    | fail_if_no_progress with_reducible apply Keeps.update.mpr

theorem State.trip_keeps {k s : State} {detail : Nat} (h : Keeps k s) : Keeps k (s.trip detail) := by
  unfold State.trip
  extract_lets s1 s2
  have h2 : Keeps k s2 :=
    Keeps.foldl (State.alert_keeps (State.setBit_keeps (State.deviceStop_keeps h)))
      fun _ _ hz => State.portOff_keeps hz
  have h3 : Keeps k (s2.setFld regGlbIslands 37 0 0) := State.setFld_keeps h2
  exact h3.mem_poison rfl rfl rfl filter_wf (List.Pairwise.filter _)

theorem State.driftDue_keeps {k : State} {s : State} (h : Keeps k s) :
    Keeps k (State.driftDue s) := by
  unfold State.driftDue
  repeat' first
    | extract_lets
    | with_reducible assumption
    | with_reducible apply Keeps.foldl1
    | with_reducible apply Keeps.foldl2
    | with_reducible apply State.modHbm_keeps
    | with_reducible apply Keeps.foldl
    | split
    | with_reducible apply Keeps.ite
    | (intro)
    | fail_if_no_progress with_reducible apply Keeps.update.mpr

theorem State.heatSample_keeps {k : State} {s : State} {j : Nat} {dies : List Nat} (h : Keeps k s) :
    Keeps k (State.heatSample s j dies) := by
  unfold State.heatSample
  repeat' first
    | extract_lets
    | with_reducible assumption
    | with_reducible apply Keeps.foldl
    | with_reducible apply Keeps.foldl1
    | with_reducible apply Keeps.foldl2
    | with_reducible apply State.setReg_keeps
    | with_reducible apply State.modPower_keeps
    | with_reducible apply State.modHbm_keeps
    | with_reducible apply State.updateGating_keeps
    | with_reducible apply State.driftDue_keeps
    | with_reducible apply State.trip_keeps
    | with_reducible apply State.irq_keeps
    | with_reducible apply State.record_keeps
    | with_reducible apply State.alert_keeps
    | with_reducible apply State.setBit_keeps
    | split
    | with_reducible apply Keeps.ite
    | (intro)
    | fail_if_no_progress with_reducible apply Keeps.update.mpr

end Sys2Proof.Machine
end

