-- ==== Sys2Proof/Laws/KeptStartup.lean ====
section
/-! SUPPORT. What the operations of Machine/Startup.lean keep (Laws/Kept.lean). -/

set_option Elab.async false

set_option linter.unusedTactic false
set_option linter.unreachableTactic false

namespace Sys2Proof.Machine

open Sys2Proof

theorem State.enterPhase_keeps {k : State} {s : State} {n : ℕ} (h : Keeps k s) :
    Keeps k (State.enterPhase s n) := by
  unfold State.enterPhase
  repeat' first
    | with_reducible assumption
    | with_reducible apply State.setFld_keeps
    | split
    | with_reducible apply Keeps.ite
    | (intro)

theorem State.modStartup_keeps {k : State} {s : State} {f : Startup → Startup} (h : Keeps k s) :
    Keeps k (State.modStartup s f) := by
  unfold State.modStartup
  repeat' first
    | with_reducible assumption
    | split
    | with_reducible apply Keeps.ite
    | (intro)
    | fail_if_no_progress with_reducible apply Keeps.update.mpr

theorem State.markIncomplete_keeps {k : State} {s : State} {b : Option Publish} (h : Keeps k s) :
    Keeps k (State.markIncomplete s b) := by
  unfold State.markIncomplete
  repeat' first
    | extract_lets
    | with_reducible assumption
    | with_reducible apply State.setReg_keeps
    | split
    | with_reducible apply Keeps.ite
    | (intro)
    | fail_if_no_progress with_reducible apply Keeps.update.mpr
    | dsimp +zetaDelta only

theorem State.journalAfter_keeps {k : State} {s : State} (h : Keeps k s) :
    Keeps k (State.journalAfter s) := by
  unfold State.journalAfter
  repeat' first
    | extract_lets
    | with_reducible assumption
    | with_reducible apply State.setReg_keeps
    | split
    | with_reducible apply Keeps.ite
    | (intro)

theorem State.cutDarning_keeps {k : State} {s : State} (h : Keeps k s) :
    Keeps k (State.cutDarning s) := by
  unfold State.cutDarning
  repeat' first
    | extract_lets
    | with_reducible assumption
    | with_reducible apply State.scramble_keeps
    | with_reducible apply State.modStartup_keeps
    | with_reducible apply Keeps.foldl
    | split
    | with_reducible apply Keeps.ite
    | (intro)
    | fail_if_no_progress with_reducible apply Keeps.update.mpr
    | dsimp +zetaDelta only

theorem keptRegs_wf {s : State} {trip : Bool} (h : RegsWf s.variant s.regs) : RegsWf s.variant (s.keptRegs trip) := by
  refine ⟨?_, fun c hc => ?_⟩
  · refine List.Pairwise.filterMap _ (fun a b hab a' ha b' hb => ?_) h.1
    obtain ⟨_, -, rfl⟩ := Option.map_eq_some_iff.mp ha
    obtain ⟨_, -, rfl⟩ := Option.map_eq_some_iff.mp hb
    exact hab
  · obtain ⟨x, hx, hw⟩ := List.mem_filterMap.mp hc
    obtain ⟨w, hk, rfl⟩ := Option.map_eq_some_iff.mp hw
    have hx' := h.2 x hx
    revert hk
    unfold State.keptWord
    extract_lets keep r v
    split
    · split
      · rintro ⟨⟩; exact hx'
      · intro e; cases e
    · split
      · intro e; cases e
      · rename_i hv; intro e; rw [← Option.some.inj e]; exact hv

theorem State.afterReset_keeps {k s : State} {kind : Nat} (h : Keeps k s) : Keeps k (s.afterReset kind) := by
  unfold State.afterReset
  refine State.enterPhase_keeps (State.setFld_keeps (State.markIncomplete_keeps (State.addReg_keeps
    (State.journalAfter_keeps ?_))))
  exact ⟨h.pending, h.variant, fun c =>
    ⟨keptRegs_wf (h.canonical c).regs, filter_wf (h.canonical c).mem, (h.canonical c).poison.filter _⟩,
    h.time_of rfl, fun o => ⟨fun _ hv => (nomatch hv), Nat.le_trans (h.fuse o).2 s.le_settledFuse⟩⟩

theorem State.settleWindow_keeps {k : State} {s : State} (h : Keeps k s) :
    Keeps k (State.settleWindow s) := by
  unfold State.settleWindow
  repeat' first
    | with_reducible assumption
    | with_reducible apply State.writeBack_keeps
    | with_reducible apply Keeps.foldl
    | split
    | with_reducible apply Keeps.ite
    | (intro)

theorem State.resetDevice_keeps {k : State} {s : State} {kind : ℕ} (h : Keeps k s) :
    Keeps k (State.resetDevice s kind) := by
  unfold State.resetDevice
  repeat' first
    | with_reducible assumption
    | with_reducible apply State.enterPhase_keeps
    | with_reducible apply State.modStartup_keeps
    | with_reducible apply State.afterReset_keeps
    | with_reducible apply State.cutDarning_keeps
    | with_reducible apply State.settleWindow_keeps
    | with_reducible apply State.flushAborts_keeps
    | with_reducible apply State.abortToward_keeps
    | split
    | with_reducible apply Keeps.ite
    | (intro)
    | fail_if_no_progress with_reducible apply Keeps.update.mpr

theorem State.scanDrives_keeps {k : State} {s : State} (h : Keeps k s) :
    Keeps k (State.scanDrives s) := by
  unfold State.scanDrives
  repeat' first
    | with_reducible assumption
    | split
    | with_reducible apply Keeps.ite
    | (intro)
    | fail_if_no_progress with_reducible apply Keeps.update.mpr

theorem State.setWords_keeps {k : State} {s : State} {f : ℕ → ℕ} {bs : List Byte} (h : Keeps k s) :
    Keeps k (State.setWords s f bs) := by
  unfold State.setWords
  repeat' first
    | with_reducible assumption
    | with_reducible apply State.setReg_keeps
    | with_reducible apply Keeps.foldl
    | split
    | with_reducible apply Keeps.ite
    | (intro)

theorem State.bootImage_keeps {k : State} {s : State} {h_ : List Byte} {source : ℕ} (h : Keeps k s) :
    Keeps k (State.bootImage s h_ source) := by
  unfold State.bootImage
  repeat' first
    | extract_lets
    | with_reducible assumption
    | with_reducible apply State.setFld_keeps
    | with_reducible apply State.setWords_keeps
    | with_reducible apply State.makeCredential_keeps
    | with_reducible apply State.enterPhase_keeps
    | with_reducible apply State.setBit_keeps
    | split
    | with_reducible apply Keeps.ite
    | (intro)

theorem State.bootFails_keeps {k : State} {s : State} {result : ℕ} (h : Keeps k s) :
    Keeps k (State.bootFails s result) := by
  unfold State.bootFails
  repeat' first
    | with_reducible assumption
    | with_reducible apply State.ibi_keeps
    | with_reducible apply State.setBit_keeps
    | with_reducible apply State.setFld_keeps
    | split
    | with_reducible apply Keeps.ite
    | (intro)

theorem State.showSvn_keeps {k : State} {s : State} (h : Keeps k s) :
    Keeps k (State.showSvn s) := by
  unfold State.showSvn
  repeat' first
    | with_reducible assumption
    | with_reducible apply State.setFld_keeps
    | split
    | with_reducible apply Keeps.ite
    | (intro)

theorem State.odlUp_keeps {k : State} {s : State} (h : Keeps k s) :
    Keeps k (State.odlUp s) := by
  unfold State.odlUp
  repeat' first
    | with_reducible assumption
    | with_reducible apply State.setFld_keeps
    | split
    | with_reducible apply Keeps.ite
    | (intro)

theorem State.selfTests_keeps {k : State} {s : State} {fails : List (ℕ × ℕ)} (h : Keeps k s) :
    Keeps k (State.selfTests s fails) := by
  unfold State.selfTests
  repeat' first
    | with_reducible assumption
    | with_reducible apply State.setReg_keeps
    | with_reducible apply Keeps.foldl
    | with_reducible apply Keeps.foldl1
    | with_reducible apply Keeps.foldl2
    | split
    | with_reducible apply Keeps.ite
    | (intro)
    | fail_if_no_progress with_reducible apply Keeps.update.mpr

theorem State.coreOut_keeps {k : State} {s : State} {k_ : ℕ} (h : Keeps k s) :
    Keeps k (State.coreOut s k_) := by
  unfold State.coreOut
  repeat' first
    | with_reducible assumption
    | with_reducible apply State.setReg_keeps
    | split
    | with_reducible apply Keeps.ite
    | (intro)

theorem State.loseNumber_keeps {k : State} {s : State} {k_ : ℕ} (h : Keeps k s) :
    Keeps k (State.loseNumber s k_) := by
  unfold State.loseNumber
  repeat' first
    | extract_lets
    | with_reducible assumption
    | with_reducible apply State.record_keeps
    | with_reducible apply State.setBit_keeps
    | split
    | with_reducible apply Keeps.ite
    | (intro)

theorem State.assignCluster_keeps {k : State} {s : State} {c : ℕ} (h : Keeps k s) :
    Keeps k (State.assignCluster s c) := by
  unfold State.assignCluster
  repeat' first
    | extract_lets
    | with_reducible assumption
    | with_reducible apply State.coreOut_keeps
    | with_reducible apply State.loseNumber_keeps
    | with_reducible apply State.setReg_keeps
    | with_reducible apply Keeps.foldl
    | split
    | with_reducible apply Keeps.ite
    | (intro)
    | fail_if_no_progress with_reducible apply Keeps.update.mpr
    | dsimp +zetaDelta only

theorem State.restartDarning_keeps {k : State} {s : State} (h : Keeps k s) :
    Keeps k (State.restartDarning s) := by
  unfold State.restartDarning
  repeat' first
    | extract_lets
    | with_reducible assumption
    | with_reducible apply State.setBit_keeps
    | with_reducible apply State.record_keeps
    | with_reducible apply State.modStartup_keeps
    | with_reducible apply State.modHbm_keeps
    | with_reducible apply Keeps.foldl
    | split
    | with_reducible apply Keeps.ite
    | (intro)
    | fail_if_no_progress with_reducible apply Keeps.update.mpr
    | dsimp +zetaDelta only

theorem State.trainChannels_keeps {k : State} {s : State} {chans : List Nat} (h : Keeps k s) :
    Keeps k (State.trainChannels s chans) := by
  unfold State.trainChannels
  repeat' first
    | with_reducible assumption
    | with_reducible apply Keeps.foldl
    | with_reducible apply Keeps.foldl1
    | with_reducible apply Keeps.foldl2
    | with_reducible apply State.modHbm_keeps
    | split
    | with_reducible apply Keeps.ite
    | (intro)
    | fail_if_no_progress with_reducible apply Keeps.update.mpr

end Sys2Proof.Machine
end

