-- ==== Sys2Proof/Laws/KeptSecurity.lean ====
section
/-! SUPPORT. What the operations of Machine/Security.lean keep (Laws/Kept.lean). -/

set_option Elab.async false

set_option linter.unusedTactic false
set_option linter.unreachableTactic false

namespace Sys2Proof.Machine

open Sys2Proof

theorem State.modSec_keeps {k s : State} {f : Sec → Sec} (h : Keeps k s) (hf : (f s.sec).svnFuse = s.sec.svnFuse)
    (hg : (f s.sec).svnTarget = s.sec.svnTarget) : Keeps k (State.modSec s f) :=
  h.congr rfl rfl rfl rfl rfl rfl hf hg

theorem State.commitSvn_keeps {k s : State} (h : Keeps k s) : Keeps k (State.commitSvn s) := by
  unfold State.commitSvn
  extract_lets v
  split
  · rename_i hc
    refine State.setBit_keeps ⟨h.pending, h.variant, fun c => ⟨(h.canonical c).regs, (h.canonical c).mem, (h.canonical c).poison⟩,
      h.time_of rfl, fun o => ⟨?_, (h.fuse o).2⟩⟩
    intro w hw
    have e : v = w := Option.some.inj hw
    exact e ▸ Nat.le_of_lt hc.2.2
  · exact h

theorem State.writeRecovery_keeps {k : State} {s : State} {v : ℕ} (h : Keeps k s) :
    Keeps k (State.writeRecovery s v) := by
  unfold State.writeRecovery
  repeat' first
    | extract_lets
    | with_reducible assumption
    | with_reducible apply State.setReg_keeps
    | with_reducible refine State.modSec_keeps ?_ rfl rfl
    | split
    | with_reducible apply Keeps.ite
    | (intro)
    | fail_if_no_progress with_reducible apply Keeps.update.mpr

theorem State.startFlash_keeps {k : State} {s : State} {src : ℕ} {len : ℕ} (h : Keeps k s) :
    Keeps k (State.startFlash s src len) := by
  unfold State.startFlash
  repeat' first
    | with_reducible assumption
    | with_reducible apply State.setBit_keeps
    | with_reducible refine State.modSec_keeps ?_ rfl rfl
    | split
    | with_reducible apply Keeps.ite
    | (intro)
    | fail_if_no_progress with_reducible apply Keeps.update.mpr

theorem State.writeFlash_keeps {k : State} {s : State} {v : ℕ} (h : Keeps k s) :
    Keeps k (State.writeFlash s v) := by
  unfold State.writeFlash
  repeat' first
    | extract_lets
    | with_reducible assumption
    | with_reducible apply State.setReg_keeps
    | with_reducible apply State.startFlash_keeps
    | split
    | with_reducible apply Keeps.ite
    | (intro)

theorem State.attestGo_keeps {k : State} {s : State} (h : Keeps k s) :
    Keeps k (State.attestGo s) := by
  unfold State.attestGo
  repeat' first
    | extract_lets
    | with_reducible assumption
    | with_reducible apply State.startSigning_keeps
    | with_reducible apply State.setBit_keeps
    | with_reducible refine State.modSec_keeps ?_ rfl rfl
    | split
    | with_reducible apply Keeps.ite
    | (intro)
    | fail_if_no_progress with_reducible apply Keeps.update.mpr

end Sys2Proof.Machine
end

