-- ==== Sys2Proof/Laws/KeptOdord.lean ====
section
/-! SUPPORT. What the operations of Machine/Odord.lean keep (Laws/Kept.lean). -/

set_option Elab.async false

set_option linter.unusedTactic false
set_option linter.unreachableTactic false

namespace Sys2Proof.Machine

open Sys2Proof

theorem State.modOdl_keeps {k : State} {s : State} {f : Odl → Odl} (h : Keeps k s) :
    Keeps k (State.modOdl s f) := by
  unfold State.modOdl
  repeat' first
    | with_reducible assumption
    | split
    | with_reducible apply Keeps.ite
    | (intro)
    | fail_if_no_progress with_reducible apply Keeps.update.mpr

theorem State.setOdlState_keeps {k : State} {s : State} {n : ℕ} (h : Keeps k s) :
    Keeps k (State.setOdlState s n) := by
  unfold State.setOdlState
  repeat' first
    | with_reducible assumption
    | with_reducible apply State.setFld_keeps
    | split
    | with_reducible apply Keeps.ite
    | (intro)

theorem State.sendFlit_keeps {k : State} {s : State} (h : Keeps k s) :
    Keeps k (State.sendFlit s) := by
  unfold State.sendFlit
  repeat' first
    | extract_lets
    | with_reducible assumption
    | with_reducible apply State.emit_keeps
    | with_reducible apply State.modOdl_keeps
    | split
    | with_reducible apply Keeps.ite
    | (intro)
    | fail_if_no_progress with_reducible apply Keeps.update.mpr

theorem State.markWindow_keeps {k : State} {s : State} (h : Keeps k s) :
    Keeps k (State.markWindow s) := by
  unfold State.markWindow
  repeat' first
    | extract_lets
    | with_reducible assumption
    | with_reducible apply State.markRetried_keeps
    | split
    | with_reducible apply Keeps.ite
    | (intro)
    | fail_if_no_progress with_reducible apply Keeps.update.mpr
    | dsimp +zetaDelta only

theorem State.odlDown_keeps {k : State} {s : State} (h : Keeps k s) :
    Keeps k (State.odlDown s) := by
  unfold State.odlDown
  repeat' first
    | with_reducible assumption
    | with_reducible apply State.markWindow_keeps
    | with_reducible apply State.modOdl_keeps
    | with_reducible apply State.setOdlState_keeps
    | split
    | with_reducible apply Keeps.ite
    | (intro)
    | fail_if_no_progress with_reducible apply Keeps.update.mpr

theorem State.countReplay_keeps {k : State} {s : State} (h : Keeps k s) :
    Keeps k (State.countReplay s) := by
  unfold State.countReplay
  repeat' first
    | extract_lets
    | with_reducible assumption
    | with_reducible apply State.addReg_keeps
    | with_reducible apply State.modOdl_keeps
    | with_reducible apply State.odlDown_keeps
    | split
    | with_reducible apply Keeps.ite
    | (intro)
    | fail_if_no_progress with_reducible apply Keeps.update.mpr

theorem State.sendMessage_keeps {k : State} {s : State} {v : ℕ} (h : Keeps k s) :
    Keeps k (State.sendMessage s v) := by
  unfold State.sendMessage
  repeat' first
    | with_reducible assumption
    | with_reducible apply State.sendFlit_keeps
    | with_reducible apply State.modOdl_keeps
    | with_reducible apply State.emit_keeps
    | split
    | with_reducible apply Keeps.ite
    | (intro)
    | fail_if_no_progress with_reducible apply Keeps.update.mpr

theorem State.signalHeld_keeps {k : State} {s : State} (h : Keeps k s) :
    Keeps k (State.signalHeld s) := by
  unfold State.signalHeld
  repeat' first
    | with_reducible assumption
    | with_reducible apply State.sendMessage_keeps
    | with_reducible apply Keeps.foldl
    | split
    | with_reducible apply Keeps.ite
    | (intro)

theorem State.clearPending_keeps {k : State} {s : State} {half : ℕ} {mask : ℕ} (h : Keeps k s) :
    Keeps k (State.clearPending s half mask) := by
  unfold State.clearPending
  repeat' first
    | extract_lets
    | with_reducible assumption
    | with_reducible apply State.setReg_keeps
    | with_reducible apply State.modOdl_keeps
    | split
    | with_reducible apply Keeps.ite
    | (intro)
    | fail_if_no_progress with_reducible apply Keeps.update.mpr

theorem State.odlComesUp_keeps {k : State} {s : State} {degraded : Bool} (h : Keeps k s) :
    Keeps k (State.odlComesUp s degraded) := by
  unfold State.odlComesUp
  repeat' first
    | extract_lets
    | with_reducible assumption
    | with_reducible apply State.setBit_keeps
    | with_reducible apply State.setOdlState_keeps
    | with_reducible apply State.setReg_keeps
    | with_reducible apply State.modOdl_keeps
    | with_reducible apply State.signalHeld_keeps
    | with_reducible apply State.emit_keeps
    | with_reducible apply Keeps.foldl
    | with_reducible apply Keeps.foldl1
    | with_reducible apply Keeps.foldl2
    | split
    | with_reducible apply Keeps.ite
    | (intro)
    | fail_if_no_progress with_reducible apply Keeps.update.mpr

theorem State.companionPut_keeps {k : State} {s : State} {a : ℕ} {bs : List Byte} (h : Keeps k s) :
    Keeps k (State.companionPut s a bs) := by
  unfold State.companionPut
  repeat' first
    | with_reducible assumption
    | with_reducible apply State.put_keeps
    | with_reducible apply State.accessFault_keeps
    | split
    | with_reducible apply Keeps.ite
    | (intro)

theorem State.takeBack_keeps {k : State} {s : State} {a : ℕ} {n : ℕ} (h : Keeps k s) :
    Keeps k (State.takeBack s a n) := by
  unfold State.takeBack
  repeat' first
    | with_reducible assumption
    | with_reducible apply State.writeBack_keeps
    | with_reducible apply Keeps.foldl
    | split
    | with_reducible apply Keeps.ite
    | (intro)

theorem State.loseCompanion_keeps {k : State} {s : State} (h : Keeps k s) :
    Keeps k (State.loseCompanion s) := by
  unfold State.loseCompanion
  repeat' first
    | extract_lets
    | with_reducible assumption
    | with_reducible apply State.ibi_keeps
    | with_reducible apply State.setReg_keeps
    | with_reducible apply State.setBit_keeps
    | with_reducible apply State.startQuench_keeps
    | split
    | with_reducible apply Keeps.ite
    | (intro)

theorem State.beat_keeps {k : State} {s : State} (h : Keeps k s) :
    Keeps k (State.beat s) := by
  unfold State.beat
  repeat' first
    | extract_lets
    | with_reducible assumption
    | with_reducible apply State.modOdl_keeps
    | with_reducible apply State.setReg_keeps
    | with_reducible apply State.setBit_keeps
    | split
    | with_reducible apply Keeps.ite
    | (intro)
    | fail_if_no_progress with_reducible apply Keeps.update.mpr

theorem State.writeCwBase_keeps {k : State} {s : State} {v : ℕ} (h : Keeps k s) :
    Keeps k (State.writeCwBase s v) := by
  unfold State.writeCwBase
  repeat' first
    | with_reducible assumption
    | with_reducible apply State.setReg_keeps
    | with_reducible apply State.writeBack_keeps
    | with_reducible apply State.setBit_keeps
    | with_reducible apply Keeps.foldl
    | split
    | with_reducible apply Keeps.ite
    | (intro)

end Sys2Proof.Machine
end

