-- ==== Sys2Proof/Laws/KeptAccept.lean ====
section
/-! SUPPORT. What the operations of Machine/Accept.lean keep (Laws/Kept.lean). -/

set_option Elab.async false

set_option linter.unusedTactic false
set_option linter.unreachableTactic false

namespace Sys2Proof.Machine

open Sys2Proof

theorem State.ringDoorbell_keeps {k : State} {s : State} {n : ℕ} {v : ℕ} (h : Keeps k s) :
    Keeps k (State.ringDoorbell s n v) := by
  unfold State.ringDoorbell
  repeat' first
    | with_reducible assumption
    | with_reducible apply State.streamFlag_keeps
    | with_reducible apply State.setReg_keeps
    | split
    | with_reducible apply Keeps.ite
    | (intro)

theorem State.fetchBytes_keeps {k : State} {s : State} {a : ℕ} {n : ℕ} (h : Keeps k s) :
    Keeps k (State.fetchBytes s a n).2 := by
  unfold State.fetchBytes
  repeat' first
    | with_reducible assumption
    | split
    | with_reducible apply Keeps.ite
    | (intro)
    | fail_if_no_progress with_reducible apply Keeps.update.mpr

theorem State.fetchOps_keeps {k : State} {s : State} {n : Nat} {l : List (Nat × Nat)} (h : Keeps k s) :
    Keeps k (State.fetchOps s n l).2 := by
  induction l generalizing s with
  | nil => exact h
  | cons p rest ih =>
    unfold State.fetchOps
    exact ih (State.fetchBytes_keeps h)

theorem State.fetchTask_keeps {k : State} {s : State} {n : ℕ} (h : Keeps k s) :
    Keeps k (State.fetchTask s n).2.2 := by
  unfold State.fetchTask
  repeat' first
    | extract_lets
    | with_reducible assumption
    | with_reducible apply State.fetchBytes_keeps
    | with_reducible apply State.fetchOps_keeps
    | split
    | with_reducible apply Keeps.ite
    | with_reducible refine Keeps.of_snd (by assumption) ?_
    | with_reducible refine Keeps.of_fst (by assumption) ?_
    | with_reducible refine Keeps.of_snd (by assumption) ?_
    | (intro)

theorem State.advanceHead_keeps {k : State} {s : State} {n : ℕ} (h : Keeps k s) :
    Keeps k (State.advanceHead s n) := by
  unfold State.advanceHead
  repeat' first
    | with_reducible assumption
    | with_reducible apply State.updateRetire_keeps
    | with_reducible apply State.setReg_keeps
    | split
    | with_reducible apply Keeps.ite
    | (intro)

theorem State.refuse_keeps {k : State} {s : State} {t : Task} {err : ℕ} (h : Keeps k s) :
    Keeps k (State.refuse s t err) := by
  unfold State.refuse
  repeat' first
    | extract_lets
    | with_reducible assumption
    | with_reducible apply State.advanceHead_keeps
    | with_reducible apply State.refusedEntry_keeps
    | with_reducible apply State.streamFlag_keeps
    | with_reducible apply State.setFld_keeps
    | split
    | with_reducible apply Keeps.ite
    | (intro)

theorem State.sealPublish_keeps {k : State} {s : State} {t : Task} (h : Keeps k s) :
    Keeps k (State.sealPublish s t) := by
  unfold State.sealPublish
  repeat' first
    | extract_lets
    | with_reducible assumption
    | with_reducible apply State.setBit_keeps
    | split
    | with_reducible apply Keeps.ite
    | (intro)
    | fail_if_no_progress with_reducible apply Keeps.update.mpr
    | dsimp +zetaDelta only

theorem State.accept_keeps {k : State} {s : State} {t : Task} (h : Keeps k s) :
    Keeps k (State.accept s t) := by
  unfold State.accept
  repeat' first
    | extract_lets
    | with_reducible assumption
    | with_reducible apply State.sealPublish_keeps
    | with_reducible apply State.taskEntry_keeps
    | with_reducible apply State.startPreempts_keeps
    | with_reducible apply State.markEligible_keeps
    | with_reducible apply State.advanceHead_keeps
    | split
    | with_reducible apply Keeps.ite
    | (intro)
    | fail_if_no_progress with_reducible apply Keeps.update.mpr

theorem State.logIsFull_keeps {k : State} {s : State} (h : Keeps k s) :
    Keeps k (State.logIsFull s) := by
  unfold State.logIsFull
  repeat' first
    | with_reducible assumption
    | with_reducible apply State.irq_keeps
    | with_reducible apply State.setBit_keeps
    | split
    | with_reducible apply Keeps.ite
    | (intro)

theorem State.nextTask_keeps {k : State} {s : State} {n : Nat} (h : Keeps k s) :
    Keeps k (State.nextTask s n).2.2 := by
  unfold State.nextTask
  repeat' first
    | with_reducible assumption
    | with_reducible apply State.fetchTask_keeps
    | split
    | with_reducible apply Keeps.ite
    | (intro)
    | fail_if_no_progress with_reducible apply Keeps.update.mpr

theorem State.defer_keeps {k : State} {s : State} {t : Task} (h : Keeps k s) :
    Keeps k (State.defer s t) := by
  unfold State.defer
  repeat' first
    | with_reducible assumption
    | split
    | with_reducible apply Keeps.ite
    | (intro)
    | fail_if_no_progress with_reducible apply Keeps.update.mpr

theorem State.takeSlot_keeps {k : State} {s : State} {n : ℕ} (h : Keeps k s) :
    KeepsO k (State.takeSlot s n) := by
  unfold State.takeSlot
  repeat' first
    | extract_lets
    | with_reducible exact KeepsO.none
    | with_reducible apply KeepsO.some
    | with_reducible assumption
    | with_reducible apply State.defer_keeps
    | with_reducible apply State.nextTask_keeps
    | with_reducible apply KeepsO1.some
    | with_reducible apply KeepsO1.none
    | with_reducible apply KeepsO2.some
    | with_reducible apply KeepsO2.none
    | with_reducible apply State.fetchTask_keeps
    | with_reducible apply State.refuse_keeps
    | with_reducible apply State.logIsFull_keeps
    | with_reducible apply State.accept_keeps
    | split
    | with_reducible apply KeepsO.ite
    | with_reducible apply Keeps.ite
    | with_reducible refine Keeps.of_third (by assumption) ?_
    | with_reducible refine Keeps.of_fst (by assumption) ?_
    | with_reducible refine Keeps.of_snd (by assumption) ?_
    | (intro)
    | fail_if_no_progress with_reducible apply Keeps.update.mpr

end Sys2Proof.Machine
end

