-- ==== Sys2Proof/Laws/KeptRegAccess.lean ====
section
/-! SUPPORT. What the operations of Machine/RegAccess.lean keep (Laws/Kept.lean). -/

set_option Elab.async false

set_option linter.unusedTactic false
set_option linter.unreachableTactic false

namespace Sys2Proof.Machine

open Sys2Proof

theorem State.writeFields_keeps {k : State} {s : State} {r : RegRow} {off : ℕ} {v : ℕ} (h : Keeps k s) :
    Keeps k (State.writeFields s r off v) := by
  unfold State.writeFields
  repeat' first
    | extract_lets
    | with_reducible assumption
    | with_reducible apply State.setReg_keeps
    | with_reducible apply State.whWrite_keeps
    | split
    | with_reducible apply Keeps.ite
    | (intro)
    | fail_if_no_progress with_reducible apply Keeps.update.mpr
    | assumption

theorem State.writeControl_keeps {k : State} {s : State} {f : ℕ} {v : ℕ} (h : Keeps k s) :
    Keeps k (State.writeControl s f v) := by
  unfold State.writeControl
  repeat' first
    | with_reducible assumption
    | with_reducible apply State.requestHalt_keeps
    | with_reducible apply State.controlResume_keeps
    | split
    | with_reducible apply Keeps.ite
    | (intro)

theorem State.writeReset_keeps {k : State} {s : State} {v : ℕ} (h : Keeps k s) :
    Keeps k (State.writeReset s v) := by
  unfold State.writeReset
  repeat' first
    | with_reducible assumption
    | with_reducible apply State.resetDevice_keeps
    | split
    | with_reducible apply Keeps.ite
    | (intro)

theorem State.writeStrmStatus_keeps {k : State} {s : State} {n : ℕ} {v : ℕ} (h : Keeps k s) :
    Keeps k (State.writeStrmStatus s n v) := by
  unfold State.writeStrmStatus
  repeat' first
    | extract_lets
    | with_reducible assumption
    | with_reducible apply State.setReg_keeps
    | with_reducible apply State.arise_keeps
    | split
    | with_reducible apply Keeps.ite
    | (intro)

theorem State.writeTrigCtrl_keeps {k : State} {s : State} {v : ℕ} (h : Keeps k s) :
    Keeps k (State.writeTrigCtrl s v) := by
  unfold State.writeTrigCtrl
  repeat' first
    | with_reducible assumption
    | with_reducible apply State.trigGo_keeps
    | with_reducible apply State.setBit_keeps
    | split
    | with_reducible apply Keeps.ite
    | (intro)

theorem State.writeTrigRegions_keeps {k : State} {s : State} {i : ℕ} {v : ℕ} (h : Keeps k s) :
    Keeps k (State.writeTrigRegions s i v) := by
  unfold State.writeTrigRegions
  repeat' first
    | extract_lets
    | with_reducible assumption
    | with_reducible apply State.whWrite_keeps
    | with_reducible apply State.setReg_keeps
    | with_reducible apply State.modRru_keeps
    | with_reducible apply Keeps.foldl
    | split
    | with_reducible apply Keeps.ite
    | (intro)
    | fail_if_no_progress with_reducible apply Keeps.update.mpr

theorem State.writePwrCtrl_keeps {k : State} {s : State} {v : ℕ} (h : Keeps k s) :
    Keeps k (State.writePwrCtrl s v) := by
  unfold State.writePwrCtrl
  repeat' first
    | extract_lets
    | with_reducible assumption
    | with_reducible apply State.whWrite_keeps
    | with_reducible apply State.setReg_keeps
    | with_reducible apply State.startQuench_keeps
    | split
    | with_reducible apply Keeps.ite
    | (intro)

theorem State.writeActing0_keeps {k : State} {s : State} {off : ℕ} {v : ℕ} (h : Keeps k s) :
    KeepsO k (State.writeActing0 s off v) := by
  unfold State.writeActing0
  repeat' first
    | extract_lets
    | with_reducible exact KeepsO.none
    | with_reducible apply KeepsO.ite
    | with_reducible apply KeepsO.some
    | with_reducible assumption
    | with_reducible apply State.writeReset_keeps
    | with_reducible apply State.writeControl_keeps
    | with_reducible apply State.arise_keeps
    | with_reducible apply State.writeJournalTail_keeps
    | with_reducible apply State.writeJsigTail_keeps
    | with_reducible apply State.writeEventAdd_keeps
    | with_reducible apply State.ringDoorbell_keeps
    | with_reducible apply State.writeStrmStatus_keeps
    | split
    | with_reducible apply Keeps.ite
    | (intro)

theorem State.writeActing1_keeps {k : State} {s : State} {off : ℕ} {v : ℕ} (h : Keeps k s) :
    KeepsO k (State.writeActing1 s off v) := by
  unfold State.writeActing1
  repeat' first
    | extract_lets
    | with_reducible exact KeepsO.none
    | with_reducible apply KeepsO.ite
    | with_reducible apply KeepsO.some
    | with_reducible assumption
    | with_reducible apply State.writeSchCtrl_keeps
    | with_reducible apply State.writeLc_keeps
    | with_reducible apply State.setFld_keeps
    | with_reducible apply State.writeProgMib_keeps
    | with_reducible apply State.writeTableBase_keeps
    | with_reducible apply State.writeRegionLow_keeps
    | with_reducible apply State.writeRegionHigh_keeps
    | with_reducible apply State.writeNearUnits_keeps
    | with_reducible apply State.writeHeadroom_keeps
    | with_reducible apply State.setReg_keeps
    | with_reducible apply State.writeDarnReq_keeps
    | split
    | with_reducible apply Keeps.ite
    | (intro)

theorem State.writeActing2_keeps {k : State} {s : State} {off : ℕ} {v : ℕ} (h : Keeps k s) :
    KeepsO k (State.writeActing2 s off v) := by
  unfold State.writeActing2
  repeat' first
    | extract_lets
    | with_reducible exact KeepsO.none
    | with_reducible apply KeepsO.ite
    | with_reducible apply KeepsO.some
    | with_reducible assumption
    | with_reducible apply State.writeDeviceId_keeps
    | with_reducible apply KeepsO1.some
    | with_reducible apply KeepsO1.none
    | with_reducible apply KeepsO2.some
    | with_reducible apply KeepsO2.none
    | with_reducible apply State.writeEpoch_keeps
    | with_reducible apply State.writeRetire_keeps
    | with_reducible apply State.writeRoute_keeps
    | with_reducible apply State.setReg_keeps
    | with_reducible apply State.writePortCtrl_keeps
    | with_reducible apply State.writeRmeCtrl_keeps
    | with_reducible apply State.writeGroup_keeps
    | split
    | with_reducible apply Keeps.ite
    | (intro)

theorem State.writeActing3_keeps {k : State} {s : State} {off : ℕ} {v : ℕ} (h : Keeps k s) :
    KeepsO k (State.writeActing3 s off v) := by
  unfold State.writeActing3
  repeat' first
    | extract_lets
    | with_reducible exact KeepsO.none
    | with_reducible apply KeepsO.ite
    | with_reducible apply KeepsO.some
    | with_reducible assumption
    | with_reducible apply State.writeCwBase_keeps
    | with_reducible apply State.clearPending_keeps
    | with_reducible apply State.beat_keeps
    | with_reducible apply State.writePwrCtrl_keeps
    | with_reducible apply State.setReg_keeps
    | with_reducible apply State.writeLogTail_keeps
    | with_reducible apply State.writeTrigCtrl_keeps
    | with_reducible apply State.writeTrigRegions_keeps
    | with_reducible apply State.writeDigestReq_keeps
    | with_reducible apply State.writePatch_keeps
    | with_reducible apply State.writeControl_keeps
    | with_reducible apply State.commitSvn_keeps
    | with_reducible apply State.writeRecovery_keeps
    | with_reducible apply State.writeFlash_keeps
    | with_reducible apply State.attestGo_keeps
    | split
    | with_reducible apply Keeps.ite
    | (intro)

theorem State.writeActing_keeps {k : State} {s : State} {off : ℕ} {v : ℕ} (h : Keeps k s) :
    KeepsO k (State.writeActing s off v) := by
  unfold State.writeActing
  repeat' first
    | with_reducible exact KeepsO.none
    | with_reducible apply KeepsO.some
    | with_reducible apply KeepsO.ite
    | with_reducible assumption
    | with_reducible apply State.writeActing0_keeps
    | with_reducible apply State.writeActing1_keeps
    | with_reducible apply State.writeActing2_keeps
    | with_reducible apply State.writeActing3_keeps
    | split
    | with_reducible apply Keeps.ite
    | with_reducible refine Keeps.of_some (by assumption) ?_
    | (intro)

theorem State.writeReg_keeps {k : State} {s : State} {off : ℕ} {width : ℕ} {v : ℕ} (h : Keeps k s) :
    Keeps k (State.writeReg s off width v) := by
  unfold State.writeReg
  repeat' first
    | with_reducible assumption
    | with_reducible apply State.writeActing_keeps
    | with_reducible apply State.writeFields_keeps
    | split
    | with_reducible apply Keeps.ite
    | with_reducible refine Keeps.of_some (by assumption) ?_
    | (intro)
    | fail_if_no_progress with_reducible apply Keeps.update.mpr

theorem State.afterRead_keeps {k : State} {s : State} {off : ℕ} (h : Keeps k s) :
    Keeps k (State.afterRead s off) := by
  unfold State.afterRead
  repeat' first
    | with_reducible assumption
    | split
    | with_reducible apply Keeps.ite
    | (intro)
    | fail_if_no_progress with_reducible apply Keeps.update.mpr

theorem State.read32_keeps {k : State} {s : State} {off : ℕ} (h : Keeps k s) :
    Keeps k (State.read32 s off).2 := by
  unfold State.read32
  repeat' first
    | extract_lets
    | with_reducible assumption
    | with_reducible apply State.afterRead_keeps
    | split
    | with_reducible apply Keeps.ite
    | (intro)
    | fail_if_no_progress with_reducible apply Keeps.update.mpr
    | dsimp +zetaDelta only

end Sys2Proof.Machine
end

