-- ==== Sys2Proof/Laws/KeptMgmt.lean ====
section
/-! SUPPORT. What the operations of Machine/Mgmt.lean keep (Laws/Kept.lean). -/

set_option Elab.async false

set_option linter.unusedTactic false
set_option linter.unreachableTactic false

namespace Sys2Proof.Machine

open Sys2Proof

theorem State.modMgmt_keeps {k : State} {s : State} {f : Mgmt → Mgmt} (h : Keeps k s) :
    Keeps k (State.modMgmt s f) := by
  unfold State.modMgmt
  repeat' first
    | with_reducible assumption
    | split
    | with_reducible apply Keeps.ite
    | (intro)
    | fail_if_no_progress with_reducible apply Keeps.update.mpr

theorem State.i3cWrite_keeps {k : State} {s : State} {off : ℕ} {v : ℕ} (h : Keeps k s) :
    Keeps k (State.i3cWrite s off v) := by
  unfold State.i3cWrite
  repeat' first
    | with_reducible assumption
    | with_reducible apply State.writeReset_keeps
    | with_reducible apply State.startQuench_keeps
    | with_reducible apply State.writeReg_keeps
    | split
    | with_reducible apply Keeps.ite
    | (intro)

theorem State.jtagLoad_keeps {k : State} {s : State} {n : ℕ} (h : Keeps k s) :
    Keeps k (State.jtagLoad s n) := by
  unfold State.jtagLoad
  repeat' first
    | with_reducible assumption
    | with_reducible apply State.scanDrives_keeps
    | with_reducible apply State.modMgmt_keeps
    | split
    | with_reducible apply Keeps.ite
    | (intro)
    | fail_if_no_progress with_reducible apply Keeps.update.mpr

end Sys2Proof.Machine
end

