-- ==== Sys2Proof/Laws/KeptTick.lean ====
section
/-! SUPPORT. What the operations of Machine/Tick.lean keep (Laws/Kept.lean). -/

set_option Elab.async false

namespace Sys2Proof.Machine

open Sys2Proof

theorem State.flushPorts_keeps {k s : State} (h : Keeps k s) : Keeps k s.flushPorts :=
  Keeps.foldl h fun _ _ ht => State.sendFrames_keeps ht

theorem State.timeWork_keeps {k s : State} (h : Keeps k s) : Keeps k s.timeWork :=
  State.addReg_keeps (State.addReg_keeps (State.addReg_keeps (State.flushPorts_keeps (State.darnCopies_keeps h))))

/-- A nanosecond passes: only the time goes on. -/
theorem State.tick_keeps (s : State) : Keeps { s with time := s.tick.time } s.tick := by
  have h : Keeps s (if s.timeRuns then s.quiet.timeWork else s.quiet) :=
    have q : Keeps s s.quiet := State.quiet_keeps (.refl s)
    .ite (State.timeWork_keeps q) q
  exact ⟨h.pending, h.variant, fun c => let d := h.canonical ⟨c.regs, c.mem, c.poison⟩; ⟨d.regs, d.mem, d.poison⟩, .inl rfl,
    fun o => h.fuse o⟩

end Sys2Proof.Machine
end

