-- ==== Sys2Proof/Laws/KeptExec.lean ====
section
/-! SUPPORT. What every command keeps (Laws/Kept.lean), one lemma for each meaning. -/

set_option Elab.async false

set_option linter.unusedTactic false
set_option linter.unreachableTactic false

namespace Sys2Proof.Machine

open Sys2Proof

theorem execScore_keeps {k : State} {seq : ℕ} {s : State} (h : Keeps k s) :
    KeepsX k (execScore seq s) := by
  unfold execScore
  refine attempt_keeps h fun z hz => ?_
  repeat' first
    | with_reducible exact KeepsO.none
    | with_reducible apply KeepsO.some
    | with_reducible assumption
    | with_reducible apply State.launch_keeps
    | with_reducible apply State.runScore_keeps
    | split
    | with_reducible apply KeepsO.ite
    | with_reducible apply Keeps.ite
    | with_reducible refine Keeps.of_some (by assumption) ?_
    | (intro)

theorem execDispatch_keeps {k : State} {seq : ℕ} {s : State} (h : Keeps k s) :
    KeepsX k (execDispatch seq s) := by
  unfold execDispatch
  refine attempt_keeps h fun z hz => ?_
  repeat' first
    | with_reducible exact KeepsO.none
    | with_reducible apply KeepsO.some
    | with_reducible assumption
    | with_reducible apply State.launch_keeps
    | with_reducible apply State.runDispatch_keeps
    | split
    | with_reducible apply KeepsO.ite
    | with_reducible apply Keeps.ite
    | with_reducible refine Keeps.of_some (by assumption) ?_
    | (intro)

theorem execGather_keeps {k : State} {seq : ℕ} {splits : List (ℕ × ℕ × ℕ)} {s : State} (h : Keeps k s) :
    KeepsX k (execGather seq splits s) := by
  unfold execGather
  refine attempt_keeps h fun z hz => ?_
  repeat' first
    | with_reducible exact KeepsO.none
    | with_reducible apply KeepsO.some
    | with_reducible assumption
    | with_reducible apply State.launch_keeps
    | with_reducible apply State.runGather_keeps
    | split
    | with_reducible apply KeepsO.ite
    | with_reducible apply Keeps.ite
    | with_reducible refine Keeps.of_some (by assumption) ?_
    | (intro)

theorem execCombine_keeps {k : State} {seq : ℕ} {s : State} (h : Keeps k s) :
    KeepsX k (execCombine seq s) := by
  unfold execCombine
  refine attempt_keeps h fun z hz => ?_
  repeat' first
    | with_reducible exact KeepsO.none
    | with_reducible apply KeepsO.some
    | with_reducible assumption
    | with_reducible apply State.launch_keeps
    | with_reducible apply State.runCombine_keeps
    | split
    | with_reducible apply KeepsO.ite
    | with_reducible apply Keeps.ite
    | with_reducible refine Keeps.of_some (by assumption) ?_
    | (intro)

theorem execHamperPeakClear_keeps {k : State} {s : State} (h : Keeps k s) :
    KeepsX k (execHamperPeakClear s) := by
  unfold execHamperPeakClear
  refine attempt_keeps h fun z hz => ?_
  repeat' first
    | with_reducible exact KeepsO.none
    | with_reducible apply KeepsO.some
    | with_reducible assumption
    | with_reducible apply State.setFld_keeps
    | split
    | with_reducible apply KeepsO.ite
    | with_reducible apply Keeps.ite
    | (intro)

theorem execDmm_keeps {k : State} {seq : ℕ} {s : State} (h : Keeps k s) :
    KeepsX k (execDmm seq s) := by
  unfold execDmm
  refine attempt_keeps h fun z hz => ?_
  repeat' first
    | with_reducible exact KeepsO.none
    | with_reducible apply KeepsO.some
    | with_reducible assumption
    | with_reducible apply State.launch_keeps
    | with_reducible apply State.startDmm_keeps
    | split
    | with_reducible apply KeepsO.ite
    | with_reducible apply Keeps.ite
    | with_reducible refine Keeps.of_some (by assumption) ?_
    | (intro)

theorem execXmm_keeps {k : State} {seq : ℕ} {s : State} (h : Keeps k s) :
    KeepsX k (execXmm seq s) := by
  unfold execXmm
  refine attempt_keeps h fun z hz => ?_
  repeat' first
    | with_reducible exact KeepsO.none
    | with_reducible apply KeepsO.some
    | with_reducible assumption
    | with_reducible apply State.launch_keeps
    | with_reducible apply State.startXmm_keeps
    | split
    | with_reducible apply KeepsO.ite
    | with_reducible apply Keeps.ite
    | with_reducible refine Keeps.of_some (by assumption) ?_
    | (intro)

theorem execXmmK_keeps {k : State} {seq : ℕ} {s : State} (h : Keeps k s) :
    KeepsX k (execXmmK seq s) := by
  unfold execXmmK
  refine attempt_keeps h fun z hz => ?_
  repeat' first
    | with_reducible exact KeepsO.none
    | with_reducible apply KeepsO.some
    | with_reducible assumption
    | with_reducible apply State.launch_keeps
    | with_reducible apply State.startXmm_keeps
    | split
    | with_reducible apply KeepsO.ite
    | with_reducible apply Keeps.ite
    | with_reducible refine Keeps.of_some (by assumption) ?_
    | (intro)

theorem execEwise_keeps {k : State} {seq : ℕ} {s : State} (h : Keeps k s) :
    KeepsX k (execEwise seq s) := by
  unfold execEwise
  refine attempt_keeps h fun z hz => ?_
  repeat' first
    | with_reducible exact KeepsO.none
    | with_reducible apply KeepsO.some
    | with_reducible assumption
    | with_reducible apply State.launch_keeps
    | with_reducible apply State.startEwise_keeps
    | split
    | with_reducible apply KeepsO.ite
    | with_reducible apply Keeps.ite
    | with_reducible refine Keeps.of_some (by assumption) ?_
    | (intro)

theorem execEwiseStochastic_keeps {k : State} {seq : ℕ} {s : State} (h : Keeps k s) :
    KeepsX k (execEwiseStochastic seq s) := by
  unfold execEwiseStochastic
  refine attempt_keeps h fun z hz => ?_
  repeat' first
    | with_reducible exact KeepsO.none
    | with_reducible apply KeepsO.some
    | with_reducible assumption
    | with_reducible apply State.launch_keeps
    | with_reducible apply State.startEwise_keeps
    | split
    | with_reducible apply KeepsO.ite
    | with_reducible apply Keeps.ite
    | with_reducible refine Keeps.of_some (by assumption) ?_
    | (intro)

theorem execRunClaim_keeps {k : State} {core : ℕ} {s : State} (h : Keeps k s) :
    KeepsX k (execRunClaim core s) := by
  unfold execRunClaim
  refine attempt_keeps h fun z hz => ?_
  repeat' first
    | with_reducible exact KeepsO.none
    | with_reducible apply KeepsO.some
    | with_reducible assumption
    | with_reducible apply State.claimRun_keeps
    | split
    | with_reducible apply KeepsO.ite
    | with_reducible apply Keeps.ite
    | with_reducible refine Keeps.of_some (by assumption) ?_
    | (intro)

theorem execRunComplete_keeps {k : State} {core : ℕ} {s : State} (h : Keeps k s) :
    KeepsX k (execRunComplete core s) := by
  unfold execRunComplete
  refine attempt_keeps h fun z hz => ?_
  repeat' first
    | extract_lets
    | with_reducible exact KeepsO.none
    | with_reducible apply KeepsO.some
    | with_reducible assumption
    | with_reducible apply State.completeRun_keeps
    | split
    | with_reducible apply KeepsO.ite
    | with_reducible apply Keeps.ite
    | with_reducible refine Keeps.of_some (by assumption) ?_
    | (intro)

theorem execPartialSumStart_keeps {k : State} {seq : ℕ} {tile : ℕ} {s : State} (h : Keeps k s) :
    KeepsX k (execPartialSumStart seq tile s) := by
  unfold execPartialSumStart
  refine attempt_keeps h fun z hz => ?_
  repeat' first
    | with_reducible exact KeepsO.none
    | with_reducible apply KeepsO.some
    | with_reducible assumption
    | with_reducible apply State.sumParts_keeps
    | split
    | with_reducible apply KeepsO.ite
    | with_reducible apply Keeps.ite
    | with_reducible refine Keeps.of_some (by assumption) ?_
    | (intro)
    | fail_if_no_progress with_reducible apply Keeps.update.mpr

theorem execVectorBlockClaim_keeps {k : State} {core : ℕ} {s : State} (h : Keeps k s) :
    KeepsX k (execVectorBlockClaim core s) := by
  unfold execVectorBlockClaim
  refine attempt_keeps h fun z hz => ?_
  repeat' first
    | with_reducible exact KeepsO.none
    | with_reducible apply KeepsO.some
    | with_reducible assumption
    | with_reducible apply State.claimBlock_keeps
    | split
    | with_reducible apply KeepsO.ite
    | with_reducible apply Keeps.ite
    | with_reducible refine Keeps.of_some (by assumption) ?_
    | (intro)

theorem execVectorBlockComplete_keeps {k : State} {core : ℕ} {s : State} (h : Keeps k s) :
    KeepsX k (execVectorBlockComplete core s) := by
  unfold execVectorBlockComplete
  refine attempt_keeps h fun z hz => ?_
  repeat' first
    | extract_lets
    | with_reducible exact KeepsO.none
    | with_reducible apply KeepsO.some
    | with_reducible assumption
    | with_reducible apply State.completeBlock_keeps
    | split
    | with_reducible apply KeepsO.ite
    | with_reducible apply Keeps.ite
    | with_reducible refine Keeps.of_some (by assumption) ?_
    | (intro)

theorem execGuardDecision_keeps {k : State} {seq : ℕ} {expert : ℕ} {block : ℕ} {s : State} (h : Keeps k s) :
    KeepsX k (execGuardDecision seq expert block s) := by
  unfold execGuardDecision
  refine attempt_keeps h fun z hz => ?_
  repeat' first
    | with_reducible exact KeepsO.none
    | with_reducible apply KeepsO.some
    | with_reducible assumption
    | with_reducible apply State.takeDecision_keeps
    | split
    | with_reducible apply KeepsO.ite
    | with_reducible apply Keeps.ite
    | (intro)
    | fail_if_no_progress with_reducible apply Keeps.update.mpr

theorem execPruneMask_keeps {k : State} {seq : ℕ} {s : State} (h : Keeps k s) :
    KeepsX k (execPruneMask seq s) := by
  unfold execPruneMask
  refine attempt_keeps h fun z hz => ?_
  repeat' first
    | with_reducible exact KeepsO.none
    | with_reducible apply KeepsO.some
    | with_reducible assumption
    | with_reducible apply State.launch_keeps
    | with_reducible apply State.pruneMask_keeps
    | split
    | with_reducible apply KeepsO.ite
    | with_reducible apply Keeps.ite
    | with_reducible refine Keeps.of_some (by assumption) ?_
    | (intro)

theorem execPrunePack_keeps {k : State} {seq : ℕ} {s : State} (h : Keeps k s) :
    KeepsX k (execPrunePack seq s) := by
  unfold execPrunePack
  refine attempt_keeps h fun z hz => ?_
  repeat' first
    | with_reducible exact KeepsO.none
    | with_reducible apply KeepsO.some
    | with_reducible assumption
    | with_reducible apply State.launch_keeps
    | with_reducible apply State.prunePack_keeps
    | split
    | with_reducible apply KeepsO.ite
    | with_reducible apply Keeps.ite
    | with_reducible refine Keeps.of_some (by assumption) ?_
    | (intro)

theorem execShadow_keeps {k : State} {seq : ℕ} {s : State} (h : Keeps k s) :
    KeepsX k (execShadow seq s) := by
  unfold execShadow
  refine attempt_keeps h fun z hz => ?_
  repeat' first
    | with_reducible exact KeepsO.none
    | with_reducible apply KeepsO.some
    | with_reducible assumption
    | with_reducible apply State.launch_keeps
    | with_reducible apply State.runShadow_keeps
    | split
    | with_reducible apply KeepsO.ite
    | with_reducible apply Keeps.ite
    | with_reducible refine Keeps.of_some (by assumption) ?_
    | (intro)

theorem execMove_keeps {k : State} {seq : ℕ} {s : State} (h : Keeps k s) :
    KeepsX k (execMove seq s) := by
  unfold execMove
  refine attempt_keeps h fun z hz => ?_
  repeat' first
    | with_reducible exact KeepsO.none
    | with_reducible apply KeepsO.some
    | with_reducible assumption
    | with_reducible apply State.launch_keeps
    | with_reducible apply State.runMove_keeps
    | split
    | with_reducible apply KeepsO.ite
    | with_reducible apply Keeps.ite
    | with_reducible refine Keeps.of_some (by assumption) ?_
    | (intro)

theorem execStakeGrant_keeps {k : State} {s : State} (h : Keeps k s) :
    KeepsX k (execStakeGrant s) := by
  unfold execStakeGrant
  refine attempt_keeps h fun z hz => ?_
  repeat' first
    | with_reducible exact KeepsO.none
    | with_reducible apply KeepsO.some
    | with_reducible assumption
    | with_reducible apply State.grantStake_keeps
    | split
    | with_reducible apply KeepsO.ite
    | with_reducible apply Keeps.ite
    | with_reducible refine Keeps.of_some (by assumption) ?_
    | (intro)

theorem execRegionValidSet_keeps {k : State} {i : ℕ} {v : Word} {s : State} (h : Keeps k s) :
    KeepsX k (execRegionValidSet i v s) := by
  unfold execRegionValidSet
  refine attempt_keeps h fun z hz => ?_
  repeat' first
    | with_reducible exact KeepsO.none
    | with_reducible apply KeepsO.some
    | with_reducible assumption
    | with_reducible apply State.writeRegionLow_keeps
    | split
    | with_reducible apply KeepsO.ite
    | with_reducible apply Keeps.ite
    | (intro)

theorem execRegionValidClear_keeps {k : State} {i : ℕ} {s : State} (h : Keeps k s) :
    KeepsX k (execRegionValidClear i s) := by
  unfold execRegionValidClear
  refine attempt_keeps h fun z hz => ?_
  repeat' first
    | with_reducible exact KeepsO.none
    | with_reducible apply KeepsO.some
    | with_reducible assumption
    | with_reducible apply State.writeRegionLow_keeps
    | split
    | with_reducible apply KeepsO.ite
    | with_reducible apply Keeps.ite
    | (intro)

theorem execCadTableBaseWrite_keeps {k : State} {v : Word} {s : State} (h : Keeps k s) :
    KeepsX k (execCadTableBaseWrite v s) := by
  unfold execCadTableBaseWrite
  refine attempt_keeps h fun z hz => ?_
  repeat' first
    | with_reducible exact KeepsO.none
    | with_reducible apply KeepsO.some
    | with_reducible assumption
    | with_reducible apply State.writeTableBase_keeps
    | split
    | with_reducible apply KeepsO.ite
    | with_reducible apply Keeps.ite
    | (intro)

theorem execProgMibWrite_keeps {k : State} {v : Word} {s : State} (h : Keeps k s) :
    KeepsX k (execProgMibWrite v s) := by
  unfold execProgMibWrite
  refine attempt_keeps h fun z hz => ?_
  repeat' first
    | with_reducible exact KeepsO.none
    | with_reducible apply KeepsO.some
    | with_reducible assumption
    | with_reducible apply State.writeProgMib_keeps
    | split
    | with_reducible apply KeepsO.ite
    | with_reducible apply Keeps.ite
    | (intro)

theorem execNearUnitsWrite_keeps {k : State} {v : Word} {s : State} (h : Keeps k s) :
    KeepsX k (execNearUnitsWrite v s) := by
  unfold execNearUnitsWrite
  refine attempt_keeps h fun z hz => ?_
  repeat' first
    | with_reducible exact KeepsO.none
    | with_reducible apply KeepsO.some
    | with_reducible assumption
    | with_reducible apply State.writeNearUnits_keeps
    | split
    | with_reducible apply KeepsO.ite
    | with_reducible apply Keeps.ite
    | (intro)

theorem execResidencyCopyComplete_keeps {k : State} {i : ℕ} {s : State} (h : Keeps k s) :
    KeepsX k (execResidencyCopyComplete i s) := by
  unfold execResidencyCopyComplete
  refine attempt_keeps h fun z hz => ?_
  repeat' first
    | extract_lets
    | with_reducible exact KeepsO.none
    | with_reducible apply KeepsO.some
    | with_reducible assumption
    | with_reducible apply State.residencyCopied_keeps
    | split
    | with_reducible apply KeepsO.ite
    | with_reducible apply Keeps.ite
    | with_reducible refine Keeps.of_some (by assumption) ?_
    | (intro)

theorem execHeatEpochEnd_keeps {k : State} {s : State} (h : Keeps k s) :
    KeepsX k (execHeatEpochEnd s) := by
  unfold execHeatEpochEnd
  refine attempt_keeps h fun z hz => ?_
  repeat' first
    | with_reducible exact KeepsO.none
    | with_reducible apply KeepsO.some
    | with_reducible assumption
    | with_reducible apply State.heatEpoch_keeps
    | split
    | with_reducible apply KeepsO.ite
    | with_reducible apply Keeps.ite
    | (intro)

theorem execPromotionComplete_keeps {k : State} {page : ℕ} {ok : Bool} {s : State} (h : Keeps k s) :
    KeepsX k (execPromotionComplete page ok s) := by
  unfold execPromotionComplete
  refine attempt_keeps h fun z hz => ?_
  repeat' first
    | extract_lets
    | with_reducible exact KeepsO.none
    | with_reducible apply KeepsO.some
    | with_reducible assumption
    | with_reducible apply State.promotionEnds_keeps
    | split
    | with_reducible apply KeepsO.ite
    | with_reducible apply Keeps.ite
    | with_reducible refine Keeps.of_some (by assumption) ?_
    | (intro)

theorem execEvictionComplete_keeps {k : State} {page : ℕ} {s : State} (h : Keeps k s) :
    KeepsX k (execEvictionComplete page s) := by
  unfold execEvictionComplete
  refine attempt_keeps h fun z hz => ?_
  repeat' first
    | extract_lets
    | with_reducible exact KeepsO.none
    | with_reducible apply KeepsO.some
    | with_reducible assumption
    | with_reducible apply State.evictionEnds_keeps
    | split
    | with_reducible apply KeepsO.ite
    | with_reducible apply Keeps.ite
    | with_reducible refine Keeps.of_some (by assumption) ?_
    | (intro)

theorem execPublish_keeps {k : State} {seq : ℕ} {s : State} (h : Keeps k s) :
    KeepsX k (execPublish seq s) := by
  unfold execPublish
  refine attempt_keeps h fun z hz => ?_
  repeat' first
    | with_reducible exact KeepsO.none
    | with_reducible apply KeepsO.some
    | with_reducible assumption
    | with_reducible apply State.launch_keeps
    | with_reducible apply State.startPublish_keeps
    | split
    | with_reducible apply KeepsO.ite
    | with_reducible apply Keeps.ite
    | with_reducible refine Keeps.of_some (by assumption) ?_
    | (intro)

theorem execPublishHashComplete_keeps {k : State} {seq : ℕ} {s : State} (h : Keeps k s) :
    KeepsX k (execPublishHashComplete seq s) := by
  unfold execPublishHashComplete
  refine attempt_keeps h fun z hz => ?_
  repeat' first
    | extract_lets
    | with_reducible exact KeepsO.none
    | with_reducible apply KeepsO.some
    | with_reducible assumption
    | with_reducible apply State.hashComplete_keeps
    | split
    | with_reducible apply KeepsO.ite
    | with_reducible apply Keeps.ite
    | with_reducible refine Keeps.of_some (by assumption) ?_
    | (intro)

theorem execHeadroomWrite_keeps {k : State} {v : Word} {s : State} (h : Keeps k s) :
    KeepsX k (execHeadroomWrite v s) := by
  unfold execHeadroomWrite
  refine attempt_keeps h fun z hz => ?_
  repeat' first
    | with_reducible exact KeepsO.none
    | with_reducible apply KeepsO.some
    | with_reducible assumption
    | with_reducible apply State.writeHeadroom_keeps
    | split
    | with_reducible apply KeepsO.ite
    | with_reducible apply Keeps.ite
    | (intro)

theorem execDarnReqWrite_keeps {k : State} {v : Word} {s : State} (h : Keeps k s) :
    KeepsX k (execDarnReqWrite v s) := by
  unfold execDarnReqWrite
  refine attempt_keeps h fun z hz => ?_
  repeat' first
    | with_reducible exact KeepsO.none
    | with_reducible apply KeepsO.some
    | with_reducible assumption
    | with_reducible apply State.writeDarnReq_keeps
    | split
    | with_reducible apply KeepsO.ite
    | with_reducible apply Keeps.ite
    | (intro)

theorem execDarnMigrationComplete_keeps {k : State} {s : State} (h : Keeps k s) :
    KeepsX k (execDarnMigrationComplete s) := by
  unfold execDarnMigrationComplete
  refine attempt_keeps h fun z hz => ?_
  repeat' first
    | extract_lets
    | with_reducible exact KeepsO.none
    | with_reducible apply KeepsO.some
    | with_reducible assumption
    | with_reducible apply State.migrationDone_keeps
    | split
    | with_reducible apply KeepsO.ite
    | with_reducible apply Keeps.ite
    | with_reducible refine Keeps.of_some (by assumption) ?_
    | (intro)

theorem execRetrainSlot_keeps {k : State} {s : State} (h : Keeps k s) :
    KeepsX k (execRetrainSlot s) := by
  unfold execRetrainSlot
  refine attempt_keeps h fun z hz => ?_
  repeat' first
    | extract_lets
    | with_reducible exact KeepsO.none
    | with_reducible apply KeepsO.some
    | with_reducible assumption
    | with_reducible apply Keeps.foldl1
    | with_reducible apply Keeps.foldl2
    | with_reducible apply State.slotStack_keeps
    | with_reducible apply Keeps.foldl
    | split
    | with_reducible apply KeepsO.ite
    | with_reducible apply Keeps.ite
    | (intro)
    | fail_if_no_progress with_reducible apply Keeps.update.mpr

theorem execRetrainReqWrite_keeps {k : State} {i : ℕ} {v : Word} {s : State} (h : Keeps k s) :
    KeepsX k (execRetrainReqWrite i v s) := by
  unfold execRetrainReqWrite
  refine attempt_keeps h fun z hz => ?_
  repeat' first
    | with_reducible exact KeepsO.none
    | with_reducible apply KeepsO.some
    | with_reducible assumption
    | with_reducible apply State.setReg_keeps
    | split
    | with_reducible apply KeepsO.ite
    | with_reducible apply Keeps.ite
    | (intro)

theorem execMarginReqWrite_keeps {k : State} {i : ℕ} {v : Word} {s : State} (h : Keeps k s) :
    KeepsX k (execMarginReqWrite i v s) := by
  unfold execMarginReqWrite
  refine attempt_keeps h fun z hz => ?_
  repeat' first
    | with_reducible exact KeepsO.none
    | with_reducible apply KeepsO.some
    | with_reducible assumption
    | with_reducible apply State.setReg_keeps
    | split
    | with_reducible apply KeepsO.ite
    | with_reducible apply Keeps.ite
    | (intro)

theorem execRetrainComplete_keeps {k : State} {chan : ℕ} {ok : Bool} {ns : ℕ} {s : State} (h : Keeps k s) :
    KeepsX k (execRetrainComplete chan ok ns s) := by
  unfold execRetrainComplete
  refine attempt_keeps h fun z hz => ?_
  repeat' first
    | extract_lets
    | with_reducible exact KeepsO.none
    | with_reducible apply KeepsO.some
    | with_reducible assumption
    | with_reducible apply State.retrainEnds_keeps
    | split
    | with_reducible apply KeepsO.ite
    | with_reducible apply Keeps.ite
    | with_reducible refine Keeps.of_some (by assumption) ?_
    | (intro)

theorem execMarginSegmentComplete_keeps {k : State} {chan : Nat} {seg : MarginSegment} {s : State} (h : Keeps k s) :
    KeepsX k (execMarginSegmentComplete chan seg s) := by
  unfold execMarginSegmentComplete
  refine attempt_keeps h fun z hz => ?_
  repeat' first
    | extract_lets
    | with_reducible exact KeepsO.none
    | with_reducible apply KeepsO.some
    | with_reducible assumption
    | with_reducible apply State.marginEnds_keeps
    | split
    | with_reducible apply KeepsO.ite
    | with_reducible apply Keeps.ite
    | with_reducible refine Keeps.of_some (by assumption) ?_
    | (intro)

theorem execHbmReadComplete_keeps {k : State} {addr len : Nat} {bad : List LineError} {r : ReadBy} {s : State}
    (h : Keeps k s) : KeepsX k (execHbmReadComplete addr len bad r s) := by
  unfold execHbmReadComplete
  exact attempt_keeps h fun z hz => State.hbmRead_keeps hz

theorem execRowRepair_keeps {k : State} {chan : ℕ} {row : ℕ} {s : State} (h : Keeps k s) :
    KeepsX k (execRowRepair chan row s) := by
  unfold execRowRepair
  refine attempt_keeps h fun z hz => ?_
  repeat' first
    | with_reducible exact KeepsO.none
    | with_reducible apply KeepsO.some
    | with_reducible assumption
    | with_reducible apply State.repairRow_keeps
    | split
    | with_reducible apply KeepsO.ite
    | with_reducible apply Keeps.ite
    | with_reducible refine Keeps.of_some (by assumption) ?_
    | (intro)

theorem execRefreshSlot_keeps {k : State} {chan : ℕ} {bank : ℕ} {s : State} (h : Keeps k s) :
    KeepsX k (execRefreshSlot chan bank s) := by
  unfold execRefreshSlot
  refine attempt_keeps h fun z hz => ?_
  repeat' first
    | extract_lets
    | with_reducible exact KeepsO.none
    | with_reducible apply KeepsO.some
    | with_reducible assumption
    | with_reducible apply State.modHbm_keeps
    | split
    | with_reducible apply KeepsO.ite
    | with_reducible apply Keeps.ite
    | (intro)
    | fail_if_no_progress with_reducible apply Keeps.update.mpr
    | dsimp +zetaDelta only

theorem execRinseStep_keeps {k : State} {chan : ℕ} {off : ℕ} {symbols : ℕ} {row : ℕ} {s : State} (h : Keeps k s) :
    KeepsX k (execRinseStep chan off symbols row s) := by
  unfold execRinseStep
  refine attempt_keeps h fun z hz => ?_
  repeat' first
    | with_reducible exact KeepsO.none
    | with_reducible apply KeepsO.some
    | with_reducible assumption
    | with_reducible apply State.rinse_keeps
    | split
    | with_reducible apply KeepsO.ite
    | with_reducible apply Keeps.ite
    | with_reducible refine Keeps.of_some (by assumption) ?_
    | (intro)

theorem execPacketForward_keeps {k : State} {inp : ℕ} {vc : ℕ} {s : State} (h : Keeps k s) :
    KeepsX k (execPacketForward inp vc s) := by
  unfold execPacketForward
  refine attempt_keeps h fun z hz => ?_
  repeat' first
    | with_reducible exact KeepsO.none
    | with_reducible apply KeepsO.some
    | with_reducible assumption
    | with_reducible apply State.forward_keeps
    | split
    | with_reducible apply KeepsO.ite
    | with_reducible apply Keeps.ite
    | with_reducible refine Keeps.of_some (by assumption) ?_
    | (intro)

theorem execRouteWrite_keeps {k : State} {b : ℕ} {d : ℕ} {v : Word} {s : State} (h : Keeps k s) :
    KeepsX k (execRouteWrite b d v s) := by
  unfold execRouteWrite
  refine attempt_keeps h fun z hz => ?_
  repeat' first
    | with_reducible exact KeepsO.none
    | with_reducible apply KeepsO.some
    | with_reducible assumption
    | with_reducible apply State.writeRoute_keeps
    | split
    | with_reducible apply KeepsO.ite
    | with_reducible apply Keeps.ite
    | (intro)

theorem execNswEpochWrite_keeps {k : State} {v : Word} {s : State} (h : Keeps k s) :
    KeepsX k (execNswEpochWrite v s) := by
  unfold execNswEpochWrite
  refine attempt_keeps h fun z hz => ?_
  repeat' first
    | with_reducible exact KeepsO.none
    | with_reducible apply KeepsO.some
    | with_reducible assumption
    | with_reducible apply State.writeEpoch_keeps
    | split
    | with_reducible apply KeepsO.ite
    | with_reducible apply Keeps.ite
    | (intro)

theorem execNswRetireWrite_keeps {k : State} {v : Word} {s : State} (h : Keeps k s) :
    KeepsX k (execNswRetireWrite v s) := by
  unfold execNswRetireWrite
  refine attempt_keeps h fun z hz => ?_
  repeat' first
    | with_reducible exact KeepsO.none
    | with_reducible apply KeepsO.some
    | with_reducible assumption
    | with_reducible apply State.writeRetire_keeps
    | split
    | with_reducible apply KeepsO.ite
    | with_reducible apply Keeps.ite
    | (intro)

theorem execSurveyInterval_keeps {k : State} {s : State} (h : Keeps k s) :
    KeepsX k (execSurveyInterval s) := by
  unfold execSurveyInterval
  refine attempt_keeps h fun z hz => ?_
  repeat' first
    | extract_lets
    | with_reducible exact KeepsO.none
    | with_reducible apply KeepsO.some
    | with_reducible assumption
    | with_reducible apply State.surveyPort_keeps
    | with_reducible apply Keeps.foldl
    | split
    | with_reducible apply KeepsO.ite
    | with_reducible apply Keeps.ite
    | (intro)
    | fail_if_no_progress with_reducible apply Keeps.update.mpr

theorem execRmeCtrlWrite_keeps {k : State} {v : Word} {s : State} (h : Keeps k s) :
    KeepsX k (execRmeCtrlWrite v s) := by
  unfold execRmeCtrlWrite
  refine attempt_keeps h fun z hz => ?_
  repeat' first
    | with_reducible exact KeepsO.none
    | with_reducible apply KeepsO.some
    | with_reducible assumption
    | with_reducible apply State.writeRmeCtrl_keeps
    | split
    | with_reducible apply KeepsO.ite
    | with_reducible apply Keeps.ite
    | (intro)

theorem execRmeInject_keeps {k : State} {q : ℕ} {s : State} (h : Keeps k s) :
    KeepsX k (execRmeInject q s) := by
  unfold execRmeInject
  refine attempt_keeps h fun z hz => ?_
  repeat' first
    | extract_lets
    | with_reducible exact KeepsO.none
    | with_reducible apply KeepsO.some
    | with_reducible assumption
    | with_reducible apply State.injectXfer_keeps
    | split
    | with_reducible apply KeepsO.ite
    | with_reducible apply Keeps.ite
    | (intro)
    | fail_if_no_progress with_reducible apply Keeps.update.mpr
    | dsimp +zetaDelta only

theorem execRload_keeps {k : State} {seq : ℕ} {s : State} (h : Keeps k s) :
    KeepsX k (execRload seq s) := by
  unfold execRload
  refine attempt_keeps h fun z hz => ?_
  repeat' first
    | with_reducible exact KeepsO.none
    | with_reducible apply KeepsO.some
    | with_reducible assumption
    | with_reducible apply State.launchRemote_keeps
    | split
    | with_reducible apply KeepsO.ite
    | with_reducible apply Keeps.ite
    | with_reducible refine Keeps.of_some (by assumption) ?_
    | (intro)

theorem execRstore_keeps {k : State} {seq : ℕ} {s : State} (h : Keeps k s) :
    KeepsX k (execRstore seq s) := by
  unfold execRstore
  refine attempt_keeps h fun z hz => ?_
  repeat' first
    | with_reducible exact KeepsO.none
    | with_reducible apply KeepsO.some
    | with_reducible assumption
    | with_reducible apply State.launchRemote_keeps
    | split
    | with_reducible apply KeepsO.ite
    | with_reducible apply Keeps.ite
    | with_reducible refine Keeps.of_some (by assumption) ?_
    | (intro)

theorem execMstore_keeps {k : State} {seq : ℕ} {s : State} (h : Keeps k s) :
    KeepsX k (execMstore seq s) := by
  unfold execMstore
  refine attempt_keeps h fun z hz => ?_
  repeat' first
    | with_reducible exact KeepsO.none
    | with_reducible apply KeepsO.some
    | with_reducible assumption
    | with_reducible apply State.launchRemote_keeps
    | split
    | with_reducible apply KeepsO.ite
    | with_reducible apply Keeps.ite
    | with_reducible refine Keeps.of_some (by assumption) ?_
    | (intro)

theorem execRatomic_keeps {k : State} {seq : ℕ} {s : State} (h : Keeps k s) :
    KeepsX k (execRatomic seq s) := by
  unfold execRatomic
  refine attempt_keeps h fun z hz => ?_
  repeat' first
    | with_reducible exact KeepsO.none
    | with_reducible apply KeepsO.some
    | with_reducible assumption
    | with_reducible apply State.launchRemote_keeps
    | split
    | with_reducible apply KeepsO.ite
    | with_reducible apply Keeps.ite
    | with_reducible refine Keeps.of_some (by assumption) ?_
    | (intro)

theorem execRreduce_keeps {k : State} {seq : ℕ} {s : State} (h : Keeps k s) :
    KeepsX k (execRreduce seq s) := by
  unfold execRreduce
  refine attempt_keeps h fun z hz => ?_
  repeat' first
    | with_reducible exact KeepsO.none
    | with_reducible apply KeepsO.some
    | with_reducible assumption
    | with_reducible apply State.launchRemote_keeps
    | split
    | with_reducible apply KeepsO.ite
    | with_reducible apply Keeps.ite
    | with_reducible refine Keeps.of_some (by assumption) ?_
    | (intro)

theorem execLoadData_keeps {k : State} {s : State} (h : Keeps k s) :
    KeepsX k (execLoadData s) := by
  unfold execLoadData
  refine attempt_keeps h fun z hz => ?_
  repeat' first
    | with_reducible exact KeepsO.none
    | with_reducible apply KeepsO.some
    | with_reducible assumption
    | with_reducible apply State.takeLoadData_keeps
    | with_reducible apply State.takeRx_keeps
    | with_reducible apply KeepsO.map1
    | with_reducible apply KeepsO.map2
    | split
    | with_reducible apply KeepsO.ite
    | with_reducible apply Keeps.ite
    | with_reducible refine Keeps.of_some2 (by assumption) ?_
    | (intro)

theorem execAtomicReply_keeps {k : State} {s : State} (h : Keeps k s) :
    KeepsX k (execAtomicReply s) := by
  unfold execAtomicReply
  refine attempt_keeps h fun z hz => ?_
  repeat' first
    | with_reducible exact KeepsO.none
    | with_reducible apply KeepsO.some
    | with_reducible assumption
    | with_reducible apply State.takeAtomicReply_keeps
    | with_reducible apply State.takeRx_keeps
    | with_reducible apply KeepsO.map1
    | with_reducible apply KeepsO.map2
    | split
    | with_reducible apply KeepsO.ite
    | with_reducible apply Keeps.ite
    | with_reducible refine Keeps.of_some2 (by assumption) ?_
    | (intro)

theorem execLoadReq_keeps {k : State} {s : State} (h : Keeps k s) :
    KeepsX k (execLoadReq s) := by
  unfold execLoadReq
  refine attempt_keeps h fun z hz => ?_
  repeat' first
    | with_reducible exact KeepsO.none
    | with_reducible apply KeepsO.some
    | with_reducible assumption
    | with_reducible apply State.serveLoad_keeps
    | with_reducible apply State.takeOrdered_keeps
    | with_reducible apply KeepsO.map1
    | with_reducible apply KeepsO.map2
    | split
    | with_reducible apply KeepsO.ite
    | with_reducible apply Keeps.ite
    | with_reducible refine Keeps.of_some2 (by assumption) ?_
    | (intro)

theorem execAtomic_keeps {k : State} {s : State} (h : Keeps k s) :
    KeepsX k (execAtomic s) := by
  unfold execAtomic
  refine attempt_keeps h fun z hz => ?_
  repeat' first
    | with_reducible exact KeepsO.none
    | with_reducible apply KeepsO.some
    | with_reducible assumption
    | with_reducible apply State.serveAtomic_keeps
    | with_reducible apply State.takeOrdered_keeps
    | with_reducible apply KeepsO.map1
    | with_reducible apply KeepsO.map2
    | split
    | with_reducible apply KeepsO.ite
    | with_reducible apply Keeps.ite
    | with_reducible refine Keeps.of_some2 (by assumption) ?_
    | (intro)

theorem execAtomicRetry_keeps {k : State} {s : State} (h : Keeps k s) :
    KeepsX k (execAtomicRetry s) := by
  unfold execAtomicRetry
  refine attempt_keeps h fun z hz => ?_
  repeat' first
    | with_reducible exact KeepsO.none
    | with_reducible apply KeepsO.some
    | with_reducible assumption
    | with_reducible apply State.serveAtomic_keeps
    | with_reducible apply State.takeOrdered_keeps
    | with_reducible apply KeepsO.map1
    | with_reducible apply KeepsO.map2
    | split
    | with_reducible apply KeepsO.ite
    | with_reducible apply Keeps.ite
    | with_reducible refine Keeps.of_some2 (by assumption) ?_
    | (intro)

theorem execReduce_keeps {k : State} {s : State} (h : Keeps k s) :
    KeepsX k (execReduce s) := by
  unfold execReduce
  refine attempt_keeps h fun z hz => ?_
  repeat' first
    | with_reducible exact KeepsO.none
    | with_reducible apply KeepsO.some
    | with_reducible assumption
    | with_reducible apply State.serveReduce_keeps
    | with_reducible apply State.takeOrdered_keeps
    | with_reducible apply KeepsO.map1
    | with_reducible apply KeepsO.map2
    | split
    | with_reducible apply KeepsO.ite
    | with_reducible apply Keeps.ite
    | with_reducible refine Keeps.of_some2 (by assumption) ?_
    | (intro)

theorem execReduceRetry_keeps {k : State} {s : State} (h : Keeps k s) :
    KeepsX k (execReduceRetry s) := by
  unfold execReduceRetry
  refine attempt_keeps h fun z hz => ?_
  repeat' first
    | with_reducible exact KeepsO.none
    | with_reducible apply KeepsO.some
    | with_reducible assumption
    | with_reducible apply State.serveReduce_keeps
    | with_reducible apply State.takeOrdered_keeps
    | with_reducible apply KeepsO.map1
    | with_reducible apply KeepsO.map2
    | split
    | with_reducible apply KeepsO.ite
    | with_reducible apply Keeps.ite
    | with_reducible refine Keeps.of_some2 (by assumption) ?_
    | (intro)

theorem execFanset_keeps {k : State} {s : State} (h : Keeps k s) :
    KeepsX k (execFanset s) := by
  unfold execFanset
  refine attempt_keeps h fun z hz => ?_
  repeat' first
    | with_reducible exact KeepsO.none
    | with_reducible apply KeepsO.some
    | with_reducible assumption
    | with_reducible apply State.serveFanset_keeps
    | with_reducible apply State.takeRx_keeps
    | with_reducible apply KeepsO.map1
    | with_reducible apply KeepsO.map2
    | split
    | with_reducible apply KeepsO.ite
    | with_reducible apply Keeps.ite
    | with_reducible refine Keeps.of_some2 (by assumption) ?_
    | (intro)

theorem execContrib_keeps {k : State} {s : State} (h : Keeps k s) :
    KeepsX k (execContrib s) := by
  unfold execContrib
  refine attempt_keeps h fun z hz => ?_
  repeat' first
    | with_reducible exact KeepsO.none
    | with_reducible apply KeepsO.some
    | with_reducible assumption
    | with_reducible apply State.takeContrib_keeps
    | with_reducible apply State.takeRx_keeps
    | with_reducible apply KeepsO.map1
    | with_reducible apply KeepsO.map2
    | split
    | with_reducible apply KeepsO.ite
    | with_reducible apply Keeps.ite
    | with_reducible refine Keeps.of_some2 (by assumption) ?_
    | (intro)

theorem execTackUp_keeps {k : State} {s : State} (h : Keeps k s) :
    KeepsX k (execTackUp s) := by
  unfold execTackUp
  refine attempt_keeps h fun z hz => ?_
  repeat' first
    | with_reducible exact KeepsO.none
    | with_reducible apply KeepsO.some
    | with_reducible assumption
    | with_reducible apply State.takeContrib_keeps
    | with_reducible apply State.takeRx_keeps
    | with_reducible apply KeepsO.map1
    | with_reducible apply KeepsO.map2
    | split
    | with_reducible apply KeepsO.ite
    | with_reducible apply Keeps.ite
    | with_reducible refine Keeps.of_some2 (by assumption) ?_
    | (intro)

theorem execResult_keeps {k : State} {s : State} (h : Keeps k s) :
    KeepsX k (execResult s) := by
  unfold execResult
  refine attempt_keeps h fun z hz => ?_
  repeat' first
    | with_reducible exact KeepsO.none
    | with_reducible apply KeepsO.some
    | with_reducible assumption
    | with_reducible apply State.takeDown_keeps
    | with_reducible apply State.takeRx_keeps
    | with_reducible apply KeepsO.map1
    | with_reducible apply KeepsO.map2
    | split
    | with_reducible apply KeepsO.ite
    | with_reducible apply Keeps.ite
    | with_reducible refine Keeps.of_some2 (by assumption) ?_
    | (intro)

theorem execTackDown_keeps {k : State} {s : State} (h : Keeps k s) :
    KeepsX k (execTackDown s) := by
  unfold execTackDown
  refine attempt_keeps h fun z hz => ?_
  repeat' first
    | with_reducible exact KeepsO.none
    | with_reducible apply KeepsO.some
    | with_reducible assumption
    | with_reducible apply State.takeDown_keeps
    | with_reducible apply State.takeRx_keeps
    | with_reducible apply KeepsO.map1
    | with_reducible apply KeepsO.map2
    | split
    | with_reducible apply KeepsO.ite
    | with_reducible apply Keeps.ite
    | with_reducible refine Keeps.of_some2 (by assumption) ?_
    | (intro)

theorem execDmmAr_keeps {k : State} {seq : ℕ} {s : State} (h : Keeps k s) :
    KeepsX k (execDmmAr seq s) := by
  unfold execDmmAr
  refine attempt_keeps h fun z hz => ?_
  repeat' first
    | with_reducible exact KeepsO.none
    | with_reducible apply KeepsO.some
    | with_reducible assumption
    | with_reducible apply State.startFused_keeps
    | with_reducible apply State.launch_keeps
    | with_reducible apply State.startDmm_keeps
    | split
    | with_reducible apply KeepsO.ite
    | with_reducible apply Keeps.ite
    | with_reducible refine Keeps.of_some (by assumption) ?_
    | (intro)

theorem execDmmRs_keeps {k : State} {seq : ℕ} {s : State} (h : Keeps k s) :
    KeepsX k (execDmmRs seq s) := by
  unfold execDmmRs
  refine attempt_keeps h fun z hz => ?_
  repeat' first
    | with_reducible exact KeepsO.none
    | with_reducible apply KeepsO.some
    | with_reducible assumption
    | with_reducible apply State.startFused_keeps
    | with_reducible apply State.launch_keeps
    | with_reducible apply State.startDmm_keeps
    | split
    | with_reducible apply KeepsO.ite
    | with_reducible apply Keeps.ite
    | with_reducible refine Keeps.of_some (by assumption) ?_
    | (intro)

theorem execDmmAg_keeps {k : State} {seq : ℕ} {s : State} (h : Keeps k s) :
    KeepsX k (execDmmAg seq s) := by
  unfold execDmmAg
  refine attempt_keeps h fun z hz => ?_
  repeat' first
    | with_reducible exact KeepsO.none
    | with_reducible apply KeepsO.some
    | with_reducible assumption
    | with_reducible apply State.startFused_keeps
    | with_reducible apply State.launch_keeps
    | with_reducible apply State.startDmm_keeps
    | split
    | with_reducible apply KeepsO.ite
    | with_reducible apply Keeps.ite
    | with_reducible refine Keeps.of_some (by assumption) ?_
    | (intro)

theorem execCollectAllReduce_keeps {k : State} {seq : ℕ} {s : State} (h : Keeps k s) :
    KeepsX k (execCollectAllReduce seq s) := by
  unfold execCollectAllReduce
  refine attempt_keeps h fun z hz => ?_
  repeat' first
    | with_reducible exact KeepsO.none
    | with_reducible apply KeepsO.some
    | with_reducible assumption
    | with_reducible apply State.launchCollect_keeps
    | split
    | with_reducible apply KeepsO.ite
    | with_reducible apply Keeps.ite
    | with_reducible refine Keeps.of_some (by assumption) ?_
    | (intro)

theorem execCollectReduceScatter_keeps {k : State} {seq : ℕ} {s : State} (h : Keeps k s) :
    KeepsX k (execCollectReduceScatter seq s) := by
  unfold execCollectReduceScatter
  refine attempt_keeps h fun z hz => ?_
  repeat' first
    | with_reducible exact KeepsO.none
    | with_reducible apply KeepsO.some
    | with_reducible assumption
    | with_reducible apply State.launchCollect_keeps
    | split
    | with_reducible apply KeepsO.ite
    | with_reducible apply Keeps.ite
    | with_reducible refine Keeps.of_some (by assumption) ?_
    | (intro)

theorem execCollectAllGather_keeps {k : State} {seq : ℕ} {s : State} (h : Keeps k s) :
    KeepsX k (execCollectAllGather seq s) := by
  unfold execCollectAllGather
  refine attempt_keeps h fun z hz => ?_
  repeat' first
    | with_reducible exact KeepsO.none
    | with_reducible apply KeepsO.some
    | with_reducible assumption
    | with_reducible apply State.launchCollect_keeps
    | split
    | with_reducible apply KeepsO.ite
    | with_reducible apply Keeps.ite
    | with_reducible refine Keeps.of_some (by assumption) ?_
    | (intro)

theorem execCollectBroadcast_keeps {k : State} {seq : ℕ} {s : State} (h : Keeps k s) :
    KeepsX k (execCollectBroadcast seq s) := by
  unfold execCollectBroadcast
  refine attempt_keeps h fun z hz => ?_
  repeat' first
    | with_reducible exact KeepsO.none
    | with_reducible apply KeepsO.some
    | with_reducible assumption
    | with_reducible apply State.launchCollect_keeps
    | split
    | with_reducible apply KeepsO.ite
    | with_reducible apply Keeps.ite
    | with_reducible refine Keeps.of_some (by assumption) ?_
    | (intro)

theorem execCollectBarrier_keeps {k : State} {seq : ℕ} {s : State} (h : Keeps k s) :
    KeepsX k (execCollectBarrier seq s) := by
  unfold execCollectBarrier
  refine attempt_keeps h fun z hz => ?_
  repeat' first
    | with_reducible exact KeepsO.none
    | with_reducible apply KeepsO.some
    | with_reducible assumption
    | with_reducible apply State.launchCollect_keeps
    | split
    | with_reducible apply KeepsO.ite
    | with_reducible apply Keeps.ite
    | with_reducible refine Keeps.of_some (by assumption) ?_
    | (intro)

theorem execRing_keeps {k : State} {s : State} (h : Keeps k s) :
    KeepsX k (execRing s) := by
  unfold execRing
  refine attempt_keeps h fun z hz => ?_
  repeat' first
    | with_reducible exact KeepsO.none
    | with_reducible apply KeepsO.some
    | with_reducible assumption
    | with_reducible apply State.serveRing_keeps
    | with_reducible apply State.takeRing_keeps
    | with_reducible apply KeepsO.map1
    | with_reducible apply KeepsO.map2
    | split
    | with_reducible apply KeepsO.ite
    | with_reducible apply Keeps.ite
    | with_reducible refine Keeps.of_some2 (by assumption) ?_
    | (intro)

theorem execCollectiveTimeout_keeps {k : State} {g : ℕ} {s : State} (h : Keeps k s) :
    KeepsX k (execCollectiveTimeout g s) := by
  unfold execCollectiveTimeout
  refine attempt_keeps h fun z hz => ?_
  repeat' first
    | with_reducible exact KeepsO.none
    | with_reducible apply KeepsO.some
    | with_reducible assumption
    | with_reducible apply State.timeoutColl_keeps
    | split
    | with_reducible apply KeepsO.ite
    | with_reducible apply Keeps.ite
    | with_reducible refine Keeps.of_some (by assumption) ?_
    | (intro)
    | fail_if_no_progress with_reducible apply Keeps.update.mpr

theorem execDone_keeps {k : State} {s : State} (h : Keeps k s) :
    KeepsX k (execDone s) := by
  unfold execDone
  refine attempt_keeps h fun z hz => ?_
  repeat' first
    | with_reducible exact KeepsO.none
    | with_reducible apply KeepsO.some
    | with_reducible assumption
    | with_reducible apply State.serveDone_keeps
    | with_reducible apply State.takeRx_keeps
    | with_reducible apply KeepsO.map1
    | with_reducible apply KeepsO.map2
    | split
    | with_reducible apply KeepsO.ite
    | with_reducible apply Keeps.ite
    | with_reducible refine Keeps.of_some2 (by assumption) ?_
    | (intro)

theorem execClosed_keeps {k : State} {s : State} (h : Keeps k s) :
    KeepsX k (execClosed s) := by
  unfold execClosed
  refine attempt_keeps h fun z hz => ?_
  repeat' first
    | with_reducible exact KeepsO.none
    | with_reducible apply KeepsO.some
    | with_reducible assumption
    | with_reducible apply State.serveClosed_keeps
    | with_reducible apply State.takeRx_keeps
    | with_reducible apply KeepsO.map1
    | with_reducible apply KeepsO.map2
    | split
    | with_reducible apply KeepsO.ite
    | with_reducible apply Keeps.ite
    | with_reducible refine Keeps.of_some2 (by assumption) ?_
    | (intro)

theorem execClosingTimeout_keeps {k : State} {g : ℕ} {s : State} (h : Keeps k s) :
    KeepsX k (execClosingTimeout g s) := by
  unfold execClosingTimeout
  refine attempt_keeps h fun z hz => ?_
  repeat' first
    | with_reducible exact KeepsO.none
    | with_reducible apply KeepsO.some
    | with_reducible assumption
    | with_reducible apply State.rootCloses_keeps
    | split
    | with_reducible apply KeepsO.ite
    | with_reducible apply Keeps.ite
    | (intro)
    | fail_if_no_progress with_reducible apply Keeps.update.mpr

theorem execColGroupWrite_keeps {k : State} {g : ℕ} {w : ℕ} {v : Word} {s : State} (h : Keeps k s) :
    KeepsX k (execColGroupWrite g w v s) := by
  unfold execColGroupWrite
  refine attempt_keeps h fun z hz => ?_
  repeat' first
    | with_reducible exact KeepsO.none
    | with_reducible apply KeepsO.some
    | with_reducible assumption
    | with_reducible apply State.writeGroup_keeps
    | split
    | with_reducible apply KeepsO.ite
    | with_reducible apply Keeps.ite
    | (intro)

theorem execDispatchX_keeps {k : State} {seq : ℕ} {s : State} (h : Keeps k s) :
    KeepsX k (execDispatchX seq s) := by
  unfold execDispatchX
  refine attempt_keeps h fun z hz => ?_
  repeat' first
    | with_reducible exact KeepsO.none
    | with_reducible apply KeepsO.some
    | with_reducible assumption
    | with_reducible apply State.launch_keeps
    | with_reducible apply State.startDispatchX_keeps
    | split
    | with_reducible apply KeepsO.ite
    | with_reducible apply Keeps.ite
    | with_reducible refine Keeps.of_some (by assumption) ?_
    | (intro)

theorem execCombineX_keeps {k : State} {seq : ℕ} {s : State} (h : Keeps k s) :
    KeepsX k (execCombineX seq s) := by
  unfold execCombineX
  refine attempt_keeps h fun z hz => ?_
  repeat' first
    | with_reducible exact KeepsO.none
    | with_reducible apply KeepsO.some
    | with_reducible assumption
    | with_reducible apply State.launch_keeps
    | with_reducible apply State.startCombineX_keeps
    | split
    | with_reducible apply KeepsO.ite
    | with_reducible apply Keeps.ite
    | with_reducible refine Keeps.of_some (by assumption) ?_
    | (intro)

theorem execCollectiveEnter_keeps {k : State} {seq : ℕ} {s : State} (h : Keeps k s) :
    KeepsX k (execCollectiveEnter seq s) := by
  unfold execCollectiveEnter
  refine attempt_keeps h fun z hz => ?_
  repeat' first
    | with_reducible exact KeepsO.none
    | with_reducible apply KeepsO.some
    | with_reducible assumption
    | with_reducible apply State.enterXchg_keeps
    | with_reducible apply State.enterTask_keeps
    | split
    | with_reducible apply KeepsO.ite
    | with_reducible apply Keeps.ite
    | with_reducible refine Keeps.of_some (by assumption) ?_
    | (intro)
    | fail_if_no_progress with_reducible apply Keeps.update.mpr

theorem execXcount_keeps {k : State} {s : State} (h : Keeps k s) :
    KeepsX k (execXcount s) := by
  unfold execXcount
  refine attempt_keeps h fun z hz => ?_
  repeat' first
    | with_reducible exact KeepsO.none
    | with_reducible apply KeepsO.some
    | with_reducible assumption
    | with_reducible apply State.serveXcount_keeps
    | with_reducible apply State.takeXcount_keeps
    | with_reducible apply KeepsO.map1
    | with_reducible apply KeepsO.map2
    | split
    | with_reducible apply KeepsO.ite
    | with_reducible apply Keeps.ite
    | with_reducible refine Keeps.of_some2 (by assumption) ?_
    | (intro)

theorem execXcountTimeout_keeps {k : State} {seq : ℕ} {s : State} (h : Keeps k s) :
    KeepsX k (execXcountTimeout seq s) := by
  unfold execXcountTimeout
  refine attempt_keeps h fun z hz => ?_
  repeat' first
    | with_reducible exact KeepsO.none
    | with_reducible apply KeepsO.some
    | with_reducible assumption
    | with_reducible apply State.addReg_keeps
    | with_reducible apply State.abortXchg_keeps
    | split
    | with_reducible apply KeepsO.ite
    | with_reducible apply Keeps.ite
    | (intro)
    | fail_if_no_progress with_reducible apply Keeps.update.mpr

theorem execAbort_keeps {k : State} {s : State} (h : Keeps k s) :
    KeepsX k (execAbort s) := by
  unfold execAbort
  refine attempt_keeps h fun z hz => ?_
  repeat' first
    | with_reducible exact KeepsO.none
    | with_reducible apply KeepsO.some
    | with_reducible assumption
    | with_reducible apply State.takeAbort_keeps
    | with_reducible apply State.takeRx_keeps
    | with_reducible apply KeepsO.map1
    | with_reducible apply KeepsO.map2
    | split
    | with_reducible apply KeepsO.ite
    | with_reducible apply Keeps.ite
    | with_reducible refine Keeps.of_some2 (by assumption) ?_
    | (intro)

theorem execStore_keeps {k : State} {s : State} (h : Keeps k s) :
    KeepsX k (execStore s) := by
  unfold execStore
  refine attempt_keeps h fun z hz => ?_
  repeat' first
    | with_reducible exact KeepsO.none
    | with_reducible apply KeepsO.some
    | with_reducible assumption
    | with_reducible apply State.takeRows_keeps
    | with_reducible apply State.serveStore_keeps
    | with_reducible apply State.takeStore_keeps
    | with_reducible apply KeepsO.map1
    | with_reducible apply KeepsO.map2
    | split
    | with_reducible apply KeepsO.ite
    | with_reducible apply Keeps.ite
    | with_reducible refine Keeps.of_some2 (by assumption) ?_
    | (intro)

theorem execMdata_keeps {k : State} {s : State} (h : Keeps k s) :
    KeepsX k (execMdata s) := by
  unfold execMdata
  refine attempt_keeps h fun z hz => ?_
  repeat' first
    | with_reducible exact KeepsO.none
    | with_reducible apply KeepsO.some
    | with_reducible assumption
    | with_reducible apply State.serveMdata_keeps
    | with_reducible apply State.takeMdata_keeps
    | with_reducible apply KeepsO.map1
    | with_reducible apply KeepsO.map2
    | split
    | with_reducible apply KeepsO.ite
    | with_reducible apply Keeps.ite
    | with_reducible refine Keeps.of_some2 (by assumption) ?_
    | (intro)

theorem execCombinePhase1Start_keeps {k : State} {seq : ℕ} {s : State} (h : Keeps k s) :
    KeepsX k (execCombinePhase1Start seq s) := by
  unfold execCombinePhase1Start
  refine attempt_keeps h fun z hz => ?_
  repeat' first
    | extract_lets
    | with_reducible exact KeepsO.none
    | with_reducible apply KeepsO.some
    | with_reducible assumption
    | with_reducible apply State.settleXchg_keeps
    | with_reducible apply State.runPhases_keeps
    | with_reducible apply KeepsO.map1
    | with_reducible apply KeepsO.map2
    | split
    | with_reducible apply KeepsO.ite
    | with_reducible apply Keeps.ite
    | (intro)
    | fail_if_no_progress with_reducible apply Keeps.update.mpr
    | dsimp +zetaDelta only

theorem execAck_keeps {k : State} {s : State} (h : Keeps k s) :
    KeepsX k (execAck s) := by
  unfold execAck
  refine attempt_keeps h fun z hz => ?_
  repeat' first
    | with_reducible exact KeepsO.none
    | with_reducible apply KeepsO.some
    | with_reducible assumption
    | with_reducible apply State.takeAck_keeps
    | with_reducible apply State.takeRx_keeps
    | with_reducible apply KeepsO.map1
    | with_reducible apply KeepsO.map2
    | split
    | with_reducible apply KeepsO.ite
    | with_reducible apply Keeps.ite
    | with_reducible refine Keeps.of_some2 (by assumption) ?_
    | (intro)

theorem execDrop_keeps {k : State} {s : State} (h : Keeps k s) :
    KeepsX k (execDrop s) := by
  unfold execDrop
  refine attempt_keeps h fun z hz => ?_
  repeat' first
    | with_reducible exact KeepsO.none
    | with_reducible apply KeepsO.some
    | with_reducible assumption
    | with_reducible apply State.takeDrop_keeps
    | with_reducible apply State.takeRx_keeps
    | with_reducible apply KeepsO.map1
    | with_reducible apply KeepsO.map2
    | split
    | with_reducible apply KeepsO.ite
    | with_reducible apply Keeps.ite
    | with_reducible refine Keeps.of_some2 (by assumption) ?_
    | (intro)

theorem execRmeReplyTimeout_keeps {k : State} {txn : ℕ} {off : ℕ} {s : State} (h : Keeps k s) :
    KeepsX k (execRmeReplyTimeout txn off s) := by
  unfold execRmeReplyTimeout
  refine attempt_keeps h fun z hz => ?_
  repeat' first
    | with_reducible exact KeepsO.none
    | with_reducible apply KeepsO.some
    | with_reducible assumption
    | with_reducible apply State.lose_keeps
    | with_reducible apply State.retryReq_keeps
    | split
    | with_reducible apply KeepsO.ite
    | with_reducible apply Keeps.ite
    | (intro)
    | fail_if_no_progress with_reducible apply Keeps.update.mpr

theorem execBusyResend_keeps {k : State} {txn : ℕ} {off : ℕ} {s : State} (h : Keeps k s) :
    KeepsX k (execBusyResend txn off s) := by
  unfold execBusyResend
  refine attempt_keeps h fun z hz => ?_
  repeat' first
    | extract_lets
    | with_reducible exact KeepsO.none
    | with_reducible apply KeepsO.some
    | with_reducible assumption
    | with_reducible apply State.addReg_keeps
    | with_reducible apply State.injectPkt_keeps
    | with_reducible apply State.setXfer_keeps
    | with_reducible apply KeepsO.map1
    | with_reducible apply KeepsO.map2
    | split
    | with_reducible apply KeepsO.ite
    | with_reducible apply Keeps.ite
    | (intro)
    | fail_if_no_progress with_reducible apply Keeps.update.mpr
    | dsimp +zetaDelta only

theorem execMstoreTimeout_keeps {k : State} {seq : ℕ} {s : State} (h : Keeps k s) :
    KeepsX k (execMstoreTimeout seq s) := by
  unfold execMstoreTimeout
  refine attempt_keeps h fun z hz => ?_
  repeat' first
    | extract_lets
    | with_reducible exact KeepsO.none
    | with_reducible apply KeepsO.some
    | with_reducible assumption
    | with_reducible apply State.lose_keeps
    | with_reducible apply State.endMstore_keeps
    | with_reducible apply Keeps.foldl
    | with_reducible apply Keeps.foldl1
    | with_reducible apply Keeps.foldl2
    | with_reducible apply KeepsO.map1
    | with_reducible apply KeepsO.map2
    | split
    | with_reducible apply KeepsO.ite
    | with_reducible apply Keeps.ite
    | (intro)
    | fail_if_no_progress with_reducible apply Keeps.update.mpr
    | dsimp +zetaDelta only

theorem execPortTrainingStart_keeps {k : State} {p : ℕ} {s : State} (h : Keeps k s) :
    KeepsX k (execPortTrainingStart p s) := by
  unfold execPortTrainingStart
  refine attempt_keeps h fun z hz => ?_
  repeat' first
    | with_reducible exact KeepsO.none
    | with_reducible apply KeepsO.some
    | with_reducible assumption
    | with_reducible apply State.modPort_keeps
    | with_reducible apply State.setPortState_keeps
    | split
    | with_reducible apply KeepsO.ite
    | with_reducible apply Keeps.ite
    | (intro)
    | fail_if_no_progress with_reducible apply Keeps.update.mpr

theorem execPortTrainingComplete_keeps {k : State} {p : ℕ} {r : Training} {s : State} (h : Keeps k s) :
    KeepsX k (execPortTrainingComplete p r s) := by
  unfold execPortTrainingComplete
  refine attempt_keeps h fun z hz => ?_
  repeat' first
    | extract_lets
    | with_reducible exact KeepsO.none
    | with_reducible apply KeepsO.some
    | with_reducible assumption
    | with_reducible apply State.endTraining_keeps
    | split
    | with_reducible apply KeepsO.ite
    | with_reducible apply Keeps.ite
    | (intro)

theorem execLaneLockLoss_keeps {k : State} {p : ℕ} {s : State} (h : Keeps k s) :
    KeepsX k (execLaneLockLoss p s) := by
  unfold execLaneLockLoss
  refine attempt_keeps h fun z hz => ?_
  repeat' first
    | with_reducible exact KeepsO.none
    | with_reducible apply KeepsO.some
    | with_reducible assumption
    | with_reducible apply State.portDown_keeps
    | split
    | with_reducible apply KeepsO.ite
    | with_reducible apply Keeps.ite
    | (intro)

theorem execFrameReceive_keeps {k : State} {p : ℕ} {f : Frame} {s : State} (h : Keeps k s) :
    KeepsX k (execFrameReceive p f s) := by
  unfold execFrameReceive
  refine attempt_keeps h fun z hz => ?_
  repeat' first
    | with_reducible exact KeepsO.none
    | with_reducible apply KeepsO.some
    | with_reducible assumption
    | with_reducible apply State.receiveFrame_keeps
    | split
    | with_reducible apply KeepsO.ite
    | with_reducible apply Keeps.ite
    | (intro)

theorem execRetryRequest_keeps {k : State} {p : ℕ} {fseq : ℕ} {s : State} (h : Keeps k s) :
    KeepsX k (execRetryRequest p fseq s) := by
  unfold execRetryRequest
  refine attempt_keeps h fun z hz => ?_
  repeat' first
    | with_reducible exact KeepsO.none
    | with_reducible apply KeepsO.some
    | with_reducible assumption
    | with_reducible apply State.resendFrom_keeps
    | split
    | with_reducible apply KeepsO.ite
    | with_reducible apply Keeps.ite
    | with_reducible refine Keeps.of_some (by assumption) ?_
    | (intro)

theorem execLinkCredential_keeps {k : State} {p : ℕ} {cred : List Byte} {sig : List Byte} {s : State} (h : Keeps k
    s) :
    KeepsX k (execLinkCredential p cred sig s) := by
  unfold execLinkCredential
  refine attempt_keeps h fun z hz => ?_
  repeat' first
    | with_reducible exact KeepsO.none
    | with_reducible apply KeepsO.some
    | with_reducible assumption
    | with_reducible apply State.sendCiphertext_keeps
    | with_reducible apply State.encapsulate_keeps
    | with_reducible apply State.modPort_keeps
    | with_reducible apply State.keyingFails_keeps
    | split
    | with_reducible apply KeepsO.ite
    | with_reducible apply Keeps.ite
    | (intro)
    | fail_if_no_progress with_reducible apply Keeps.update.mpr

theorem execKeyCiphertext_keeps {k : State} {p : ℕ} {ct : List Byte} {s : State} (h : Keeps k s) :
    KeepsX k (execKeyCiphertext p ct s) := by
  unfold execKeyCiphertext
  refine attempt_keeps h fun z hz => ?_
  repeat' first
    | with_reducible exact KeepsO.none
    | with_reducible apply KeepsO.some
    | with_reducible assumption
    | with_reducible apply State.keyingFails_keeps
    | with_reducible apply State.keyingDone_keeps
    | with_reducible apply State.rekeyed_keeps
    | split
    | with_reducible apply KeepsO.ite
    | with_reducible apply Keeps.ite
    | (intro)

theorem execRekeyDue_keeps {k : State} {p : ℕ} {s : State} (h : Keeps k s) :
    KeepsX k (execRekeyDue p s) := by
  unfold execRekeyDue
  refine attempt_keeps h fun z hz => ?_
  repeat' first
    | with_reducible exact KeepsO.none
    | with_reducible apply KeepsO.some
    | with_reducible assumption
    | with_reducible apply State.injectKey_keeps
    | with_reducible apply State.modPort_keeps
    | with_reducible apply State.encapsulate_keeps
    | split
    | with_reducible apply KeepsO.ite
    | with_reducible apply Keeps.ite
    | (intro)
    | fail_if_no_progress with_reducible apply Keeps.update.mpr

theorem execPortEnableWrite_keeps {k : State} {p : ℕ} {v : Word} {s : State} (h : Keeps k s) :
    KeepsX k (execPortEnableWrite p v s) := by
  unfold execPortEnableWrite
  refine attempt_keeps h fun z hz => ?_
  repeat' first
    | with_reducible exact KeepsO.none
    | with_reducible apply KeepsO.some
    | with_reducible assumption
    | with_reducible apply State.writePortCtrl_keeps
    | split
    | with_reducible apply KeepsO.ite
    | with_reducible apply Keeps.ite
    | (intro)

theorem execIslandLost_keeps {k : State} {domain : ℕ} {s : State} (h : Keeps k s) :
    KeepsX k (execIslandLost domain s) := by
  unfold execIslandLost
  refine attempt_keeps h fun z hz => ?_
  repeat' first
    | with_reducible exact KeepsO.none
    | with_reducible apply KeepsO.some
    | with_reducible assumption
    | with_reducible apply State.deviceStop_keeps
    | with_reducible apply State.setBit_keeps
    | split
    | with_reducible apply KeepsO.ite
    | with_reducible apply Keeps.ite
    | (intro)

theorem execStewardWatchdog_keeps {k : State} {core : ℕ} {s : State} (h : Keeps k s) :
    KeepsX k (execStewardWatchdog core s) := by
  unfold execStewardWatchdog
  refine attempt_keeps h fun z hz => ?_
  repeat' first
    | with_reducible exact KeepsO.none
    | with_reducible apply KeepsO.some
    | with_reducible assumption
    | with_reducible apply State.deviceStop_keeps
    | split
    | with_reducible apply KeepsO.ite
    | with_reducible apply Keeps.ite
    | (intro)

theorem execMeshFlitResend_keeps {k : State} {link : BitVec 16} {s : State} (h : Keeps k s) :
    KeepsX k (execMeshFlitResend link s) := by
  unfold execMeshFlitResend
  refine attempt_keeps h fun z hz => ?_
  repeat' first
    | extract_lets
    | with_reducible exact KeepsO.none
    | with_reducible apply KeepsO.some
    | with_reducible assumption
    | with_reducible apply State.setReg_keeps
    | with_reducible apply State.addReg_keeps
    | with_reducible apply State.modRru_keeps
    | with_reducible apply State.deviceStop_keeps
    | with_reducible apply State.setBit_keeps
    | with_reducible apply State.record_keeps
    | split
    | with_reducible apply KeepsO.ite
    | with_reducible apply Keeps.ite
    | (intro)
    | fail_if_no_progress with_reducible apply Keeps.update.mpr

theorem execCoreFaultDetect_keeps {k : State} {core : ℕ} {cause : CoreCause} {s : State} (h : Keeps k s) :
    KeepsX k (execCoreFaultDetect core cause s) := by
  unfold execCoreFaultDetect
  refine attempt_keeps h fun z hz => ?_
  repeat' first
    | with_reducible exact KeepsO.none
    | with_reducible apply KeepsO.some
    | with_reducible assumption
    | with_reducible apply State.coreFault_keeps
    | split
    | with_reducible apply KeepsO.ite
    | with_reducible apply Keeps.ite
    | with_reducible refine Keeps.of_some (by assumption) ?_
    | (intro)

theorem execPatchComplete_keeps {k : State} {core : ℕ} {s : State} (h : Keeps k s) :
    KeepsX k (execPatchComplete core s) := by
  unfold execPatchComplete
  refine attempt_keeps h fun z hz => ?_
  repeat' first
    | extract_lets
    | with_reducible exact KeepsO.none
    | with_reducible apply KeepsO.some
    | with_reducible assumption
    | with_reducible apply State.dropPatching_keeps
    | with_reducible apply State.setFld_keeps
    | with_reducible apply State.setReg_keeps
    | with_reducible apply State.modRru_keeps
    | with_reducible apply State.record_keeps
    | with_reducible apply State.loseWaiting_keeps
    | split
    | with_reducible apply KeepsO.ite
    | with_reducible apply Keeps.ite
    | (intro)
    | fail_if_no_progress with_reducible apply Keeps.update.mpr

theorem execPatchGo_keeps {k : State} {v : Word} {s : State} (h : Keeps k s) :
    KeepsX k (execPatchGo v s) := by
  unfold execPatchGo
  refine attempt_keeps h fun z hz => ?_
  repeat' first
    | with_reducible exact KeepsO.none
    | with_reducible apply KeepsO.some
    | with_reducible assumption
    | with_reducible apply State.writePatch_keeps
    | split
    | with_reducible apply KeepsO.ite
    | with_reducible apply Keeps.ite
    | (intro)

theorem execPatchWaitTimeout_keeps {k : State} {core : ℕ} {s : State} (h : Keeps k s) :
    KeepsX k (execPatchWaitTimeout core s) := by
  unfold execPatchWaitTimeout
  refine attempt_keeps h fun z hz => ?_
  repeat' first
    | with_reducible exact KeepsO.none
    | with_reducible apply KeepsO.some
    | with_reducible assumption
    | with_reducible apply State.loseCore_keeps
    | split
    | with_reducible apply KeepsO.ite
    | with_reducible apply Keeps.ite
    | (intro)

theorem execEngineFaultDetect_keeps {k : State} {f : ℕ} {s : State} (h : Keeps k s) :
    KeepsX k (execEngineFaultDetect f s) := by
  unfold execEngineFaultDetect
  refine attempt_keeps h fun z hz => ?_
  repeat' first
    | extract_lets
    | with_reducible exact KeepsO.none
    | with_reducible apply KeepsO.some
    | with_reducible assumption
    | with_reducible apply State.fencedTask_keeps
    | with_reducible apply State.record_keeps
    | with_reducible apply State.modTask_keeps
    | with_reducible apply State.dropXfers_keeps
    | with_reducible apply State.scrambleOutputs_keeps
    | with_reducible apply State.setBit_keeps
    | split
    | with_reducible apply KeepsO.ite
    | with_reducible apply Keeps.ite
    | (intro)
    | fail_if_no_progress with_reducible apply Keeps.update.mpr
    | dsimp +zetaDelta only

theorem execTrigGo_keeps {k : State} {full : Bool} {s : State} (h : Keeps k s) :
    KeepsX k (execTrigGo full s) := by
  unfold execTrigGo
  refine attempt_keeps h fun z hz => ?_
  repeat' first
    | with_reducible exact KeepsO.none
    | with_reducible apply KeepsO.some
    | with_reducible assumption
    | with_reducible apply State.trigGo_keeps
    | split
    | with_reducible apply KeepsO.ite
    | with_reducible apply Keeps.ite
    | (intro)

theorem execTrigComplete_keeps {k : State} {s : State} (h : Keeps k s) :
    KeepsX k (execTrigComplete s) := by
  unfold execTrigComplete
  refine attempt_keeps h fun z hz => ?_
  repeat' first
    | extract_lets
    | with_reducible exact KeepsO.none
    | with_reducible apply KeepsO.some
    | with_reducible assumption
    | with_reducible apply State.trigWrite_keeps
    | split
    | with_reducible apply KeepsO.ite
    | with_reducible apply Keeps.ite
    | (intro)
    | fail_if_no_progress with_reducible apply Keeps.update.mpr
    | dsimp +zetaDelta only

theorem execTrigSigned_keeps {k : State} {s : State} (h : Keeps k s) :
    KeepsX k (execTrigSigned s) := by
  unfold execTrigSigned
  refine attempt_keeps h fun z hz => ?_
  repeat' first
    | extract_lets
    | with_reducible exact KeepsO.none
    | with_reducible apply KeepsO.some
    | with_reducible assumption
    | with_reducible apply State.nextSigning_keeps
    | with_reducible apply State.signTrig_keeps
    | with_reducible apply State.identitySign_keeps
    | with_reducible apply State.irq_keeps
    | with_reducible apply State.modRru_keeps
    | with_reducible apply State.setBit_keeps
    | with_reducible apply State.putBytes_keeps
    | split
    | with_reducible apply KeepsO.ite
    | with_reducible apply Keeps.ite
    | with_reducible refine Keeps.of_snd (by assumption) ?_
    | (intro)
    | fail_if_no_progress with_reducible apply Keeps.update.mpr
    | dsimp +zetaDelta only

theorem execDigestReqGo_keeps {k : State} {region : ℕ} {s : State} (h : Keeps k s) :
    KeepsX k (execDigestReqGo region s) := by
  unfold execDigestReqGo
  refine attempt_keeps h fun z hz => ?_
  repeat' first
    | with_reducible exact KeepsO.none
    | with_reducible apply KeepsO.some
    | with_reducible assumption
    | with_reducible apply State.writeDigestReq_keeps
    | split
    | with_reducible apply KeepsO.ite
    | with_reducible apply Keeps.ite
    | (intro)

theorem execRegionDigestComplete_keeps {k : State} {s : State} (h : Keeps k s) :
    KeepsX k (execRegionDigestComplete s) := by
  unfold execRegionDigestComplete
  refine attempt_keeps h fun z hz => ?_
  repeat' first
    | extract_lets
    | with_reducible exact KeepsO.none
    | with_reducible apply KeepsO.some
    | with_reducible assumption
    | with_reducible apply State.setReg_keeps
    | with_reducible apply State.modRru_keeps
    | with_reducible apply State.setBit_keeps
    | with_reducible apply Keeps.foldl
    | split
    | with_reducible apply KeepsO.ite
    | with_reducible apply Keeps.ite
    | (intro)
    | fail_if_no_progress with_reducible apply Keeps.update.mpr
    | dsimp +zetaDelta only

theorem execLogTailWrite_keeps {k : State} {v : Word} {s : State} (h : Keeps k s) :
    KeepsX k (execLogTailWrite v s) := by
  unfold execLogTailWrite
  refine attempt_keeps h fun z hz => ?_
  repeat' first
    | with_reducible exact KeepsO.none
    | with_reducible apply KeepsO.some
    | with_reducible assumption
    | with_reducible apply State.writeLogTail_keeps
    | split
    | with_reducible apply KeepsO.ite
    | with_reducible apply Keeps.ite
    | (intro)

theorem execTaskComplete_keeps {k : State} {seq : ℕ} {s : State} (h : Keeps k s) :
    KeepsX k (execTaskComplete seq s) := by
  unfold execTaskComplete
  refine attempt_keeps h fun z hz => ?_
  repeat' first
    | extract_lets
    | with_reducible exact KeepsO.none
    | with_reducible apply KeepsO.some
    | with_reducible assumption
    | with_reducible apply State.takeUpReplies_keeps
    | with_reducible apply State.settleRemote_keeps
    | with_reducible apply State.memberDone_keeps
    | with_reducible apply State.finish_keeps
    | split
    | with_reducible apply KeepsO.ite
    | with_reducible apply Keeps.ite
    | (intro)
    | fail_if_no_progress with_reducible apply Keeps.update.mpr
    | dsimp +zetaDelta only

theorem execFunctionHaltComplete_keeps {k : State} {f : ℕ} {s : State} (h : Keeps k s) :
    KeepsX k (execFunctionHaltComplete f s) := by
  unfold execFunctionHaltComplete
  refine attempt_keeps h fun z hz => ?_
  repeat' first
    | extract_lets
    | with_reducible exact KeepsO.none
    | with_reducible apply KeepsO.some
    | with_reducible assumption
    | with_reducible apply State.haltComplete_keeps
    | split
    | with_reducible apply KeepsO.ite
    | with_reducible apply Keeps.ite
    | (intro)

theorem execCmdHalt_keeps {k : State} {s : State} (h : Keeps k s) :
    KeepsX k (execCmdHalt s) := by
  unfold execCmdHalt
  refine attempt_keeps h fun z hz => ?_
  repeat' first
    | with_reducible exact KeepsO.none
    | with_reducible apply KeepsO.some
    | with_reducible assumption
    | with_reducible apply State.requestHalt_keeps
    | split
    | with_reducible apply KeepsO.ite
    | with_reducible apply Keeps.ite
    | (intro)

theorem execCmdResume_keeps {k : State} {s : State} (h : Keeps k s) :
    KeepsX k (execCmdResume s) := by
  unfold execCmdResume
  refine attempt_keeps h fun z hz => ?_
  repeat' first
    | with_reducible exact KeepsO.none
    | with_reducible apply KeepsO.some
    | with_reducible assumption
    | with_reducible apply State.controlResume_keeps
    | split
    | with_reducible apply KeepsO.ite
    | with_reducible apply Keeps.ite
    | (intro)

theorem execRruHalt_keeps {k : State} {s : State} (h : Keeps k s) :
    KeepsX k (execRruHalt s) := by
  unfold execRruHalt
  refine attempt_keeps h fun z hz => ?_
  repeat' first
    | with_reducible exact KeepsO.none
    | with_reducible apply KeepsO.some
    | with_reducible assumption
    | with_reducible apply State.requestHalt_keeps
    | split
    | with_reducible apply KeepsO.ite
    | with_reducible apply Keeps.ite
    | (intro)

theorem execRruResume_keeps {k : State} {s : State} (h : Keeps k s) :
    KeepsX k (execRruResume s) := by
  unfold execRruResume
  refine attempt_keeps h fun z hz => ?_
  repeat' first
    | with_reducible exact KeepsO.none
    | with_reducible apply KeepsO.some
    | with_reducible assumption
    | with_reducible apply State.controlResume_keeps
    | split
    | with_reducible apply KeepsO.ite
    | with_reducible apply Keeps.ite
    | (intro)

theorem execHalt_keeps {k : State} {seq : ℕ} {s : State} (h : Keeps k s) :
    KeepsX k (execHalt seq s) := by
  unfold execHalt
  refine attempt_keeps h fun z hz => ?_
  repeat' first
    | extract_lets
    | with_reducible exact KeepsO.none
    | with_reducible apply KeepsO.some
    | with_reducible assumption
    | with_reducible apply State.tryIssue_keeps
    | with_reducible apply State.requestHalt_keeps
    | with_reducible apply State.completeNow_keeps
    | split
    | with_reducible apply KeepsO.ite
    | with_reducible apply Keeps.ite
    | with_reducible refine Keeps.of_some1 (by assumption) ?_
    | (intro)
    | fail_if_no_progress with_reducible apply Keeps.update.mpr
    | dsimp +zetaDelta only

theorem execResume_keeps {k : State} {seq : ℕ} {s : State} (h : Keeps k s) :
    KeepsX k (execResume seq s) := by
  unfold execResume
  refine attempt_keeps h fun z hz => ?_
  repeat' first
    | extract_lets
    | with_reducible exact KeepsO.none
    | with_reducible apply KeepsO.some
    | with_reducible assumption
    | with_reducible apply State.tryIssue_keeps
    | with_reducible apply State.arise_keeps
    | with_reducible apply State.completeNow_keeps
    | split
    | with_reducible apply KeepsO.ite
    | with_reducible apply Keeps.ite
    | with_reducible refine Keeps.of_some1 (by assumption) ?_
    | (intro)
    | fail_if_no_progress with_reducible apply Keeps.update.mpr
    | dsimp +zetaDelta only

theorem execFence_keeps {k : State} {seq : ℕ} {s : State} (h : Keeps k s) :
    KeepsX k (execFence seq s) := by
  unfold execFence
  refine attempt_keeps h fun z hz => ?_
  repeat' first
    | with_reducible exact KeepsO.none
    | with_reducible apply KeepsO.some
    | with_reducible assumption
    | with_reducible apply State.tryFence_keeps
    | with_reducible apply State.tryIssue_keeps
    | split
    | with_reducible apply KeepsO.ite
    | with_reducible apply Keeps.ite
    | with_reducible refine Keeps.of_some1 (by assumption) ?_
    | (intro)
    | fail_if_no_progress with_reducible apply Keeps.update.mpr

theorem execWait_keeps {k : State} {seq : ℕ} {s : State} (h : Keeps k s) :
    KeepsX k (execWait seq s) := by
  unfold execWait
  refine attempt_keeps h fun z hz => ?_
  repeat' first
    | extract_lets
    | with_reducible exact KeepsO.none
    | with_reducible apply KeepsO.some
    | with_reducible assumption
    | with_reducible apply State.tryIssue_keeps
    | with_reducible apply State.completeNow_keeps
    | split
    | with_reducible apply KeepsO.ite
    | with_reducible apply Keeps.ite
    | with_reducible refine Keeps.of_some1 (by assumption) ?_
    | (intro)
    | fail_if_no_progress with_reducible apply Keeps.update.mpr
    | dsimp +zetaDelta only

theorem execWaitTimeout_keeps {k : State} {seq : ℕ} {s : State} (h : Keeps k s) :
    KeepsX k (execWaitTimeout seq s) := by
  unfold execWaitTimeout
  refine attempt_keeps h fun z hz => ?_
  repeat' first
    | extract_lets
    | with_reducible exact KeepsO.none
    | with_reducible apply KeepsO.some
    | with_reducible assumption
    | with_reducible apply State.completeNow_keeps
    | split
    | with_reducible apply KeepsO.ite
    | with_reducible apply Keeps.ite
    | (intro)
    | fail_if_no_progress with_reducible apply Keeps.update.mpr
    | dsimp +zetaDelta only

theorem execSignal_keeps {k : State} {seq : ℕ} {s : State} (h : Keeps k s) :
    KeepsX k (execSignal seq s) := by
  unfold execSignal
  refine attempt_keeps h fun z hz => ?_
  repeat' first
    | extract_lets
    | with_reducible exact KeepsO.none
    | with_reducible apply KeepsO.some
    | with_reducible assumption
    | with_reducible apply State.tryIssue_keeps
    | with_reducible apply State.completeNow_keeps
    | with_reducible apply State.eventAdd_keeps
    | split
    | with_reducible apply KeepsO.ite
    | with_reducible apply Keeps.ite
    | with_reducible refine Keeps.of_some1 (by assumption) ?_
    | (intro)
    | fail_if_no_progress with_reducible apply Keeps.update.mpr
    | dsimp +zetaDelta only

theorem execEventAdd_keeps {k : State} {v : Word} {s : State} (h : Keeps k s) :
    KeepsX k (execEventAdd v s) := by
  unfold execEventAdd
  refine attempt_keeps h fun z hz => ?_
  repeat' first
    | with_reducible exact KeepsO.none
    | with_reducible apply KeepsO.some
    | with_reducible assumption
    | with_reducible apply State.writeEventAdd_keeps
    | split
    | with_reducible apply KeepsO.ite
    | with_reducible apply Keeps.ite
    | (intro)

theorem execOwnerEpochWrite_keeps {k : State} {v : BitVec 32} {s : State} (h : Keeps k s) :
    KeepsX k (execOwnerEpochWrite v s) := by
  unfold execOwnerEpochWrite
  refine attempt_keeps h fun z hz => ?_
  repeat' first
    | with_reducible exact KeepsO.none
    | with_reducible apply KeepsO.some
    | with_reducible assumption
    | with_reducible apply State.arise_keeps
    | split
    | with_reducible apply KeepsO.ite
    | with_reducible apply Keeps.ite
    | (intro)

theorem execStreamFaultClear_keeps {k : State} {n : ℕ} {s : State} (h : Keeps k s) :
    KeepsX k (execStreamFaultClear n s) := by
  unfold execStreamFaultClear
  refine attempt_keeps h fun z hz => ?_
  repeat' first
    | with_reducible exact KeepsO.none
    | with_reducible apply KeepsO.some
    | with_reducible assumption
    | with_reducible apply State.arise_keeps
    | split
    | with_reducible apply KeepsO.ite
    | with_reducible apply Keeps.ite
    | (intro)

theorem execSegmentTimeLimit_keeps {k : State} {s : State} (h : Keeps k s) :
    KeepsX k (execSegmentTimeLimit s) := by
  unfold execSegmentTimeLimit
  refine attempt_keeps h fun z hz => ?_
  repeat' first
    | with_reducible exact KeepsO.none
    | with_reducible apply KeepsO.some
    | with_reducible assumption
    | with_reducible apply State.closeSegment_keeps
    | split
    | with_reducible apply KeepsO.ite
    | with_reducible apply Keeps.ite
    | (intro)

theorem execSegmentSigned_keeps {k : State} {s : State} (h : Keeps k s) :
    KeepsX k (execSegmentSigned s) := by
  unfold execSegmentSigned
  refine attempt_keeps h fun z hz => ?_
  repeat' first
    | extract_lets
    | with_reducible exact KeepsO.none
    | with_reducible apply KeepsO.some
    | with_reducible assumption
    | with_reducible apply State.nextSigning_keeps
    | with_reducible apply State.identitySign_keeps
    | with_reducible apply State.putBytes_keeps
    | with_reducible apply State.updateBacklog_keeps
    | split
    | with_reducible apply KeepsO.ite
    | with_reducible apply Keeps.ite
    | with_reducible refine Keeps.of_snd (by assumption) ?_
    | with_reducible refine Keeps.of_fst (by assumption) ?_
    | with_reducible refine Keeps.of_snd (by assumption) ?_
    | (intro)
    | fail_if_no_progress with_reducible apply Keeps.update.mpr
    | dsimp +zetaDelta only

theorem execJournalTailWrite_keeps {k : State} {v : Word} {s : State} (h : Keeps k s) :
    KeepsX k (execJournalTailWrite v s) := by
  unfold execJournalTailWrite
  refine attempt_keeps h fun z hz => ?_
  repeat' first
    | with_reducible exact KeepsO.none
    | with_reducible apply KeepsO.some
    | with_reducible assumption
    | with_reducible apply State.writeJournalTail_keeps
    | split
    | with_reducible apply KeepsO.ite
    | with_reducible apply Keeps.ite
    | (intro)

theorem execJsigTailWrite_keeps {k : State} {v : Word} {s : State} (h : Keeps k s) :
    KeepsX k (execJsigTailWrite v s) := by
  unfold execJsigTailWrite
  refine attempt_keeps h fun z hz => ?_
  repeat' first
    | with_reducible exact KeepsO.none
    | with_reducible apply KeepsO.some
    | with_reducible assumption
    | with_reducible apply State.writeJsigTail_keeps
    | split
    | with_reducible apply KeepsO.ite
    | with_reducible apply Keeps.ite
    | (intro)

theorem execLcPeriodStart_keeps {k : State} {n : ℕ} {s : State} (h : Keeps k s) :
    KeepsX k (execLcPeriodStart n s) := by
  unfold execLcPeriodStart
  refine attempt_keeps h fun z hz => ?_
  repeat' first
    | extract_lets
    | with_reducible exact KeepsO.none
    | with_reducible apply KeepsO.some
    | with_reducible assumption
    | with_reducible apply State.beginPeriod_keeps
    | with_reducible apply State.startPreempts_keeps
    | with_reducible apply State.setRemain_keeps
    | split
    | with_reducible apply KeepsO.ite
    | with_reducible apply Keeps.ite
    | (intro)
    | fail_if_no_progress with_reducible apply Keeps.update.mpr

theorem execSchLcWrite_keeps {k : State} {n : ℕ} {v : Word} {s : State} (h : Keeps k s) :
    KeepsX k (execSchLcWrite n v s) := by
  unfold execSchLcWrite
  refine attempt_keeps h fun z hz => ?_
  repeat' first
    | with_reducible exact KeepsO.none
    | with_reducible apply KeepsO.some
    | with_reducible assumption
    | with_reducible apply State.writeLc_keeps
    | split
    | with_reducible apply KeepsO.ite
    | with_reducible apply Keeps.ite
    | (intro)

theorem execSchCtrlWrite_keeps {k : State} {v : Word} {s : State} (h : Keeps k s) :
    KeepsX k (execSchCtrlWrite v s) := by
  unfold execSchCtrlWrite
  refine attempt_keeps h fun z hz => ?_
  repeat' first
    | with_reducible exact KeepsO.none
    | with_reducible apply KeepsO.some
    | with_reducible assumption
    | with_reducible apply State.writeSchCtrl_keeps
    | split
    | with_reducible apply KeepsO.ite
    | with_reducible apply Keeps.ite
    | (intro)

theorem execPreemptionComplete_keeps {k : State} {seq : ℕ} {s : State} (h : Keeps k s) :
    KeepsX k (execPreemptionComplete seq s) := by
  unfold execPreemptionComplete
  refine attempt_keeps h fun z hz => ?_
  repeat' first
    | extract_lets
    | with_reducible exact KeepsO.none
    | with_reducible apply KeepsO.some
    | with_reducible assumption
    | with_reducible apply State.takeUpReplies_keeps
    | with_reducible apply State.resumeParked_keeps
    | with_reducible apply State.park_keeps
    | split
    | with_reducible apply KeepsO.ite
    | with_reducible apply Keeps.ite
    | (intro)
    | fail_if_no_progress with_reducible apply Keeps.update.mpr
    | dsimp +zetaDelta only

theorem execTurnEnd_keeps {k : State} {e : ℕ} {s : State} (h : Keeps k s) :
    KeepsX k (execTurnEnd e s) := by
  unfold execTurnEnd
  refine attempt_keeps h fun z hz => ?_
  repeat' first
    | extract_lets
    | with_reducible exact KeepsO.none
    | with_reducible apply KeepsO.some
    | with_reducible assumption
    | with_reducible apply State.accrue_keeps
    | with_reducible apply State.endTurnHeld_keeps
    | split
    | with_reducible apply KeepsO.ite
    | with_reducible apply Keeps.ite
    | with_reducible refine Keeps.of_fst (by assumption) ?_
    | (intro)
    | fail_if_no_progress with_reducible apply Keeps.update.mpr
    | dsimp +zetaDelta only

theorem execPwrQuenchWrite_keeps {k : State} {s : State} (h : Keeps k s) :
    KeepsX k (execPwrQuenchWrite s) := by
  unfold execPwrQuenchWrite
  refine attempt_keeps h fun z hz => ?_
  repeat' first
    | with_reducible exact KeepsO.none
    | with_reducible apply KeepsO.some
    | with_reducible assumption
    | with_reducible apply State.startQuench_keeps
    | split
    | with_reducible apply KeepsO.ite
    | with_reducible apply Keeps.ite
    | (intro)

theorem execQuenchTasksStopped_keeps {k : State} {s : State} (h : Keeps k s) :
    KeepsX k (execQuenchTasksStopped s) := by
  unfold execQuenchTasksStopped
  refine attempt_keeps h fun z hz => ?_
  repeat' first
    | with_reducible exact KeepsO.none
    | with_reducible apply KeepsO.some
    | with_reducible assumption
    | with_reducible apply State.quenchStop_keeps
    | split
    | with_reducible apply KeepsO.ite
    | with_reducible apply Keeps.ite
    | (intro)

theorem execQuenchComplete_keeps {k : State} {s : State} (h : Keeps k s) :
    KeepsX k (execQuenchComplete s) := by
  unfold execQuenchComplete
  refine attempt_keeps h fun z hz => ?_
  repeat' first
    | extract_lets
    | with_reducible exact KeepsO.none
    | with_reducible apply KeepsO.some
    | with_reducible assumption
    | with_reducible apply Keeps.foldl1
    | with_reducible apply Keeps.foldl2
    | with_reducible apply State.flushAborts_keeps
    | with_reducible apply State.setBit_keeps
    | with_reducible apply State.portOff_keeps
    | with_reducible apply State.unpowered_keeps
    | with_reducible apply Keeps.foldl
    | split
    | with_reducible apply KeepsO.ite
    | with_reducible apply Keeps.ite
    | (intro)

theorem execVinSample_keeps {k : State} {mv : ℤ} {s : State} (h : Keeps k s) :
    KeepsX k (execVinSample mv s) := by
  unfold execVinSample
  refine attempt_keeps h fun z hz => ?_
  repeat' first
    | with_reducible exact KeepsO.none
    | with_reducible apply KeepsO.some
    | with_reducible assumption
    | with_reducible apply State.vinRunning_keeps
    | with_reducible apply State.vinOff_keeps
    | split
    | with_reducible apply KeepsO.ite
    | with_reducible apply Keeps.ite
    | (intro)

theorem execInputPowerSample_keeps {k : State} {watts : ℕ} {s : State} (h : Keeps k s) :
    KeepsX k (execInputPowerSample watts s) := by
  unfold execInputPowerSample
  refine attempt_keeps h fun z hz => ?_
  repeat' first
    | with_reducible exact KeepsO.none
    | with_reducible apply KeepsO.some
    | with_reducible assumption
    | with_reducible apply State.powerSample_keeps
    | split
    | with_reducible apply KeepsO.ite
    | with_reducible apply Keeps.ite
    | (intro)

theorem execThermalSample_keeps {k : State} {junction : Nat} {dies : List Nat} {s : State} (h : Keeps k s) :
    KeepsX k (execThermalSample junction dies s) := by
  unfold execThermalSample
  refine attempt_keeps h fun z hz => ?_
  repeat' first
    | with_reducible exact KeepsO.none
    | with_reducible apply KeepsO.some
    | with_reducible assumption
    | with_reducible apply State.heatSample_keeps
    | split
    | with_reducible apply KeepsO.ite
    | with_reducible apply Keeps.ite
    | (intro)

theorem execVoltageTrim_keeps {k : State} {domain : ℕ} {up : Bool} {s : State} (h : Keeps k s) :
    KeepsX k (execVoltageTrim domain up s) := by
  unfold execVoltageTrim
  refine attempt_keeps h fun z hz => ?_
  repeat' first
    | extract_lets
    | with_reducible exact KeepsO.none
    | with_reducible apply KeepsO.some
    | with_reducible assumption
    | with_reducible apply State.modPower_keeps
    | split
    | with_reducible apply KeepsO.ite
    | with_reducible apply Keeps.ite
    | (intro)
    | fail_if_no_progress with_reducible apply Keeps.update.mpr
    | dsimp +zetaDelta only

theorem execGlbResetFull_keeps {k : State} {s : State} (h : Keeps k s) :
    KeepsX k (execGlbResetFull s) := by
  unfold execGlbResetFull
  refine attempt_keeps h fun z hz => ?_
  repeat' first
    | with_reducible exact KeepsO.none
    | with_reducible apply KeepsO.some
    | with_reducible assumption
    | with_reducible apply State.resetDevice_keeps
    | split
    | with_reducible apply KeepsO.ite
    | with_reducible apply Keeps.ite
    | (intro)

theorem execGlbResetWarm_keeps {k : State} {s : State} (h : Keeps k s) :
    KeepsX k (execGlbResetWarm s) := by
  unfold execGlbResetWarm
  refine attempt_keeps h fun z hz => ?_
  repeat' first
    | with_reducible exact KeepsO.none
    | with_reducible apply KeepsO.some
    | with_reducible assumption
    | with_reducible apply State.resetDevice_keeps
    | split
    | with_reducible apply KeepsO.ite
    | with_reducible apply Keeps.ite
    | (intro)

theorem execResetNAssert_keeps {k : State} {lowNs : ℕ} {s : State} (h : Keeps k s) :
    KeepsX k (execResetNAssert lowNs s) := by
  unfold execResetNAssert
  refine attempt_keeps h fun z hz => ?_
  repeat' first
    | extract_lets
    | with_reducible exact KeepsO.none
    | with_reducible apply KeepsO.some
    | with_reducible assumption
    | with_reducible apply State.scanDrives_keeps
    | with_reducible apply State.modStartup_keeps
    | with_reducible apply State.resetDevice_keeps
    | split
    | with_reducible apply KeepsO.ite
    | with_reducible apply Keeps.ite
    | (intro)
    | fail_if_no_progress with_reducible apply Keeps.update.mpr

theorem execResetNRelease_keeps {k : State} {s : State} (h : Keeps k s) :
    KeepsX k (execResetNRelease s) := by
  unfold execResetNRelease
  refine attempt_keeps h fun z hz => ?_
  repeat' first
    | extract_lets
    | with_reducible exact KeepsO.none
    | with_reducible apply KeepsO.some
    | with_reducible assumption
    | with_reducible apply State.scanDrives_keeps
    | with_reducible apply State.modStartup_keeps
    | with_reducible apply State.enterPhase_keeps
    | split
    | with_reducible apply KeepsO.ite
    | with_reducible apply Keeps.ite
    | (intro)
    | fail_if_no_progress with_reducible apply Keeps.update.mpr

theorem execRefclkLoss_keeps {k : State} {s : State} (h : Keeps k s) :
    KeepsX k (execRefclkLoss s) := by
  unfold execRefclkLoss
  refine attempt_keeps h fun z hz => ?_
  repeat' first
    | extract_lets
    | with_reducible exact KeepsO.none
    | with_reducible apply KeepsO.some
    | with_reducible assumption
    | with_reducible apply State.modStartup_keeps
    | with_reducible apply State.deviceStop_keeps
    | with_reducible apply State.setReg_keeps
    | split
    | with_reducible apply KeepsO.ite
    | with_reducible apply Keeps.ite
    | (intro)
    | fail_if_no_progress with_reducible apply Keeps.update.mpr

theorem execReferenceClockReturn_keeps {k : State} {s : State} (h : Keeps k s) :
    KeepsX k (execReferenceClockReturn s) := by
  unfold execReferenceClockReturn
  refine attempt_keeps h fun z hz => ?_
  repeat' first
    | with_reducible exact KeepsO.none
    | with_reducible apply KeepsO.some
    | with_reducible assumption
    | with_reducible apply State.modStartup_keeps
    | split
    | with_reducible apply KeepsO.ite
    | with_reducible apply Keeps.ite
    | (intro)
    | fail_if_no_progress with_reducible apply Keeps.update.mpr

theorem execStartupStageDone_keeps {k : State} {s : State} (h : Keeps k s) :
    KeepsX k (execStartupStageDone s) := by
  unfold execStartupStageDone
  refine attempt_keeps h fun z hz => ?_
  repeat' first
    | extract_lets
    | with_reducible exact KeepsO.none
    | with_reducible apply KeepsO.some
    | with_reducible assumption
    | with_reducible apply State.modStartup_keeps
    | with_reducible apply State.enterPhase_keeps
    | split
    | with_reducible apply KeepsO.ite
    | with_reducible apply Keeps.ite
    | (intro)
    | fail_if_no_progress with_reducible apply Keeps.update.mpr

theorem execStartupRomDone_keeps {k : State} {s : State} (h : Keeps k s) :
    KeepsX k (execStartupRomDone s) := by
  unfold execStartupRomDone
  refine attempt_keeps h fun z hz => ?_
  repeat' first
    | extract_lets
    | with_reducible exact KeepsO.none
    | with_reducible apply KeepsO.some
    | with_reducible assumption
    | with_reducible apply State.setReg_keeps
    | with_reducible apply State.modStartup_keeps
    | with_reducible apply State.enterPhase_keeps
    | with_reducible apply State.setFld_keeps
    | split
    | with_reducible apply KeepsO.ite
    | with_reducible apply Keeps.ite
    | (intro)
    | fail_if_no_progress with_reducible apply Keeps.update.mpr

theorem execFirmwareVerifyDone_keeps {k : State} {readable : Bool} {s : State} (h : Keeps k s) :
    KeepsX k (execFirmwareVerifyDone readable s) := by
  unfold execFirmwareVerifyDone
  refine attempt_keeps h fun z hz => ?_
  repeat' first
    | extract_lets
    | with_reducible exact KeepsO.none
    | with_reducible apply KeepsO.some
    | with_reducible assumption
    | with_reducible apply State.setWords_keeps
    | with_reducible apply State.showSvn_keeps
    | with_reducible apply State.odlUp_keeps
    | with_reducible apply State.bootImage_keeps
    | with_reducible apply State.bootFails_keeps
    | split
    | with_reducible apply KeepsO.ite
    | with_reducible apply Keeps.ite
    | (intro)

theorem execStartupIslandsDone_keeps {k : State} {fails : List (ℕ × ℕ)} {s : State} (h : Keeps k s) :
    KeepsX k (execStartupIslandsDone fails s) := by
  unfold execStartupIslandsDone
  refine attempt_keeps h fun z hz => ?_
  repeat' first
    | extract_lets
    | with_reducible exact KeepsO.none
    | with_reducible apply KeepsO.some
    | with_reducible assumption
    | with_reducible apply State.selfTests_keeps
    | with_reducible apply State.setReg_keeps
    | with_reducible apply State.enterPhase_keeps
    | with_reducible apply State.assignCluster_keeps
    | with_reducible apply Keeps.foldl
    | with_reducible apply Keeps.foldl1
    | with_reducible apply Keeps.foldl2
    | split
    | with_reducible apply KeepsO.ite
    | with_reducible apply Keeps.ite
    | (intro)

theorem execHbmTrainingDone_keeps {k : State} {failed : List Nat} {found : HbmTrained} {s : State} (h : Keeps k s) :
    KeepsX k (execHbmTrainingDone failed found s) := by
  unfold execHbmTrainingDone
  refine attempt_keeps h fun z hz => ?_
  repeat' first
    | extract_lets
    | with_reducible exact KeepsO.none
    | with_reducible apply KeepsO.some
    | with_reducible assumption
    | with_reducible apply State.trainChannels_keeps
    | with_reducible apply State.modHbm_keeps
    | with_reducible apply State.setMargin_keeps
    | with_reducible apply State.restartDarning_keeps
    | with_reducible apply State.failChannel_keeps
    | with_reducible apply State.enterPhase_keeps
    | with_reducible apply State.modStartup_keeps
    | with_reducible apply Keeps.foldl
    | with_reducible apply Keeps.foldl1
    | with_reducible apply Keeps.foldl2
    | split
    | with_reducible apply KeepsO.ite
    | with_reducible apply Keeps.ite
    | (intro)
    | fail_if_no_progress with_reducible apply Keeps.update.mpr

theorem execPortsPhaseDone_keeps {k : State} {s : State} (h : Keeps k s) :
    KeepsX k (execPortsPhaseDone s) := by
  unfold execPortsPhaseDone
  refine attempt_keeps h fun z hz => ?_
  repeat' first
    | extract_lets
    | with_reducible exact KeepsO.none
    | with_reducible apply KeepsO.some
    | with_reducible assumption
    | with_reducible apply State.setFld_keeps
    | with_reducible apply State.enterPhase_keeps
    | with_reducible apply State.ibi_keeps
    | with_reducible apply State.irq_keeps
    | with_reducible apply State.setBit_keeps
    | split
    | with_reducible apply KeepsO.ite
    | with_reducible apply Keeps.ite
    | (intro)

theorem execEntropyHealthFail_keeps {k : State} {s : State} (h : Keeps k s) :
    KeepsX k (execEntropyHealthFail s) := by
  unfold execEntropyHealthFail
  refine attempt_keeps h fun z hz => ?_
  repeat' first
    | with_reducible exact KeepsO.none
    | with_reducible apply KeepsO.some
    | with_reducible assumption
    | with_reducible apply State.setBit_keeps
    | split
    | with_reducible apply KeepsO.ite
    | with_reducible apply Keeps.ite
    | (intro)

theorem execEntropyHealthRecover_keeps {k : State} {s : State} (h : Keeps k s) :
    KeepsX k (execEntropyHealthRecover s) := by
  unfold execEntropyHealthRecover
  refine attempt_keeps h fun z hz => ?_
  repeat' first
    | with_reducible exact KeepsO.none
    | with_reducible apply KeepsO.some
    | with_reducible assumption
    | with_reducible apply State.setBit_keeps
    | split
    | with_reducible apply KeepsO.ite
    | with_reducible apply Keeps.ite
    | (intro)

theorem execSvnCommit_keeps {k : State} {s : State} (h : Keeps k s) :
    KeepsX k (execSvnCommit s) := by
  unfold execSvnCommit
  refine attempt_keeps h fun z hz => ?_
  repeat' first
    | with_reducible exact KeepsO.none
    | with_reducible apply KeepsO.some
    | with_reducible assumption
    | with_reducible apply State.commitSvn_keeps
    | split
    | with_reducible apply KeepsO.ite
    | with_reducible apply Keeps.ite
    | (intro)

theorem execSvnCommitComplete_keeps {k : State} {s : State} (h : Keeps k s) :
    KeepsX k (execSvnCommitComplete s) := by
  unfold execSvnCommitComplete
  refine attempt_keeps h fun z hz => ?_
  split
  · rename_i v hv
    refine KeepsO.some (State.showSvn_keeps (State.setBit_keeps
      ⟨hz.pending, hz.variant, fun c => ⟨(hz.canonical c).regs, (hz.canonical c).mem, (hz.canonical c).poison⟩,
        hz.time_of rfl, fun o => ⟨fun _ hw => (nomatch hw), ?_⟩⟩))
    exact Nat.le_trans (hz.fuse o).2 ((hz.fuse o).1 v hv)
  · exact KeepsO.none

theorem execRecoveryGo_keeps {k : State} {v : Word} {s : State} (h : Keeps k s) :
    KeepsX k (execRecoveryGo v s) := by
  unfold execRecoveryGo
  refine attempt_keeps h fun z hz => ?_
  repeat' first
    | with_reducible exact KeepsO.none
    | with_reducible apply KeepsO.some
    | with_reducible assumption
    | with_reducible apply State.writeRecovery_keeps
    | split
    | with_reducible apply KeepsO.ite
    | with_reducible apply Keeps.ite
    | (intro)

theorem execRecoveryCheckComplete_keeps {k : State} {s : State} (h : Keeps k s) :
    KeepsX k (execRecoveryCheckComplete s) := by
  unfold execRecoveryCheckComplete
  refine attempt_keeps h fun z hz => ?_
  repeat' first
    | extract_lets
    | with_reducible exact KeepsO.none
    | with_reducible apply KeepsO.some
    | with_reducible assumption
    | with_reducible refine State.modSec_keeps ?_ rfl rfl
    | with_reducible apply State.bootImage_keeps
    | with_reducible apply State.startFlash_keeps
    | with_reducible apply State.setFld_keeps
    | split
    | with_reducible apply KeepsO.ite
    | with_reducible apply Keeps.ite
    | (intro)
    | fail_if_no_progress with_reducible apply Keeps.update.mpr
    | dsimp +zetaDelta only

theorem execFlashUpdateGo_keeps {k : State} {v : Word} {s : State} (h : Keeps k s) :
    KeepsX k (execFlashUpdateGo v s) := by
  unfold execFlashUpdateGo
  refine attempt_keeps h fun z hz => ?_
  repeat' first
    | with_reducible exact KeepsO.none
    | with_reducible apply KeepsO.some
    | with_reducible assumption
    | with_reducible apply State.writeFlash_keeps
    | split
    | with_reducible apply KeepsO.ite
    | with_reducible apply Keeps.ite
    | (intro)

theorem execFlashUpdateComplete_keeps {k : State} {ok : Bool} {s : State} (h : Keeps k s) :
    KeepsX k (execFlashUpdateComplete ok s) := by
  unfold execFlashUpdateComplete
  refine attempt_keeps h fun z hz => ?_
  repeat' first
    | extract_lets
    | with_reducible exact KeepsO.none
    | with_reducible apply KeepsO.some
    | with_reducible assumption
    | with_reducible apply State.setBit_keeps
    | with_reducible refine State.modSec_keeps ?_ rfl rfl
    | with_reducible apply State.irq_keeps
    | split
    | with_reducible apply KeepsO.ite
    | with_reducible apply Keeps.ite
    | (intro)
    | fail_if_no_progress with_reducible apply Keeps.update.mpr
    | dsimp +zetaDelta only

theorem execAttestGo_keeps {k : State} {s : State} (h : Keeps k s) :
    KeepsX k (execAttestGo s) := by
  unfold execAttestGo
  refine attempt_keeps h fun z hz => ?_
  repeat' first
    | with_reducible exact KeepsO.none
    | with_reducible apply KeepsO.some
    | with_reducible assumption
    | with_reducible apply State.attestGo_keeps
    | split
    | with_reducible apply KeepsO.ite
    | with_reducible apply Keeps.ite
    | (intro)

theorem execAttestComplete_keeps {k : State} {s : State} (h : Keeps k s) :
    KeepsX k (execAttestComplete s) := by
  unfold execAttestComplete
  refine attempt_keeps h fun z hz => ?_
  repeat' first
    | extract_lets
    | with_reducible exact KeepsO.none
    | with_reducible apply KeepsO.some
    | with_reducible assumption
    | with_reducible apply State.nextSigning_keeps
    | with_reducible apply State.identitySign_keeps
    | with_reducible apply State.setBit_keeps
    | with_reducible apply State.putBytes_keeps
    | with_reducible apply State.irq_keeps
    | with_reducible refine State.modSec_keeps ?_ rfl rfl
    | split
    | with_reducible apply KeepsO.ite
    | with_reducible apply Keeps.ite
    | with_reducible refine Keeps.of_snd (by assumption) ?_
    | with_reducible refine Keeps.of_fst (by assumption) ?_
    | with_reducible refine Keeps.of_snd (by assumption) ?_
    | (intro)
    | fail_if_no_progress with_reducible apply Keeps.update.mpr
    | dsimp +zetaDelta only

theorem execOdlFlitReceive_keeps {k : State} {f : Flit} {s : State} (h : Keeps k s) :
    KeepsX k (execOdlFlitReceive f s) := by
  unfold execOdlFlitReceive
  refine attempt_keeps h fun z hz => ?_
  repeat' first
    | with_reducible exact KeepsO.none
    | with_reducible apply KeepsO.some
    | with_reducible assumption
    | with_reducible apply State.modOdl_keeps
    | with_reducible apply State.countReplay_keeps
    | with_reducible apply State.emit_keeps
    | split
    | with_reducible apply KeepsO.ite
    | with_reducible apply Keeps.ite
    | (intro)
    | fail_if_no_progress with_reducible apply Keeps.update.mpr

theorem execOdlReplayRequest_keeps {k : State} {from_ : ℕ} {s : State} (h : Keeps k s) :
    KeepsX k (execOdlReplayRequest from_ s) := by
  unfold execOdlReplayRequest
  refine attempt_keeps h fun z hz => ?_
  repeat' first
    | extract_lets
    | with_reducible exact KeepsO.none
    | with_reducible apply KeepsO.some
    | with_reducible assumption
    | with_reducible apply State.odlDown_keeps
    | with_reducible apply State.modOdl_keeps
    | with_reducible apply State.countReplay_keeps
    | with_reducible apply State.emit_keeps
    | with_reducible apply Keeps.foldl
    | with_reducible apply Keeps.foldl1
    | with_reducible apply Keeps.foldl2
    | with_reducible apply KeepsO.map1
    | with_reducible apply KeepsO.map2
    | split
    | with_reducible apply KeepsO.ite
    | with_reducible apply Keeps.ite
    | (intro)
    | fail_if_no_progress with_reducible apply Keeps.update.mpr

theorem execOdlLinkDown_keeps {k : State} {s : State} (h : Keeps k s) :
    KeepsX k (execOdlLinkDown s) := by
  unfold execOdlLinkDown
  refine attempt_keeps h fun z hz => ?_
  repeat' first
    | with_reducible exact KeepsO.none
    | with_reducible apply KeepsO.some
    | with_reducible assumption
    | with_reducible apply State.odlDown_keeps
    | split
    | with_reducible apply KeepsO.ite
    | with_reducible apply Keeps.ite
    | (intro)

theorem execIrqMessage_keeps {k : State} {v : ℕ} {s : State} (h : Keeps k s) :
    KeepsX k (execIrqMessage v s) := by
  unfold execIrqMessage
  refine attempt_keeps h fun z hz => ?_
  repeat' first
    | with_reducible exact KeepsO.none
    | with_reducible apply KeepsO.some
    | with_reducible assumption
    | with_reducible apply State.sendMessage_keeps
    | split
    | with_reducible apply KeepsO.ite
    | with_reducible apply Keeps.ite
    | (intro)

theorem execIrqPendingClear_keeps {k : State} {half : ℕ} {mask : Word} {s : State} (h : Keeps k s) :
    KeepsX k (execIrqPendingClear half mask s) := by
  unfold execIrqPendingClear
  refine attempt_keeps h fun z hz => ?_
  repeat' first
    | with_reducible exact KeepsO.none
    | with_reducible apply KeepsO.some
    | with_reducible assumption
    | with_reducible apply State.clearPending_keeps
    | split
    | with_reducible apply KeepsO.ite
    | with_reducible apply Keeps.ite
    | (intro)

theorem execOdlRetrainComplete_keeps {k : State} {lanes : BitVec 16} {s : State} (h : Keeps k s) :
    KeepsX k (execOdlRetrainComplete lanes s) := by
  unfold execOdlRetrainComplete
  refine attempt_keeps h fun z hz => ?_
  repeat' first
    | extract_lets
    | with_reducible exact KeepsO.none
    | with_reducible apply KeepsO.some
    | with_reducible assumption
    | with_reducible apply State.odlComesUp_keeps
    | with_reducible apply State.modOdl_keeps
    | with_reducible apply State.setOdlState_keeps
    | split
    | with_reducible apply KeepsO.ite
    | with_reducible apply Keeps.ite
    | (intro)
    | fail_if_no_progress with_reducible apply Keeps.update.mpr

theorem execCompanionMemoryRead_keeps {k : State} {addr : ℕ} {len : ℕ} {s : State} (h : Keeps k s) :
    KeepsX k (execCompanionMemoryRead addr len s) := by
  unfold execCompanionMemoryRead
  refine attempt_keeps h fun z hz => ?_
  repeat' first
    | extract_lets
    | with_reducible exact KeepsO.none
    | with_reducible apply KeepsO.some
    | with_reducible assumption
    | with_reducible apply State.emit_keeps
    | with_reducible apply State.sendFlit_keeps
    | split
    | with_reducible apply KeepsO.ite
    | with_reducible apply Keeps.ite
    | (intro)
    | fail_if_no_progress with_reducible apply Keeps.update.mpr

theorem execCompanionMemoryWrite_keeps {k : State} {addr : ℕ} {data : List Byte} {s : State} (h : Keeps k s) :
    KeepsX k (execCompanionMemoryWrite addr data s) := by
  unfold execCompanionMemoryWrite
  refine attempt_keeps h fun z hz => ?_
  repeat' first
    | with_reducible exact KeepsO.none
    | with_reducible apply KeepsO.some
    | with_reducible assumption
    | with_reducible apply State.companionPut_keeps
    | with_reducible apply Keeps.foldl
    | with_reducible apply Keeps.foldl1
    | with_reducible apply Keeps.foldl2
    | split
    | with_reducible apply KeepsO.ite
    | with_reducible apply Keeps.ite
    | (intro)

theorem execCompanionWindowAccess_keeps {k : State} {off : Nat} {data : Option (List Byte)} {s : State}
    (h : Keeps k s) : KeepsX k (execCompanionWindowAccess off data s) := by
  unfold execCompanionWindowAccess
  refine attempt_keeps h fun z hz => ?_
  cases data with
  | none =>
    dsimp only
    split
    · exact KeepsO.some (State.emit_keeps (State.takeBack_keeps hz))
    · exact KeepsO.none
  | some d =>
    dsimp only
    split
    · exact KeepsO.some ((State.takeBack_keeps hz).mem_poison rfl rfl rfl memPutAll_wf (List.Pairwise.filter _))
    · exact KeepsO.none

theorem execHeartbeat_keeps {k : State} {_v : Word} {s : State} (h : Keeps k s) :
    KeepsX k (execHeartbeat _v s) := by
  unfold execHeartbeat
  refine attempt_keeps h fun z hz => ?_
  repeat' first
    | with_reducible exact KeepsO.none
    | with_reducible apply KeepsO.some
    | with_reducible assumption
    | with_reducible apply State.beat_keeps
    | split
    | with_reducible apply KeepsO.ite
    | with_reducible apply Keeps.ite
    | (intro)

theorem execHeartbeatTimeout_keeps {k : State} {s : State} (h : Keeps k s) :
    KeepsX k (execHeartbeatTimeout s) := by
  unfold execHeartbeatTimeout
  refine attempt_keeps h fun z hz => ?_
  repeat' first
    | extract_lets
    | with_reducible exact KeepsO.none
    | with_reducible apply KeepsO.some
    | with_reducible assumption
    | with_reducible apply State.loseCompanion_keeps
    | split
    | with_reducible apply KeepsO.ite
    | with_reducible apply Keeps.ite
    | (intro)

theorem execLinkDownTimeout_keeps {k : State} {s : State} (h : Keeps k s) :
    KeepsX k (execLinkDownTimeout s) := by
  unfold execLinkDownTimeout
  refine attempt_keeps h fun z hz => ?_
  repeat' first
    | with_reducible exact KeepsO.none
    | with_reducible apply KeepsO.some
    | with_reducible assumption
    | with_reducible apply State.setBit_keeps
    | with_reducible apply State.loseCompanion_keeps
    | split
    | with_reducible apply KeepsO.ite
    | with_reducible apply Keeps.ite
    | (intro)
    | fail_if_no_progress with_reducible apply Keeps.update.mpr

theorem execCwBaseWrite_keeps {k : State} {v : Word} {s : State} (h : Keeps k s) :
    KeepsX k (execCwBaseWrite v s) := by
  unfold execCwBaseWrite
  refine attempt_keeps h fun z hz => ?_
  repeat' first
    | with_reducible exact KeepsO.none
    | with_reducible apply KeepsO.some
    | with_reducible assumption
    | with_reducible apply State.writeCwBase_keeps
    | split
    | with_reducible apply KeepsO.ite
    | with_reducible apply Keeps.ite
    | (intro)

theorem execDoorbell_keeps {k : State} {n : ℕ} {v : Word} {s : State} (h : Keeps k s) :
    KeepsX k (execDoorbell n v s) := by
  unfold execDoorbell
  refine attempt_keeps h fun z hz => ?_
  repeat' first
    | with_reducible exact KeepsO.none
    | with_reducible apply KeepsO.some
    | with_reducible assumption
    | with_reducible apply State.ringDoorbell_keeps
    | split
    | with_reducible apply KeepsO.ite
    | with_reducible apply Keeps.ite
    | (intro)

theorem execAcceptTask_keeps {k : State} {s : State} (h : Keeps k s) :
    KeepsX k (execAcceptTask s) := by
  unfold execAcceptTask
  refine attempt_keeps h fun z hz => ?_
  repeat' first
    | with_reducible exact KeepsO.none
    | with_reducible apply KeepsO.some
    | with_reducible assumption
    | with_reducible apply State.takeSlot_keeps
    | split
    | with_reducible apply KeepsO.ite
    | with_reducible apply Keeps.ite
    | with_reducible refine Keeps.of_some (by assumption) ?_
    | (intro)
    | fail_if_no_progress with_reducible apply Keeps.update.mpr

theorem execRegisterWrite_keeps {k : State} {off : ℕ} {width : ℕ} {v : Word} {src : Src} {s : State} (h : Keeps k s)
    :
    KeepsX k (execRegisterWrite off width v src s) := by
  unfold execRegisterWrite
  refine attempt_keeps h fun z hz => ?_
  repeat' first
    | with_reducible exact KeepsO.none
    | with_reducible apply KeepsO.some
    | with_reducible assumption
    | with_reducible apply State.writeReg_keeps
    | split
    | with_reducible apply KeepsO.ite
    | with_reducible apply Keeps.ite
    | (intro)

theorem execRegisterReadLowHalf_keeps {k : State} {off : ℕ} {s : State} (h : Keeps k s) :
    KeepsX k (execRegisterReadLowHalf off s) := by
  unfold execRegisterReadLowHalf
  refine attempt_keeps h fun z hz => ?_
  repeat' first
    | extract_lets
    | with_reducible exact KeepsO.none
    | with_reducible apply KeepsO.some
    | with_reducible assumption
    | with_reducible apply State.read32_keeps
    | with_reducible apply State.emit_keeps
    | split
    | with_reducible apply KeepsO.ite
    | with_reducible apply Keeps.ite
    | with_reducible refine Keeps.of_snd (by assumption) ?_
    | (intro)

theorem i3cAnswer_keeps {k : State} {bs : List Byte} {s : State} (h : Keeps k s) :
    KeepsX k (i3cAnswer bs s) := by
  unfold i3cAnswer
  refine attempt_keeps h fun z hz => ?_
  repeat' first
    | with_reducible exact KeepsO.none
    | with_reducible apply KeepsO.some
    | with_reducible assumption
    | with_reducible apply State.emit_keeps
    | split
    | with_reducible apply KeepsO.ite
    | with_reducible apply Keeps.ite
    | (intro)

theorem execEntdaa_keeps {k : State} {addr : BitVec 7} {s : State} (h : Keeps k s) :
    KeepsX k (execEntdaa addr s) := by
  unfold execEntdaa
  refine attempt_keeps h fun z hz => ?_
  repeat' first
    | with_reducible exact KeepsO.none
    | with_reducible apply KeepsO.some
    | with_reducible assumption
    | with_reducible apply State.emit_keeps
    | with_reducible apply State.modMgmt_keeps
    | split
    | with_reducible apply KeepsO.ite
    | with_reducible apply Keeps.ite
    | (intro)
    | fail_if_no_progress with_reducible apply Keeps.update.mpr

theorem execSetdasa_keeps {k : State} {addr : BitVec 7} {s : State} (h : Keeps k s) :
    KeepsX k (execSetdasa addr s) := by
  unfold execSetdasa
  refine attempt_keeps h fun z hz => ?_
  repeat' first
    | with_reducible exact KeepsO.none
    | with_reducible apply KeepsO.some
    | with_reducible assumption
    | with_reducible apply State.modMgmt_keeps
    | split
    | with_reducible apply KeepsO.ite
    | with_reducible apply Keeps.ite
    | (intro)
    | fail_if_no_progress with_reducible apply Keeps.update.mpr

theorem execRstdaa_keeps {k : State} {s : State} (h : Keeps k s) :
    KeepsX k (execRstdaa s) := by
  unfold execRstdaa
  refine attempt_keeps h fun z hz => ?_
  repeat' first
    | with_reducible exact KeepsO.none
    | with_reducible apply KeepsO.some
    | with_reducible assumption
    | with_reducible apply State.modMgmt_keeps
    | split
    | with_reducible apply KeepsO.ite
    | with_reducible apply Keeps.ite
    | (intro)
    | fail_if_no_progress with_reducible apply Keeps.update.mpr

theorem execGetpid_keeps {k : State} {s : State} (h : Keeps k s) :
    KeepsX k (execGetpid s) := by
  unfold execGetpid
  exact i3cAnswer_keeps h

theorem execGetbcr_keeps {k : State} {s : State} (h : Keeps k s) :
    KeepsX k (execGetbcr s) := by
  unfold execGetbcr
  exact i3cAnswer_keeps h

theorem execGetdcr_keeps {k : State} {s : State} (h : Keeps k s) :
    KeepsX k (execGetdcr s) := by
  unfold execGetdcr
  exact i3cAnswer_keeps h

theorem execGetstatus_keeps {k : State} {s : State} (h : Keeps k s) :
    KeepsX k (execGetstatus s) := by
  unfold execGetstatus
  refine attempt_keeps h fun z hz => ?_
  repeat' first
    | with_reducible exact KeepsO.none
    | with_reducible apply KeepsO.some
    | with_reducible assumption
    | with_reducible apply State.emit_keeps
    | with_reducible apply State.modMgmt_keeps
    | split
    | with_reducible apply KeepsO.ite
    | with_reducible apply Keeps.ite
    | (intro)
    | fail_if_no_progress with_reducible apply Keeps.update.mpr

theorem execEnec_keeps {k : State} {events : Byte} {s : State} (h : Keeps k s) :
    KeepsX k (execEnec events s) := by
  unfold execEnec
  refine attempt_keeps h fun z hz => ?_
  repeat' first
    | with_reducible exact KeepsO.none
    | with_reducible apply KeepsO.some
    | with_reducible assumption
    | with_reducible apply State.modMgmt_keeps
    | split
    | with_reducible apply KeepsO.ite
    | with_reducible apply Keeps.ite
    | (intro)
    | fail_if_no_progress with_reducible apply Keeps.update.mpr

theorem execDisec_keeps {k : State} {events : Byte} {s : State} (h : Keeps k s) :
    KeepsX k (execDisec events s) := by
  unfold execDisec
  refine attempt_keeps h fun z hz => ?_
  repeat' first
    | with_reducible exact KeepsO.none
    | with_reducible apply KeepsO.some
    | with_reducible assumption
    | with_reducible apply State.modMgmt_keeps
    | split
    | with_reducible apply KeepsO.ite
    | with_reducible apply Keeps.ite
    | (intro)
    | fail_if_no_progress with_reducible apply Keeps.update.mpr

theorem execRstact_keeps {k : State} {defining : Byte} {s : State} (h : Keeps k s) :
    KeepsX k (execRstact defining s) := by
  unfold execRstact
  refine attempt_keeps h fun z hz => ?_
  repeat' first
    | with_reducible exact KeepsO.none
    | with_reducible apply KeepsO.some
    | with_reducible assumption
    | with_reducible apply State.resetDevice_keeps
    | with_reducible apply State.emit_keeps
    | split
    | with_reducible apply KeepsO.ite
    | with_reducible apply Keeps.ite
    | (intro)

theorem execI3cOffsetWrite_keeps {k : State} {off : BitVec 32} {s : State} (h : Keeps k s) :
    KeepsX k (execI3cOffsetWrite off s) := by
  unfold execI3cOffsetWrite
  refine attempt_keeps h fun z hz => ?_
  repeat' first
    | with_reducible exact KeepsO.none
    | with_reducible apply KeepsO.some
    | with_reducible assumption
    | with_reducible apply State.modMgmt_keeps
    | split
    | with_reducible apply KeepsO.ite
    | with_reducible apply Keeps.ite
    | (intro)
    | fail_if_no_progress with_reducible apply Keeps.update.mpr

theorem execI3cPrivateRead_keeps {k : State} {s : State} (h : Keeps k s) :
    KeepsX k (execI3cPrivateRead s) := by
  unfold execI3cPrivateRead
  refine attempt_keeps h fun z hz => ?_
  repeat' first
    | extract_lets
    | with_reducible exact KeepsO.none
    | with_reducible apply KeepsO.some
    | with_reducible assumption
    | with_reducible apply State.read32_keeps
    | with_reducible apply State.emit_keeps
    | split
    | with_reducible apply KeepsO.ite
    | with_reducible apply Keeps.ite
    | with_reducible refine Keeps.of_snd (by assumption) ?_
    | (intro)

theorem execI3cDataWrite_keeps {k : State} {off : BitVec 32} {v : BitVec 32} {s : State} (h : Keeps k s) :
    KeepsX k (execI3cDataWrite off v s) := by
  unfold execI3cDataWrite
  refine attempt_keeps h fun z hz => ?_
  repeat' first
    | with_reducible exact KeepsO.none
    | with_reducible apply KeepsO.some
    | with_reducible assumption
    | with_reducible apply State.i3cWrite_keeps
    | with_reducible apply State.modMgmt_keeps
    | split
    | with_reducible apply KeepsO.ite
    | with_reducible apply Keeps.ite
    | (intro)
    | fail_if_no_progress with_reducible apply Keeps.update.mpr

theorem pmbusAnswer_keeps {k : State} {f : Mgmt → List Byte} {s : State} (h : Keeps k s) :
    KeepsX k (pmbusAnswer f s) := by
  unfold pmbusAnswer
  refine attempt_keeps h fun z hz => ?_
  repeat' first
    | with_reducible exact KeepsO.none
    | with_reducible apply KeepsO.some
    | with_reducible assumption
    | with_reducible apply State.emit_keeps
    | split
    | with_reducible apply KeepsO.ite
    | with_reducible apply Keeps.ite
    | (intro)

theorem execClearFaults_keeps {k : State} {s : State} (h : Keeps k s) :
    KeepsX k (execClearFaults s) := by
  unfold execClearFaults
  refine attempt_keeps h fun z hz => ?_
  repeat' first
    | with_reducible exact KeepsO.none
    | with_reducible apply KeepsO.some
    | with_reducible assumption
    | with_reducible apply State.modMgmt_keeps
    | split
    | with_reducible apply KeepsO.ite
    | with_reducible apply Keeps.ite
    | (intro)
    | fail_if_no_progress with_reducible apply Keeps.update.mpr

theorem execStatusWord_keeps {k : State} {s : State} (h : Keeps k s) :
    KeepsX k (execStatusWord s) := by
  unfold execStatusWord
  refine attempt_keeps h fun z hz => ?_
  repeat' first
    | extract_lets
    | with_reducible exact KeepsO.none
    | with_reducible apply KeepsO.some
    | with_reducible assumption
    | with_reducible apply State.fresh_keeps
    | with_reducible apply State.emit_keeps
    | split
    | with_reducible apply KeepsO.ite
    | with_reducible apply Keeps.ite
    | with_reducible refine Keeps.of_snd (by assumption) ?_
    | (intro)

theorem execStatusInput_keeps {k : State} {s : State} (h : Keeps k s) :
    KeepsX k (execStatusInput s) := by
  unfold execStatusInput
  exact pmbusAnswer_keeps h

theorem execReadVin_keeps {k : State} {s : State} (h : Keeps k s) :
    KeepsX k (execReadVin s) := by
  unfold execReadVin
  exact pmbusAnswer_keeps h

theorem execReadIin_keeps {k : State} {s : State} (h : Keeps k s) :
    KeepsX k (execReadIin s) := by
  unfold execReadIin
  exact pmbusAnswer_keeps h

theorem execReadVout_keeps {k : State} {s : State} (h : Keeps k s) :
    KeepsX k (execReadVout s) := by
  unfold execReadVout
  exact pmbusAnswer_keeps h

theorem execReadIout_keeps {k : State} {s : State} (h : Keeps k s) :
    KeepsX k (execReadIout s) := by
  unfold execReadIout
  exact pmbusAnswer_keeps h

theorem execReadTemperature1_keeps {k : State} {s : State} (h : Keeps k s) :
    KeepsX k (execReadTemperature1 s) := by
  unfold execReadTemperature1
  exact pmbusAnswer_keeps h

theorem execReadPout_keeps {k : State} {s : State} (h : Keeps k s) :
    KeepsX k (execReadPout s) := by
  unfold execReadPout
  exact pmbusAnswer_keeps h

theorem execReadPin_keeps {k : State} {s : State} (h : Keeps k s) :
    KeepsX k (execReadPin s) := by
  unfold execReadPin
  exact pmbusAnswer_keeps h

theorem execPmbusRevision_keeps {k : State} {s : State} (h : Keeps k s) :
    KeepsX k (execPmbusRevision s) := by
  unfold execPmbusRevision
  exact pmbusAnswer_keeps h

theorem execMfrId_keeps {k : State} {s : State} (h : Keeps k s) :
    KeepsX k (execMfrId s) := by
  unfold execMfrId
  exact pmbusAnswer_keeps h

theorem execPmbusUnsupported_keeps {k : State} {code : Byte} {s : State} (h : Keeps k s) :
    KeepsX k (execPmbusUnsupported code s) := by
  unfold execPmbusUnsupported
  refine attempt_keeps h fun z hz => ?_
  repeat' first
    | with_reducible exact KeepsO.none
    | with_reducible apply KeepsO.some
    | with_reducible assumption
    | with_reducible apply State.emit_keeps
    | with_reducible apply State.modMgmt_keeps
    | split
    | with_reducible apply KeepsO.ite
    | with_reducible apply Keeps.ite
    | (intro)
    | fail_if_no_progress with_reducible apply Keeps.update.mpr

theorem execPmbusReadingUpdate_keeps {k : State} {r : Readings} {s : State} (h : Keeps k s) :
    KeepsX k (execPmbusReadingUpdate r s) := by
  unfold execPmbusReadingUpdate
  refine attempt_keeps h fun z hz => ?_
  repeat' first
    | extract_lets
    | with_reducible exact KeepsO.none
    | with_reducible apply KeepsO.some
    | with_reducible assumption
    | with_reducible apply State.modMgmt_keeps
    | split
    | with_reducible apply KeepsO.ite
    | with_reducible apply Keeps.ite
    | (intro)
    | fail_if_no_progress with_reducible apply Keeps.update.mpr

theorem jtagTake_keeps {k : State} {n : ℕ} {bits : List Bool} {s : State} (h : Keeps k s) :
    KeepsX k (jtagTake n bits s) := by
  unfold jtagTake
  refine attempt_keeps h fun z hz => ?_
  repeat' first
    | with_reducible exact KeepsO.none
    | with_reducible apply KeepsO.some
    | with_reducible assumption
    | with_reducible apply State.emit_keeps
    | with_reducible apply State.jtagLoad_keeps
    | split
    | with_reducible apply KeepsO.ite
    | with_reducible apply Keeps.ite
    | (intro)

theorem execBypass_keeps {k : State} {s : State} (h : Keeps k s) :
    KeepsX k (execBypass s) := by
  unfold execBypass
  exact jtagTake_keeps h

theorem execIdcode_keeps {k : State} {s : State} (h : Keeps k s) :
    KeepsX k (execIdcode s) := by
  unfold execIdcode
  exact jtagTake_keeps h

theorem execSamplePreload_keeps {k : State} {bits : List Bool} {pins : List Bool} {s : State} (h : Keeps k s) :
    KeepsX k (execSamplePreload bits pins s) := by
  unfold execSamplePreload
  refine attempt_keeps h fun z hz => ?_
  repeat' first
    | with_reducible exact KeepsO.none
    | with_reducible apply KeepsO.some
    | with_reducible assumption
    | with_reducible apply State.emit_keeps
    | with_reducible apply State.modMgmt_keeps
    | with_reducible apply State.jtagLoad_keeps
    | split
    | with_reducible apply KeepsO.ite
    | with_reducible apply Keeps.ite
    | (intro)
    | fail_if_no_progress with_reducible apply Keeps.update.mpr

theorem execExtest_keeps {k : State} {s : State} (h : Keeps k s) :
    KeepsX k (execExtest s) := by
  unfold execExtest
  exact jtagTake_keeps h

theorem execExtestPulse_keeps {k : State} {s : State} (h : Keeps k s) :
    KeepsX k (execExtestPulse s) := by
  unfold execExtestPulse
  exact jtagTake_keeps h

theorem execExtestTrain_keeps {k : State} {s : State} (h : Keeps k s) :
    KeepsX k (execExtestTrain s) := by
  unfold execExtestTrain
  exact jtagTake_keeps h

theorem execClamp_keeps {k : State} {s : State} (h : Keeps k s) :
    KeepsX k (execClamp s) := by
  unfold execClamp
  exact jtagTake_keeps h

theorem execHighz_keeps {k : State} {s : State} (h : Keeps k s) :
    KeepsX k (execHighz s) := by
  unfold execHighz
  exact jtagTake_keeps h

end Sys2Proof.Machine
end

