-- ==== Sys2Proof/WellFormed.lean ====
section
/-! DEFINITION. Which commands are well formed: every operand within the range that the spec gives it. A command
that is not well formed names nothing of the device; the machine treats it as an event that cannot happen (log
entry 1). -/

namespace Sys2Proof

/-- A port number (R292: 24 ports). -/
def portOk (p : Nat) : Bool := decide (p < 24)

/-- A channel number 32 × stack + channel (R222: 12 stacks of 32 channels). -/
def chanOk (c : Nat) : Bool := decide (c < 384)

/-- A SEQ (R73: 64 bits). -/
def seqOk (n : Nat) : Bool := decide (n < 2 ^ 64)

/-- A register-space offset and access width (R534: 32 MiB, 32 or 64 bits). -/
def regOk (off width : Nat) : Bool := decide (off < 0x2000000 ∧ (width = 32 ∨ width = 64))

/-- A group number (R370: 4,096 groups). -/
def groupOk (g : Nat) : Bool := decide (g < 4096)

/-- A logical or physical core index below the 180 physical cores (R15). -/
def coreOk (c : Nat) : Bool := decide (c < 180)

/-- A stream number (R72: 64 streams). -/
def streamOk (n : Nat) : Bool := decide (n < 64)

/-- A fabric frame carries six header bytes, a 16-byte tag or none, and at most 2,560 stream bytes (R296). -/
def Frame.ok (f : Frame) : Bool :=
  decide (f.header.length = 6 ∧ (f.tag.length = 0 ∨ f.tag.length = 16) ∧ f.stream.length ≤ 2560 ∧
    f.corrected ≤ 4 * 15 ∧ f.uncorrectable ≤ 4)

/-- The operands of a command lie in their ranges. -/
def Instr.wf : Instr → Bool
  | .registerWrite off width _ _ => regOk off width
  | .registerReadLowHalf off => decide (off < 0x2000000 ∧ off % 4 = 0)
  | .hbmTrainingDone failed t => failed.all chanOk && t.afresh.all chanOk && t.sweeps.all fun e => chanOk e.1
  | .hbmReadComplete addr len bad r => HbmRead.ok ⟨addr, len, bad, r.reader, r.stage⟩
  | .doorbell n _ => streamOk n
  | .streamFaultClear n => streamOk n
  | .functionHaltComplete f => decide (f < 16)
  | .taskComplete q => seqOk q
  | .lcPeriodStart n => streamOk n
  | .schLcWrite n _ => streamOk n
  | .runClaim c => coreOk c
  | .runComplete c => coreOk c
  | .vectorBlockClaim c => coreOk c
  | .vectorBlockComplete c => coreOk c
  | .regionValidSet i _ => decide (i < 256)
  | .regionValidClear i => decide (i < 256)
  | .residencyCopyComplete i => decide (i < 64)
  | .rowRepair c _ => chanOk c
  | .refreshSlot c b => chanOk c && decide (b < 128)
  | .rinseStep c _ _ _ => chanOk c
  | .retrainReqWrite i _ => decide (i < 6)
  | .marginReqWrite i _ => decide (i < 6)
  | .retrainComplete c _ _ => chanOk c
  | .marginSegmentComplete c x => chanOk c && decide (x.steps ≤ 50)
  | .portTrainingStart p => portOk p
  | .portTrainingComplete p _ => portOk p
  | .laneLockLoss p => portOk p
  | .frameReceive p f => portOk p && f.ok
  | .retryRequest p q => portOk p && decide (q < 4096)
  | .rekeyDue p => portOk p
  | .linkCredential p _ _ => portOk p
  | .keyCiphertext p _ => portOk p
  | .portEnableWrite p _ => portOk p
  | .packetForward i vc => decide (i ≤ 24 ∧ vc < 8)
  | .routeWrite b d _ => decide (b < 2 ∧ d < 16384)
  | .rmeInject q => decide (q < 8)
  | .collectiveTimeout g => groupOk g
  | .closingTimeout g => groupOk g
  | .colGroupWrite g w _ => groupOk g && decide (w < 4)
  | .coreFaultDetect c _ => coreOk c
  | .patchComplete c => coreOk c
  | .patchWaitTimeout c => coreOk c
  | .engineFaultDetect f => decide (f < 16)
  | .islandLost d => decide (d < 256)
  | .stewardWatchdog c => decide (c < 256)
  | .digestReqGo r => decide (r < 256)
  | .voltageTrim d _ => decide (d < 256)
  | .irqMessage v => decide (v < 128)
  | .irqPendingClear h _ => decide (h < 2)
  | .companionMemoryRead a n => decide (a + n ≤ 0x30000000000)
  | .companionMemoryWrite a d => decide (a + d.length ≤ 0x30000000000)
  | .companionWindowAccess off d => decide (off < 0x100000000 ∧ off + (d.getD []).length ≤ 0x100000000)
  | .odlFlitReceive f => decide (f.header.length = 4 ∧ f.payload.length = 240)
  | _ => true

end Sys2Proof
end

