-- ==== Sys2Proof/Laws/PerInstr.lean ====
section
/-! SUPPORT. The family `Ranges`: a well-formed command names only ports, streams, groups and cores that exist
(R15, R72, R292, R370), constructor by constructor. -/

set_option Elab.async false

namespace Sys2Proof.Laws.Ranges

open Sys2Proof

/-- The ports that a command names. -/
def ports : Instr → List Nat
  | .portTrainingStart p => [p]
  | .portTrainingComplete p _ => [p]
  | .laneLockLoss p => [p]
  | .frameReceive p _ => [p]
  | .retryRequest p _ => [p]
  | .rekeyDue p => [p]
  | .linkCredential p _ _ => [p]
  | .keyCiphertext p _ => [p]
  | .portEnableWrite p _ => [p]
  | _ => []

/-- The streams that a command names. -/
def streams : Instr → List Nat
  | .doorbell n _ => [n]
  | .streamFaultClear n => [n]
  | .lcPeriodStart n => [n]
  | .schLcWrite n _ => [n]
  | _ => []

/-- The groups that a command names. -/
def groups : Instr → List Nat
  | .collectiveTimeout g => [g]
  | .closingTimeout g => [g]
  | .colGroupWrite g _ _ => [g]
  | _ => []

/-- The cores that a command names. -/
def cores : Instr → List Nat
  | .runClaim core => [core]
  | .runComplete core => [core]
  | .vectorBlockClaim core => [core]
  | .vectorBlockComplete core => [core]
  | .coreFaultDetect core _ => [core]
  | .patchComplete core => [core]
  | .patchWaitTimeout core => [core]
  | _ => []

/-- A well-formed command names only ports, streams, groups and cores that exist. -/
def Statement (i : Instr) : Prop :=
  i.wf = true → (∀ p ∈ ports i, p < 24) ∧ (∀ n ∈ streams i, n < 64) ∧ (∀ g ∈ groups i, g < 4096) ∧ ∀ c ∈ cores i, c < 180

/-- A command whose named ports, streams, groups and cores are these, each below its limit. -/
theorem of_lists {i : Instr} {p n g c : List Nat} (h1 : ports i = p) (h2 : streams i = n) (h3 : groups i = g)
    (h4 : cores i = c) (hp : i.wf = true → ∀ x ∈ p, x < 24) (hn : i.wf = true → ∀ x ∈ n, x < 64)
    (hg : i.wf = true → ∀ x ∈ g, x < 4096) (hc : i.wf = true → ∀ x ∈ c, x < 180) : Statement i := by
  subst h1 h2 h3 h4
  exact fun h => ⟨hp h, hn h, hg h, hc h⟩

/-- A command that names none of them. -/
theorem of_nil {i : Instr} (h1 : ports i = []) (h2 : streams i = []) (h3 : groups i = []) (h4 : cores i = []) :
    Statement i :=
  of_lists h1 h2 h3 h4 (fun _ _ h => nomatch h) (fun _ _ h => nomatch h) (fun _ _ h => nomatch h)
    fun _ _ h => nomatch h

theorem registerWrite (a0 : Nat) (a1 : Nat) (a2 : Word) (a3 : Src) : Statement (.registerWrite a0 a1 a2 a3) :=
  of_nil rfl rfl rfl rfl

theorem registerReadLowHalf (a0 : Nat) : Statement (.registerReadLowHalf a0) := of_nil rfl rfl rfl rfl

theorem vinSample (a0 : Int) : Statement (.vinSample a0) := of_nil rfl rfl rfl rfl

theorem startupStageDone : Statement (.startupStageDone) := of_nil rfl rfl rfl rfl

theorem startupRomDone : Statement (.startupRomDone) := of_nil rfl rfl rfl rfl

theorem firmwareVerifyDone (a0 : Bool) : Statement (.firmwareVerifyDone a0) := of_nil rfl rfl rfl rfl

theorem startupIslandsDone (a0 : List (Nat × Nat)) : Statement (.startupIslandsDone a0) := of_nil rfl rfl rfl rfl

theorem hbmTrainingDone (a0 : List Nat) (a1 : HbmTrained) : Statement (.hbmTrainingDone a0 a1) :=
  of_nil rfl rfl rfl rfl

theorem portsPhaseDone : Statement (.portsPhaseDone) := of_nil rfl rfl rfl rfl

theorem resetNAssert (a0 : Nat) : Statement (.resetNAssert a0) := of_nil rfl rfl rfl rfl

theorem resetNRelease : Statement (.resetNRelease) := of_nil rfl rfl rfl rfl

theorem glbResetFull : Statement (.glbResetFull) := of_nil rfl rfl rfl rfl

theorem glbResetWarm : Statement (.glbResetWarm) := of_nil rfl rfl rfl rfl

theorem refclkLoss : Statement (.refclkLoss) := of_nil rfl rfl rfl rfl

theorem doorbell (a0 : Nat) (a1 : Word) : Statement (.doorbell a0 a1) :=
  of_lists rfl rfl rfl rfl (fun _ _ h => nomatch h)
    (fun w x h => by
      cases List.mem_singleton.mp h
      simp [Instr.wf, streamOk] at w
      exact w)
    (fun _ _ h => nomatch h)
    (fun _ _ h => nomatch h)

theorem acceptTask : Statement (.acceptTask) := of_nil rfl rfl rfl rfl

theorem segmentTimeLimit : Statement (.segmentTimeLimit) := of_nil rfl rfl rfl rfl

theorem segmentSigned : Statement (.segmentSigned) := of_nil rfl rfl rfl rfl

theorem journalTailWrite (a0 : Word) : Statement (.journalTailWrite a0) := of_nil rfl rfl rfl rfl

theorem jsigTailWrite (a0 : Word) : Statement (.jsigTailWrite a0) := of_nil rfl rfl rfl rfl

theorem cmdHalt : Statement (.cmdHalt) := of_nil rfl rfl rfl rfl

theorem cmdResume : Statement (.cmdResume) := of_nil rfl rfl rfl rfl

theorem ownerEpochWrite (a0 : BitVec 32) : Statement (.ownerEpochWrite a0) := of_nil rfl rfl rfl rfl

theorem streamFaultClear (a0 : Nat) : Statement (.streamFaultClear a0) :=
  of_lists rfl rfl rfl rfl (fun _ _ h => nomatch h)
    (fun w x h => by
      cases List.mem_singleton.mp h
      simp [Instr.wf, streamOk] at w
      exact w)
    (fun _ _ h => nomatch h)
    (fun _ _ h => nomatch h)

theorem eventAdd (a0 : Word) : Statement (.eventAdd a0) := of_nil rfl rfl rfl rfl

theorem functionHaltComplete (a0 : Nat) : Statement (.functionHaltComplete a0) := of_nil rfl rfl rfl rfl

theorem taskComplete (a0 : Nat) : Statement (.taskComplete a0) := of_nil rfl rfl rfl rfl

theorem fence (a0 : Nat) : Statement (.fence a0) := of_nil rfl rfl rfl rfl

theorem wait (a0 : Nat) : Statement (.wait a0) := of_nil rfl rfl rfl rfl

theorem waitTimeout (a0 : Nat) : Statement (.waitTimeout a0) := of_nil rfl rfl rfl rfl

theorem signal (a0 : Nat) : Statement (.signal a0) := of_nil rfl rfl rfl rfl

theorem halt (a0 : Nat) : Statement (.halt a0) := of_nil rfl rfl rfl rfl

theorem resume (a0 : Nat) : Statement (.resume a0) := of_nil rfl rfl rfl rfl

theorem score (a0 : Nat) : Statement (.score a0) := of_nil rfl rfl rfl rfl

theorem dispatch (a0 : Nat) : Statement (.dispatch a0) := of_nil rfl rfl rfl rfl

theorem dispatchX (a0 : Nat) : Statement (.dispatchX a0) := of_nil rfl rfl rfl rfl

theorem gather (a0 : Nat) (a1 : List (Nat × Nat × Nat)) : Statement (.gather a0 a1) := of_nil rfl rfl rfl rfl

theorem combine (a0 : Nat) : Statement (.combine a0) := of_nil rfl rfl rfl rfl

theorem combineX (a0 : Nat) : Statement (.combineX a0) := of_nil rfl rfl rfl rfl

theorem combinePhase1Start (a0 : Nat) : Statement (.combinePhase1Start a0) := of_nil rfl rfl rfl rfl

theorem dmm (a0 : Nat) : Statement (.dmm a0) := of_nil rfl rfl rfl rfl

theorem dmmAr (a0 : Nat) : Statement (.dmmAr a0) := of_nil rfl rfl rfl rfl

theorem dmmRs (a0 : Nat) : Statement (.dmmRs a0) := of_nil rfl rfl rfl rfl

theorem dmmAg (a0 : Nat) : Statement (.dmmAg a0) := of_nil rfl rfl rfl rfl

theorem xmm (a0 : Nat) : Statement (.xmm a0) := of_nil rfl rfl rfl rfl

theorem xmmK (a0 : Nat) : Statement (.xmmK a0) := of_nil rfl rfl rfl rfl

theorem ewise (a0 : Nat) : Statement (.ewise a0) := of_nil rfl rfl rfl rfl

theorem ewiseStochastic (a0 : Nat) : Statement (.ewiseStochastic a0) := of_nil rfl rfl rfl rfl

theorem pruneMask (a0 : Nat) : Statement (.pruneMask a0) := of_nil rfl rfl rfl rfl

theorem prunePack (a0 : Nat) : Statement (.prunePack a0) := of_nil rfl rfl rfl rfl

theorem shadow (a0 : Nat) : Statement (.shadow a0) := of_nil rfl rfl rfl rfl

theorem move (a0 : Nat) : Statement (.move a0) := of_nil rfl rfl rfl rfl

theorem publish (a0 : Nat) : Statement (.publish a0) := of_nil rfl rfl rfl rfl

theorem publishHashComplete (a0 : Nat) : Statement (.publishHashComplete a0) := of_nil rfl rfl rfl rfl

theorem rload (a0 : Nat) : Statement (.rload a0) := of_nil rfl rfl rfl rfl

theorem rstore (a0 : Nat) : Statement (.rstore a0) := of_nil rfl rfl rfl rfl

theorem mstore (a0 : Nat) : Statement (.mstore a0) := of_nil rfl rfl rfl rfl

theorem ratomic (a0 : Nat) : Statement (.ratomic a0) := of_nil rfl rfl rfl rfl

theorem rreduce (a0 : Nat) : Statement (.rreduce a0) := of_nil rfl rfl rfl rfl

theorem collectAllReduce (a0 : Nat) : Statement (.collectAllReduce a0) := of_nil rfl rfl rfl rfl

theorem collectReduceScatter (a0 : Nat) : Statement (.collectReduceScatter a0) := of_nil rfl rfl rfl rfl

theorem collectAllGather (a0 : Nat) : Statement (.collectAllGather a0) := of_nil rfl rfl rfl rfl

theorem collectBroadcast (a0 : Nat) : Statement (.collectBroadcast a0) := of_nil rfl rfl rfl rfl

theorem collectBarrier (a0 : Nat) : Statement (.collectBarrier a0) := of_nil rfl rfl rfl rfl

theorem lcPeriodStart (a0 : Nat) : Statement (.lcPeriodStart a0) :=
  of_lists rfl rfl rfl rfl (fun _ _ h => nomatch h)
    (fun w x h => by
      cases List.mem_singleton.mp h
      simp [Instr.wf, streamOk] at w
      exact w)
    (fun _ _ h => nomatch h)
    (fun _ _ h => nomatch h)

theorem schLcWrite (a0 : Nat) (a1 : Word) : Statement (.schLcWrite a0 a1) :=
  of_lists rfl rfl rfl rfl (fun _ _ h => nomatch h)
    (fun w x h => by
      cases List.mem_singleton.mp h
      simp [Instr.wf, streamOk] at w
      exact w)
    (fun _ _ h => nomatch h)
    (fun _ _ h => nomatch h)

theorem schCtrlWrite (a0 : Word) : Statement (.schCtrlWrite a0) := of_nil rfl rfl rfl rfl

theorem preemptionComplete (a0 : Nat) : Statement (.preemptionComplete a0) := of_nil rfl rfl rfl rfl

theorem residencyCopyComplete (a0 : Nat) : Statement (.residencyCopyComplete a0) := of_nil rfl rfl rfl rfl

theorem runClaim (a0 : Nat) : Statement (.runClaim a0) :=
  of_lists rfl rfl rfl rfl (fun _ _ h => nomatch h)
    (fun _ _ h => nomatch h)
    (fun _ _ h => nomatch h)
    (fun w x h => by
      cases List.mem_singleton.mp h
      simp [Instr.wf, coreOk] at w
      exact w)

theorem runComplete (a0 : Nat) : Statement (.runComplete a0) :=
  of_lists rfl rfl rfl rfl (fun _ _ h => nomatch h)
    (fun _ _ h => nomatch h)
    (fun _ _ h => nomatch h)
    (fun w x h => by
      cases List.mem_singleton.mp h
      simp [Instr.wf, coreOk] at w
      exact w)

theorem stakeGrant : Statement (.stakeGrant) := of_nil rfl rfl rfl rfl

theorem partialSumStart (a0 : Nat) (a1 : Nat) : Statement (.partialSumStart a0 a1) := of_nil rfl rfl rfl rfl

theorem vectorBlockClaim (a0 : Nat) : Statement (.vectorBlockClaim a0) :=
  of_lists rfl rfl rfl rfl (fun _ _ h => nomatch h)
    (fun _ _ h => nomatch h)
    (fun _ _ h => nomatch h)
    (fun w x h => by
      cases List.mem_singleton.mp h
      simp [Instr.wf, coreOk] at w
      exact w)

theorem vectorBlockComplete (a0 : Nat) : Statement (.vectorBlockComplete a0) :=
  of_lists rfl rfl rfl rfl (fun _ _ h => nomatch h)
    (fun _ _ h => nomatch h)
    (fun _ _ h => nomatch h)
    (fun w x h => by
      cases List.mem_singleton.mp h
      simp [Instr.wf, coreOk] at w
      exact w)

theorem guardDecision (a0 : Nat) (a1 : Nat) (a2 : Nat) : Statement (.guardDecision a0 a1 a2) := of_nil rfl rfl rfl rfl

theorem hamperPeakClear : Statement (.hamperPeakClear) := of_nil rfl rfl rfl rfl

theorem regionValidSet (a0 : Nat) (a1 : Word) : Statement (.regionValidSet a0 a1) := of_nil rfl rfl rfl rfl

theorem regionValidClear (a0 : Nat) : Statement (.regionValidClear a0) := of_nil rfl rfl rfl rfl

theorem cadTableBaseWrite (a0 : Word) : Statement (.cadTableBaseWrite a0) := of_nil rfl rfl rfl rfl

theorem nearUnitsWrite (a0 : Word) : Statement (.nearUnitsWrite a0) := of_nil rfl rfl rfl rfl

theorem progMibWrite (a0 : Word) : Statement (.progMibWrite a0) := of_nil rfl rfl rfl rfl

theorem headroomWrite (a0 : Word) : Statement (.headroomWrite a0) := of_nil rfl rfl rfl rfl

theorem heatEpochEnd : Statement (.heatEpochEnd) := of_nil rfl rfl rfl rfl

theorem promotionComplete (a0 : Nat) (a1 : Bool) : Statement (.promotionComplete a0 a1) := of_nil rfl rfl rfl rfl

theorem evictionComplete (a0 : Nat) : Statement (.evictionComplete a0) := of_nil rfl rfl rfl rfl

theorem hbmReadComplete (a0 : Nat) (a1 : Nat) (a2 : List LineError) (a3 : ReadBy) :
    Statement (.hbmReadComplete a0 a1 a2 a3) :=
  of_nil rfl rfl rfl rfl

theorem rowRepair (a0 : Nat) (a1 : Nat) : Statement (.rowRepair a0 a1) := of_nil rfl rfl rfl rfl

theorem refreshSlot (a0 : Nat) (a1 : Nat) : Statement (.refreshSlot a0 a1) := of_nil rfl rfl rfl rfl

theorem rinseStep (a0 : Nat) (a1 : Nat) (a2 : Nat) (a3 : Nat) : Statement (.rinseStep a0 a1 a2 a3) :=
  of_nil rfl rfl rfl rfl

theorem retrainSlot : Statement (.retrainSlot) := of_nil rfl rfl rfl rfl

theorem retrainReqWrite (a0 : Nat) (a1 : Word) : Statement (.retrainReqWrite a0 a1) := of_nil rfl rfl rfl rfl

theorem retrainComplete (a0 : Nat) (a1 : Bool) (a2 : Nat) : Statement (.retrainComplete a0 a1 a2) :=
  of_nil rfl rfl rfl rfl

theorem marginReqWrite (a0 : Nat) (a1 : Word) : Statement (.marginReqWrite a0 a1) := of_nil rfl rfl rfl rfl

theorem marginSegmentComplete (a0 : Nat) (a1 : MarginSegment) : Statement (.marginSegmentComplete a0 a1) :=
  of_nil rfl rfl rfl rfl

theorem darnReqWrite (a0 : Word) : Statement (.darnReqWrite a0) := of_nil rfl rfl rfl rfl

theorem darnMigrationComplete : Statement (.darnMigrationComplete) := of_nil rfl rfl rfl rfl

theorem meshFlitResend (a0 : BitVec 16) : Statement (.meshFlitResend a0) := of_nil rfl rfl rfl rfl

theorem portTrainingStart (a0 : Nat) : Statement (.portTrainingStart a0) :=
  of_lists rfl rfl rfl rfl (fun w x h => by
      cases List.mem_singleton.mp h
      simp [Instr.wf, portOk] at w
      exact w)
    (fun _ _ h => nomatch h)
    (fun _ _ h => nomatch h)
    (fun _ _ h => nomatch h)

theorem portTrainingComplete (a0 : Nat) (a1 : Training) : Statement (.portTrainingComplete a0 a1) :=
  of_lists rfl rfl rfl rfl (fun w x h => by
      cases List.mem_singleton.mp h
      simp [Instr.wf, portOk] at w
      exact w)
    (fun _ _ h => nomatch h)
    (fun _ _ h => nomatch h)
    (fun _ _ h => nomatch h)

theorem laneLockLoss (a0 : Nat) : Statement (.laneLockLoss a0) :=
  of_lists rfl rfl rfl rfl (fun w x h => by
      cases List.mem_singleton.mp h
      simp [Instr.wf, portOk] at w
      exact w)
    (fun _ _ h => nomatch h)
    (fun _ _ h => nomatch h)
    (fun _ _ h => nomatch h)

theorem frameReceive (a0 : Nat) (a1 : Frame) : Statement (.frameReceive a0 a1) :=
  of_lists rfl rfl rfl rfl (fun w x h => by
      cases List.mem_singleton.mp h
      simp [Instr.wf, portOk] at w
      exact w.1)
    (fun _ _ h => nomatch h)
    (fun _ _ h => nomatch h)
    (fun _ _ h => nomatch h)

theorem retryRequest (a0 : Nat) (a1 : Nat) : Statement (.retryRequest a0 a1) :=
  of_lists rfl rfl rfl rfl (fun w x h => by
      cases List.mem_singleton.mp h
      simp [Instr.wf, portOk] at w
      exact w.1)
    (fun _ _ h => nomatch h)
    (fun _ _ h => nomatch h)
    (fun _ _ h => nomatch h)

theorem rekeyDue (a0 : Nat) : Statement (.rekeyDue a0) :=
  of_lists rfl rfl rfl rfl (fun w x h => by
      cases List.mem_singleton.mp h
      simp [Instr.wf, portOk] at w
      exact w)
    (fun _ _ h => nomatch h)
    (fun _ _ h => nomatch h)
    (fun _ _ h => nomatch h)

theorem linkCredential (a0 : Nat) (a1 : List Byte) (a2 : List Byte) : Statement (.linkCredential a0 a1 a2) :=
  of_lists rfl rfl rfl rfl (fun w x h => by
      cases List.mem_singleton.mp h
      simp [Instr.wf, portOk] at w
      exact w)
    (fun _ _ h => nomatch h)
    (fun _ _ h => nomatch h)
    (fun _ _ h => nomatch h)

theorem keyCiphertext (a0 : Nat) (a1 : List Byte) : Statement (.keyCiphertext a0 a1) :=
  of_lists rfl rfl rfl rfl (fun w x h => by
      cases List.mem_singleton.mp h
      simp [Instr.wf, portOk] at w
      exact w)
    (fun _ _ h => nomatch h)
    (fun _ _ h => nomatch h)
    (fun _ _ h => nomatch h)

theorem entropyHealthFail : Statement (.entropyHealthFail) := of_nil rfl rfl rfl rfl

theorem packetForward (a0 : Nat) (a1 : Nat) : Statement (.packetForward a0 a1) := of_nil rfl rfl rfl rfl

theorem portEnableWrite (a0 : Nat) (a1 : Word) : Statement (.portEnableWrite a0 a1) :=
  of_lists rfl rfl rfl rfl (fun w x h => by
      cases List.mem_singleton.mp h
      simp [Instr.wf, portOk] at w
      exact w)
    (fun _ _ h => nomatch h)
    (fun _ _ h => nomatch h)
    (fun _ _ h => nomatch h)

theorem routeWrite (a0 : Nat) (a1 : Nat) (a2 : Word) : Statement (.routeWrite a0 a1 a2) := of_nil rfl rfl rfl rfl

theorem nswEpochWrite (a0 : Word) : Statement (.nswEpochWrite a0) := of_nil rfl rfl rfl rfl

theorem nswRetireWrite (a0 : Word) : Statement (.nswRetireWrite a0) := of_nil rfl rfl rfl rfl

theorem surveyInterval : Statement (.surveyInterval) := of_nil rfl rfl rfl rfl

theorem rmeInject (a0 : Nat) : Statement (.rmeInject a0) := of_nil rfl rfl rfl rfl

theorem loadReq : Statement (.loadReq) := of_nil rfl rfl rfl rfl

theorem loadData : Statement (.loadData) := of_nil rfl rfl rfl rfl

theorem store : Statement (.store) := of_nil rfl rfl rfl rfl

theorem fanset : Statement (.fanset) := of_nil rfl rfl rfl rfl

theorem mdata : Statement (.mdata) := of_nil rfl rfl rfl rfl

theorem atomic : Statement (.atomic) := of_nil rfl rfl rfl rfl

theorem atomicRetry : Statement (.atomicRetry) := of_nil rfl rfl rfl rfl

theorem atomicReply : Statement (.atomicReply) := of_nil rfl rfl rfl rfl

theorem reduce : Statement (.reduce) := of_nil rfl rfl rfl rfl

theorem reduceRetry : Statement (.reduceRetry) := of_nil rfl rfl rfl rfl

theorem ack : Statement (.ack) := of_nil rfl rfl rfl rfl

theorem drop : Statement (.drop) := of_nil rfl rfl rfl rfl

theorem rmeReplyTimeout (a0 : Nat) (a1 : Nat) : Statement (.rmeReplyTimeout a0 a1) := of_nil rfl rfl rfl rfl

theorem busyResend (a0 : Nat) (a1 : Nat) : Statement (.busyResend a0 a1) := of_nil rfl rfl rfl rfl

theorem mstoreTimeout (a0 : Nat) : Statement (.mstoreTimeout a0) := of_nil rfl rfl rfl rfl

theorem rmeCtrlWrite (a0 : Word) : Statement (.rmeCtrlWrite a0) := of_nil rfl rfl rfl rfl

theorem collectiveEnter (a0 : Nat) : Statement (.collectiveEnter a0) := of_nil rfl rfl rfl rfl

theorem contrib : Statement (.contrib) := of_nil rfl rfl rfl rfl

theorem result : Statement (.result) := of_nil rfl rfl rfl rfl

theorem tackUp : Statement (.tackUp) := of_nil rfl rfl rfl rfl

theorem tackDown : Statement (.tackDown) := of_nil rfl rfl rfl rfl

theorem ring : Statement (.ring) := of_nil rfl rfl rfl rfl

theorem abort : Statement (.abort) := of_nil rfl rfl rfl rfl

theorem done : Statement (.done) := of_nil rfl rfl rfl rfl

theorem closed : Statement (.closed) := of_nil rfl rfl rfl rfl

theorem xcount : Statement (.xcount) := of_nil rfl rfl rfl rfl

theorem collectiveTimeout (a0 : Nat) : Statement (.collectiveTimeout a0) :=
  of_lists rfl rfl rfl rfl (fun _ _ h => nomatch h)
    (fun _ _ h => nomatch h)
    (fun w x h => by
      cases List.mem_singleton.mp h
      simp [Instr.wf, groupOk] at w
      exact w)
    (fun _ _ h => nomatch h)

theorem closingTimeout (a0 : Nat) : Statement (.closingTimeout a0) :=
  of_lists rfl rfl rfl rfl (fun _ _ h => nomatch h)
    (fun _ _ h => nomatch h)
    (fun w x h => by
      cases List.mem_singleton.mp h
      simp [Instr.wf, groupOk] at w
      exact w)
    (fun _ _ h => nomatch h)

theorem xcountTimeout (a0 : Nat) : Statement (.xcountTimeout a0) := of_nil rfl rfl rfl rfl

theorem colGroupWrite (a0 : Nat) (a1 : Nat) (a2 : Word) : Statement (.colGroupWrite a0 a1 a2) :=
  of_lists rfl rfl rfl rfl (fun _ _ h => nomatch h)
    (fun _ _ h => nomatch h)
    (fun w x h => by
      cases List.mem_singleton.mp h
      simp [Instr.wf, groupOk] at w
      exact w.1)
    (fun _ _ h => nomatch h)

theorem coreFaultDetect (a0 : Nat) (a1 : CoreCause) : Statement (.coreFaultDetect a0 a1) :=
  of_lists rfl rfl rfl rfl (fun _ _ h => nomatch h)
    (fun _ _ h => nomatch h)
    (fun _ _ h => nomatch h)
    (fun w x h => by
      cases List.mem_singleton.mp h
      simp [Instr.wf, coreOk] at w
      exact w)

theorem patchComplete (a0 : Nat) : Statement (.patchComplete a0) :=
  of_lists rfl rfl rfl rfl (fun _ _ h => nomatch h)
    (fun _ _ h => nomatch h)
    (fun _ _ h => nomatch h)
    (fun w x h => by
      cases List.mem_singleton.mp h
      simp [Instr.wf, coreOk] at w
      exact w)

theorem patchGo (a0 : Word) : Statement (.patchGo a0) := of_nil rfl rfl rfl rfl

theorem patchWaitTimeout (a0 : Nat) : Statement (.patchWaitTimeout a0) :=
  of_lists rfl rfl rfl rfl (fun _ _ h => nomatch h)
    (fun _ _ h => nomatch h)
    (fun _ _ h => nomatch h)
    (fun w x h => by
      cases List.mem_singleton.mp h
      simp [Instr.wf, coreOk] at w
      exact w)

theorem engineFaultDetect (a0 : Nat) : Statement (.engineFaultDetect a0) := of_nil rfl rfl rfl rfl

theorem islandLost (a0 : Nat) : Statement (.islandLost a0) := of_nil rfl rfl rfl rfl

theorem stewardWatchdog (a0 : Nat) : Statement (.stewardWatchdog a0) := of_nil rfl rfl rfl rfl

theorem trigGo (a0 : Bool) : Statement (.trigGo a0) := of_nil rfl rfl rfl rfl

theorem trigComplete : Statement (.trigComplete) := of_nil rfl rfl rfl rfl

theorem trigSigned : Statement (.trigSigned) := of_nil rfl rfl rfl rfl

theorem digestReqGo (a0 : Nat) : Statement (.digestReqGo a0) := of_nil rfl rfl rfl rfl

theorem regionDigestComplete : Statement (.regionDigestComplete) := of_nil rfl rfl rfl rfl

theorem rruHalt : Statement (.rruHalt) := of_nil rfl rfl rfl rfl

theorem rruResume : Statement (.rruResume) := of_nil rfl rfl rfl rfl

theorem logTailWrite (a0 : Word) : Statement (.logTailWrite a0) := of_nil rfl rfl rfl rfl

theorem pwrQuenchWrite : Statement (.pwrQuenchWrite) := of_nil rfl rfl rfl rfl

theorem quenchTasksStopped : Statement (.quenchTasksStopped) := of_nil rfl rfl rfl rfl

theorem quenchComplete : Statement (.quenchComplete) := of_nil rfl rfl rfl rfl

theorem inputPowerSample (a0 : Nat) : Statement (.inputPowerSample a0) := of_nil rfl rfl rfl rfl

theorem thermalSample (a0 : Nat) (a1 : List Nat) : Statement (.thermalSample a0 a1) := of_nil rfl rfl rfl rfl

theorem voltageTrim (a0 : Nat) (a1 : Bool) : Statement (.voltageTrim a0 a1) := of_nil rfl rfl rfl rfl

theorem svnCommit : Statement (.svnCommit) := of_nil rfl rfl rfl rfl

theorem svnCommitComplete : Statement (.svnCommitComplete) := of_nil rfl rfl rfl rfl

theorem recoveryGo (a0 : Word) : Statement (.recoveryGo a0) := of_nil rfl rfl rfl rfl

theorem recoveryCheckComplete : Statement (.recoveryCheckComplete) := of_nil rfl rfl rfl rfl

theorem flashUpdateGo (a0 : Word) : Statement (.flashUpdateGo a0) := of_nil rfl rfl rfl rfl

theorem flashUpdateComplete (a0 : Bool) : Statement (.flashUpdateComplete a0) := of_nil rfl rfl rfl rfl

theorem attestGo : Statement (.attestGo) := of_nil rfl rfl rfl rfl

theorem attestComplete : Statement (.attestComplete) := of_nil rfl rfl rfl rfl

theorem odlFlitReceive (a0 : Flit) : Statement (.odlFlitReceive a0) := of_nil rfl rfl rfl rfl

theorem odlReplayRequest (a0 : Nat) : Statement (.odlReplayRequest a0) := of_nil rfl rfl rfl rfl

theorem odlLinkDown : Statement (.odlLinkDown) := of_nil rfl rfl rfl rfl

theorem odlRetrainComplete (a0 : BitVec 16) : Statement (.odlRetrainComplete a0) := of_nil rfl rfl rfl rfl

theorem companionMemoryRead (a0 : Nat) (a1 : Nat) : Statement (.companionMemoryRead a0 a1) := of_nil rfl rfl rfl rfl

theorem companionMemoryWrite (a0 : Nat) (a1 : List Byte) : Statement (.companionMemoryWrite a0 a1) :=
  of_nil rfl rfl rfl rfl

theorem irqMessage (a0 : Nat) : Statement (.irqMessage a0) := of_nil rfl rfl rfl rfl

theorem irqPendingClear (a0 : Nat) (a1 : Word) : Statement (.irqPendingClear a0 a1) := of_nil rfl rfl rfl rfl

theorem heartbeat (a0 : Word) : Statement (.heartbeat a0) := of_nil rfl rfl rfl rfl

theorem heartbeatTimeout : Statement (.heartbeatTimeout) := of_nil rfl rfl rfl rfl

theorem linkDownTimeout : Statement (.linkDownTimeout) := of_nil rfl rfl rfl rfl

theorem cwBaseWrite (a0 : Word) : Statement (.cwBaseWrite a0) := of_nil rfl rfl rfl rfl

theorem entdaa (a0 : BitVec 7) : Statement (.entdaa a0) := of_nil rfl rfl rfl rfl

theorem setdasa (a0 : BitVec 7) : Statement (.setdasa a0) := of_nil rfl rfl rfl rfl

theorem rstdaa : Statement (.rstdaa) := of_nil rfl rfl rfl rfl

theorem getpid : Statement (.getpid) := of_nil rfl rfl rfl rfl

theorem getbcr : Statement (.getbcr) := of_nil rfl rfl rfl rfl

theorem getdcr : Statement (.getdcr) := of_nil rfl rfl rfl rfl

theorem getstatus : Statement (.getstatus) := of_nil rfl rfl rfl rfl

theorem enec (a0 : Byte) : Statement (.enec a0) := of_nil rfl rfl rfl rfl

theorem disec (a0 : Byte) : Statement (.disec a0) := of_nil rfl rfl rfl rfl

theorem rstact (a0 : Byte) : Statement (.rstact a0) := of_nil rfl rfl rfl rfl

theorem i3cOffsetWrite (a0 : BitVec 32) : Statement (.i3cOffsetWrite a0) := of_nil rfl rfl rfl rfl

theorem i3cPrivateRead : Statement (.i3cPrivateRead) := of_nil rfl rfl rfl rfl

theorem i3cDataWrite (a0 : BitVec 32) (a1 : BitVec 32) : Statement (.i3cDataWrite a0 a1) := of_nil rfl rfl rfl rfl

theorem clearFaults : Statement (.clearFaults) := of_nil rfl rfl rfl rfl

theorem statusWord : Statement (.statusWord) := of_nil rfl rfl rfl rfl

theorem statusInput : Statement (.statusInput) := of_nil rfl rfl rfl rfl

theorem readVin : Statement (.readVin) := of_nil rfl rfl rfl rfl

theorem readIin : Statement (.readIin) := of_nil rfl rfl rfl rfl

theorem readVout : Statement (.readVout) := of_nil rfl rfl rfl rfl

theorem readIout : Statement (.readIout) := of_nil rfl rfl rfl rfl

theorem readTemperature1 : Statement (.readTemperature1) := of_nil rfl rfl rfl rfl

theorem readPout : Statement (.readPout) := of_nil rfl rfl rfl rfl

theorem readPin : Statement (.readPin) := of_nil rfl rfl rfl rfl

theorem pmbusRevision : Statement (.pmbusRevision) := of_nil rfl rfl rfl rfl

theorem mfrId : Statement (.mfrId) := of_nil rfl rfl rfl rfl

theorem pmbusUnsupported (a0 : Byte) : Statement (.pmbusUnsupported a0) := of_nil rfl rfl rfl rfl

theorem pmbusReadingUpdate (a0 : Readings) : Statement (.pmbusReadingUpdate a0) := of_nil rfl rfl rfl rfl

theorem bypass : Statement (.bypass) := of_nil rfl rfl rfl rfl

theorem idcode : Statement (.idcode) := of_nil rfl rfl rfl rfl

theorem samplePreload (a0 : List Bool) (a1 : List Bool) : Statement (.samplePreload a0 a1) := of_nil rfl rfl rfl rfl

theorem extest : Statement (.extest) := of_nil rfl rfl rfl rfl

theorem extestPulse : Statement (.extestPulse) := of_nil rfl rfl rfl rfl

theorem extestTrain : Statement (.extestTrain) := of_nil rfl rfl rfl rfl

theorem clamp : Statement (.clamp) := of_nil rfl rfl rfl rfl

theorem highz : Statement (.highz) := of_nil rfl rfl rfl rfl

theorem companionWindowAccess (a0 : Nat) (a1 : Option (List Byte)) : Statement (.companionWindowAccess a0 a1) :=
  of_nil rfl rfl rfl rfl

theorem entropyHealthRecover : Statement (.entropyHealthRecover) := of_nil rfl rfl rfl rfl

theorem referenceClockReturn : Statement (.referenceClockReturn) := of_nil rfl rfl rfl rfl

theorem turnEnd (a0 : Nat) : Statement (.turnEnd a0) := of_nil rfl rfl rfl rfl

end Sys2Proof.Laws.Ranges
end

