-- ==== Sys2Proof/Tests/Slice0.lean ====
section
/-! SUPPORT. Tests: a term that each well-formedness check refuses, the spec's worked examples, and for every
obligation with hypotheses a state and operands that meet them. -/
namespace Sys2Proof.Tests

open Sys2Proof Sys2Proof.Machine

set_option Elab.async false

/-- A state with register words set. -/
def put (s : State) (rs : List (Nat × Nat)) : State := rs.foldl (fun z r => z.setReg r.1 r.2) s

/-- The canonical form from its three parts, which are decidable. -/
theorem canonical_of {s : State} (h : RegsWf s.variant s.regs ∧ Memory.wf s.mem ∧ s.poison.Pairwise (· < ·)) :
    s.Canonical := ⟨h.1, h.2.1, h.2.2⟩

/-- A started device: READY is set and the Odord link is up. -/
def lab : State :=
  put { State.reset with startup := { Startup.reset with porActive := false, stageDone := true } }
    [(regGlbStartup, 0x80000007), (regOdlStatus, 0x2000)]

/-- A device in phase 3 of its start-up, which answers in the early windows alone. -/
def early : State :=
  put { State.reset with startup := { Startup.reset with porActive := false, stageDone := true } }
    [(regGlbStartup, 3), (regOdlStatus, 0x2000)]

/-- An FD-860 that has started. -/
def small : State := { lab with variant := .fd860 }

theorem lab_canonical : lab.Canonical := canonical_of (by decide +kernel)
theorem early_canonical : early.Canonical := canonical_of (by decide +kernel)

theorem witness_StepRunsFront : ({ lab with pending := [.attestGo, .cmdHalt] }).pending = .attestGo :: [.cmdHalt] := rfl

theorem witness_IdleStepIsNanosecond : State.reset.Canonical ∧ State.reset.pending = [] ∧ State.reset.timeRuns = false ∧
    lab.Canonical ∧ lab.pending = [] ∧ lab.timeRuns = true :=
  ⟨canonical_of (by decide +kernel), rfl, by decide +kernel, lab_canonical, rfl, by decide +kernel⟩

theorem witness_StepKeepsCanonical : lab.Canonical ∧ ∃ t, step lab = .next t := ⟨lab_canonical, _, rfl⟩

theorem witness_CommandKeepsQueueVariantAndTime : ∃ t, exec .attestGo lab = .next t := ⟨_, rfl⟩

theorem witness_FusedMinimumNeverFalls :
    let s := { lab with sec := { Sec.reset with svnFuse := 3, svnTarget := some 3 } }
    s.SvnOk ∧ ∃ t, step s = .next t :=
  ⟨by intro v h; cases h; decide, _, rfl⟩

theorem witness_UnreadyRegistersDoNotAnswer :
    early.reachableRegs = true ∧ early.ready = false ∧ early.linkUp = true ∧
    ∀ off ∈ [0x1000, 0xCFFFFC, 0xD01000, 0xFFFFFC, 0x1100000],
      ¬ (off < 0x1000 ∨ (0xD00000 ≤ off ∧ off < 0xD01000) ∨ (0x1000000 ≤ off ∧ off < 0x1100000)) ∧ off % 4 = 0 := by
  decide +kernel

theorem witness_AbsentUnitsDoNotAnswer : small.reachableRegs = true ∧ small.linkUp = true ∧
    ∀ off ∈ [0x424000, 0x42CFFC, 0x5C0000, 0x720000, 0xA08000, 0xA17FFC], absentOff small.variant off = true := by
  decide +kernel

theorem witness_RegisterWriteByAccessCodes : lab.Canonical ∧ lab.reachableRegs = true ∧ lab.linkUp = true ∧
    (lab.quiet.answering regSchCtxBase).any (fun r => r.width == 64 && r.wh != 0 && r.owner == 1) = true ∧
    (lab.quiet.writeActing regSchCtxBase 0x10000).isNone = true ∧ lab.halted 1 = false :=
  ⟨lab_canonical, by decide +kernel⟩

theorem witness_LowHalfReadLatchesHighHalf : lab.reachableRegs = true ∧ regCmdJournalHead % 8 = 0 ∧
    (lab.quiet.answering regCmdJournalHead).any (fun r => r.width == 64) = true ∧
    (lab.quiet.answering (regCmdJournalHead + 4)).isNone = true := by decide +kernel

/-- A task that has been accepted and waits. -/
def mkTask (seq op form imm : Nat) : Task where
  seq := seq
  stream := 0
  ring := 0
  word := BitVec.ofNat 128 (op * 2 ^ 120 + form * 2 ^ 116 + imm)
  ext := []
  ops := []
  job := 0
  lc := false
  bound := 1000
  sat := false
  portable := false
  acceptTime := 0
  phase := .waiting
  issueTime := 0
  lastCharge := 0
  engineNs := 0
  outcome := 0
  err := 0
  detail := 0
  grantLo := 0
  grantHi := 0
  logNeed := 0
  eligible := none
  faults := 0
  preempt := false
  noPreempt := false
  logData := []
  guardCounts := []
  fixed := false
  noIron := []

/-- The started device with tasks. -/
def withTasks (ts : List Task) : State := { lab with tasks := ts }

theorem witness_WhWritesOutsideHalt : lab.Canonical ∧ lab.ready = true ∧
    (∀ f ∈ [1, 8, 9, 10, 11, 12, 13], lab.halted f = false) ∧ portPresent lab.variant 23 = true ∧
    bitOf (0x8000000000000000#64 : Word).toNat 63 = true ∧ lab.reachableRegs = true ∧ lab.linkUp = true ∧
    (lab.quiet.answering regSchCtxBase).any (fun r => r.wh != 0 && r.rw == 0 && r.w1c == 0 && r.owner == 1) = true :=
  ⟨lab_canonical, by decide +kernel⟩

theorem witness_DoorbellMovesTailOrIsRefused :
    let past (v : Word) := (v.toNat % 2 ^ 32 + 2 ^ 32 - lab.fld (regCmdStrmHead 63) 31 0) % 2 ^ 32
    lab.Canonical ∧ lab.ready = true ∧ (0x100000000#64 : Word).toNat / 2 ^ 32 ≠ lab.fld regCmdOwnerEpoch 31 0 ∧
    (65#64 : Word).toNat / 2 ^ 32 = lab.fld regCmdOwnerEpoch 31 0 ∧
    2 ^ lab.fld (regCmdStrmCtrl 63) 12 8 < past 65#64 ∧ past 64#64 ≤ 2 ^ lab.fld (regCmdStrmCtrl 63) 12 8 :=
  ⟨lab_canonical, by decide +kernel⟩

/-- A device whose Command Engine has resumed, with stream 0 enabled, its ring at 0x10000 and one slot to take. -/
def fetching (slot : List Byte) (tail : Nat) : State :=
  { put lab [(regCmdStatus, 0), (regCmdStrmBase 0, 0x10000), (regCmdStrmCtrl 0, 0x100601), (regCmdStrmDtab 0, 0x20000),
      (regCmdStrmTail 0, tail)] with
    journal := { Journal.reset with opened := true }
    mem := memPutAll [] 0x10000 slot }

/-- The slot of a task word and no extension. -/
def slotOf (w : Nat) : List Byte := leBytes 16 w ++ zeros 48

/-- A descriptor of `d1` rows of `d0` elements. -/
def matrix (base d0 d1 fmt flags : Nat) : Desc :=
  { Desc.null with base := base, d0 := d0, d1 := d1, d2 := 1, stride1 := 4 * d0, fmt := fmt, flags := flags }

/-- A `MOVE` of one line from the coherent window to a local store, with its two descriptors. -/
def logging : State :=
  { put (fetching (slotOf (opMove * 2 ^ 120 + 1 * 2 ^ 84 + 2 * 2 ^ 72)) 1) [(regRruCtrl, 2), (regRruLogHead, 2 ^ 30)] with
    mem := memPutAll (memPutAll [] 0x10000 (slotOf (opMove * 2 ^ 120 + 1 * 2 ^ 84 + 2 * 2 ^ 72))) 0x20040
      (Desc.bytes (matrix windowBase 64 1 fmtInt8 0) ++ Desc.bytes (matrix localBase 64 1 fmtInt8 2)) }

/-- The first failing check of the slot that a state takes next. -/
def nextCheck (s : State) : Nat :=
  let r := s.quiet.nextTask 0
  ({ r.2.2 with sched := { r.2.2.sched with rr := 0 } } : State).check r.1 r.2.1

theorem witness_AcceptTaskOutcomes_closed : lab.Canonical ∧ lab.acceptOpen = false ∧
    (fetching [] 0).acceptOpen = true ∧ (fetching [] 0).nextStream = none :=
  ⟨lab_canonical, by decide +kernel⟩

theorem witness_AcceptTaskOutcomes_refused :
    (fetching (slotOf 0) 1).Canonical ∧ (fetching (slotOf 0) 1).acceptOpen = true ∧
    (fetching (slotOf 0) 1).nextStream = some 0 ∧ nextCheck (fetching (slotOf 0) 1) = errOpcode :=
  ⟨canonical_of (by decide +kernel), by decide +kernel⟩

theorem witness_AcceptTaskOutcomes_accepted :
    let s := fetching (slotOf (opFence * 2 ^ 120)) 1
    s.Canonical ∧ s.acceptOpen = true ∧ s.nextStream = some 0 ∧ nextCheck s = 0 ∧ s.tasks.length < 4096 ∧
    nextCheck { s with tasks := List.replicate 4096 (mkTask 9 opFence 0 0) } = 0 :=
  ⟨canonical_of (by decide +kernel), by decide +kernel⟩

theorem witness_AcceptTaskOutcomes_full : logging.Canonical ∧ logging.acceptOpen = true ∧ logging.nextStream = some 0 ∧
    nextCheck logging = 0 ∧ logging.quiet.logFree < logReserve (logging.quiet.logEntrySize (logging.quiet.nextTask 0).1) :=
  ⟨canonical_of (by decide +kernel), by decide +kernel⟩

theorem witness_AcceptTaskOutcomes_deferred :
    let d := { mkTask 3 opFence 0 0 with acceptTime := 9 }
    let s := { fetching (slotOf 0) 1 with deferred := [d] }
    s.Canonical ∧ s.acceptOpen = true ∧ s.nextStream = some 0 ∧ (s.deferred.find? fun d => d.stream == 0) = some d ∧
    nextCheck s = 0 ∧ (∀ x ∈ (fetching (slotOf 0) 1).deferred, x.stream ≠ 0) :=
  ⟨canonical_of (by decide +kernel), by decide +kernel⟩

theorem witness_EntryExtendsChain : lab.Canonical ∧ lab.reg regCmdJournalHead + 1 < 2 ^ 64 :=
  ⟨lab_canonical, by decide +kernel⟩

/-- A device whose journal, signature ring and log have moved. -/
def busy : State :=
  put lab [(regCmdJournalHead, 9), (regCmdJournalClosed, 7), (regCmdJsigHead, 3), (regRruLogHead, 640), (regRruStatus, 128)]

theorem busy_canonical : busy.Canonical := canonical_of (by decide +kernel)

theorem witness_TailWritesAreBounded : busy.Canonical ∧ busy.ready = true ∧ busy.journal.waiting = [] ∧
    busy.reg regRruLogTail < min (640#64 : Word).toNat (busy.reg regRruLogHead) :=
  ⟨busy_canonical, by decide +kernel⟩

/-- An open segment of one second, and a closed one that awaits its signature. -/
def segmented : State :=
  { put lab [(regCmdJournalHead, 9), (regCmdJsigHead, 1)] with
    time := 1000000000
    journal := { Journal.reset with opened := true, count := 2, firstSeq := 7, signing := [⟨0, 0, 6, 0, 0, 0, [], 1⟩] } }

theorem witness_SegmentsCloseAndAreSigned : segmented.Canonical ∧ segmented.bit regRruStatus 8 = false ∧
    segmented.journal.count ≠ 0 ∧ segmented.journal.firstTime + 1000000000 ≤ segmented.time ∧
    segmented.reg regCmdJournalHead ≠ 0 ∧ segmented.reg regCmdJsigHead + 1 < 2 ^ 64 ∧
    (∃ g rest, segmented.journal.signing = g :: rest) ∧ segmented.jsigFree = true ∧ segmented.sec.signer = none ∧
    ({ segmented with sec := { Sec.reset with signer := some .segment } } : State).sec.signer = some .segment ∧
    segmented.quenchOver = false :=
  ⟨canonical_of (by decide +kernel), by decide +kernel, by decide +kernel, by decide +kernel, by decide +kernel,
    by decide +kernel, ⟨_, _, rfl⟩, by decide +kernel⟩

/-- A function that is halting, its work done. -/
def haltingOf (f : Nat) : State := put lab [(regCmdStatus, 0), (statusReg f, 1)]

theorem witness_HaltsAreRequestedAndCompleted : lab.Canonical ∧ lab.ready = true ∧
    (lab.halted 0 || lab.halting 0) = true ∧ (lab.halted 15 || lab.halting 15) = false ∧
    (∀ f < 16, RegsWf (haltingOf f).variant (haltingOf f).regs ∧ (haltingOf f).halting f = true ∧
      (haltingOf f).haltDone f = true ∧ (haltingOf f).waitingOn opHalt f = [] ∧ (haltingOf f).waitingOn opResume f = [] ∧
      (haltingOf f).resumeWaits f = false) :=
  ⟨lab_canonical, by decide +kernel⟩

/-- A device whose RRU is halted and whose journal has been opened. -/
def opened : State :=
  { put lab [(regRruStatus, 2)] with journal := { Journal.reset with opened := true } }

theorem witness_ResumesThroughControlRegisters : lab.Canonical ∧ lab.ready = true ∧
    (lab.halted 15 = false ∧ lab.halting 15 = false) ∧
    ((haltingOf 0).halted 0 = false ∧ (haltingOf 0).halting 0 = true) ∧
    (opened.halted 15 = true ∧ opened.bit regRruControl 1 = false) ∧
    (opened.halted 0 = true ∧ opened.journal.opened = true ∧ opened.bit regCmdControl 1 = false) ∧
    (lab.halted 0 = true ∧ lab.journal.opened = false) :=
  ⟨lab_canonical, by decide +kernel⟩

theorem witness_EventEntriesOfEpochAndStream :
    let s := put lab [(regCmdStrmStatus 63, 2)]
    s.Canonical ∧ s.ready = true ∧ s.bit (regCmdStrmStatus 63) 1 = true ∧ s.journal.opened = false ∧
      s.journal.waiting = [] :=
  ⟨canonical_of (by decide +kernel), by decide +kernel⟩

theorem witness_EventAddRaisesCounter : lab.Canonical ∧ lab.ready = true := ⟨lab_canonical, by decide +kernel⟩

/-- The conditions under which a waiting control instruction issues. -/
abbrev Due (s : State) (t : Task) (op : Nat) : Prop :=
  s.task? t.seq = some t ∧ t.form = 0 ∧ t.opcode = op ∧ s.quiet.issueOk t = true ∧ t.lc = false

theorem witness_ControlInstructionsComplete_due :
    Due (withTasks [mkTask 5 opSignal 0 3]) (mkTask 5 opSignal 0 3) opSignal ∧
    Due (withTasks [mkTask 5 opWait 0 0]) (mkTask 5 opWait 0 0) opWait ∧
    (mkTask 5 opWait 0 0).x 1 63 0 ≤ lab.reg (regCmdEvent ((mkTask 5 opWait 0 0).imm 10 0)) ∧
    Due (withTasks [mkTask 5 opFence 0 7]) (mkTask 5 opFence 0 7) opFence ∧
    Due (withTasks [mkTask 5 opHalt 0 15]) (mkTask 5 opHalt 0 15) opHalt ∧
    Due (withTasks [mkTask 5 opResume 0 1]) (mkTask 5 opResume 0 1) opResume := by decide +kernel

/-- A `WAIT` of 1 us for a count of 1 that has been eligible for as long. -/
def waited : Task := { mkTask 5 opWait 0 (2 ^ 20) with ext := [1], eligible := some 0 }

theorem witness_ControlInstructionsComplete_later :
    (let s := { withTasks [waited] with time := 1000 }
     s.task? 5 = some waited ∧ waited.form = 0 ∧ waited.opcode = opWait ∧ waited.phase = .waiting ∧
       waited.imm 47 20 ≠ 0 ∧ s.stopped = false ∧ 0 + 1000 * waited.imm 47 20 ≤ s.time ∧
       s.reg (regCmdEvent (waited.imm 10 0)) < waited.x 1 63 0) ∧
    (let t := { mkTask 5 opFence 0 3 with phase := .running }
     let s := withTasks [t]
     s.task? 5 = some t ∧ t.opcode = opFence ∧ s.stopped = false ∧ s.fenceOpen t = false) := by decide +kernel

theorem witness_TaskCompletesAndLeaves :
    let t := { mkTask 5 opScore 0 0 with phase := .ended }
    (withTasks [t]).Canonical ∧ (withTasks [t]).stopped = false ∧ (withTasks [t]).task? 5 = some t ∧
      isRemote t.opcode = false ∧ t.over_ = true ∧ t.stream < 64 :=
  ⟨canonical_of (by decide +kernel), by decide +kernel⟩

theorem witness_LatencyCriticalSettingsAndPeriods :
    let s := { put lab [(regSchStatus, 2)] with time := 1000000000 }
    let all (n v : Nat) := (List.range 64).map fun i => if i = n then v else s.reg (regSchLc i)
    s.Canonical ∧ s.ready = true ∧ s.halted 1 = true ∧
    admitOk (all 63 (2 ^ 32 * 1024 + 850)) (s.fld regSchCtrl 47 32) (s.fld regSchCtrl 31 22) = true ∧
    admitOk (all 63 (2 ^ 32 * 1024 + 900)) (s.fld regSchCtrl 47 32) (s.fld regSchCtrl 31 22) = false ∧
    admitOk (all 64 0) 60 900 = true ∧
    (let z := put s [(regSchLc 0, 2 ^ 32 * 1024 + 850)]
     admitOk ((List.range 64).map fun i => z.reg (regSchLc i)) 900 900 = false ∧ 900 ≠ z.fld regSchCtrl 47 32) ∧
    s.periodStart 63 / (1000 * s.lcPeriod 63) < s.time / (1000 * s.lcPeriod 63) :=
  ⟨canonical_of (by decide +kernel), by decide +kernel⟩

theorem witness_TurnsAndPreemptions_park :
    (let t := { mkTask 5 opMove 0 0 with phase := .running, preempt := true }
     (withTasks [t]).task? 5 = some t ∧ (withTasks [t]).stopped = false ∧ engineOf t.opcode ≠ some 0) ∧
    (let t := { mkTask 5 opDmm 0 0 with phase := .running, preempt := true }
     (withTasks [t]).task? 5 = some t ∧ (withTasks [t]).coreBoundary t = true) := by decide +kernel

theorem witness_TurnsAndPreemptions_turn :
    ∀ r ∈ [(opMove, Phase.running, 6), (opScore, Phase.ended, 1)],
      let t := { mkTask 5 r.1 0 0 with phase := r.2.1, issueTime := 1 }
      let s := { withTasks [t] with time := 9, sched := { Sched.reset with turn := List.replicate 8 (some 0) } }
      s.sched.turn.getD r.2.2 none = some 0 ∧ ((s.holders r.2.2).find? fun t => jobIdx t == 0 && !t.lc) = some t ∧
        s.stopped = false ∧ (s.quiet.accrue t).1.deficit 0 r.2.2 ≤ 0 := by decide +kernel

theorem witness_TurnsAndPreemptions_copy :
    let s := put lab [(regSchResident 63, 2 ^ 32), (regSchResidentHi 63, 2 ^ 63 + 2 ^ 62 + 7),
      (regCadImage 0, 4 * 2 ^ 32 + 7), (regCadImage 1, 2 ^ 32 + 2)]
    s.ready = true ∧ s.activeImage (s.resVersion 63) = some 0 ∧ s.resValid 63 = true ∧ s.resLocal 63 = true ∧
      s.resSpilled 63 = false ∧ s.resReady 63 = false ∧ s.resFirst 63 + s.resPages 63 ≤ s.imgPages 0 ∧
      s.oldReaders 0 = false := by decide +kernel

/-- The engine instructions: opcode, form and engine. -/
def engineRows : List (Nat × Nat × Nat) :=
  [(opScore, 0, 1), (opDispatch, 0, 2), (opDispatch, 1, 2), (opGather, 0, 3), (opCombine, 0, 4), (opCombine, 1, 4),
   (opDmm, 0, 0), (opDmm, 1, 0), (opDmm, 2, 0), (opDmm, 3, 0), (opXmm, 0, 0), (opXmm, 1, 0), (opEwise, 0, 0),
   (opEwise, 1, 0), (opPrune, 0, 5), (opPrune, 1, 5), (opShadow, 0, 0), (opMove, 0, 6), (opPublish, 0, 7)]

/-- A waiting task is the one that its engine takes, and its issue runs it, or ends it where `fence` names its function. -/
abbrev Taken (t : Task) (op form e fence : Nat) : Prop :=
  let s := put (withTasks [t]) [(regRruEngineFence, fence)]
  s.task? 5 = some t ∧ t.opcode = op ∧ t.form = form ∧ s.quiet.issueOk t = true ∧ engineOf op = some e ∧
    (s.quiet.pick e).2.map (·.seq) = some 5 ∧ ((((s.quiet.pick e).1.issue t).2.phase = .ended) ↔ fence ≠ 0)

/-- A waiting latency-critical task within its budget, which its engine takes ahead of every other. -/
abbrev urgent (op form : Nat) : Task := { mkTask 5 op form 0 with lc := true, bound := 0 }

theorem witness_EngineInstructionsComplete : (∀ r ∈ engineRows, Taken (urgent r.1 r.2.1) r.1 r.2.1 r.2.2 0) ∧
    (∀ r ∈ engineRows, Taken (urgent r.1 r.2.1) r.1 r.2.1 r.2.2 0xFFFF) := by decide +kernel

theorem witness_EngineInstructionsComplete_bestEffort : Taken (mkTask 5 opScore 0 0) opScore 0 1 0 := by decide +kernel

/-- The word of a remote or group instruction with room for it. -/
abbrev Roomy (op imm fence : Nat) : Prop :=
  let t := mkTask 5 op 0 imm
  let s := put (withTasks [t]) [(regRruEngineFence, fence)]
  s.task? 5 = some t ∧ t.opcode = op ∧ t.form = 0 ∧ s.quiet.issueOk t = true ∧ t.lc = false ∧
    s.queueLoad (t.imm 18 16) < 512 ∧ s.rme.stageUsed + (t.op 0).span ≤ 8388608 ∧
    (((s.quiet.issue t).2.phase = .ended) ↔ fence ≠ 0)

theorem witness_RemoteAndGroupInstructionsComplete :
    ∀ fence ∈ [0, 0xFFFF], (∀ op ∈ [opRload, opRstore, opMstore, opRatomic, opRreduce], Roomy op 0 fence) ∧
      ∀ kind < 5, Roomy opCollect (4096 * kind + 1) fence ∧ (mkTask 5 opCollect 0 (4096 * kind + 1)).imm 15 12 = kind := by
  decide +kernel

/-- The spec's worked example of `DISPATCH`: six tokens, two choices each, eight experts. -/
def chosen : State := lab.store 0x10000 ([3, 5, 3, 1, 6, 3, 5, 3, 0, 6, 3, 0].flatMap fun n => leBytes 4 n)
def choices : Desc := matrix 0x10000 2 6 fmtInt32 0

theorem witness_DispatchPlacesEachPairOnce : 4 < (chosen.expertList choices 3).length ∧
    0 ≤ chosen.choice choices 4 0 ∧ chosen.choice choices 4 0 < (8 : Int) := by decide +kernel

theorem witness_TagsRoundTrip : 2 ^ 14 - 1 < 2 ^ 14 ∧ 2 ^ 24 - 1 < 2 ^ 24 ∧ 2 ^ 4 - 1 < 2 ^ 4 := by decide

/-- A running `DMM` on all cores, and one of its runs. -/
def dmm : Task := { mkTask 5 opDmm 0 0 with phase := .running, grantLo := 0, grantHi := 160, issueTime := 1 }
def run0 : Run := { ord := 0, seq := 5, proj := 0, expert := 0, tile := 0, blk := 0, part := 0, parts := 1, rows := [0] }

theorem witness_CoresClaimAndComplete_claim :
    let s := { withTasks [dmm] with runs := [run0] }
    let c := CoreSt.idle 0
    s.logical 0 = some 0 ∧ s.quiet.arrayOpen = true ∧ (s.core 0).next = none ∧
    s.runs.find? (s.quiet.claimable 0) = some run0 ∧ (s.core 0).cur = none ∧ (s.core 0).stake = false ∧
    (let z := { s with cores := [{ c with stake := true }] }
     z.runs.find? (z.quiet.claimable 0) = some run0 ∧ (z.core 0).cur = none ∧ (z.core 0).stake = true) ∧
    (let z := { s with cores := [{ c with cur := some { run0 with ord := 1 }, stake := true }] }
     z.runs.find? (z.quiet.claimable 0) = some run0 ∧ (z.core 0).next = none ∧ (z.core 0).cur ≠ none) := by decide +kernel

theorem witness_CoresClaimAndComplete_complete :
    (∀ r ∈ [run0, { run0 with proj := 2 }],
      let s := { withTasks [dmm] with cores := [{ CoreSt.idle 179 with cur := some r, stake := true }] }
      (s.core 179).cur = some r ∧ s.task? r.seq = some dmm ∧ (s.core 179).stake = true ∧ s.power.stopped = false) ∧
    (let p (i : Nat) : Part := { run := { run0 with ord := i, part := i, parts := 2 }, core := 0, vals := [], poisoned := false }
     let s := { withTasks [dmm] with parts := [p 0, p 1] }
     s.task? 5 = some dmm ∧ dmm.phase = .running ∧ s.stopped = false ∧ s.rawParts dmm.seq 0 = p 0 :: [p 1] ∧
       (p 0).run.part = 0 ∧ [p 1].length + 1 = (p 0).run.parts) := by decide +kernel

theorem witness_CoresClaimAndComplete_vectors :
    let b : VBlock := { seq := 5, proj := 0, expert := 0, blk := 0, row := 0, piece := 0, owner := 0 }
    (let s := { withTasks [dmm] with vblocks := [b] }
     s.logical 0 = some 0 ∧ s.quiet.arrayOpen = true ∧ (s.core 0).vec = none ∧ s.quiet.nextBlock 0 0 = some b) ∧
    (let s := { withTasks [dmm] with cores := [{ CoreSt.idle 0 with vec := some b }] }
     (s.core 0).vec = some b ∧ s.task? b.seq = some dmm ∧ s.power.stopped = false) ∧
    (let t := { dmm with word := BitVec.ofNat 128 (opXmm * 2 ^ 120) }
     let s := { withTasks [t] with guards := [(5, 1, 2), (5, 1, 3)] }
     s.task? 5 = some t ∧ t.phase = .running ∧ s.heldItems.contains (5, 1, 2) = true ∧ s.stopped = false ∧
       t ∈ s.tasks ∧ t.opcode = opXmm ∧ s.halting 7 = false ∧ s.halted 7 = false ∧
       (5, 1, 2) ∈ (s.guards.filter fun g => g.1 == t.seq).take (ceilDiv (t.grantHi - t.grantLo) 8) ∧
       (({ t with grantHi := 8 } : Task).grantHi - t.grantLo + 7) / 8 = 1) := by decide +kernel

theorem witness_StakesAreGrantedInOrder :
    (let s := { withTasks [dmm] with
       cores := [{ CoreSt.idle 0 with cur := some run0 }]
       power := { Power.reset with requests := [⟨false, false, 5, 0, 0⟩], ramp := [(99, 0)] } }
     s.unitsGranted < s.poolUnits ∧ s.rampUnits < 100 ∧ s.stopped = false ∧ ∃ x ∈ s.power.requests, s.requestStands x = true) ∧
    100 ≤ ({ lab with power := { Power.reset with ramp := [(100, 0)] } } : State).rampUnits ∧
    (let s := { lab with cores := (List.range 176).map fun k => { CoreSt.idle k with stake := true } }
     s.poolUnits ≤ s.unitsGranted) ∧ lab.power.requests = [] := by decide +kernel

/-- The device with an ID. -/
def node : State := put lab [(regNswDeviceId, 2 ^ 31 + 37)]

/-- A collective of group 1 and an exchange, as their member's side holds them. -/
def member : Coll := { Coll.fresh 1 0 with task := some 5, stake := true }
def exchange : Xchg := { Xchg.fresh (mkTask 5 opCombine 1 0) [37] with kind := 9, stake := true }

theorem witness_CollectivesAndExchangesEnter :
    (let t := { mkTask 5 opCombine 1 0 with phase := .running }
     let s := { node with tasks := [t], col := ⟨[], [exchange], [], []⟩ }
     s.xchg? 5 = some exchange ∧ s.task? 5 = some t ∧ exchange.entered = false ∧ exchange.stake = true ∧
       s.injectOpen = true ∧ s.halted 13 = false ∧ s.halting 13 = false ∧
       (let x := { exchange with decided := true }
        let z := { s with col := ⟨[], [x], [], []⟩ }
        z.xchg? 5 = some x ∧ x.kind = 9 ∧ x.aborted = 0 ∧ x.complete = true)) ∧
    (let t := { mkTask 5 opCollect 0 0x4001 with phase := .running }
     let s := { node with tasks := [t], col := ⟨[member], [], [], []⟩ }
     s.xchg? 5 = none ∧ s.task? 5 = some t ∧ collGroup t ≠ none ∧ s.taskColl 5 = some member ∧ member.entered = false ∧
       member.stake = true ∧ s.injectOpen = true ∧ s.quiet.segsPoison (s.quiet.collSpec t).ranges = false) ∧
    (let t := { mkTask 5 opCollect 0 1 with phase := .running, ops := [⟨0, 1, matrix 0x10000 64 1 fmtFp32 0⟩] }
     let s := { node with tasks := [t], col := ⟨[member], [], [], []⟩, poison := [0x400] }
     s.quiet.segsPoison (s.quiet.collSpec t).ranges = true ∧ member.inputs = [] ∧ s.halted 13 = false ∧
       s.halting 13 = false ∧
       (let c := { member with inputs := [Pkt.to 37 0 kContrib] }
        ({ s with col := ⟨[c], [], [], []⟩ } : State).taskColl 5 = some c ∧ c.inputs ≠ [])) ∧
    (let t := { mkTask 5 opDmm 1 0 with phase := .running, ext := [1] }
     let s := { node with tasks := [t] }
     collGroup t = some 1 ∧ s.taskColl 5 = none ∧ t.opcode = opDmm ∧ s.coreWorkDone 5 = true ∧ t.err ≠ errPoison ∧
       (let p := { t with err := errPoison }
        ({ node with tasks := [p] } : State).task? 5 = some p ∧ p.err = errPoison)) ∧
    lab.Canonical ∧ lab.ready = true :=
  ⟨by decide +kernel, by decide +kernel, by decide +kernel, by decide +kernel, lab_canonical, by decide +kernel⟩

/-- The device with the function `f` halted. -/
def halt (f : Nat) (rs : List (Nat × Nat)) : State := put lab ((statusReg f, 2) :: rs)

theorem witness_RegionsAreSetAndCleared_set :
    let s := halt 8 [(regCadWregionHi 255, 2)]
    let v : Word := 0x8000000000000007#64
    s.Canonical ∧ s.ready = true ∧ s.halted 8 = true ∧ bitOf v.toNat 63 = true ∧ s.regionValid 255 = false ∧
    s.regionPages 255 ≠ 0 ∧ s.pagesFree (getBits v.toNat 23 0) (s.regionPages 255) = true ∧
    s.regionPages 254 = 0 ∧ s.regionValid 254 = false ∧
    s.pagesFree (s.allocLimit / 65536 - 1) 2 = false ∧
    (let z := put s [(regCadWregion 255, 0x8000000000000007)]
     z.regionValid 255 = true ∧ getBits v.toNat 23 0 = z.regionFirst 255 ∧ getBits (v.toNat + 1) 23 0 ≠ z.regionFirst 255) :=
  ⟨canonical_of (by decide +kernel), by decide +kernel⟩

theorem witness_RegionsAreSetAndCleared_clear :
    let s := halt 8 [(regCadWregionHi 0, 2), (regCadWregion 0, 0x8000000000000001)]
    RegsWf s.variant s.regs ∧ s.regionValid 0 = true ∧ s.tasks = [] ∧
    (∀ r ∈ s.deviceAreas, rangesMeet r.1 r.2 (65536 * s.regionFirst 0) (65536 * s.regionPages 0) = false) ∧
    s.regionSealed 0 = false ∧
    (let z := put s [(regRruErrBase, 0x10000)]
     ∃ r ∈ z.deviceAreas, rangesMeet r.1 r.2 (65536 * z.regionFirst 0) (65536 * z.regionPages 0) = true) ∧
    (put s [(regCadWregion 0, 0xC000000000000001)]).regionSealed 0 = true ∧
    (let t : Task := { mkTask 5 opMove 0 0 with ops := [⟨0, 1, matrix 0x10000 64 1 fmtFp32 0⟩] }
     (layout t.opcode t.form).any (fun l => (namedOps l t).any fun o => (spansOf o.desc o.role.weight).any fun p =>
       rangesMeet p.1 p.2 (65536 * s.regionFirst 0) (65536 * s.regionPages 0)) = true) :=
  by decide +kernel

theorem witness_TableAndBankSettingsAreTaken :
    let s := halt 8 []
    let v : Word := 0x10000#64
    let n := ceilDiv (tableBytes s.variant) 65536
    s.Canonical ∧ s.ready = true ∧ s.halted 8 = true ∧ s.regionValid 0 = false ∧
    (v.toNat ≠ 0 ∧ v.toNat % 65536 = 0 ∧ s.reg regCadTableBase = 0 ∧ s.pagesFree (v.toNat / 65536) n = true) ∧
    ¬ ((0x10001#64 : Word).toNat % 65536 = 0) ∧ min 10 (getBits (15#64 : Word).toNat 3 0) = 10 ∧ s.framesUsed = [] ∧
    (let z := { s with pages := [⟨7, 0, 0, [0, 0, 0, 0], 2, false, 0, none⟩] }
     z.progMib < min 10 (getBits (15#64 : Word).toNat 3 0) ∧ z.framesUsed ≠ []) :=
  ⟨canonical_of (by decide +kernel), by decide +kernel⟩

/-- Every region entry but the last is VALID. -/
def crowded (last : Nat) : State :=
  { halt 8 [] with regs := (List.range last).map (fun i => (regCadWregion i, (0x8000000000000000 + BitVec.ofNat 64 i : Word)))
      ++ [(regCadStatus + 0xC00000, 0)] }

theorem witness_TableAndBankSettingsAreTaken_full : (∀ i < 255, (crowded 255).regionValid i = true) ∧
    (crowded 255).regionValid 255 = false := by decide +kernel

theorem witness_ChannelMapIsOneToOne :
    (let s := put lab [(regSmsNearUnits, 16)]
     4 * (16 * 32000000 * 96) ≤ 767999999999 ∧ 767999999999 < capacity s.variant ∧ s.variant = .fd880 ∧
       s.fld regSmsNearUnits 5 0 = 16) ∧ (put lab [(regSmsNearUnits, 62)]).fld regSmsNearUnits 5 0 ≤ 62 ∧
    3 * (62 * 32000000 * 96) ≤ 4 * (62 * 32000000 * 96) - 1 := by decide +kernel

theorem witness_MappingAndHeadroomAreTaken_units :
    let s := halt 9 []
    s.Canonical ∧ s.ready = true ∧ s.halted 9 = true ∧ getBits (62#64 : Word).toNat 5 0 ≤ 62 ∧
    s.fld regSmsNearUnits 5 0 ≤ 62 ∧ s.regions = [] ∧ s.images = [] ∧ s.hbm.darnTable = [] ∧ 63 = getBits (63#64 : Word).toNat 5 0 ∧
    (put s [(regCadWregion 9, 2 ^ 63)]).regions ≠ [] ∧ (put s [(regCadImage 0, 4 * 2 ^ 32 + 1)]).images ≠ [] :=
  ⟨canonical_of (by decide +kernel), by decide +kernel⟩

theorem witness_MappingAndHeadroomAreTaken_headroom :
    let s := halt 9 [(regSmsDarn, 2)]
    let u := s.quiet.setFld regSmsDarn 3 0 8
    let lo := u.allocLimit / 65536
    let k := s.allocLimit / 65536 - lo
    k ≠ 0 ∧ s.regions = [] ∧ s.images = [] ∧
    s.allocLimit / 65536 - (s.quiet.setFld regSmsDarn 3 0 2).allocLimit / 65536 = 0 ∧
    (let z := put s [(regCadWregion 0, 2 ^ 63 + lo), (regCadWregionHi 0, 1)]
     ∃ i ∈ z.regions, rangesMeet lo k (z.regionFirst i) (z.regionPages i) = true) ∧
    (let z := put s [(regCadImage 0, 4 * 2 ^ 32 + 1), (regCadImage 1, 2 ^ 32 + lo)]
     ∃ j ∈ z.images, rangesMeet lo k (z.imgFirst j) (z.imgPages j) = true) := by decide +kernel

theorem witness_MappingAndHeadroomAreTaken_request :
    let v : Word := 0x8000017F#64
    lab.Canonical ∧ lab.ready = true ∧ bitOf (0x17F#64 : Word).toNat 31 = false ∧ bitOf v.toNat 31 = true ∧
    channelPresent lab.variant 383 = true ∧ getBits v.toNat 15 0 = 383 ∧ lab.isDarned 383 = false ∧
    383 ∉ lab.hbm.fenced ∧ lab.hbm.failed = [] ∧ lab.darnOk = true ∧ lab.smsOpen = true ∧ lab.hbm.darning = none ∧
    lab.hbm.closing = false ∧ (put lab [(regSmsDarn, 0)]).darnOk = false ∧ (put lab [(regSmsDarn, 8 * 65536 + 1)]).darnOk = false :=
  ⟨lab_canonical, by decide +kernel⟩

/-- A page that moves, in place `place`. -/
def moving (place succ : Nat) : State :=
  { lab with pages := [⟨7, 0, 5, [0, 0, 0, 0], place, false, 3, if succ = 0 then none else some succ⟩] }

theorem witness_HeatHalvesAndPagesMove :
    (let s := { put (moving 0 0) [(regCadTableBase, 0x10000000)] with time := 1000000 }
     s.Canonical ∧ s.reg regCadTableBase ≠ 0 ∧ s.sched.heatAt + 1000 * s.epochUs ≤ s.time ∧ s.halted 8 = false ∧
       s.halting 8 = false ∧ s.stopped = false ∧ s.ready = true) ∧
    ((moving 1 0).pageRec 7).place = 1 ∧ (moving 1 0).anyPoison (65536 * 7) 65536 = false ∧
    ({ moving 1 0 with poison := [7 * 1024 + 1023] } : State).anyPoison (65536 * 7) 65536 = true ∧
    (let rs := [(regCadImage 0, 4 * 2 ^ 32 + 1), (regCadImage 1, 2 ^ 32 + 8)]
     let s := put (moving 3 8) rs
     (s.pageRec 7).place = 3 ∧ (s.pageRec 7).readers = 0 ∧ (s.pageRec 7).successor ≠ some 7 ∧
       (s.pageRec 7).successor = some 8 ∧ s.pageState 8 = 4 ∧ (s.pageRec 8).place = 0 ∧ s.cadOpen = true ∧
       ((moving 3 0).pageRec 7).successor = none ∧ (moving 3 8).pageState 8 ≠ 4 ∧
       (put s [(statusReg 8, 2)]).cadOpen = false ∧
       ((({ s with pages := s.pages ++ [⟨8, 0, 0, [0, 0, 0, 0], 2, false, 4, none⟩] } : State).pageRec 8).place ≠ 0)) :=
  ⟨⟨canonical_of (by decide +kernel), by decide +kernel⟩, by decide +kernel⟩

theorem witness_PublicationHashesThenCommits :
    let b : Publish := ⟨5, 255, 9, 0, 0, 1, []⟩
    let t := { mkTask 5 opPublish 0 (9 * 65536 + 255) with phase := .running }
    let s := { put (withTasks [t]) [(regCadWregionHi 255, 1), (regCadWregion 255, 2 ^ 63 + 2 ^ 62 + 3)] with pubs := [b] }
    s.Canonical ∧ s.pub? 5 = some b ∧ s.task? 5 = some t ∧ b.step = 1 ∧ t.phase = .running ∧ s.stopped = false ∧
    b.region < 256 ∧ s.anyPoison (65536 * s.regionFirst 255) (65536 * s.regionPages 255) = false ∧
    ({ s with poison := [3 * 1024] } : State).anyPoison (65536 * s.regionFirst 255) (65536 * s.regionPages 255) = true :=
  ⟨canonical_of (by decide +kernel), by decide +kernel⟩

theorem witness_StackReadsCountTheirErrors_reads :
    let a := lab.smsLimit - 4096
    let fenced := { lab with hbm := { Hbm.reset with fenced := [0] } }
    let framed := moving 2 0
    let routed := { framed with hbm := { Hbm.reset with routed := [(65536 * 7, 64)] } }
    lab.Canonical ∧ (0 < 4096 ∧ 4096 ≤ 4096 ∧ a % 65536 + 4096 ≤ 65536 ∧ a < lab.smsLimit) ∧
    lab.framed a = false ∧ (a, 4096) ∉ lab.hbm.routed ∧
    (∀ n ∈ [0, 1, 2], let e : LineError := ⟨63, n, 0⟩
      64 * e.line < a % 64 + 4096 ∧ ((lab.quiet.heat a (.cluster 3)).placeOf (64 * (a / 64 + e.line))).1 ∉ lab.hbm.fenced) ∧
    ((fenced.quiet.heat 0 .other).placeOf 0).1 ∈ fenced.hbm.fenced ∧
    (framed.pageRec 7).place = 2 ∧ framed.framed (65536 * 7) = true ∧ (65536 * 7, 64) ∉ framed.hbm.routed ∧
    (65536 * 7, 64) ∈ routed.hbm.routed ∧ ((framed.quiet.heat (65536 * 7) .spine).pageRec 7).place = 2 ∧
    framed.cadOpen = true ∧ (∃ e ∈ [(⟨0, 2, 0⟩ : LineError)], 2 ≤ e.symbols) ∧
    (∀ e ∈ [(⟨0, 1, 0⟩ : LineError)], e.symbols < 2) :=
  ⟨lab_canonical, by decide +kernel⟩

theorem witness_StackReadsCountTheirErrors_banks :
    lab.place (bankBase + 0x1FFFC0) = .program 0 ∧
    (lab.place (bankBase + 0x1F0FFFC0) = .bankOther 31 ∧ bankBase + 0x1F0FFFC0 < bankBase + 0x1000000 * 31 + 0x100000) ∧
    (bankBase + 0x1FFFC0) % 65536 + 64 ≤ 65536 := by decide +kernel

theorem witness_StackReadsCountTheirErrors_rinse :
    let image := put lab [(regCadImage 0, 4 * 2 ^ 32 + 1), (regCadImage 1, 2 ^ 32)]
    let again := { lab with hbm := { Hbm.reset with rinsed := [(383, 1)] } }
    lab.smsOpen = true ∧ lab.ready = true ∧ lab.channelServes 383 = true ∧ 383 ∉ lab.hbm.fenced ∧
    (∀ s ∈ [lab, again], (s.hbm.rinsePeriod = s.time / s.rinseNs → (383, 31249999) ∉ s.hbm.rinsed)) ∧
    (lab.rinseAddr 383 1999999936).isSome = true ∧ (lab.rinseAddr 383 0).any (fun a => a / 64 ∉ lab.poison) = true ∧
    image.rinseAddr 0 0 = some 0 ∧ image.pageState 0 = 4 ∧ (0 ∈ ({ image with poison := [0] } : State).poison) ∧
    2000000000 ≤ 2000000000 := by decide +kernel

theorem witness_ChannelsRetrainAndMargin_slots :
    (let s := { lab with time := 1000000000 + 49999 }
     s.Canonical ∧ s.sched.slotAt / s.slotPeriod < s.time / s.slotPeriod ∧ s.time % s.slotPeriod < 50000 ∧
       s.smsOpen = true ∧ s.ready = true ∧ channelPresent s.variant 383 = true) ∧
    (let s := { lab with hbm := { Hbm.reset with training := [383], margining := [382], sweeps := [(382, 1998, [7])] } }
     383 ∈ s.hbm.training ∧ mapGet 0 383 s.hbm.fails < 2 ∧ 382 ∈ s.hbm.margining ∧
       2048 ≤ (mapGet (0, []) 382 s.hbm.sweeps).1 + 50 ∧ (mapGet (0, []) 382 s.hbm.sweeps).1 + 49 < 2048) ∧
    2 ≤ mapGet 0 383 ({ Hbm.reset with fails := [(383, 2)] } : Hbm).fails :=
  ⟨⟨canonical_of (by decide +kernel), by decide +kernel⟩, by decide +kernel⟩

theorem witness_ChannelsRetrainAndMargin_rows :
    let row := 127 * 2 ^ 25
    let h := { Hbm.reset with repairs := [(383, row, 0)], refreshed := [(383, 127, 1)] }
    let s := { lab with hbm := h }
    (s.hbm.repairs.find? fun x => x.1 == 383 && x.2.1 == row) = some (383, row, 0) ∧ 0 < s.refreshes 383 (rowBank row) ∧
    s.hbm.spares.find? (fun x => x.1 == 383 && x.2.1 == rowBank row) = none ∧
    (∀ n ∈ [15, 16], ({ h with spares := [(383, 127, n)] } : Hbm).spares.find?
      (fun x => x.1 == 383 && x.2.1 == rowBank row) = some (383, 127, n)) ∧
    (let z := { put lab [(regSmsDarn, 8 * 65536)] with hbm := { Hbm.reset with darning := some (383, true) } }
     z.hbm.darning = some (383, true) ∧ z.smsOpen = true ∧ 1 ≤ z.fld regSmsDarn 19 16 ∧ z.fld regSmsDarn 19 16 ≤ 8) := by
  decide +kernel

/-- A packet at the limits of its fields. -/
def fullPkt : Pkt where
  dst := 2 ^ 14 - 1
  src := 2 ^ 14 - 1
  epoch := 255
  vc := 7
  kind := 31
  ordered := true
  mcast := true
  group := 4095
  hops := 63
  txn := 2 ^ 32 - 1
  total := 2 ^ 32 - 1
  offset := 2 ^ 32 - 1
  addr := 2 ^ 50 - 1
  payload := [1, 2, 3]
  port := 24
  since := 0

theorem witness_PacketHeaderRoundTrip : fullPkt.dst < 2 ^ 14 ∧ fullPkt.src < 2 ^ 14 ∧ fullPkt.epoch < 2 ^ 8 ∧
    fullPkt.vc < 2 ^ 3 ∧ fullPkt.kind < 2 ^ 5 ∧ fullPkt.group < 2 ^ 12 ∧ fullPkt.hops < 2 ^ 6 ∧ fullPkt.txn < 2 ^ 32 ∧
    fullPkt.total < 2 ^ 32 ∧ fullPkt.offset < 2 ^ 32 ∧ fullPkt.addr < 2 ^ 50 ∧ fullPkt.payload.length ≤ 4096 ∧
    (List.replicate 4096 (0 : Byte)).length ≤ 4096 := by
  decide +kernel

theorem witness_RouteWritesReachTheInactiveBank : lab.Canonical ∧ lab.ready = true ∧ 0 = lab.fld regNswEpoch 7 0 % 2 ∧
    1 ≠ lab.fld regNswEpoch 7 0 % 2 ∧ lab.bit regNswStatus 9 = false ∧ (put lab [(regNswStatus, 512)]).bit regNswStatus 9 = true :=
  ⟨lab_canonical, by decide +kernel⟩

theorem witness_EpochAdvancesByOneWhileHalted :
    let s := halt 10 [(regNswEpoch, 255)]
    s.Canonical ∧ s.ready = true ∧ s.halted 10 = true ∧ getBits (0x300#64 : Word).toNat 7 0 = (s.epoch + 1) % 256 ∧
    s.retirePending = false ∧ lab.halted 10 = false ∧ bitOf (1#64 : Word).toNat 0 = true ∧ bitOf (2#64 : Word).toNat 0 = false :=
  ⟨canonical_of (by decide +kernel), by decide +kernel⟩

/-- The device with a packet at the head of port 23's input, and a route to device 9. -/
def crossing (p : Pkt) (route : Nat) : State :=
  { put node [(regNswRoute p.dst, route)] with ports := [{ Port.reset 23 with inbuf := [p] }] }
def passing : Pkt := { Pkt.to 9 0 kLoadReq with hops := 2 }
def viaPort2 : Nat := 2 ^ 63 + 2 * 2 ^ 58 + 3 * 2 ^ 52

theorem witness_PacketsAreDeliveredForwardedOrDropped_here :
    (∀ p ∈ [passing, { passing with dst := 37 }, { passing with epoch := 255 }, Pkt.to 9 0 kFanset],
      (crossing p 0).headPkt 23 0 = some p ∧ (crossing p 0).movable 23 p = true ∧ p.port < 32) ∧
    (put (crossing passing 0) [(regNswDeviceId, 37)]).movable 23 passing = false ∧
    (crossing passing 0).epochOk 255 = false ∧ (crossing passing 0).epochOk 0 = true ∧ (Pkt.to 9 0 kFanset).tree = true ∧
    (crossing (Pkt.to 9 0 kFanset) 0).quiet.treeRoom (Pkt.to 9 0 kFanset) = true ∧ passing.tree = false ∧
    ({ passing with dst := 37 } : Pkt).dst = (crossing passing 0).deviceId ∧ passing.kind ≠ kReduce ∧
    (let c (g : Nat) : Pkt := { Pkt.to 9 0 kContrib with group := g, port := 23 }
     ({ crossing (c 2) 0 with rx := [c 1] } : State).quiet.treeRoom (c 2) = false) := by decide +kernel

theorem witness_PacketsAreDeliveredForwardedOrDropped_on :
    let r (s : State) := s.route (passing.epoch % 2) passing.dst
    let u (s : State) (p : Pkt) := (s.quiet.takePkt 23 p).creditFrame 23
    let sent (s : State) (p : Pkt) (out : Nat) :=
      (((u s p).press 23 p).1.sendInTurn s.quiet out ((u s p).press 23 p).2).orElse fun _ => (u s p).sendInTurn s.quiet out p
    passing.dst ≠ (crossing passing 0).deviceId ∧ routeValid (r (crossing passing 0)) = false ∧
    routePort (r (crossing passing (2 ^ 63 + 31 * 2 ^ 58))) = 31 ∧
    routeValid (r (crossing passing viaPort2)) = true ∧ routePort (r (crossing passing viaPort2)) = 2 ∧
    ({ passing with hops := 1 } : Pkt).hops ≤ 1 ∧ 1 < passing.hops ∧
    (let up := put (crossing passing viaPort2) [(regFptPortStatus 2, 0x3000)]
     (sent up passing (up.quiet.outputOf passing (r up))).isSome = true ∧ adaptiveVc passing.vc = false) ∧
    (let p := { passing with vc := 1 }
     let s := put (crossing p (viaPort2 + 2 ^ 31)) [(regFptPortStatus 2, 0x3000), (regFptPortStatus 3, 0x3000)]
     let out := s.quiet.outputOf p (r s)
     (sent s p out).isSome = true ∧ adaptiveVc p.vc = true ∧ out ≠ routePort (r s) ∧ 23 < 24) ∧
    (∀ st ∈ [0, 0x4000],
      let s := put (crossing passing viaPort2) [(regFptPortStatus 2, st)]
      (sent s passing (s.quiet.outputOf passing (r s))).isSome = false ∧ ((s.portState 2 = 4) ↔ st ≠ 0)) := by decide +kernel

/-- A packet that this node sends on along a tree by port 2. -/
def branch : Pkt := { Pkt.to 0 5 kResult with port := 34, hops := 2 }

theorem witness_PacketsAreDeliveredForwardedOrDropped_tree :
    (∀ st ∈ [0, 0x3000, 0x4000],
      let s := { put node [(regFptPortStatus 2, st)] with inject := [branch] }
      s.headPkt 24 5 = some branch ∧ s.movable 24 branch = true ∧ 32 ≤ branch.port ∧ 1 < branch.hops ∧
        ((s.portState (branch.port - 32) = 4) ↔ st = 0x4000) ∧
        (((((s.quiet.takePkt 24 branch).creditFrame 24).sendInTurn s.quiet (branch.port - 32) branch).isSome = true) ↔
          st = 0x3000)) ∧ ({ branch with hops := 1 } : Pkt).hops ≤ 1 := by decide +kernel

/-- Port 23 in state `st`. -/
def portIn (st : Nat) (rs : List (Nat × Nat)) : State := put node ((regFptPortStatus 23, st * 4096) :: rs)

theorem witness_PortsTrainKeyAndGoDown_train :
    let s := portIn 0 [(regFptPortCtrl 23, 2 ^ 31)]
    s.Canonical ∧ portPresent s.variant 23 = true ∧ s.portState 23 = 0 ∧ s.portEnable 23 = true ∧ s.trainOpen = true ∧
    s.portsStarted = true ∧ (portIn 1 []).portState 23 = 1 ∧ (portIn 1 []).portEncrypt 23 = false ∧
    (let r : Training := ⟨true, 250, 38, true, 0, 0, true, true, true⟩
     let e := portIn 1 [(regFptPortCtrl 23, 3 * 2 ^ 30)]
     r.lanes = true ∧ r.flight ≤ 250 ∧ r.device.toNat ≠ s.deviceId ∧ r.encrypt = true ∧ r.required = true ∧
       ({ r with required := false } : Training).required = false ∧ ({ r with lanes := false } : Training).lanes = false ∧
       250 < ({ r with flight := 251 } : Training).flight ∧ e.portState 23 = 1 ∧ e.portEncrypt 23 = true ∧
       r.encCapable = true ∧ e.bit regSecStatus 7 = false ∧ e.deviceValid = true) ∧
    (portIn 2 []).portState 23 = 2 ∧ (portIn 3 []).portState 23 = 3 :=
  ⟨canonical_of (by decide +kernel), by decide +kernel⟩

/-- The keys of an encrypting port. -/
def keys : LinkKeys := ⟨[], [], [], [], 2 ^ 40 - 2 ^ 20, 0, 0, 0⟩

theorem witness_PortsTrainKeyAndGoDown_keys :
    (portIn 2 []).port 23 = Port.reset 23 ∧ (Port.reset 23).peerCred = [] ∧ (portIn 2 []).credentialOk 23 [] [] = false ∧
    (let s := { portIn 2 [] with ports := [{ Port.reset 23 with peerCred := [1] }] }
     (s.port 23).peerCred ≠ [] ∧ s.portState 23 = 2 ∧ s.bit regSecStatus 7 = false ∧
       (put s [(regSecStatus, 128)]).bit regSecStatus 7 = true) ∧
    (let s := { put (portIn 3 []) [(regFptPortStatus 23, 0x3004)] with
                  ports := [{ Port.reset 23 with peerCred := [1], keys := some keys }] }
     s.portState 23 = 3 ∧ s.portCrypt 23 = true ∧ (s.port 23).nextKeys = none ∧ s.rekeyIsDue 23 = true) ∧
    (List.replicate 1568 (0 : Byte)).length = 1568 := by decide +kernel

/-- A credential whose signature verifies is accepted. -/
theorem witness_PortsTrainKeyAndGoDown_accepted (sig : List Byte) (hs : sig.length = sigLen256f)
    (hv : Config.slhVerify ctxLink (credPk (ascii "FD8L" ++ zeros 1644)) (ascii "FD8L" ++ zeros 1644) sig = true)
    (hn : credPk (ascii "FD8L" ++ zeros 1644) ≠ identityPk) :
    (portIn 2 []).credentialOk 23 (ascii "FD8L" ++ zeros 1644) sig = true := by
  have h1 : (ascii "FD8L" ++ zeros 1644).length = 1648 := by decide +kernel
  have h2 : ((ascii "FD8L" ++ zeros 1644).take 4 == ascii "FD8L") = true := by decide +kernel
  have h3 : ((portIn 2 []).portExpect 23 == 0) = true := by decide +kernel
  have h4 : (!(portIn 2 []).bit regSecStatus 7) = true := by decide +kernel
  have h5 : (credPk (ascii "FD8L" ++ zeros 1644) != identityPk) = true := by simpa using hn
  unfold State.credentialOk
  rw [hv, h2, h3, h4, h5, decide_eq_true h1, decide_eq_true hs]
  rfl

theorem witness_PortsTrainKeyAndGoDown_enable :
    let s (st on : Nat) := put (portIn st [(regFptPortCtrl 23, on)]) [(statusReg 11, 2)]
    (s 4 0).ready = true ∧ (s 4 0).halted 11 = true ∧ bitOf (0#64 : Word).toNat 31 = false ∧ (s 3 0).portState 23 ≠ 4 ∧
    (s 4 0).portState 23 = 4 ∧ bitOf (0x80000000#64 : Word).toNat 31 = true ∧ (s 4 0).portEnable 23 = false ∧
    (s 4 (2 ^ 31)).portEnable 23 = true := by decide +kernel

/-- A frame without packet bytes, whole or not. -/
def idle (crc : BitVec 32) : Frame := ⟨0, 0, [0, 0, 0, 0, 0, 0], crc, [], []⟩

theorem witness_FramesAreTakenInOrderOrRetried :
    let s := portIn 3 []
    let good := idle (BitVec.ofNat 32 (crc32 [0, 0, 0, 0, 0, 0]))
    let e := { put s [(regFptPortStatus 23, 0x3004)] with ports := [{ Port.reset 23 with keys := some keys }] }
    s.Canonical ∧ s.portUp 23 = true ∧ s.portCrypt 23 = false ∧ frameWhole (idle 0) 2560 = false ∧
    (s.port 23).discarding = false ∧ (s.port 23).retries.length < 64 ∧ frameWhole good 2560 = true ∧
    frameSeq good = (s.port 23).rxSeq ∧
    e.portUp 23 = true ∧ e.portCrypt 23 = true ∧ (e.port 23).keys = some keys ∧ (e.port 23).nextKeys = none ∧
    frameWhole good 2544 = true ∧ gcmTag keys.rxKey (frameNonce keys.rxSalt keys.rxCount) good.header good.stream ≠
      ({ good with tag := zeros 16 } : Frame).tag ∧
    (e.port 23).tagFails.length < 2 ∧ (e.port 23).retries.length < 64 ∧
    (∀ n ∈ [3, 4],
      let z := { s with ports := [{ Port.reset 23 with retry := [(6, 0, [], n), (7, 0, [], n)] }] }
      (z.port 23).retry.findIdx? (fun r => r.1 == 7) = some 1 ∧
        ((∀ r ∈ (z.port 23).retry.drop 1, r.2.2.2 < 4) ↔ n = 3)) :=
  ⟨canonical_of (by decide +kernel), by decide +kernel⟩

theorem witness_SurveysAndMeshResendsAreRecorded :
    (let s := { lab with time := 1000000000 }
     s.Canonical ∧ s.sched.surveyAt + 1000 * s.surveyUs ≤ s.time ∧ s.ready = true ∧ s.stopped = false) ∧
    (let n (k : Nat) := (((List.replicate k (7, 5)).filter fun x => decide (1000 < x.2 + 1000) && x.1 == (7#16).toNat).length)
     n 15 < 16 ∧ 16 ≤ n 16) :=
  ⟨⟨canonical_of (by decide +kernel), by decide +kernel⟩, by decide +kernel⟩

/-- The kinds of the packets that rows take in their order of arrival, and in the order of their source. -/
def firstKinds : List Nat :=
  [kLoadData, kAtomicReply, kFanset, kAck, kDrop, kContrib, kTackUp, kResult, kTackDown, kAbort, kDone, kClosed]
def orderedKinds : List Nat := [kLoadReq, kAtomic, kAtomicRetry, kReduce, kReduceRetry]

theorem witness_DeliveredPacketsAreServed_taken :
    (∀ k ∈ firstKinds, ([Pkt.to 37 0 kStore, Pkt.to 37 0 k].find? fun p => p.kind == k) = some (Pkt.to 37 0 k)) ∧
    (∀ k ∈ orderedKinds,
      let rx := [{ Pkt.to 37 0 kStore with src := 1, ordered := true }, { Pkt.to 37 0 k with ordered := true }]
      (rx.find? fun p => p.kind == k && (!p.ordered ||
        (rx.takeWhile (· != p)).all fun q => !(q.ordered && q.src == p.src && q.vc == p.vc)))
        = some { Pkt.to 37 0 k with ordered := true }) ∧
    (∀ k ∈ firstKinds ++ orderedKinds, ∀ p ∈ [Pkt.to 37 0 kStore], p.kind ≠ k) := by decide +kernel

/-- A delivered packet for this device. -/
def toHere (vc kind : Nat) : Pkt := Pkt.to 37 vc kind

/-- The first delivered packet of a kind that a test takes. -/
def firstOf_ (s : State) (k : Nat) (ok : Pkt → Bool) : Option Pkt := s.rx.find? fun p => p.kind == k && ok p

theorem witness_DeliveredPacketsAreServed_matched :
    (let decided (s : State) (p : Pkt) : Bool := !(p.vc == 3 && (s.quiet.xchgOf p).any fun x => !x.decided)
     let x := { exchange with entered := true, members := [0], sig := (toHere 3 kStore).sig }
     let s (d : Bool) : State := { lab with rx := [toHere 3 kStore], col := ⟨[], [{ x with decided := d }], [], []⟩ }
     firstOf_ { lab with rx := [toHere 0 kStore] } kStore (decided lab) = some (toHere 0 kStore) ∧
     firstOf_ (s true) kStore (decided (s true)) = some (toHere 3 kStore) ∧ firstOf_ (s false) kStore (decided (s false)) = none) ∧
    (let after (rx : List Pkt) (p : Pkt) : Bool :=
       (rx.takeWhile (· != p)).all fun q => !(q.kind == kFanset && q.src == p.src && q.txn == p.txn)
     let m := toHere 3 kMdata
     firstOf_ { lab with rx := [m, toHere 0 kFanset] } kMdata (after [m, toHere 0 kFanset]) = some m ∧
     firstOf_ { lab with rx := [toHere 0 kFanset, m] } kMdata (after [toHere 0 kFanset, m]) = none) ∧
    (let counted (s : State) (p : Pkt) : Bool :=
       (s.quiet.xchgForCount p).isSome || s.col.xchgs.any fun x => x.aborted != 0 && x.sig == p.sig
     let x := { exchange with members := [0], entered := true }
     let s (xs : List Xchg) : State := { lab with rx := [toHere 4 kXcount], col := ⟨[], xs, [], []⟩ }
     (∀ xs ∈ [[x], [{ x with aborted := 1 }]], firstOf_ (s xs) kXcount (counted (s xs)) = some (toHere 4 kXcount)) ∧
     firstOf_ (s []) kXcount (counted (s [])) = none) ∧
    (let mine (s : State) (p : Pkt) : Bool := s.grpLocal p.group || s.quiet.stalePkt p
     let r := { toHere 4 kRing with group := 1 }
     let s (w : Nat) (cs : List Coll) : State := { put lab [(regColGroupW3 1, w)] with rx := [r], col := ⟨cs, [], [], []⟩ }
     firstOf_ (s (2 ^ 62) []) kRing (mine (s (2 ^ 62) [])) = some r ∧
     firstOf_ (s 0 [{ member with aborted := 1 }]) kRing (mine (s 0 [{ member with aborted := 1 }])) = some r ∧
     firstOf_ (s 0 []) kRing (mine (s 0 [])) = none) := by decide +kernel

theorem witness_DeliveredPacketsAreServed_results :
    (let p := { toHere 1 kLoadReq with addr := localBase, offset := 4096, total := 8192 }
     p.offset < p.total ∧ min 4096 (p.total - p.offset) = 4096 ∧
       lab.targetStatus (p.addr + p.offset) 4096 false false = 0 ∧ lab.anyPoison (p.addr + p.offset) 4096 = false) ∧
    (let p := { toHere 0 kStore with addr := localBase, offset := 60, total := 64, payload := zeros 4 }
     p.vc ≠ 3 ∧ p.offset + p.len ≤ p.total ∧ lab.targetStatus (p.addr + p.offset) p.len true false = 0) ∧
    (∀ p ∈ [{ toHere 1 kReduce with addr := localBase, total := 4, payload := zeros 4, group := 256 },
        { toHere 1 kReduce with addr := localBase, total := 4, payload := zeros 20, group := 258 },
        { toHere 1 kReduceRetry with addr := localBase, total := 4, payload := zeros 4, group := 256 }],
      p.count ∈ [0, 2] ∧ p.offset + p.redData.length ≤ p.total ∧ p.redData.length = 4 ∧
        lab.replay? p.src p.txn p.offset = none ∧ (∀ d ∈ p.constituents, lab.freshKey d.1 d.2 = true) ∧
        lab.targetStatus p.addr 4 true true = 0 ∧ lab.anyPoison p.addr 4 = false ∧
        lab.rme.window.length + p.constituents.length ≤ 65536) := by decide +kernel

theorem witness_DeliveredPacketsAreServed_replies :
    ∀ k ∈ [(kLoadReq, kLoadData), (kAtomic, kAtomicReply), (kStore, kAck), (kReduce, kAck)],
      let x : Xfer := { Xfer.fresh (mkTask 5 opRload 0 0x70000) 9 k.1 0x1000 8192 [] with
        reqs := [{ offset := 0, len := 4096, sentAt := 0, tries := 0, busyAt := none, entry := 0, reply := none }] }
      let p := { toHere 2 k.2 with txn := x.txn, payload := zeros 8, total := 8192 }
      let s := { lab with rme := { Rme.reset with xfers := [x] }, rx := [p] }
      s.xfer? p.txn = some x ∧ s.slotOfXfer x = none ∧ p.group % 16 = 0 ∧ firstOf_ s k.2 (fun _ => true) = some p ∧
        p.offset + p.len ≤ p.total ∧ x.kind = k.1 ∧ x.exch = false ∧
        (x.reqs.any fun r => r.offset == 0 && r.reply.isNone) = true := by decide +kernel

/-- An `ATOMIC` of 8 bytes at a local store, and its retry. -/
def atomic : Pkt :=
  { Pkt.to 37 1 kAtomic with group := 128, addr := localBase, payload := zeros 16, txn := 3, src := 9, total := 16 }

theorem witness_AtomicsApplyAtMostOnce :
    let s := { node with rx := [atomic] }
    s.rx.find? (fun p => p.kind == kAtomic && (!p.ordered ||
      (s.rx.takeWhile (· != p)).all fun q => !(q.ordered && q.src == p.src && q.vc == p.vc))) = some atomic ∧
    atomic.offset + atomic.len ≤ atomic.total ∧ s.replay? atomic.src atomic.txn atomic.offset = none ∧ s.freshKey atomic.src atomic.txn = true ∧
    s.targetStatus atomic.addr 8 true true = 0 ∧ s.targetStatus atomic.addr 4 true true = 0 ∧
    s.anyPoison atomic.addr 8 = false ∧ s.rme.window.length < 65536 ∧
    (let q := { atomic with kind := kAtomicRetry }
     ({ node with rx := [q] } : State).rx.find? (fun p => p.kind == kAtomicRetry && (!p.ordered ||
       ([q].takeWhile (· != p)).all fun q => !(q.ordered && q.src == p.src && q.vc == p.vc))) = some q) := by
  decide +kernel

/-- A transfer of queue 7 with two packets, one of them sent. -/
def xfer (kind : Nat) (ordered : Bool) (reqs : List Req) : Xfer :=
  { Xfer.fresh (mkTask 5 opRstore 0 0x70000) 9 kind 0x1000 8192 (List.replicate 8 1) with
    ordered := ordered, next := 4096, reqs := reqs }
def moved (x : Xfer) (time : Nat) : State := { node with time := time, rme := { Rme.reset with xfers := [x] } }

theorem witness_TransfersInjectRetryAndTimeOut_inject :
    (moved (xfer kStore false []) 0).Canonical ∧
    (∀ k ∈ [kStore, kFanset], (moved (xfer k false []) 0).quiet.queueTurn = some 7 ∧
      (moved (xfer k false []) 0).quiet.nextXfer 7 = some (xfer k false [])) :=
  ⟨canonical_of (by decide +kernel), by decide +kernel⟩

theorem witness_TransfersInjectRetryAndTimeOut_again :
    (∀ o ∈ [false, true], ∀ tries ∈ [0, 3], ∀ busy ∈ [none, some 0],
      let r : Req := { offset := 0, len := 4096, sentAt := 0, tries := tries, busyAt := busy, entry := 0, reply := none }
      let x := xfer kStore o [r]
      let s := moved x 1000000000
      s.xfer? x.txn = some x ∧ x.reqs.find? (fun r => r.offset == 0 && r.reply.isNone) = some r ∧ s.stopped = false ∧
        x.kind ≠ kFanset ∧ s.deviceValid = true ∧ (put s [(regNswDeviceId, 37)]).deviceValid = false ∧
        r.sentAt + s.rmeTimeout ≤ s.time ∧ (r.tries < s.rmeTries ↔ tries = 0) ∧ 0 + 1000 ≤ s.time) ∧
    (∀ e ∈ [false, true],
      let x : Xfer := { xfer kFanset false [] with dests := [(9, 0, false)], next := 8192, exch := e }
      let t := { mkTask 5 opMstore 0 0x70000 with phase := .running }
      let s := { moved x 1000000000 with tasks := [t] }
      ((s.xfersOf 5).filter fun x => x.kind == kFanset).find? (fun x => !x.dests.all (·.2.2)) = some x ∧
        (∀ y ∈ (s.xfersOf 5).filter fun x => x.kind == kFanset, y.total ≤ y.next ∧
          y.lastSent + s.rmeTimeout * (s.rmeTries + 1) ≤ s.time) ∧ s.task? 5 = some t ∧ t.phase = .running) := by
  decide +kernel

theorem witness_TransfersInjectRetryAndTimeOut_control :
    let s := halt 12 []
    let bad : Word := 0x0001000100000000#64 + 0xF0000000#64 + 0x100000000000#64
    let good : Word := 0x0001000100000000#64
    s.ready = true ∧ s.halted 12 = true ∧
    max 1 (getBits bad.toNat 63 48) * 500 < (getBits bad.toNat 31 28 + 1) * max 1 (getBits bad.toNat 47 32) ∧
    (getBits good.toNat 31 28 + 1) * max 1 (getBits good.toNat 47 32) ≤ max 1 (getBits good.toNat 63 48) * 500 := by
  decide +kernel

/-- A group with one child on port 2, late by more than its timeout. -/
def lateColl (c : Coll) : State :=
  { put node [(regColGroupW3 1, 2 ^ 63 + 2 ^ 62 + 24 * 2 ^ 40 + 4 * 2 ^ 16 + 2)] with time := 10 ^ 9, col := ⟨[c], [], [], []⟩ }

theorem witness_CollectivesTimeOutAndGroupsAreWritten_colls :
    let f (s : State) := s.col.colls.find? fun c => c.group == 1 && c.aborted == 0 && (s.quiet.timeoutColl c).isSome
    (let c := { Coll.fresh 1 0 with firstTime := some 0 }
     (lateColl c).Canonical ∧ f (lateColl c) = some c ∧ (lateColl c).missingInput c = some 2) ∧
    (∀ r ∈ [none, some 0],
      let c := { member with merged := [0], entered := true, lastResult := r }
      f (lateColl c) = some c ∧ (lateColl c).missingInput c = none) ∧
    (let c := { member with doneTime := some 0 }
     (lateColl c).col.colls.find? (fun c => c.group == 1 && c.aborted == 0 && ((lateColl c).parentPort 1).isNone &&
       (c.doneTime.any fun a => decide (a + (lateColl c).colTimeout ≤ (lateColl c).time))) = some c) :=
  ⟨⟨canonical_of (by decide +kernel), by decide +kernel⟩, by decide +kernel⟩

theorem witness_CollectivesTimeOutAndGroupsAreWritten_rest :
    (let x := { exchange with entered := true }
     let s := { node with time := 10 ^ 9, col := ⟨[], [x], [], []⟩ }
     s.xchg? 5 = some x ∧ x.entered = true ∧ x.decided = false ∧ x.aborted = 0 ∧ x.entryTime + s.colTimeout ≤ s.time ∧
       x.members.find? (fun m => (x.header m).isNone) = some 37) ∧
    (halt 13 []).ready = true ∧ (halt 13 []).halted 13 = true := by decide +kernel

theorem witness_FaultsFencePatchAndStop_core :
    lab.Canonical ∧ lab.stopped = false ∧ bitOf (lab.coreMap 178) 29 = false ∧ lab.coreActive 178 = true ∧
    lab.coreSpare 179 = true ∧ bitOf (lab.coreMap 179) 29 = false ∧ 8 * 98303 < 0xC0000 ∧
    (∀ n ∈ [1, 2],
      let s := { lab with time := 9, rru := { Rru.reset with localUe := List.replicate n (178, 98303, 8) } }
      (2 ≤ (s.rru.localUe.filter fun x => decide (s.time < x.2.2 + dayNs) && (x.1 == 178 && x.2.1 == 98303)).length) ↔ n = 2) ∧
    (let s := { put lab [(regCoreSelftest 179, 2 ^ 30)] with rru := { Rru.reset with patching := [(178, 0, true)] } }
     (s.rru.patching.any fun x => x.1 == 178 && (x.2.2 || s.autoPatch)) = true ∧ s.spareOk 178 = true ∧
       178 ≠ spareOf 178) ∧
    bitOf (0x800000B2#64 : Word).toNat 31 = true ∧ bitOf (0xB2#64 : Word).toNat 31 = false ∧ lab.ready = true ∧
    (let s := { put lab [(regRruCtrl, 0)] with time := 1000000, rru := { Rru.reset with patching := [(178, 0, false)] } }
     (s.rru.patching.any fun x => x.1 == 178 && !x.2.2 && decide (x.2.1 + 1000000 ≤ s.time)) = true ∧ s.autoPatch = false) :=
  ⟨lab_canonical, by decide +kernel⟩

theorem witness_FaultsFencePatchAndStop_engine :
    (∀ k ∈ [(2, opScore), (3, opDispatch), (4, opCombine), (6, opPrune), (8, opMove)], ∀ f ∈ [0, 1],
      let t := { mkTask 5 k.2 0 0 with phase := .running, issueTime := 1, faults := f }
      let s := put (withTasks [t]) [(regRruCtrl, 4)]
      k.1 ∈ [2, 3, 4, 6, 8] ∧ s.stopped = false ∧ s.taskOn k.1 = some t ∧ s.bit regRruCtrl 2 = true ∧
        (put s [(regRruCtrl, 0)]).bit regRruCtrl 2 = false) ∧
    (let s := put lab [(regGlbIslands, 2 ^ 40 - 1)]
     s.bit regGlbIslands 39 = true ∧ s.bit regGlbIslands 38 = true) := by decide +kernel

theorem witness_TrigPointsAndDigestsAreTaken :
    let s := put lab [(regSchStatus, 2), (regRruTrigSize, 2 ^ 32)]
    let z := s.quiet.setBit regRruTrigCtrl 1 true
    s.Canonical ∧ s.ready = true ∧ (s.rru.trig.any fun t => !t.signing) = false ∧ z.quietDevice = true ∧
    trigSig z.trackedPages.length + sigLen256f ≤ s.reg regRruTrigSize ∧ s.stopped = false ∧ lab.quietDevice = false ∧
    (∀ b ∈ [false, true],
      let g : Trig := ⟨0, [], [], 0, [], b⟩
      let x := { s with rru := { Rru.reset with trig := some g } }
      x.rru.trig = some g ∧ x.rru.unsigned = [] ∧ (x.signerNow = some .trig ↔ b = true) ∧
        (let y := { s with rru := { Rru.reset with trig := some g, unsigned := [g] } }
         y.rru.unsigned = g :: [] ∧ y.signerNow = some .trig ∧ y.stopped = false)) ∧
    (put s [(regCadWregion 255, 2 ^ 63)]).regionValid 255 = true ∧ s.regionValid 255 = false ∧
    ({ s with rru := { Rru.reset with digesting := some 255 } } : State).rru.digesting = some 255 ∧
    (s.pubs.any fun b => b.step == 1) = false :=
  ⟨canonical_of (by decide +kernel), by decide +kernel⟩

theorem witness_PowerSamplesQuenchesAndTrips :
    let q := { lab with power := { Power.reset with quenching := true } }
    let e := { put lab [(regPwrStatus, 512), (regStwAlert, 4)] with power := { Power.reset with stopped := true } }
    lab.Canonical ∧ lab.ready = true ∧ lab.bit regPwrStatus 9 = false ∧ lab.bit regPwrStatus 10 = false ∧
    (put lab [(regPwrStatus, 512)]).bit regPwrStatus 9 = true ∧ q.power.quenching = true ∧ q.power.stopped = false ∧
    e.power.stopped = true ∧ e.quenchOver = false ∧ e.journal.signing = [] ∧ e.vin.surgeStop = false ∧
    ({ e with vin := { Vin.reset with surgeStop := true } } : State).vin.surgeStop = true ∧
    lab.vin.powered = true ∧ 50 ≤ ({ Vin.reset with below33 := 50 } : Vin).below33 ∧ (32999 : Int) < 33000 ∧
    ({ lab with vin := { Vin.reset with powered := false } } : State).vin.powered = false ∧ (39999 : Int) < 40000 ∧
    9 ≤ ({ Power.reset with above1700 := 9 } : Power).above1700 ∧ lab.power.level ≠ 4 ∧
    [0, 1050, 1].foldl max 0 = 1050 ∧ (e.jsigFree = true ∧
      ({ put e [(regCmdJsigCount, 1)] with
         journal := { Journal.reset with signing := [⟨1, 0, 0, 0, 0, 0, [], 1⟩] } } : State).jsigFree = false) ∧
    (put lab [(regGlbIslands, 2 ^ 40 - 1)]).bit regGlbIslands 39 = true ∧
    (let old (n : Int) : Int := ((({ Power.reset with trims := [(39, n)] } : Power).trims.find? fun x => x.1 == 39).map (·.2)).getD 0
     old 4 + 1 ≤ 5 ∧ -5 ≤ old (-4) - 1 ∧ 5 < old 5 + 1 ∧ old (-5) - 1 < -5) :=
  ⟨lab_canonical, by decide +kernel⟩

/-- A device in phase `n` of its start-up. -/
def phase (n : Nat) : State := put { State.reset with startup := { Startup.reset with stageDone := true } } [(regGlbStartup, n)]

theorem witness_StartupAndResets_phases :
    State.reset.Canonical ∧ State.reset.vin.powered = true ∧ State.reset.startPhase = 1 ∧
    State.reset.startup.stageDone = false ∧ (∀ n ∈ [2, 3, 4, 5, 6], (phase n).startsUp n = true) ∧
    (phase 3).bit regGlbStartup 30 = false ∧ (phase 3).flashCheck false ≠ 0 ∧ (put (phase 6) ((List.range 24).map fun p => (regFptPortStatus p, 0x3000))).enabledPortsUp = true ∧
    (let s := { phase 6 with startup := { Startup.reset with timer := 30000000 } }
     s.enabledPortsUp = false ∧ s.startup.portsAt + 30000000 ≤ s.startup.timer) :=
  ⟨canonical_of (by decide +kernel), by decide +kernel⟩

theorem witness_StartupAndResets_resets :
    lab.Canonical ∧ lab.reachableRegs = true ∧ lab.ready = true ∧ lab.bit regPwrStatus 10 = false ∧
    lab.startup.porActive = false ∧ lab.hbm.darning = none ∧ lab.odl.dirty = [] ∧ lab.vin.powered = true ∧
    ({ lab with vin := { Vin.reset with powered := false } } : State).vin.powered = false ∧
    (let s := { phase 1 with startup := { Startup.reset with resetLow := true, stageDone := true } }
     s.startup.resetLow = true ∧ s.vin.powered = true ∧ s.startup.stageDone = true ∧ s.startPhase = 1) ∧
    lab.startPhase ≠ 1 ∧ lab.startup.refclk = true ∧ State.reset.startPhase < 2 ∧ 2 ≤ (phase 2).startPhase ∧
    ({ lab with startup := { Startup.reset with refclk := false } } : State).startup.refclk = false :=
  ⟨lab_canonical, by decide +kernel⟩

/-- An image passes when its header is in order, its key is known and not revoked, its signature verifies and its
digest matches; whether a signature verifies is an opaque constant. -/
theorem imageCheck_passes (read : Nat → Nat → List Byte) (len least : Nat)
    (hh : ¬ (len < 4096 ∨ (read 0 4096).take 4 ≠ ascii "FD8I" ∨ leNat (slice (read 0 4096) 4 2) ≠ 1 ∨
      3 < imgKeySlot (read 0 4096) ∨ 128 < imgSvn (read 0 4096) ∨ imgPayloadLen (read 0 4096) % 4096 ≠ 0 ∨
      25128960 < imgPayloadLen (read 0 4096) ∨ len < imgLength (read 0 4096)))
    (hr : Config.fwKeyRevoked (imgKeySlot (read 0 4096)) = false)
    (hk : shake256 32 (slice (read 0 4096) 24 64) = (List.range 32).map (Config.fwKeyHash (imgKeySlot (read 0 4096))))
    (hs : least ≤ imgSvn (read 0 4096))
    (hv : Config.slhVerify ctxFw (slice (read 0 4096) 24 64) (read 0 4096)
      (read (4096 + imgPayloadLen (read 0 4096)) sigLen256s) = true)
    (hd : shake256 32 (read 4096 (imgPayloadLen (read 0 4096))) = slice (read 0 4096) 88 32) :
    imageCheck read len least = 0 := by
  unfold imageCheck
  simp only [hh, hr, hk, hd, hv, Nat.not_lt.mpr hs, if_false, ne_eq, not_true_eq_false, Bool.false_eq_true,
    Bool.true_eq_false]

theorem witness_SecurityUnitCommands_commands :
    lab.Canonical ∧ lab.reachableRegs = true ∧ lab.sec.svnTarget = none ∧ 4 ≤ lab.startPhase ∧
    lab.sec.svnFuse < (put lab [(regSecSvn, 1)]).fld regSecSvn 7 0 ∧ lab.fld regSecSvn 7 0 ≤ lab.sec.svnFuse ∧
    bitOf (0x81000000#64 : Word).toNat 31 = true ∧ bitOf (0#64 : Word).toNat 31 = false ∧
    (put lab [(regGlbStartup, 0x40000003)]).bit regGlbStartup 30 = true ∧ lab.bit regGlbStartup 30 = false ∧
    lab.sec.recovery = none ∧ lab.sec.flashing = none ∧ lab.sec.attest = none ∧ lab.fatal = false ∧ lab.quenchOver = false ∧
    ({ lab with sec := { Sec.reset with svnTarget := some 255 } } : State).sec.svnTarget = some 255 :=
  ⟨lab_canonical, by decide +kernel⟩

theorem witness_SecurityUnitCommands_ends :
    (let s := { put (phase 3) [(regGlbStartup, 0x40000003)] with sec := { Sec.reset with recovery := some (0, 4096, true) } }
     s.sec.recovery = some (0, 4096, true) ∧ s.startsUp 3 = true ∧ s.sourceReady 0 = true ∧ inWindow 0 4096 = false) ∧
    (let s := { lab with sec := { Sec.reset with flashing := some (0, 0), attest := some (0x10000, [1]) } }
     s.sec.flashing = some (0, 0) ∧ s.sourceReady 0 = true ∧ s.memoryCheck 0 0 ≠ 0 ∧ s.sec.attest = some (0x10000, [1]) ∧
       s.ready = true ∧ s.signerNow = some .attest ∧ s.fatal = false ∧ s.quenchOver = false ∧
       (let z := { s with sec := { s.sec with signer := some .attest } }
        z.signerNow = some .attest)) := by decide +kernel

/-- An image in memory passes under the hypotheses of `imageCheck_passes` and without a poisoned line. -/
theorem witness_SecurityUnitCommands_passes (s : State) (src len : Nat)
    (h : imageCheck (fun off n => s.rdBytes (src + off) n) len s.sec.svnFuse = 0) (hp : s.anyPoison src len = false) :
    s.memoryCheck src len = 0 := by
  unfold State.memoryCheck
  simp [h, hp]

theorem witness_CompanionLinkAndInterrupts_link :
    (let f : Flit := ⟨0, 0, [0, 0, 0, 0], zeros 240, 0, 0⟩
     lab.Canonical ∧ lab.linkUp = true ∧ flitOk { f with badSymbols := 2 } = false ∧
       (∀ n ∈ [0, 1], let g := { f with num := n, crc := BitVec.ofNat 32 (crc32 (f.header ++ f.payload)) }
         flitOk g = true ∧ (g.num = lab.odl.rxSeq ↔ n = 0))) ∧
    (∀ n ∈ [3, 4],
      let s := { lab with odl := { Odl.reset with replay := [(6, [], n), (7, [], n)] } }
      (∃ r ∈ s.odl.replay, r.1 = 7) ∧ ((s.odl.replay.filter fun r => decide (7 ≤ r.1)).length = 1) ∧ ((∀ r ∈ s.odl.replay, 7 ≤ r.1 → r.2.2 < 4) ↔ n = 3)) ∧
    lab.flitRoom = true ∧ 0 + 65536 ≤ windowBase ∧ (∀ i < 4, lab.memoryRuns i = true) ∧
    (put lab [(regOdlIrqPending 1, 2 ^ 63), (regOdlIrqAddr, 4)]).canSignal 127 = true ∧
    (let s := put lab [(regOdlStatus, 0x1000)]
     s.vin.powered = true ∧ s.odlState = 1) ∧ highHalf 0xFF00#16 = true ∧ lowHalf 0x00FF#16 = true ∧
    lowHalf 0xFF00#16 = false ∧ highHalf 0x00FF#16 = false :=
  ⟨⟨lab_canonical, by decide +kernel⟩, by decide +kernel⟩

theorem witness_CompanionLinkAndInterrupts_memory :
    let s := { lab with odl := { Odl.reset with dirty := [(windowBase + 0xFFFFFFFF, 1)], dirtyLines := [0xC03FFFFFF] } }
    s.heldLines (windowBase + 0xFFFFFFFF / 64 * 64) 64 ≠ [] ∧ s.linkUp = true ∧ 0xFFFFFFFF < 0x100000000 ∧
    0xFFFFFFFF + [(1 : Byte)].length ≤ 0x100000000 ∧ lab.heldLines windowBase 64 = [] ∧ lab.reachableRegs = true ∧
    bitOf (0x8000000000000000#64 : Word).toNat 63 = true ∧ lab.companionLost = false ∧
    (let z := { put lab [(regOdlCtrl, 0x10000)] with time := 1000000 }
     z.fld regOdlCtrl 31 16 ≠ 0 ∧ z.odl.lastBeat + 1000000 * z.fld regOdlCtrl 31 16 ≤ z.time) ∧
    (let z := { lab with time := 10000001, odl := { Odl.reset with downSince := some 0 } }
     z.odl.downSince = some 0 ∧ 0 + 10000000 < z.time) ∧
    early.ready = false ∧ lab.halted 0 = true ∧ lab.tasks = [] ∧ (withTasks [mkTask 5 opFence 0 0]).tasks ≠ [] ∧
    (haltingOf 1).halted 0 = false := by decide +kernel

theorem witness_ManagementInterfacesAnswer :
    lab.reachableRegs = true ∧ lab.mgmt.dynAddr = none ∧
    ({ lab with mgmt := { Mgmt.reset with dynAddr := some 8 } } : State).mgmt.dynAddr.isSome = true ∧
    ((0xFF : Byte) ≠ 0 ∧ (0xFF : Byte) ≠ 1 ∧ (0xFF : Byte) ≠ 2) ∧
    (0x1000000#32).toNat ≠ regGlbReset ∧ (0x1000000#32).toNat ≠ regPwrCtrl ∧ (0x1000000#32).toNat ≠ regStwAlert ∧
    lab.vin.powered = true ∧ 3 ≤ lab.startPhase ∧ (0x00 : Byte).toNat ∉ pmbusCodes ∧
    (let s := put lab [(regPwrInput, 1000 * 2 ^ 16 + 4800)]
     ∀ v ∈ [47510, 47509], (s.readingsOk { readingsZero with vin := v, pin := 1000000 } = true ↔ v = 47510)) := by
  decide +kernel

/-! ### Ill-formed commands, one for each check -/

theorem test_illFormed_ports :
    ([.portTrainingStart 24, .portTrainingComplete 24 ⟨true, 250, 38, true, 0, 0, false, false, false⟩, .laneLockLoss 24, .retryRequest 24 0,
      .retryRequest 0 4096, .rekeyDue 24, .linkCredential 24 [] [], .keyCiphertext 24 [], .portEnableWrite 24 0,
      .packetForward 25 0, .packetForward 0 8, .routeWrite 2 0 0, .routeWrite 0 16384 0, .rmeInject 8,
      .frameReceive 24 ⟨0, 0, zeros 6, 0, [], []⟩, .frameReceive 0 ⟨0, 0, zeros 5, 0, [], []⟩,
      .frameReceive 0 ⟨0, 0, zeros 6, 0, zeros 15, []⟩, .frameReceive 0 ⟨61, 0, zeros 6, 0, [], []⟩,
      .frameReceive 0 ⟨0, 5, zeros 6, 0, [], []⟩] : List Instr).all (fun c => !c.wf) = true := by decide +kernel

theorem test_illFormed_memory :
    ([.hbmTrainingDone [384] ⟨[], []⟩, .hbmTrainingDone [] ⟨[384], []⟩, .hbmTrainingDone [] ⟨[], [(384, [])]⟩,
      .hbmReadComplete 0 0 [] ⟨.other, .served⟩, .hbmReadComplete 0 4097 [] ⟨.other, .served⟩,
      .hbmReadComplete 65535 2 [] ⟨.other, .served⟩, .rowRepair 384 0, .refreshSlot 384 0, .refreshSlot 0 128, .rinseStep 384 0 0 0,
      .retrainReqWrite 6 0, .marginReqWrite 6 0, .retrainComplete 384 true 0, .marginSegmentComplete 384 ⟨1, []⟩,
      .marginSegmentComplete 0 ⟨51, []⟩,
      .regionValidSet 256 0, .regionValidClear 256, .residencyCopyComplete 64, .companionMemoryRead 0x30000000000 1,
      .companionMemoryWrite 0x2FFFFFFFFFF [0, 0], .companionWindowAccess 0x100000000 none,
      .companionWindowAccess 0xFFFFFFFF (some [0, 0])] : List Instr).all (fun c => !c.wf) = true := by decide +kernel

theorem test_illFormed_control :
    ([.registerWrite 0x2000000 64 0 .companion, .registerWrite 0 16 0 .companion, .registerReadLowHalf 2, .doorbell 64 0,
      .streamFaultClear 64, .functionHaltComplete 16, .taskComplete (2 ^ 64), .lcPeriodStart 64, .schLcWrite 64 0,
      .runClaim 180, .runComplete 180, .vectorBlockClaim 180, .vectorBlockComplete 180, .collectiveTimeout 4096,
      .closingTimeout 4096, .colGroupWrite 4096 0 0, .colGroupWrite 0 4 0, .coreFaultDetect 180 .fault, .patchComplete 180,
      .patchWaitTimeout 180, .engineFaultDetect 16, .islandLost 256, .stewardWatchdog 256, .digestReqGo 256,
      .voltageTrim 256 true, .irqMessage 128, .irqPendingClear 2 0, .odlFlitReceive ⟨0, 0, zeros 3, zeros 240, 0, 0⟩,
      .odlFlitReceive ⟨0, 0, zeros 4, zeros 239, 0, 0⟩] : List Instr).all (fun c => !c.wf) = true := by decide +kernel

/-! ### Command words: the table gives no bits -/

theorem test_noWordSpellsACommand : decodeTableWord 64 0 = none ∧ State.reset.withFetchWord 64 0 = State.reset := ⟨rfl, rfl⟩

/-! ### Worked examples of the spec -/

/-- The example under R50: 448 × 448, 2⁻⁹ and −448 × 448 read out as 2⁻⁹. -/
theorem test_datum_exact :
    (([.fin false 200704 0, .fin false 1 (-9), .fin true 200704 0] : List Fp).foldl Datum.push {}).readout = 0x3B000000#32 := by
  decide +kernel

/-- The example under R59: split counts on both variants. -/
theorem test_splitCount : splitCount (partitionP .fd880 false) 4096 1024 512 = 1 ∧
    splitCount (partitionP .fd880 false) 64 64 16384 = 160 ∧ splitCount (partitionP .fd860 false) 64 64 16384 = 128 ∧
    splitCount (partitionP .fd880 true) 64 64 16384 = 128 := by decide +kernel

/-- The example of R117 to R122: ranking, the gates' bits, and a NaN score. -/
theorem test_score : scoreToken ⟨4, 0, 1, 1, 1, true, 0x3F800000#32⟩ none
      [0x3E800000#32, f32Nan, 0x3F000000#32, 0x80000000#32, 0x3F000000#32, 0#32] =
    ([2, 4, 0, 3], [0x3ECCCCCD#32, 0x3ECCCCCD#32, 0x3E4CCCCD#32, 0x80000000#32], true, false) := by decide +kernel

/-- The example of R130: the tag of device 37, token 709, rank 2, layer 13. -/
theorem test_tag : getBits (makeTag 37 709 2 13) 63 16 = 0x0094000B148D := by decide +kernel

/-- The example of R125 and R128: count, prefix and hamper start of the eight experts. -/
theorem test_dispatch_records :
    ((chosen.sortPlan choices 8 1).map fun p => (p.list.length, p.pre, p.ham, p.list.length - 1)) =
      [(2, 0, 0, 1), (1, 2, 1, 0), (0, 3, 1, 0), (5, 3, 1, 4), (0, 8, 5, 0), (2, 8, 5, 1), (2, 10, 6, 1), (0, 12, 7, 0)] ∧
    (planRows 8 1 (chosen.sortPlan choices 8 1)).map (fun f => f.1) = [0, 8, 1, 3, 9, 10, 11, 12, 5, 13, 6, 14] := by
  decide +kernel

/-- The magnitudes of the pruning example, in quarters. -/
def pruneMag (i : Nat) : Nat :=
  let r := i / 8
  let c := i % 8
  if r = 7 ∧ c = 7 then 40 else if r = 7 then 4 * (c + 1) else if c = 7 then 4 * (7 - r)
  else if r = c then 36 else if c = (r + 1) % 7 then 32 else 1

/-- The example of R213: the mask word, and one swap. -/
theorem test_prune : let k := select 2 ((List.range 64).map fun i => .fin false (pruneMag i) (-2))
    k.word = 0x82416030180C0681 ∧ k.swaps = 1 := by decide +kernel

/-- The table of R156: C_run at M = 3 of dense, 4:8 and 2:8 runs, and of the `DMM` example. -/
theorem test_cRun : cRun fmtE4m3 8 3 = 261 ∧ cRun fmtE4m3 4 3 = 197 ∧ cRun fmtE4m3 2 3 = 165 ∧
    cRun fmtE4m3 8 256 = 2447 := by decide +kernel

/-- The router logits of the `DMM` bound's example. -/
def logits : Task :=
  { mkTask 0 opDmm 0 0 with
    ops := [⟨0, 1, matrix 0x100000 512 1024 fmtE4m3 0⟩, ⟨1, 2, matrix 0x200000 4096 512 fmtE4m3 0⟩,
      ⟨2, 3, matrix 0x800000 4096 1024 fmtFp32 2⟩] }

/-- That example: 6,617.5 ns on both variants. -/
theorem test_dmmBound : dmmBound .fd880 (allCores .fd880) logits = 13235 / 2 ∧
    dmmBound .fd860 (allCores .fd860) logits = 13235 / 2 := by decide +kernel

/-- The example of R400: the budget of 850 µs in 1,024 µs is admitted, and one that passes the limit is not. -/
theorem test_admission : admitOk [2 ^ 32 * 1024 + 850] 50 900 = true ∧
    admitOk [2 ^ 32 * 1024 + 850, 2 ^ 32 * 1024 + 850] 50 900 = false := by decide +kernel

/-- The example of R255: the limits of an FD-880 with H = 2, and with a channel darned. -/
theorem test_limits : State.reset.allocLimit = 763999944704 ∧
    (put State.reset [(regSmsDarn, 0x10001)]).allocLimit = 763999944704 ∧
    (put State.reset [(regSmsDarn, 0x10001)]).smsLimit = 765999972352 := by decide +kernel

/-- AES-256-GCM under a key, a nonce and one block of plaintext of zeros: the ciphertext and the tag of the published
example of the algorithm. -/
theorem test_gcm : gcmCrypt (zeros 32) (zeros 12) (zeros 16) = beBytes 16 0xCEA7403D4D606B6E074EC5D3BAF39D18 ∧
    gcmTag (zeros 32) (zeros 12) [] (beBytes 16 0xCEA7403D4D606B6E074EC5D3BAF39D18) =
      beBytes 16 0xD0D1C8A799996BF0265B98B5D48AB919 := by decide +kernel

/-- The example of chapter 18: the identity and the capability of an FD-860. -/
theorem test_identity : ({ State.reset with variant := .fd860 } : State).reg regGlbIdentity = 0x4845086086010100 ∧
    ({ State.reset with variant := .fd860 } : State).reg regGlbCapability = 0x0FF0FF6DB7BDEF80 := by decide +kernel


end Sys2Proof.Tests
end

section
/-! What every command keeps, and that every command answers a next state. -/

namespace Sys2Proof.Machine

open Sys2Proof

/-! ### Every command answers a next state (log entry 1) -/

theorem exec_next (c : Instr) (s : State) : ∃ t, exec c s = .next t := by
  cases c <;> exact ⟨_, rfl⟩

/-- Settles O3: each meaning is an attempt, and an attempt answers a next state whether its conditions hold or not. -/
theorem noCommandStops : Obligations.NoCommandStops := by
  intro c s
  obtain ⟨t, ht⟩ := exec_next c s
  rw [ht]
  rfl

/-! ### What every command keeps -/

/-- Whatever a command answers, the queue, the variant, the canonical form, the time and the fuses are kept as `Keeps`
says. -/
theorem exec_keeps (c : Instr) (s : State) : KeepsX s (exec c s) :=
  match c with
  | .registerWrite .. => execRegisterWrite_keeps (.refl s)
  | .registerReadLowHalf .. => execRegisterReadLowHalf_keeps (.refl s)
  | .vinSample .. => execVinSample_keeps (.refl s)
  | .startupStageDone => execStartupStageDone_keeps (.refl s)
  | .startupRomDone => execStartupRomDone_keeps (.refl s)
  | .firmwareVerifyDone .. => execFirmwareVerifyDone_keeps (.refl s)
  | .startupIslandsDone .. => execStartupIslandsDone_keeps (.refl s)
  | .hbmTrainingDone .. => execHbmTrainingDone_keeps (.refl s)
  | .portsPhaseDone => execPortsPhaseDone_keeps (.refl s)
  | .resetNAssert .. => execResetNAssert_keeps (.refl s)
  | .resetNRelease => execResetNRelease_keeps (.refl s)
  | .glbResetFull => execGlbResetFull_keeps (.refl s)
  | .glbResetWarm => execGlbResetWarm_keeps (.refl s)
  | .refclkLoss => execRefclkLoss_keeps (.refl s)
  | .doorbell .. => execDoorbell_keeps (.refl s)
  | .acceptTask => execAcceptTask_keeps (.refl s)
  | .segmentTimeLimit => execSegmentTimeLimit_keeps (.refl s)
  | .segmentSigned => execSegmentSigned_keeps (.refl s)
  | .journalTailWrite .. => execJournalTailWrite_keeps (.refl s)
  | .jsigTailWrite .. => execJsigTailWrite_keeps (.refl s)
  | .cmdHalt => execCmdHalt_keeps (.refl s)
  | .cmdResume => execCmdResume_keeps (.refl s)
  | .ownerEpochWrite .. => execOwnerEpochWrite_keeps (.refl s)
  | .streamFaultClear .. => execStreamFaultClear_keeps (.refl s)
  | .eventAdd .. => execEventAdd_keeps (.refl s)
  | .functionHaltComplete .. => execFunctionHaltComplete_keeps (.refl s)
  | .taskComplete .. => execTaskComplete_keeps (.refl s)
  | .fence .. => execFence_keeps (.refl s)
  | .wait .. => execWait_keeps (.refl s)
  | .waitTimeout .. => execWaitTimeout_keeps (.refl s)
  | .signal .. => execSignal_keeps (.refl s)
  | .halt .. => execHalt_keeps (.refl s)
  | .resume .. => execResume_keeps (.refl s)
  | .score .. => execScore_keeps (.refl s)
  | .dispatch .. => execDispatch_keeps (.refl s)
  | .dispatchX .. => execDispatchX_keeps (.refl s)
  | .gather .. => execGather_keeps (.refl s)
  | .combine .. => execCombine_keeps (.refl s)
  | .combineX .. => execCombineX_keeps (.refl s)
  | .combinePhase1Start .. => execCombinePhase1Start_keeps (.refl s)
  | .dmm .. => execDmm_keeps (.refl s)
  | .dmmAr .. => execDmmAr_keeps (.refl s)
  | .dmmRs .. => execDmmRs_keeps (.refl s)
  | .dmmAg .. => execDmmAg_keeps (.refl s)
  | .xmm .. => execXmm_keeps (.refl s)
  | .xmmK .. => execXmmK_keeps (.refl s)
  | .ewise .. => execEwise_keeps (.refl s)
  | .ewiseStochastic .. => execEwiseStochastic_keeps (.refl s)
  | .pruneMask .. => execPruneMask_keeps (.refl s)
  | .prunePack .. => execPrunePack_keeps (.refl s)
  | .shadow .. => execShadow_keeps (.refl s)
  | .move .. => execMove_keeps (.refl s)
  | .publish .. => execPublish_keeps (.refl s)
  | .publishHashComplete .. => execPublishHashComplete_keeps (.refl s)
  | .rload .. => execRload_keeps (.refl s)
  | .rstore .. => execRstore_keeps (.refl s)
  | .mstore .. => execMstore_keeps (.refl s)
  | .ratomic .. => execRatomic_keeps (.refl s)
  | .rreduce .. => execRreduce_keeps (.refl s)
  | .collectAllReduce .. => execCollectAllReduce_keeps (.refl s)
  | .collectReduceScatter .. => execCollectReduceScatter_keeps (.refl s)
  | .collectAllGather .. => execCollectAllGather_keeps (.refl s)
  | .collectBroadcast .. => execCollectBroadcast_keeps (.refl s)
  | .collectBarrier .. => execCollectBarrier_keeps (.refl s)
  | .lcPeriodStart .. => execLcPeriodStart_keeps (.refl s)
  | .schLcWrite .. => execSchLcWrite_keeps (.refl s)
  | .schCtrlWrite .. => execSchCtrlWrite_keeps (.refl s)
  | .preemptionComplete .. => execPreemptionComplete_keeps (.refl s)
  | .residencyCopyComplete .. => execResidencyCopyComplete_keeps (.refl s)
  | .runClaim .. => execRunClaim_keeps (.refl s)
  | .runComplete .. => execRunComplete_keeps (.refl s)
  | .stakeGrant => execStakeGrant_keeps (.refl s)
  | .partialSumStart .. => execPartialSumStart_keeps (.refl s)
  | .vectorBlockClaim .. => execVectorBlockClaim_keeps (.refl s)
  | .vectorBlockComplete .. => execVectorBlockComplete_keeps (.refl s)
  | .guardDecision .. => execGuardDecision_keeps (.refl s)
  | .hamperPeakClear => execHamperPeakClear_keeps (.refl s)
  | .regionValidSet .. => execRegionValidSet_keeps (.refl s)
  | .regionValidClear .. => execRegionValidClear_keeps (.refl s)
  | .cadTableBaseWrite .. => execCadTableBaseWrite_keeps (.refl s)
  | .nearUnitsWrite .. => execNearUnitsWrite_keeps (.refl s)
  | .progMibWrite .. => execProgMibWrite_keeps (.refl s)
  | .headroomWrite .. => execHeadroomWrite_keeps (.refl s)
  | .heatEpochEnd => execHeatEpochEnd_keeps (.refl s)
  | .promotionComplete .. => execPromotionComplete_keeps (.refl s)
  | .evictionComplete .. => execEvictionComplete_keeps (.refl s)
  | .hbmReadComplete .. => execHbmReadComplete_keeps (.refl s)
  | .rowRepair .. => execRowRepair_keeps (.refl s)
  | .refreshSlot .. => execRefreshSlot_keeps (.refl s)
  | .rinseStep .. => execRinseStep_keeps (.refl s)
  | .retrainSlot => execRetrainSlot_keeps (.refl s)
  | .retrainReqWrite .. => execRetrainReqWrite_keeps (.refl s)
  | .retrainComplete .. => execRetrainComplete_keeps (.refl s)
  | .marginReqWrite .. => execMarginReqWrite_keeps (.refl s)
  | .marginSegmentComplete .. => execMarginSegmentComplete_keeps (.refl s)
  | .darnReqWrite .. => execDarnReqWrite_keeps (.refl s)
  | .darnMigrationComplete => execDarnMigrationComplete_keeps (.refl s)
  | .meshFlitResend .. => execMeshFlitResend_keeps (.refl s)
  | .portTrainingStart .. => execPortTrainingStart_keeps (.refl s)
  | .portTrainingComplete .. => execPortTrainingComplete_keeps (.refl s)
  | .laneLockLoss .. => execLaneLockLoss_keeps (.refl s)
  | .frameReceive .. => execFrameReceive_keeps (.refl s)
  | .retryRequest .. => execRetryRequest_keeps (.refl s)
  | .rekeyDue .. => execRekeyDue_keeps (.refl s)
  | .linkCredential .. => execLinkCredential_keeps (.refl s)
  | .keyCiphertext .. => execKeyCiphertext_keeps (.refl s)
  | .entropyHealthFail => execEntropyHealthFail_keeps (.refl s)
  | .packetForward .. => execPacketForward_keeps (.refl s)
  | .portEnableWrite .. => execPortEnableWrite_keeps (.refl s)
  | .routeWrite .. => execRouteWrite_keeps (.refl s)
  | .nswEpochWrite .. => execNswEpochWrite_keeps (.refl s)
  | .nswRetireWrite .. => execNswRetireWrite_keeps (.refl s)
  | .surveyInterval => execSurveyInterval_keeps (.refl s)
  | .rmeInject .. => execRmeInject_keeps (.refl s)
  | .loadReq => execLoadReq_keeps (.refl s)
  | .loadData => execLoadData_keeps (.refl s)
  | .store => execStore_keeps (.refl s)
  | .fanset => execFanset_keeps (.refl s)
  | .mdata => execMdata_keeps (.refl s)
  | .atomic => execAtomic_keeps (.refl s)
  | .atomicRetry => execAtomicRetry_keeps (.refl s)
  | .atomicReply => execAtomicReply_keeps (.refl s)
  | .reduce => execReduce_keeps (.refl s)
  | .reduceRetry => execReduceRetry_keeps (.refl s)
  | .ack => execAck_keeps (.refl s)
  | .drop => execDrop_keeps (.refl s)
  | .rmeReplyTimeout .. => execRmeReplyTimeout_keeps (.refl s)
  | .busyResend .. => execBusyResend_keeps (.refl s)
  | .mstoreTimeout .. => execMstoreTimeout_keeps (.refl s)
  | .rmeCtrlWrite .. => execRmeCtrlWrite_keeps (.refl s)
  | .collectiveEnter .. => execCollectiveEnter_keeps (.refl s)
  | .contrib => execContrib_keeps (.refl s)
  | .result => execResult_keeps (.refl s)
  | .tackUp => execTackUp_keeps (.refl s)
  | .tackDown => execTackDown_keeps (.refl s)
  | .ring => execRing_keeps (.refl s)
  | .abort => execAbort_keeps (.refl s)
  | .done => execDone_keeps (.refl s)
  | .closed => execClosed_keeps (.refl s)
  | .xcount => execXcount_keeps (.refl s)
  | .collectiveTimeout .. => execCollectiveTimeout_keeps (.refl s)
  | .closingTimeout .. => execClosingTimeout_keeps (.refl s)
  | .xcountTimeout .. => execXcountTimeout_keeps (.refl s)
  | .colGroupWrite .. => execColGroupWrite_keeps (.refl s)
  | .coreFaultDetect .. => execCoreFaultDetect_keeps (.refl s)
  | .patchComplete .. => execPatchComplete_keeps (.refl s)
  | .patchGo .. => execPatchGo_keeps (.refl s)
  | .patchWaitTimeout .. => execPatchWaitTimeout_keeps (.refl s)
  | .engineFaultDetect .. => execEngineFaultDetect_keeps (.refl s)
  | .islandLost .. => execIslandLost_keeps (.refl s)
  | .stewardWatchdog .. => execStewardWatchdog_keeps (.refl s)
  | .trigGo .. => execTrigGo_keeps (.refl s)
  | .trigComplete => execTrigComplete_keeps (.refl s)
  | .trigSigned => execTrigSigned_keeps (.refl s)
  | .digestReqGo .. => execDigestReqGo_keeps (.refl s)
  | .regionDigestComplete => execRegionDigestComplete_keeps (.refl s)
  | .rruHalt => execRruHalt_keeps (.refl s)
  | .rruResume => execRruResume_keeps (.refl s)
  | .logTailWrite .. => execLogTailWrite_keeps (.refl s)
  | .pwrQuenchWrite => execPwrQuenchWrite_keeps (.refl s)
  | .quenchTasksStopped => execQuenchTasksStopped_keeps (.refl s)
  | .quenchComplete => execQuenchComplete_keeps (.refl s)
  | .inputPowerSample .. => execInputPowerSample_keeps (.refl s)
  | .thermalSample .. => execThermalSample_keeps (.refl s)
  | .voltageTrim .. => execVoltageTrim_keeps (.refl s)
  | .svnCommit => execSvnCommit_keeps (.refl s)
  | .svnCommitComplete => execSvnCommitComplete_keeps (.refl s)
  | .recoveryGo .. => execRecoveryGo_keeps (.refl s)
  | .recoveryCheckComplete => execRecoveryCheckComplete_keeps (.refl s)
  | .flashUpdateGo .. => execFlashUpdateGo_keeps (.refl s)
  | .flashUpdateComplete .. => execFlashUpdateComplete_keeps (.refl s)
  | .attestGo => execAttestGo_keeps (.refl s)
  | .attestComplete => execAttestComplete_keeps (.refl s)
  | .odlFlitReceive .. => execOdlFlitReceive_keeps (.refl s)
  | .odlReplayRequest .. => execOdlReplayRequest_keeps (.refl s)
  | .odlLinkDown => execOdlLinkDown_keeps (.refl s)
  | .odlRetrainComplete .. => execOdlRetrainComplete_keeps (.refl s)
  | .companionMemoryRead .. => execCompanionMemoryRead_keeps (.refl s)
  | .companionMemoryWrite .. => execCompanionMemoryWrite_keeps (.refl s)
  | .irqMessage .. => execIrqMessage_keeps (.refl s)
  | .irqPendingClear .. => execIrqPendingClear_keeps (.refl s)
  | .heartbeat v => execHeartbeat_keeps (_v := v) (.refl s)
  | .heartbeatTimeout => execHeartbeatTimeout_keeps (.refl s)
  | .linkDownTimeout => execLinkDownTimeout_keeps (.refl s)
  | .cwBaseWrite .. => execCwBaseWrite_keeps (.refl s)
  | .entdaa .. => execEntdaa_keeps (.refl s)
  | .setdasa .. => execSetdasa_keeps (.refl s)
  | .rstdaa => execRstdaa_keeps (.refl s)
  | .getpid => execGetpid_keeps (.refl s)
  | .getbcr => execGetbcr_keeps (.refl s)
  | .getdcr => execGetdcr_keeps (.refl s)
  | .getstatus => execGetstatus_keeps (.refl s)
  | .enec .. => execEnec_keeps (.refl s)
  | .disec .. => execDisec_keeps (.refl s)
  | .rstact .. => execRstact_keeps (.refl s)
  | .i3cOffsetWrite .. => execI3cOffsetWrite_keeps (.refl s)
  | .i3cPrivateRead => execI3cPrivateRead_keeps (.refl s)
  | .i3cDataWrite .. => execI3cDataWrite_keeps (.refl s)
  | .clearFaults => execClearFaults_keeps (.refl s)
  | .statusWord => execStatusWord_keeps (.refl s)
  | .statusInput => execStatusInput_keeps (.refl s)
  | .readVin => execReadVin_keeps (.refl s)
  | .readIin => execReadIin_keeps (.refl s)
  | .readVout => execReadVout_keeps (.refl s)
  | .readIout => execReadIout_keeps (.refl s)
  | .readTemperature1 => execReadTemperature1_keeps (.refl s)
  | .readPout => execReadPout_keeps (.refl s)
  | .readPin => execReadPin_keeps (.refl s)
  | .pmbusRevision => execPmbusRevision_keeps (.refl s)
  | .mfrId => execMfrId_keeps (.refl s)
  | .pmbusUnsupported .. => execPmbusUnsupported_keeps (.refl s)
  | .pmbusReadingUpdate .. => execPmbusReadingUpdate_keeps (.refl s)
  | .bypass => execBypass_keeps (.refl s)
  | .idcode => execIdcode_keeps (.refl s)
  | .samplePreload .. => execSamplePreload_keeps (.refl s)
  | .extest => execExtest_keeps (.refl s)
  | .extestPulse => execExtestPulse_keeps (.refl s)
  | .extestTrain => execExtestTrain_keeps (.refl s)
  | .clamp => execClamp_keeps (.refl s)
  | .highz => execHighz_keeps (.refl s)
  | .companionWindowAccess .. => execCompanionWindowAccess_keeps (.refl s)
  | .entropyHealthRecover => execEntropyHealthRecover_keeps (.refl s)
  | .referenceClockReturn => execReferenceClockReturn_keeps (.refl s)
  | .turnEnd .. => execTurnEnd_keeps (.refl s)

/-- Settles O7: the fields concerned are among those that every command keeps. -/
theorem commandKeepsQueueVariantAndTime : Obligations.CommandKeepsQueueVariantAndTime := by
  intro c s t h
  have k : Keeps s t := exec_keeps c s t h
  exact ⟨k.pending, k.variant, k.time⟩

end Sys2Proof.Machine
end

section
/-! The passing of a nanosecond on an empty queue: the work that time does by itself leaves registers, memory and tasks
alone, so that only the counters of nanoseconds move. -/

namespace Sys2Proof.Machine

open Sys2Proof

/-! ### Changes that leave registers, memory and tasks alone -/

/-- From `s` to `t` the variant, the stored registers and bytes, and the tasks stay. -/
structure State.SameContents (s t : State) : Prop where
  variant : t.variant = s.variant
  regs : t.regs = s.regs
  mem : t.mem = s.mem
  tasks : t.tasks = s.tasks

namespace State.SameContents

theorem refl (s : State) : s.SameContents s := ⟨rfl, rfl, rfl, rfl⟩

theorem trans {s t u : State} (h : s.SameContents t) (g : t.SameContents u) : s.SameContents u :=
  ⟨g.variant.trans h.variant, g.regs.trans h.regs, g.mem.trans h.mem, g.tasks.trans h.tasks⟩

theorem foldl {α : Type} {f : State → α → State} (hf : ∀ (z : State) (a : α), z.SameContents (f z a)) (l : List α)
    (s : State) : s.SameContents (l.foldl f s) := by
  induction l generalizing s with
  | nil => exact refl s
  | cons a l ih => exact (hf s a).trans (ih (f s a))

theorem reg {s t : State} (h : s.SameContents t) (o : Nat) : t.reg o = s.reg o := by
  simp only [State.reg, h.variant, h.regs]

end State.SameContents

/-! ### Frames that leave a port (R296) -/

theorem State.setPort_sameContents (s : State) (x : Port) : s.SameContents (s.setPort x) := ⟨rfl, rfl, rfl, rfl⟩

theorem State.makeFrame_sameContents (s : State) (p fseq credit : Nat) (stream : List Byte) :
    s.SameContents (s.makeFrame p fseq credit stream).1 := by
  unfold State.makeFrame
  dsimp only
  split
  · exact s.setPort_sameContents _
  · exact .refl s

theorem State.nextFrame_sameContents (s : State) (p : Nat) : s.SameContents (s.nextFrame p) := by
  unfold State.nextFrame
  split
  · exact ((s.setPort_sameContents _).trans (State.makeFrame_sameContents _ _ _ _ _)).trans ⟨rfl, rfl, rfl, rfl⟩
  · exact .refl s

theorem State.pump_sameContents (s : State) (p least fuel : Nat) : s.SameContents (s.pump p least fuel) := by
  induction fuel generalizing s with
  | zero => exact .refl s
  | succ n ih =>
    unfold State.pump
    dsimp only
    split
    · exact .refl s
    · exact (s.nextFrame_sameContents p).trans (ih _)

theorem State.sendFrames_sameContents (s : State) (p : Nat) (flush : Bool) : s.SameContents (s.sendFrames p flush) :=
  s.pump_sameContents p _ _

theorem State.flushPorts_sameContents (s : State) : s.SameContents s.flushPorts :=
  .foldl (fun z (x : Port) => z.sendFrames_sameContents x.num true) _ s

/-- The copying of a darning counts granules (R256, log entry 32). -/
theorem State.darnCopies_sameContents (s : State) : s.SameContents s.darnCopies := by
  unfold State.darnCopies
  dsimp only
  split
  · split
    · split
      · exact ⟨rfl, rfl, rfl, rfl⟩
      · exact ⟨rfl, rfl, rfl, rfl⟩
    · exact .refl s
  · exact .refl s

/-- What time does beside counting nanoseconds. -/
theorem State.darnCopies_flushPorts_sameContents (s : State) : s.SameContents s.darnCopies.flushPorts :=
  s.darnCopies_sameContents.trans s.darnCopies.flushPorts_sameContents

/-! ### The counters of nanoseconds -/

theorem State.timeWork_mem (s : State) : s.timeWork.mem = s.mem := s.darnCopies_flushPorts_sameContents.mem

theorem State.timeWork_tasks (s : State) : s.timeWork.tasks = s.tasks := s.darnCopies_flushPorts_sameContents.tasks

theorem State.timeWork_reg_other (s : State) {o : Nat} (h1 : o ≠ regPwrStakeWaitNs) (h2 : o ≠ regPwrThrottleNs)
    (h3 : o ≠ regPwrEmergNs) : s.timeWork.reg o = s.reg o := by
  unfold State.timeWork
  dsimp only
  rw [State.reg_addReg_other _ _ _ _ h3, State.reg_addReg_other _ _ _ _ h2, State.reg_addReg_other _ _ _ _ h1,
    s.darnCopies_flushPorts_sameContents.reg]

/-- The waiting requests are added to PWR_STAKE_WAIT_NS (R456). -/
theorem State.timeWork_stakeWait (s : State) (h : Rising s.regs) :
    s.timeWork.reg regPwrStakeWaitNs = (s.reg regPwrStakeWaitNs + s.waitingStakes) % 2 ^ 64 := by
  have hc := s.darnCopies_flushPorts_sameContents
  unfold State.timeWork
  dsimp only
  rw [State.reg_addReg_other _ _ _ _ (by decide), State.reg_addReg_other _ _ _ _ (by decide),
    State.reg_addReg_same _ _ _ (hc.regs ▸ h), hc.reg]

/-- Settles O2: a tick is `timeWork` while time runs, and else nothing but the timer of start-up. -/
theorem idleStepIsNanosecond : Obligations.IdleStepIsNanosecond := by
  intro s hs hq
  have hstep : step s = .next s.tick := by simp only [step, hq]
  refine ⟨s.tick, hstep, ?_⟩
  cases ht : s.timeRuns with
  | true =>
    have hreg (o : Nat) : s.tick.reg o = s.quiet.timeWork.reg o := by simp only [State.tick, ht, if_true, State.reg]
    refine ⟨?_, ?_, fun o h1 h2 h3 => ?_, fun _ => ⟨?_, ?_⟩, nofun⟩
    · simp only [State.tick, ht, if_true, State.timeWork_mem, State.quiet_mem]
    · simp only [State.tick, ht, if_true, State.timeWork_tasks, State.quiet_tasks]
    · exact (hreg o).trans (s.quiet.timeWork_reg_other h1 h2 h3)
    · simp only [State.tick, ht, if_true]
    · exact (hreg _).trans (s.quiet.timeWork_stakeWait hs.regs.1)
  | false =>
    have htick : s.tick = { s.quiet with startup := s.tick.startup } := by
      simp only [State.tick, ht, Bool.false_eq_true, if_false, State.quiet]
    rw [htick]
    exact ⟨rfl, rfl, fun _ _ _ _ => rfl, nofun, fun _ => rfl⟩

end Sys2Proof.Machine
end

section
/-! Register accesses: which read or write answers, the latch of R14, the access codes of R9 to R12, and the writes of
WH fields of a function that is not halted. -/

namespace Sys2Proof.Machine

open Sys2Proof

/-! ### The two commands that access a register -/

theorem exec_registerReadLowHalf {s : State} {off : Nat} (hr : s.reachableRegs = true) (ho : off % 4 = 0) :
    exec (.registerReadLowHalf off) s =
      .next ((s.quiet.read32 off).2.emit (.readData (BitVec.ofNat 64 (s.quiet.read32 off).1))) := by
  have hc : s.quiet.reachableRegs = true ∧ off % 4 = 0 := ⟨hr, ho⟩
  show execRegisterReadLowHalf off s = _
  simp only [execRegisterReadLowHalf, attempt, if_pos hc, Option.getD_some]

theorem exec_registerWrite {s : State} {off width : Nat} {v : Word} {src : Src} (hr : s.reachableRegs = true)
    (hl : src = .companion → s.linkUp = true) :
    exec (.registerWrite off width v src) s = .next (s.quiet.writeReg off width (v.toNat % 2 ^ width)) := by
  have hc : s.quiet.reachableRegs = true ∧ (src = .companion → s.quiet.linkUp = true) := ⟨hr, hl⟩
  show execRegisterWrite off width v src s = _
  simp only [execRegisterWrite, attempt, if_pos hc, Option.getD_some]

/-! ### Offsets that do not answer (R2, R468) -/

theorem State.read32_of_silent {s : State} {off : Nat} (h : s.answering off = none)
    (hlow : off % 8 = 4 → s.answering (off - 4) = none) : s.read32 off = (0, s) := by
  simp only [State.read32, h]
  split
  · rfl
  · rename_i ho
    rw [hlow (by omega)]

theorem State.writeReg_of_silent {s : State} {off : Nat} (h : s.answering off = none) (width v : Nat) :
    s.writeReg off width v = s := by
  simp only [State.writeReg, h]

theorem State.answering_of_absent {s : State} {off : Nat} (h : absentOff s.variant off = true) :
    s.answering off = none := by
  simp [State.answering, h]

/-- The windows of absent units are made of whole 64-bit words. -/
theorem absentOff_lowHalf {v : Variant} {off : Nat} (ho : off % 8 = 4) (h : absentOff v off = true) :
    absentOff v (off - 4) = true := by
  simp only [absentOff, Bool.and_eq_true, Bool.or_eq_true, decide_eq_true_eq, beq_iff_eq] at h ⊢
  obtain ⟨hv, hw⟩ := h
  refine ⟨hv, hw.imp (.imp (.imp (.imp ?_ ?_) ?_) ?_) ?_⟩ <;> clear hw <;> omega

/-- Settles O10: an absent offset does not answer, nor does the low half of its word. -/
theorem absentUnitsDoNotAnswer : Obligations.AbsentUnitsDoNotAnswer := by
  intro s off hr ha
  have hsilent : s.quiet.answering off = none := State.answering_of_absent ha
  have hlow (h4 : off % 8 = 4) : s.quiet.answering (off - 4) = none :=
    State.answering_of_absent (absentOff_lowHalf h4 ha)
  refine ⟨fun ho => ?_, fun width v src hl => ?_⟩
  · rw [exec_registerReadLowHalf hr ho, State.read32_of_silent hsilent hlow]
    rfl
  · rw [exec_registerWrite hr hl, State.writeReg_of_silent hsilent]

/-! ### The latch of R14 -/

@[simp] theorem State.afterRead_out (s : State) (off : Nat) : (s.afterRead off).out = s.out := by
  unfold State.afterRead
  split
  · rfl
  · split <;> rfl

@[simp] theorem State.afterRead_regs (s : State) (off : Nat) : (s.afterRead off).regs = s.regs := by
  unfold State.afterRead
  split
  · rfl
  · split <;> rfl

/-- A key that was put is the first of its name, in whatever order the list stands. -/
theorem find?_mapPut_same {α : Type} (k : Nat) (v : α) (m : List (Nat × α)) :
    (mapPut k (some v) m).find? (fun c => c.1 == k) = some (k, v) := by
  induction m with
  | nil => simp [mapPut]
  | cons x xs ih =>
    obtain ⟨k', v'⟩ := x
    unfold mapPut
    split
    · simp
    · split
      · simp
      · rename_i hne
        have : (k' == k) = false := by simpa using Ne.symm hne
        simpa [this] using ih

theorem State.readWord_lt (s : State) (r : RegRow) (off : Nat) : s.readWord r off < 2 ^ r.width :=
  Nat.mod_lt _ (Nat.two_pow_pos _)

/-- A read of a low half answers it and latches the high half. -/
theorem State.read32_lowHalf {s : State} {off : Nat} {r : RegRow} (h : s.answering off = some r) (hw : r.width = 64) :
    s.read32 off = (s.readWord r off % 2 ^ 32, { s.afterRead off with
      latch := mapPut off (some (BitVec.ofNat 32 (s.readWord r off / 2 ^ 32))) (s.afterRead off).latch }) := by
  simp [State.read32, h, hw]

/-- A read of a high half whose word is latched answers the latched half and frees the latch. -/
theorem State.read32_highHalf {s : State} {off : Nat} {r : RegRow} {l : Nat × BitVec 32} (ho : off % 8 = 0)
    (h : s.answering off = some r) (hw : r.width = 64) (hh : s.answering (off + 4) = none)
    (hl : s.latch.find? (fun c => c.1 == off) = some l) :
    s.read32 (off + 4) = (l.2.toNat, { s with latch := mapPut off none s.latch }) := by
  have h4 : ¬ (off + 4) % 8 ≠ 4 := by omega
  simp only [State.read32, hh, if_neg h4, Nat.add_sub_cancel, h, hw, hl]
  rfl

/-- Settles O12: the first read latches the high half of its moment, and the second finds it, whatever the word then
is. -/
theorem lowHalfReadLatchesHighHalf : Obligations.LowHalfReadLatchesHighHalf := by
  intro s off r hr ho ha hw
  refine ⟨_, exec_registerReadLowHalf hr (by omega), ?_, ?_, fun u hru hlatch hau hsilent => ?_⟩
  · rw [State.read32_lowHalf ha hw]
    simp
  · rw [State.read32_lowHalf ha hw]
    simp
  · have hfind : u.quiet.latch.find? (fun c => c.1 == off) =
        some (off, BitVec.ofNat 32 (s.quiet.readWord r off / 2 ^ 32)) := by
      rw [State.quiet_latch, hlatch, State.emit_latch, State.read32_lowHalf ha hw]
      exact find?_mapPut_same off _ _
    have hlt : s.quiet.readWord r off / 2 ^ 32 < 2 ^ 32 := by
      have := s.quiet.readWord_lt r off
      rw [hw] at this
      omega
    refine ⟨_, exec_registerReadLowHalf hru (by omega), ?_, ?_⟩
    · rw [State.read32_highHalf ho hau hw hsilent hfind]
      simp only [State.emit_out, State.quiet_out, List.nil_append, BitVec.toNat_ofNat, Nat.mod_eq_of_lt hlt]
    · rw [State.read32_highHalf ho hau hw hsilent hfind]
      rfl

/-! ### WH writes of a function that is not halted (R10) -/

theorem State.whWrite_of_running {s : State} {f : Nat} (h : s.halted f = false) (hf : f ≠ 6) (act : State → State) :
    s.whWrite f act = s.setBit (statusReg f) 2 true := by
  simp [State.whWrite, h, hf]

theorem byteReg_statusReg (f : Nat) : byteReg (statusReg f) = false := by
  unfold statusReg
  split <;> rfl

/-- The frame of a bit of a STATUS register. -/
theorem State.onlyRegs_setBit_status (s : State) (f i : Nat) (b : Bool) :
    s.OnlyRegs (s.setBit (statusReg f) i b) [statusReg f] :=
  s.onlyRegs_setReg _ _ (byteReg_statusReg f)

/-- The write of a WH field refused: WH_VIOLATION is set in the STATUS register of the owner, and nothing else
changes. -/
def State.WhRefused (s t : State) (f : Nat) : Prop :=
  s.OnlyRegs t [statusReg f] ∧ t.bit (statusReg f) 2 = true ∧
    ∀ i, i < 64 → i ≠ 2 → t.bit (statusReg f) i = s.bit (statusReg f) i

theorem State.whRefused_setBit {s : State} (hs : s.Canonical) (f : Nat) :
    s.WhRefused (s.quiet.setBit (statusReg f) 2 true) f := by
  have hrise : Rising s.quiet.regs := hs.regs.1
  have honly := s.onlyRegs_quiet.trans (s.quiet.onlyRegs_setBit_status f 2 true) nofun fun _ h => h
  refine ⟨honly, ?_, fun i _ hi => ?_⟩
  · exact s.quiet.bit_setBit_same _ 2 true hrise (by decide)
  · exact s.quiet.bit_setBit_other _ 2 i true hrise (by decide) hi

/-- A command whose effect is a WH write is refused while the function is not halted. -/
theorem whRefused_of_exec {c : Instr} {s : State} {f : Nat} {act : State → State} (hs : s.Canonical) (hf : f ≠ 6)
    (hx : exec c s = .next (s.quiet.whWrite f act)) (h : s.halted f = false) :
    ∃ t, exec c s = .next t ∧ s.WhRefused t f := by
  have hq : s.quiet.halted f = false := h
  rw [State.whWrite_of_running hq hf] at hx
  exact ⟨_, hx, State.whRefused_setBit hs f⟩

/-! ### Writes by access code (R9 to R12) -/

theorem RegRow.merge_lt (r : RegRow) (halted : Bool) (old v : Nat) : r.merge halted old v < 2 ^ 64 := BitVec.isLt _

/-- Each bit of a written word: a W1C bit written 1 is cleared, a bit that may be written takes the value, and every
other bit stays. -/
theorem RegRow.testBit_merge (r : RegRow) (halted : Bool) (old v : Nat) {i : Nat} (hi : i < 64) :
    (r.merge halted old v).testBit i =
      (if r.w1c.testBit i && v.testBit i then false
       else if r.rw.testBit i || (halted && r.wh.testBit i) then v.testBit i
       else old.testBit i) := by
  have hbit (n : Nat) : (BitVec.ofNat 64 n).getLsbD i = n.testBit i := by
    rw [BitVec.getLsbD_ofNat, decide_eq_true hi, Bool.true_and]
  have hmask : (if halted then BitVec.ofNat 64 r.wh else 0).getLsbD i = (halted && r.wh.testBit i) := by
    cases halted <;> simp [hbit]
  rw [RegRow.merge, BitVec.testBit_toNat]
  simp only [BitVec.getLsbD_and, BitVec.getLsbD_or, BitVec.getLsbD_not, hbit, hmask, hi, decide_true, Bool.true_and]
  generalize r.w1c.testBit i = c, v.testBit i = x, r.rw.testBit i = w, (halted && r.wh.testBit i) = h,
    old.testBit i = o
  revert c x w h o
  decide

/-- A row without RW or W1C fields keeps the word while its owner runs. -/
theorem RegRow.merge_of_running {r : RegRow} {old : Nat} (hrw : r.rw = 0) (hc : r.w1c = 0) (ho : old < 2 ^ 64)
    (v : Nat) : r.merge false old v = old := by
  have hones : ~~~(0#64) = BitVec.allOnes 64 := rfl
  rw [RegRow.merge, hrw, hc, if_neg Bool.false_ne_true]
  simp only [BitVec.ofNat_eq_ofNat, BitVec.or_zero, BitVec.and_zero, hones, BitVec.and_allOnes, BitVec.toNat_ofNat,
    Nat.mod_eq_of_lt ho]

/-- A register that does not act is written by the access codes of its row. -/
theorem State.writeReg_fields {s : State} {off v : Nat} {r : RegRow} (ha : s.answering off = some r)
    (hact : s.writeActing off v = none) : s.writeReg off r.width v = s.writeFields r off (limitWrite off v) := by
  simp [State.writeReg, ha, hact]

/-- The owner of a row is a function, and it is halted. -/
def State.ownerHalted (s : State) (r : RegRow) : Bool := decide (r.owner < 16) && s.halted r.owner

/-- What a write by access code does: the word merged, perhaps the area noted as named, and a violation of WH fields
reported. -/
theorem State.writeFields_eq (s : State) (r : RegRow) (off v : Nat) :
    ∃ l, s.writeFields r off v =
      let t : State := { s.setReg off (r.merge (s.ownerHalted r) (s.reg off) v) with named := l }
      if r.wh ≠ 0 ∧ s.ownerHalted r = false then t.whWrite r.owner id else t := by
  by_cases hn : (s.ownerHalted r && areaBases.contains off) = true
  · refine ⟨setInsert off s.named, ?_⟩
    unfold State.writeFields
    dsimp only
    rw [← State.ownerHalted, if_pos hn]
    rfl
  · refine ⟨s.named, ?_⟩
    unfold State.writeFields
    dsimp only
    rw [← State.ownerHalted, if_neg hn]
    rfl

/-! ### A violation reported -/

theorem State.whWrite_id_contents (s : State) (f : Nat) :
    (s.whWrite f id).mem = s.mem ∧ (s.whWrite f id).tasks = s.tasks := by
  unfold State.whWrite
  split
  · exact ⟨rfl, rfl⟩
  · split <;> exact ⟨rfl, rfl⟩

theorem State.whWrite_id_reg_other (s : State) {f o : Nat} (ho : o ≠ statusReg f) :
    (s.whWrite f id).reg o = s.reg o := by
  unfold State.whWrite
  split
  · rfl
  · split
    · rfl
    · exact s.reg_setBit_other _ _ _ _ ho

/-- No STATUS register has WH fields, so a register with WH fields is not the STATUS register of its owner. -/
theorem wh_of_regRow_statusReg {f : Nat} {r : RegRow} (h : regRow (statusReg f) = some r) : r.wh = 0 := by
  have hall : ∀ o ∈ (List.range 16).map statusReg, (regRow o).all (fun r => r.wh == 0) = true := by decide +kernel
  have hmem : statusReg f ∈ (List.range 16).map statusReg := by
    unfold statusReg
    split <;> decide
  have := hall _ hmem
  rw [h] at this
  simpa using this

/-- A register that answers has a row. -/
theorem State.regRow_of_answering {s : State} {off : Nat} {r : RegRow} (h : s.answering off = some r) :
    regRow off = some r := by
  unfold State.answering at h
  split at h
  · exact h
  · cases h

theorem State.halted_congr {s t : State} {f : Nat} (h : t.reg (statusReg f) = s.reg (statusReg f)) :
    t.halted f = s.halted f := by
  simp only [State.halted, State.bit, State.fld, h]

/-- A register with WH fields is not the STATUS register of its owner. -/
theorem State.ne_statusReg_of_wh {s : State} {off : Nat} {r : RegRow} (ha : s.answering off = some r)
    (hwh : r.wh ≠ 0) : off ≠ statusReg r.owner := by
  rintro rfl
  exact hwh (wh_of_regRow_statusReg (State.regRow_of_answering ha))

section WriteFields

variable {s : State} {r : RegRow} {off : Nat} (v : Nat)

/-- The register itself after a write by access code. -/
theorem State.writeFields_reg_same (hs : Rising s.regs) (ha : s.answering off = some r) :
    (s.writeFields r off v).reg off = r.merge (s.ownerHalted r) (s.reg off) v := by
  obtain ⟨l, hl⟩ := s.writeFields_eq r off v
  have hset : (s.setReg off (r.merge (s.ownerHalted r) (s.reg off) v)).reg off = _ :=
    s.reg_setReg_same off _ hs (r.merge_lt _ _ _)
  rw [hl]
  dsimp only
  split
  · rename_i hv
    exact (State.whWrite_id_reg_other _ (State.ne_statusReg_of_wh ha hv.1)).trans hset
  · exact hset

/-- Every register but the written one and the STATUS register of its owner. -/
theorem State.writeFields_reg_other {o : Nat} (h1 : o ≠ off) (h2 : o ≠ statusReg r.owner) :
    (s.writeFields r off v).reg o = s.reg o := by
  obtain ⟨l, hl⟩ := s.writeFields_eq r off v
  have hset := s.reg_setReg_other off (r.merge (s.ownerHalted r) (s.reg off) v) o h1
  rw [hl]
  dsimp only
  split
  · exact (State.whWrite_id_reg_other _ h2).trans hset
  · exact hset

theorem State.writeFields_contents :
    (s.writeFields r off v).mem = s.mem ∧ (s.writeFields r off v).tasks = s.tasks := by
  obtain ⟨l, hl⟩ := s.writeFields_eq r off v
  rw [hl]
  dsimp only
  split
  · exact State.whWrite_id_contents _ _
  · exact ⟨rfl, rfl⟩

/-- A write to WH fields of a function that runs reports a violation (R10). -/
theorem State.writeFields_violation (hs : Rising s.regs) (ha : s.answering off = some r) (hwh : r.wh ≠ 0)
    (h6 : r.owner ≠ 6) (hrun : s.halted r.owner = false) :
    (s.writeFields r off v).bit (statusReg r.owner) 2 = true := by
  have hown : s.ownerHalted r = false := by rw [State.ownerHalted, hrun, Bool.and_false]
  obtain ⟨l, hl⟩ := s.writeFields_eq r off v
  rw [hl]
  dsimp only
  rw [if_pos ⟨hwh, hown⟩]
  have hrun' (w : Nat) : ({ s.setReg off w with named := l } : State).halted r.owner = false := by
    have hreg := s.reg_setReg_other off w _ (State.ne_statusReg_of_wh ha hwh).symm
    exact (State.halted_congr hreg).trans hrun
  rw [State.whWrite_of_running (hrun' _) h6]
  exact State.bit_setBit_same _ _ _ _ (s.setReg_rising off _ hs) (by decide)

end WriteFields

/-- Settles O11: such a write is `writeFields` of the limited value, and the merged word gives each bit by its access
code. -/
theorem registerWriteByAccessCodes : Obligations.RegisterWriteByAccessCodes := by
  intro s off width v src r hs hr hl ha hw hact
  subst hw
  have hrise : Rising s.quiet.regs := hs.regs.1
  refine ⟨_, exec_registerWrite hr hl, ?_⟩
  rw [State.writeReg_fields ha hact]
  refine ⟨fun i hi => ?_, fun hwh _ h6 hrun => ?_, fun o h1 h2 => ?_, State.writeFields_contents _⟩
  · rw [State.writeFields_reg_same _ hrise ha]
    exact r.testBit_merge _ _ _ hi
  · exact State.writeFields_violation _ hrise ha hwh h6 hrun
  · exact State.writeFields_reg_other _ h1 h2

/-! ### Refused writes of WH fields -/

/-- A word put that stands there already, in canonical form, leaves the map as it is. -/
theorem mapPut_mapGet {α : Type} [DecidableEq α] (d : α) (k : Nat) {m : List (Nat × α)} (hm : Rising m)
    (hd : ∀ c ∈ m, c.1 = k → c.2 ≠ d) :
    mapPut k (if mapGet d k m = d then none else some (mapGet d k m)) m = m := by
  induction m with
  | nil => simp [mapPut, mapGet]
  | cons x xs ih =>
    obtain ⟨k', v'⟩ := x
    obtain ⟨hlow, hxs⟩ := List.pairwise_cons.mp hm
    rcases lt_trichotomy k k' with hlt | rfl | hgt
    · have hnone : mapGet d k ((k', v') :: xs) = d := mapGet_of_not_mem fun c hc => by
        rcases List.mem_cons.mp hc with rfl | hc
        · exact hlt.ne'
        · exact (hlt.trans (hlow c hc)).ne'
      simp [hnone, mapPut, hlt]
    · have hv : v' ≠ d := hd (k, v') (by simp) rfl
      simp [mapPut, mapGet, hv]
    · have hget : mapGet d k ((k', v') :: xs) = mapGet d k xs := by simp [mapGet, hgt.ne']
      simp [hget, mapPut, hgt.not_gt, hgt.ne', ih hxs fun c hc => hd c (List.mem_cons_of_mem _ hc)]

/-- A register set to the word it holds leaves the state as it is. -/
theorem State.setReg_reg {s : State} (hs : s.Canonical) (off : Nat) : s.setReg off (s.reg off) = s := by
  obtain ⟨hrise, hreset⟩ := hs.regs
  have hput := mapPut_mapGet (resetWord s.variant off) off hrise fun c hc e => e ▸ hreset c hc
  simp only [State.setReg, State.reg, BitVec.ofNat_toNat, BitVec.setWidth_eq, hput]

/-- A write to a row of WH fields alone, while the owner runs, is a violation and nothing else. -/
theorem State.writeFields_of_running {s : State} {r : RegRow} (hs : s.Canonical) (off v : Nat) (hwh : r.wh ≠ 0)
    (hrw : r.rw = 0) (hc : r.w1c = 0) (hrun : s.halted r.owner = false) :
    s.writeFields r off v = s.whWrite r.owner id := by
  simp [State.writeFields, hrun, RegRow.merge_of_running hrw hc (s.reg_lt off), State.setReg_reg hs, hwh]

/-! ### The commands that write a WH register, once start-up is complete -/

@[simp] theorem State.quiet_ready (s : State) : s.quiet.ready = s.ready := rfl

section ReadyWrites

variable {s : State} (hr : s.ready = true)
include hr

theorem exec_schLcWrite {n : Nat} (hn : n < 64) (v : Word) :
    exec (.schLcWrite n v) s = .next (s.quiet.writeLc n v.toNat) := by
  show execSchLcWrite n v s = _
  simp [execSchLcWrite, attempt, hr, hn]

theorem exec_schCtrlWrite (v : Word) : exec (.schCtrlWrite v) s = .next (s.quiet.writeSchCtrl v.toNat) := by
  show execSchCtrlWrite v s = _
  simp [execSchCtrlWrite, attempt, hr]

theorem exec_regionValidSet {i : Nat} {v : Word} (hi : i < 256) (hv : bitOf v.toNat 63 = true) :
    exec (.regionValidSet i v) s = .next (s.quiet.writeRegionLow i v.toNat) := by
  show execRegionValidSet i v s = _
  simp [execRegionValidSet, attempt, hr, hi, hv]

theorem exec_regionValidClear {i : Nat} (hi : i < 256) :
    exec (.regionValidClear i) s = .next (s.quiet.writeRegionLow i (s.quiet.regionFirst i)) := by
  show execRegionValidClear i s = _
  simp [execRegionValidClear, attempt, hr, hi]

theorem exec_cadTableBaseWrite (v : Word) : exec (.cadTableBaseWrite v) s = .next (s.quiet.writeTableBase v.toNat) := by
  show execCadTableBaseWrite v s = _
  simp [execCadTableBaseWrite, attempt, hr]

theorem exec_progMibWrite (v : Word) : exec (.progMibWrite v) s = .next (s.quiet.writeProgMib v.toNat) := by
  show execProgMibWrite v s = _
  simp [execProgMibWrite, attempt, hr]

theorem exec_nearUnitsWrite (v : Word) : exec (.nearUnitsWrite v) s = .next (s.quiet.writeNearUnits v.toNat) := by
  show execNearUnitsWrite v s = _
  simp [execNearUnitsWrite, attempt, hr]

theorem exec_headroomWrite (v : Word) : exec (.headroomWrite v) s = .next (s.quiet.writeHeadroom v.toNat) := by
  show execHeadroomWrite v s = _
  simp [execHeadroomWrite, attempt, hr]

theorem exec_nswEpochWrite (v : Word) : exec (.nswEpochWrite v) s = .next (s.quiet.writeEpoch v.toNat) := by
  show execNswEpochWrite v s = _
  simp [execNswEpochWrite, attempt, hr]

theorem exec_portEnableWrite {p : Nat} (hp : portPresent s.variant p = true) (v : Word) :
    exec (.portEnableWrite p v) s = .next (s.quiet.writePortCtrl p v.toNat) := by
  show execPortEnableWrite p v s = _
  simp [execPortEnableWrite, attempt, hr, hp]

theorem exec_rmeCtrlWrite (v : Word) : exec (.rmeCtrlWrite v) s = .next (s.quiet.writeRmeCtrl v.toNat) := by
  show execRmeCtrlWrite v s = _
  simp [execRmeCtrlWrite, attempt, hr]

theorem exec_colGroupWrite {g w : Nat} (hg : g < 4096) (hw : w < 4) (v : Word) :
    exec (.colGroupWrite g w v) s = .next (s.quiet.writeGroup g w v.toNat) := by
  show execColGroupWrite g w v s = _
  simp [execColGroupWrite, attempt, hr, hg, hw]

end ReadyWrites

/-- A write of an entry but the first of the group table is a WH write of the Collective Unit. -/
theorem State.writeGroup_eq_whWrite (s : State) {g : Nat} (hg : g ≠ 0) (w v : Nat) :
    ∃ act, s.writeGroup g w v = s.whWrite 13 act := ⟨_, if_neg hg⟩

theorem State.writeEpoch_of_running {s : State} (h : s.halted 10 = false) (v : Nat) :
    s.writeEpoch v = (s.setBit regNswStatus 2 true).setBit regNswStatus 10 true := by
  rw [State.writeEpoch, if_pos h, State.whWrite_of_running h (by decide)]
  rfl

/-- A write of NSW_EPOCH while the switch runs sets WH_VIOLATION and ROUTE_REJECT and changes nothing else (R330). -/
theorem nswEpochWrite_refused {s : State} (hs : s.Canonical) (hr : s.ready = true) (h : s.halted 10 = false)
    (v : Word) :
    ∃ t, exec (.nswEpochWrite v) s = .next t ∧ s.OnlyRegs t [regNswStatus] ∧ t.bit regNswStatus 2 = true ∧
      t.bit regNswStatus 10 = true ∧
      ∀ i, i < 64 → i ≠ 2 → i ≠ 10 → t.bit regNswStatus i = s.bit regNswStatus i := by
  have hq : s.quiet.halted 10 = false := h
  have hx := exec_nswEpochWrite hr v
  rw [State.writeEpoch_of_running hq] at hx
  obtain ⟨honly, hviol, hbits⟩ := State.whRefused_setBit hs 10
  have hrise : Rising (s.quiet.setBit regNswStatus 2 true).regs := State.setReg_rising _ _ _ hs.regs.1
  have hother (i : Nat) (hi : i ≠ 10) := State.bit_setBit_other _ regNswStatus 10 i true hrise (by decide) hi
  have honly' := honly.trans (State.onlyRegs_setBit_status _ 10 10 true) (fun _ h => h) (fun _ h => h)
  refine ⟨_, hx, honly', ?_, ?_, fun i h64 h2 h10 => ?_⟩
  · exact (hother 2 (by decide)).trans hviol
  · exact State.bit_setBit_same _ _ _ _ hrise (by decide)
  · exact (hother i h10).trans (hbits i h64 h2)

/-- Settles O13: each of these commands is one WH write of its function, which a function that runs refuses. -/
theorem whWritesOutsideHalt : Obligations.WhWritesOutsideHalt := by
  intro s hs hr
  refine ⟨fun n v hn => ?_, fun v => ?_, fun i v hi hv => ?_, fun i hi => ?_, fun v => ?_, fun v => ?_, fun v => ?_,
    fun v => ?_, fun v h => ?_, fun p v hp => ?_, fun v => ?_, fun g w v h1 hg hw => ?_,
    fun off v r hreach hlink ha hwh hrw hc _ h6 hact h => ?_⟩
  · exact whRefused_of_exec hs (by decide) (exec_schLcWrite hr hn v)
  · exact whRefused_of_exec hs (by decide) (exec_schCtrlWrite hr v)
  · exact whRefused_of_exec hs (by decide) (exec_regionValidSet hr hi hv)
  · exact whRefused_of_exec hs (by decide) (exec_regionValidClear hr hi)
  · exact whRefused_of_exec hs (by decide) (exec_cadTableBaseWrite hr v)
  · exact whRefused_of_exec hs (by decide) (exec_progMibWrite hr v)
  · exact whRefused_of_exec hs (by decide) (exec_nearUnitsWrite hr v)
  · exact whRefused_of_exec hs (by decide) (exec_headroomWrite hr v)
  · exact nswEpochWrite_refused hs hr h v
  · exact whRefused_of_exec hs (by decide) (exec_portEnableWrite hr hp v)
  · exact whRefused_of_exec hs (by decide) (exec_rmeCtrlWrite hr v)
  · obtain ⟨act, hgroup⟩ := s.quiet.writeGroup_eq_whWrite (by omega : g ≠ 0) w v.toNat
    exact whRefused_of_exec hs (by decide) (hgroup ▸ exec_colGroupWrite hr hg hw v)
  · have hq : s.quiet.Canonical := ⟨hs.regs, hs.mem, hs.poison⟩
    have hx := exec_registerWrite (width := r.width) (v := v) (src := .companion) (off := off) hreach fun _ => hlink
    rw [State.writeReg_fields ha hact, State.writeFields_of_running hq off _ hwh hrw hc h] at hx
    exact whRefused_of_exec hs h6 hx h

end Sys2Proof.Machine
end

section
/-! Facts about registers and frames that the sections below share. -/

namespace Sys2Proof.Machine

open Sys2Proof

/-- A register holds the low 64 bits of what was set. -/
theorem State.reg_setReg_mod (s : State) (off v : Nat) (h : Rising s.regs) :
    (s.setReg off v).reg off = v % 2 ^ 64 := by
  have hword : BitVec.ofNat 64 v = BitVec.ofNat 64 (v % 2 ^ 64) := BitVec.eq_of_toNat_eq (by simp)
  have hmod : s.setReg off v = s.setReg off (v % 2 ^ 64) := by simp only [State.setReg, hword]
  rw [hmod, s.reg_setReg_same off _ h (Nat.mod_lt _ (Nat.two_pow_pos _))]

/-- The registers below the Cadastre's blocks do not decide how a byte reads. -/
theorem byteReg_of_lt {o : Nat} (h : o < 0x600000) : byteReg o = false := by
  simp only [byteReg, regOdlCwBase, regCadTableBase, regSmsDarn, regCadWregion, regCadImage, Bool.or_eq_false_iff,
    beq_eq_false_iff_ne, decide_eq_false_iff_not]
  omega

/-- A change of fields other than registers leaves every register. -/
theorem State.reg_congr {s t : State} (hv : t.variant = s.variant) (hr : t.regs = s.regs) (o : Nat) :
    t.reg o = s.reg o := by
  simp only [State.reg, hv, hr]

theorem State.bit_congr {s t : State} {o : Nat} (h : t.reg o = s.reg o) (i : Nat) : t.bit o i = s.bit o i := by
  simp only [State.bit, State.fld, h]

/-- The frame of no change. -/
theorem State.OnlyRegs.refl (s : State) : s.OnlyRegs s [] := ⟨fun _ _ => rfl, fun _ => rfl, rfl⟩

end Sys2Proof.Machine
end

section
/-! Entries of the journal and the close of its segments: what they set, and what they leave alone. -/

namespace Sys2Proof.Machine

open Sys2Proof

/-! ### Segments and the state of the journal (R100 to R103, R481) -/

/-- The registers that the close of a segment may change. -/
def closeRegs : List Nat := [regCmdJournalClosed, regCmdJsigHead, regSecStatus, regOdlIrqPending 1]

theorem State.updateBacklog_reg_other (s : State) {o : Nat} (h1 : o ≠ regSecStatus) (h2 : o ≠ regOdlIrqPending 1) :
    s.updateBacklog.reg o = s.reg o := by
  unfold State.updateBacklog
  dsimp only
  split
  · exact (State.reg_setBit_other _ _ _ _ _ h2).trans (s.reg_setBit_other _ _ _ _ h1)
  · exact s.reg_setBit_other _ _ _ _ h1

/-- The backlog of signatures shows in registers alone. -/
theorem State.updateBacklog_contents (s : State) :
    s.updateBacklog.mem = s.mem ∧ s.updateBacklog.tasks = s.tasks ∧ s.updateBacklog.journal = s.journal := by
  unfold State.updateBacklog
  dsimp only
  split <;> exact ⟨rfl, rfl, rfl⟩

/-- The segment that the open entries make when they close for a cause (R100, R101). -/
def State.openSegment (s : State) (cause : Nat) : Segment where
  index := s.reg regCmdJsigHead
  firstSeq := s.journal.firstSeq
  lastSeq := s.reg regCmdJournalHead - 1
  lastChain := BitVec.ofNat 128 s.chain
  predChain := s.journal.predChain
  time := s.time
  digest := shake256 32 ((List.range s.journal.count).flatMap fun i =>
    s.rdBytes (s.entryAddr (s.journal.firstSeq + i)) 128)
  cause := cause

/-- The journal once the open segment is closed: no entry open, and the segment behind those that wait. -/
def State.closedJournal (s : State) (cause : Nat) : Journal :=
  { s.journal with count := 0, signing := s.journal.signing ++ [s.openSegment cause] }

/-- The open segment closed, before the signing engine hears of it. -/
def State.segmentClosed (s : State) (cause : Nat) : State :=
  ({ s with journal := s.closedJournal cause }.setReg regCmdJournalClosed (s.reg regCmdJournalHead - 1 + 1)).addReg
    regCmdJsigHead 1

theorem State.segmentClosed_reg_other (s : State) (cause : Nat) {o : Nat} (h1 : o ≠ regCmdJournalClosed)
    (h2 : o ≠ regCmdJsigHead) : (s.segmentClosed cause).reg o = s.reg o := by
  unfold State.segmentClosed
  rw [State.reg_addReg_other _ _ _ _ h2, State.reg_setReg_other _ _ _ _ h1]
  exact State.reg_congr rfl rfl o

@[simp] theorem State.startSigning_reg (s : State) (o : Nat) : s.startSigning.reg o = s.reg o :=
  State.reg_congr rfl rfl o

theorem State.closeSegment_of_empty {s : State} (h : s.journal.count = 0) (cause : Nat) : s.closeSegment cause = s :=
  if_pos h

theorem State.closeSegment_of_open {s : State} (h : s.journal.count ≠ 0) (cause : Nat) :
    s.closeSegment cause = (s.segmentClosed cause).startSigning.updateBacklog :=
  if_neg h

theorem State.closeSegment_reg_other (s : State) (cause : Nat) {o : Nat} (ho : o ∉ closeRegs) :
    (s.closeSegment cause).reg o = s.reg o := by
  simp only [closeRegs, List.mem_cons, List.not_mem_nil, or_false, not_or] at ho
  obtain ⟨hclosed, hhead, hsec, hirq⟩ := ho
  by_cases hcount : s.journal.count = 0
  · rw [State.closeSegment_of_empty hcount]
  · rw [State.closeSegment_of_open hcount, State.updateBacklog_reg_other _ hsec hirq, State.startSigning_reg,
      s.segmentClosed_reg_other cause hclosed hhead]

/-- The close of a segment stores nothing and leaves the tasks and the actions that wait. -/
theorem State.closeSegment_contents (s : State) (cause : Nat) :
    (s.closeSegment cause).mem = s.mem ∧ (s.closeSegment cause).tasks = s.tasks ∧
      (s.closeSegment cause).journal.waiting = s.journal.waiting := by
  by_cases hcount : s.journal.count = 0
  · rw [State.closeSegment_of_empty hcount]
    exact ⟨rfl, rfl, rfl⟩
  · rw [State.closeSegment_of_open hcount]
    obtain ⟨hmem, htasks, hjournal⟩ := (s.segmentClosed cause).startSigning.updateBacklog_contents
    have hwaiting := congrArg Journal.waiting hjournal
    exact ⟨hmem, htasks, hwaiting⟩

/-- What follows when JOURNAL_FULL is brought up to date: the bit, and then at most an interrupt and the close of the
segment, or the reserve whole again. -/
theorem State.updateFull_cases (s : State) :
    let z := s.setBit regCmdStatus 3 (decide (s.journalFree < 4160))
    s.updateFull = (z.irq 66).closeSegment 4 ∨ s.updateFull = z ∨
      s.updateFull = { z with journal := { z.journal with reserveUsed := 0 } } := by
  unfold State.updateFull
  dsimp only
  split
  · exact .inl rfl
  · split
    · exact .inr (.inl rfl)
    · exact .inr (.inr rfl)

/-- The bit of JOURNAL_FULL is all that changes beside what the close of a segment changes. -/
theorem State.updateFull_reg_setBit (s : State) {o : Nat} (ho : o ∉ closeRegs) :
    s.updateFull.reg o = (s.setBit regCmdStatus 3 (decide (s.journalFree < 4160))).reg o := by
  rcases s.updateFull_cases with h | h | h
  · rw [h, State.closeSegment_reg_other _ _ ho]
    exact State.reg_setBit_other _ _ _ _ _ fun e => ho (by simp [closeRegs, e])
  · rw [h]
  · rw [h]
    rfl

theorem State.updateFull_reg_other (s : State) {o : Nat} (h1 : o ≠ regCmdStatus) (h2 : o ∉ closeRegs) :
    s.updateFull.reg o = s.reg o :=
  (s.updateFull_reg_setBit h2).trans (s.reg_setBit_other _ _ _ _ h1)

/-- JOURNAL_FULL says whether fewer than 4,160 entries are free (R103). -/
theorem State.updateFull_bit (s : State) (h : Rising s.regs) :
    s.updateFull.bit regCmdStatus 3 = decide (s.journalFree < 4160) :=
  (State.bit_congr (s.updateFull_reg_setBit (by decide)) 3).trans (s.bit_setBit_same _ _ _ h (by decide))

theorem State.updateFull_contents (s : State) :
    s.updateFull.mem = s.mem ∧ s.updateFull.tasks = s.tasks ∧
      s.updateFull.journal.waiting = s.journal.waiting := by
  rcases s.updateFull_cases with h | h | h
  · rw [h]
    exact State.closeSegment_contents _ 4
  · rw [h]
    exact ⟨rfl, rfl, rfl⟩
  · rw [h]
    exact ⟨rfl, rfl, rfl⟩

/-! ### Entries (R95 to R98) -/

theorem leNat_lt (bs : List Byte) : leNat bs < 256 ^ bs.length := by
  induction bs with
  | nil => exact Nat.one_pos
  | cons b bs ih =>
    have hb : b.toNat < 256 := b.isLt
    show b.toNat + 256 * leNat bs < 256 ^ (bs.length + 1)
    rw [Nat.pow_succ]
    omega

/-- Sixteen bytes of SHAKE256 make a number of 128 bits. -/
theorem leNat_shake256_lt (bs : List Byte) : leNat (shake256 16 bs) < 2 ^ 128 := by
  have hlen : (shake256 16 bs).length ≤ 16 := List.length_take_le 16 _
  calc leNat (shake256 16 bs) < 256 ^ (shake256 16 bs).length := leNat_lt _
    _ ≤ 256 ^ 16 := Nat.pow_le_pow_right (by decide) hlen
    _ = 2 ^ 128 := by norm_num

/-- The registers that an entry sets: head, chain, and the last entry of R431. -/
def State.setEntryRegs (s : State) (q c : Nat) : State :=
  ((((((s.setReg regCmdJournalHead (q + 1)).setReg (regCmdJournalChain 0) (c % 2 ^ 64)).setReg
    (regCmdJournalChain 1) (c / 2 ^ 64)).setReg regRruLastSeq q).setReg (regRruLastChain 0) (c % 2 ^ 64)).setReg
    (regRruLastChain 1) (c / 2 ^ 64))

/-- The three registers of the journal that an entry moves. -/
theorem State.setEntryRegs_reg {s : State} (h : Rising s.regs) {q c : Nat} (hq : q + 1 < 2 ^ 64) (hc : c < 2 ^ 128) :
    (s.setEntryRegs q c).reg regCmdJournalHead = q + 1 ∧
      (s.setEntryRegs q c).reg (regCmdJournalChain 0) = c % 2 ^ 64 ∧
      (s.setEntryRegs q c).reg (regCmdJournalChain 1) = c / 2 ^ 64 := by
  have h1 := s.setReg_rising regCmdJournalHead (q + 1) h
  have h2 := State.setReg_rising _ (regCmdJournalChain 0) (c % 2 ^ 64) h1
  unfold State.setEntryRegs
  refine ⟨?_, ?_, ?_⟩
  · rw [State.reg_setReg_other _ _ _ _ (by decide), State.reg_setReg_other _ _ _ _ (by decide),
      State.reg_setReg_other _ _ _ _ (by decide), State.reg_setReg_other _ _ _ _ (by decide),
      State.reg_setReg_other _ _ _ _ (by decide), State.reg_setReg_same _ _ _ h hq]
  · rw [State.reg_setReg_other _ _ _ _ (by decide), State.reg_setReg_other _ _ _ _ (by decide),
      State.reg_setReg_other _ _ _ _ (by decide), State.reg_setReg_other _ _ _ _ (by decide),
      State.reg_setReg_same _ _ _ h1 (by omega)]
  · rw [State.reg_setReg_other _ _ _ _ (by decide), State.reg_setReg_other _ _ _ _ (by decide),
      State.reg_setReg_other _ _ _ _ (by decide), State.reg_setReg_same _ _ _ h2 (by omega)]

/-- The chain after an entry: over the chain before it and bytes 0 to 47 of the entry. -/
def State.entryChain (s : State) (head : List Byte) : List Byte := shake256 16 (leBytes 16 s.chain ++ head)

/-- The entry's 128 bytes stored at CMD_JOURNAL_HEAD. -/
def State.putEntry (s : State) (head tail : List Byte) : State :=
  s.putBytes (s.entryAddr (s.reg regCmdJournalHead)) (head ++ s.entryChain head ++ padTo 64 tail)

/-- An entry is stored, its registers are set, the journal counts it, and then its segment may close and JOURNAL_FULL
is brought up to date. -/
theorem State.writeEntry_eq (s : State) (head tail : List Byte) :
    ∃ j : Journal, let z : State := { (s.putEntry head tail).setEntryRegs (s.reg regCmdJournalHead)
        (leNat (s.entryChain head)) with journal := j }
      s.writeEntry head tail = (if j.count ≥ 65536 then z.closeSegment 1 else z).updateFull :=
  ⟨_, rfl⟩

/-- Nothing of an entry changes a register but its own, those of a close, and CMD_STATUS. -/
theorem State.writeEntry_reg (s : State) (head tail : List Byte) {o : Nat} (h1 : o ≠ regCmdStatus)
    (h2 : o ∉ closeRegs) :
    (s.writeEntry head tail).reg o =
      ((s.putEntry head tail).setEntryRegs (s.reg regCmdJournalHead) (leNat (s.entryChain head))).reg o := by
  obtain ⟨j, hj⟩ := s.writeEntry_eq head tail
  rw [hj, State.updateFull_reg_other _ h1 h2]
  split
  · exact (State.closeSegment_reg_other _ _ h2).trans (State.reg_congr rfl rfl o)
  · exact State.reg_congr rfl rfl o

/-- Settles O16: after the entry's registers are set, nothing writes the head or the chain. -/
theorem entryExtendsChain : Obligations.EntryExtendsChain := by
  intro s head tail hs hq
  have hrise : Rising (s.putEntry head tail).regs := ((State.putBytes_keeps (.refl s)).canonical hs).regs.1
  obtain ⟨hhead, hlow, hhigh⟩ := State.setEntryRegs_reg hrise hq (leNat_shake256_lt (leBytes 16 s.chain ++ head))
  refine ⟨?_, ?_⟩
  · unfold State.chain
    rw [State.writeEntry_reg s head tail (by decide) (by decide),
      State.writeEntry_reg s head tail (by decide) (by decide), State.entryChain, hlow, hhigh]
    exact Nat.mod_add_div' _ _
  · rw [State.writeEntry_reg s head tail (by decide) (by decide)]
    exact hhead

end Sys2Proof.Machine
end

section
/-! Doorbells, event counters and acceptance: how software's slots become tasks. -/

namespace Sys2Proof.Machine

open Sys2Proof

/-! ### Doorbells (R74) -/

theorem exec_doorbell {s : State} {n : Nat} (hr : s.ready = true) (hn : n < 64) (v : Word) :
    exec (.doorbell n v) s = .next (s.quiet.ringDoorbell n v.toNat) := by
  show execDoorbell n v s = _
  simp [execDoorbell, attempt, hr, hn]

theorem regCmdStrmStatus_ne_irq (n : Nat) (hn : n < 64) : regCmdStrmStatus n ≠ regOdlIrqPending 1 := by
  simp only [regCmdStrmStatus, regOdlIrqPending]
  omega

/-- A status bit of a stream set and vector 73 raised, and nothing else. -/
theorem State.streamFlag_spec {s : State} (hs : s.Canonical) {n : Nat} (hn : n < 64) {i : Nat} (hi : i < 64) :
    (s.quiet.streamFlag n i).bit (regCmdStrmStatus n) i = true ∧
      (s.quiet.streamFlag n i).bit (regOdlIrqPending 1) 9 = true ∧
      s.OnlyRegs (s.quiet.streamFlag n i) [regCmdStrmStatus n, regOdlIrqPending 1] ∧
      ∀ k, k < 64 → k ≠ i → (s.quiet.streamFlag n i).bit (regCmdStrmStatus n) k = s.bit (regCmdStrmStatus n) k := by
  have hrise : Rising s.quiet.regs := hs.regs.1
  have hrise' : Rising (s.quiet.setBit (regCmdStrmStatus n) i true).regs := State.setReg_rising _ _ _ hrise
  have hstatus (k : Nat) : (s.quiet.streamFlag n i).bit (regCmdStrmStatus n) k =
      (s.quiet.setBit (regCmdStrmStatus n) i true).bit (regCmdStrmStatus n) k :=
    State.bit_congr (State.reg_setBit_other _ _ _ _ _ (regCmdStrmStatus_ne_irq n hn)) k
  refine ⟨?_, State.bit_setBit_same _ _ _ _ hrise' (by decide), ?_, fun k _ hk => ?_⟩
  · exact (hstatus i).trans (State.bit_setBit_same _ _ _ _ hrise hi)
  · have hlow : byteReg (regCmdStrmStatus n) = false :=
      byteReg_of_lt (by simp only [regCmdStrmStatus]; omega)
    have hset : s.quiet.OnlyRegs (s.quiet.setBit (regCmdStrmStatus n) i true) [regCmdStrmStatus n] :=
      State.onlyRegs_setReg _ _ _ hlow
    have hirq : (s.quiet.setBit (regCmdStrmStatus n) i true).OnlyRegs (s.quiet.streamFlag n i) [regOdlIrqPending 1] :=
      State.onlyRegs_setReg _ _ _ (by decide)
    exact (s.onlyRegs_quiet.trans hset nofun fun _ h => h).trans hirq (by simp) (by simp)
  · exact (hstatus k).trans (State.bit_setBit_other _ _ _ _ _ hrise hi hk)

/-- Settles O14: a doorbell is one of the three branches of `ringDoorbell`. -/
theorem doorbellMovesTailOrIsRefused : Obligations.DoorbellMovesTailOrIsRefused := by
  intro s n v hs hr hn
  dsimp only
  have hx := exec_doorbell hr hn v
  refine ⟨fun hepoch => ?_, fun hepoch hpast => ?_, fun hepoch hpast => ?_⟩
  · have hflag : s.quiet.ringDoorbell n v.toNat = s.quiet.streamFlag n 3 := if_pos hepoch
    exact ⟨_, hx.trans (congrArg _ hflag), State.streamFlag_spec hs hn (by decide)⟩
  · have hflag : s.quiet.ringDoorbell n v.toNat = s.quiet.streamFlag n 2 :=
      (if_neg (not_not.mpr hepoch)).trans (if_pos hpast)
    exact ⟨_, hx.trans (congrArg _ hflag), State.streamFlag_spec hs hn (by decide)⟩
  · have htail : s.quiet.ringDoorbell n v.toNat = s.quiet.setReg (regCmdStrmTail n) v.toNat :=
      (if_neg (not_not.mpr hepoch)).trans (if_neg (not_lt.mpr hpast))
    have hlow : byteReg (regCmdStrmTail n) = false := byteReg_of_lt (by simp only [regCmdStrmTail]; omega)
    refine ⟨_, hx.trans (congrArg _ htail), ?_, ?_⟩
    · exact State.reg_setReg_same _ _ _ hs.regs.1 v.isLt
    · exact s.onlyRegs_quiet.trans (State.onlyRegs_setReg _ _ _ hlow) nofun fun _ h => h

/-! ### Event counters (R89, R105) -/

theorem exec_eventAdd {s : State} (hr : s.ready = true) (v : Word) :
    exec (.eventAdd v) s = .next (s.quiet.writeEventAdd v.toNat) := by
  show execEventAdd v s = _
  simp [execEventAdd, attempt, hr]

/-- Settles O22: the write is one register set, to a sum held at the largest word. -/
theorem eventAddRaisesCounter : Obligations.EventAddRaisesCounter := by
  intro s v hs hr
  have hindex : getBits v.toNat 42 32 < 2048 := getBits_lt _ 42 32
  have hlow : byteReg (regCmdEvent (getBits v.toNat 42 32)) = false :=
    byteReg_of_lt (by simp only [regCmdEvent]; omega)
  refine ⟨_, exec_eventAdd hr v, ?_, ?_⟩
  · exact State.reg_setReg_same _ _ _ hs.regs.1 (by omega)
  · exact s.onlyRegs_quiet.trans (State.onlyRegs_setReg _ _ _ hlow) nofun fun _ h => h

/-! ### Acceptance (R73 to R85, R439) -/

theorem exec_acceptTask_of_closed {s : State} (h : s.acceptOpen = false) : exec .acceptTask s = .next s.quiet := by
  have hq : s.quiet.acceptOpen = false := h
  show execAcceptTask s = _
  simp [execAcceptTask, attempt, hq]

theorem exec_acceptTask_of_idle {s : State} (h : s.acceptOpen = true) (hn : s.nextStream = none) :
    exec .acceptTask s = .next s.quiet := by
  have hq : s.quiet.acceptOpen = true := h
  have hnq : s.quiet.nextStream = none := hn
  show execAcceptTask s = _
  simp [execAcceptTask, attempt, hq, hnq]

theorem exec_acceptTask_of_next {s t : State} {n : Nat} (h : s.acceptOpen = true) (hn : s.nextStream = some n)
    (ht : s.quiet.takeSlot n = some t) : exec .acceptTask s = .next t := by
  have hq : s.quiet.acceptOpen = true := h
  have hnq : s.quiet.nextStream = some n := hn
  show execAcceptTask s = _
  simp [execAcceptTask, attempt, hq, hnq, ht]

/-- The reads of acceptance draw free values and change nothing else. -/
theorem State.fetchOps_eq (s : State) (n : Nat) (l : List (Nat × Nat)) :
    ∃ k, (s.fetchOps n l).2 = { s with free := k } := by
  induction l generalizing s with
  | nil => exact ⟨s.free, rfl⟩
  | cons p rest ih =>
    obtain ⟨k, hk⟩ := ih { s with free := s.free + 64 }
    exact ⟨k, hk⟩

theorem State.fetchTask_eq (s : State) (n : Nat) : ∃ k, (s.fetchTask n).2.2 = { s with free := k } := by
  obtain ⟨k, hk⟩ := State.fetchOps_eq { s with free := s.free + 64 } n _
  exact ⟨k, hk⟩

/-- The next slot taken up changes the free values drawn and the slots deferred, and nothing else. -/
theorem State.nextTask_frame (s : State) (n : Nat) :
    { (s.nextTask n).2.2 with free := s.free, deferred := s.deferred } = s := by
  unfold State.nextTask
  split
  · rfl
  · obtain ⟨k, hk⟩ := s.fetchTask_eq n
    rw [hk]

theorem State.nextTask_of_deferred {s : State} {n : Nat} {d : Task}
    (h : (s.deferred.find? fun d => d.stream == n) = some d) :
    s.nextTask n = (s.retake d, false, { s with deferred := s.deferred.filter fun t => t.stream != n }) := by
  simp only [State.nextTask, h]

theorem State.nextTask_of_not_deferred {s : State} {n : Nat} (h : ∀ d ∈ s.deferred, d.stream ≠ n) :
    s.nextTask n = s.fetchTask n := by
  have hnone : (s.deferred.find? fun d => d.stream == n) = none :=
    List.find?_eq_none.mpr fun d hd => by simpa using h d hd
  simp only [State.nextTask, hnone]

/-- Stream `n` is the one that acceptance served last (R75). -/
def State.served (s : State) (n : Nat) : State := { s with sched := { s.sched with rr := n } }

section TakeSlot

variable {s s1 : State} {n : Nat} {t : Task} {bad : Bool} (hnext : s.nextTask n = (t, bad, s1))
include hnext

theorem State.takeSlot_refuse (h : (s1.served n).check t bad ≠ 0) :
    s.takeSlot n = some ((s1.served n).refuse t ((s1.served n).check t bad)) := by
  simp only [State.takeSlot, hnext]
  exact if_pos h

theorem State.takeSlot_full (h : (s1.served n).check t bad = 0) (hfull : 4096 ≤ s.tasks.length) :
    s.takeSlot n = some (s1.defer t) := by
  simp only [State.takeSlot, hnext]
  exact (if_neg (not_not.mpr h)).trans (if_pos hfull)

theorem State.takeSlot_logFull (h : (s1.served n).check t bad = 0) (hroom : s.tasks.length < 4096)
    (hlog : (s1.served n).logFree < logReserve ((s1.served n).logEntrySize t)) :
    s.takeSlot n = some (s1.defer t).logIsFull := by
  simp only [State.takeSlot, hnext]
  exact (if_neg (not_not.mpr h)).trans ((if_neg (not_le.mpr hroom)).trans (if_pos hlog))

theorem State.takeSlot_accept (h : (s1.served n).check t bad = 0) (hroom : s.tasks.length < 4096)
    (hlog : logReserve ((s1.served n).logEntrySize t) ≤ (s1.served n).logFree) :
    s.takeSlot n = some ((s1.served n).accept t) := by
  simp only [State.takeSlot, hnext]
  exact (if_neg (not_not.mpr h)).trans ((if_neg (not_le.mpr hroom)).trans (if_neg (not_lt.mpr hlog)))

end TakeSlot

/-- Want of log space sets LOG_FULL and raises vector 67, and nothing else (R439). -/
theorem State.logIsFull_spec {s : State} (h : Rising s.regs) :
    s.logIsFull.bit regRruStatus 7 = true ∧ s.logIsFull.bit (regOdlIrqPending 1) 3 = true ∧
      s.OnlyRegs s.logIsFull [regRruStatus, regOdlIrqPending 1] := by
  have hirq : s.logIsFull.reg regRruStatus = (s.setBit regRruStatus 7 true).reg regRruStatus :=
    State.reg_setBit_other _ _ _ _ _ (by decide)
  refine ⟨?_, ?_, ?_⟩
  · exact (State.bit_congr hirq 7).trans (s.bit_setBit_same _ _ _ h (by decide))
  · exact State.bit_setBit_same _ _ _ _ (s.setReg_rising _ _ h) (by decide)
  · have hset : s.OnlyRegs (s.setBit regRruStatus 7 true) [regRruStatus] := s.onlyRegs_setReg _ _ (by decide)
    have hvector : (s.setBit regRruStatus 7 true).OnlyRegs s.logIsFull [regOdlIrqPending 1] :=
      State.onlyRegs_setReg _ _ _ (by decide)
    exact hset.trans hvector (by simp) (by simp)

/-- Settles O15: with a slot next, the four branches of `takeSlot` are the four outcomes. -/
theorem acceptTaskOutcomes : Obligations.AcceptTaskOutcomes := by
  intro s n hs
  refine ⟨exec_acceptTask_of_closed, exec_acceptTask_of_idle, fun hopen hn t bad s1 hnext => ?_⟩
  dsimp only
  have hexec {u : State} (hu : s.quiet.takeSlot n = some u) : exec .acceptTask s = .next u :=
    exec_acceptTask_of_next hopen hn hu
  have hframe := s.quiet.nextTask_frame n
  rw [hnext] at hframe
  refine ⟨hframe, fun d hd => ?_, fun hd => ?_, fun h => ?_, fun h hfull => ?_, fun h hroom hlog => ?_,
    fun h hroom hlog => ?_⟩
  · rw [State.nextTask_of_deferred (s := s.quiet) hd] at hnext
    cases hnext
    exact ⟨rfl, rfl, rfl⟩
  · exact (State.nextTask_of_not_deferred (s := s.quiet) hd).symm.trans hnext
  · exact hexec (State.takeSlot_refuse hnext h)
  · exact hexec (State.takeSlot_full hnext h hfull)
  · have hkept : Keeps s.quiet (s.quiet.nextTask n).2.2 := State.nextTask_keeps (.refl _)
    rw [hnext] at hkept
    have hrise : Rising (s1.defer t).regs := (hkept.canonical ⟨hs.regs, hs.mem, hs.poison⟩).regs.1
    exact ⟨_, hexec (State.takeSlot_logFull hnext h hroom hlog), State.logIsFull_spec hrise⟩
  · exact hexec (State.takeSlot_accept hnext h hroom hlog)

end Sys2Proof.Machine
end

section
/-! The tails of the journal, its signatures and the log, and the segments closed and signed. -/

namespace Sys2Proof.Machine

open Sys2Proof

/-! ### Tails (R101 to R105, R439) -/

theorem exec_jsigTailWrite {s : State} (hr : s.ready = true) (v : Word) :
    exec (.jsigTailWrite v) s = .next (s.quiet.writeJsigTail v.toNat) := by
  show execJsigTailWrite v s = _
  simp [execJsigTailWrite, attempt, hr]

theorem exec_logTailWrite {s : State} (hr : s.ready = true) (v : Word) :
    exec (.logTailWrite v) s = .next (s.quiet.writeLogTail v.toNat) := by
  show execLogTailWrite v s = _
  simp [execLogTailWrite, attempt, hr]

theorem exec_journalTailWrite {s : State} (hr : s.ready = true) (v : Word) :
    exec (.journalTailWrite v) s = .next (s.quiet.writeJournalTail v.toNat) := by
  show execJournalTailWrite v s = _
  simp [execJournalTailWrite, attempt, hr]

/-- The lesser of two numbers fits a register that the second fits. -/
theorem State.min_reg_lt (s : State) (v o : Nat) : min v (s.reg o) < 2 ^ 64 :=
  lt_of_le_of_lt (min_le_right _ _) (s.reg_lt o)

/-- A write of RRU_LOG_TAIL: the tail as far as the head, LOG_FULL cleared when it advances (R439). -/
theorem State.writeLogTail_spec {s : State} (h : Rising s.regs) (v : Nat) :
    (s.writeLogTail v).reg regRruLogTail = min v (s.reg regRruLogHead) ∧
      (s.reg regRruLogTail < min v (s.reg regRruLogHead) → (s.writeLogTail v).bit regRruStatus 7 = false) ∧
      s.OnlyRegs (s.writeLogTail v) [regRruLogTail, regRruStatus] := by
  have htail : (s.setReg regRruLogTail (min v (s.reg regRruLogHead))).reg regRruLogTail = _ :=
    s.reg_setReg_same _ _ h (s.min_reg_lt _ _)
  have honly : s.OnlyRegs (s.setReg regRruLogTail (min v (s.reg regRruLogHead))) [regRruLogTail] :=
    s.onlyRegs_setReg _ _ (by decide)
  unfold State.writeLogTail
  dsimp only
  by_cases hadvance : s.reg regRruLogTail < min v (s.reg regRruLogHead)
  · rw [if_pos hadvance]
    have hclear := State.onlyRegs_setBit_status (s.setReg regRruLogTail (min v (s.reg regRruLogHead))) 15 7 false
    refine ⟨?_, fun _ => ?_, honly.trans hclear (by simp) (by simp [statusReg])⟩
    · exact (State.reg_setBit_other _ _ _ _ _ (by decide)).trans htail
    · exact State.bit_setBit_same _ _ _ _ (s.setReg_rising _ _ h) (by decide)
  · rw [if_neg hadvance]
    exact ⟨htail, fun hlt => absurd hlt hadvance, honly.trans (.refl _) (by simp) nofun⟩

theorem State.serveWaiting_of_none {s : State} (h : s.journal.waiting = []) : s.serveWaiting = s := by
  unfold State.serveWaiting
  rw [State.serve, h]

/-- CMD_JOURNAL_TAIL and the count of the reserve after a write, before JOURNAL_FULL is brought up to date (R103). -/
def State.setJournalTail (s : State) (v : Nat) : State :=
  let t := min v (s.reg regCmdJournalClosed)
  { s.setReg regCmdJournalTail t with
    journal := { s.journal with reserveUsed := s.journal.reserveUsed - (t - s.reg regCmdJournalTail) } }

/-- With no action waiting, a write of CMD_JOURNAL_TAIL sets it and brings JOURNAL_FULL up to date. -/
theorem State.writeJournalTail_of_none {s : State} (h : s.journal.waiting = []) (v : Nat) :
    s.writeJournalTail v = (s.setJournalTail v).updateFull := by
  have hwaiting : (s.setJournalTail v).updateFull.journal.waiting = [] :=
    (State.updateFull_contents (s.setJournalTail v)).2.2.trans h
  exact State.serveWaiting_of_none hwaiting

theorem State.setJournalTail_reg_same {s : State} (h : Rising s.regs) (v : Nat) :
    (s.setJournalTail v).reg regCmdJournalTail = min v (s.reg regCmdJournalClosed) :=
  s.reg_setReg_same regCmdJournalTail _ h (s.min_reg_lt _ _)

theorem State.setJournalTail_reg_other (s : State) (v : Nat) {o : Nat} (ho : o ≠ regCmdJournalTail) :
    (s.setJournalTail v).reg o = s.reg o :=
  s.reg_setReg_other regCmdJournalTail _ o ho

theorem State.setJournalTail_journalFree {s : State} (h : Rising s.regs) (v : Nat) :
    (s.setJournalTail v).journalFree =
      s.journalSize - (s.reg regCmdJournalHead - min v (s.reg regCmdJournalClosed)) := by
  simp only [State.journalFree, State.journalSize, State.setJournalTail_reg_same h,
    State.setJournalTail_reg_other s v (show regCmdJournalLog2 ≠ regCmdJournalTail by decide),
    State.setJournalTail_reg_other s v (show regCmdJournalHead ≠ regCmdJournalTail by decide)]

/-- Settles O17: each write sets its tail to the lesser of two values, and what follows leaves the tail. -/
theorem tailWritesAreBounded : Obligations.TailWritesAreBounded := by
  intro s v hs hr
  have hrise : Rising s.quiet.regs := hs.regs.1
  refine ⟨⟨_, exec_jsigTailWrite hr v, ?_, rfl, ?_⟩, ⟨_, exec_logTailWrite hr v, ?_⟩, exec_journalTailWrite hr v,
    fun hwaiting => ⟨_, exec_journalTailWrite hr v, ?_⟩⟩
  · exact s.quiet.reg_setReg_same _ _ hrise (s.min_reg_lt _ _)
  · exact s.onlyRegs_quiet.trans (s.quiet.onlyRegs_setReg regCmdJsigTail (min v.toNat (s.reg regCmdJsigHead))
      (by decide)) nofun fun _ h => h
  · obtain ⟨htail, hfull, honly⟩ := State.writeLogTail_spec hrise v.toNat
    exact ⟨htail, hfull, s.onlyRegs_quiet.trans honly nofun fun _ h => h⟩
  · rw [State.writeJournalTail_of_none (s := s.quiet) hwaiting]
    have hset : Rising (s.quiet.setJournalTail v.toNat).regs := s.quiet.setReg_rising regCmdJournalTail _ hrise
    obtain ⟨hmem, htasks, -⟩ := State.updateFull_contents (s.quiet.setJournalTail v.toNat)
    refine ⟨?_, ?_, htasks, hmem⟩
    · rw [State.updateFull_reg_other _ (by decide) (by decide)]
      exact State.setJournalTail_reg_same hrise _
    · rw [State.updateFull_bit _ hset, State.setJournalTail_journalFree hrise]
      rfl

/-! ### Segments closed and signed (R100, R101, R482) -/

theorem exec_segmentTimeLimit {s : State} (hcount : s.journal.count ≠ 0)
    (htime : s.journal.firstTime + 1000000000 ≤ s.time) (hfatal : s.bit regRruStatus 8 = false) :
    exec .segmentTimeLimit s = .next (s.quiet.closeSegment 2) := by
  have hc : s.quiet.journal.count ≠ 0 ∧ s.quiet.journal.firstTime + secondNs ≤ s.quiet.time ∧
      s.quiet.bit regRruStatus 8 = false := ⟨hcount, htime, hfatal⟩
  show execSegmentTimeLimit s = _
  simp only [execSegmentTimeLimit, attempt, if_pos hc, Option.getD_some]

theorem State.segmentClosed_reg {s : State} (h : Rising s.regs) (hhead : s.reg regCmdJournalHead ≠ 0)
    (hsig : s.reg regCmdJsigHead + 1 < 2 ^ 64) (cause : Nat) :
    (s.segmentClosed cause).reg regCmdJournalClosed = s.reg regCmdJournalHead ∧
      (s.segmentClosed cause).reg regCmdJsigHead = s.reg regCmdJsigHead + 1 := by
  have hlast : s.reg regCmdJournalHead - 1 + 1 = s.reg regCmdJournalHead := by omega
  have hindex : ({ s with journal := s.closedJournal cause } : State).reg regCmdJsigHead = s.reg regCmdJsigHead :=
    State.reg_congr rfl rfl _
  unfold State.segmentClosed
  rw [hlast]
  refine ⟨?_, ?_⟩
  · rw [State.reg_addReg_other _ _ _ _ (by decide)]
    exact State.reg_setReg_same _ _ _ h (s.reg_lt _)
  · refine Eq.trans (State.reg_addReg_same _ _ _ (State.setReg_rising _ _ _ (by exact h))) ?_
    rw [State.reg_setReg_other _ _ _ _ (by decide), hindex]
    exact Nat.mod_eq_of_lt hsig

/-- What the close of a segment with entries sets: CMD_JOURNAL_CLOSED, CMD_JSIG_HEAD and the journal. -/
theorem State.closeSegment_spec {s : State} (h : Rising s.regs) (hcount : s.journal.count ≠ 0)
    (hhead : s.reg regCmdJournalHead ≠ 0) (hsig : s.reg regCmdJsigHead + 1 < 2 ^ 64) (cause : Nat) :
    (s.closeSegment cause).journal = s.closedJournal cause ∧
      (s.closeSegment cause).reg regCmdJournalClosed = s.reg regCmdJournalHead ∧
      (s.closeSegment cause).reg regCmdJsigHead = s.reg regCmdJsigHead + 1 := by
  obtain ⟨hclosed, hindex⟩ := State.segmentClosed_reg h hhead hsig cause
  rw [State.closeSegment_of_open hcount, State.updateBacklog_reg_other _ (by decide) (by decide),
    State.updateBacklog_reg_other _ (by decide) (by decide), State.startSigning_reg, State.startSigning_reg]
  exact ⟨(State.updateBacklog_contents _).2.2, hclosed, hindex⟩

/-- It is the turn of a segment's signature (R481). -/
theorem State.signerNow_segment {s : State} (hsigning : s.journal.signing ≠ []) (hfree : s.jsigFree = true)
    (hsigner : s.sec.signer = none ∨ s.sec.signer = some .segment) : s.signerNow = some .segment := by
  rcases hsigner with h | h
  · simp [State.signerNow, h, hfree, hsigning]
  · simp [State.signerNow, h]

/-- The record and signature of a segment stored in its slot. -/
def State.putSignature (s : State) (g : Segment) : State :=
  (s.identitySign ctxJseg (s.segmentRecord g)).2.putBytes
    (s.reg regCmdJsigBase + 57344 * (g.index % s.reg regCmdJsigCount))
    (padTo 57344 (s.segmentRecord g ++ (s.identitySign ctxJseg (s.segmentRecord g)).1))

theorem State.putSignature_mem (s : State) (g : Segment) :
    (s.quiet.putSignature g).mem =
      ((s.quiet.identitySign ctxJseg (s.segmentRecord g)).2.putBytes
        (s.reg regCmdJsigBase + 57344 * (g.index % s.reg regCmdJsigCount))
        (padTo 57344 (s.segmentRecord g ++ (s.quiet.identitySign ctxJseg (s.segmentRecord g)).1))).mem := by
  have hrecord : s.quiet.segmentRecord g = s.segmentRecord g := rfl
  have hreg (o : Nat) : s.quiet.reg o = s.reg o := rfl
  rw [State.putSignature, hrecord, hreg, hreg]

/-- The queue of segments left once a signature is stored, and the signing engine on its next. -/
def State.afterSignature (s : State) (rest : List Segment) : State :=
  { s with journal := { s.journal with signing := rest } }.nextSigning.updateBacklog

theorem State.afterSignature_contents (s : State) (rest : List Segment) :
    (s.afterSignature rest).mem = s.mem ∧ (s.afterSignature rest).journal.signing = rest := by
  obtain ⟨hmem, -, hjournal⟩ :=
    ({ s with journal := { s.journal with signing := rest } } : State).nextSigning.updateBacklog_contents
  exact ⟨hmem, congrArg Journal.signing hjournal⟩

theorem exec_segmentSigned {s : State} {g : Segment} {rest : List Segment} (hsigning : s.journal.signing = g :: rest)
    (hturn : s.signerNow = some .segment) (hfree : s.jsigFree = true) (hfatal : s.bit regRruStatus 8 = false)
    (hquench : s.quenchOver = false) :
    exec .segmentSigned s = .next ((s.quiet.putSignature g).afterSignature rest) := by
  have hc : s.quiet.signerNow = some .segment ∧ s.quiet.jsigFree = true ∧ s.quiet.bit regRruStatus 8 = false ∧
      s.quiet.quenchOver = false := ⟨hturn, hfree, hfatal, hquench⟩
  have hq : s.quiet.journal.signing = g :: rest := hsigning
  show execSegmentSigned s = _
  simp only [execSegmentSigned, attempt, hq, if_pos hc, Option.getD_some]
  rfl

/-- Settles O18: the close is `closeSegment`, and what follows a stored signature touches neither memory nor the
queue. -/
theorem segmentsCloseAndAreSigned : Obligations.SegmentsCloseAndAreSigned := by
  intro s hs hfatal
  refine ⟨fun hcount htime hhead hsig => ?_, fun g rest hsigning hfree hsigner hquench => ?_⟩
  · have hrise : Rising s.quiet.regs := hs.regs.1
    obtain ⟨hjournal, hclosed, hindex⟩ := State.closeSegment_spec (s := s.quiet) hrise hcount hhead hsig 2
    obtain ⟨hmem, htasks, -⟩ := s.quiet.closeSegment_contents 2
    have hcounts := congrArg Journal.count hjournal
    have hqueue := congrArg Journal.signing hjournal
    have hlast : s.reg regCmdJournalHead - 1 + 1 = s.reg regCmdJournalHead := by omega
    exact ⟨_, s.quiet.openSegment 2, exec_segmentTimeLimit hcount htime hfatal, hcounts, hqueue, rfl, rfl, hlast, rfl,
      rfl, rfl, hclosed, hindex, State.closeSegment_reg_other _ _ (by decide), hmem, htasks⟩
  · have hturn : s.signerNow = some .segment := State.signerNow_segment (by simp [hsigning]) hfree hsigner
    have hx := exec_segmentSigned hsigning hturn hfree hfatal hquench
    obtain ⟨hmem, hqueue⟩ := (s.quiet.putSignature g).afterSignature_contents rest
    exact ⟨_, _, _, hx, hqueue, Prod.mk.eta.symm, hmem.trans (s.putSignature_mem g)⟩

end Sys2Proof.Machine
end

section
/-! Halts, resumes, the owner epoch and the faults of streams. -/

namespace Sys2Proof.Machine

open Sys2Proof

/-! ### Halts (R106, R277, R321, R443) -/

theorem exec_cmdHalt {s : State} (hr : s.ready = true) : exec .cmdHalt s = .next (s.quiet.requestHalt 0) := by
  show execCmdHalt s = _
  simp [execCmdHalt, attempt, hr]

theorem exec_rruHalt {s : State} (hr : s.ready = true) : exec .rruHalt s = .next (s.quiet.requestHalt 15) := by
  show execRruHalt s = _
  simp [execRruHalt, attempt, hr]

theorem State.requestHalt_of_stopping {s : State} {f : Nat} (h : (s.halted f || s.halting f) = true) :
    s.requestHalt f = s := if_pos h

/-- A halt of a function that runs, beside the Scheduler and the Activation Guard, sets HALTING. -/
theorem State.requestHalt_of_running {s : State} {f : Nat} (h : (s.halted f || s.halting f) = false) (h1 : f ≠ 1)
    (h7 : f ≠ 7) : s.requestHalt f = s.setBit (statusReg f) 0 true := by
  simp [State.requestHalt, h, h1, h7]

/-- HALTING set alone, of a function that is neither halting nor halted. -/
theorem State.requestHalt_spec {s : State} (hs : s.Canonical) {f : Nat} (h : (s.halted f || s.halting f) = false)
    (h1 : f ≠ 1) (h7 : f ≠ 7) :
    (s.quiet.requestHalt f).halting f = true ∧ (s.quiet.requestHalt f).halted f = false ∧
      s.OnlyRegs (s.quiet.requestHalt f) [statusReg f] := by
  have hrise : Rising s.quiet.regs := hs.regs.1
  have hhalted : s.quiet.halted f = false := (Bool.or_eq_false_iff.mp h).1
  rw [State.requestHalt_of_running (s := s.quiet) h h1 h7]
  refine ⟨State.bit_setBit_same _ _ _ _ hrise (by decide), ?_, ?_⟩
  · exact (State.bit_setBit_other _ _ 0 1 _ hrise (by decide) (by decide)).trans hhalted
  · exact s.onlyRegs_quiet.trans (s.quiet.onlyRegs_setBit_status f 0 true) nofun fun _ h => h

theorem exec_functionHaltComplete {s : State} {f : Nat} (hf : f < 16) (hhalting : s.halting f = true)
    (hdone : s.haltDone f = true) :
    exec (.functionHaltComplete f) s = .next (s.quiet.haltComplete f) := by
  have hc : f < 16 ∧ s.quiet.halting f = true ∧ s.quiet.haltDone f = true := ⟨hf, hhalting, hdone⟩
  show execFunctionHaltComplete f s = _
  simp only [execFunctionHaltComplete, attempt, if_pos hc, Option.getD_some]

/-- HALTING cleared and HALTED set. -/
def State.haltBits (s : State) (f : Nat) : State := (s.setBit (statusReg f) 0 false).setBit (statusReg f) 1 true

/-- HALTING cleared and HALTED set; the switch notes its epoch (R321). -/
def State.setHalted (s : State) (f : Nat) : State :=
  { s.haltBits f with haltEpoch := if f = 10 then some s.epoch else s.haltEpoch }

theorem State.setHalted_reg (s : State) (f o : Nat) : (s.setHalted f).reg o = (s.haltBits f).reg o :=
  State.reg_congr rfl rfl o

theorem State.haltBits_reg_other (s : State) {f o : Nat} (ho : o ≠ statusReg f) : (s.haltBits f).reg o = s.reg o := by
  rw [State.haltBits, State.reg_setBit_other _ _ _ _ _ ho, State.reg_setBit_other _ _ _ _ _ ho]

theorem State.setHalted_reg_other (s : State) {f o : Nat} (ho : o ≠ statusReg f) : (s.setHalted f).reg o = s.reg o :=
  (s.setHalted_reg f o).trans (s.haltBits_reg_other ho)

theorem State.setHalted_bits {s : State} (h : Rising s.regs) (f : Nat) :
    (s.setHalted f).halting f = false ∧ (s.setHalted f).halted f = true := by
  have hrise : Rising (s.setBit (statusReg f) 0 false).regs := s.setReg_rising _ _ h
  have hbit (i : Nat) : (s.setHalted f).bit (statusReg f) i = (s.haltBits f).bit (statusReg f) i :=
    State.bit_congr (s.setHalted_reg f _) i
  unfold State.halting State.halted
  rw [hbit, hbit, State.haltBits, State.bit_setBit_other _ _ 1 0 _ hrise (by decide) (by decide),
    State.bit_setBit_same _ _ 0 _ h (by decide), State.bit_setBit_same _ _ 1 _ hrise (by decide)]
  exact ⟨rfl, rfl⟩

theorem regNswEpoch_ne_statusReg (f : Nat) : regNswEpoch ≠ statusReg f := by
  unfold statusReg
  split <;> decide

theorem controlReg_ne_statusReg {f r : Nat} (h : controlReg f = some r) (g : Nat) : r ≠ statusReg g := by
  have hr : r = regCmdControl ∨ r = regRruControl := by
    unfold controlReg at h
    split at h
    · exact .inl (Option.some.inj h).symm
    · split at h
      · exact .inr (Option.some.inj h).symm
      · cases h
  unfold statusReg
  rcases hr with rfl | rfl
  · split <;> decide
  · split <;> decide

/-- With no task and no resume waiting for it, the end of a halt is `setHalted`. -/
theorem State.haltComplete_of_alone {s : State} {f : Nat} (hhalts : s.waitingOn opHalt f = [])
    (hresumes : s.waitingOn opResume f = []) (hcontrol : s.resumeWaits f = false) :
    s.haltComplete f = s.setHalted f := by
  have hepoch : (s.haltBits f).epoch = s.epoch := by
    simp only [State.epoch, State.fld, s.haltBits_reg_other (regNswEpoch_ne_statusReg f)]
  have hnoted : (if f = 10 then { s.haltBits f with haltEpoch := some (s.haltBits f).epoch } else s.haltBits f) =
      s.setHalted f := by
    rw [hepoch]
    by_cases h10 : f = 10
    · simp only [State.setHalted, if_pos h10]
    · simp only [State.setHalted, if_neg h10]
      rfl
  have hhalts' : (s.setHalted f).waitingOn opHalt f = [] := hhalts
  have hresumes' : (s.setHalted f).waitingOn opResume f = [] := hresumes
  unfold State.haltComplete
  dsimp only
  rw [← State.haltBits, hnoted, hhalts', List.foldl_nil, hresumes', List.foldl_nil]
  unfold State.resumeWaits at hcontrol
  split
  · next r hr =>
    rw [hr] at hcontrol
    have hbit : (s.setHalted f).bit r 1 = false :=
      (State.bit_congr (s.setHalted_reg_other (controlReg_ne_statusReg hr f)) 1).trans hcontrol
    rw [hbit]
    rfl
  · rfl

/-- Settles O19: a halt sets HALTING alone, and its end, with nothing waiting for it, moves the two bits. -/
theorem haltsAreRequestedAndCompleted : Obligations.HaltsAreRequestedAndCompleted := by
  intro s hs
  refine ⟨fun c f hcf hr => ?_, fun f hf hhalting hdone hhalts hresumes hcontrol => ?_⟩
  · have hx : exec c s = .next (s.quiet.requestHalt f) ∧ f ≠ 1 ∧ f ≠ 7 := by
      rcases hcf with ⟨rfl, rfl⟩ | ⟨rfl, rfl⟩
      · exact ⟨exec_cmdHalt hr, by decide, by decide⟩
      · exact ⟨exec_rruHalt hr, by decide, by decide⟩
    obtain ⟨hexec, h1, h7⟩ := hx
    refine ⟨fun h => ?_, fun h => ⟨_, hexec, State.requestHalt_spec hs h h1 h7⟩⟩
    rw [hexec, State.requestHalt_of_stopping (s := s.quiet) h]
  · have hrise : Rising s.quiet.regs := hs.regs.1
    have hx := exec_functionHaltComplete hf hhalting hdone
    rw [State.haltComplete_of_alone (s := s.quiet) hhalts hresumes hcontrol] at hx
    obtain ⟨hoff, hon⟩ := State.setHalted_bits hrise f
    exact ⟨_, hx, hoff, hon, fun o ho => s.quiet.setHalted_reg_other ho, rfl, rfl, rfl⟩

/-! ### Resumes through control registers (R104 to R109, R443) -/

theorem exec_cmdResume {s : State} (hr : s.ready = true) : exec .cmdResume s = .next (s.quiet.controlResume 0) := by
  show execCmdResume s = _
  simp [execCmdResume, attempt, hr]

theorem exec_rruResume {s : State} (hr : s.ready = true) : exec .rruResume s = .next (s.quiet.controlResume 15) := by
  show execRruResume s = _
  simp [execRruResume, attempt, hr]

theorem State.setResume_of_controlReg (s : State) {f r : Nat} (h : controlReg f = some r) (b : Bool) :
    s.setResume f b = s.setBit r 1 b := by
  simp only [State.setResume, h]

theorem State.resumeWaits_of_controlReg (s : State) {f r : Nat} (h : controlReg f = some r) :
    s.resumeWaits f = s.bit r 1 := by
  simp only [State.resumeWaits, h]

theorem State.controlResume_of_running {s : State} {f : Nat} (h : s.halted f = false) (hh : s.halting f = false) :
    s.controlResume f = s := by
  simp [State.controlResume, h, hh]

theorem State.controlResume_of_halting {s : State} {f r : Nat} (hr : controlReg f = some r) (h : s.halted f = false)
    (hh : s.halting f = true) : s.controlResume f = s.setBit r 1 true := by
  simp [State.controlResume, h, hh, s.setResume_of_controlReg hr]

theorem State.controlResume_of_halted {s : State} {f r : Nat} (hr : controlReg f = some r) (h : s.halted f = true)
    (hopened : f = 0 → s.journal.opened = true) (hbit : s.bit r 1 = false) :
    s.controlResume f = (s.setBit r 1 true).arise (.resume f none) := by
  have hfirst : ¬ (f = 0 ∧ s.journal.opened = false) := fun ⟨h0, hclosed⟩ => by simp [hopened h0] at hclosed
  rw [State.controlResume, if_pos h, if_neg hfirst, s.resumeWaits_of_controlReg hr, hbit,
    if_neg Bool.false_ne_true, s.setResume_of_controlReg hr]

/-- The first resume of the Command Engine after a reset (R107). -/
theorem State.controlResume_first {s : State} (h : s.halted 0 = true) (hopened : s.journal.opened = false) :
    s.controlResume 0 = ((({ s with journal := { s.journal with opened := true } }).openEntry).resumeNow 0
      true).serveWaiting := by
  rw [State.controlResume, if_pos h, if_pos ⟨rfl, hopened⟩]

/-- Settles O20: each clause is one branch of `controlResume`. -/
theorem resumesThroughControlRegisters : Obligations.ResumesThroughControlRegisters := by
  intro s c f r hs hr hcf
  have hx : exec c s = .next (s.quiet.controlResume f) ∧ controlReg f = some r ∧ byteReg r = false := by
    rcases hcf with ⟨rfl, rfl, rfl⟩ | ⟨rfl, rfl, rfl⟩
    · exact ⟨exec_cmdResume hr, rfl, by decide⟩
    · exact ⟨exec_rruResume hr, rfl, by decide⟩
  obtain ⟨hexec, hcontrol, hbyte⟩ := hx
  refine ⟨fun h hh => ?_, fun h hh => ?_, fun h hopened hbit => ?_, fun h hf hopened => ?_⟩
  · rw [hexec, State.controlResume_of_running (s := s.quiet) h hh]
  · rw [State.controlResume_of_halting (s := s.quiet) hcontrol h hh] at hexec
    refine ⟨_, hexec, State.bit_setBit_same _ _ _ _ hs.regs.1 (by decide), ?_⟩
    exact s.onlyRegs_quiet.trans (State.onlyRegs_setReg _ _ _ hbyte) nofun fun _ h => h
  · rw [hexec, State.controlResume_of_halted (s := s.quiet) hcontrol h hopened hbit]
  · subst hf
    rw [hexec, State.controlResume_first (s := s.quiet) h hopened]
    rfl

/-! ### The owner epoch and the faults of streams (R85, R99, R104, R110) -/

theorem exec_ownerEpochWrite {s : State} (hr : s.ready = true) (v : BitVec 32) :
    exec (.ownerEpochWrite v) s = .next (s.quiet.arise (.epoch v)) := by
  show execOwnerEpochWrite v s = _
  simp [execOwnerEpochWrite, attempt, hr]

theorem exec_streamFaultClear {s : State} {n : Nat} (hr : s.ready = true) (hn : n < 64)
    (hfault : s.bit (regCmdStrmStatus n) 1 = true) :
    exec (.streamFaultClear n) s = .next (s.quiet.arise (.faultClear n)) := by
  have hc : s.quiet.ready = true ∧ n < 64 ∧ s.quiet.bit (regCmdStrmStatus n) 1 = true := ⟨hr, hn, hfault⟩
  show execStreamFaultClear n s = _
  simp only [execStreamFaultClear, attempt, if_pos hc, Option.getD_some]

/-- TAIL of stream `n` back at its HEAD, under an owner epoch (R110). -/
def State.tailToHead (v : Nat) (s : State) (n : Nat) : State :=
  s.setReg (regCmdStrmTail n) (s.reg (regCmdStrmHead n) + v * 2 ^ 32)

theorem State.foldl_tailToHead_reg_other (v : Nat) (s : State) (l : List Nat) {o : Nat}
    (ho : ∀ n ∈ l, o ≠ regCmdStrmTail n) : (l.foldl (State.tailToHead v) s).reg o = s.reg o :=
  List.foldlRecOn (motive := fun t : State => t.reg o = s.reg o) l _ rfl fun t ht n hn =>
    (t.reg_setReg_other _ _ _ (ho n hn)).trans ht

theorem regCmdStrmHead_ne_tail (k n : Nat) : regCmdStrmHead k ≠ regCmdStrmTail n := by
  simp only [regCmdStrmHead, regCmdStrmTail]
  omega

theorem regCmdStrmTail_inj {k n : Nat} (h : k ≠ n) : regCmdStrmTail k ≠ regCmdStrmTail n := by
  simp only [regCmdStrmTail]
  omega

/-- Every stream of the list has its TAIL back at its HEAD. -/
theorem State.foldl_tailToHead_reg (v : Nat) {s : State} (h : Rising s.regs) {l : List Nat} {k : Nat} (hk : k ∈ l) :
    (l.foldl (State.tailToHead v) s).reg (regCmdStrmTail k) = (s.reg (regCmdStrmHead k) + v * 2 ^ 32) % 2 ^ 64 := by
  induction l generalizing s with
  | nil => cases hk
  | cons n l ih =>
    have hhead : (s.tailToHead v n).reg (regCmdStrmHead k) = s.reg (regCmdStrmHead k) :=
      s.reg_setReg_other _ _ _ (regCmdStrmHead_ne_tail k n)
    by_cases hkl : k ∈ l
    · have hlater := ih (s := s.tailToHead v n) (s.setReg_rising _ _ h) hkl
      rw [hhead] at hlater
      exact hlater
    · have hkn : k = n := (List.mem_cons.mp hk).resolve_right hkl
      have hlater : ∀ m ∈ l, regCmdStrmTail k ≠ regCmdStrmTail m := fun m hm =>
        regCmdStrmTail_inj fun e => hkl (e ▸ hm)
      subst hkn
      exact ((s.tailToHead v k).foldl_tailToHead_reg_other v l hlater).trans (s.reg_setReg_mod _ _ h)

/-- No slot deferred. -/
def State.dropDeferred (s : State) : State := { s with deferred := [] }

@[simp] theorem State.dropDeferred_reg (s : State) (o : Nat) : s.dropDeferred.reg o = s.reg o :=
  State.reg_congr rfl rfl o

@[simp] theorem State.dropDeferred_mem (s : State) : s.dropDeferred.mem = s.mem := rfl

/-- The epoch action before its entry: the owner epoch set, every TAIL back at its HEAD, no slot deferred. -/
def State.dropSlots (s : State) (v : Nat) : State :=
  ((List.range 64).foldl (State.tailToHead v) (s.setReg regCmdOwnerEpoch v)).dropDeferred

theorem State.act_epoch (s : State) (v : BitVec 32) : s.act (.epoch v) = (s.dropSlots v.toNat).epochEntry v.toNat := rfl

theorem State.foldl_tailToHead_mem (v : Nat) (s : State) (l : List Nat) :
    (l.foldl (State.tailToHead v) s).mem = s.mem :=
  List.foldlRecOn (motive := fun t : State => t.mem = s.mem) l _ rfl fun _ ht _ _ => ht

/-- What the epoch action sets before its entry. -/
theorem State.dropSlots_spec {s : State} (h : Rising s.regs) (v : BitVec 32) :
    (s.dropSlots v.toNat).reg regCmdOwnerEpoch = v.toNat ∧
      (∀ k, k < 64 → (s.dropSlots v.toNat).reg (regCmdStrmTail k) =
        (s.reg (regCmdStrmHead k) + v.toNat * 2 ^ 32) % 2 ^ 64) ∧
      (∀ k, k < 64 → (s.dropSlots v.toNat).reg (regCmdStrmHead k) = s.reg (regCmdStrmHead k)) ∧
      (s.dropSlots v.toNat).mem = s.mem := by
  have hv : v.toNat < 2 ^ 32 := v.isLt
  have hepoch (n : Nat) : regCmdOwnerEpoch ≠ regCmdStrmTail n := by
    simp only [regCmdOwnerEpoch, regCmdStrmTail]
    omega
  have hhead (k : Nat) : (s.setReg regCmdOwnerEpoch v.toNat).reg (regCmdStrmHead k) = s.reg (regCmdStrmHead k) := by
    refine s.reg_setReg_other _ _ _ ?_
    simp only [regCmdOwnerEpoch, regCmdStrmHead]
    omega
  refine ⟨?_, fun k hk => ?_, fun k _ => ?_, ?_⟩
  · rw [State.dropSlots, State.dropDeferred_reg, State.foldl_tailToHead_reg_other _ _ _ fun n _ => hepoch n]
    exact s.reg_setReg_same _ _ h (by omega)
  · rw [State.dropSlots, State.dropDeferred_reg,
      State.foldl_tailToHead_reg _ (s.setReg_rising _ _ h) (List.mem_range.mpr hk), hhead]
  · rw [State.dropSlots, State.dropDeferred_reg,
      State.foldl_tailToHead_reg_other _ _ _ fun n _ => regCmdStrmHead_ne_tail k n, hhead]
  · rw [State.dropSlots, State.dropDeferred_mem, State.foldl_tailToHead_mem, State.setReg_mem]

/-- FAULT of a stream is clear once its action is performed. -/
theorem State.act_faultClear_bit {s : State} (hs : s.Canonical) {n : Nat} (h : s.bit (regCmdStrmStatus n) 1 = true) :
    (s.act (.faultClear n)).bit (regCmdStrmStatus n) 1 = false := by
  have hact : s.act (.faultClear n) =
      (s.event evStreamResumed n (shake256 16 (leBytes 4 (s.strmStatus n)))).setBit (regCmdStrmStatus n) 1 false :=
    if_pos h
  rw [hact]
  exact State.bit_setBit_same _ _ _ _ ((State.event_keeps (.refl s)).canonical hs).regs.1 (by decide)

/-- While the journal has not been opened an action waits (R104). -/
theorem State.arise_of_unopened {s : State} (h : s.journal.opened = false) (hwaiting : s.journal.waiting = [])
    (w : Waiting) : s.arise w = s.wait w := by
  have hfits : (s.wait w).eventFits = false := by simp [State.eventFits, State.wait, h]
  have hw : (s.wait w).journal.waiting = [w] := by simp [State.wait, hwaiting]
  show (s.wait w).serve _ = _
  rw [State.serve, hw]
  simp [hfits]

/-- Settles O21: the two commands put their actions behind the others, and the actions are `act`. -/
theorem eventEntriesOfEpochAndStream : Obligations.EventEntriesOfEpochAndStream := by
  intro s v n hs hr hn
  refine ⟨exec_ownerEpochWrite hr v, exec_streamFaultClear hr hn, ?_, State.act_faultClear_bit hs,
    fun hopened hwaiting => ?_⟩
  · obtain ⟨hepoch, htails, hheads, hmem⟩ := State.dropSlots_spec hs.regs.1 v
    exact ⟨s.dropSlots v.toNat, hepoch, htails, hheads, hmem, s.act_epoch v⟩
  · have hx := exec_ownerEpochWrite hr v
    rw [State.arise_of_unopened (s := s.quiet) hopened hwaiting] at hx
    refine ⟨_, hx, ?_, s.onlyRegs_quiet⟩
    simp [State.wait, hwaiting]

end Sys2Proof.Machine
end

section
/-! Completion of tasks, and the instructions that an engine takes. -/

namespace Sys2Proof.Machine

open Sys2Proof

/-! ### Completion (R92, R96) -/

theorem exec_taskComplete {s : State} {q : Nat} {t : Task} (hstopped : s.stopped = false) (ht : s.task? q = some t)
    (hlocal : isRemote t.opcode = false) (hover : t.over_ = true) :
    exec (.taskComplete q) s = .next ((s.quiet.finish t).takeUpReplies.memberDone q) := by
  have hq : s.quiet.stopped = false := hstopped
  have htq : s.quiet.task? q = some t := ht
  show execTaskComplete q s = _
  simp [execTaskComplete, attempt, hq, htq, hlocal, hover]

/-- A change after which a stream's RETIRE, its HEAD and the tasks stand as they were. -/
structure State.SameRetire (n : Nat) (s t : State) : Prop where
  retire : t.reg (regCmdStrmRetire n) = s.reg (regCmdStrmRetire n)
  head : t.reg (regCmdStrmHead n) = s.reg (regCmdStrmHead n)
  tasks : t.tasks = s.tasks

theorem State.SameRetire.trans {n : Nat} {s t u : State} (h : s.SameRetire n t) (g : t.SameRetire n u) :
    s.SameRetire n u :=
  ⟨g.retire.trans h.retire, g.head.trans h.head, g.tasks.trans h.tasks⟩

theorem State.SameRetire.refl (n : Nat) (s : State) : s.SameRetire n s := ⟨rfl, rfl, rfl⟩

/-- A register set above the Command Engine's block. -/
theorem State.setReg_sameRetire (s : State) {n o : Nat} (hn : n < 64) (ho : 0x200000 ≤ o) (v : Nat) :
    s.SameRetire n (s.setReg o v) := by
  refine ⟨s.reg_setReg_other _ _ _ ?_, s.reg_setReg_other _ _ _ ?_, rfl⟩
  · simp only [regCmdStrmRetire]
    omega
  · simp only [regCmdStrmHead]
    omega

theorem State.beginPeriod_sameRetire (s : State) {n : Nat} (hn : n < 64) (m : Nat) :
    s.SameRetire n (s.beginPeriod m) := by
  obtain ⟨hretire, hhead, htasks⟩ := s.setReg_sameRetire hn (o := regSchLcRemain m)
    (by simp only [regSchLcRemain]; omega) (s.freshRemain m % (2 ^ 64 : Int)).toNat
  exact ⟨hretire, hhead, htasks⟩

/-- The settlement of a budget writes the Scheduler's registers alone (R403). -/
theorem State.settle_sameRetire (s : State) (t : Task) {n : Nat} (hn : n < 64) : s.SameRetire n (s.settle t) := by
  have hremain (m : Nat) : 0x200000 ≤ regSchLcRemain m := by
    simp only [regSchLcRemain]
    omega
  have hperiod : s.SameRetire n (s.periodUpTo t.stream) := by
    unfold State.periodUpTo
    split
    · exact s.beginPeriod_sameRetire hn _
    · exact .refl n s
  unfold State.settle
  dsimp only
  split
  · split
    · exact hperiod.trans (State.setReg_sameRetire _ hn (hremain _) _)
    · exact (hperiod.trans (State.setReg_sameRetire _ hn (hremain _) _)).trans
        (State.setReg_sameRetire _ hn (by decide) _)
  · exact .refl n s

theorem State.irq_sameRetire (s : State) {n : Nat} (hn : n < 64) (v : Nat) : s.SameRetire n (s.irq v) :=
  s.setReg_sameRetire hn (by simp only [regOdlIrqPending]; omega) _

/-- RETIRE of a stream is the ring counter of its oldest task on the list, or HEAD (R92). -/
theorem State.updateRetire_reg {s : State} (h : Rising s.regs) (n : Nat) :
    (s.updateRetire n).reg (regCmdStrmRetire n) =
      match (s.updateRetire n).tasks.find? fun x => x.stream == n with
      | some x => x.ring % 2 ^ 64
      | none => (s.updateRetire n).reg (regCmdStrmHead n) := by
  have hhead : (s.updateRetire n).reg (regCmdStrmHead n) = s.reg (regCmdStrmHead n) := by
    refine s.reg_setReg_other _ _ _ ?_
    simp only [regCmdStrmHead, regCmdStrmRetire]
    omega
  have hset := s.reg_setReg_mod (regCmdStrmRetire n) (match s.tasks.find? fun t => t.stream == n with
    | some t => t.ring
    | none => s.reg (regCmdStrmHead n)) h
  have htasks : (s.updateRetire n).tasks = s.tasks := rfl
  refine Eq.trans hset ?_
  rw [hhead, htasks]
  split
  · rfl
  · exact Nat.mod_eq_of_lt (s.reg_lt _)

/-- A task brought up to date as its completion finds it, with the state after (R96, R408). -/
def State.atCompletion (s : State) (t : Task) : State × Task :=
  if t.issueTime = 0 then (s, t) else match t.phase with
    | .parked _ => (s, t)
    | _ => s.accrue t

/-- The charge of a task leaves its stream. -/
theorem State.accrue_stream (s : State) (t : Task) : (s.accrue t).2.stream = t.stream := by
  unfold State.accrue
  split <;> rfl

theorem State.atCompletion_stream (s : State) (t : Task) : (s.atCompletion t).2.stream = t.stream := by
  unfold State.atCompletion
  split
  · rfl
  · split
    · rfl
    · exact s.accrue_stream t

theorem State.atCompletion_keeps {k s : State} (h : Keeps k s) (t : Task) : Keeps k (s.atCompletion t).1 := by
  unfold State.atCompletion
  split
  · exact h
  · split
    · exact h
    · exact State.accrue_keeps h

/-- The log entry and the completion fields of a task, its scratch dropped, and the task off the list (R96). -/
def State.writeCompletion (s : State) (t : Task) (q : Nat) : State :=
  let s1 := (if t.issueTime = 0 then s else s.logEntry t).completeEntry t
  { s1.dropScratch t with tasks := s1.tasks.filter fun x => x.seq != q }

theorem State.writeCompletion_keeps {k s : State} (h : Keeps k s) (t : Task) (q : Nat) :
    Keeps k (s.writeCompletion t q) := by
  have hlog : Keeps k (if t.issueTime = 0 then s else s.logEntry t) := .ite h (State.logEntry_keeps h)
  exact Keeps.update.mpr (State.dropScratch_keeps (State.completeEntry_keeps hlog))

theorem State.writeCompletion_tasks (s : State) (t : Task) (q : Nat) :
    ∀ x ∈ (s.writeCompletion t q).tasks, x.seq ≠ q := fun _ hx => by
  simpa using (List.mem_filter.mp hx).2

/-- A completion up to the settlement of the budget: its fields, its event, and RETIRE of its stream. -/
def State.retireTask (s : State) (t : Task) (q : Nat) : State :=
  let s1 := s.writeCompletion t q
  (if t.evtEn then s1.eventAdd t.evt 1 else s1).updateRetire t.stream

theorem State.retireTask_tasks (s : State) (t : Task) (q : Nat) :
    (s.retireTask t q).tasks = (s.writeCompletion t q).tasks := by
  unfold State.retireTask
  dsimp only
  split <;> rfl

theorem State.retireTask_reg {s : State} (hs : s.Canonical) (t : Task) (q : Nat) :
    (s.retireTask t q).reg (regCmdStrmRetire t.stream) =
      match (s.retireTask t q).tasks.find? fun x => x.stream == t.stream with
      | some x => x.ring % 2 ^ 64
      | none => (s.retireTask t q).reg (regCmdStrmHead t.stream) := by
  have hwritten : Keeps s (s.writeCompletion t q) := State.writeCompletion_keeps (.refl s) t q
  have hcounted : Keeps s (if t.evtEn then (s.writeCompletion t q).eventAdd t.evt 1 else s.writeCompletion t q) :=
    .ite (State.eventAdd_keeps hwritten) hwritten
  exact State.updateRetire_reg (hcounted.canonical hs).regs.1 t.stream

/-- One completion: the task brought up to date and retired, its budget settled, its interrupt raised. -/
theorem State.finishOne_eq (s : State) (t : Task) :
    s.finishOne t =
      let t1 := (s.atCompletion t).2
      let s1 := ((s.atCompletion t).1.retireTask t1 t.seq).settle t1
      let s2 := if t1.irqBit then s1.irq t1.stream else s1
      { s2 with pubs := s2.pubs.filter fun b => b.seq != t.seq } := rfl

/-- What follows the retirement of a task leaves RETIRE, HEAD and the tasks. -/
theorem State.finishOne_sameRetire (s : State) {t : Task} (hn : t.stream < 64) :
    ((s.atCompletion t).1.retireTask (s.atCompletion t).2 t.seq).SameRetire t.stream (s.finishOne t) := by
  have hsettle := State.settle_sameRetire ((s.atCompletion t).1.retireTask (s.atCompletion t).2 t.seq)
    (s.atCompletion t).2 hn
  rw [State.finishOne_eq]
  dsimp only
  split
  · obtain ⟨hretire, hhead, htasks⟩ := hsettle.trans (State.irq_sameRetire _ hn (s.atCompletion t).2.stream)
    exact ⟨hretire, hhead, htasks⟩
  · obtain ⟨hretire, hhead, htasks⟩ := hsettle
    exact ⟨hretire, hhead, htasks⟩

/-- Settles O24: RETIRE is set after the task has left the list, and nothing later in the completion moves it. -/
theorem taskCompletesAndLeaves : Obligations.TaskCompletesAndLeaves := by
  intro s t q
  refine ⟨exec_taskComplete, fun hs hn => ?_⟩
  obtain ⟨hretire, hhead, htasks⟩ := s.finishOne_sameRetire hn
  have hcanonical : (s.atCompletion t).1.Canonical := (State.atCompletion_keeps (.refl s) t).canonical hs
  have hreg := State.retireTask_reg hcanonical (s.atCompletion t).2 t.seq
  rw [s.atCompletion_stream t] at hreg
  rw [hretire, hhead, htasks]
  refine ⟨?_, hreg⟩
  rw [State.retireTask_tasks]
  exact State.writeCompletion_tasks _ _ _

/-! ### The engines' instructions (R278, R398, R429) -/

section Launch

variable {s : State} {q op form e : Nat} {t : Task} {work : State → Task → State}

/-- A task whose conditions hold and which its engine takes next issues. -/
theorem State.tryIssue_of_pick (ht : s.task? q = some t) (hop : t.opcode = op) (hform : t.form = form)
    (hok : s.issueOk t = true) (he : engineOf op = some e) (hpick : (s.pick e).2.map (·.seq) = some q) :
    s.tryIssue q op form = some ((s.pick e).1.issue t) := by
  have hc : t.opcode = op ∧ t.form = form ∧ s.issueOk t = true := ⟨hop, hform, hok⟩
  simp only [State.tryIssue, ht, if_pos hc, he, if_pos hpick]

/-- It does its work, unless its engine is fenced and it ended at issue. -/
theorem State.launch_of_pick (ht : s.task? q = some t) (hop : t.opcode = op) (hform : t.form = form)
    (hok : s.issueOk t = true) (he : engineOf op = some e) (hpick : (s.pick e).2.map (·.seq) = some q) :
    s.launch q op form work = some (if ((s.pick e).1.issue t).2.phase = .ended then ((s.pick e).1.issue t).1
      else work ((s.pick e).1.issue t).1 ((s.pick e).1.issue t).2) := by
  simp only [State.launch, State.tryIssue_of_pick ht hop hform hok he hpick, Option.map_some, beq_iff_eq]

/-- A command that launches a task of an opcode and form. -/
theorem exec_launch {c : Instr} (hx : exec c s = attempt s fun z => z.launch q op form work) (t : Task) (e : Nat)
    (ht : s.task? q = some t) (hop : t.opcode = op) (hform : t.form = form) (hok : s.quiet.issueOk t = true)
    (he : engineOf op = some e) (hpick : (s.quiet.pick e).2.map (·.seq) = some q) :
    let p := (s.quiet.pick e).1.issue t
    (p.2.phase ≠ .ended → exec c s = .next (work p.1 p.2)) ∧ (p.2.phase = .ended → exec c s = .next p.1) := by
  have hlaunch := State.launch_of_pick (s := s.quiet) (work := work) ht hop hform hok he hpick
  rw [hx, attempt, hlaunch]
  exact ⟨fun h => congrArg _ (if_neg h), fun h => congrArg _ (if_pos h)⟩

end Launch

/-- Settles O27: each of these commands launches the task of its opcode and form. -/
theorem engineInstructionsComplete : Obligations.EngineInstructionsComplete := by
  intro s q
  exact ⟨exec_launch rfl, exec_launch rfl, exec_launch rfl,
    fun splits => exec_launch (work := fun x t => x.runGather splits t) rfl, exec_launch rfl, exec_launch rfl,
    exec_launch rfl, exec_launch rfl, exec_launch rfl, exec_launch rfl, exec_launch rfl, exec_launch rfl,
    exec_launch rfl, exec_launch rfl, exec_launch rfl, exec_launch rfl, exec_launch rfl, exec_launch rfl,
    exec_launch rfl⟩

end Sys2Proof.Machine
end

section
/-! The rows that `DISPATCH` gives to the pairs of a sort (R124, R125). -/

namespace Sys2Proof.Machine

open Sys2Proof

/-! ### The list of an expert (R124) -/

section ExpertList

variable (s : State) (d : Desc)

theorem State.mem_expertList {e : Nat} {p : Nat × Nat} :
    p ∈ s.expertList d e ↔ p.1 < d.d1 ∧ p.2 < d.d0 ∧ s.choice d p.1 p.2 = (e : Int) := by
  obtain ⟨t, r⟩ := p
  simp [State.expertList, and_comm]

/-- A pair stands once in its expert's list. -/
theorem State.nodup_expertList (e : Nat) : (s.expertList d e).Nodup := by
  refine List.nodup_flatMap.mpr ⟨fun t _ => List.nodup_range.filterMap ?_, ?_⟩
  · rintro r r' p h h'
    simp only [Option.mem_def, Option.ite_none_right_eq_some, Option.some.injEq] at h h'
    exact congrArg Prod.snd (h.2.trans h'.2.symm)
  · refine List.pairwise_lt_range.imp fun {t t'} hlt p hp hp' => hlt.ne ?_
    simp only [List.mem_filterMap, Option.ite_none_right_eq_some, Option.some.injEq] at hp hp'
    obtain ⟨_, _, _, rfl⟩ := hp
    obtain ⟨_, _, _, h⟩ := hp'
    exact (congrArg Prod.fst h).symm

/-- Two places that hold one pair are one place. -/
theorem State.expertList_place_inj {e e' j j' : Nat} (hj : j < (s.expertList d e).length)
    (hj' : j' < (s.expertList d e').length)
    (h : (s.expertList d e).getD j (0, 0) = (s.expertList d e').getD j' (0, 0)) : e = e' ∧ j = j' := by
  rw [List.getD_eq_getElem _ _ hj, List.getD_eq_getElem _ _ hj'] at h
  obtain ⟨_, _, hc⟩ := (s.mem_expertList d).mp (List.getElem_mem hj)
  obtain ⟨_, _, hc'⟩ := (s.mem_expertList d).mp (List.getElem_mem hj')
  have he : e = e' := Int.ofNat_inj.mp (hc.symm.trans (h ▸ hc'))
  subst he
  exact ⟨rfl, (s.nodup_expertList d e).getElem_inj_iff.mp h⟩

end ExpertList

/-! ### Rows of own and rows of the hamper (R125) -/

/-- Where each number has a block of its own, a number that lies in two blocks lies in one. -/
theorem eq_of_mem_blocks {f : Nat → Nat} (hf : Monotone f) {a b x : Nat} (ha : f a ≤ x) (ha' : x < f (a + 1))
    (hb : f b ≤ x) (hb' : x < f (b + 1)) : a = b := by
  rcases lt_trichotomy a b with hlt | heq | hgt
  · exact absurd (hf (show a + 1 ≤ b from hlt)) (by omega)
  · exact heq
  · exact absurd (hf (show b + 1 ≤ a from hgt)) (by omega)

/-- H_e: the overflow of the experts before `e`. -/
def State.hamperStart (s : State) (d : Desc) (cap e : Nat) : Nat :=
  ((List.range e).map fun f => (s.expertList d f).length - cap).sum

/-- The row of the `j`-th pair of expert `e`. -/
def State.pairRow (s : State) (d : Desc) (E cap e j : Nat) : Nat :=
  if j < cap then e * cap + j else E * cap + s.hamperStart d cap e + (j - cap)

section Rows

variable (s : State) (d : Desc) {E cap e e' j j' : Nat}

theorem State.hamperStart_succ (cap e : Nat) :
    s.hamperStart d cap (e + 1) = s.hamperStart d cap e + ((s.expertList d e).length - cap) := by
  simp [State.hamperStart, List.range_succ]

theorem State.hamperStart_mono (cap : Nat) : Monotone (s.hamperStart d cap) :=
  monotone_nat_of_le_succ fun e => by rw [s.hamperStart_succ]; exact Nat.le_add_right _ _

/-- An own row lies among the `cap` rows of its expert. -/
theorem State.pairRow_own (hj : j < cap) :
    e * cap ≤ s.pairRow d E cap e j ∧ s.pairRow d E cap e j < (e + 1) * cap := by
  rw [State.pairRow, if_pos hj, Nat.succ_mul]
  omega

/-- A hamper row lies in the part of the hamper that its expert's overflow takes. -/
theorem State.pairRow_hamper (hj : ¬ j < cap) (hlen : j < (s.expertList d e).length) :
    E * cap + s.hamperStart d cap e ≤ s.pairRow d E cap e j ∧
      s.pairRow d E cap e j < E * cap + s.hamperStart d cap (e + 1) := by
  rw [State.pairRow, if_neg hj, s.hamperStart_succ]
  omega

theorem State.pairRow_lt_of_own (he : e < E) (hj : j < cap) : s.pairRow d E cap e j < E * cap :=
  (s.pairRow_own d hj).2.trans_le (Nat.mul_le_mul_right cap he)

theorem State.le_pairRow_of_hamper (hj : ¬ j < cap) (hlen : j < (s.expertList d e).length) :
    E * cap ≤ s.pairRow d E cap e j :=
  (Nat.le_add_right _ _).trans (s.pairRow_hamper d hj hlen).1

/-- No row lies past the hamper's total overflow. -/
theorem State.pairRow_lt (he : e < E) (hlen : j < (s.expertList d e).length) :
    s.pairRow d E cap e j < E * cap + s.hamperStart d cap E := by
  by_cases hj : j < cap
  · exact (s.pairRow_lt_of_own d he hj).trans_le (Nat.le_add_right _ _)
  · exact (s.pairRow_hamper d hj hlen).2.trans_le (Nat.add_le_add_left (s.hamperStart_mono d cap he) _)

/-- Two places with one row are one place: own rows lie below hamper rows, and within each kind every expert has a
block of its own. -/
theorem State.pairRow_inj (he : e < E) (he' : e' < E) (hlen : j < (s.expertList d e).length)
    (hlen' : j' < (s.expertList d e').length) (h : s.pairRow d E cap e j = s.pairRow d E cap e' j') :
    e = e' ∧ j = j' := by
  by_cases hj : j < cap <;> by_cases hj' : j' < cap
  · obtain ⟨hlo, hhi⟩ := s.pairRow_own d (E := E) (e := e) hj
    obtain ⟨hlo', hhi'⟩ := s.pairRow_own d (E := E) (e := e') hj'
    have hee : e = e' := eq_of_mem_blocks (f := (· * cap)) (fun _ _ hle => Nat.mul_le_mul_right cap hle) hlo hhi
      (h ▸ hlo') (h ▸ hhi')
    subst hee
    simp only [State.pairRow, if_pos hj, if_pos hj'] at h
    exact ⟨rfl, by omega⟩
  · exact absurd (s.le_pairRow_of_hamper d hj' hlen') (h ▸ s.pairRow_lt_of_own d he hj).not_ge
  · exact absurd (s.le_pairRow_of_hamper d hj hlen) (h ▸ s.pairRow_lt_of_own d he' hj').not_ge
  · obtain ⟨hlo, hhi⟩ := s.pairRow_hamper d (E := E) hj hlen
    obtain ⟨hlo', hhi'⟩ := s.pairRow_hamper d (E := E) hj' hlen'
    have hee : e = e' := eq_of_mem_blocks (f := fun i => E * cap + s.hamperStart d cap i)
      (fun _ _ hle => Nat.add_le_add_left (s.hamperStart_mono d cap hle) _) hlo hhi (h ▸ hlo') (h ▸ hhi')
    subst hee
    simp only [State.pairRow, if_neg hj, if_neg hj'] at h
    exact ⟨rfl, by omega⟩

end Rows

/-! ### The plan of a sort -/

/-- One more expert in a plan: the experts placed, PREFIX and H_e so far. -/
def State.placeNext (s : State) (d : Desc) (cap : Nat) (p : List Placed × Nat × Nat) (e : Nat) :
    List Placed × Nat × Nat :=
  let l := s.expertList d e
  (p.1 ++ [⟨e, l, p.2.1, p.2.2, false, false⟩], p.2.1 + l.length, p.2.2 + (l.length - cap))

/-- PREFIX of expert `e`. -/
def State.pairsBefore (s : State) (d : Desc) (e : Nat) : Nat :=
  ((List.range e).map fun f => (s.expertList d f).length).sum

/-- The place of expert `e` in a plan. -/
def State.placed (s : State) (d : Desc) (cap e : Nat) : Placed :=
  ⟨e, s.expertList d e, s.pairsBefore d e, s.hamperStart d cap e, false, false⟩

/-- The places of a plan: the experts, and the numbers of their pairs. -/
def State.places (s : State) (d : Desc) (E : Nat) : List (Σ _ : Nat, Nat) :=
  (List.range E).sigma fun e => List.range (s.expertList d e).length

/-- The row that a place fills, with its pair. -/
def State.filledRow (s : State) (d : Desc) (E cap : Nat) (x : Σ _ : Nat, Nat) : Nat × Nat × Nat :=
  (s.pairRow d E cap x.1 x.2, (s.expertList d x.1).getD x.2 (0, 0))

section Plan

variable (s : State) (d : Desc) (E cap : Nat)

theorem State.foldl_placeNext : (List.range E).foldl (s.placeNext d cap) ([], 0, 0) =
    ((List.range E).map (s.placed d cap), s.pairsBefore d E, s.hamperStart d cap E) := by
  induction E with
  | zero => rfl
  | succ n ih =>
    simp [List.range_succ, ih, State.placeNext, State.placed, State.pairsBefore, State.hamperStart]

theorem State.sortPlan_eq : s.sortPlan d E cap = (List.range E).map (s.placed d cap) :=
  congrArg Prod.fst (s.foldl_placeNext d E cap)

theorem State.planRows_sortPlan : planRows E cap (s.sortPlan d E cap) = (s.places d E).map (s.filledRow d E cap) := by
  rw [s.sortPlan_eq, planRows, State.places, List.sigma, List.flatMap_map, List.map_flatMap]
  refine congrArg (fun f => List.flatMap f (List.range E)) (funext fun e => ?_)
  rw [List.map_map]
  rfl

theorem State.mem_places {e j : Nat} : ⟨e, j⟩ ∈ s.places d E ↔ e < E ∧ j < (s.expertList d e).length := by
  simp [State.places]

theorem State.nodup_places : (s.places d E).Nodup := List.nodup_range.sigma fun _ => List.nodup_range

/-- A part of the filled rows that tells the places apart has no entry twice. -/
theorem State.nodup_map_planRows {β : Type} (g : Nat × Nat × Nat → β)
    (h : ∀ e j e' j', e < E → j < (s.expertList d e).length → e' < E → j' < (s.expertList d e').length →
      g (s.filledRow d E cap ⟨e, j⟩) = g (s.filledRow d E cap ⟨e', j'⟩) → e = e' ∧ j = j') :
    ((planRows E cap (s.sortPlan d E cap)).map g).Nodup := by
  rw [s.planRows_sortPlan, List.map_map]
  refine List.Nodup.map_on ?_ (s.nodup_places d E)
  rintro ⟨e, j⟩ hx ⟨e', j'⟩ hx' heq
  obtain ⟨he, hj⟩ := (s.mem_places d E).mp hx
  obtain ⟨he', hj'⟩ := (s.mem_places d E).mp hx'
  obtain ⟨rfl, rfl⟩ := h e j e' j' he hj he' hj' heq
  rfl

/-- The pair at a place of a plan is in the row of that place. -/
theorem State.filledRow_mem_planRows {e j : Nat} (he : e < E) (hj : j < (s.expertList d e).length) :
    s.filledRow d E cap ⟨e, j⟩ ∈ planRows E cap (s.sortPlan d E cap) := by
  rw [s.planRows_sortPlan]
  exact List.mem_map_of_mem ((s.mem_places d E).mpr ⟨he, hj⟩)

end Plan

/-- Settles O30: the rows of a plan are the images of its places under a map that tells the places apart by the row as
by the pair. -/
theorem dispatchPlacesEachPairOnce : Obligations.DispatchPlacesEachPairOnce := by
  intro s d E cap
  refine ⟨fun e j he hj => s.filledRow_mem_planRows d E cap he hj, ?_, ?_, fun t r ht hr h0 hE => ?_, fun f hf => ?_⟩
  · exact s.nodup_map_planRows d E cap (·.1) fun e j e' j' he hj he' hj' => s.pairRow_inj d he he' hj hj'
  · exact s.nodup_map_planRows d E cap (·.2) fun e j e' j' _ hj _ hj' => s.expertList_place_inj d hj hj'
  · obtain ⟨e, he⟩ := Int.eq_ofNat_of_zero_le h0
    have hmem : (t, r) ∈ s.expertList d e := (s.mem_expertList d).mpr ⟨ht, hr, he⟩
    obtain ⟨j, hj, hget⟩ := List.getElem_of_mem hmem
    have hpair : (s.expertList d e).getD j (0, 0) = (t, r) := (List.getD_eq_getElem _ _ hj).trans hget
    have hfilled := s.filledRow_mem_planRows d E cap (by omega) hj
    rw [State.filledRow, hpair] at hfilled
    exact ⟨_, hfilled⟩
  · rw [s.planRows_sortPlan] at hf
    obtain ⟨⟨e, j⟩, hx, rfl⟩ := List.mem_map.mp hf
    obtain ⟨he, hj⟩ := (s.mem_places d E).mp hx
    exact s.pairRow_lt d he hj

end Sys2Proof.Machine
end

section
/-! The order in which `SCORE` ranks experts, and the experts that it chooses (R118 to R120). -/

namespace Sys2Proof.Machine

open Sys2Proof

/-! ### Numbers in order -/

/-- The real number that a finite value stands for. -/
noncomputable def finValue (neg : Bool) (m : Nat) (e : Int) : ℝ := (if neg then -(m : ℝ) else m) * 2 ^ e

/-- The rank of a number: a NaN below every number, and numbers as extended reals. -/
noncomputable def Fp.rank : Fp → WithBot EReal
  | .nan => ⊥
  | .inf neg => ((if neg then ⊥ else ⊤ : EReal) : WithBot EReal)
  | .fin neg m e => ((finValue neg m e : EReal) : WithBot EReal)

/-- A value over a smaller exponent. -/
theorem alignTo_value (neg : Bool) (m : Nat) {e q : Int} (h : q ≤ e) :
    (alignTo neg m e q : ℝ) * 2 ^ q = finValue neg m e := by
  have hshift : ((m <<< (e - q).toNat : Nat) : ℝ) * 2 ^ q = m * 2 ^ e := by
    have hpow : (2 : ℝ) ^ (e - q).toNat = 2 ^ (e - q) := by
      rw [← zpow_natCast, Int.toNat_of_nonneg (by omega)]
    rw [Nat.shiftLeft_eq, Nat.cast_mul, Nat.cast_pow, Nat.cast_ofNat, hpow, mul_assoc, ← zpow_add₀ two_ne_zero,
      sub_add_cancel]
  rw [alignTo, finValue]
  generalize m <<< (e - q).toNat = k at hshift
  cases neg
  · exact (congrArg (· * _) (Int.cast_natCast k)).trans hshift
  · simp [← hshift]

theorem Fp.lt_fin_iff (a b : Bool) (m n : Nat) (e f : Int) :
    (Fp.fin a m e).lt (.fin b n f) = true ↔ finValue a m e < finValue b n f := by
  rw [← alignTo_value a m (min_le_left e f), ← alignTo_value b n (min_le_right e f),
    mul_lt_mul_iff_left₀ (zpow_pos two_pos _), Int.cast_lt]
  exact decide_eq_true_iff

theorem Fp.isNan_iff (x : Fp) : x.isNan = true ↔ x.rank = ⊥ := by
  cases x <;> simp [Fp.isNan, Fp.rank]

/-- Among numbers, the smaller has the lower rank. -/
theorem Fp.lt_iff_rank {x y : Fp} (hx : x.isNan = false) (hy : y.isNan = false) :
    x.lt y = true ↔ x.rank < y.rank := by
  match x, y with
  | .inf a, .inf b => cases a <;> cases b <;> simp [Fp.lt, Fp.rank, -WithBot.coe_top]
  | .inf a, .fin b n f => cases a <;> simp [Fp.lt, Fp.rank]
  | .fin a m e, .inf b => cases b <;> simp [Fp.lt, Fp.rank, -WithBot.coe_top]
  | .fin a m e, .fin b n f => simp [Fp.lt_fin_iff, Fp.rank]

/-! ### The order of experts (R120) -/

/-- The key of a score and an index: the greater rank first, then the lower index. -/
noncomputable def rankKey (a : F32 × Nat) : (WithBot EReal)ᵒᵈ ×ₗ Nat := toLex (.toDual (ofF32 a.1).rank, a.2)

theorem rankKey_lt_iff (a b : F32 × Nat) : rankKey a < rankKey b ↔
    (ofF32 b.1).rank < (ofF32 a.1).rank ∨ (ofF32 a.1).rank = (ofF32 b.1).rank ∧ a.2 < b.2 :=
  Prod.Lex.toLex_lt_toLex

/-- The order of R120 is that of the keys. -/
theorem before_iff (a b : F32 × Nat) : before a b = true ↔ rankKey a < rankKey b := by
  rw [rankKey_lt_iff, before]
  cases hx : (ofF32 a.1).isNan with
  | true =>
    rw [(Fp.isNan_iff _).mp hx]
    simp [Fp.isNan_iff, eq_comm (a := (⊥ : WithBot EReal))]
  | false =>
    have hxr : (ofF32 a.1).rank ≠ ⊥ := fun h => by simp [(Fp.isNan_iff _).mpr h] at hx
    cases hy : (ofF32 b.1).isNan with
    | true => simp [(Fp.isNan_iff _).mp hy, bot_lt_iff_ne_bot, hxr]
    | false =>
      simp only [Bool.false_eq_true, if_false, Fp.lt_iff_rank hy hx, Fp.lt_iff_rank hx hy]
      rcases lt_trichotomy (ofF32 a.1).rank (ofF32 b.1).rank with hlt | heq | hgt
      · simp [hlt, hlt.not_gt, hlt.ne]
      · simp [heq]
      · simp [hgt]

theorem before_trans {a b c : F32 × Nat} (hab : before a b = true) (hbc : before b c = true) : before a c = true :=
  (before_iff a c).mpr (((before_iff a b).mp hab).trans ((before_iff b c).mp hbc))

/-- Of two experts one ranks ahead. -/
theorem before_or_before {a b : F32 × Nat} (h : a.2 ≠ b.2) : before a b = true ∨ before b a = true := by
  rw [before_iff, before_iff]
  refine lt_or_gt_of_ne fun hkey => h ?_
  exact congrArg (fun k => (ofLex k).2) hkey

/-! ### Putting a list into order -/

/-- The sort is the library's insertion sort. -/
theorem sortBy_eq_insertionSort {α : Type} (ahead : α → α → Bool) (l : List α) :
    sortBy ahead l = l.reverse.insertionSort (ahead · ·) := by
  rw [List.insertionSort, List.foldr_reverse, sortBy]
  refine congrArg (fun f => l.foldl f []) (funext fun acc => funext fun x => ?_)
  rw [List.orderedInsert_eq_take_drop]
  simp

theorem sortBy_perm {α : Type} (ahead : α → α → Bool) (l : List α) : (sortBy ahead l).Perm l := by
  rw [sortBy_eq_insertionSort]
  exact (List.perm_insertionSort _ _).trans l.reverse_perm

section Sorted

variable {α : Type} {r : α → α → Prop} [DecidableRel r]

/-- An element that is related to each of a sorted list, one way or the other, goes to a place where it is in order. -/
theorem orderedInsert_pairwise_of_comparable (htrans : ∀ a b c, r a b → r b c → r a c) {x : α} {l : List α}
    (hl : l.Pairwise r) (hx : ∀ y ∈ l, r x y ∨ r y x) : (l.orderedInsert r x).Pairwise r := by
  induction l with
  | nil => simp
  | cons b l ih =>
    obtain ⟨hb, hl⟩ := List.pairwise_cons.mp hl
    obtain ⟨hxb, hx⟩ := List.forall_mem_cons.mp hx
    by_cases h : r x b
    · rw [List.orderedInsert_cons_of_le _ _ h]
      refine .cons (fun c hc => ?_) (.cons hb hl)
      rcases List.mem_cons.mp hc with rfl | hc
      · exact h
      · exact htrans _ _ _ h (hb c hc)
    · rw [List.orderedInsert_of_not_le _ _ h]
      refine .cons (fun c hc => ?_) (ih hl hx)
      rcases (List.mem_orderedInsert r).mp hc with rfl | hc
      · exact hxb.resolve_left h
      · exact hb c hc

/-- A transitive relation sorts a list in which it relates any two places, one way or the other; unlike the library's
lemma for total relations this asks nothing of an element and itself, as befits the strict order of R120. -/
theorem insertionSort_pairwise_of_comparable (htrans : ∀ a b c, r a b → r b c → r a c) {l : List α}
    (hl : l.Pairwise fun a b => r a b ∨ r b a) : (l.insertionSort r).Pairwise r := by
  induction l with
  | nil => simp
  | cons x l ih =>
    obtain ⟨hx, hl⟩ := List.pairwise_cons.mp hl
    exact orderedInsert_pairwise_of_comparable htrans (ih hl) fun y hy => hx y ((List.mem_insertionSort r).mp hy)

end Sorted

/-- Experts with indices of their own are sorted into the order of R120. -/
theorem pairwise_sortBy_before {l : List (F32 × Nat)} (hl : (l.map (·.2)).Nodup) :
    (sortBy before l).Pairwise fun a b => before a b = true := by
  rw [sortBy_eq_insertionSort]
  have hcomp : l.reverse.Pairwise fun a b => before a b = true ∨ before b a = true :=
    List.pairwise_reverse.mpr ((List.pairwise_map.mp hl).imp fun hne => (before_or_before hne).symm)
  exact insertionSort_pairwise_of_comparable (r := fun a b => before a b = true) (fun _ _ _ => before_trans) hcomp

/-! ### Eligible experts (R119) and chosen ones (R118) -/

theorem eligible_one (topg j : Nat) (q : List F32) :
    eligible 1 topg j q = (List.range q.length).map fun e => (q.getD e f32Nan, e) := rfl

/-- The eligible experts are some of the experts, in order. -/
theorem eligible_sublist (g topg j : Nat) (q : List F32) :
    (eligible g topg j q).Sublist ((List.range q.length).map fun e => (q.getD e f32Nan, e)) := by
  unfold eligible
  dsimp only
  split
  · exact List.Sublist.refl _
  · exact List.filter_sublist

theorem nodup_eligible (g topg j : Nat) (q : List F32) : ((eligible g topg j q).map (·.2)).Nodup := by
  refine List.Nodup.sublist ((eligible_sublist g topg j q).map _) ?_
  rw [List.map_map]
  exact List.nodup_range.map fun _ _ h => h

/-- An eligible expert stands with its selection score. -/
theorem eq_of_mem_eligible {g topg j : Nat} {q : List F32} {x : F32 × Nat} (h : x ∈ eligible g topg j q) :
    x = (q.getD x.2 f32Nan, x.2) := by
  obtain ⟨e, _, rfl⟩ := List.mem_map.mp ((eligible_sublist g topg j q).subset h)
  rfl

/-- The `k` experts of a list that come first in the order of R120. -/
def firstAhead (k : Nat) (able : List (F32 × Nat)) : List (F32 × Nat) := (sortBy before able).take k

section FirstOf

variable {k : Nat} {able : List (F32 × Nat)}

theorem length_firstAhead : (firstAhead k able).length = min k able.length := by
  rw [firstAhead, List.length_take, (sortBy_perm before able).length_eq]

theorem mem_of_mem_firstAhead {x : F32 × Nat} (h : x ∈ firstAhead k able) : x ∈ able :=
  (sortBy_perm before able).mem_iff.mp (List.mem_of_mem_take h)

variable (hable : (able.map (·.2)).Nodup)
include hable

theorem nodup_firstAhead : ((firstAhead k able).map (·.2)).Nodup :=
  (((sortBy_perm before able).map _).nodup_iff.mpr hable).sublist ((List.take_sublist k _).map _)

theorem pairwise_firstAhead : (firstAhead k able).Pairwise fun a b => before a b = true :=
  (pairwise_sortBy_before hable).sublist (List.take_sublist k _)

/-- An expert chosen ranks ahead of every one that is not. -/
theorem before_of_notMem_firstAhead {x y : F32 × Nat} (hx : x ∈ firstAhead k able) (hy : y ∈ able)
    (hnot : y ∉ firstAhead k able) : before x y = true := by
  have hsorted := pairwise_sortBy_before hable
  rw [← List.take_append_drop k (sortBy before able)] at hsorted
  have hmem : y ∈ (sortBy before able).take k ++ (sortBy before able).drop k :=
    (List.take_append_drop k _).symm ▸ (sortBy_perm before able).mem_iff.mpr hy
  exact (List.pairwise_append.mp hsorted).2.2 x hx y ((List.mem_append.mp hmem).resolve_left hnot)

end FirstOf

/-- Settles O29: the chosen experts are the first of the eligible ones, sorted by an order that is transitive and tells
any two experts apart. -/
theorem scoreRanksByTheTotalOrder : Obligations.ScoreRanksByTheTotalOrder := by
  refine ⟨fun a b e f => ?_, fun p bias xs => ?_⟩
  · simp only [before]
    cases (ofF32 a).isNan <;> cases (ofF32 b).isNan <;> rfl
  · intro q able chosen
    have hable : (able.map (·.2)).Nodup := nodup_eligible p.g p.topg p.j q
    have hchosen : chosen = (firstAhead p.k able).map (·.2) := rfl
    have hscore {x : F32 × Nat} (hx : x ∈ firstAhead p.k able) : x = (q.getD x.2 f32Nan, x.2) :=
      eq_of_mem_eligible (mem_of_mem_firstAhead hx)
    rw [hchosen]
    refine ⟨?_, nodup_firstAhead hable, fun e he => ?_, ?_, fun e he x hx hnot => ?_, fun hg => ?_⟩
    · rw [List.length_map, length_firstAhead]
    · obtain ⟨x, hx, rfl⟩ := List.mem_map.mp he
      exact hscore hx ▸ mem_of_mem_firstAhead hx
    · refine List.pairwise_map.mpr ((pairwise_firstAhead hable).imp_of_mem fun hx hy h => ?_)
      rwa [← hscore hx, ← hscore hy]
    · obtain ⟨y, hy, rfl⟩ := List.mem_map.mp he
      rw [← hscore hy]
      exact before_of_notMem_firstAhead hable hy hx fun h => hnot (List.mem_map_of_mem h)
    · exact (congrArg (eligible · p.topg p.j q) hg).trans (eligible_one _ _ _)

end Sys2Proof.Machine
end

section
/-! Tags, and the entry of tasks into collectives and exchanges. -/

namespace Sys2Proof.Machine

open Sys2Proof

/-! ### Tags (R129, R130) -/

theorem crc16Bit_lt {c : Nat} (h : c < 2 ^ 16) : crc16Bit c < 2 ^ 16 := by
  unfold crc16Bit
  split
  · exact Nat.xor_lt_two_pow (Nat.mod_lt _ (by decide)) (by decide)
  · omega

theorem crc16_lt (bs : List Byte) : crc16 bs < 2 ^ 16 := by
  refine List.foldlRecOn (motive := (· < 2 ^ 16)) bs _ (by decide) fun c hc b _ => ?_
  refine List.foldlRecOn (motive := (· < 2 ^ 16)) _ _ ?_ fun x hx _ _ => crc16Bit_lt hx
  have hb := b.isLt
  exact Nat.xor_lt_two_pow hc (by omega)

theorem tagCheck_pos (hi : Nat) : 0 < tagCheck hi := by
  unfold tagCheck
  dsimp only
  split <;> omega

theorem tagCheck_lt (hi : Nat) : tagCheck hi < 2 ^ 16 := by
  have hcrc := crc16_lt (beBytes 6 hi)
  unfold tagCheck
  dsimp only
  split <;> omega

/-- Bits [63:16] of a tag. -/
def tagHigh (origin token rank layer : Nat) : Nat :=
  origin * 2 ^ 34 + token * 2 ^ 10 + rank * 2 ^ 6 + layer % 64

theorem makeTag_eq (o k r l : Nat) : makeTag o k r l = tagHigh o k r l * 2 ^ 16 + tagCheck (tagHigh o k r l) := by
  simp only [makeTag, tagHigh, Nat.shiftLeft_eq]

theorem makeTag_ne_zero (o k r l : Nat) : makeTag o k r l ≠ 0 := by
  have hpos := tagCheck_pos (tagHigh o k r l)
  rw [makeTag_eq]
  omega

theorem getBits_makeTag_check (o k r l : Nat) : getBits (makeTag o k r l) 15 0 = tagCheck (tagHigh o k r l) := by
  have hcheck := tagCheck_lt (tagHigh o k r l)
  rw [makeTag_eq, getBits, Nat.shiftRight_zero]
  omega

section Tag

variable {o k r : Nat} (l : Nat) (ho : o < 2 ^ 14) (hk : k < 2 ^ 24) (hr : r < 2 ^ 4)
include ho hk hr

theorem tagHigh_lt : tagHigh o k r l < 2 ^ 48 := by
  unfold tagHigh
  omega

theorem makeTag_lt : makeTag o k r l < 2 ^ 64 := by
  have hhigh := tagHigh_lt l ho hk hr
  have hcheck := tagCheck_lt (tagHigh o k r l)
  rw [makeTag_eq]
  omega

theorem getBits_makeTag_high : getBits (makeTag o k r l) 63 16 = tagHigh o k r l := by
  have hhigh := tagHigh_lt l ho hk hr
  have hcheck := tagCheck_lt (tagHigh o k r l)
  rw [makeTag_eq, getBits, Nat.shiftRight_eq_div_pow]
  omega

/-- A field above CHECK is a field of bits [63:16]. -/
theorem makeTag_fields : tagOrigin (makeTag o k r l) = o ∧ tagToken (makeTag o k r l) = k ∧
    tagRank (makeTag o k r l) = r ∧ tagLayer (makeTag o k r l) = l % 64 := by
  have hcheck := tagCheck_lt (tagHigh o k r l)
  rw [makeTag_eq]
  generalize tagCheck (tagHigh o k r l) = c at hcheck
  simp only [tagOrigin, tagToken, tagRank, tagLayer, tagHigh, getBits, Nat.shiftRight_eq_div_pow]
  refine ⟨?_, ?_, ?_, ?_⟩ <;> omega

end Tag

/-- Settles O31: a tag is bits [63:16] above a check below 2¹⁶. -/
theorem tagsRoundTrip : Obligations.TagsRoundTrip := by
  refine ⟨fun o k r l ho hk hr => ?_, getBits_makeTag_high 13 (by decide) (by decide) (by decide)⟩
  obtain ⟨horigin, htoken, hrank, hlayer⟩ := makeTag_fields l ho hk hr
  refine ⟨horigin, htoken, hrank, hlayer, makeTag_lt l ho hk hr, makeTag_ne_zero o k r l, ?_⟩
  rw [getBits_makeTag_high l ho hk hr]
  exact getBits_makeTag_check o k r l

/-! ### Entry into a collective or an exchange (R369, R370, R387, R390) -/

section Enter

variable {s : State} {q : Nat} {t : Task}

theorem exec_collectiveEnter_xchg {x : Xchg} (hx : s.xchg? q = some x) (ht : s.task? q = some t)
    (hrun : t.phase = .running) (hout : x.entered = false) (hstake : x.stake = true) (hinj : s.injectOpen = true)
    (h : s.halted 13 = false) (h' : s.halting 13 = false) :
    exec (.collectiveEnter q) s = .next (s.quiet.enterXchg t x) := by
  have hc : t.phase = .running ∧ x.entered = false ∧ x.stake = true ∧ s.quiet.injectOpen = true ∧
      ¬ (s.quiet.halted 13 ∨ s.quiet.halting 13) :=
    ⟨hrun, hout, hstake, hinj, (by simp [h, h'] : ¬ (s.halted 13 ∨ s.halting 13))⟩
  have hx' : s.quiet.xchg? q = some x := hx
  have ht' : s.quiet.task? q = some t := ht
  show execCollectiveEnter q s = _
  simp only [execCollectiveEnter, attempt, hx', ht', if_pos hc, Option.getD_some]

/-- A task without an exchange enters the collective of its group. -/
theorem exec_collectiveEnter_task (hx : s.xchg? q = none) :
    exec (.collectiveEnter q) s = .next ((s.quiet.enterTask q).getD s.quiet) := by
  have hx' : s.quiet.xchg? q = none := hx
  show execCollectiveEnter q s = _
  simp only [execCollectiveEnter, attempt, hx']

end Enter

section EnterTask

variable {s : State} {q : Nat} {t : Task} (ht : s.task? q = some t) (hrun : t.phase = .running)
  (hg : collGroup t ≠ none)
include ht hrun hg

/-- A member that holds its stake enters, unless its contribution is poisoned. -/
theorem State.enterTask_of_coll {c : Coll} (hc : s.taskColl q = some c) (hout : c.entered = false)
    (hstake : c.stake = true) (hinj : s.injectOpen = true) (h : s.halted 13 = false) (h' : s.halting 13 = false) :
    s.enterTask q = some (if s.segsPoison (s.collSpec t).ranges then
      (if c.inputs.isEmpty then s.dropColl c else s.setColl { c with task := none, stake := false }).endTask q errPoison 0
      else s.enterColl t c) := by
  have hcond : c.entered = false ∧ c.stake = true ∧ s.injectOpen = true ∧ ¬ (s.halted 13 ∨ s.halting 13) :=
    ⟨hout, hstake, hinj, by simp [h, h']⟩
  have hin : ¬ (t.phase ≠ .running ∨ collGroup t = none) := by simp [hrun, hg]
  simp only [State.enterTask, ht, if_neg hin, hc, if_pos hcond]
  split <;> rfl

/-- A fused form whose contribution is complete opens its collective, unless the contribution is poisoned. -/
theorem State.enterTask_of_fused (hc : s.taskColl q = none) (hop : t.opcode = opDmm)
    (hdone : s.coreWorkDone q = true) :
    s.enterTask q = some (if t.err = errPoison then s.endTask q errPoison 0 else s.openTask t) := by
  have hin : ¬ (t.phase ≠ .running ∨ collGroup t = none) := by simp [hrun, hg]
  simp only [State.enterTask, ht, if_neg hin, hc, if_pos (And.intro hop hdone)]
  split <;> rfl

end EnterTask

/-! ### Phases of `COMBINE.X` (R145) and the peak of the hamper (R149) -/

theorem exec_combinePhase1Start {s : State} {q : Nat} {x : Xchg} {t : Task} (hx : s.xchg? q = some x)
    (ht : s.task? q = some t) (hkind : x.kind = 9) (hab : x.aborted = 0) (hall : x.complete = true)
    (hrun : t.phase = .running) :
    exec (.combinePhase1Start q) s = .next ((s.quiet.runPhases t (s.quiet.tagRows (t.op 1) (t.op 0) ++
      (List.range (t.op 6).d1).map fun i =>
        ⟨((x.tags.find? fun g => g.1 == i).map (·.2)).getD 0, false, t.op 6, i⟩)).settleXchg q) := by
  have hc : x.kind = 9 ∧ x.aborted = 0 ∧ x.complete = true ∧ t.phase = .running := ⟨hkind, hab, hall, hrun⟩
  have hx' : s.quiet.xchg? q = some x := hx
  have ht' : s.quiet.task? q = some t := ht
  show execCombinePhase1Start q s = _
  simp only [execCombinePhase1Start, attempt, hx', ht', if_pos hc, Option.getD_some]

theorem exec_hamperPeakClear {s : State} (hr : s.ready = true) :
    exec .hamperPeakClear s = .next (s.quiet.setFld regDsoHamperPeak 24 0 0) := by
  show execHamperPeakClear s = _
  simp [execHamperPeakClear, attempt, hr]

/-- Settles O34: where the conditions of a command hold, its attempt takes effect; a task on a group enters through
`enterTask`, which looks at the poison of the contribution. -/
theorem collectivesAndExchangesEnter : Obligations.CollectivesAndExchangesEnter := by
  intro s q
  refine ⟨fun x t hx ht => exec_collectiveEnter_xchg hx ht, fun t hx ht hrun hg => ⟨?_, ?_⟩,
    fun x t hx ht => exec_combinePhase1Start hx ht, fun hs hr => ?_⟩
  · intro c hc hout hstake hinj h h'
    have henter := State.enterTask_of_coll (s := s.quiet) ht hrun hg hc hout hstake hinj h h'
    rw [exec_collectiveEnter_task hx, henter]
    refine ⟨fun hclean => ?_, fun hpoison => ⟨fun hin => ?_, fun hin => ?_⟩⟩
    · simp [hclean]
    · simp [hpoison, hin]
    · simp [hpoison, hin]
  · intro hc hop hdone
    have henter := State.enterTask_of_fused (s := s.quiet) ht hrun hg hc hop hdone
    rw [exec_collectiveEnter_task hx, henter]
    exact ⟨fun herr => by simp [herr], fun herr => by simp [herr]⟩
  · have hrise : Rising s.quiet.regs := hs.regs.1
    refine ⟨_, exec_hamperPeakClear hr, ?_, fun i hi _ => ?_, ?_⟩
    · exact State.fld_setFld_same _ _ 24 0 0 hrise (by decide) (by decide)
    · exact State.bit_setFld_other _ _ 24 0 0 i hrise (by decide) (by decide) (.inr hi)
    · exact s.onlyRegs_quiet.trans (s.quiet.onlyRegs_setReg regDsoHamperPeak _ (byteReg_of_lt (by decide)))
        (by simp) fun _ h => h

end Sys2Proof.Machine
end

section
/-! Runs and vector blocks that cores claim and complete, and the items of the Activation Guard. -/

namespace Sys2Proof.Machine

open Sys2Proof

/-- A command whose conditions hold performs its effect. -/
theorem attempt_of_some {s t : State} {f : State → Option State} (h : f s.quiet = some t) : attempt s f = .next t := by
  rw [attempt, h, Option.getD_some]

/-! ### Staging of a run (R174) does not depend on the outputs of the last command -/

@[simp] theorem State.quiet_projWeights (s : State) (t : Task) (up : Bool) (e : Nat) :
    s.quiet.projWeights t up e = s.projWeights t up e := rfl

@[simp] theorem State.quiet_proj (s : State) (t : Task) (p e : Nat) : s.quiet.proj t p e = s.proj t p e := by
  simp only [State.proj, State.quiet_projWeights]
  rfl

@[simp] theorem State.quiet_place (s : State) (a : Nat) : s.quiet.place a = s.place a := rfl

@[simp] theorem State.quiet_runSlot (s : State) (t : Task) (r : Run) : s.quiet.runSlot t r = s.runSlot t r := by
  simp only [State.runSlot, State.quiet_proj, State.quiet_place]

@[simp] theorem State.quiet_slotOf (s : State) (r : Run) : s.quiet.slotOf r = s.slotOf r := by
  have htask : s.quiet.task? r.seq = s.task? r.seq := rfl
  simp only [State.slotOf, htask, State.quiet_runSlot]

/-! ### Runs (R165, R177, R178, R184) -/

/-- The list without the run of one task and place. -/
def State.unlist (s : State) (r : Run) : State :=
  { s with runs := s.runs.filter fun x => !(x.seq == r.seq && x.ord == r.ord) }

section Claim

variable {s : State} {k l : Nat} {r : Run} (hl : s.logical k = some l) (hopen : s.arrayOpen = true)
  (hnext : (s.core k).next = none) (hfirst : s.runs.find? (s.claimable l) = some r)
include hl hopen hnext hfirst

/-- A core that holds a stake and no run takes the first claimable run as its current one. -/
theorem State.claimRun_of_staked (hcur : (s.core k).cur = none) (hstake : (s.core k).stake = true) :
    s.claimRun k = some ((s.unlist r).setCore { s.core k with cur := some r, slot := s.slotOf r }) := by
  simp only [State.claimRun, hl, hopen, hnext, hfirst, hcur, hstake, and_self, if_true, State.unlist]

/-- A core that holds neither asks for a stake as well. -/
theorem State.claimRun_of_unstaked (hcur : (s.core k).cur = none) (hstake : (s.core k).stake = false) :
    s.claimRun k = some (((s.unlist r).setCore
      { s.core k with cur := some r, slot := s.slotOf r }).requestCoreStake r.seq l) := by
  simp only [State.claimRun, hl, hopen, hnext, hfirst, hcur, hstake, and_self, if_true, Bool.false_eq_true, if_false,
    State.unlist]

/-- A core that has a current run takes the first claimable run as its next. -/
theorem State.claimRun_of_busy (hcur : (s.core k).cur ≠ none) :
    s.claimRun k = some ((s.unlist r).setCore { s.core k with next := some r }) := by
  obtain ⟨c, hc⟩ := Option.ne_none_iff_exists'.mp hcur
  simp only [State.claimRun, hl, hopen, hnext, hfirst, hc, and_self, if_true, State.unlist]

end Claim

theorem exec_runClaim {s u : State} {k : Nat} (h : s.quiet.claimRun k = some u) : exec (.runClaim k) s = .next u := by
  show execRunClaim k s = _
  exact attempt_of_some h

/-- The state after the free bytes that a run without its staging slot computes with (R284). -/
def State.afterFreeVals (s : State) (t : Task) (r : Run) : State :=
  if s.stageOk t r.expert then s else { s with free := s.free + 65536 }

theorem State.afterFreeVals_contents (s : State) (t : Task) (r : Run) : (s.afterFreeVals t r).regs = s.regs ∧
    (s.afterFreeVals t r).mem = s.mem ∧ (s.afterFreeVals t r).tasks = s.tasks ∧ (s.afterFreeVals t r).cores = s.cores := by
  unfold State.afterFreeVals
  split <;> exact ⟨rfl, rfl, rfl, rfl⟩

section Complete

variable {s : State} {k : Nat} {r : Run} {t : Task} (hcur : (s.core k).cur = some r) (ht : s.task? r.seq = some t)
  (hstake : (s.core k).stake = true) (hpower : s.power.stopped = false)
include hcur ht hstake hpower

/-- An element-wise run completes. -/
theorem State.completeRun_of_ewise (hproj : r.proj = 2) :
    s.completeRun k = some ((((s.ewRun t r).1.countRun k t.seq (s.ewRun t r).2.1 1 0 (s.ewRun t r).2.2).advanceCore
      k).settleCore t.seq) := by
  simp only [State.completeRun, hcur, ht, hstake, hpower, hproj, and_self, if_true]

/-- An accumulation run completes. -/
theorem State.completeRun_of_matrix (hproj : r.proj ≠ 2) :
    let o := s.computeRun t k r
    s.completeRun k = some ((((((s.afterFreeVals t r).countRun k t.seq o.fallbacks o.ran o.skips o.gated).advanceCore k).note
      t.seq 0 o.part.poisoned).partReady t o.part).settleCore t.seq) := by
  simp only [State.completeRun, hcur, ht, hstake, hpower, and_self, if_true, if_neg hproj, State.afterFreeVals]

end Complete

theorem exec_runComplete {s u : State} {k : Nat} (h : s.quiet.completeRun k = some u) :
    exec (.runComplete k) s = .next u := by
  show execRunComplete k s = _
  exact attempt_of_some h

/-! ### Sums of parts (R181) -/

/-- The parts of a tile, all there, are added from part 0 upward. -/
theorem State.sumParts_of_all {s : State} {t : Task} {tile : Nat} {p : Part} {ps : List Part}
    (hparts : s.rawParts t.seq tile = p :: ps) (hzero : p.run.part = 0) (hall : ps.length + 1 = p.run.parts) :
    s.sumParts t tile = some (({ s with parts := s.parts.filter fun x =>
        !(x.run.seq == t.seq && decide (1 < x.run.parts) && x.run.ord == tile + x.run.part) }.tileReady t
      { run := { p.run with parts := 1 }, core := p.core, vals := ps.foldl (fun a (x : Part) => addRows a x.vals) p.vals,
        poisoned := (p :: ps).any (·.poisoned) }).settleCore t.seq) := by
  have hc : p.run.part = 0 ∧ ps.length + 1 = p.run.parts := ⟨hzero, hall⟩
  simp only [State.sumParts, hparts, if_pos hc]

theorem exec_partialSumStart {s u : State} {q tile : Nat} {t : Task} (ht : s.task? q = some t)
    (hrun : t.phase = .running) (hstopped : s.stopped = false) (hsum : s.quiet.sumParts t tile = some u) :
    exec (.partialSumStart q tile) s = .next u := by
  have hc : t.phase = .running ∧ s.quiet.stopped = false := ⟨hrun, hstopped⟩
  have ht' : s.quiet.task? q = some t := ht
  show execPartialSumStart q tile s = _
  simp only [execPartialSumStart, attempt, ht', if_pos hc, hsum, Option.getD_some]

/-! ### Vector blocks (R170) -/

/-- An idle vector unit takes its next block; a block that falls to another core is counted as ironed. -/
theorem State.claimBlock_of_next {s : State} {k l : Nat} {b : VBlock} (hl : s.logical k = some l)
    (hopen : s.arrayOpen = true) (hidle : (s.core k).vec = none) (hb : s.nextBlock k l = some b) :
    let u := ({ s with vblocks := s.vblocks.erase b }).setCore { s.core k with vec := some b }
    s.claimBlock k = some (if u.blockOwner b.owner = k then u else u.addReg (regCoreIroned k) 1) := by
  simp only [State.claimBlock, hl, hopen, hidle, hb, and_self, if_true]
  rfl

theorem exec_vectorBlockClaim {s u : State} {k : Nat} (h : s.quiet.claimBlock k = some u) :
    exec (.vectorBlockClaim k) s = .next u := by
  show execVectorBlockClaim k s = _
  exact attempt_of_some h

theorem State.completeBlock_of_held {s : State} {k : Nat} {b : VBlock} {t : Task} (hb : (s.core k).vec = some b)
    (ht : s.task? b.seq = some t) (hpower : s.power.stopped = false) :
    s.completeBlock k = some ((((s.runBlock t b).setCore { s.core k with vec := none }).dropPiece b).settleCore
      b.seq) := by
  simp only [State.completeBlock, hb, ht, hpower, Bool.false_eq_true, if_false]

theorem exec_vectorBlockComplete {s u : State} {k : Nat} (h : s.quiet.completeBlock k = some u) :
    exec (.vectorBlockComplete k) s = .next u := by
  show execVectorBlockComplete k s = _
  exact attempt_of_some h

/-! ### The Activation Guard (R205, R215, R217) -/

theorem exec_guardDecision {s : State} {q e blk : Nat} {t : Task} (ht : s.task? q = some t) (hrun : t.phase = .running)
    (hheld : s.heldItems.contains (q, e, blk) = true) (hstopped : s.stopped = false) :
    exec (.guardDecision q e blk) s = .next (s.quiet.takeDecision t e blk) := by
  have hc : t.phase = .running ∧ s.quiet.heldItems.contains (q, e, blk) = true ∧ s.quiet.stopped = false :=
    ⟨hrun, hheld, hstopped⟩
  have ht' : s.quiet.task? q = some t := ht
  show execGuardDecision q e blk s = _
  simp only [execGuardDecision, attempt, ht', if_pos hc, Option.getD_some]

/-- While the guard runs, each slice of a running `XMM` holds one of its first items. -/
theorem State.mem_heldItems {s : State} {t : Task} (ht : t ∈ s.tasks) (hrun : t.phase = .running)
    (hop : t.opcode = opXmm) (hhalting : s.halting 7 = false) (hhalted : s.halted 7 = false) {g : Nat × Nat × Nat}
    (hg : g ∈ (s.guards.filter fun g => g.1 == t.seq).take (ceilDiv (t.grantHi - t.grantLo) 8)) : g ∈ s.heldItems := by
  have hrunning : (s.halting 7 || s.halted 7) = false := by rw [hhalting, hhalted, Bool.or_self]
  have hxmm : (t.phase == .running && t.opcode == opXmm) = true := by simp [hrun, hop]
  rw [State.heldItems, hrunning, if_neg Bool.false_ne_true]
  refine List.mem_flatMap.mpr ⟨t, ht, ?_⟩
  rwa [if_pos hxmm]

/-- Settles O32: each command's attempt takes effect under its conditions, and the items held are those that the slices
of each running `XMM` take from the front of its own. -/
theorem coresClaimAndComplete : Obligations.CoresClaimAndComplete := by
  intro s k
  refine ⟨fun l r hl hopen hnext hfirst => ⟨fun hcur hstake => ?_, fun hcur hstake => ?_, fun hcur => ?_⟩,
    fun r t hcur ht hstake hpower => ⟨fun hproj => ?_, fun hproj => ?_⟩,
    fun q tile t p ps ht hrun hstopped hparts hzero hall => ?_, fun l b hl hopen hidle hb => ?_,
    fun b t hb ht hpower => ?_, fun q e blk t => exec_guardDecision,
    fun t ht hrun hop hhalting hhalted g => State.mem_heldItems ht hrun hop hhalting hhalted⟩
  · have hclaim := State.claimRun_of_staked (s := s.quiet) hl hopen hnext hfirst hcur hstake
    rw [State.quiet_slotOf] at hclaim
    exact exec_runClaim hclaim
  · have hclaim := State.claimRun_of_unstaked (s := s.quiet) hl hopen hnext hfirst hcur hstake
    rw [State.quiet_slotOf] at hclaim
    exact exec_runClaim hclaim
  · exact exec_runClaim (State.claimRun_of_busy (s := s.quiet) hl hopen hnext hfirst hcur)
  · exact exec_runComplete (State.completeRun_of_ewise (s := s.quiet) hcur ht hstake hpower hproj)
  · obtain ⟨hregs, hmem, htasks, hcores⟩ := s.quiet.afterFreeVals_contents t r
    exact ⟨s.quiet.afterFreeVals t r, hregs, hmem, htasks, hcores,
      exec_runComplete (State.completeRun_of_matrix (s := s.quiet) hcur ht hstake hpower hproj)⟩
  · exact exec_partialSumStart ht hrun hstopped (State.sumParts_of_all (s := s.quiet) hparts hzero hall)
  · exact exec_vectorBlockClaim (State.claimBlock_of_next (s := s.quiet) hl hopen hidle hb)
  · exact exec_vectorBlockComplete (State.completeBlock_of_held (s := s.quiet) hb ht hpower)

end Sys2Proof.Machine
end

section
/-! Every step keeps the canonical form of the stored lists (R218, R423, log entry 7). -/

namespace Sys2Proof.Machine

open Sys2Proof

/-- The canonical form speaks of the variant, the registers, memory and the poison marks alone. -/
theorem State.Canonical.congr {s t : State} (h : s.Canonical) (hv : t.variant = s.variant) (hr : t.regs = s.regs)
    (hm : t.mem = s.mem) (hp : t.poison = s.poison) : t.Canonical :=
  ⟨hv ▸ hr ▸ h.regs, hm ▸ h.mem, hp ▸ h.poison⟩

/-- Settles O6: the command at the front keeps the form, and so does the passing of a nanosecond. -/
theorem stepKeepsCanonical : Obligations.StepKeepsCanonical := by
  intro s t hs h
  unfold step at h
  split at h
  · next c rest hq => exact (exec_keeps c { s with pending := rest } t h).canonical (hs.congr rfl rfl rfl rfl)
  · next hq =>
    cases h
    exact (State.tick_keeps s).canonical (hs.congr rfl rfl rfl rfl)

end Sys2Proof.Machine
end

section
/-! The map between the addresses of HBM and the offsets of its channels (R221 to R223). -/

namespace Sys2Proof.Machine

open Sys2Proof

/-! ### Channels by quadrant, stack and place in the stack -/

theorem chansPerQuad_eq (v : Variant) : chansPerQuad v = 32 * stacksPerQuad v := by cases v <;> rfl

theorem stacksPerQuad_pos (v : Variant) : 0 < stacksPerQuad v := by cases v <;> decide

theorem stacksPerQuad_le (v : Variant) : stacksPerQuad v ≤ 3 := by cases v <;> decide

/-- The channel that is the `j`-th of quadrant `q`: the stacks of a quadrant take turns. -/
def quadChannel (v : Variant) (q j : Nat) : Nat := 32 * (3 * q + j % stacksPerQuad v) + j / stacksPerQuad v

section QuadChannel

variable (v : Variant) (q : Nat) {j : Nat} (hj : j < chansPerQuad v)
include hj

theorem quadChannel_div : quadChannel v q j / 32 = 3 * q + j % stacksPerQuad v := by
  have hplace : j / stacksPerQuad v < 32 :=
    Nat.div_lt_of_lt_mul (by rw [Nat.mul_comm, ← chansPerQuad_eq]; exact hj)
  unfold quadChannel
  rw [Nat.mul_add_div (by decide), Nat.div_eq_of_lt hplace, Nat.add_zero]

theorem quadChannel_mod : quadChannel v q j % 32 = j / stacksPerQuad v := by
  have hplace : j / stacksPerQuad v < 32 :=
    Nat.div_lt_of_lt_mul (by rw [Nat.mul_comm, ← chansPerQuad_eq]; exact hj)
  unfold quadChannel
  rw [Nat.mul_add_mod, Nat.mod_eq_of_lt hplace]

theorem quadChannel_quad : quadChannel v q j / 32 / 3 = q := by
  have hstack : j % stacksPerQuad v < stacksPerQuad v := Nat.mod_lt _ (stacksPerQuad_pos v)
  have hle := stacksPerQuad_le v
  rw [quadChannel_div v q hj]
  omega

/-- The place of a channel among those of its quadrant. -/
theorem quadChannel_index : quadChannel v q j % 32 * stacksPerQuad v + quadChannel v q j / 32 % 3 = j := by
  have hstack : j % stacksPerQuad v < stacksPerQuad v := Nat.mod_lt _ (stacksPerQuad_pos v)
  have hle := stacksPerQuad_le v
  have hthird : (3 * q + j % stacksPerQuad v) % 3 = j % stacksPerQuad v := by omega
  rw [quadChannel_mod v q hj, quadChannel_div v q hj, hthird]
  exact Nat.div_add_mod' j _

theorem quadChannel_lt (hq : q < 4) : quadChannel v q j < 384 := by
  have hstack : j % stacksPerQuad v < stacksPerQuad v := Nat.mod_lt _ (stacksPerQuad_pos v)
  have hle := stacksPerQuad_le v
  have hdiv := quadChannel_div v q hj
  omega

theorem channelPresent_quadChannel (hq : q < 4) : channelPresent v (quadChannel v q j) = true := by
  have hlt := quadChannel_lt v q hj hq
  have hdiv := quadChannel_div v q hj
  unfold channelPresent
  cases v with
  | fd880 => simp [hlt]
  | fd860 =>
    have hstack : j % stacksPerQuad .fd860 < 2 := Nat.mod_lt _ (by decide)
    have hthird : quadChannel .fd860 q j / 32 % 3 ≠ 2 := by omega
    simp [hlt, hthird]

end QuadChannel

/-! ### The two interleaves (R222, R223) -/

/-- The bytes of a near region under a number of near units. -/
def nearBytes (v : Variant) (units : Nat) : Nat := units * 32000000 * chansPerQuad v

/-- A near region holds whole granules. -/
theorem nearBytes_eq (v : Variant) (units : Nat) : nearBytes v units = 256 * (units * 125000 * chansPerQuad v) := by
  unfold nearBytes
  ring

theorem channelAt_near (v : Variant) (units : Nat) {a q : Nat} (hq : q < 4) (hlo : q * nearBytes v units ≤ a)
    (hhi : a < (q + 1) * nearBytes v units) :
    channelAt v units a =
      (quadChannel v q ((a - q * nearBytes v units) / 256 % chansPerQuad v),
        (a - q * nearBytes v units) / 256 / chansPerQuad v * 256 + a % 256) := by
  have hregion : a / nearBytes v units = q := Nat.div_eq_of_lt_le hlo hhi
  have hnear : a < 4 * nearBytes v units := hhi.trans_le (Nat.mul_le_mul_right _ hq)
  unfold channelAt
  dsimp only
  rw [← nearBytes, if_pos hnear, hregion]
  rfl

theorem channelAt_far (v : Variant) (units : Nat) {a : Nat} (h : 4 * nearBytes v units ≤ a) :
    channelAt v units a =
      (quadChannel v ((a - 4 * nearBytes v units) / 256 % (4 * chansPerQuad v) % 4)
          ((a - 4 * nearBytes v units) / 256 % (4 * chansPerQuad v) / 4),
        units * 32000000 + (a - 4 * nearBytes v units) / 256 / (4 * chansPerQuad v) * 256 + a % 256) := by
  unfold channelAt
  dsimp only
  rw [← nearBytes, if_neg (Nat.not_lt.mpr h)]
  rfl

/-- An address lies in one of the near regions or in the far region. -/
theorem near_or_far (v : Variant) (units a : Nat) :
    (∃ q < 4, q * nearBytes v units ≤ a ∧ a < (q + 1) * nearBytes v units) ∨ 4 * nearBytes v units ≤ a := by
  rcases Nat.lt_or_ge a (4 * nearBytes v units) with h | h
  · have hpos : 0 < nearBytes v units := by omega
    refine .inl ⟨a / nearBytes v units, Nat.div_lt_of_lt_mul (by rwa [Nat.mul_comm]), Nat.div_mul_le_self _ _, ?_⟩
    exact (Nat.div_lt_iff_lt_mul hpos).mp (Nat.lt_succ_self _)
  · exact .inr h

theorem chansPerQuad_pos (v : Variant) : 0 < chansPerQuad v := by cases v <;> decide

/-- Granules of a near region lie below the near part of their channel. -/
theorem near_granule_lt {v : Variant} {units q a : Nat} (hlo : q * nearBytes v units ≤ a)
    (hhi : a < (q + 1) * nearBytes v units) :
    (a - q * nearBytes v units) / 256 / chansPerQuad v < units * 125000 := by
  rw [Nat.div_lt_iff_lt_mul (chansPerQuad_pos v), Nat.div_lt_iff_lt_mul (by decide), Nat.mul_comm _ 256, ← nearBytes_eq]
  rw [Nat.add_mul, Nat.one_mul] at hhi
  omega

/-- Whole near regions below an address leave its place in its granule. -/
theorem sub_nearBytes_mod {v : Variant} {units a : Nat} (k : Nat) (h : k * nearBytes v units ≤ a) :
    (a - k * nearBytes v units) % 256 = a % 256 := by
  rw [nearBytes_eq, Nat.mul_left_comm] at h ⊢
  exact Nat.sub_mul_mod h

/-! ### The way back -/

theorem addressOf_near (v : Variant) (units q : Nat) {j off : Nat} (hj : j < chansPerQuad v)
    (h : off < units * 32000000) :
    addressOf v units (quadChannel v q j) off =
      q * nearBytes v units + 256 * (off / 256 * chansPerQuad v + j) + off % 256 := by
  unfold addressOf
  dsimp only
  rw [if_pos h, quadChannel_quad v q hj, quadChannel_index v q hj]
  rfl

theorem addressOf_far (v : Variant) (units q : Nat) {j off : Nat} (hj : j < chansPerQuad v)
    (h : units * 32000000 ≤ off) :
    addressOf v units (quadChannel v q j) off =
      4 * nearBytes v units + 256 * ((off - units * 32000000) / 256 * (4 * chansPerQuad v) + 4 * j + q) + off % 256 := by
  unfold addressOf
  dsimp only
  rw [if_neg (Nat.not_lt.mpr h), quadChannel_quad v q hj, quadChannel_index v q hj]
  rfl

/-- The address can be had back from its channel and channel offset. -/
theorem addressOf_channelAt (v : Variant) (units a : Nat) :
    addressOf v units (channelAt v units a).1 (channelAt v units a).2 = a := by
  rcases near_or_far v units a with ⟨q, hq, hlo, hhi⟩ | hfar
  · have hgranule := near_granule_lt hlo hhi
    have hrest := sub_nearBytes_mod q hlo
    have hindex := Nat.div_add_mod' ((a - q * nearBytes v units) / 256) (chansPerQuad v)
    rw [channelAt_near v units hq hlo hhi]
    dsimp only
    rw [addressOf_near v units q (Nat.mod_lt _ (chansPerQuad_pos v)) (by omega), Nat.mul_comm _ 256,
      Nat.mul_add_div (by decide), Nat.mul_add_mod, Nat.mod_mod, Nat.div_eq_of_lt (Nat.mod_lt a (by decide)),
      Nat.add_zero, hindex, ← hrest]
    omega
  · have hrest := sub_nearBytes_mod 4 hfar
    have hpos : 0 < 4 * chansPerQuad v := Nat.mul_pos (by decide) (chansPerQuad_pos v)
    have hindex := Nat.div_add_mod' ((a - 4 * nearBytes v units) / 256) (4 * chansPerQuad v)
    have hj : (a - 4 * nearBytes v units) / 256 % (4 * chansPerQuad v) / 4 < chansPerQuad v :=
      Nat.div_lt_of_lt_mul (Nat.mod_lt _ hpos)
    rw [channelAt_far v units hfar]
    dsimp only
    have hplace : (units * 32000000 + (a - 4 * nearBytes v units) / 256 / (4 * chansPerQuad v) * 256 + a % 256) % 256 =
        a % 256 := by omega
    rw [addressOf_far v units _ hj (by omega), hplace, Nat.add_assoc (units * 32000000), Nat.add_sub_cancel_left,
      Nat.mul_comm _ 256, Nat.mul_add_div (by decide), Nat.div_eq_of_lt (Nat.mod_lt a (by decide)), Nat.add_zero]
    generalize (a - 4 * nearBytes v units) / 256 / (4 * chansPerQuad v) = k at *
    generalize k * (4 * chansPerQuad v) = whole at *
    omega

/-- Below the capacity the channel exists and the offset lies within its 2,000,000,000 bytes. -/
theorem channelAt_present (v : Variant) {units a : Nat} (hunits : units ≤ 62) (ha : a < capacity v) :
    channelPresent v (channelAt v units a).1 = true ∧ (channelAt v units a).2 < 2000000000 := by
  rcases near_or_far v units a with ⟨q, hq, hlo, hhi⟩ | hfar
  · have hgranule := near_granule_lt hlo hhi
    rw [channelAt_near v units hq hlo hhi]
    exact ⟨channelPresent_quadChannel v q (Nat.mod_lt _ (chansPerQuad_pos v)) hq, by dsimp only; omega⟩
  · have hpos : 0 < 4 * chansPerQuad v := Nat.mul_pos (by decide) (chansPerQuad_pos v)
    have hgranule : (a - 4 * nearBytes v units) / 256 / (4 * chansPerQuad v) < 7812500 - units * 125000 := by
      rw [Nat.div_lt_iff_lt_mul hpos, Nat.div_lt_iff_lt_mul (by decide)]
      unfold nearBytes
      cases v <;> (simp only [chansPerQuad, capacity] at ha ⊢; omega)
    rw [channelAt_far v units hfar]
    exact ⟨channelPresent_quadChannel v _ (Nat.div_lt_of_lt_mul (Nat.mod_lt _ hpos)) (Nat.mod_lt _ (by decide)),
      by dsimp only; omega⟩

/-- The worked example after R223, at the addresses that fit its distances (log entry 30). -/
theorem channelAt_workedExample :
    channelAt .fd880 16 196609000000 = (32 * 7 + 5, 512002624) ∧
      channelAt .fd880 16 49153000000 = (32 * 3 + 22, 10304) := by
  decide +kernel

/-- Settles O37: each interleave is an equation of `channelAt`, and `addressOf` walks it back. -/
theorem channelMapIsOneToOne : Obligations.ChannelMapIsOneToOne := by
  refine ⟨fun s a => ⟨fun hfar => channelAt_far s.variant _ hfar, fun q hq hlo hhi => channelAt_near s.variant _ hq hlo hhi,
    addressOf_channelAt s.variant _ a, channelAt_present s.variant⟩, fun s hv hunits => ?_⟩
  unfold State.channelOf State.nearUnits
  rw [hv, hunits]
  exact channelAt_workedExample

end Sys2Proof.Machine
end

section
/-! Region entries, the base of the Cadastre table and the banks of programs (R224, R228 to R230, R239). -/

namespace Sys2Proof.Machine

open Sys2Proof

/-! ### Registers of the Cadastre -/

/-- A row names no offset below its base and none past its last word. -/
theorem RegRow.index_range {r : RegRow} {off : Nat} (h : (r.index off).isSome = true) :
    r.base ≤ off ∧ off ≤ r.base + (r.count2 - 1) * r.stride2 + (r.count - 1) * r.stride := by
  unfold RegRow.index at h
  dsimp only at h
  split at h
  · cases h
  · next hlo =>
    split at h
    · next hin =>
      obtain ⟨hgroup, hwhole, hplace⟩ := hin
      have hd := Nat.div_add_mod' (off - r.base) r.stride2
      have hx := Nat.div_add_mod' ((off - r.base) % r.stride2) r.stride
      have h2 : (off - r.base) / r.stride2 * r.stride2 ≤ (r.count2 - 1) * r.stride2 :=
        Nat.mul_le_mul_right _ (by omega)
      have h1 : (off - r.base) % r.stride2 / r.stride * r.stride ≤ (r.count - 1) * r.stride :=
        Nat.mul_le_mul_right _ (by omega)
      omega
    · cases h

/-- A row that resets to 0, or whose words all lie outside the Cadastre's table base, counters and entries. -/
def RegRow.besideCadastre (r : RegRow) : Bool :=
  (r.r880 == 0 && r.r860 == 0 && r.base != regCoreMap 0) || decide (0x605000 ≤ r.base) ||
    decide (r.base + (r.count2 - 1) * r.stride2 + (r.count - 1) * r.stride < regCadTableBase)

theorem regTable_besideCadastre : ∀ r ∈ regTable, r.besideCadastre = true := by decide +kernel

/-- The table's base, the counters and the region and image entries of the Cadastre reset to 0. -/
theorem resetWord_cadastre (v : Variant) {o : Nat} (hlo : regCadTableBase ≤ o) (hhi : o < 0x605000) :
    resetWord v o = 0 := by
  unfold resetWord
  split
  · rfl
  · next r hr =>
    have hnamed : (r.index o).isSome = true := List.find?_some (p := fun r : RegRow => (r.index o).isSome) hr
    have hrange := RegRow.index_range hnamed
    have hbeside := regTable_besideCadastre r (List.mem_of_find?_eq_some hr)
    simp only [RegRow.besideCadastre, Bool.or_eq_true, Bool.and_eq_true, beq_iff_eq, bne_iff_ne, decide_eq_true_eq] at hbeside
    have hzero : (r.r880 = 0 ∧ r.r860 = 0) ∧ r.base ≠ regCoreMap 0 := by omega
    obtain ⟨⟨h880, h860⟩, hbase⟩ := hzero
    rw [if_neg hbase, h880, h860]
    cases v <;> rfl

theorem State.reg0_eq_reg (s : State) {o : Nat} (hlo : regCadTableBase ≤ o) (hhi : o < 0x605000) :
    s.reg0 o = s.reg o := by
  simp only [State.reg0, State.reg, resetWord_cadastre s.variant hlo hhi]

theorem State.reg0_wregion (s : State) {i : Nat} (hi : i < 256) :
    s.reg0 (regCadWregion i) = s.reg (regCadWregion i) :=
  s.reg0_eq_reg (by simp only [regCadTableBase, regCadWregion]; omega) (by simp only [regCadWregion]; omega)

theorem State.reg0_wregionHi (s : State) {i : Nat} (hi : i < 256) :
    s.reg0 (regCadWregionHi i) = s.reg (regCadWregionHi i) :=
  s.reg0_eq_reg (by simp only [regCadTableBase, regCadWregionHi]; omega) (by simp only [regCadWregionHi]; omega)

theorem State.reg0_setReg_other (s : State) (off v : Nat) {o : Nat} (ho : o ≠ off) :
    (s.setReg off v).reg0 o = s.reg0 o := by
  simp only [State.reg0, s.mapGet_setReg_other off v o ho]

/-- Bytes outside the Cadastre table depend on no region entry, and on the table's base only where a table stood. -/
theorem State.sameOutsideTable_of {s t : State} (hmem : t.mem = s.mem) (hodl : t.odl = s.odl)
    (hwindow : t.reg0 regOdlCwBase = s.reg0 regOdlCwBase)
    (htable : s.reg0 regCadTableBase = 0 ∨ t.reg0 regCadTableBase = s.reg0 regCadTableBase ∧ t.variant = s.variant) :
    s.SameOutsideTable t := by
  intro a ha
  have hs : ¬ (s.reg0 regCadTableBase ≠ 0 ∧ s.reg0 regCadTableBase ≤ a ∧
      a < s.reg0 regCadTableBase + tableBytes s.variant) := by
    rcases htable with h | ⟨h, hv⟩
    · exact fun g => g.1 h
    · rwa [h, hv] at ha
  unfold State.rd State.memKey
  dsimp only
  rw [if_neg ha, if_neg hs, hmem, hodl, hwindow]

/-- The frame of a region entry set. -/
theorem State.onlyRegsBesideTable_setReg (s : State) {i : Nat} (hi : i < 256) (v : Nat) :
    s.OnlyRegsBesideTable (s.quiet.setReg (regCadWregion i) v) [regCadWregion i] := by
  refine ⟨fun o ho => s.quiet.reg_setReg_other _ _ _ (by simpa using ho), State.sameOutsideTable_of rfl rfl ?_ (.inr ⟨?_, rfl⟩),
    rfl⟩
  · exact s.quiet.reg0_setReg_other _ _ (by simp only [regOdlCwBase, regCadWregion]; omega)
  · exact s.quiet.reg0_setReg_other _ _ (by simp only [regCadTableBase, regCadWregion]; omega)

/-! ### Writes taken and refused -/

@[simp] theorem State.quiet_regionValid (s : State) (i : Nat) : s.quiet.regionValid i = s.regionValid i := rfl

theorem State.whWrite_of_halted {s : State} {f : Nat} (h : s.halted f = true) (act : State → State) :
    s.whWrite f act = act s := by
  simp [State.whWrite, h]

/-- A command that ends in REGION_REJECT sets that bit and changes nothing else. -/
theorem regionRejected_of_exec {c : Instr} {s : State} (hs : s.Canonical)
    (hx : exec c s = .next s.quiet.regionReject) :
    ∃ t, exec c s = .next t ∧ t.bit regCadStatus 3 = true ∧ s.OnlyRegs t [regCadStatus] := by
  have hrise : Rising s.quiet.regs := hs.regs.1
  have honly := s.onlyRegs_quiet.trans (s.quiet.onlyRegs_setBit_status 8 3 true) nofun fun _ h => h
  exact ⟨_, hx, s.quiet.bit_setBit_same _ 3 true hrise (by decide), honly⟩

/-! ### Region entries (R228, R229) -/

section RegionSet

variable {s : State} {i v : Nat}

theorem State.regionSet_of_valid (h : s.regionValid i = true) :
    s.regionSet i v = if getBits v 23 0 = s.regionFirst i then s else s.regionReject := by
  simp only [State.regionSet, h, if_true]

theorem State.regionSet_of_free (h : s.regionValid i = false) (hpages : s.regionPages i ≠ 0)
    (hfree : s.pagesFree (getBits v 23 0) (s.regionPages i) = true) :
    s.regionSet i v = s.setReg (regCadWregion i) (v &&& regionMask) := by
  simp [State.regionSet, h, hpages, hfree]

theorem State.regionSet_of_taken (h : s.regionValid i = false)
    (htaken : s.regionPages i = 0 ∨ s.pagesFree (getBits v 23 0) (s.regionPages i) = false) :
    s.regionSet i v = s.regionReject := by
  have hn : ¬ (s.regionPages i ≠ 0 ∧ s.pagesFree (getBits v 23 0) (s.regionPages i) = true) := fun ⟨h0, hfree⟩ =>
    htaken.elim h0 fun h => Bool.noConfusion (h.symm.trans hfree)
  simp [State.regionSet, h, hn]

end RegionSet

/-- A region that keeps VALID: a task names an operand in it, a device area lies in it, or it is SEALED (R229). -/
def State.regionInUse (s : State) (i : Nat) : Bool :=
  let lo := 65536 * s.regionFirst i
  let n := 65536 * s.regionPages i
  (s.tasks.any fun t => match layout t.opcode t.form with
    | none => false
    | some l => (namedOps l t).any fun o => (spansOf o.desc o.role.weight).any fun p => rangesMeet p.1 p.2 lo n)
  || (s.deviceAreas.any fun r => rangesMeet r.1 r.2 lo n) || s.regionSealed i

theorem State.regionClear_of_valid {s : State} {i v : Nat} (h : s.regionValid i = true) :
    s.regionClear i v =
      if s.regionInUse i then s.regionReject else s.setReg (regCadWregion i) (getBits v 23 0) :=
  if_pos h

theorem State.regionInUse_iff (s : State) (i : Nat) :
    s.regionInUse i = true ↔
      (∃ t ∈ s.tasks, ∃ l, layout t.opcode t.form = some l ∧ ∃ o ∈ namedOps l t, ∃ p ∈ spansOf o.desc o.role.weight,
        rangesMeet p.1 p.2 (65536 * s.regionFirst i) (65536 * s.regionPages i) = true) ∨
      (∃ r ∈ s.deviceAreas, rangesMeet r.1 r.2 (65536 * s.regionFirst i) (65536 * s.regionPages i) = true) ∨
      s.regionSealed i = true := by
  simp only [State.regionInUse, Bool.or_eq_true, List.any_eq_true, or_assoc]
  refine or_congr (exists_congr fun t => and_congr_right fun _ => ?_) Iff.rfl
  cases layout t.opcode t.form with
  | none => simp
  | some l => simp

/-- A region entry reads as it was set. -/
theorem State.reg0_setReg_wregion {s : State} (h : Rising s.regs) {i : Nat} (hi : i < 256) {v : Nat} (hv : v < 2 ^ 64) :
    (s.setReg (regCadWregion i) v).reg0 (regCadWregion i) = v :=
  (State.reg0_wregion _ hi).trans (s.reg_setReg_same _ _ h hv)

theorem State.regionPages_setReg_wregion (s : State) (i j v : Nat) :
    (s.setReg (regCadWregion i) v).regionPages j = s.regionPages j := by
  unfold State.regionPages
  rw [s.reg0_setReg_other _ _ (by simp only [regCadWregion, regCadWregionHi]; omega)]

/-- The writable bits of a region entry: VALID and FIRST_PAGE are as written, SEALED is clear. -/
theorem and_regionMask (v : Nat) :
    bitOf (v &&& regionMask) 63 = bitOf v 63 ∧ bitOf (v &&& regionMask) 62 = false ∧
      getBits (v &&& regionMask) 23 0 = getBits v 23 0 := by
  have hvalid : regionMask.testBit 63 = true := by decide
  have hsealed : regionMask.testBit 62 = false := by decide
  have hfirst : regionMask % 2 ^ 24 = 2 ^ 24 - 1 := by decide
  refine ⟨?_, ?_, ?_⟩
  · rw [bitOf_eq_testBit, bitOf_eq_testBit, Nat.testBit_and, hvalid, Bool.and_true]
  · rw [bitOf_eq_testBit, Nat.testBit_and, hsealed, Bool.and_false]
  · show (v &&& regionMask) % 2 ^ 24 = v % 2 ^ 24
    rw [Nat.and_mod_two_pow, hfirst, Nat.and_two_pow_sub_one_eq_mod, Nat.mod_mod]

/-- A number of 24 bits has no bit 63, and is its own FIRST_PAGE. -/
theorem getBits_first (v : Nat) : bitOf (getBits v 23 0) 63 = false ∧ getBits (getBits v 23 0) 23 0 = getBits v 23 0 := by
  have hlt : getBits v 23 0 < 2 ^ 24 := getBits_lt v 23 0
  refine ⟨?_, Nat.mod_eq_of_lt hlt⟩
  rw [bitOf_eq_testBit]
  exact Nat.testBit_lt_two_pow (hlt.trans_le (by decide))

/-- A write that clears VALID of a VALID entry, while the Cadastre is halted. -/
theorem exec_regionValidClear_of_halted {s : State} {i : Nat} (hr : s.ready = true) (hh : s.halted 8 = true)
    (hi : i < 256) (hvalid : s.regionValid i = true) :
    exec (.regionValidClear i) s = .next (if s.regionInUse i then s.quiet.regionReject
      else s.quiet.setReg (regCadWregion i) (s.regionFirst i)) := by
  obtain ⟨hclear, hfirst⟩ := getBits_first (s.reg0 (regCadWregion i))
  have hclear' : ¬ bitOf (s.quiet.regionFirst i) 63 = true := Bool.eq_false_iff.mp hclear
  have hfirst' : getBits (s.quiet.regionFirst i) 23 0 = s.regionFirst i := hfirst
  rw [exec_regionValidClear hr hi, State.writeRegionLow, State.whWrite_of_halted (s := s.quiet) hh, if_neg hclear',
    State.regionClear_of_valid (s := s.quiet) hvalid, hfirst']
  rfl

/-- Settles O35: with the Cadastre halted the two commands are `regionSet` and `regionClear`, branch by branch. -/
theorem regionsAreSetAndCleared : Obligations.RegionsAreSetAndCleared := by
  intro s i v hs hr hh hi
  dsimp only
  have hrise : Rising s.quiet.regs := hs.regs.1
  refine ⟨fun hv => ?_, fun hvalid hfree => ?_, fun hvalid hused => ?_⟩
  · have hx : exec (.regionValidSet i v) s = .next (s.quiet.regionSet i v.toNat) := by
      rw [exec_regionValidSet hr hi hv, State.writeRegionLow, State.whWrite_of_halted (s := s.quiet) hh, hv]
      rfl
    refine ⟨fun hinvalid hpages hfree => ?_, fun hinvalid htaken => ?_, fun hvalid hfirst => ?_, fun hvalid hfirst => ?_⟩
    · rw [State.regionSet_of_free (s := s.quiet) hinvalid hpages hfree] at hx
      obtain ⟨hset, hsealed, hplace⟩ := and_regionMask v.toNat
      have hword := State.reg0_setReg_wregion hrise hi (Nat.and_lt_two_pow v.toNat (y := regionMask) (n := 64) (by decide))
      refine ⟨_, hx, ?_, ?_, ?_, s.quiet.regionPages_setReg_wregion i i _, s.onlyRegsBesideTable_setReg hi _⟩
      · rw [State.regionValid, hword, hset, hv]
      · rw [State.regionSealed, hword, hsealed]
      · rw [State.regionFirst, hword, hplace]
    · rw [State.regionSet_of_taken (s := s.quiet) hinvalid htaken] at hx
      exact regionRejected_of_exec hs hx
    · rw [hx, State.regionSet_of_valid (s := s.quiet) hvalid]
      exact congrArg _ (if_pos hfirst)
    · rw [State.regionSet_of_valid (s := s.quiet) hvalid] at hx
      exact regionRejected_of_exec hs (hx.trans (congrArg _ (if_neg hfirst)))
  · have hx := exec_regionValidClear_of_halted hr hh hi hvalid
    rw [if_neg fun h => hfree ((s.regionInUse_iff i).mp h)] at hx
    obtain ⟨hclear, hfirst⟩ := getBits_first (s.reg0 (regCadWregion i))
    have hword := State.reg0_setReg_wregion hrise hi (v := s.regionFirst i)
      ((getBits_lt _ 23 0).trans (by decide))
    refine ⟨_, hx, ?_, ?_, s.onlyRegsBesideTable_setReg hi _⟩
    · rw [State.regionValid, hword]
      exact hclear
    · rw [State.regionFirst, hword]
      exact hfirst
  · have hx := exec_regionValidClear_of_halted hr hh hi hvalid
    rw [if_pos ((s.regionInUse_iff i).mpr hused)] at hx
    exact regionRejected_of_exec hs hx

/-! ### The table's base (R239) -/

/-- A base that CAD_TABLE_BASE takes: pages of its own that are FREE, while none is set. -/
def State.TableBaseOk (s : State) (v : Nat) : Prop :=
  v ≠ 0 ∧ v % 65536 = 0 ∧ s.reg regCadTableBase = 0 ∧ s.pagesFree (v / 65536) (ceilDiv (tableBytes s.variant) 65536) = true

/-- The pages of the table fit PAGES of a region entry. -/
theorem tablePages_fit (v : Variant) :
    getBits (ceilDiv (tableBytes v) 65536) 31 0 = ceilDiv (tableBytes v) 65536 := by
  cases v <;> decide

/-- The table set up in region entry `i`: the first heat epoch begins. -/
def State.setTable (s : State) (i v : Nat) : State :=
  let s1 := (s.setReg (regCadWregionHi i) (ceilDiv (tableBytes s.variant) 65536)).setReg (regCadWregion i)
    (2 ^ 63 + v / 65536)
  { s1.setReg regCadTableBase v with sched := { s1.sched with heatAt := s.time } }

/-- The state with another record of the Scheduler. -/
def State.withSched (s : State) (x : Sched) : State := { s with sched := x }

@[simp] theorem State.withSched_reg (s : State) (x : Sched) (o : Nat) : (s.withSched x).reg o = s.reg o :=
  State.reg_congr rfl rfl o

theorem State.withSched_setReg (s : State) (x : Sched) (off v : Nat) :
    (s.setReg off v).withSched x = (s.withSched x).setReg off v := rfl

theorem State.setTable_eq (s : State) (i v : Nat) :
    s.setTable i v = (((s.withSched { s.sched with heatAt := s.time }).setReg (regCadWregionHi i)
      (ceilDiv (tableBytes s.variant) 65536)).setReg (regCadWregion i) (2 ^ 63 + v / 65536)).setReg regCadTableBase v := by
  rw [← State.withSched_setReg, ← State.withSched_setReg, ← State.withSched_setReg]
  rfl

section SetTable

variable (s : State) (i v : Nat) {o : Nat} (h1 : o ≠ regCadTableBase) (h2 : o ≠ regCadWregion i)
  (h3 : o ≠ regCadWregionHi i)
include h1 h2 h3

theorem State.setTable_reg0_other : (s.setTable i v).reg0 o = s.reg0 o := by
  rw [State.setTable_eq, State.reg0_setReg_other _ _ _ h1, State.reg0_setReg_other _ _ _ h2,
    State.reg0_setReg_other _ _ _ h3]
  rfl

theorem State.setTable_reg_other : (s.setTable i v).reg o = s.reg o := by
  rw [State.setTable_eq, State.reg_setReg_other _ _ _ _ h1, State.reg_setReg_other _ _ _ _ h2,
    State.reg_setReg_other _ _ _ _ h3, State.withSched_reg]

end SetTable

/-- What the table's setting up leaves in its three registers. -/
theorem State.setTable_regs {s : State} (h : Rising s.regs) {i : Nat} (hi : i < 256) {v : Nat} (hv : v < 2 ^ 40) :
    (s.setTable i v).reg regCadTableBase = v ∧ (s.setTable i v).reg0 (regCadWregion i) = 2 ^ 63 + v / 65536 ∧
      (s.setTable i v).reg0 (regCadWregionHi i) = ceilDiv (tableBytes s.variant) 65536 := by
  have hhi := (s.withSched { s.sched with heatAt := s.time }).setReg_rising (regCadWregionHi i)
    (ceilDiv (tableBytes s.variant) 65536) h
  have hlo := State.setReg_rising _ (regCadWregion i) (2 ^ 63 + v / 65536) hhi
  have hpages : ceilDiv (tableBytes s.variant) 65536 < 2 ^ 64 := by cases s.variant <;> decide
  have hne1 : regCadWregion i ≠ regCadTableBase := by simp only [regCadWregion, regCadTableBase]; omega
  have hne2 : regCadWregionHi i ≠ regCadTableBase := by simp only [regCadWregionHi, regCadTableBase]; omega
  have hne3 : regCadWregionHi i ≠ regCadWregion i := by simp only [regCadWregionHi, regCadWregion]; omega
  rw [State.setTable_eq]
  refine ⟨State.reg_setReg_same _ _ _ hlo (by omega), ?_, ?_⟩
  · rw [State.reg0_setReg_other _ _ _ hne1, State.reg0_setReg_wregion hhi hi (by omega)]
  · rw [State.reg0_setReg_other _ _ _ hne2, State.reg0_setReg_other _ _ _ hne3, State.reg0_wregionHi _ hi]
    exact State.reg_setReg_same (s.withSched _) _ _ h hpages

/-- FREE pages lie below the capacity. -/
theorem State.pagesFree_lt {s : State} {lo n : Nat} (h : s.pagesFree lo n = true) : 65536 * (lo + n) < 2 ^ 40 := by
  have hlimit : 65536 * (lo + n) ≤ s.allocLimit := by
    simp only [State.pagesFree, Bool.and_eq_true, decide_eq_true_eq] at h
    exact h.1.1
  have hcapacity : capacity s.variant < 2 ^ 40 := by cases s.variant <;> decide
  unfold State.allocLimit at hlimit
  omega

section TableBase

variable {s : State} (hr : s.ready = true) (hh : s.halted 8 = true) (v : Word)
include hr hh

theorem exec_cadTableBaseWrite_of_ok {i : Nat} (hi : i < 256) (hinvalid : s.regionValid i = false)
    (hfirst : ∀ k, k < i → s.regionValid k = true) (hok : s.TableBaseOk v.toNat) :
    exec (.cadTableBaseWrite v) s = .next (s.quiet.setTable i v.toNat) := by
  have hfind : ((List.range 256).find? fun i => !s.quiet.regionValid i) = some i :=
    List.find?_range_eq_some.mpr ⟨by rw [State.quiet_regionValid, hinvalid]; rfl, List.mem_range.mpr hi,
      fun k hk => by rw [State.quiet_regionValid, hfirst k hk]; rfl⟩
  rw [exec_cadTableBaseWrite hr, State.writeTableBase, State.whWrite_of_halted (s := s.quiet) hh]
  dsimp only
  rw [hfind]
  exact congrArg _ (if_pos hok)

theorem exec_cadTableBaseWrite_of_refused
    (hno : ¬ s.TableBaseOk v.toNat ∨ ∀ k, k < 256 → s.regionValid k = true) :
    exec (.cadTableBaseWrite v) s = .next s.quiet.regionReject := by
  rw [exec_cadTableBaseWrite hr, State.writeTableBase, State.whWrite_of_halted (s := s.quiet) hh]
  dsimp only
  split
  · next i hfind =>
    rcases hno with hno | hfull
    · exact congrArg _ (if_neg hno)
    · obtain ⟨hinvalid, hmem, _⟩ := List.find?_range_eq_some.mp hfind
      rw [State.quiet_regionValid, hfull i (List.mem_range.mp hmem)] at hinvalid
      cases hinvalid
  · rfl

end TableBase

/-! ### PROG_MIB (R224) -/

section ProgMib

variable {s : State} (hr : s.ready = true) (hh : s.halted 8 = true) (v : Word)
include hr hh

theorem exec_progMibWrite_of_taken (h : min 10 (getBits v.toNat 3 0) ≤ s.progMib ∨ s.framesUsed = []) :
    exec (.progMibWrite v) s = .next (s.quiet.setReg regNstCtrl (min 10 (getBits v.toNat 3 0))) := by
  have hno : ¬ (s.progMib < min 10 (getBits v.toNat 3 0) ∧ s.framesUsed ≠ []) := fun ⟨hgrow, hused⟩ =>
    h.elim hgrow.not_ge hused
  rw [exec_progMibWrite hr, State.writeProgMib, State.whWrite_of_halted (s := s.quiet) hh]
  exact congrArg _ (if_neg hno)

theorem exec_progMibWrite_of_refused (hgrow : s.progMib < min 10 (getBits v.toNat 3 0)) (hused : s.framesUsed ≠ []) :
    exec (.progMibWrite v) s = .next s.quiet.regionReject := by
  rw [exec_progMibWrite hr, State.writeProgMib, State.whWrite_of_halted (s := s.quiet) hh]
  exact congrArg _ (if_pos ⟨hgrow, hused⟩)

end ProgMib

/-- Settles O36: the write of the base is `setTable` or a refusal, and so the write of PROG_MIB one register set or a
refusal. -/
theorem tableAndBankSettingsAreTaken : Obligations.TableAndBankSettingsAreTaken := by
  intro s v hs hr hh
  dsimp only
  have hrise : Rising s.quiet.regs := hs.regs.1
  refine ⟨fun i hi hinvalid hfirst hok => ?_, fun hno => ?_, fun htaken => ?_, fun hgrow hused => ?_⟩
  · obtain ⟨hv0, hwhole, hbase, hfree⟩ := id hok
    have hpages := State.pagesFree_lt hfree
    obtain ⟨htable, hlow, hhigh⟩ := State.setTable_regs hrise hi (v := v.toNat) (by omega)
    refine ⟨_, exec_cadTableBaseWrite_of_ok hr hh v hi hinvalid hfirst hok, htable, ?_, ?_, ?_, rfl, rfl, rfl, ?_,
      fun o ho => ?_⟩
    · rw [State.regionValid, hlow, bitOf_eq_testBit, Nat.testBit_two_pow_add_eq, Nat.testBit_lt_two_pow (by omega)]
      rfl
    · rw [State.regionFirst, hlow]
      show (2 ^ 63 + v.toNat / 65536) % 2 ^ 24 = _
      omega
    · rw [State.regionPages, hhigh]
      exact tablePages_fit s.variant
    · have hzero : s.reg0 regCadTableBase = 0 := (s.reg0_eq_reg (by decide) (by decide)).trans hbase
      refine State.sameOutsideTable_of rfl rfl ?_ (.inl hzero)
      refine s.quiet.setTable_reg0_other _ _ (by decide) ?_ ?_
      · simp only [regOdlCwBase, regCadWregion]; omega
      · simp only [regOdlCwBase, regCadWregionHi]; omega
    · simp only [List.mem_cons, List.not_mem_nil, or_false, not_or] at ho
      obtain ⟨h1, h2, h3⟩ := ho
      exact s.quiet.setTable_reg_other _ _ h1 h2 h3
  · exact regionRejected_of_exec hs (exec_cadTableBaseWrite_of_refused hr hh v hno)
  · have hlt : min 10 (getBits v.toNat 3 0) < 16 := by omega
    refine ⟨_, exec_progMibWrite_of_taken hr hh v htaken, ?_, ?_⟩
    · rw [State.fld, State.reg_setReg_same _ _ _ hrise (by omega)]
      exact Nat.mod_eq_of_lt hlt
    · exact s.onlyRegs_quiet.trans (s.quiet.onlyRegs_setReg _ _ (by decide)) nofun fun _ h => h
  · exact regionRejected_of_exec hs (exec_progMibWrite_of_refused hr hh v hgrow hused)

end Sys2Proof.Machine
end

section
/-! The digest of a publication, and publications that end on a poisoned page (R232, R235, R236). -/

namespace Sys2Proof.Machine

open Sys2Proof

/-- A publication that fails: its region is no longer SEALED, and the `PUBLISH` is gone (R236). -/
def State.unpublish (s : State) (q region : Nat) : State :=
  { s.setBit (regCadWregion region) 62 false with pubs := s.pubs.filter fun x => x.seq != q }

section HashComplete

variable {s : State} {q : Nat} {b : Publish} {t : Task} (hb : s.pub? q = some b) (ht : s.task? q = some t)
  (hstep : b.step = 1) (hrun : t.phase = .running) (hstopped : s.stopped = false)
include hb ht hstep hrun hstopped

theorem State.hashComplete_of_read
    (hread : s.anyPoison (65536 * s.regionFirst b.region) (65536 * s.regionPages b.region) = false) :
    let d := s.imageDigest (s.regionFirst b.region) (s.regionPages b.region)
    s.hashComplete q =
      some ((s.modPub q fun _ => { b with digest := d, step := 2 }).publishGoOn { b with digest := d, step := 2 }) := by
  simp only [State.hashComplete, hb, ht, hstep, hrun, hstopped, hread, and_self, if_true, Bool.false_eq_true, if_false]

theorem State.hashComplete_of_poison
    (hpoison : s.anyPoison (65536 * s.regionFirst b.region) (65536 * s.regionPages b.region) = true) :
    s.hashComplete q = some ((s.unpublish q b.region).endTask q errImagePoison 0) := by
  simp only [State.hashComplete, hb, ht, hstep, hrun, hstopped, hpoison, and_self, if_true]
  rfl

end HashComplete

theorem exec_publishHashComplete {s u : State} {q : Nat} (h : s.quiet.hashComplete q = some u) :
    exec (.publishHashComplete q) s = .next u := by
  show execPublishHashComplete q s = _
  simp [execPublishHashComplete, attempt, h]

/-- A task that ends is still there, ended with its error. -/
theorem State.task?_endTask {s : State} {q : Nat} {t : Task} (ht : s.task? q = some t) (err detail : Nat) :
    (s.endTask q err detail).task? q =
      some { t with phase := .ended, err := err, outcome := outcomeOf err, detail := t.detail ||| detail } := by
  have hseq : t.seq = q := by simpa using List.find?_some ht
  unfold State.endTask State.modTask State.task?
  rw [List.find?_map]
  have hsame : ((fun x : Task => x.seq == q) ∘ fun x : Task => if x.seq = q then
      { x with phase := .ended, err := err, outcome := outcomeOf err, detail := x.detail ||| detail } else x) =
      fun x : Task => x.seq == q := by
    funext x
    by_cases hx : x.seq = q <;> simp [hx]
  rw [hsame]
  unfold State.task? at ht
  rw [ht]
  simp [hseq]

/-- The region after a publication that failed. -/
theorem State.unpublish_region {s : State} (h : Rising s.regs) {i : Nat} (hi : i < 256) (q : Nat) :
    (s.unpublish q i).regionSealed i = false ∧ (s.unpublish q i).regionValid i = s.regionValid i := by
  have hword : (s.unpublish q i).reg0 (regCadWregion i) = (s.setBit (regCadWregion i) 62 false).reg (regCadWregion i) :=
    State.reg0_wregion (s.setBit (regCadWregion i) 62 false) hi
  refine ⟨?_, ?_⟩
  · rw [State.regionSealed, hword]
    exact s.bit_setBit_same _ 62 false h (by decide)
  · rw [State.regionValid, hword, State.regionValid, s.reg0_wregion hi]
    exact s.bit_setBit_other _ 62 63 false h (by decide) (by decide)

/-- Settles O40: the two branches of `hashComplete`. -/
theorem publicationHashesThenCommits : Obligations.PublicationHashesThenCommits := by
  intro s q b t hs hb ht hstep hrun hstopped hregion
  refine ⟨fun hread => ?_, fun hpoison => ?_⟩
  · exact exec_publishHashComplete (State.hashComplete_of_read (s := s.quiet) hb ht hstep hrun hstopped hread)
  · obtain ⟨hsealed, hvalid⟩ := State.unpublish_region (s := s.quiet) hs.regs.1 hregion q
    have ht' : (s.quiet.unpublish q b.region).task? q = some t := ht
    refine ⟨_, exec_publishHashComplete (State.hashComplete_of_poison (s := s.quiet) hb ht hstep hrun hstopped hpoison),
      hsealed, hvalid, fun x hx => ?_, ⟨_, State.task?_endTask ht' errImagePoison 0, rfl, rfl⟩,
      fun o ho => s.quiet.reg_setBit_other _ _ _ _ ho, rfl⟩
    have hx' : x ∈ s.pubs.filter fun x => x.seq != q := hx
    simpa using (List.mem_filter.mp hx').2

end Sys2Proof.Machine
end

section
/-! A write of SMS_NEAR_UNITS under a darn table that no run of the device leaves: the table names four times a channel
that does not exist, and a byte of HBM moves past the capacity. -/

namespace Sys2Proof.Machine

open Sys2Proof

/-! ### Places and addresses under a darn table (R256, R257) -/

theorem darnPlace_nil (v : Variant) (units g : Nat) :
    darnPlace v units [] g = ((channelAt v units (256 * g)).1, (channelAt v units (256 * g)).2 / 256) := by
  rw [darnPlace]

/-- A darning moves the granules of its channel alone. -/
theorem darnPlace_cons_of_ne {v : Variant} {units c g : Nat} {l : List Nat} (h : (darnPlace v units l g).1 ≠ c) :
    darnPlace v units (c :: l) g = darnPlace v units l g := by
  simp only [darnPlace, if_neg h]

/-- A channel that the table does not name keeps its granules. -/
theorem darnPlace_of_not_mem {v : Variant} {units g ch off : Nat} {l : List Nat}
    (hat : channelAt v units (256 * g) = (ch, off)) (h : ch ∉ l) : darnPlace v units l g = (ch, off / 256) := by
  induction l with
  | nil => rw [darnPlace_nil, hat]
  | cons c l ih =>
    obtain ⟨hc, hl⟩ := not_or.mp (mt List.mem_cons.mpr h)
    have hplace := ih hl
    have hne : (darnPlace v units l g).1 ≠ c := by
      rw [hplace]
      exact hc
    rw [darnPlace_cons_of_ne hne, hplace]

/-- A granule below those given up is not walked back. -/
theorem darnUnchase_of_lt {addr : Nat → Nat} {base g : Nat} (h : g < base) (f : Nat) :
    darnUnchase addr base f g = g := by
  cases f with
  | zero => rfl
  | succ f => rw [darnUnchase, if_neg (Nat.not_le.mpr h)]

/-- Where every address lies past a limit, walking back from past the limit stays past it. -/
theorem darnUnchase_ge {addr : Nat → Nat} {limit : Nat} (haddr : ∀ o, limit ≤ addr o) (base f : Nat) {g : Nat}
    (h : limit ≤ g) : limit ≤ darnUnchase addr base f g := by
  induction f generalizing g with
  | zero => exact h
  | succ f ih =>
    rw [darnUnchase]
    split
    · exact ih (haddr _)
    · exact h

/-- The same after one step back. -/
theorem darnUnchase_ge_of_le {addr : Nat → Nat} {limit : Nat} (haddr : ∀ o, limit ≤ addr o) {base f g : Nat}
    (hf : f ≠ 0) (h : base ≤ g) : limit ≤ darnUnchase addr base f g := by
  obtain ⟨n, rfl⟩ := Nat.exists_eq_succ_of_ne_zero hf
  rw [darnUnchase, if_pos h]
  exact darnUnchase_ge haddr base n (haddr _)

/-- Where a byte goes whose granule no darning has given up. -/
theorem State.moved_ge {s : State} {units a ch o limit : Nat} (ha : a < capacity s.variant)
    (hkept : a / 256 < darnBase s.variant s.hbm.darnTable.length)
    (hplace : darnPlace s.variant s.nearUnits s.hbm.darnTable (a / 256) = (ch, o))
    (hlimit : limit ≤ darnAddr s.variant units s.hbm.darnTable ch o) :
    ∃ a', 256 * limit ≤ a' ∧ s.moved units a = some a' := by
  refine ⟨256 * darnAddr s.variant units s.hbm.darnTable ch o + a % 256, by omega, ?_⟩
  simp only [State.moved, Nat.not_le.mpr ha, Nat.not_le.mpr hkept, if_false, hplace]

/-- A memory of one byte after a change of the mapping. -/
theorem State.remap_mem_single {s : State} {units a a' : Nat} {b : Byte} (hmem : s.mem = [(a, b)])
    (h : s.moved units a = some a') : (s.remap units).mem = memPut [] a' b := by
  simp only [State.remap, hmem, List.foldl_cons, List.foldl_nil, h]

/-! ### The channel that does not exist -/

/-- A number so large that its quadrant alone puts its addresses past the capacity. -/
abbrev strayChannel : Nat := 288000000000

theorem addressOf_stray (off : Nat) : 3000000000 ≤ addressOf .fd880 0 strayChannel off / 256 := by
  simp only [addressOf, chansPerQuad, stacksPerQuad, strayChannel]
  split <;> omega

theorem darnAddr_stray (n o : Nat) : 3000000000 ≤ darnAddr .fd880 0 (List.replicate n strayChannel) strayChannel o := by
  induction n generalizing o with
  | zero => exact addressOf_stray (256 * o)
  | succ n ih => exact darnUnchase_ge ih _ _ (ih o)

/-- The granule of channel 0 that the byte of the counterexample lies in moves past the capacity. -/
theorem darnAddr_moved : 3000000000 ≤ darnAddr .fd880 0 (List.replicate 4 strayChannel) 0 7749999 := by
  have hfirst : darnAddr .fd880 0 [] 0 7749999 = 2975999616 := by decide
  have hbase (k : Nat) (hk : k ≤ 2) : 2975999616 < darnBase .fd880 (k + 1) := by
    simp only [darnBase, allGranules, capacity, chanGranules]
    omega
  have hkept (k : Nat) (hk : k ≤ 3) : darnAddr .fd880 0 (List.replicate k strayChannel) 0 7749999 = 2975999616 := by
    induction k with
    | zero => exact hfirst
    | succ k ih =>
      rw [List.replicate_succ, darnAddr, ih (by omega), List.length_replicate]
      exact darnUnchase_of_lt (hbase k (by omega)) _
  rw [List.replicate_succ, darnAddr, hkept 3 (by decide), List.length_replicate]
  exact darnUnchase_ge_of_le (darnAddr_stray 3) (by decide) (by decide)

/-! ### The state of the counterexample -/

/-- The byte that moves: the first of granule 7749999 of channel 0, with 62 near units. -/
abbrev strayByte : Nat := 190463975424

/-- Start-up complete, the Stack Memory Subsystem halted, and 62 near units. -/
def unitsState : State :=
  ((State.reset.setReg regGlbStartup 0x80000000).setReg regSmsStatus 2).setReg regSmsNearUnits 62

/-- One byte stored, and a darn table that names a channel which does not exist. -/
def strayState : State :=
  { unitsState with
    mem := [(strayByte, 1)]
    hbm := { Hbm.reset with darnTable := List.replicate 4 strayChannel } }

theorem unitsState_regs : RegsWf .fd880 unitsState.regs := by decide +kernel

theorem strayState_canonical : strayState.Canonical :=
  ⟨unitsState_regs, by decide, List.Pairwise.nil⟩

/-- What the write of NEAR_UNITS asks for. -/
theorem unitsState_open : unitsState.ready = true ∧ unitsState.halted 9 = true ∧
    unitsState.fld regSmsNearUnits 5 0 = 62 ∧ unitsState.regions = [] ∧ unitsState.images = [] := by
  decide +kernel

theorem channelAt_strayByte : channelAt .fd880 62 strayByte = (0, 256 * 7749999) := by decide

/-- Under 0 near units the byte lies past the capacity. -/
theorem strayState_moved : ∃ a, capacity .fd880 ≤ a ∧ strayState.quiet.moved 0 strayByte = some a := by
  have hunits : strayState.quiet.nearUnits = 62 := unitsState_open.2.2.1
  have hat : channelAt .fd880 62 (256 * (strayByte / 256)) = (0, 256 * 7749999) := channelAt_strayByte
  have hplace : darnPlace .fd880 strayState.quiet.nearUnits (List.replicate 4 strayChannel) (strayByte / 256) =
      (0, 7749999) := by
    rw [hunits]
    exact darnPlace_of_not_mem hat (by decide)
  have hbelow : strayByte < capacity .fd880 := by decide
  have hkept : strayByte / 256 < darnBase .fd880 4 := by decide
  exact State.moved_ge (s := strayState.quiet) hbelow hkept hplace darnAddr_moved

/-- The write taken moves every byte and sets the register. -/
theorem exec_nearUnitsWrite_stray :
    exec (.nearUnitsWrite 0) strayState = .next ((strayState.quiet.remap 0).setReg regSmsNearUnits 0) := by
  obtain ⟨hready, hhalted, -, hregions, himages⟩ := unitsState_open
  have hr : strayState.ready = true := hready
  have hh : strayState.quiet.halted 9 = true := hhalted
  have hok : getBits (0 : Word).toNat 5 0 ≤ 62 ∧ strayState.quiet.regions = [] ∧ strayState.quiet.images = [] :=
    ⟨by decide, hregions, himages⟩
  rw [exec_nearUnitsWrite hr, State.writeNearUnits, State.whWrite_of_halted hh]
  exact congrArg _ (if_pos hok)

/-- Refutes O38: nothing keeps a darn table with a channel that does not exist out of the states quantified over, and
under such a table a write of NEAR_UNITS that is taken gives a byte past the capacity a new value. -/
theorem not_mappingAndHeadroomAreTaken : ¬ Obligations.MappingAndHeadroomAreTaken := by
  intro h
  obtain ⟨hready, hhalted, hunits, hregions, himages⟩ := unitsState_open
  obtain ⟨hwrites, -⟩ := h strayState 0 strayState_canonical hready
  obtain ⟨t, ht, -, -, hpast, -⟩ := (hwrites hhalted).1 (by decide) (le_of_eq hunits) hregions himages
  obtain ⟨a, ha, hmoved⟩ := strayState_moved
  have hmem : t.mem = memPut [] a 1 := by
    rw [exec_nearUnitsWrite_stray] at ht
    cases ht
    exact State.remap_mem_single (s := strayState.quiet) rfl hmoved
  have hne : a ≠ strayByte := fun e => absurd (e ▸ ha) (by decide)
  have hbefore : mapGet 0 a strayState.mem = 0 := mapGet_of_not_mem fun c hc => by
    rw [List.mem_singleton.mp hc]
    exact hne.symm
  have hafter : mapGet 0 a t.mem = 1 := by
    rw [hmem]
    exact mapGet_memPut_same List.Pairwise.nil
  have hsame := hpast a ha
  rw [hafter, hbefore] at hsame
  exact absurd hsame (by decide)

end Sys2Proof.Machine
end

section
/-! The records of pages: what is read after a record has been put back, and which frames are in use (R240, R243). -/

namespace Sys2Proof.Machine

open Sys2Proof

/-- The record of a page at HOME with no heat, which is not listed. -/
def homeRec (p : Nat) : PageRec :=
  { page := p, readers := 0, heat := 0, qreads := [0, 0, 0, 0], place := 0, pinned := false, frame := 0,
    successor := none }

/-- A record that is not listed when it is put back. -/
def PageRec.Blank (r : PageRec) : Prop :=
  r.readers = 0 ∧ r.heat = 0 ∧ r.qreads.all (· == 0) ∧ r.place = 0 ∧ r.pinned = false

theorem State.pageRec_of_find {s : State} {p : Nat} {r : PageRec} (h : (s.pages.find? fun r => r.page == p) = some r) :
    s.pageRec p = r := by
  simp only [State.pageRec, h]

theorem State.pageRec_of_absent {s : State} {p : Nat} (h : ∀ r ∈ s.pages, r.page ≠ p) : s.pageRec p = homeRec p := by
  have hnone : (s.pages.find? fun r => r.page == p) = none :=
    List.find?_eq_none.mpr fun r hr => by simpa using h r hr
  simp only [State.pageRec, hnone, homeRec]

/-- A record names its page. -/
@[simp] theorem State.pageRec_page (s : State) (p : Nat) : (s.pageRec p).page = p := by
  unfold State.pageRec
  split
  · next r h => simpa using List.find?_some h
  · rfl

/-- Records are read from the list of pages alone. -/
theorem State.pageRec_congr {s t : State} (h : t.pages = s.pages) (p : Nat) : t.pageRec p = s.pageRec p := by
  simp only [State.pageRec, h]

/-- A record that is read as PROMOTED is listed. -/
theorem State.framed_of_place {s : State} {a : Nat} (h : (s.pageRec (a / 65536)).place = 2) : s.framed a = true := by
  by_contra hno
  have hnone : ∀ r ∈ s.pages, r.page = a / 65536 → r.place ≠ 2 := fun r hr hp h2 =>
    hno (List.any_eq_true.mpr ⟨r, hr, by simp [hp, h2]⟩)
  cases hfind : s.pages.find? fun r => r.page == a / 65536 with
  | none => simp [State.pageRec, hfind] at h
  | some r =>
    rw [State.pageRec_of_find hfind] at h
    exact hnone r (List.mem_of_find?_eq_some hfind) (by simpa using List.find?_some hfind) h

section SetPageRec

variable (s : State) (r : PageRec)

/-- A record put back changes the list of pages alone. -/
theorem State.setPageRec_eq : s.setPageRec r = { s with pages := (s.setPageRec r).pages } := by
  unfold State.setPageRec
  dsimp only
  split <;> rfl

@[simp] theorem State.setPageRec_variant : (s.setPageRec r).variant = s.variant :=
  (congrArg State.variant (s.setPageRec_eq r)).trans rfl
@[simp] theorem State.setPageRec_regs : (s.setPageRec r).regs = s.regs := (congrArg State.regs (s.setPageRec_eq r)).trans rfl
@[simp] theorem State.setPageRec_mem : (s.setPageRec r).mem = s.mem := (congrArg State.mem (s.setPageRec_eq r)).trans rfl
@[simp] theorem State.setPageRec_pubs : (s.setPageRec r).pubs = s.pubs := (congrArg State.pubs (s.setPageRec_eq r)).trans rfl
@[simp] theorem State.setPageRec_tasks : (s.setPageRec r).tasks = s.tasks := (congrArg State.tasks (s.setPageRec_eq r)).trans rfl
@[simp] theorem State.setPageRec_hbm : (s.setPageRec r).hbm = s.hbm := (congrArg State.hbm (s.setPageRec_eq r)).trans rfl

@[simp] theorem State.setPageRec_reg (o : Nat) : (s.setPageRec r).reg o = s.reg o :=
  State.reg_congr (s.setPageRec_variant r) (s.setPageRec_regs r) o

@[simp] theorem State.setPageRec_reg0 (o : Nat) : (s.setPageRec r).reg0 o = s.reg0 o := by
  simp only [State.reg0, State.setPageRec_regs]

end SetPageRec

/-- The list of pages after a record has been put back. -/
theorem State.mem_setPageRec_pages {s : State} {r x : PageRec} :
    x ∈ (s.setPageRec r).pages ↔ (x ∈ s.pages ∧ x.page ≠ r.page) ∨ (x = r ∧ ¬ r.Blank) := by
  unfold State.setPageRec
  dsimp only
  split
  · next h =>
    have hblank : r.Blank := h
    simp [hblank]
  · next h =>
    have hlisted : ¬ r.Blank := h
    simp only [List.mem_append, List.mem_filter, List.mem_singleton, bne_iff_ne, decide_eq_true_eq]
    constructor
    · rintro ((⟨hx, -⟩ | hx) | ⟨hx, -⟩)
      · exact .inl hx
      · exact .inr ⟨hx, hlisted⟩
      · exact .inl hx
    · rintro (⟨hx, hne⟩ | ⟨hx, -⟩)
      · rcases Nat.lt_or_gt_of_ne hne with hlt | hgt
        · exact .inl (.inl ⟨⟨hx, hne⟩, hlt⟩)
        · exact .inr ⟨⟨hx, hne⟩, hgt⟩
      · exact .inl (.inr hx)

/-- A page whose record is put back reads as that record, when it is listed. -/
theorem State.pageRec_setPageRec_same (s : State) {r : PageRec} (h : ¬ r.Blank) :
    (s.setPageRec r).pageRec r.page = r := by
  have hmem : r ∈ (s.setPageRec r).pages := State.mem_setPageRec_pages.mpr (.inr ⟨rfl, h⟩)
  cases hfind : (s.setPageRec r).pages.find? fun x => x.page == r.page with
  | none => exact absurd (List.find?_eq_none.mp hfind r hmem) (by simp)
  | some x =>
    have hpage : x.page = r.page := by simpa using List.find?_some hfind
    rcases State.mem_setPageRec_pages.mp (List.mem_of_find?_eq_some hfind) with ⟨-, hne⟩ | ⟨rfl, -⟩
    · exact absurd hpage hne
    · exact State.pageRec_of_find hfind

/-- A page whose record holds nothing reads as one at HOME with no heat. -/
theorem State.pageRec_setPageRec_blank (s : State) {r : PageRec} (h : r.Blank) :
    (s.setPageRec r).pageRec r.page = homeRec r.page := by
  refine State.pageRec_of_absent fun x hx => ?_
  rcases State.mem_setPageRec_pages.mp hx with ⟨-, hne⟩ | ⟨-, hlisted⟩
  · exact hne
  · exact absurd h hlisted

section FindFilter

variable {p : Nat} (l : List PageRec) {q : PageRec → Bool}

/-- A filter that keeps the records of a page finds the same one. -/
theorem find?_filter_page (hq : ∀ x : PageRec, x.page = p → q x = true) :
    ((l.filter q).find? fun x => x.page == p) = l.find? fun x => x.page == p := by
  rw [List.find?_filter]
  refine find?_congr fun x _ => ?_
  by_cases hp : x.page = p
  · simp [hp, hq x hp]
  · simp [hp]

/-- A filter that drops the records of a page finds none. -/
theorem find?_filter_page_none (hq : ∀ x : PageRec, x.page = p → q x = false) :
    ((l.filter q).find? fun x => x.page == p) = none := by
  refine List.find?_eq_none.mpr fun x hx hp => ?_
  obtain ⟨-, hqx⟩ := List.mem_filter.mp hx
  have hdrop := hq x (by simpa using hp)
  rw [hqx] at hdrop
  cases hdrop

end FindFilter

/-- Every other page reads as before. -/
theorem State.pageRec_setPageRec_other (s : State) {r : PageRec} {p : Nat} (h : p ≠ r.page) :
    (s.setPageRec r).pageRec p = s.pageRec p := by
  have hrest : ((s.pages.filter fun x => x.page != r.page).find? fun x => x.page == p) =
      s.pages.find? fun x => x.page == p :=
    find?_filter_page _ fun x hx => by simp [hx, h]
  have hown : ([r].find? fun x => x.page == p) = none := by simp [Ne.symm h]
  have hfind : ((s.setPageRec r).pages.find? fun x => x.page == p) = s.pages.find? fun x => x.page == p := by
    unfold State.setPageRec
    dsimp only
    split
    · exact hrest
    · rw [List.find?_append, List.find?_append, hown, Option.or_none]
      rcases Nat.lt_or_gt_of_ne h with hlt | hgt
      · rw [find?_filter_page_none (q := fun x => decide (r.page < x.page)) _ fun x hx => by simp [hx, hlt.le],
          Option.or_none, find?_filter_page _ fun x hx => by simp [hx, hlt], hrest]
      · rw [find?_filter_page_none (q := fun x => decide (x.page < r.page)) _ fun x hx => by simp [hx, hgt.le],
          Option.none_or, find?_filter_page _ fun x hx => by simp [hx, hgt], hrest]
  simp only [State.pageRec, hfind]

/-- Frames in use after a record has been put back. -/
theorem State.mem_framesUsed_setPageRec {s : State} {r : PageRec} {f : Nat} :
    f ∈ (s.setPageRec r).framesUsed ↔
      (∃ x ∈ s.pages, x.page ≠ r.page ∧ x.place ≠ 0 ∧ x.frame = f) ∨ (r.place ≠ 0 ∧ r.frame = f) := by
  have hlisted : r.place ≠ 0 → ¬ r.Blank := fun hplace hblank => hplace hblank.2.2.2.1
  simp only [State.framesUsed, List.mem_map, List.mem_filter, bne_iff_ne]
  constructor
  · rintro ⟨x, ⟨hx, hplace⟩, hf⟩
    rcases State.mem_setPageRec_pages.mp hx with ⟨hx, hne⟩ | ⟨rfl, -⟩
    · exact .inl ⟨x, hx, hne, hplace, hf⟩
    · exact .inr ⟨hplace, hf⟩
  · rintro (⟨x, hx, hne, hplace, hf⟩ | ⟨hplace, hf⟩)
    · exact ⟨x, ⟨State.mem_setPageRec_pages.mpr (.inl ⟨hx, hne⟩), hplace⟩, hf⟩
    · exact ⟨r, ⟨State.mem_setPageRec_pages.mpr (.inr ⟨rfl, hlisted hplace⟩), hplace⟩, hf⟩

end Sys2Proof.Machine
end

section
/-! Heat epochs, promotions and evictions (R241 to R244, R414 to R417). -/

namespace Sys2Proof.Machine

open Sys2Proof

/-! ### Marks of residency entries -/

/-- From `s` to `t` only SPILLED and READY of residency entries, and registers below them, may change. -/
structure State.ResMarked (s t : State) : Prop where
  variant : t.variant = s.variant
  pages : t.pages = s.pages
  mem : t.mem = s.mem
  tasks : t.tasks = s.tasks
  reg : ∀ o, 0x208400 ≤ o → t.reg o = s.reg o

namespace State.ResMarked

theorem refl (s : State) : s.ResMarked s := ⟨rfl, rfl, rfl, rfl, fun _ _ => rfl⟩

theorem trans {s t u : State} (h : s.ResMarked t) (g : t.ResMarked u) : s.ResMarked u :=
  ⟨g.variant.trans h.variant, g.pages.trans h.pages, g.mem.trans h.mem, g.tasks.trans h.tasks,
    fun o ho => (g.reg o ho).trans (h.reg o ho)⟩

theorem foldl {α : Type} {f : State → α → State} {l : List α} (hf : ∀ z : State, ∀ a ∈ l, z.ResMarked (f z a))
    (s : State) :
    s.ResMarked (l.foldl f s) :=
  List.foldlRecOn (motive := fun t => s.ResMarked t) l f (refl s) fun t ht a ha => ht.trans (hf t a ha)

end State.ResMarked

theorem State.setRes_resMarked (s : State) {i : Nat} (hi : i < 64) (spilled ready : Bool) :
    s.ResMarked (s.setRes i spilled ready) := by
  refine ⟨rfl, rfl, rfl, rfl, fun o ho => ?_⟩
  have hne : o ≠ regSchResidentHi i := by simp only [regSchResidentHi]; omega
  rw [State.setRes, State.reg_setBit_other _ _ _ _ _ hne, State.reg_setBit_other _ _ _ _ _ hne]

theorem mem_filter_range {n i : Nat} {p : Nat → Bool} (h : i ∈ (List.range n).filter p) : i < n :=
  List.mem_range.mp (List.mem_filter.mp h).1

theorem State.refreshReady_resMarked (s : State) : s.ResMarked s.refreshReady := by
  refine .foldl (fun z i hi => ?_) s
  split
  · exact z.setRes_resMarked (mem_filter_range hi) _ _
  · exact .refl z

/-- One entry applied marks that entry. -/
theorem State.applyEntry_resMarked (a : Applied) {i : Nat} (hi : i < 64) : a.st.ResMarked (State.applyEntry a i).st := by
  unfold State.applyEntry
  dsimp only
  split
  · exact a.st.setRes_resMarked hi _ _
  · split
    · exact a.st.setRes_resMarked hi _ _
    · split
      · split <;> exact a.st.setRes_resMarked hi _ _
      · split <;> exact a.st.setRes_resMarked hi _ _

theorem State.residency_resMarked (s : State) : s.ResMarked s.residency.st := by
  unfold State.residency
  refine List.foldlRecOn (motive := fun a : Applied => s.ResMarked a.st) _ _ (.refl s) fun a ha i hi => ?_
  exact ha.trans (State.applyEntry_resMarked a (mem_filter_range ((sortBy_perm _ _).mem_iff.mp hi)))

/-! ### Changes that keep every page's heat -/

/-- From `s` to `t` every page keeps its HEAT, and memory and the tasks stay. -/
structure State.HeatKept (s t : State) : Prop where
  heat : ∀ p, (t.pageRec p).heat = (s.pageRec p).heat
  mem : t.mem = s.mem
  tasks : t.tasks = s.tasks

namespace State.HeatKept

theorem trans {s t u : State} (h : s.HeatKept t) (g : t.HeatKept u) : s.HeatKept u :=
  ⟨fun p => (g.heat p).trans (h.heat p), g.mem.trans h.mem, g.tasks.trans h.tasks⟩

theorem of_pages {s t : State} (hp : t.pages = s.pages) (hm : t.mem = s.mem) (ht : t.tasks = s.tasks) : s.HeatKept t :=
  ⟨fun p => by rw [State.pageRec_congr hp], hm, ht⟩

theorem refl (s : State) : s.HeatKept s := of_pages rfl rfl rfl

theorem of_resMarked {s t : State} (h : s.ResMarked t) : s.HeatKept t := of_pages h.pages h.mem h.tasks

theorem foldl {α : Type} {f : State → α → State} (hf : ∀ (z : State) (a : α), z.HeatKept (f z a)) (l : List α)
    (s : State) : s.HeatKept (l.foldl f s) :=
  List.foldlRecOn (motive := fun t => s.HeatKept t) l f (refl s) fun t ht a _ => ht.trans (hf t a)

end State.HeatKept

/-- A record put back with the HEAT that its page had. -/
theorem State.setPageRec_heatKept (s : State) {r : PageRec} (h : r.heat = (s.pageRec r.page).heat) :
    s.HeatKept (s.setPageRec r) := by
  refine ⟨fun p => ?_, s.setPageRec_mem r, s.setPageRec_tasks r⟩
  by_cases hp : p = r.page
  · subst hp
    by_cases hblank : r.Blank
    · obtain ⟨-, hheat, -⟩ := id hblank
      rw [s.pageRec_setPageRec_blank hblank, ← h, hheat]
      rfl
    · rw [s.pageRec_setPageRec_same hblank, h]
  · rw [s.pageRec_setPageRec_other hp]

theorem State.promote_heatKept (s : State) (p f : Nat) : s.HeatKept (s.promote p f) :=
  s.setPageRec_heatKept (by simp)

theorem State.evict_heatKept (s : State) (p : Nat) (succ : Option Nat) : s.HeatKept (s.evict p succ) :=
  s.setPageRec_heatKept (by simp)

/-- Marks of entries that are not VALID, cleared. -/
def State.clearMarks (s : State) : State :=
  ((List.range 64).filter fun i => !s.resValid i).foldl (fun x i =>
    if s.resSpilled i || s.resReady i then x.setRes i false false else x) s

theorem State.clearMarks_resMarked (s : State) : s.ResMarked s.clearMarks := by
  refine .foldl (fun z i hi => ?_) s
  split
  · exact z.setRes_resMarked (mem_filter_range hi) _ _
  · exact .refl z

/-- PINNED set or cleared on a list of pages. -/
def State.pinPages (s : State) (pinned : Bool) (l : List Nat) : State :=
  l.foldl (fun x p => x.setPageRec { x.pageRec p with pinned := pinned }) s

theorem State.pinPages_heatKept (s : State) (pinned : Bool) (l : List Nat) : s.HeatKept (s.pinPages pinned l) :=
  .foldl (fun z _ => z.setPageRec_heatKept (by simp)) l s

/-- The application of the residency policy: marks, pins, the copies noted, and one bit of SCH_STATUS (R414). -/
theorem State.applyResidency_eq (s : State) :
    ∃ x b, let a := s.clearMarks.residency
      s.applyResidency = { ((a.st.pinPages false ((a.st.pages.filter (·.pinned)).map (·.page))).pinPages true
        (a.pins.map (·.1))).setBit regSchStatus 5 b with sched := x } := by
  unfold State.pinPages
  simp only [List.foldl_map]
  exact ⟨_, _, rfl⟩

theorem State.applyResidency_heatKept (s : State) : s.HeatKept s.applyResidency := by
  obtain ⟨x, b, h⟩ := s.applyResidency_eq
  rw [h]
  exact ((((State.HeatKept.of_resMarked s.clearMarks_resMarked).trans
    (.of_resMarked s.clearMarks.residency_resMarked)).trans (State.pinPages_heatKept _ _ _)).trans
    (State.pinPages_heatKept _ _ _)).trans (.of_pages rfl rfl rfl)

/-- One page tried keeps the heat of pages. -/
theorem State.placePage_heatKept (p : State × Nat) (page q : Nat) (margin : Option Nat) :
    p.1.HeatKept (State.placePage p page q margin).1 := by
  unfold State.placePage
  dsimp only
  split
  · exact .refl _
  · split
    · exact State.promote_heatKept _ _ _
    · split
      · split
        · split
          · exact State.evict_heatKept _ _ _
          · exact .refl _
        · split
          · exact State.evict_heatKept _ _ _
          · exact .refl _
      · exact .refl _

/-- The pages of RETIRING images evicted at the end of an epoch. -/
def State.evictPages (s : State) (l : List PageRec) : State := l.foldl (fun a r => a.evict r.page none) s

/-- Pages promoted at the end of an epoch, the pinned ones first, while PROMOTE is set. -/
def State.placePages (s : State) (left : Nat) : State :=
  if s.bit regCadCtrl 31 then
    let pins := s.residency.pins.filter fun x => (s.pageRec x.1).place == 0 && !s.following x.1
    let p := pins.foldl (fun a x => State.placePage a x.1 x.2 none) (s, left)
    ((p.1.candidates).foldl (fun a r => State.placePage a r.page (hotQuad r.qreads) (some (p.1.fld regCadCtrl 47 32))) p).1
  else s

/-- A record after the end of an epoch. -/
def PageRec.cooled (r : PageRec) : PageRec := { r with heat := r.heat / 2, qreads := [0, 0, 0, 0] }

/-- Every listed record halved. -/
def State.coolPages (s : State) : State := s.pages.foldl (fun a r => a.setPageRec (s.pageRec r.page).cooled) s

/-- The pages of RETIRING images that are PROMOTED. -/
def State.oldPages (s : State) : List PageRec := s.pages.filter fun r => r.place == 2 && s.pageState r.page == 5

theorem State.heatEpoch_eq (s : State) :
    ∃ left x, x.heatAt = s.time ∧
      s.heatEpoch = { ((s.applyResidency.evictPages s.applyResidency.oldPages).placePages left).coolPages with sched := x } :=
  ⟨_, _, rfl, rfl⟩

theorem State.evictPages_heatKept (s : State) (l : List PageRec) : s.HeatKept (s.evictPages l) :=
  .foldl (fun z _ => z.evict_heatKept _ _) l s

theorem State.placePages_heatKept (s : State) (left : Nat) : s.HeatKept (s.placePages left) := by
  have hfold {α : Type} {f : State × Nat → α → State × Nat} (hf : ∀ q a, q.1.HeatKept (f q a).1) (l : List α)
      (q : State × Nat) : q.1.HeatKept (l.foldl f q).1 :=
    List.foldlRecOn (motive := fun t : State × Nat => q.1.HeatKept t.1) l f (.refl _) fun t ht a _ => ht.trans (hf t a)
  unfold State.placePages
  dsimp only
  split
  · exact (hfold (fun _ _ => State.placePage_heatKept _ _ _ _) _ (s, left)).trans
      (hfold (fun _ _ => State.placePage_heatKept _ _ _ _) _ _)
  · exact .refl s

/-- A page that has cooled from a heat. -/
def State.Cooled (s : State) (p h : Nat) : Prop := (s.pageRec p).heat = h / 2 ∧ (s.pageRec p).qreads = [0, 0, 0, 0]

theorem State.setPageRec_cooled (s : State) (r : PageRec) : (s.setPageRec r.cooled).Cooled r.page r.heat := by
  unfold State.Cooled
  by_cases hblank : r.cooled.Blank
  · obtain ⟨-, hheat, -⟩ := id hblank
    have hzero : r.heat / 2 = 0 := hheat
    rw [show r.page = r.cooled.page from rfl, s.pageRec_setPageRec_blank hblank, hzero]
    exact ⟨rfl, rfl⟩
  · rw [show r.page = r.cooled.page from rfl, s.pageRec_setPageRec_same hblank]
    exact ⟨rfl, rfl⟩

/-- The end of an epoch halves the heat of every page. -/
theorem State.coolPages_cooled (s : State) (p : Nat) : s.coolPages.Cooled p (s.pageRec p).heat := by
  have hstep (z : State) (r : PageRec) (h : z.Cooled p (s.pageRec p).heat ∨ r.page = p) :
      (z.setPageRec (s.pageRec r.page).cooled).Cooled p (s.pageRec p).heat := by
    by_cases hp : r.page = p
    · rw [hp]
      have hcooled := z.setPageRec_cooled (s.pageRec p)
      rwa [State.pageRec_page] at hcooled
    · have hkept : (z.setPageRec (s.pageRec r.page).cooled).pageRec p = z.pageRec p :=
        z.pageRec_setPageRec_other (by simpa [PageRec.cooled] using Ne.symm hp)
      unfold State.Cooled at h ⊢
      rw [hkept]
      exact h.resolve_right hp
  have hfold (l : List PageRec) (z : State) (h : z.Cooled p (s.pageRec p).heat ∨ ∃ r ∈ l, r.page = p) :
      (l.foldl (fun a r => a.setPageRec (s.pageRec r.page).cooled) z).Cooled p (s.pageRec p).heat := by
    induction l generalizing z with
    | nil => exact h.resolve_right (by simp)
    | cons r l ih =>
      refine ih _ ?_
      rcases h with h | ⟨x, hx, hp⟩
      · exact .inl (hstep z r (.inl h))
      · rcases List.mem_cons.mp hx with rfl | hx
        · exact .inl (hstep z x (.inr hp))
        · exact .inr ⟨x, hx, hp⟩
  refine hfold s.pages s ?_
  by_cases hlisted : ∃ r ∈ s.pages, r.page = p
  · exact .inr hlisted
  · have habsent := State.pageRec_of_absent fun r hr hp => hlisted ⟨r, hr, hp⟩
    unfold State.Cooled
    rw [habsent]
    exact .inl ⟨(Nat.zero_div 2).symm, rfl⟩

theorem State.coolPages_contents (s : State) : s.coolPages.mem = s.mem ∧ s.coolPages.tasks = s.tasks :=
  List.foldlRecOn (motive := fun t : State => t.mem = s.mem ∧ t.tasks = s.tasks) s.pages _ ⟨rfl, rfl⟩
    fun t ht _ _ => ⟨(t.setPageRec_mem _).trans ht.1, (t.setPageRec_tasks _).trans ht.2⟩

/-- The end of an epoch (R242). -/
theorem State.heatEpoch_spec (s : State) :
    (∀ p, s.heatEpoch.Cooled p (s.pageRec p).heat) ∧ s.heatEpoch.sched.heatAt = s.time ∧ s.heatEpoch.mem = s.mem ∧
      s.heatEpoch.tasks = s.tasks := by
  obtain ⟨left, x, hx, heq⟩ := s.heatEpoch_eq
  have hkept := (s.applyResidency_heatKept.trans (State.evictPages_heatKept _ s.applyResidency.oldPages)).trans
    (State.placePages_heatKept _ left)
  rw [heq]
  generalize (s.applyResidency.evictPages s.applyResidency.oldPages).placePages left = z at hkept
  obtain ⟨hmem, htasks⟩ := z.coolPages_contents
  refine ⟨fun p => ?_, hx, hmem.trans hkept.mem, htasks.trans hkept.tasks⟩
  rw [← hkept.heat p]
  exact z.coolPages_cooled p

theorem exec_heatEpochEnd {s : State} (htable : s.reg regCadTableBase ≠ 0)
    (hdue : s.sched.heatAt + 1000 * s.epochUs ≤ s.time) (hhalted : s.halted 8 = false) (hhalting : s.halting 8 = false)
    (hstopped : s.stopped = false) (hr : s.ready = true) : exec .heatEpochEnd s = .next s.quiet.heatEpoch := by
  have hc : s.quiet.reg regCadTableBase ≠ 0 ∧ s.quiet.sched.heatAt + 1000 * s.quiet.epochUs ≤ s.quiet.time ∧
      s.quiet.halted 8 = false ∧ s.quiet.halting 8 = false ∧ s.quiet.stopped = false ∧ s.quiet.ready = true :=
    ⟨htable, hdue, hhalted, hhalting, hstopped, hr⟩
  show execHeatEpochEnd s = _
  simp only [execHeatEpochEnd, attempt, if_pos hc, Option.getD_some]

/-! ### Promotions (R243) -/

@[simp] theorem State.quiet_pageRec (s : State) (p : Nat) : s.quiet.pageRec p = s.pageRec p := rfl

@[simp] theorem State.addReg_pageRec (s : State) (off n p : Nat) : (s.addReg off n).pageRec p = s.pageRec p := rfl

@[simp] theorem State.addReg_framesUsed (s : State) (off n : Nat) : (s.addReg off n).framesUsed = s.framesUsed := rfl

theorem State.framesUsed_congr {s t : State} (h : t.pages = s.pages) : t.framesUsed = s.framesUsed := by
  simp only [State.framesUsed, h]

theorem exec_promotionComplete {s u : State} {p : Nat} {ok : Bool} (h : s.quiet.promotionEnds p ok = some u) :
    exec (.promotionComplete p ok) s = .next u := by
  show execPromotionComplete p ok s = _
  simp only [execPromotionComplete, attempt, h, Option.getD_some]

theorem exec_evictionComplete {s u : State} {p : Nat} (h : s.quiet.evictionEnds p = some u) :
    exec (.evictionComplete p) s = .next u := by
  show execEvictionComplete p s = _
  simp only [execEvictionComplete, attempt, h, Option.getD_some]

/-- A page PROMOTED once its copy has succeeded. -/
def State.copied (s : State) (p : Nat) : State :=
  (s.setPageRec { s.pageRec p with place := 2 }).addReg regCadPromotions 1

section Promotion

variable {s : State} {p : Nat} (hplace : (s.pageRec p).place = 1)
include hplace

theorem State.promotionEnds_of_copied (hread : s.anyPoison (65536 * p) 65536 = false) :
    s.promotionEnds p true = some (s.copied p).refreshReady.retireImages := by
  simp only [State.promotionEnds, if_pos hplace, hread]
  rfl

theorem State.promotionEnds_of_failed {ok : Bool} (hfail : ok = false ∨ s.anyPoison (65536 * p) 65536 = true) :
    s.promotionEnds p ok = some (s.setPageRec { s.pageRec p with place := 0, frame := 0 }).retireImages := by
  have hno : (ok && !s.anyPoison (65536 * p) 65536) = false := by
    rcases hfail with h | h <;> simp [h]
  simp only [State.promotionEnds, if_pos hplace, hno, Bool.false_eq_true, if_false]

end Promotion

/-- A record with a place of its own is listed. -/
theorem PageRec.not_blank_of_place {r : PageRec} (h : r.place ≠ 0) : ¬ r.Blank := fun hblank => h hblank.2.2.2.1

theorem State.copied_pageRec (s : State) (p : Nat) :
    (s.copied p).pageRec p = { s.pageRec p with page := p, place := 2 } := by
  have hsame := s.pageRec_setPageRec_same (r := { s.pageRec p with place := 2 })
    (PageRec.not_blank_of_place (by simp))
  rw [State.pageRec_page] at hsame
  rw [State.copied, State.addReg_pageRec, hsame]
  simp only [State.pageRec_page]

theorem State.copied_pageRec_other (s : State) {p x : Nat} (h : x ≠ p) : (s.copied p).pageRec x = s.pageRec x :=
  (State.pageRec_congr rfl x).trans (s.pageRec_setPageRec_other (by simpa using h))

theorem State.copied_contents {s : State} (h : Rising s.regs) (p : Nat) :
    (s.copied p).reg regCadPromotions = (s.reg regCadPromotions + 1) % 2 ^ 64 ∧ (s.copied p).mem = s.mem ∧
      (s.copied p).tasks = s.tasks := by
  have hrise : Rising (s.setPageRec { s.pageRec p with place := 2 }).regs := by
    rwa [State.setPageRec_regs]
  refine ⟨?_, ?_, ?_⟩
  · rw [State.copied, State.reg_addReg_same _ _ _ hrise, State.setPageRec_reg]
  · rw [State.copied, State.addReg_mem, State.setPageRec_mem]
  · rw [State.copied, State.addReg_tasks, State.setPageRec_tasks]

/-- A page put back to HOME reads as being there. -/
theorem State.place_setPageRec_home (s : State) {r : PageRec} (h : r.place = 0) :
    ((s.setPageRec r).pageRec r.page).place = 0 := by
  by_cases hblank : r.Blank
  · rw [s.pageRec_setPageRec_blank hblank]
    rfl
  · rw [s.pageRec_setPageRec_same hblank, h]

/-- The frames in use once a page is put back to HOME. -/
theorem State.framesUsed_setPageRec_home (s : State) {r : PageRec} (h : r.place = 0) (f : Nat) :
    f ∈ (s.setPageRec r).framesUsed ↔ ∃ x ∈ s.pages, x.page ≠ r.page ∧ x.place ≠ 0 ∧ x.frame = f := by
  rw [State.mem_framesUsed_setPageRec]
  simp [h]

/-! ### Evictions (R242, R243) -/

/-- A page at HOME once its eviction has ended. -/
def State.evicted (s : State) (p : Nat) : State :=
  (s.setPageRec { s.pageRec p with place := 0, frame := 0, successor := none }).addReg regCadEvictions 1

/-- The page that follows into the frame, once it may. -/
def State.follower (s : State) (p c : Nat) : State :=
  if (s.evicted p).pageState c = 4 ∧ ((s.evicted p).pageRec c).place = 0 ∧ (s.evicted p).cadOpen = true then
    (s.evicted p).promote c (s.pageRec p).frame
  else s.evicted p

section Eviction

variable {s : State} {p : Nat} (hplace : (s.pageRec p).place = 3) (hreaders : (s.pageRec p).readers = 0)
include hplace hreaders

theorem State.evictionEnds_of_alone (hnext : (s.pageRec p).successor = none) :
    s.evictionEnds p = some (s.evicted p).refreshReady.retireImages := by
  unfold State.evictionEnds
  dsimp only
  rw [if_pos ⟨hplace, hreaders⟩, hnext]
  rfl

theorem State.evictionEnds_of_followed {c : Nat} (hnext : (s.pageRec p).successor = some c) :
    s.evictionEnds p = some (s.follower p c).refreshReady.retireImages := by
  unfold State.evictionEnds
  dsimp only
  rw [if_pos ⟨hplace, hreaders⟩, hnext]
  rfl

end Eviction

/-- The state of a page follows from the registers at and above the region entries, SMS_DARN and the publications. -/
theorem State.pageState_congr {s t : State} (hv : t.variant = s.variant) (hpubs : t.pubs = s.pubs)
    (hreg0 : ∀ o, regCadWregion 0 ≤ o → t.reg0 o = s.reg0 o) (hdarn : t.reg regSmsDarn = s.reg regSmsDarn) (p : Nat) :
    t.pageState p = s.pageState p := by
  have hregion (i : Nat) : t.reg0 (regCadWregion i) = s.reg0 (regCadWregion i) :=
    hreg0 _ (by simp only [regCadWregion]; omega)
  have hregionHi (i : Nat) : t.reg0 (regCadWregionHi i) = s.reg0 (regCadWregionHi i) :=
    hreg0 _ (by simp only [regCadWregion, regCadWregionHi]; omega)
  have himage (i : Nat) : t.reg0 (regCadImage i) = s.reg0 (regCadImage i) :=
    hreg0 _ (by simp only [regCadWregion, regCadImage]; omega)
  have hvalid : t.regionValid = s.regionValid := funext fun i => by simp only [State.regionValid, hregion]
  have hsealed : t.regionSealed = s.regionSealed := funext fun i => by simp only [State.regionSealed, hregion]
  have hfirst : t.regionFirst = s.regionFirst := funext fun i => by simp only [State.regionFirst, hregion]
  have hpages : t.regionPages = s.regionPages := funext fun i => by simp only [State.regionPages, hregionHi]
  have hstate : t.imgState = s.imgState := funext fun j => by simp only [State.imgState, himage]
  have hfirst' : t.imgFirst = s.imgFirst := funext fun j => by simp only [State.imgFirst, himage]
  have hpages' : t.imgPages = s.imgPages := funext fun j => by simp only [State.imgPages, himage]
  have hregionOf : t.regionOf p = s.regionOf p := by
    rw [State.regionOf, State.regionOf, State.regions, State.regions, hvalid, hfirst, hpages]
  have himageOf : t.imageOf p = s.imageOf p := by
    rw [State.imageOf, State.imageOf, State.images, State.images, hstate, hfirst', hpages']
  unfold State.pageState State.smsLimit State.allocLimit State.fld
  rw [hv, hdarn, hpubs, hregionOf, himageOf, hstate, hsealed]

theorem State.evicted_pageRec (s : State) (p x : Nat) :
    (s.evicted p).pageRec x =
      (s.setPageRec { s.pageRec p with place := 0, frame := 0, successor := none }).pageRec x :=
  State.pageRec_congr rfl x

theorem State.evicted_pageRec_other {s : State} {p x : Nat} (h : x ≠ p) : (s.evicted p).pageRec x = s.pageRec x :=
  (s.evicted_pageRec p x).trans (s.pageRec_setPageRec_other (by simpa using h))

theorem State.evicted_place (s : State) (p : Nat) : ((s.evicted p).pageRec p).place = 0 := by
  have hhome := s.place_setPageRec_home (r := { s.pageRec p with place := 0, frame := 0, successor := none }) rfl
  rw [State.evicted_pageRec]
  simpa using hhome

theorem State.evicted_framesUsed (s : State) (p f : Nat) :
    f ∈ (s.evicted p).framesUsed ↔ ∃ x ∈ s.pages, x.page ≠ p ∧ x.place ≠ 0 ∧ x.frame = f := by
  have hhome := s.framesUsed_setPageRec_home (r := { s.pageRec p with place := 0, frame := 0, successor := none }) rfl f
  rw [State.evicted, State.addReg_framesUsed, hhome]
  simp only [State.pageRec_page]

/-- What the end of an eviction leaves in registers, memory and tasks. -/
theorem State.evicted_contents {s : State} (h : Rising s.regs) (p : Nat) :
    (s.evicted p).reg regCadEvictions = (s.reg regCadEvictions + 1) % 2 ^ 64 ∧ (s.evicted p).mem = s.mem ∧
      (s.evicted p).tasks = s.tasks := by
  have hrise : Rising (s.setPageRec { s.pageRec p with place := 0, frame := 0, successor := none }).regs := by
    rwa [State.setPageRec_regs]
  refine ⟨?_, ?_, ?_⟩
  · rw [State.evicted, State.reg_addReg_same _ _ _ hrise, State.setPageRec_reg]
  · rw [State.evicted, State.addReg_mem, State.setPageRec_mem]
  · rw [State.evicted, State.addReg_tasks, State.setPageRec_tasks]

/-- Whether a page may follow into the frame does not depend on the end of the eviction itself. -/
theorem State.evicted_pageState (s : State) (p c : Nat) : (s.evicted p).pageState c = s.pageState c := by
  refine State.pageState_congr ?_ ?_ (fun o ho => ?_) ?_ c
  · rw [State.evicted, State.addReg_variant, State.setPageRec_variant]
  · rw [State.evicted, State.addReg_pubs, State.setPageRec_pubs]
  · have hne : o ≠ regCadEvictions := by
      simp only [regCadWregion, regCadEvictions] at ho ⊢
      omega
    exact (State.reg0_setReg_other _ _ _ hne).trans (State.setPageRec_reg0 _ _ o)
  · rw [State.evicted, State.reg_addReg_other _ _ _ _ (by decide), State.setPageRec_reg]

theorem State.evicted_cadOpen (s : State) (p : Nat) : (s.evicted p).cadOpen = s.cadOpen := by
  have hstatus : (s.evicted p).reg (statusReg 8) = s.reg (statusReg 8) := by
    rw [State.evicted, State.reg_addReg_other _ _ _ _ (by decide), State.setPageRec_reg]
  simp only [State.cadOpen, State.halted, State.halting, State.bit, State.fld, hstatus]

/-- The page that follows is promoted into the frame when it is ACTIVE and at HOME and the Cadastre runs. -/
theorem State.follower_of_ready {s : State} {p c : Nat} (hc : c ≠ p)
    (h : s.pageState c = 4 ∧ (s.pageRec c).place = 0 ∧ s.cadOpen = true) :
    s.follower p c = (s.evicted p).promote c (s.pageRec p).frame :=
  if_pos (by rwa [State.evicted_pageState, State.evicted_pageRec_other hc, State.evicted_cadOpen])

theorem State.follower_of_unready {s : State} {p c : Nat} (hc : c ≠ p)
    (h : ¬ (s.pageState c = 4 ∧ (s.pageRec c).place = 0 ∧ s.cadOpen = true)) : s.follower p c = s.evicted p :=
  if_neg (by rwa [State.evicted_pageState, State.evicted_pageRec_other hc, State.evicted_cadOpen])

theorem State.promote_pageRec (s : State) (c f : Nat) :
    ((s.promote c f).pageRec c).place = 1 ∧ ((s.promote c f).pageRec c).frame = f := by
  have hsame := s.pageRec_setPageRec_same (r := { s.pageRec c with place := 1, frame := f })
    (PageRec.not_blank_of_place (by simp))
  rw [State.pageRec_page] at hsame
  rw [State.promote, hsame]
  exact ⟨rfl, rfl⟩

theorem State.promote_pageRec_other (s : State) {c x : Nat} (f : Nat) (h : x ≠ c) :
    (s.promote c f).pageRec x = s.pageRec x :=
  s.pageRec_setPageRec_other (by simpa using h)

/-- What the end of an eviction has done to the records before marks and images follow it. -/
structure State.Evicted (s u : State) (p : Nat) : Prop where
  place : (u.pageRec p).place = 0
  others : ∀ x, x ≠ p → (s.pageRec p).successor ≠ some x → u.pageRec x = s.pageRec x
  count : u.reg regCadEvictions = (s.reg regCadEvictions + 1) % 2 ^ 64
  mem : u.mem = s.mem
  tasks : u.tasks = s.tasks

theorem State.Evicted.marked {s u v : State} {p : Nat} (h : s.Evicted u p) (g : u.ResMarked v) : s.Evicted v p := by
  refine ⟨?_, fun x hx hnext => ?_, (g.reg _ (by decide)).trans h.count, g.mem.trans h.mem, g.tasks.trans h.tasks⟩
  · rw [State.pageRec_congr g.pages, h.place]
  · rw [State.pageRec_congr g.pages, h.others x hx hnext]

theorem State.evicted_spec {s : State} (h : Rising s.regs) (p : Nat) : s.Evicted (s.evicted p) p := by
  obtain ⟨hcount, hmem, htasks⟩ := State.evicted_contents h p
  exact ⟨s.evicted_place p, fun x hx _ => State.evicted_pageRec_other hx, hcount, hmem, htasks⟩

theorem State.evicted_promote_spec {s : State} (h : Rising s.regs) {p c : Nat} (hc : c ≠ p)
    (hnext : (s.pageRec p).successor = some c) (f : Nat) : s.Evicted ((s.evicted p).promote c f) p := by
  obtain ⟨hcount, hmem, htasks⟩ := State.evicted_contents h p
  refine ⟨?_, fun x hx hother => ?_, ?_, ?_, ?_⟩
  · rw [State.promote_pageRec_other _ _ hc.symm, State.evicted_place]
  · have hxc : x ≠ c := fun e => hother (e ▸ hnext)
    rw [State.promote_pageRec_other _ _ hxc, State.evicted_pageRec_other hx]
  · rw [State.promote, State.setPageRec_reg, hcount]
  · rw [State.promote, State.setPageRec_mem, hmem]
  · rw [State.promote, State.setPageRec_tasks, htasks]

/-- Settles O39: each command is one change of page records, and marks of residency entries and the freeing of images
follow it. -/
theorem heatHalvesAndPagesMove : Obligations.HeatHalvesAndPagesMove := by
  intro s p hs
  dsimp only
  have hrise : Rising s.quiet.regs := hs.regs.1
  refine ⟨fun htable hdue hhalted hhalting hstopped hr => ?_, fun hplace hread => ?_, fun ok hplace hfail => ?_,
    fun hplace hreaders hself => ?_⟩
  · obtain ⟨hcooled, hat, hmem, htasks⟩ := s.quiet.heatEpoch_spec
    exact ⟨_, exec_heatEpochEnd htable hdue hhalted hhalting hstopped hr, hcooled, hat, hmem, htasks⟩
  · have hmarks := (s.quiet.copied p).refreshReady_resMarked
    obtain ⟨hcount, hmem, htasks⟩ := State.copied_contents hrise p
    refine ⟨_, exec_promotionComplete (State.promotionEnds_of_copied (s := s.quiet) hplace hread), ?_, fun x hx => ?_,
      (hmarks.reg _ (by decide)).trans hcount, hmarks.mem.trans hmem, hmarks.tasks.trans htasks⟩
    · rw [State.pageRec_congr hmarks.pages]
      exact s.quiet.copied_pageRec p
    · rw [State.pageRec_congr hmarks.pages]
      exact s.quiet.copied_pageRec_other hx
  · have hhome := s.quiet.place_setPageRec_home (r := { s.pageRec p with place := 0, frame := 0 }) rfl
    refine ⟨_, exec_promotionComplete (State.promotionEnds_of_failed (s := s.quiet) hplace hfail), by simpa using hhome,
      fun x hx => s.quiet.pageRec_setPageRec_other (by simpa using hx), fun f => ?_, State.setPageRec_regs _ _,
      State.setPageRec_mem _ _, State.setPageRec_tasks _ _⟩
    have hframes := s.quiet.framesUsed_setPageRec_home (r := { s.pageRec p with place := 0, frame := 0 }) rfl f
    simpa using hframes
  · cases hnext : (s.pageRec p).successor with
    | none =>
      have hmarks := (s.quiet.evicted p).refreshReady_resMarked
      obtain ⟨hhome, hothers, hcount, hmem, htasks⟩ := (State.evicted_spec hrise p).marked hmarks
      refine ⟨_, exec_evictionComplete (State.evictionEnds_of_alone (s := s.quiet) hplace hreaders hnext), hhome,
        fun x hx _ => hothers x hx (by rw [State.quiet_pageRec, hnext]; nofun), hcount, hmem, htasks, fun _ f => ?_, nofun⟩
      rw [State.framesUsed_congr hmarks.pages]
      exact s.quiet.evicted_framesUsed p f
    | some c =>
      have hc : c ≠ p := fun e => hself (e ▸ hnext)
      have hends := State.evictionEnds_of_followed (s := s.quiet) hplace hreaders hnext
      have hpass (x : Nat) (h : some c ≠ some x) : (s.quiet.pageRec p).successor ≠ some x := by
        rwa [State.quiet_pageRec, hnext]
      by_cases hready : s.pageState c = 4 ∧ (s.pageRec c).place = 0 ∧ s.cadOpen = true
      · rw [State.follower_of_ready (s := s.quiet) hc hready] at hends
        have hmarks := ((s.quiet.evicted p).promote c (s.quiet.pageRec p).frame).refreshReady_resMarked
        obtain ⟨hhome, hothers, hcount, hmem, htasks⟩ :=
          (State.evicted_promote_spec hrise hc hnext (s.quiet.pageRec p).frame).marked hmarks
        refine ⟨_, exec_evictionComplete hends, hhome, fun x hx h => hothers x hx (hpass x h), hcount, hmem, htasks, nofun,
          fun d hd => ?_⟩
        cases hd
        refine ⟨fun _ _ _ => ?_, fun hno => ?_⟩
        · rw [State.pageRec_congr hmarks.pages]
          exact State.promote_pageRec _ _ _
        · obtain ⟨hactive, hat, hopen⟩ := hready
          rcases hno with h | h | h
          · exact absurd hactive h
          · exact absurd hat h
          · rw [hopen] at h
            cases h
      · rw [State.follower_of_unready (s := s.quiet) hc hready] at hends
        have hmarks := (s.quiet.evicted p).refreshReady_resMarked
        obtain ⟨hhome, hothers, hcount, hmem, htasks⟩ := (State.evicted_spec hrise p).marked hmarks
        refine ⟨_, exec_evictionComplete hends, hhome, fun x hx h => hothers x hx (hpass x h), hcount, hmem, htasks, nofun,
          fun d hd => ?_⟩
        cases hd
        refine ⟨fun hactive hat hopen => absurd ⟨hactive, hat, hopen⟩ hready, fun _ => ⟨?_, fun f => ?_⟩⟩
        · rw [State.pageRec_congr hmarks.pages]
          exact State.evicted_pageRec_other hc
        · rw [State.framesUsed_congr hmarks.pages]
          exact s.quiet.evicted_framesUsed p f

end Sys2Proof.Machine
end

section
/-! Reports: what an error record, the bytes it stores and an event entry leave alone. The registers of the Cadastre and
of the stacks stand, and so do page records and the state of the stacks but for the granules that a write marks copied
(R257, R420, R421). -/

namespace Sys2Proof.Machine

open Sys2Proof

/-- The registers of the Cadastre and of the Stack Memory Subsystem. -/
abbrev memoryReg (o : Nat) : Prop := 0x600000 ≤ o ∧ o < 0x800000

/-- From `s` to `t` only bytes, reports and the journal change. -/
structure State.Reports (s t : State) : Prop where
  variant : t.variant = s.variant
  time : t.time = s.time
  pages : t.pages = s.pages
  reg : ∀ o, memoryReg o → t.reg o = s.reg o
  hbm : ∃ n l, t.hbm = { s.hbm with darnCopied := n, darnMarked := l }

namespace State.Reports

theorem refl (s : State) : s.Reports s := ⟨rfl, rfl, rfl, fun _ _ => rfl, _, _, rfl⟩

theorem trans {s t u : State} (h : s.Reports t) (g : t.Reports u) : s.Reports u := by
  obtain ⟨n, l, hn⟩ := h.hbm
  obtain ⟨m, k, hm⟩ := g.hbm
  exact ⟨g.variant.trans h.variant, g.time.trans h.time, g.pages.trans h.pages,
    fun o ho => (g.reg o ho).trans (h.reg o ho), m, k, by rw [hm, hn]⟩

theorem foldl {α : Type} {f : State → α → State} (hf : ∀ (z : State) (a : α), z.Reports (f z a)) (l : List α)
    (s : State) : s.Reports (l.foldl f s) :=
  List.foldlRecOn (motive := fun t => s.Reports t) l f (refl s) fun t ht a _ => ht.trans (hf t a)

/-- A change of fields other than those concerned. -/
theorem of_same {s t : State} (hv : t.variant = s.variant) (ht : t.time = s.time) (hp : t.pages = s.pages)
    (hr : t.regs = s.regs) (hh : t.hbm = s.hbm) : s.Reports t :=
  ⟨hv, ht, hp, fun o _ => State.reg_congr hv hr o, s.hbm.darnCopied, s.hbm.darnMarked, hh⟩

end State.Reports

theorem State.setReg_reports (s : State) {off : Nat} (h : ¬ memoryReg off) (v : Nat) : s.Reports (s.setReg off v) :=
  ⟨rfl, rfl, rfl, fun o ho => s.reg_setReg_other off v o fun e => h (e ▸ ho), _, _, rfl⟩

theorem State.setBit_reports (s : State) {off : Nat} (h : ¬ memoryReg off) (i : Nat) (b : Bool) :
    s.Reports (s.setBit off i b) :=
  s.setReg_reports h _

theorem State.addReg_reports (s : State) {off : Nat} (h : ¬ memoryReg off) (n : Nat) : s.Reports (s.addReg off n) :=
  s.setReg_reports h _

theorem not_memoryReg_rruCount (k : Nat) : ¬ memoryReg (regRruCount k) := by
  simp only [memoryReg, regRruCount]
  omega

theorem not_memoryReg_irq (k : Nat) : ¬ memoryReg (regOdlIrqPending k) := by
  simp only [memoryReg, regOdlIrqPending]
  omega

/-! ### Bytes stored -/

theorem State.store_reports (s : State) (a : Nat) (bs : List Byte) : s.Reports (s.store a bs) :=
  .of_same rfl rfl rfl rfl rfl

theorem State.storeWindow_reports (s : State) (a : Nat) (bs : List Byte) : s.Reports (s.storeWindow a bs) :=
  .of_same rfl rfl rfl rfl rfl

theorem State.writeBack_reports (s : State) (l : Nat) : s.Reports (s.writeBack l) := .of_same rfl rfl rfl rfl rfl

theorem State.trimWindow_reports (s : State) : s.Reports s.trimWindow := by
  refine .foldl (fun z _ => ?_) _ s
  split
  · exact z.writeBack_reports _
  · exact .refl z

theorem State.darnWrite_reports (s : State) (a : Nat) : s.Reports (s.darnWrite a) := by
  unfold State.darnWrite
  dsimp only
  split
  · split
    · split
      · exact ⟨rfl, rfl, rfl, fun _ _ => rfl, _, _, rfl⟩
      · split
        · exact ⟨rfl, rfl, rfl, fun _ _ => rfl, _, _, rfl⟩
        · exact .refl s
    · exact .refl s
  · exact .refl s

theorem State.land_reports (s : State) (a : Nat) (bs : List Byte) : s.Reports (s.land a bs) := by
  unfold State.land
  split
  · split
    · exact .refl s
    · exact (s.storeWindow_reports a bs).trans (State.trimWindow_reports _)
  · split
    · exact .refl s
    · exact (s.darnWrite_reports a).trans (State.store_reports _ _ _)
  · split
    · exact .refl s
    · exact s.store_reports a bs
  · exact .refl s
  · exact s.store_reports a bs

/-! ### Error records (R420, R421) -/

theorem State.putRing_reports (s : State) (off : Nat) (bs : List Byte) : s.Reports (s.putRing off bs) := by
  unfold State.putRing
  split
  · refine .foldl (fun z p => ?_) _ s
    split
    · exact z.addReg_reports (not_memoryReg_rruCount _) 1
    · exact z.land_reports _ _
  · exact .refl s

theorem State.irq_reports (s : State) (v : Nat) : s.Reports (s.irq v) := s.setBit_reports (not_memoryReg_irq _) _ true

theorem State.ibi_reports (s : State) (d : Byte) : s.Reports (s.ibi d) := by
  unfold State.ibi
  split
  · exact .of_same rfl rfl rfl rfl rfl
  · exact .refl s

theorem State.alert_reports (s : State) (i : Nat) : s.Reports (s.alert i) := by
  unfold State.alert
  split
  · exact .refl s
  · exact (s.setBit_reports (by decide) _ _).trans (State.ibi_reports _ _)

/-- The newest record noted. -/
def State.noteNewest (s : State) (n : Option (Nat × Nat × Nat × Nat × Nat)) : State :=
  { s with rru := { s.rru with newest := n } }

/-- A record stored in its slot, the head moved past it, and its interrupt. -/
def State.slotFilled (s : State) (r : ErrRec) : State :=
  let head := s.reg regRruErrHead
  let slot := head % s.reg regRruErrSlots
  (((s.putRing (64 * slot) (r.encode s.time 1)).noteNewest (some (r.kind, r.unit, r.addr, s.time, slot))).setReg
    regRruErrHead (head + 1)).irq 64

theorem State.noteNewest_reports (s : State) (n : Option (Nat × Nat × Nat × Nat × Nat)) : s.Reports (s.noteNewest n) :=
  .of_same rfl rfl rfl rfl rfl

theorem State.slotFilled_reports (s : State) (r : ErrRec) : s.Reports (s.slotFilled r) :=
  (((s.putRing_reports _ _).trans (State.noteNewest_reports _ _)).trans
    (State.setReg_reports _ (show ¬ memoryReg regRruErrHead by decide) _)).trans (State.irq_reports _ _)

theorem State.recordNew_of_full {s : State} (h : s.reg regRruErrHead - s.reg regRruErrTail ≥ s.reg regRruErrSlots)
    (r : ErrRec) : s.recordNew r = s.setBit regRruStatus 6 true :=
  if_pos h

theorem State.recordNew_of_room {s : State} (h : ¬ s.reg regRruErrHead - s.reg regRruErrTail ≥ s.reg regRruErrSlots)
    (r : ErrRec) : s.recordNew r = if r.scope = 6 then (s.slotFilled r).alert 0 else s.slotFilled r :=
  if_neg h

theorem State.recordNew_reports (s : State) (r : ErrRec) : s.Reports (s.recordNew r) := by
  by_cases h : s.reg regRruErrHead - s.reg regRruErrTail ≥ s.reg regRruErrSlots
  · rw [State.recordNew_of_full h]
    exact s.setBit_reports (by decide) _ _
  · rw [State.recordNew_of_room h]
    split
    · exact (s.slotFilled_reports r).trans (State.alert_reports _ _)
    · exact s.slotFilled_reports r

theorem State.record_reports (s : State) (r : ErrRec) : s.Reports (s.record r) := by
  have hcount := s.addReg_reports (not_memoryReg_rruCount r.kind) 1
  unfold State.record
  dsimp only
  split
  · split
    · exact hcount.trans (State.putRing_reports _ _ _)
    · exact hcount.trans (State.recordNew_reports _ _)
  · exact hcount.trans (State.recordNew_reports _ _)

theorem State.putBytes_reports (s : State) (a : Nat) (bs : List Byte) : s.Reports (s.putBytes a bs) := by
  refine .foldl (fun z p => ?_) _ s
  unfold State.put
  split
  · exact .refl z
  · split
    · exact z.record_reports _
    · exact z.land_reports _ _

/-! ### Event entries (R95 to R103) -/

theorem State.journal_reports (s : State) (j : Journal) : s.Reports { s with journal := j } :=
  .of_same rfl rfl rfl rfl rfl

theorem State.startSigning_reports (s : State) : s.Reports s.startSigning := .of_same rfl rfl rfl rfl rfl

theorem State.updateBacklog_reports (s : State) : s.Reports s.updateBacklog := by
  have hbit := s.setBit_reports (show ¬ memoryReg regSecStatus by decide) 6 (decide (2 ≤ s.journal.signing.length))
  unfold State.updateBacklog
  dsimp only
  split
  · exact hbit.trans (State.irq_reports _ _)
  · exact hbit

theorem State.closeSegment_reports (s : State) (cause : Nat) : s.Reports (s.closeSegment cause) := by
  by_cases hcount : s.journal.count = 0
  · rw [State.closeSegment_of_empty hcount]
    exact .refl s
  · have hclosed : s.Reports (s.segmentClosed cause) :=
      ((s.journal_reports _).trans
        (State.setReg_reports _ (show ¬ memoryReg regCmdJournalClosed by decide) _)).trans
        (State.addReg_reports _ (show ¬ memoryReg regCmdJsigHead by decide) _)
    rw [State.closeSegment_of_open hcount]
    exact (hclosed.trans (State.startSigning_reports _)).trans (State.updateBacklog_reports _)

theorem State.updateFull_reports (s : State) : s.Reports s.updateFull := by
  have hbit := s.setBit_reports (show ¬ memoryReg regCmdStatus by decide) 3 (decide (s.journalFree < 4160))
  rcases s.updateFull_cases with h | h | h
  · rw [h]
    exact (hbit.trans (State.irq_reports _ _)).trans (State.closeSegment_reports _ _)
  · rw [h]
    exact hbit
  · rw [h]
    exact hbit.trans (State.journal_reports _ _)

theorem State.setEntryRegs_reports (s : State) (q c : Nat) : s.Reports (s.setEntryRegs q c) :=
  (((((s.setReg_reports (by decide) _).trans (State.setReg_reports _ (by decide) _)).trans
    (State.setReg_reports _ (by decide) _)).trans (State.setReg_reports _ (by decide) _)).trans
    (State.setReg_reports _ (by decide) _)).trans (State.setReg_reports _ (by decide) _)

theorem State.writeEntry_reports (s : State) (head tail : List Byte) : s.Reports (s.writeEntry head tail) := by
  obtain ⟨j, hj⟩ := s.writeEntry_eq head tail
  have hset : s.Reports { (s.putEntry head tail).setEntryRegs (s.reg regCmdJournalHead) (leNat (s.entryChain head)) with
      journal := j } :=
    ((s.putBytes_reports _ _).trans (State.setEntryRegs_reports _ _ _)).trans (State.journal_reports _ j)
  rw [hj]
  refine .trans ?_ (State.updateFull_reports _)
  split
  · exact hset.trans (State.closeSegment_reports _ _)
  · exact hset

theorem State.event_reports (s : State) (code arg : Nat) (digest : List Byte) : s.Reports (s.event code arg digest) := by
  unfold State.event
  dsimp only
  refine .trans ?_ (State.writeEntry_reports _ _ _)
  split
  · exact .of_same rfl rfl rfl rfl rfl
  · exact .refl s

theorem State.resumeEntry_reports (s : State) (f : Nat) : s.Reports (s.resumeEntry f) := s.event_reports _ _ _

theorem State.wait_reports (s : State) (w : Waiting) : s.Reports (s.wait w) := .of_same rfl rfl rfl rfl rfl

end Sys2Proof.Machine
end

section
/-! What retraining, fencing and darning leave alone: the error counters of the channels and the rows queued for repair
(R248, R251 to R256). -/

namespace Sys2Proof.Machine

open Sys2Proof

/-- The registers that count and measure for one channel. -/
abbrev channelReg (o : Nat) : Prop := 0x700000 ≤ o ∧ o < 0x7C0000

/-- From `s` to `t` no channel's counters move and no row joins or leaves the queue for repair. -/
structure State.CountersKept (s t : State) : Prop where
  repairs : t.hbm.repairs = s.hbm.repairs
  reg : ∀ o, channelReg o → t.reg o = s.reg o

namespace State.CountersKept

theorem refl (s : State) : s.CountersKept s := ⟨rfl, fun _ _ => rfl⟩

theorem trans {s t u : State} (h : s.CountersKept t) (g : t.CountersKept u) : s.CountersKept u :=
  ⟨g.repairs.trans h.repairs, fun o ho => (g.reg o ho).trans (h.reg o ho)⟩

theorem foldl {α : Type} {f : State → α → State} (hf : ∀ (z : State) (a : α), z.CountersKept (f z a)) (l : List α)
    (s : State) : s.CountersKept (l.foldl f s) :=
  List.foldlRecOn (motive := fun t => s.CountersKept t) l f (refl s) fun t ht a _ => ht.trans (hf t a)

theorem of_reports {s t : State} (h : s.Reports t) : s.CountersKept t := by
  obtain ⟨n, l, hhbm⟩ := h.hbm
  exact ⟨by rw [hhbm], fun o ⟨hlo, hhi⟩ => h.reg o ⟨by omega, by omega⟩⟩

theorem queued {s t : State} (h : s.CountersKept t) (ch row : Nat) : t.repairQueued ch row = s.repairQueued ch row := by
  unfold State.repairQueued
  rw [h.repairs]

end State.CountersKept

theorem State.setReg_countersKept (s : State) {off : Nat} (h : ¬ channelReg off) (v : Nat) :
    s.CountersKept (s.setReg off v) :=
  ⟨rfl, fun o ho => s.reg_setReg_other off v o fun e => h (e ▸ ho)⟩

theorem State.setFld_countersKept (s : State) {off : Nat} (h : ¬ channelReg off) (hi lo v : Nat) :
    s.CountersKept (s.setFld off hi lo v) :=
  s.setReg_countersKept h _

theorem State.setBit_countersKept (s : State) {off : Nat} (h : ¬ channelReg off) (i : Nat) (b : Bool) :
    s.CountersKept (s.setBit off i b) :=
  s.setReg_countersKept h _

theorem State.modHbm_countersKept (s : State) {f : Hbm → Hbm} (h : (f s.hbm).repairs = s.hbm.repairs) :
    s.CountersKept (s.modHbm f) :=
  ⟨h, fun o _ => State.reg_congr rfl rfl o⟩

/-! ### Retraining -/

theorem State.waitersOn_countersKept (s : State) (ch : Nat) : s.CountersKept (s.waitersOn ch) :=
  ⟨rfl, fun o _ => State.reg_congr rfl rfl o⟩

theorem not_channelReg_retrainReq (i : Nat) : ¬ channelReg (regSmsRetrainReq i) := by
  simp only [channelReg, regSmsRetrainReq]
  omega

theorem not_channelReg_marginReq (i : Nat) : ¬ channelReg (regSmsMarginReq i) := by
  simp only [channelReg, regSmsMarginReq]
  omega

theorem State.updateRetraining_countersKept (s : State) : s.CountersKept s.updateRetraining :=
  s.setBit_countersKept (by decide) _ _

theorem State.startRetrain_countersKept (s : State) (ch : Nat) : s.CountersKept (s.startRetrain ch) :=
  (((s.modHbm_countersKept rfl).trans (State.setBit_countersKept _ (not_channelReg_retrainReq (ch / 64)) _ _)).trans
    (State.waitersOn_countersKept _ ch)).trans (State.updateRetraining_countersKept _)

theorem State.startUrgent_countersKept (s : State) : s.CountersKept s.startUrgent := by
  unfold State.startUrgent
  split
  · refine .foldl (fun z ch => ?_) _ s
    split
    · exact z.startRetrain_countersKept ch
    · exact .refl z
  · exact .refl s

theorem State.startRetrain_mem (s : State) (ch : Nat) : (s.startRetrain ch).mem = s.mem := rfl

theorem State.startUrgent_mem (s : State) : s.startUrgent.mem = s.mem := by
  unfold State.startUrgent
  split
  · refine List.foldlRecOn (motive := fun t : State => t.mem = s.mem) _ _ rfl fun t ht ch _ => ?_
    split
    · exact (t.startRetrain_mem ch).trans ht
    · exact ht
  · rfl

/-! ### Fencing and darning -/

theorem State.recordFailed_countersKept (s : State) (ch action : Nat) : s.CountersKept (s.recordFailed ch action) :=
  .of_reports (s.record_reports _)

theorem State.fence_countersKept (s : State) (ch : Nat) : s.CountersKept (s.fence ch) := by
  unfold State.fence
  split
  · exact .refl s
  · exact (s.modHbm_countersKept rfl).trans (State.recordFailed_countersKept _ _ _)

theorem State.openDarning_countersKept (s : State) (ch : Nat) : s.CountersKept (s.openDarning ch) :=
  ((s.setReg_countersKept (show ¬ channelReg regRruDarnOpen by decide) _).trans
    (State.modHbm_countersKept _ rfl)).trans (.of_reports (State.resumeEntry_reports _ _))

/-- D raised and H lowered, with DARNING set (R256). -/
def State.darnCounted (s : State) : State :=
  ((s.setFld regSmsDarn 19 16 (s.fld regSmsDarn 19 16 + 1)).setFld regSmsDarn 3 0 (s.fld regSmsDarn 3 0 - 1)).setBit
    regSmsStatus 5 true

theorem State.darnCounted_countersKept (s : State) : s.CountersKept s.darnCounted :=
  ((s.setFld_countersKept (by decide) _ _ _).trans (State.setFld_countersKept _ (by decide) _ _ _)).trans
    (State.setBit_countersKept _ (by decide) _ _)

theorem State.startDarning_eq (s : State) (ch : Nat) :
    ∃ f : Hbm → Hbm, (∀ h, (f h).repairs = h.repairs) ∧
      (s.startDarning ch = (s.darnCounted.modHbm f).openDarning ch ∨
        s.startDarning ch = (s.darnCounted.modHbm f).wait (.darnOpen ch)) := by
  refine ⟨fun x => { x with darning := some (ch, false), fenced := setErase ch x.fenced,
                            darnTable := ch :: x.darnTable, darnCopied := 0, darnMarked := [],
                            due := setErase ch x.due, urgent := setErase ch x.urgent,
                            training := setErase ch x.training, margining := setErase ch x.margining,
                            sweeps := x.sweeps.filter fun g => g.1 != ch }, fun _ => rfl, ?_⟩
  exact ite_eq_or_eq _ _ _

theorem State.startDarning_countersKept (s : State) (ch : Nat) : s.CountersKept (s.startDarning ch) := by
  obtain ⟨f, hf, h | h⟩ := s.startDarning_eq ch <;> rw [h]
  · exact (s.darnCounted_countersKept.trans (State.modHbm_countersKept _ (hf _))).trans
      (State.openDarning_countersKept _ ch)
  · exact (s.darnCounted_countersKept.trans (State.modHbm_countersKept _ (hf _))).trans
      (.of_reports (State.wait_reports _ _))

theorem State.darnNext_countersKept (f : Nat) : ∀ s : State, s.CountersKept (s.darnNext f) := by
  induction f with
  | zero => exact fun s => .refl s
  | succ f ih =>
    intro s
    unfold State.darnNext
    split
    · exact .refl s
    · next ch rest _ =>
      have hrest := s.modHbm_countersKept (f := fun h => { h with failed := rest }) rfl
      split
      · split
        · exact hrest.trans (State.startDarning_countersKept _ ch)
        · exact .refl s
      · exact (hrest.trans (State.fence_countersKept _ ch)).trans (ih _)

theorem State.failChannel_countersKept (s : State) (ch : Nat) : s.CountersKept (s.failChannel ch) := by
  unfold State.failChannel
  split
  · exact .refl s
  · exact (s.modHbm_countersKept rfl).trans (State.darnNext_countersKept _ _)

end Sys2Proof.Machine
end

section
/-! Reads of the stacks that find errors: the channels they name, the counters that rise, and the rows queued for repair
(R223, R247, R248, R256). -/

namespace Sys2Proof.Machine

open Sys2Proof

/-! ### The channels that addresses lie on -/

theorem channelAt_lt (v : Variant) (units a : Nat) : (channelAt v units a).1 < 384 := by
  rcases near_or_far v units a with ⟨q, hq, hlo, hhi⟩ | hfar
  · rw [channelAt_near v units hq hlo hhi]
    exact quadChannel_lt v q (Nat.mod_lt _ (chansPerQuad_pos v)) hq
  · have hpos : 0 < 4 * chansPerQuad v := Nat.mul_pos (by decide) (chansPerQuad_pos v)
    rw [channelAt_far v units hfar]
    exact quadChannel_lt v _ (Nat.div_lt_of_lt_mul (Nat.mod_lt _ hpos)) (Nat.mod_lt _ (by decide))

/-- The walk along a darn table ends where the table before it leads. -/
theorem darnChase_lt {place : Nat → Nat × Nat} (h : ∀ g, (place g).1 < 384) (c base f : Nat) :
    ∀ o, (darnChase place c base f o).1 < 384 := by
  induction f with
  | zero =>
    intro o
    rw [darnChase]
    exact h _
  | succ f ih =>
    intro o
    rw [darnChase]
    split
    · exact ih _
    · exact h _

/-- One more darning leaves a granule where it was, or walks on from there. -/
theorem darnPlace_cons_cases (v : Variant) (units c g : Nat) (l : List Nat) :
    darnPlace v units (c :: l) g = darnPlace v units l g ∨
      ∃ base f o, darnPlace v units (c :: l) g = darnChase (darnPlace v units l) c base f o := by
  by_cases hc : (darnPlace v units l g).1 = c
  · exact .inr ⟨_, _, _, by rw [darnPlace, if_pos hc]⟩
  · exact .inl (darnPlace_cons_of_ne hc)

theorem fst_lt_of_eq {p : Nat × Nat} {a b n : Nat} (h : p = (a, b)) (ha : a < n) : p.1 < n := by
  subst h
  exact ha

theorem darnPlace_lt (v : Variant) (units : Nat) (l : List Nat) : ∀ g, (darnPlace v units l g).1 < 384 := by
  induction l with
  | nil =>
    intro g
    exact fst_lt_of_eq (darnPlace_nil v units g) (channelAt_lt v units _)
  | cons c l ih =>
    intro g
    rcases darnPlace_cons_cases v units c g l with h | ⟨base, f, o, h⟩
    · rw [h]
      exact ih g
    · rw [h]
      exact darnChase_lt ih c base f o

/-- Whatever the darn table, an address lies on one of the 384 channels. -/
theorem State.placeOf_lt (s : State) (a : Nat) : (s.placeOf a).1 < 384 := by
  unfold State.placeOf
  split
  · exact channelAt_lt _ _ _
  · dsimp only
    split
    · exact darnPlace_lt _ _ _ _
    · exact darnPlace_lt _ _ _ _

section Counters

variable {ch : Nat} (h : ch < 384)
include h

theorem channelReg_corrected : channelReg (regSmsChCorrected ch) := by
  simp only [channelReg, regSmsChCorrected]
  omega

theorem channelReg_uncorrected : channelReg (regSmsChUncorrected ch) := by
  simp only [channelReg, regSmsChUncorrected]
  omega

theorem channelReg_repairs : channelReg (regSmsChRepairs ch) := by
  simp only [channelReg, regSmsChRepairs]
  omega

theorem channelReg_retrains : channelReg (regSmsChRetrains ch) := by
  simp only [channelReg, regSmsChRetrains]
  omega

end Counters

/-! ### Rows noted and queued (R248, R545) -/

section Rows

variable (s : State) (ch line row : Nat)

theorem State.noteRow_mem : (s.noteRow ch line row).mem = s.mem := by
  unfold State.noteRow
  split <;> rfl

theorem State.noteRow_regs : (s.noteRow ch line row).regs = s.regs := by
  unfold State.noteRow
  split <;> rfl

theorem State.noteRow_variant : (s.noteRow ch line row).variant = s.variant := by
  unfold State.noteRow
  split <;> rfl

theorem State.noteRow_reg (o : Nat) : (s.noteRow ch line row).reg o = s.reg o :=
  State.reg_congr (s.noteRow_variant ch line row) (s.noteRow_regs ch line row) o

theorem State.queueRepair_mem : (s.queueRepair ch row).mem = s.mem := by
  unfold State.queueRepair
  split <;> rfl

theorem State.queueRepair_reg (o : Nat) : (s.queueRepair ch row).reg o = s.reg o := by
  unfold State.queueRepair
  split
  · rfl
  · exact State.reg_congr rfl rfl o

theorem State.repairQueued_queueRepair : (s.queueRepair ch row).repairQueued ch row = true := by
  unfold State.queueRepair
  split
  · next h => exact h
  · simp [State.repairQueued, State.modHbm]

end Rows

/-! ### What a read in error counts (R247) -/

/-- A corrected read noted and counted. -/
def State.correctedCounted (s : State) (ch row0 line : Nat) : State :=
  ((s.noteRow ch line row0).addReg (regSmsChCorrected ch) 1).modHbm fun h =>
    { h with corrected := (h.corrected.filter fun c => decide (s.time < c.2.2.2 + dayNs)) ++
        [(ch, s.rowOf ch line row0, line, s.time)] }

/-- The retrain that a channel with many corrected errors asks for (R251). -/
def State.askRetrain (s : State) (ch : Nat) : State :=
  if 16 * s.ceLimit < s.recentCorrected ch ∧ s.channelServes ch = true then
    (s.modHbm fun h => { h with urgent := setInsert ch h.urgent }).startUrgent
  else if s.ceLimit < s.recentCorrected ch ∧ s.channelServes ch = true then
    s.modHbm fun h => { h with due := setInsert ch h.due }
  else s

theorem State.correctedRead_cases (s : State) (ch row0 line : Nat) :
    s.correctedRead ch row0 line = ((s.correctedCounted ch row0 line).queueRepair ch (s.rowOf ch line row0)).askRetrain ch ∨
      s.correctedRead ch row0 line = (s.correctedCounted ch row0 line).askRetrain ch := by
  let same := ((s.correctedCounted ch row0 line).hbm.corrected.filter fun c =>
    c.1 == ch && c.2.1 == s.rowOf ch line row0 && c.2.2.1 == line).length
  by_cases h : 3 ≤ same
  · exact .inl (congrArg (State.askRetrain · ch) (if_pos h))
  · exact .inr (congrArg (State.askRetrain · ch) (if_neg h))

theorem State.askRetrain_countersKept (s : State) (ch : Nat) : s.CountersKept (s.askRetrain ch) := by
  unfold State.askRetrain
  split
  · exact (s.modHbm_countersKept rfl).trans (State.startUrgent_countersKept _)
  · split
    · exact s.modHbm_countersKept rfl
    · exact .refl s

theorem State.askRetrain_mem (s : State) (ch : Nat) : (s.askRetrain ch).mem = s.mem := by
  unfold State.askRetrain
  split
  · exact State.startUrgent_mem _
  · split <;> rfl

section Counted

variable {s : State} (hs : Rising s.regs) {ch : Nat} (hch : ch < 384) (row0 line : Nat)

theorem State.correctedCounted_mem (s : State) (ch row0 line : Nat) :
    (s.correctedCounted ch row0 line).mem = s.mem :=
  s.noteRow_mem ch line row0

include hs in
theorem State.correctedCounted_reg :
    (s.correctedCounted ch row0 line).reg (regSmsChCorrected ch) = (s.reg (regSmsChCorrected ch) + 1) % 2 ^ 64 := by
  have hrising : Rising (s.noteRow ch line row0).regs := by rwa [State.noteRow_regs]
  rw [← s.noteRow_reg ch line row0, ← State.reg_addReg_same _ _ 1 hrising]
  exact State.reg_congr rfl rfl _

include hs hch in
/-- A corrected read moves no byte, and its channel's count rises by one. -/
theorem State.correctedRead_spec :
    (s.correctedRead ch row0 line).mem = s.mem ∧
      (s.correctedRead ch row0 line).reg (regSmsChCorrected ch) = (s.reg (regSmsChCorrected ch) + 1) % 2 ^ 64 := by
  have hreg := channelReg_corrected hch
  rcases s.correctedRead_cases ch row0 line with h | h <;> rw [h]
  · rw [State.askRetrain_mem, State.queueRepair_mem, (State.askRetrain_countersKept _ ch).reg _ hreg,
      State.queueRepair_reg]
    exact ⟨State.correctedCounted_mem s ch row0 line, State.correctedCounted_reg hs row0 line⟩
  · rw [State.askRetrain_mem, (State.askRetrain_countersKept _ ch).reg _ hreg]
    exact ⟨State.correctedCounted_mem s ch row0 line, State.correctedCounted_reg hs row0 line⟩

/-- An uncorrectable read noted and counted. -/
def State.uncorrectedCounted (s : State) (ch row0 line : Nat) : State :=
  ((s.noteRow ch line row0).addReg (regSmsChUncorrected ch) 1).modHbm fun h =>
    { h with uncorrected := (h.uncorrected.filter fun c => decide (s.time < c.2.2 + dayNs)) ++
        [(ch, s.rowOf ch line row0, s.time)] }

/-- The urgent retrain after an uncorrectable error (R251). -/
def State.urgeRetrain (s : State) (ch : Nat) : State :=
  if s.channelServes ch then (s.modHbm fun h => { h with urgent := setInsert ch h.urgent }).startUrgent else s

/-- A channel with uncorrectable errors in more than 64 rows fails (R255). -/
def State.failWorn (s : State) (ch : Nat) : State :=
  if 64 < ((s.hbm.uncorrected.filter fun c => c.1 == ch).foldl (fun l c => setInsert c.2.1 l) []).length then
    s.failChannel ch
  else s

theorem State.uncorrectedRead_eq (s : State) (ch row0 line addr : Nat) :
    s.uncorrectedRead ch row0 line addr =
      (((((s.uncorrectedCounted ch row0 line).recordUe ch (s.rowOf ch line row0) addr).queueRepair ch
        (s.rowOf ch line row0)).urgeRetrain ch).failWorn ch) :=
  rfl

theorem State.urgeRetrain_countersKept (s : State) (ch : Nat) : s.CountersKept (s.urgeRetrain ch) := by
  unfold State.urgeRetrain
  split
  · exact (s.modHbm_countersKept rfl).trans (State.startUrgent_countersKept _)
  · exact .refl s

theorem State.failWorn_countersKept (s : State) (ch : Nat) : s.CountersKept (s.failWorn ch) := by
  unfold State.failWorn
  split
  · exact s.failChannel_countersKept ch
  · exact .refl s

include hs in
theorem State.uncorrectedCounted_reg :
    (s.uncorrectedCounted ch row0 line).reg (regSmsChUncorrected ch) =
      (s.reg (regSmsChUncorrected ch) + 1) % 2 ^ 64 := by
  have hrising : Rising (s.noteRow ch line row0).regs := by rwa [State.noteRow_regs]
  rw [← s.noteRow_reg ch line row0, ← State.reg_addReg_same _ _ 1 hrising]
  exact State.reg_congr rfl rfl _

include hs hch in
/-- An uncorrectable read queues its row for repair, and its channel's count rises by one. -/
theorem State.uncorrectedRead_spec (addr : Nat) :
    (s.uncorrectedRead ch row0 line addr).repairQueued ch (s.rowOf ch line row0) = true ∧
      (s.uncorrectedRead ch row0 line addr).reg (regSmsChUncorrected ch) =
        (s.reg (regSmsChUncorrected ch) + 1) % 2 ^ 64 := by
  have hreg := channelReg_uncorrected hch
  have hkept : State.CountersKept _ (s.uncorrectedRead ch row0 line addr) :=
    s.uncorrectedRead_eq ch row0 line addr ▸
      (State.urgeRetrain_countersKept _ ch).trans (State.failWorn_countersKept _ ch)
  refine ⟨(hkept.queued _ _).trans (State.repairQueued_queueRepair _ _ _), ?_⟩
  calc (s.uncorrectedRead ch row0 line addr).reg (regSmsChUncorrected ch)
    _ = ((s.uncorrectedCounted ch row0 line).recordUe ch (s.rowOf ch line row0) addr).reg (regSmsChUncorrected ch) :=
      (hkept.reg _ hreg).trans (State.queueRepair_reg _ _ _ _)
    _ = (s.uncorrectedCounted ch row0 line).reg (regSmsChUncorrected ch) :=
      (State.record_reports _ _).reg _ ⟨by have := hreg.1; omega, by have := hreg.2; omega⟩
    _ = _ := State.uncorrectedCounted_reg hs row0 line

end Counted

end Sys2Proof.Machine
end

section
/-! Read requests of the stacked memory and of the shared banks, and rinse (R241, R244, R247, R250, R424). -/

namespace Sys2Proof.Machine

open Sys2Proof

/-! ### Heat (R241) -/

/-- Heat is kept in the record of the page alone. -/
theorem State.heat_eq (s : State) (a : Nat) (r : Reader) : s.heat a r = s ∨ ∃ x, s.heat a r = s.setPageRec x := by
  unfold State.heat
  dsimp only
  split
  · exact .inl rfl
  · cases r with
    | cluster q => exact .inr ⟨_, rfl⟩
    | spine => exact .inr ⟨_, rfl⟩
    | other => exact .inl rfl

section Heat

variable (s : State) (a : Nat) (r : Reader)

theorem State.heat_variant : (s.heat a r).variant = s.variant := by
  rcases s.heat_eq a r with h | ⟨x, h⟩ <;> rw [h]
  exact s.setPageRec_variant x

theorem State.heat_regs : (s.heat a r).regs = s.regs := by
  rcases s.heat_eq a r with h | ⟨x, h⟩ <;> rw [h]
  exact s.setPageRec_regs x

theorem State.heat_mem : (s.heat a r).mem = s.mem := by
  rcases s.heat_eq a r with h | ⟨x, h⟩ <;> rw [h]
  exact s.setPageRec_mem x

theorem State.heat_hbm : (s.heat a r).hbm = s.hbm := by
  rcases s.heat_eq a r with h | ⟨x, h⟩ <;> rw [h]
  exact s.setPageRec_hbm x

theorem State.heat_reg (o : Nat) : (s.heat a r).reg o = s.reg o :=
  State.reg_congr (s.heat_variant a r) (s.heat_regs a r) o

end Heat

/-! ### Poison of a line (R247, R424) -/

theorem mem_setInsert_self (k : Nat) (l : List Nat) : k ∈ setInsert k l := by
  induction l with
  | nil => simp [setInsert]
  | cons a l ih =>
    unfold setInsert
    split
    · simp
    · split
      · next h => simp [h]
      · simp [ih]

/-- A marked line reads poisoned where no frame serves it. -/
theorem State.poisoned_of_marked {s : State} {a : Nat} (hmark : s.lineKey (a / 64) ∈ s.poison)
    (hframe : s.framed a = false) : s.poisoned a = true := by
  unfold State.poisoned
  dsimp only
  rw [List.contains_iff_mem.mpr hmark, hframe]
  split <;> rfl

theorem State.poisoned_poisonLine {s : State} {a : Nat} (hframe : s.framed a = false) :
    (s.poisonLine (a / 64)).poisoned a = true :=
  State.poisoned_of_marked (mem_setInsert_self _ _) hframe

/-- Addresses of one page are served from a frame together. -/
theorem State.framed_congr_page (s : State) {a b : Nat} (h : a / 65536 = b / 65536) : s.framed a = s.framed b := by
  unfold State.framed
  rw [h]

/-! ### Lines of a request -/

theorem linesRead_nil (a n : Nat) (r : Reader) (st : ReadStage) : linesRead ⟨a, n, [], r, st⟩ = [] := rfl

theorem linesRead_single {a n : Nat} {e : LineError} (h : 64 * e.line < a % 64 + n) (r : Reader) (st : ReadStage) :
    linesRead ⟨a, n, [e], r, st⟩ = [(64 * (a / 64 + e.line), e)] := by
  simp [linesRead, h]

section ChannelLine

variable {s : State} {l : Nat} {e : LineError}

theorem State.channelLine_of_passed (h : e.symbols = 0 ∨ (s.placeOf (64 * l)).1 ∈ s.hbm.fenced) :
    s.channelLine (64 * l) e = s :=
  if_pos (h.imp_right List.contains_iff_mem.mpr)

theorem State.channelLine_of_corrected (h : e.symbols = 1) (hfence : (s.placeOf (64 * l)).1 ∉ s.hbm.fenced) :
    s.channelLine (64 * l) e = s.correctedRead (s.placeOf (64 * l)).1 e.row ((s.placeOf (64 * l)).2 / 64) := by
  have hread : ¬ (e.symbols = 0 ∨ s.hbm.fenced.contains (s.placeOf (64 * l)).1 = true) := by
    rw [h, List.contains_iff_mem]
    simp [hfence]
  unfold State.channelLine
  dsimp only
  rw [if_neg hread, if_pos h]

theorem State.channelLine_of_uncorrected (h : 2 ≤ e.symbols) (hfence : (s.placeOf (64 * l)).1 ∉ s.hbm.fenced) :
    s.channelLine (64 * l) e = (s.poisonLine (64 * l / 64)).uncorrectedRead (s.placeOf (64 * l)).1 e.row
      ((s.placeOf (64 * l)).2 / 64) (64 * l) := by
  have hread : ¬ (e.symbols = 0 ∨ s.hbm.fenced.contains (s.placeOf (64 * l)).1 = true) := by
    rw [List.contains_iff_mem]
    simp [hfence]
    omega
  have hmany : e.symbols ≠ 1 := by omega
  unfold State.channelLine
  dsimp only
  rw [if_neg hread, if_neg hmany, Nat.mul_div_cancel_left l (by decide)]

end ChannelLine

section BankLine

variable {s : State} {l : Nat} {e : LineError}

theorem State.bankLine_of_corrected (h : e.symbols < 2) : s.bankLine (64 * l) e = s := if_pos h

theorem State.bankLine_of_uncorrected (h : 2 ≤ e.symbols) :
    s.bankLine (64 * l) e = (s.poisonLine (64 * l / 64)).record
      { kind := 0x05, scope := 1, action := 1,
        unit := unitWord (20 + (64 * l - bankBase) / 0x1000000 / 8) ((64 * l - bankBase) / 0x1000000),
        addr := 64 * l, detail := (64 * l - bankBase) / 0x1000000 } := by
  unfold State.bankLine
  dsimp only
  rw [if_neg (by omega), Nat.mul_div_cancel_left l (by decide)]

end BankLine

/-! ### A request by its stage and place -/

section Request

variable {s : State} {q : HbmRead} (hok : q.ok = true)
include hok

section Hbm

variable (hplace : s.place q.addr = .hbm)
include hplace

theorem State.hbmRead_of_routing (hst : q.stage = .routed) (hframe : s.framed q.addr = true) :
    s.hbmRead q = some ((s.setPageRec { s.pageRec (q.addr / 65536) with
      readers := (s.pageRec (q.addr / 65536)).readers + 1 }).modHbm fun h =>
        { h with routed := h.routed ++ [(q.addr, q.len)] }) := by
  simp only [State.hbmRead, hok, hplace, hst, hframe, Bool.true_eq_false, if_false, if_true]

theorem State.hbmRead_of_delivery (hst : q.stage = .served)
    (hrouted : (q.addr, q.len) ∈ (s.heat q.addr q.reader).hbm.routed) :
    s.hbmRead q = some (((s.heat q.addr q.reader).frameRead q).delivered q) := by
  have hcontains := List.contains_iff_mem.mpr hrouted
  simp only [State.hbmRead, hok, hplace, hst, hcontains, Bool.true_eq_false, if_false, if_true]

section Unrouted

variable (hst : q.stage = .served) (hrouted : (q.addr, q.len) ∉ (s.heat q.addr q.reader).hbm.routed)
include hst hrouted

theorem State.hbmRead_of_framed (hframe : (s.heat q.addr q.reader).framed q.addr = true) :
    s.hbmRead q = some ((s.heat q.addr q.reader).frameRead q) := by
  have hcontains := mt List.contains_iff_mem.mp hrouted
  simp only [State.hbmRead, hok, hplace, hst, hcontains, hframe, Bool.true_eq_false, Bool.false_eq_true, if_false, if_true]

theorem State.hbmRead_of_channels (hframe : (s.heat q.addr q.reader).framed q.addr = false) :
    s.hbmRead q = some ((linesRead q).foldl (fun z p => z.channelLine p.1 p.2) (s.heat q.addr q.reader)) := by
  have hcontains := mt List.contains_iff_mem.mp hrouted
  simp only [State.hbmRead, hok, hplace, hst, hcontains, hframe, Bool.true_eq_false, Bool.false_eq_true, if_false]

end Unrouted

end Hbm

theorem State.hbmRead_of_bank {b : Nat}
    (hplace : s.place q.addr = .program b ∨
      (s.place q.addr = .bankOther b ∧ q.addr < bankBase + 0x1000000 * b + 0x100000))
    (hst : q.stage = .served) :
    s.hbmRead q = some ((linesRead q).foldl (fun z p => z.bankLine p.1 p.2) s) := by
  rcases hplace with hplace | ⟨hplace, hlow⟩
  · simp only [State.hbmRead, hok, hplace, hst, Bool.true_eq_false, if_false, if_true]
  · simp only [State.hbmRead, hok, hplace, hst, hlow, Bool.true_eq_false, and_self, if_false, if_true]

end Request

theorem exec_hbmReadComplete {s u : State} {addr len : Nat} {bad : List LineError} {r : Reader} {st : ReadStage}
    (h : s.quiet.hbmRead ⟨addr, len, bad, r, st⟩ = some u) :
    exec (.hbmReadComplete addr len bad ⟨r, st⟩) s = .next u :=
  attempt_of_some (f := fun s => s.hbmRead ⟨addr, len, bad, r, st⟩) h

/-! ### Requests served from a frame (R244) -/

section Frame

variable {s : State} {q : HbmRead}

theorem State.frameRead_of_corrected (h : ∀ e ∈ q.bad, e.symbols < 2) : s.frameRead q = s := by
  have hnone : (q.bad.find? fun e => decide (2 ≤ e.symbols)) = none :=
    List.find?_eq_none.mpr fun e he => by simpa using h e he
  unfold State.frameRead
  rw [hnone]

/-- An uncorrectable error in a frame, counted and recorded. -/
def State.frameCounted (s : State) (r : ErrRec) : State := (s.addReg regCadFrameErrors 1).record r

theorem State.frameRead_of_uncorrected (h : ∃ e ∈ q.bad, 2 ≤ e.symbols) :
    ∃ r, s.frameRead q =
      if (s.frameCounted r).cadOpen = true ∧ (s.pageRec (q.addr / 65536)).place = 2 then
        (s.frameCounted r).evict (q.addr / 65536) none
      else s.frameCounted r := by
  obtain ⟨e, he, hmany⟩ := h
  cases hfind : q.bad.find? fun e => decide (2 ≤ e.symbols) with
  | none => exact absurd (List.find?_eq_none.mp hfind e he) (by simp [hmany])
  | some x =>
    unfold State.frameRead
    rw [hfind]
    exact ⟨_, rfl⟩

theorem State.frameCounted_hbm (s : State) (r : ErrRec) : (s.frameCounted r).hbm.routed = s.hbm.routed := by
  obtain ⟨n, l, h⟩ := (State.record_reports (s.addReg regCadFrameErrors 1) r).hbm
  rw [State.frameCounted, h]
  rfl

theorem State.frameCounted_reg_other (s : State) (r : ErrRec) {o : Nat} (h : memoryReg o)
    (hne : o ≠ regCadFrameErrors) :
    (s.frameCounted r).reg o = s.reg o :=
  ((State.record_reports _ r).reg o h).trans (State.reg_addReg_other _ _ _ _ hne)

theorem State.frameCounted_reg {s : State} (hs : Rising s.regs) (r : ErrRec) :
    (s.frameCounted r).reg regCadFrameErrors = (s.reg regCadFrameErrors + 1) % 2 ^ 64 :=
  ((State.record_reports _ r).reg _ (by decide)).trans (State.reg_addReg_same s _ 1 hs)

theorem State.frameCounted_cadOpen (s : State) (r : ErrRec) : (s.frameCounted r).cadOpen = s.cadOpen := by
  have hstatus : (s.frameCounted r).reg (statusReg 8) = s.reg (statusReg 8) :=
    State.frameCounted_reg_other s r (by decide) (by decide)
  simp only [State.cadOpen, State.halted, State.halting, State.bit, State.fld, hstatus]

theorem State.evict_place (s : State) (p : Nat) (c : Option Nat) : ((s.evict p c).pageRec p).place = 3 := by
  have hpage : { s.pageRec p with place := 3, successor := c }.page = p := s.pageRec_page p
  have hsame := State.pageRec_setPageRec_same s
    (r := { s.pageRec p with place := 3, successor := c }) (PageRec.not_blank_of_place (Nat.succ_ne_zero 2))
  rw [hpage] at hsame
  rw [State.evict, hsame]

/-- The requests routed to frames stay as they are while one is served. -/
theorem State.frameRead_routed (s : State) (q : HbmRead) : (s.frameRead q).hbm.routed = s.hbm.routed := by
  by_cases h : ∃ e ∈ q.bad, 2 ≤ e.symbols
  · obtain ⟨r, hr⟩ := State.frameRead_of_uncorrected (s := s) h
    rw [hr]
    split
    · rw [State.evict, State.setPageRec_hbm, State.frameCounted_hbm]
    · exact s.frameCounted_hbm r
  · rw [State.frameRead_of_corrected]
    exact fun e he => Nat.lt_of_not_le fun hmany => h ⟨e, he, hmany⟩

theorem State.delivered_routed (s : State) (q : HbmRead) :
    (s.delivered q).hbm.routed = s.hbm.routed.erase (q.addr, q.len) := by
  simp only [State.delivered, State.modHbm, State.setPageRec_hbm]

/-- An uncorrectable error counts, and a PROMOTED page is evicted while the Cadastre runs. -/
theorem State.frameRead_spec (hs : Rising s.regs) (h : ∃ e ∈ q.bad, 2 ≤ e.symbols) :
    (s.frameRead q).reg regCadFrameErrors = (s.reg regCadFrameErrors + 1) % 2 ^ 64 ∧
      ((s.pageRec (q.addr / 65536)).place = 2 → s.cadOpen = true →
        ((s.frameRead q).pageRec (q.addr / 65536)).place = 3) := by
  obtain ⟨r, hr⟩ := State.frameRead_of_uncorrected (s := s) h
  rw [hr]
  refine ⟨?_, fun hplace hopen => ?_⟩
  · split
    · rw [State.evict, State.setPageRec_reg, State.frameCounted_reg hs]
    · exact State.frameCounted_reg hs r
  · rw [if_pos ⟨(s.frameCounted_cadOpen r).trans hopen, hplace⟩]
    exact State.evict_place _ _ _

end Frame

end Sys2Proof.Machine
end

section
/-! Rinse: each line of a channel in service is read once in a period (R250, R424). -/

namespace Sys2Proof.Machine

open Sys2Proof

/-- The lines read by rinse in the present period. -/
def State.rinseDone (s : State) : List (Nat × Nat) :=
  if s.hbm.rinsePeriod = s.time / s.rinseNs then s.hbm.rinsed else []

/-- A line noted as read by rinse. -/
def State.rinseNoted (s : State) (ch off : Nat) : State :=
  s.modHbm fun h => { h with rinsePeriod := s.time / s.rinseNs, rinsed := s.rinseDone ++ [(ch, off / 64)] }

theorem State.quiet_reg (s : State) (o : Nat) : s.quiet.reg o = s.reg o := State.reg_congr rfl rfl o

/-- Where addresses lie follows from the variant, the near units and the darn table. -/
theorem State.placeOf_congr {s t : State} (hv : t.variant = s.variant) (hunits : t.nearUnits = s.nearUnits)
    (htable : t.hbm.darnTable = s.hbm.darnTable) (hdarning : t.hbm.darning = s.hbm.darning)
    (hcopied : t.granuleCopied = s.granuleCopied) (a : Nat) : t.placeOf a = s.placeOf a := by
  simp only [State.placeOf, State.channelOf, hv, hunits, htable, hdarning, hcopied]

/-- The address at a channel offset follows from the same, and from SMS_DARN. -/
theorem State.rinseAddr_congr {s t : State} (hv : t.variant = s.variant)
    (hunits : t.reg regSmsNearUnits = s.reg regSmsNearUnits) (hdarn : t.reg regSmsDarn = s.reg regSmsDarn)
    (htable : t.hbm.darnTable = s.hbm.darnTable) (hdarning : t.hbm.darning = s.hbm.darning)
    (hcopied : t.granuleCopied = s.granuleCopied) (ch off : Nat) : t.rinseAddr ch off = s.rinseAddr ch off := by
  have hnear : t.nearUnits = s.nearUnits := by rw [State.nearUnits, State.nearUnits, State.fld, State.fld, hunits]
  have hlimit : t.smsLimit = s.smsLimit := by
    rw [State.smsLimit, State.smsLimit, State.fld, State.fld, hv, hdarn]
  have hplace := State.placeOf_congr hv hnear htable hdarning hcopied
  simp only [State.rinseAddr, hv, htable, hplace, hnear, hlimit]

section Noted

variable (s : State) (ch off : Nat)

theorem State.rinseNoted_reg (o : Nat) : (s.rinseNoted ch off).reg o = s.reg o := State.reg_congr rfl rfl o

theorem State.rinseNoted_pageState (p : Nat) : (s.rinseNoted ch off).pageState p = s.pageState p :=
  State.pageState_congr rfl rfl (fun _ _ => rfl) (s.rinseNoted_reg ch off _) p

theorem State.rinseNoted_rinseAddr (c o : Nat) : (s.rinseNoted ch off).rinseAddr c o = s.rinseAddr c o :=
  State.rinseAddr_congr rfl (s.rinseNoted_reg ch off _) (s.rinseNoted_reg ch off _) rfl rfl rfl c o

theorem State.quiet_pageState (p : Nat) : s.quiet.pageState p = s.pageState p :=
  State.pageState_congr rfl rfl (fun _ _ => rfl) (s.quiet_reg _) p

theorem State.quiet_rinseAddr (c o : Nat) : s.quiet.rinseAddr c o = s.rinseAddr c o :=
  State.rinseAddr_congr rfl (s.quiet_reg _) (s.quiet_reg _) rfl rfl rfl c o

end Noted

theorem exec_rinseStep {s u : State} {ch off symbols row : Nat} (h : s.quiet.rinse ch off symbols row = some u) :
    exec (.rinseStep ch off symbols row) s = .next u :=
  attempt_of_some (f := fun s => s.rinse ch off symbols row) h

/-- A page of an image, or of one in preparation. -/
def State.imagePage (s : State) (a : Nat) : Bool := decide (3 ≤ s.pageState (a / 65536) ∧ s.pageState (a / 65536) ≤ 5)

/-- A line read by rinse, by the address that it backs if any. -/
def State.rinseRead (z : State) (ch off symbols row : Nat) : Option Nat → State
  | some a =>
    if symbols = 0 ∧ z.poison.contains (a / 64) = true ∧ z.imagePage a = true then
      (z.noteRow ch (off / 64) row).recordUe ch (z.rowOf ch (off / 64) row) (if z.imagePage a then 64 * (a / 64) else off)
    else if symbols = 0 then z
    else if symbols = 1 then z.correctedRead ch row (off / 64)
    else (z.poisonLine (a / 64)).uncorrectedRead ch row (off / 64) (if z.imagePage a then 64 * (a / 64) else off)
  | none =>
    if symbols = 0 then z
    else if symbols = 1 then z.correctedRead ch row (off / 64)
    else z.uncorrectedRead ch row (off / 64) off

section Rinse

variable {s : State} {ch off : Nat} (hopen : s.smsOpen = true) (hready : s.ready = true)
  (hserves : s.channelServes ch = true) (hfence : ch ∉ s.hbm.fenced) (hnew : (ch, off / 64) ∉ s.rinseDone)
include hopen hready hserves hfence hnew

theorem State.rinse_eq (hbacked : (decide (off < 2000000000) && (s.rinseAddr ch off).isNone) = false) (symbols row : Nat) :
    s.rinse ch off symbols row = some ((s.rinseNoted ch off).rinseRead ch off symbols row (s.rinseAddr ch off)) := by
  have hread : (s.rinseNoted ch off).rinseAddr ch off = s.rinseAddr ch off := s.rinseNoted_rinseAddr ch off ch off
  refine (if_pos ⟨hopen, hready, hserves, by simpa using hfence, hbacked, by simpa [State.rinseDone] using hnew⟩).trans ?_
  change (match (s.rinseNoted ch off).rinseAddr ch off with
    | some a => _
    | none => _) = _
  rw [hread]
  cases s.rinseAddr ch off with
  | some a =>
    simp only [State.rinseRead, apply_ite some]
    rfl
  | none =>
    simp only [State.rinseRead, apply_ite some]
    rfl

end Rinse

/-- RINSE_STEP on a line that is due. -/
theorem exec_rinseStep_read {s : State} {ch off : Nat} (hopen : s.smsOpen = true) (hready : s.ready = true)
    (hserves : s.channelServes ch = true) (hfence : ch ∉ s.hbm.fenced)
    (hnew : s.hbm.rinsePeriod = s.time / s.rinseNs → (ch, off / 64) ∉ s.hbm.rinsed)
    (hbacked : (decide (off < 2000000000) && (s.rinseAddr ch off).isNone) = false) (symbols row : Nat) :
    exec (.rinseStep ch off symbols row) s =
      .next ((s.quiet.rinseNoted ch off).rinseRead ch off symbols row (s.rinseAddr ch off)) := by
  have hnew' : (ch, off / 64) ∉ s.quiet.rinseDone := by
    unfold State.rinseDone
    split
    · next h => exact hnew h
    · exact List.not_mem_nil
  have hserves' : s.quiet.channelServes ch = true := hserves
  have hquiet := s.quiet_rinseAddr ch off
  generalize s.rinseAddr ch off = at_ at hbacked hquiet ⊢
  subst hquiet
  have hread := State.rinse_eq (s := s.quiet) hopen hready hserves' hfence hnew' hbacked symbols row
  exact exec_rinseStep hread

section RinseRead

variable (z : State) (ch off row : Nat) {a : Nat}

theorem State.rinseRead_of_clean (h : z.imagePage a = false ∨ a / 64 ∉ z.poison) :
    z.rinseRead ch off 0 row (some a) = z := by
  have hno : ¬ (0 = 0 ∧ z.poison.contains (a / 64) = true ∧ z.imagePage a = true) := by
    rintro ⟨-, hmark, himage⟩
    rcases h with h | h
    · rw [h] at himage
      cases himage
    · exact h (List.contains_iff_mem.mp hmark)
  rw [State.rinseRead, if_neg hno, if_pos rfl]

theorem State.rinseRead_of_poisoned (himage : z.imagePage a = true) (h : a / 64 ∈ z.poison) :
    z.rinseRead ch off 0 row (some a) =
      (z.noteRow ch (off / 64) row).recordUe ch (z.rowOf ch (off / 64) row) (64 * (a / 64)) := by
  rw [State.rinseRead, if_pos ⟨rfl, List.contains_iff_mem.mpr h, himage⟩, if_pos himage]

theorem State.rinseRead_of_corrected : z.rinseRead ch off 1 row (some a) = z.correctedRead ch row (off / 64) := by
  rw [State.rinseRead, if_neg (fun h => Nat.one_ne_zero h.1), if_neg Nat.one_ne_zero, if_pos rfl]

theorem State.rinseRead_of_uncorrected {symbols : Nat} (h : 2 ≤ symbols) :
    z.rinseRead ch off symbols row (some a) = (z.poisonLine (a / 64)).uncorrectedRead ch row (off / 64)
      (if z.imagePage a then 64 * (a / 64) else off) := by
  have h0 : symbols ≠ 0 := by omega
  have h1 : symbols ≠ 1 := by omega
  rw [State.rinseRead, if_neg (fun h => h0 h.1), if_neg h0, if_neg h1]

end RinseRead

/-! ### The clauses of the statement -/

/-- A single line of a request that the channels serve. -/
theorem readOfOneLine {s x : State} (hx : Rising x.regs) (hmem : x.mem = s.mem) (hhbm : x.hbm = s.hbm)
    (hreg : ∀ o, x.reg o = s.reg o) {l : Nat} {e : LineError} (hframe : x.framed (64 * l) = false) {read : Result}
    (hread : read = .next (x.channelLine (64 * l) e)) :
    (e.symbols = 0 ∨ (x.placeOf (64 * l)).1 ∈ s.hbm.fenced → read = .next x) ∧
      (e.symbols = 1 → (x.placeOf (64 * l)).1 ∉ s.hbm.fenced → ∃ t, read = .next t ∧
        t = x.correctedRead (x.placeOf (64 * l)).1 e.row ((x.placeOf (64 * l)).2 / 64) ∧ t.mem = s.mem ∧
        t.reg (regSmsChCorrected (x.placeOf (64 * l)).1) =
          (s.reg (regSmsChCorrected (x.placeOf (64 * l)).1) + 1) % 2 ^ 64) ∧
      (2 ≤ e.symbols → (x.placeOf (64 * l)).1 ∉ s.hbm.fenced → ∃ t, read = .next t ∧
        t = (x.poisonLine (64 * l / 64)).uncorrectedRead (x.placeOf (64 * l)).1 e.row ((x.placeOf (64 * l)).2 / 64)
          (64 * l) ∧
        (x.poisonLine (64 * l / 64)).poisoned (64 * l) = true ∧
        t.repairQueued (x.placeOf (64 * l)).1
          (s.rowOf (x.placeOf (64 * l)).1 ((x.placeOf (64 * l)).2 / 64) e.row) = true ∧
        t.reg (regSmsChUncorrected (x.placeOf (64 * l)).1) =
          (s.reg (regSmsChUncorrected (x.placeOf (64 * l)).1) + 1) % 2 ^ 64) := by
  have hlt := x.placeOf_lt (64 * l)
  rw [← hhbm, hread]
  refine ⟨fun hpassed => by rw [State.channelLine_of_passed hpassed], fun hone hfence => ?_, fun hmany hfence => ?_⟩
  · obtain ⟨hkept, hcount⟩ := State.correctedRead_spec hx hlt e.row ((x.placeOf (64 * l)).2 / 64)
    exact ⟨_, by rw [State.channelLine_of_corrected hone hfence], rfl, hkept.trans hmem, by rw [hcount, hreg]⟩
  · have hpoison : Rising (x.poisonLine (64 * l / 64)).regs := hx
    obtain ⟨hqueued, hcount⟩ :=
      State.uncorrectedRead_spec hpoison hlt e.row ((x.placeOf (64 * l)).2 / 64) (64 * l)
    have hrow : (x.poisonLine (64 * l / 64)).rowOf = s.rowOf := by
      funext ch line row
      simp only [State.rowOf, State.poisonLine, hhbm]
    rw [hrow] at hqueued
    exact ⟨_, by rw [State.channelLine_of_uncorrected hmany hfence], rfl, State.poisoned_poisonLine hframe, hqueued,
      hcount.trans (by rw [← hreg]; exact congrArg (fun n => (n + 1) % 2 ^ 64) (State.reg_congr rfl rfl _))⟩

/-- A request routed to a frame raises FRAME_READERS of its page. -/
theorem readers_setPageRec (s : State) {p : Nat} (h : (s.pageRec p).place = 2) :
    ((s.setPageRec { s.pageRec p with readers := (s.pageRec p).readers + 1 }).pageRec p).readers =
      (s.pageRec p).readers + 1 := by
  have hpage : { s.pageRec p with readers := (s.pageRec p).readers + 1 }.page = p := s.pageRec_page p
  have hsame := State.pageRec_setPageRec_same s
    (r := { s.pageRec p with readers := (s.pageRec p).readers + 1 })
    (PageRec.not_blank_of_place (h ▸ Nat.succ_ne_zero 1))
  rw [hpage] at hsame
  rw [hsame]

/-- Settles O41: each stage of a request, each number of symbols in error and each kind of place has its equation. -/
theorem stackReadsCountTheirErrors : Obligations.StackReadsCountTheirErrors := by
  intro s hs
  have hrising : Rising s.regs := hs.regs.1
  refine ⟨fun addr len r hpos hlen hpage => ?_, fun ch off symbols row hopen hready hserves hfence hnew => ?_⟩
  · extract_lets x read q line at_
    have hok (bad : List LineError) (st : ReadStage) : HbmRead.ok ⟨addr, len, bad, r, st⟩ = true :=
      decide_eq_true ⟨hpos, hlen, hpage⟩
    refine ⟨fun haddr => ?_, fun b hplace e hline => ?_⟩
    · have hx : Rising x.regs := by rw [State.heat_regs]; exact hrising
      have hplace : s.quiet.place addr = .hbm := if_pos haddr
      have hsame : x.hbm.routed = s.hbm.routed := congrArg Hbm.routed (State.heat_hbm _ _ _)
      refine ⟨fun hframe hno => ?_, fun bad hprom => ?_, fun bad hyes => ?_, fun bad hno hframe => ?_, fun bad => ?_⟩
      · have hread (bad : List LineError) :
            read bad .served = .next ((linesRead (q bad)).foldl (fun z p => z.channelLine p.1 p.2) x) :=
          exec_hbmReadComplete (State.hbmRead_of_channels (hok bad .served) hplace rfl (hsame ▸ hno) hframe)
        refine ⟨hread, hread [], fun e hline => ?_⟩
        have hone : read [e] .served = .next (x.channelLine (line e) e) := by
          rw [hread [e], linesRead_single hline]
          rfl
        have hlinePage : line e / 65536 = addr / 65536 := by
          show 64 * (addr / 64 + e.line) / 65536 = addr / 65536
          omega
        exact readOfOneLine hx (State.heat_mem _ _ _) (State.heat_hbm _ _ _) (State.heat_reg _ _ _)
          ((x.framed_congr_page hlinePage).trans hframe) hone
      · refine ⟨_, exec_hbmReadComplete (State.hbmRead_of_routing (hok bad .routed) hplace rfl
          (State.framed_of_place hprom)), ?_, ?_, State.setPageRec_regs _ _, State.setPageRec_mem _ _⟩
        · exact readers_setPageRec s.quiet hprom
        · exact congrArg (fun h : Hbm => { h with routed := h.routed ++ [(addr, len)] }) (State.setPageRec_hbm s.quiet _)
      · have hdelivered : (addr, len) ∈ x.hbm.routed := hsame ▸ hyes
        refine ⟨exec_hbmReadComplete (State.hbmRead_of_delivery (hok bad .served) hplace rfl hdelivered), ?_⟩
        rw [State.delivered_routed, State.frameRead_routed, hsame]
      · exact exec_hbmReadComplete (State.hbmRead_of_framed (hok bad .served) hplace rfl (hsame ▸ hno) hframe)
      · refine ⟨fun hfew => State.frameRead_of_corrected hfew, fun hmany => ?_⟩
        obtain ⟨hcount, hevict⟩ := State.frameRead_spec (q := q bad) hx hmany
        have hcad : x.cadOpen = s.cadOpen := by
          simp only [State.cadOpen, State.halted, State.halting, State.bit, State.fld, x, State.heat_reg,
            State.quiet_reg]
        exact ⟨hcount.trans (by rw [State.heat_reg, State.quiet_reg]),
          fun hprom hopen => hevict hprom (hcad.trans hopen)⟩
    · extract_lets k
      have hread := exec_hbmReadComplete (State.hbmRead_of_bank (hok [e] .served) hplace rfl)
      rw [linesRead_single hline] at hread
      exact ⟨fun hfew => hread.trans (congrArg Host.Outcome.next (State.bankLine_of_corrected hfew)),
        fun hmany => hread.trans (congrArg Host.Outcome.next (State.bankLine_of_uncorrected hmany))⟩
  · extract_lets done _ _ z steps
    have hz : s.quiet.rinseNoted ch off = z := rfl
    have hread := exec_rinseStep_read hopen hready hserves hfence hnew (row := row)
    rw [hz] at hread
    have hpage (a : Nat) : z.imagePage a = decide (3 ≤ s.pageState (a / 65536) ∧ s.pageState (a / 65536) ≤ 5) := by
      show decide (3 ≤ (s.quiet.rinseNoted ch off).pageState _ ∧ (s.quiet.rinseNoted ch off).pageState _ ≤ 5) = _
      rw [State.rinseNoted_pageState, State.quiet_pageState]
    refine ⟨fun a ha => ?_, fun hoff => ?_⟩
    · extract_lets image
      have hline (n : Nat) : exec (.rinseStep ch off n row) s = .next (z.rinseRead ch off n row (some a)) := by
        rw [hread (by simp [ha]) n, ha]
      refine ⟨fun hzero hclean => ?_, fun hzero himage hmark => ?_, fun hone => ?_, fun hmany => ?_⟩
      · subst hzero
        exact (hline 0).trans (by rw [State.rinseRead_of_clean z ch off row (hclean.imp_left (hpage a).trans)])
      · subst hzero
        exact (hline 0).trans (by
          rw [State.rinseRead_of_poisoned z ch off row ((hpage a).trans himage) hmark]; rfl)
      · subst hone
        exact (hline 1).trans (by rw [State.rinseRead_of_corrected])
      · exact (hline symbols).trans (by rw [State.rinseRead_of_uncorrected z ch off row hmany, hpage])
    · have hnone : s.rinseAddr ch off = none := if_neg (Nat.not_lt.mpr hoff)
      have hline (n : Nat) : exec (.rinseStep ch off n row) s = .next (z.rinseRead ch off n row none) := by
        rw [hread (by simp [Nat.not_lt.mpr hoff]) n, hnone]
      refine ⟨fun hzero => ?_, fun hone => ?_, fun hmany => ?_⟩
      · exact (hline symbols).trans (by rw [State.rinseRead, if_pos hzero])
      · exact (hline symbols).trans (by rw [State.rinseRead, if_neg (by omega), if_pos hone])
      · exact (hline symbols).trans (by rw [State.rinseRead, if_neg (by omega), if_neg (by omega)])

end Sys2Proof.Machine
end

section
/-! The request words of the stacks, the slot of a period, and the ends of retrains (R251 to R253). -/

namespace Sys2Proof.Machine

open Sys2Proof

/-! ### Request words (R253) -/

/-- The word with the bits below `n` that a test admits. -/
def bitsWhere (p : Nat → Bool) (n : Nat) : Nat := (List.range n).foldl (fun m b => if p b then m + 2 ^ b else m) 0

theorem bitsWhere_succ (p : Nat → Bool) (n : Nat) :
    bitsWhere p (n + 1) = if p n then bitsWhere p n + 2 ^ n else bitsWhere p n := by
  rw [bitsWhere, List.range_succ, List.foldl_append]
  rfl

theorem bitsWhere_lt (p : Nat → Bool) (n : Nat) : bitsWhere p n < 2 ^ n := by
  induction n with
  | zero => exact Nat.one_pos
  | succ n ih =>
    rw [bitsWhere_succ, Nat.pow_succ]
    split <;> omega

theorem testBit_bitsWhere (p : Nat → Bool) {n b : Nat} (h : b < n) : (bitsWhere p n).testBit b = p b := by
  induction n with
  | zero => exact absurd h (Nat.not_lt_zero b)
  | succ n ih =>
    have hlt := bitsWhere_lt p n
    rw [bitsWhere_succ]
    rcases Nat.lt_succ_iff_lt_or_eq.mp h with hb | rfl
    · split
      · rw [Nat.add_comm, Nat.testBit_two_pow_add_gt hb, ih hb]
      · exact ih hb
    · split
      · next hp => rw [Nat.add_comm, Nat.testBit_two_pow_add_eq, Nat.testBit_lt_two_pow hlt, hp]; rfl
      · next hp => rw [Nat.testBit_lt_two_pow hlt]; simpa using hp

theorem State.serveMask_eq (s : State) (i v : Nat) :
    s.serveMask i v = bitsWhere (fun b => bitOf v b && s.channelServes (64 * i + b)) 64 := rfl

/-- A word of requests taken: the bits of channels that serve, in a register that no byte of memory depends on. -/
theorem State.setReg_serveMask {s : State} (hs : Rising s.regs) {off : Nat} (hoff : byteReg off = false) (i v : Nat) :
    (∀ b, b < 64 → (s.quiet.setReg off (s.quiet.serveMask i v)).bit off b =
        (bitOf v b && s.channelServes (64 * i + b))) ∧
      s.OnlyRegs (s.quiet.setReg off (s.quiet.serveMask i v)) [off] := by
  refine ⟨fun b hb => ?_, s.onlyRegs_quiet.trans (State.onlyRegs_setReg _ _ _ hoff) nofun fun _ h => h⟩
  rw [State.bit_eq_testBit, State.serveMask_eq, State.reg_setReg_same s.quiet _ _ hs (bitsWhere_lt _ _),
    testBit_bitsWhere _ hb]
  rfl

theorem byteReg_retrainReq {i : Nat} (h : i < 6) : byteReg (regSmsRetrainReq i) = false := by
  revert i
  decide

theorem byteReg_marginReq {i : Nat} (h : i < 6) : byteReg (regSmsMarginReq i) = false := by
  revert i
  decide

section Words

variable {s : State} {i : Nat} (hready : s.ready = true) (hi : i < 6) (v : Word)
include hready hi

theorem exec_retrainReqWrite :
    exec (.retrainReqWrite i v) s = .next (s.quiet.setReg (regSmsRetrainReq i) (s.quiet.serveMask i v.toNat)) :=
  attempt_of_some (f := fun s => if s.ready = true ∧ i < 6 then some _ else none) (if_pos ⟨hready, hi⟩)

theorem exec_marginReqWrite :
    exec (.marginReqWrite i v) s = .next (s.quiet.setReg (regSmsMarginReq i) (s.quiet.serveMask i v.toNat)) :=
  attempt_of_some (f := fun s => if s.ready = true ∧ i < 6 then some _ else none) (if_pos ⟨hready, hi⟩)

end Words

/-! ### The slot of a period (R251, R252, R260) -/

theorem State.slotStack_mem (s : State) (k : Nat) : (s.slotStack k).mem = s.mem := by
  unfold State.slotStack
  dsimp only
  split
  · rfl
  · split
    · rfl
    · split
      · exact State.startRetrain_mem _ _
      · rfl

theorem State.slotStacks_mem (s : State) (l : List Nat) : (l.foldl State.slotStack s).mem = s.mem :=
  List.foldlRecOn (motive := fun t : State => t.mem = s.mem) l _ rfl fun t ht k _ => (t.slotStack_mem k).trans ht

theorem State.quiet_slotPeriod (s : State) : s.quiet.slotPeriod = s.slotPeriod := by
  rw [State.slotPeriod, State.slotPeriod, State.fld, State.fld, State.quiet_reg]

/-- The time of the newest slot noted. -/
def State.noteSlot (s : State) (time : Nat) : State := { s with sched := { s.sched with slotAt := time } }

/-- The stacks at a slot, each with what is due on it, and the slot noted. -/
def State.slotTaken (s : State) : State := ((List.range 12).foldl State.slotStack s).noteSlot s.time

theorem State.slotTaken_spec (s : State) :
    s.slotTaken.sched.slotAt = s.time ∧ s.slotTaken.mem = s.mem ∧
      s.slotTaken.hbm = ((List.range 12).foldl State.slotStack s).hbm := by
  have hmem := s.slotStacks_mem (List.range 12)
  unfold State.slotTaken
  generalize (List.range 12).foldl State.slotStack s = u at hmem ⊢
  exact ⟨rfl, hmem, rfl⟩

theorem exec_retrainSlot {s : State} (hnew : s.sched.slotAt / s.slotPeriod < s.time / s.slotPeriod)
    (hearly : s.time % s.slotPeriod < 50000) (hopen : s.smsOpen = true) (hready : s.ready = true) :
    exec .retrainSlot s = .next s.quiet.slotTaken := by
  have hopen' : s.quiet.smsOpen = true := hopen
  have hready' : s.quiet.ready = true := hready
  rw [← s.quiet_slotPeriod] at hnew hearly
  exact attempt_of_some (f := fun z => if z.sched.slotAt / z.slotPeriod < z.time / z.slotPeriod ∧
    z.time % z.slotPeriod < 50000 ∧ z.smsOpen = true ∧ z.ready = true then some z.slotTaken else none)
    (if_pos ⟨hnew, hearly, hopen', hready'⟩)

/-! ### The end of a retrain (R252, R253) -/

/-- What an error record leaves of the state of the stacks. -/
theorem State.Reports.hbm_field {s t : State} (h : s.Reports t) {α : Type} (f : Hbm → α)
    (hf : ∀ x n l, f { x with darnCopied := n, darnMarked := l } = f x) : f t.hbm = f s.hbm := by
  obtain ⟨n, l, ht⟩ := h.hbm
  rw [ht, hf]

/-- A channel that retrains no more. -/
def State.leaveTraining (s : State) (ch : Nat) : State := s.modHbm fun h => { h with training := setErase ch h.training }

/-- The run of failures of a channel. -/
def State.setFails (s : State) (ch : Nat) (run : Option Nat) : State :=
  s.modHbm fun h => { h with fails := mapPut ch run h.fails }

/-- A retrain that has ended, recorded, with the run of failures of its channel. -/
def State.retrainNoted (s : State) (ch ns : Nat) (run : Option Nat) : State :=
  ((s.leaveTraining ch).record
    { kind := 0x03, scope := 0, action := 6, unit := unitWord (stackDomain ch) ch, detail := ns }).setFails ch run

section Noted

variable (s : State) (ch ns : Nat) (run : Option Nat)

theorem State.retrainNoted_fails : (s.retrainNoted ch ns run).hbm.fails = mapPut ch run s.hbm.fails :=
  congrArg (mapPut ch run) (State.Reports.hbm_field (State.record_reports (s.leaveTraining ch) _) Hbm.fails fun _ _ _ => rfl)

theorem State.retrainNoted_training : (s.retrainNoted ch ns run).hbm.training = setErase ch s.hbm.training :=
  State.Reports.hbm_field (State.record_reports (s.leaveTraining ch) _) Hbm.training fun _ _ _ => rfl

theorem State.retrainNoted_reg {o : Nat} (h : memoryReg o) : (s.retrainNoted ch ns run).reg o = s.reg o :=
  (State.reg_congr rfl rfl o).trans (((State.record_reports (s.leaveTraining ch) _).reg o h).trans
    (State.reg_congr rfl rfl o))

theorem State.retrainNoted_rising {s : State} (hs : s.Canonical) (ch ns : Nat) (run : Option Nat) :
    Rising (s.retrainNoted ch ns run).regs := by
  have hended : (s.leaveTraining ch).Canonical := hs.congr rfl rfl rfl rfl
  exact ((State.record_keeps (.refl _)).canonical hended).regs.1

end Noted

theorem exec_retrainComplete {s u : State} {ch ns : Nat} {ok : Bool} (h : s.quiet.retrainEnds ch ok ns = some u) :
    exec (.retrainComplete ch ok ns) s = .next u :=
  attempt_of_some (f := fun s => s.retrainEnds ch ok ns) h

/-- A channel trained at a temperature, its trim void. -/
def State.noteTrained (s : State) (ch temp : Nat) : State :=
  s.modHbm fun h => { h with trainedAt := mapPut ch (some temp) h.trainedAt, trim := mapPut ch none h.trim }

theorem State.noteTrained_reg (s : State) (ch temp o : Nat) : (s.noteTrained ch temp).reg o = s.reg o :=
  State.reg_congr rfl rfl o

/-- A channel due for a retrain. -/
def State.dueAgain (s : State) (ch : Nat) : State := s.modHbm fun h => { h with due := setInsert ch h.due }

section Ends

variable {s : State} {ch : Nat} (h : ch ∈ s.hbm.training) (ns : Nat)
include h

theorem State.retrainEnds_of_ok :
    s.retrainEnds ch true ns = some ((((s.retrainNoted ch ns none).addReg (regSmsChRetrains ch) 1).noteTrained ch
      (s.dieTemp (ch / 32))).updateRetraining.startUrgent) :=
  if_pos (List.contains_iff_mem.mpr h)

/-- A failed retrain: the third in a row fails the channel, and any other is due again. -/
theorem State.retrainEnds_of_not_ok :
    s.retrainEnds ch false ns = some ((
      if 3 ≤ mapGet 0 ch s.hbm.fails + 1 then
        ((s.retrainNoted ch ns (some (mapGet 0 ch s.hbm.fails + 1))).setFails ch none).failChannel ch
      else (s.retrainNoted ch ns (some (mapGet 0 ch s.hbm.fails + 1))).dueAgain ch).updateRetraining.startUrgent) :=
  if_pos (List.contains_iff_mem.mpr h)

end Ends

end Sys2Proof.Machine
end

section
/-! Margining: the bounds of an eye, the register that shows it, and the segments of a sweep (R259, R260). -/

namespace Sys2Proof.Machine

open Sys2Proof

/-! ### The eyes of a path -/

/-- An eye within the grid of a path: 32 columns about d = 0, and 32 rows. -/
structure Eye.Fits (e : Eye) : Prop where
  left : e.left ≤ 16
  right : e.right ≤ 15
  hi : e.hi ≤ 31

theorem foldl_min_le {α : Type} (f : α → Nat) (l : List α) (n : Nat) : l.foldl (fun m x => min m (f x)) n ≤ n :=
  List.foldlRecOn (motive := (· ≤ n)) l _ le_rfl fun _ hm _ _ => (Nat.min_le_left _ _).trans hm

theorem eyeOver_fits {reach : List (Nat × Nat)} {lo hi : Nat} (hhi : hi ≤ 31) {e : Eye}
    (h : eyeOver reach lo hi = some e) : e.Fits := by
  have hleft := foldl_min_le Prod.fst ((List.range (hi + 1 - lo)).map fun i => reach.getD (lo + i) (0, 0)) 17
  have hright := foldl_min_le Prod.snd ((List.range (hi + 1 - lo)).map fun i => reach.getD (lo + i) (0, 0)) 16
  unfold eyeOver at h
  dsimp only at h
  split at h
  · cases h
  · cases h
    exact ⟨by dsimp only; omega, by dsimp only; omega, hhi⟩

theorem eyeOf_fits {failed : List Nat} {path : Nat} {e : Eye} (h : eyeOf failed path = some e) : e.Fits := by
  unfold eyeOf at h
  split at h
  · cases h
    exact ⟨by decide, by decide, by decide⟩
  · refine List.foldlRecOn (motive := fun best : Option Eye => ∀ e, best = some e → e.Fits) _ _
      (fun _ hnone => by cases hnone) ?_ e h
    intro best hbest p hp e he
    obtain ⟨lo, -, k, hk, rfl⟩ : ∃ lo ∈ List.range 17, ∃ k ∈ List.range 16, (lo, 16 + k) = p := by simpa using hp
    have hhi : 16 + k ≤ 31 := by
      have := List.mem_range.mp hk
      omega
    split at he
    · next x b hx =>
      split at he
      · cases he
        exact eyeOver_fits hhi hx
      · exact hbest e he
    · next x hx =>
      cases he
      exact eyeOver_fits hhi hx
    · exact hbest e he

/-- Width and height of an eye fit the fields of SMS_CH_MARGIN. -/
theorem eyeSize_lt (failed : List Nat) (path : Nat) :
    (eyeSize (eyeOf failed path)).1 < 256 ∧ (eyeSize (eyeOf failed path)).2 < 256 := by
  cases h : eyeOf failed path with
  | none => exact ⟨by decide, by decide⟩
  | some e =>
    obtain ⟨hleft, hright, hhi⟩ := eyeOf_fits h
    simp only [eyeSize, Eye.width, Eye.height]
    omega

/-! ### SMS_CH_MARGIN -/

/-- The word of SMS_CH_MARGIN: VALID, the mark of a weak channel, and the eyes of the write and the read path. -/
def marginWord (weak : Bool) (rd wr : Nat × Nat) : Nat :=
  2 ^ 63 + b2n weak * 2 ^ 62 + wr.2 * 2 ^ 24 + wr.1 * 2 ^ 16 + rd.2 * 2 ^ 8 + rd.1

theorem marginWord_fields (weak : Bool) {rd wr : Nat × Nat} (hrd : rd.1 < 256 ∧ rd.2 < 256)
    (hwr : wr.1 < 256 ∧ wr.2 < 256) :
    marginWord weak rd wr < 2 ^ 64 ∧ bitOf (marginWord weak rd wr) 63 = true ∧
      (getBits (marginWord weak rd wr) 7 0, getBits (marginWord weak rd wr) 15 8) = rd ∧
      (getBits (marginWord weak rd wr) 23 16, getBits (marginWord weak rd wr) 31 24) = wr := by
  obtain ⟨rw, rh⟩ := rd
  obtain ⟨ww, wh⟩ := wr
  have hweak : b2n weak ≤ 1 := by cases weak <;> decide
  simp only [marginWord, bitOf, getBits, Nat.shiftRight_eq_div_pow, Prod.mk.injEq, beq_iff_eq] at *
  omega

/-- A path's eye is narrower than the least width set. -/
def State.marginWeak (s : State) (failed : List Nat) : Bool :=
  decide ((eyeSize (eyeOf failed 1)).1 < s.fld regSmsCtrl 31 24 ∨ (eyeSize (eyeOf failed 0)).1 < s.fld regSmsCtrl 31 24)

theorem State.setMargin_eq (s : State) (ch : Nat) (failed : List Nat) :
    ∃ trim, s.setMargin ch failed = (s.setReg (regSmsChMargin ch)
      (marginWord (s.marginWeak failed) (eyeSize (eyeOf failed 0)) (eyeSize (eyeOf failed 1)))).modHbm fun h =>
        { h with trim := trim } := by
  cases happly : s.bit regSmsCtrl 1 with
  | true => exact ⟨_, if_pos happly⟩
  | false => exact ⟨s.hbm.trim, if_neg (by simp [happly])⟩

/-- What SMS_CH_MARGIN shows after a sweep. -/
theorem State.setMargin_spec {s : State} (hs : Rising s.regs) (ch : Nat) (failed : List Nat) :
    let u := s.setMargin ch failed
    u.mem = s.mem ∧ u.tasks = s.tasks ∧ u.hbm.sweeps = s.hbm.sweeps ∧ u.bit (regSmsChMargin ch) 63 = true ∧
      (u.fld (regSmsChMargin ch) 7 0, u.fld (regSmsChMargin ch) 15 8) = eyeSize (eyeOf failed 0) ∧
      (u.fld (regSmsChMargin ch) 23 16, u.fld (regSmsChMargin ch) 31 24) = eyeSize (eyeOf failed 1) ∧
      ∀ o, o ≠ regSmsChMargin ch → u.reg o = s.reg o := by
  obtain ⟨hlt, hvalid, hrd, hwr⟩ :=
    marginWord_fields (s.marginWeak failed) (eyeSize_lt failed 0) (eyeSize_lt failed 1)
  obtain ⟨trim, h⟩ := s.setMargin_eq ch failed
  generalize marginWord (s.marginWeak failed) (eyeSize (eyeOf failed 0)) (eyeSize (eyeOf failed 1)) = w at *
  have hreg (o : Nat) : (s.setMargin ch failed).reg o = (s.setReg (regSmsChMargin ch) w).reg o := by
    rw [h]
    exact State.reg_congr rfl rfl o
  have hword : (s.setMargin ch failed).reg (regSmsChMargin ch) = w :=
    (hreg _).trans (State.reg_setReg_same _ _ _ hs hlt)
  simp only [State.bit, State.fld, hword]
  refine ⟨by rw [h]; rfl, by rw [h]; rfl, by rw [h]; rfl, hvalid, hrd, hwr, fun o ho => ?_⟩
  rw [hreg, State.reg_setReg_other _ _ _ _ ho]

/-! ### The segments of a sweep -/

/-- A channel that is margined no more. -/
def State.leaveMargining (s : State) (ch : Nat) : State :=
  s.modHbm fun h => { h with margining := setErase ch h.margining }

/-- The state of a channel's sweep. -/
def State.setSweep (s : State) (ch : Nat) (x : Option (Nat × List Nat)) : State :=
  s.modHbm fun h => { h with sweeps := mapPut ch x h.sweeps }

/-- A sweep of `steps` steps so far: its end is shown by SMS_CH_MARGIN. -/
def State.sweepStep (s : State) (ch steps : Nat) (failed : List Nat) : State :=
  if steps < 2048 then (s.leaveMargining ch).setSweep ch (some (steps, failed))
  else ((s.leaveMargining ch).setSweep ch none).setMargin ch failed

theorem State.sweepStep_spec {s : State} (hs : Rising s.regs) (ch steps : Nat) (failed : List Nat) :
    let u := s.sweepStep ch steps failed
    u.mem = s.mem ∧ u.tasks = s.tasks ∧
      (steps < 2048 → u.hbm.sweeps = mapPut ch (some (steps, failed)) s.hbm.sweeps ∧ u.regs = s.regs) ∧
      (2048 ≤ steps → u.hbm.sweeps = mapPut ch none s.hbm.sweeps ∧ u.bit (regSmsChMargin ch) 63 = true ∧
        (u.fld (regSmsChMargin ch) 7 0, u.fld (regSmsChMargin ch) 15 8) = eyeSize (eyeOf failed 0) ∧
        (u.fld (regSmsChMargin ch) 23 16, u.fld (regSmsChMargin ch) 31 24) = eyeSize (eyeOf failed 1) ∧
        ∀ o, o ≠ regSmsChMargin ch → u.reg o = s.reg o) := by
  intro u
  rcases Nat.lt_or_ge steps 2048 with hmore | hlast
  · have hu : u = (s.leaveMargining ch).setSweep ch (some (steps, failed)) := if_pos hmore
    clear_value u
    subst hu
    exact ⟨rfl, rfl, fun _ => ⟨rfl, rfl⟩, fun hall => absurd hmore (Nat.not_lt.mpr hall)⟩
  · have hu : u = ((s.leaveMargining ch).setSweep ch none).setMargin ch failed := if_neg (Nat.not_lt.mpr hlast)
    clear_value u
    subst hu
    obtain ⟨hmem, htasks, hsweeps, hvalid, hread, hwrite, hother⟩ :=
      State.setMargin_spec (s := (s.leaveMargining ch).setSweep ch none) hs ch failed
    exact ⟨hmem, htasks, fun hmore => absurd hmore (Nat.not_lt.mpr hlast),
      fun _ => ⟨hsweeps, hvalid, hread, hwrite, fun o ho => (hother o ho).trans (State.reg_congr rfl rfl o)⟩⟩

theorem exec_marginSegmentComplete {s u : State} {ch n : Nat} {failed : List Nat}
    (h : s.quiet.marginEnds ch n failed = some u) : exec (.marginSegmentComplete ch ⟨n, failed⟩) s = .next u :=
  attempt_of_some (f := fun s => s.marginEnds ch n failed) h

theorem State.marginEnds_eq {s : State} {ch n : Nat} (h : ch ∈ s.hbm.margining) (hpos : 0 < n) (hle : n ≤ 50)
    (failed : List Nat) :
    let old := mapGet (0, []) ch s.hbm.sweeps
    let bad := old.2 ++ failed.filter fun i => decide (old.1 ≤ i ∧ i < old.1 + n)
    s.marginEnds ch n failed = some (
      (s.sweepStep ch (old.1 + n) bad).updateRetraining.startUrgent) :=
  if_pos ⟨List.contains_iff_mem.mpr h, hpos, hle⟩

end Sys2Proof.Machine
end

section
/-! Row repair, refresh and the end of a darning migration (R248, R249, R256). -/

namespace Sys2Proof.Machine

open Sys2Proof

/-! ### Row repair (R248) -/

/-- Spare rows of a bank that are in use. -/
def State.sparesUsed (s : State) (ch bank : Nat) : Nat :=
  match s.hbm.spares.find? fun x => x.1 == ch && x.2.1 == bank with
  | some x => x.2.2
  | none => 0

/-- A row that awaits repair no more. -/
def State.unqueueRepair (s : State) (ch row : Nat) : State :=
  s.modHbm fun h => { h with repairs := h.repairs.filter fun x => !(x.1 == ch && x.2.1 == row) }

/-- A row moved onto a spare of its bank. -/
def State.useSpare (s : State) (ch row used : Nat) : State :=
  s.modHbm fun h => { h with
    spares := h.spares.filter (fun x => !(x.1 == ch && x.2.1 == rowBank row)) ++ [(ch, rowBank row, used + 1)]
    corrected := h.corrected.filter fun c => !(c.1 == ch && c.2.1 == row)
    rows := h.rows.filter fun c => !(c.1 == ch && c.2.2 == row) }

/-- A row repaired, counted and recorded. -/
def State.rowRepaired (s : State) (ch row : Nat) : State :=
  (((s.unqueueRepair ch row).useSpare ch row (s.sparesUsed ch (rowBank row))).addReg (regSmsChRepairs ch) 1).record
    { kind := 0x02, scope := 0, action := 0, unit := unitWord (stackDomain ch) ch,
      detail := 15 - s.sparesUsed ch (rowBank row) }

/-- A channel with four banks out of spare rows fails (R255). -/
def State.failFull (s : State) (ch : Nat) : State := if 4 ≤ s.fullBanks ch then s.failChannel ch else s

theorem State.failFull_cases (s : State) (ch : Nat) : s.failFull ch = s ∨ s.failFull ch = s.failChannel ch :=
  (ite_eq_or_eq _ _ _).symm

theorem State.repairRow_eq {s : State} {ch row at_ : Nat}
    (hfind : (s.hbm.repairs.find? fun x => x.1 == ch && x.2.1 == row) = some (ch, row, at_))
    (hslot : at_ < s.refreshes ch (rowBank row)) :
    s.repairRow ch row = if s.sparesUsed ch (rowBank row) < 16 then some ((s.rowRepaired ch row).failFull ch)
      else some ((s.unqueueRepair ch row).failFull ch) := by
  unfold State.repairRow
  rw [hfind]
  exact if_neg (Nat.not_le.mpr hslot)

theorem exec_rowRepair {s u : State} {ch row : Nat} (h : s.quiet.repairRow ch row = some u) :
    exec (.rowRepair ch row) s = .next u :=
  attempt_of_some (f := fun s => s.repairRow ch row) h

theorem State.repairQueued_unqueueRepair (s : State) (ch row : Nat) :
    (s.unqueueRepair ch row).repairQueued ch row = false := by
  refine List.any_eq_false.mpr fun x hx => ?_
  obtain ⟨-, hother⟩ := List.mem_filter.mp hx
  simpa only [Bool.not_eq_true, Bool.not_eq_true'] using hother

section Repaired

variable (s : State) (ch row : Nat)

theorem State.repairQueued_rowRepaired : (s.rowRepaired ch row).repairQueued ch row = false := by
  have hkept : State.CountersKept _ (s.rowRepaired ch row) := .of_reports (State.record_reports _ _)
  rw [hkept.queued]
  exact s.repairQueued_unqueueRepair ch row

theorem State.mem_rowRepaired_spares :
    (ch, rowBank row, s.sparesUsed ch (rowBank row) + 1) ∈ (s.rowRepaired ch row).hbm.spares := by
  rw [State.rowRepaired, State.Reports.hbm_field (State.record_reports _ _) Hbm.spares fun _ _ _ => rfl]
  exact List.mem_append_right _ (List.mem_singleton.mpr rfl)

theorem State.rowRepaired_reg {s : State} (hs : Rising s.regs) {ch : Nat} (hch : ch < 384) (row : Nat) :
    (s.rowRepaired ch row).reg (regSmsChRepairs ch) = (s.reg (regSmsChRepairs ch) + 1) % 2 ^ 64 := by
  obtain ⟨hlo, hhi⟩ := channelReg_repairs hch
  rw [State.rowRepaired, (State.record_reports _ _).reg _ ⟨by omega, by omega⟩,
    State.reg_addReg_same ((s.unqueueRepair ch row).useSpare ch row _) _ _ hs]
  exact congrArg (fun n => (n + 1) % 2 ^ 64) (State.reg_congr rfl rfl _)

end Repaired

/-! ### Refresh (R249) -/

/-- The refresh of a bank counted. -/
def State.countRefresh (s : State) (ch bank : Nat) : State :=
  s.modHbm fun h => { h with
    refreshed := h.refreshed.filter (fun x => !(x.1 == ch && x.2.1 == bank)) ++ [(ch, bank, s.refreshes ch bank + 1)] }

theorem exec_refreshSlot {s : State} {ch bank : Nat} (hpresent : channelPresent s.variant ch = true)
    (hbank : bank < 128) :
    exec (.refreshSlot ch bank) s = .next (s.quiet.countRefresh ch bank) :=
  attempt_of_some (f := fun s => if channelPresent s.variant ch = true ∧ bank < 128 then some (s.countRefresh ch bank)
    else none) (if_pos ⟨hpresent, hbank⟩)

/-! ### The end of a darning migration (R256, R433) -/

/-- The lines of a channel in migration that could not be read. -/
def State.linesLost (s : State) (ch : Nat) : State :=
  ((Config.unreadable s.free).filter fun l => decide (l < 4 * chanGranules)).foldl (fun z l => z.darnLost ch l)
    { s with free := s.free + 1 }

theorem State.darnLost_regs (s : State) (ch line : Nat) :
    (s.darnLost ch line).variant = s.variant ∧ (s.darnLost ch line).regs = s.regs := by
  unfold State.darnLost
  dsimp only
  split
  · exact ⟨rfl, rfl⟩
  · exact ⟨rfl, rfl⟩

theorem State.linesLost_regs (s : State) (ch : Nat) :
    (s.linesLost ch).variant = s.variant ∧ (s.linesLost ch).regs = s.regs :=
  List.foldlRecOn (motive := fun t : State => t.variant = s.variant ∧ t.regs = s.regs) _ _ ⟨rfl, rfl⟩
    fun t ⟨hv, hr⟩ l _ => ⟨(t.darnLost_regs ch l).1.trans hv, (t.darnLost_regs ch l).2.trans hr⟩

/-- The `k`-th channel darned, named in SMS_DARNED. -/
def State.nameDarned (s : State) (k ch : Nat) : State :=
  s.setFld (regSmsDarned (k / 4)) (16 * (k % 4) + 15) (16 * (k % 4)) ch

/-- Pages of tracked regions marked as written. -/
def State.markDirty (s : State) (l : List Nat) : State :=
  { s with rru := { s.rru with dirty := l.foldl (fun d p => setInsert p d) s.rru.dirty } }

/-- No migration in progress: its closing entry is due. -/
def State.leaveMigration (s : State) : State :=
  (s.modHbm fun h => { h with darning := none, darnCopied := 0, darnMarked := [], closing := true }).setBit
    regSmsStatus 5 false

/-- A migration that has ended. -/
def State.migrated (s : State) (ch : Nat) : State :=
  ((((s.linesLost ch).nameDarned (s.fld regSmsDarn 19 16 - 1) ch).markDirty (s.pagesOn ch)).leaveMigration).recordFailed
    ch 5

theorem State.migrationDone_eq {s : State} {ch : Nat} (h : s.hbm.darning = some (ch, true)) (hopen : s.smsOpen = true) :
    s.migrationDone = some (
      (if (s.migrated ch).journal.waiting = [] ∧ (s.migrated ch).eventFits = true then (s.migrated ch).closeDarning
        else (s.migrated ch).wait .darnClose).darnAll) := by
  unfold State.migrationDone
  rw [h]
  exact if_pos hopen

/-- A migration that has ended names its channel, and DARNING reads 0. -/
theorem State.migrated_spec {s : State} (hs : Rising s.regs) (ch : Nat) (hpos : 1 ≤ s.fld regSmsDarn 19 16)
    (hle : s.fld regSmsDarn 19 16 ≤ 8) :
    (s.migrated ch).hbm.darning = none ∧
      (s.migrated ch).darnedEntry (s.fld regSmsDarn 19 16 - 1) = ch % 65536 ∧
      (s.migrated ch).bit regSmsStatus 5 = false := by
  generalize hk : s.fld regSmsDarn 19 16 - 1 = k
  have hk8 : k < 8 := by omega
  have hlost : Rising (s.linesLost ch).regs := by rw [(s.linesLost_regs ch).2]; exact hs
  have hnamed : Rising ((s.linesLost ch).nameDarned k ch).regs := State.setReg_rising _ _ _ hlost
  have hreports : ((((s.linesLost ch).nameDarned k ch).markDirty (s.pagesOn ch)).leaveMigration).Reports
      (s.migrated ch) := by
    rw [State.migrated, hk]
    exact State.record_reports _ _
  refine ⟨hreports.hbm_field Hbm.darning fun _ _ _ => rfl, ?_, ?_⟩
  · have hother : regSmsDarned (k / 4) ≠ regSmsStatus := by
      simp only [regSmsDarned, regSmsStatus]
      omega
    have hreg : (s.migrated ch).reg (regSmsDarned (k / 4)) =
        ((s.linesLost ch).nameDarned k ch).reg (regSmsDarned (k / 4)) := by
      rw [hreports.reg _ ⟨by simp only [regSmsDarned]; omega, by simp only [regSmsDarned]; omega⟩,
        State.leaveMigration, State.reg_setBit_other _ _ _ _ _ hother]
      exact State.reg_congr rfl rfl _
    have hwidth : 16 * (k % 4) + 15 + 1 - 16 * (k % 4) = 16 := by omega
    rw [State.darnedEntry, State.fld, hreg]
    refine (State.fld_setFld_same (s.linesLost ch) (regSmsDarned (k / 4)) (16 * (k % 4) + 15) (16 * (k % 4)) ch hlost
      (by omega) (by omega)).trans ?_
    rw [hwidth, show (2 : Nat) ^ 16 = 65536 from rfl]
  · rw [State.bit_congr (hreports.reg regSmsStatus (by decide))]
    exact State.bit_setBit_same _ regSmsStatus 5 false hnamed (by decide)

theorem exec_darnMigrationComplete {s u : State} (h : s.quiet.migrationDone = some u) :
    exec .darnMigrationComplete s = .next u :=
  attempt_of_some h

end Sys2Proof.Machine
end

section
/-! The ends of retrains by their outcome, and the statement on the channels (R248, R249, R251 to R260). -/

namespace Sys2Proof.Machine

open Sys2Proof

section Clauses

variable {s : State} (hs : s.Canonical) {ch : Nat}

theorem mem_setErase {k x : Nat} {l : List Nat} : x ∈ setErase k l ↔ x ∈ l ∧ x ≠ k := by
  simp [setErase]

include hs in
/-- A retrain that succeeds counts, and ends the run of failures of its channel. -/
theorem retrainSucceeds (hch : ch < 384) (htrain : ch ∈ s.hbm.training) (ns : Nat) :
    ∃ t u : State, exec (.retrainComplete ch true ns) s = .next t ∧ t = u.updateRetraining.startUrgent ∧
      u.reg (regSmsChRetrains ch) = (s.reg (regSmsChRetrains ch) + 1) % 2 ^ 64 ∧
      u.hbm.fails = mapPut ch none s.hbm.fails := by
  have hquiet : s.quiet.Canonical := hs.congr rfl rfl rfl rfl
  obtain ⟨hlo, hhi⟩ := channelReg_retrains hch
  have hcount := State.reg_addReg_same (s.quiet.retrainNoted ch ns none) (regSmsChRetrains ch) 1
    (State.retrainNoted_rising hquiet ch ns none)
  rw [State.retrainNoted_reg _ _ _ _ ⟨by omega, by omega⟩, State.quiet_reg] at hcount
  exact ⟨_, ((s.quiet.retrainNoted ch ns none).addReg (regSmsChRetrains ch) 1).noteTrained ch (s.quiet.dieTemp (ch / 32)),
    exec_retrainComplete (State.retrainEnds_of_ok (s := s.quiet) htrain ns), rfl,
    (State.noteTrained_reg _ _ _ _).trans hcount,
    s.quiet.retrainNoted_fails ch ns none⟩

/-- A retrain that fails is due again. -/
theorem retrainFails (htrain : ch ∈ s.hbm.training) (hfew : mapGet 0 ch s.hbm.fails < 2) (ns : Nat) :
    ∃ t u : State, exec (.retrainComplete ch false ns) s = .next t ∧ t = u.updateRetraining.startUrgent ∧
      ch ∈ u.hbm.due ∧ u.hbm.fails = mapPut ch (some (mapGet 0 ch s.hbm.fails + 1)) s.hbm.fails := by
  have hrun : ¬ 3 ≤ mapGet 0 ch s.quiet.hbm.fails + 1 := by rw [State.quiet_hbm]; omega
  have hends := State.retrainEnds_of_not_ok (s := s.quiet) htrain ns
  rw [if_neg hrun] at hends
  exact ⟨_, _, exec_retrainComplete hends, rfl, mem_setInsert_self _ _, s.quiet.retrainNoted_fails ch ns _⟩

/-- The third failure in a row fails the channel. -/
theorem retrainFailsChannel (htrain : ch ∈ s.hbm.training) (hmany : 2 ≤ mapGet 0 ch s.hbm.fails) (ns : Nat) :
    ∃ t u : State, exec (.retrainComplete ch false ns) s = .next t ∧
      t = (u.failChannel ch).updateRetraining.startUrgent ∧ ch ∉ u.hbm.training := by
  have hrun : 3 ≤ mapGet 0 ch s.quiet.hbm.fails + 1 := by rw [State.quiet_hbm]; omega
  have hends := State.retrainEnds_of_not_ok (s := s.quiet) htrain ns
  rw [if_pos hrun] at hends
  refine ⟨_, _, exec_retrainComplete hends, rfl, ?_⟩
  show ch ∉ (s.quiet.retrainNoted ch ns (some (mapGet 0 ch s.quiet.hbm.fails + 1))).hbm.training
  rw [State.retrainNoted_training, mem_setErase]
  exact fun h => h.2 rfl

end Clauses

/-- Settles O42: each clause is the equation of its command. -/
theorem channelsRetrainAndMargin : Obligations.ChannelsRetrainAndMargin := by
  intro s ch hs hch
  have hrising : Rising s.regs := hs.regs.1
  refine ⟨fun i v hready hi => ?_, fun hnew hearly hopen hready => ?_, fun ns htrain => ?_,
    fun hmargin n failed hpos hle => ?_, fun row at_ hfind hslot => ?_, fun bank hpresent hbank => ?_,
    fun hdarning hopen hpos hle => ?_⟩
  · exact ⟨⟨_, exec_retrainReqWrite hready hi v, State.setReg_serveMask hrising (byteReg_retrainReq hi) i v.toNat⟩,
      ⟨_, exec_marginReqWrite hready hi v, State.setReg_serveMask hrising (byteReg_marginReq hi) i v.toNat⟩⟩
  · exact ⟨_, exec_retrainSlot hnew hearly hopen hready, s.quiet.slotTaken_spec⟩
  · exact ⟨retrainSucceeds hs hch htrain ns, fun hfew => retrainFails htrain hfew ns,
      fun hmany => retrainFailsChannel htrain hmany ns⟩
  · extract_lets old bad
    have hends := State.marginEnds_eq (s := s.quiet) hmargin hpos hle failed
    obtain ⟨hmem, htasks, hmore, hlast⟩ := State.sweepStep_spec (s := s.quiet) hrising ch (old.1 + n) bad
    refine ⟨_, s.quiet.sweepStep ch (old.1 + n) bad, exec_marginSegmentComplete hends, rfl, hmem, htasks, hmore,
      fun hall => ?_⟩
    obtain ⟨hsweeps, hvalid, hread, hwrite, hother⟩ := hlast hall
    exact ⟨hsweeps, hvalid, hread, hwrite, fun o ho => (hother o ho).trans (s.quiet_reg o)⟩
  · extract_lets used
    have hused : s.quiet.sparesUsed ch (rowBank row) = used := rfl
    have hrow := State.repairRow_eq (s := s.quiet) hfind hslot
    rw [hused] at hrow
    refine ⟨fun hfree => ?_, fun hfull => ?_⟩
    · rw [if_pos hfree] at hrow
      refine ⟨_, s.quiet.rowRepaired ch row, exec_rowRepair hrow, State.failFull_cases _ ch,
        State.repairQueued_rowRepaired _ ch row, State.mem_rowRepaired_spares _ ch row, ?_⟩
      rw [State.rowRepaired_reg (s := s.quiet) hrising hch row, State.quiet_reg]
    · rw [if_neg (Nat.not_lt.mpr hfull)] at hrow
      exact ⟨_, s.quiet.unqueueRepair ch row, exec_rowRepair hrow, State.failFull_cases _ ch,
        State.repairQueued_unqueueRepair _ ch row, rfl, rfl⟩
  · exact ⟨_, exec_refreshSlot hpresent hbank, List.mem_append_right _ (List.mem_singleton.mpr rfl), rfl, rfl⟩
  · have hspec := State.migrated_spec (s := s.quiet) hrising ch hpos hle
    have hdone := State.migrationDone_eq (s := s.quiet) hdarning hopen
    refine ⟨_, s.quiet.migrated ch, exec_darnMigrationComplete hdone, ?_, hspec⟩
    split
    · exact .inr rfl
    · exact .inl rfl

end Sys2Proof.Machine
end

section
/-! Instructions that hold no engine: the control instructions (R272 to R277), and the instructions of remote memory and
of collectives (R278, R283, R289, R333, R370). -/

namespace Sys2Proof.Machine

open Sys2Proof

/-! ### Issue without an engine (R278, R402) -/

/-- Issue leaves the word of a task. -/
theorem State.issue_word (s : State) (t : Task) : (s.issue t).2.word = t.word := by
  simp only [State.issue, Task.retried]
  split
  · rfl
  · split <;> rfl

/-- Issue leaves the immediate fields of a task. -/
@[simp] theorem State.issue_imm (s : State) (t : Task) (hi lo : Nat) : (s.issue t).2.imm hi lo = t.imm hi lo := by
  rw [Task.imm, State.issue_word, Task.imm]

section Unengined

variable {s u : State} {q op form : Nat} {t i : Task} {work : State → Task → State}

/-- A task without an engine issues once its conditions hold and its budget admits it. -/
theorem State.tryIssue_of_noEngine (ht : s.task? q = some t) (hop : t.opcode = op) (hform : t.form = form)
    (hok : s.issueOk t = true) (hadmits : t.lc = true → s.admits t = true) (he : engineOf op = none) :
    s.tryIssue q op form = some (s.issue t) := by
  have hc : t.opcode = op ∧ t.form = form ∧ s.issueOk t = true := ⟨hop, hform, hok⟩
  have hbudget : ¬ (t.lc = true ∧ ¬ s.admits t = true) := fun h => h.2 (hadmits h.1)
  simp only [State.tryIssue, ht, if_pos hc, he, if_neg hbudget]

/-- It does its work, unless its function is fenced and it ended at issue. -/
theorem State.launch_of_tryIssue (h : s.tryIssue q op form = some (u, i)) :
    s.launch q op form work = some (if i.phase = .ended then u else work u i) := by
  simp only [State.launch, h, Option.map_some, beq_iff_eq]

/-- A command that launches a task without an engine, under a condition of its own on the task. -/
theorem exec_launch_noEngine {c : Instr} {also : Task → Prop} {f : State → Option State}
    (hx : exec c s = attempt s f)
    (hf : ∀ t, s.task? q = some t → also t → f s.quiet = s.quiet.launch q op 0 work)
    (he : engineOf op = none) (t : Task) (ht : s.task? q = some t) (hop : t.opcode = op) (hform : t.form = 0)
    (hok : s.quiet.issueOk t = true) (hadmits : t.lc = true → s.admits t = true) (halso : also t) :
    let p := s.quiet.issue t
    (p.2.phase ≠ .ended → exec c s = .next (work p.1 p.2)) ∧ (p.2.phase = .ended → exec c s = .next p.1) := by
  have hissue : s.quiet.tryIssue q op 0 = some (s.quiet.issue t) :=
    State.tryIssue_of_noEngine ht hop hform hok hadmits he
  have hrun := hx.trans (attempt_of_some ((hf t ht halso).trans (State.launch_of_tryIssue hissue)))
  exact ⟨fun h => hrun.trans (congrArg _ (if_neg h)), fun h => hrun.trans (congrArg _ (if_pos h))⟩

/-! ### Remote memory and collectives (R278, R283, R289, R333, R345, R370) -/

/-- A remote task whose queue and stage have room is launched. -/
theorem State.launchRemote_of_room (ht : s.task? q = some t)
    (hroom : s.queueLoad (t.imm 18 16) < 512 ∧ (t.opcode = opRload → s.rme.stageUsed + (t.op 0).span ≤ 8388608)) :
    s.launchRemote q op = s.launch q op 0 State.startRemote := by
  obtain ⟨hqueue, hstage⟩ := hroom
  have hok : s.remoteOk t = true := by simpa [State.remoteOk, hqueue, ← imp_iff_not_or] using hstage
  simp only [State.launchRemote, ht, if_pos hok]

/-- A `COLLECT` of the kind that its row names is launched. -/
theorem State.launchCollect_of_kind {kind : Nat} (ht : s.task? q = some t) (hkind : t.imm 15 12 = kind) :
    s.launchCollect q kind = s.launch q opCollect 0 State.openTask := by
  simp only [State.launchCollect, ht, if_pos hkind]

/-! ### Control instructions (R272, R273, R275, R277) -/

theorem exec_signal (h : s.quiet.tryIssue q opSignal 0 = some (u, i)) :
    exec (.signal q) s = .next ((u.eventAdd (i.imm 10 0) (i.imm 47 16)).completeNow q 0) := by
  show execSignal q s = _
  exact attempt_of_some (by simp only [h])

theorem exec_wait (h : s.quiet.tryIssue q opWait 0 = some (u, i)) (ht : s.task? q = some t)
    (hmet : t.x 1 63 0 ≤ s.reg (regCmdEvent (t.imm 10 0))) : exec (.wait q) s = .next (u.completeNow q 0) := by
  have hwait : (s.quiet.task? q).any s.quiet.waitMet = true :=
    (congrArg (Option.any s.quiet.waitMet) ht).trans (decide_eq_true hmet)
  show execWait q s = _
  exact attempt_of_some (by simp only [hwait, if_true, h])

/-- A `WAIT` below its threshold ends once its time has passed since it became eligible. -/
theorem exec_waitTimeout {e : Nat} (ht : s.task? q = some t) (hop : t.opcode = opWait) (hphase : t.phase = .waiting)
    (hlimit : t.imm 47 20 ≠ 0) (hrunning : s.stopped = false) (he : t.eligible = some e)
    (hlate : e + 1000 * t.imm 47 20 ≤ s.time) (hbelow : s.reg (regCmdEvent (t.imm 10 0)) < t.x 1 63 0) :
    exec (.waitTimeout q) s = .next (s.quiet.completeNow q errWaitTimeout) := by
  have htask : s.quiet.task? q = some t := ht
  have hgoes : s.quiet.stopped = false := hrunning
  have hunmet : s.quiet.waitMet t = false := decide_eq_false (Nat.not_le.mpr hbelow)
  show execWaitTimeout q s = _
  exact attempt_of_some (by simp [htask, he, hlate, hop, hphase, hlimit, hunmet, hgoes])

/-- A `FENCE` that has issued before completes when nothing is open. -/
theorem exec_fence_running (ht : s.task? q = some t) (hop : t.opcode = opFence) (hphase : t.phase = .running)
    (hrunning : s.stopped = false) (hclosed : s.fenceOpen t = false) :
    exec (.fence q) s = .next (s.quiet.tryFence t) := by
  have htask : s.quiet.task? q = some t := ht
  have hgoes : t.opcode = opFence ∧ t.phase = .running ∧ s.quiet.stopped = false := ⟨hop, hphase, hrunning⟩
  have hnone : ¬ s.quiet.fenceOpen t = true := Bool.eq_false_iff.mp hclosed
  show execFence q s = _
  exact attempt_of_some (by simp only [htask, if_pos hgoes, if_neg hnone])

/-- A `FENCE` that issues completes at once when nothing is open, and otherwise stays. -/
theorem exec_fence_issue (h : s.quiet.tryIssue q opFence 0 = some (u, i)) (ht : s.task? q = some t)
    (hphase : t.phase = .waiting) : exec (.fence q) s = .next (u.tryFence i) := by
  have htask : s.quiet.task? q = some t := ht
  have hnew : ¬ (t.opcode = opFence ∧ t.phase = .running ∧ s.quiet.stopped = false) := by simp [hphase]
  show execFence q s = _
  exact attempt_of_some (by simp only [htask, if_neg hnew, h])

theorem exec_halt (h : s.quiet.tryIssue q opHalt 0 = some (u, i)) :
    exec (.halt q) s = .next (if (u.requestHalt (i.imm 4 0)).halted (i.imm 4 0)
      then (u.requestHalt (i.imm 4 0)).completeNow q 0 else u.requestHalt (i.imm 4 0)) := by
  show execHalt q s = _
  exact attempt_of_some (by simp only [h])

theorem exec_resume (h : s.quiet.tryIssue q opResume 0 = some (u, i)) :
    exec (.resume q) s = .next (if u.halted (i.imm 4 0) then u.arise (.resume (i.imm 4 0) (some q))
      else if u.halting (i.imm 4 0) then u else u.completeNow q errNotHalted) := by
  show execResume q s = _
  exact attempt_of_some (by simp only [h, apply_ite some])

end Unengined

/-- The conditions of issue hold of a waiting task alone. -/
theorem State.phase_of_issueOk {s : State} {t : Task} (h : s.issueOk t = true) : t.phase = .waiting := by
  simp only [State.issueOk, Bool.and_eq_true, beq_iff_eq] at h
  obtain ⟨⟨⟨⟨⟨hphase, -⟩, -⟩, -⟩, -⟩, -⟩ := h
  exact hphase

/-- Settles O23: each control instruction issues without an engine, and then does what its row says. -/
theorem controlInstructionsComplete : Obligations.ControlInstructionsComplete := by
  intro s t q ht hform due u
  have issues {op : Nat} (h : due op) (he : engineOf op = none) :
      s.quiet.tryIssue q op 0 = some (u, (s.quiet.issue t).2) := by
    obtain ⟨hop, hok, hadmits⟩ := h
    exact State.tryIssue_of_noEngine ht hop hform hok hadmits he
  refine ⟨fun h => ?signal, fun h hmet => ?wait, fun hop hphase hlimit hrunning hlate hbelow => ?timeout,
    exec_fence_running ht, fun h => ?fence, fun h => ?halt, fun h => ?resume⟩
  case signal => simpa only [State.issue_imm] using exec_signal (issues h rfl)
  case wait => exact exec_wait (issues h rfl) ht hmet
  case timeout =>
    obtain ⟨e, he, hpast⟩ := hlate
    exact exec_waitTimeout ht hop hphase hlimit hrunning he hpast hbelow
  case fence =>
    have ⟨_, hok, _⟩ := h
    exact exec_fence_issue (issues h rfl) ht (State.phase_of_issueOk hok)
  case halt => simpa only [State.issue_imm] using exec_halt (issues h rfl)
  case resume => simpa only [State.issue_imm] using exec_resume (issues h rfl)

/-- Settles O28: each of these commands launches the task of its opcode, a remote one given room, a `COLLECT` of its
kind. -/
theorem remoteAndGroupInstructionsComplete : Obligations.RemoteAndGroupInstructionsComplete := by
  intro s q runs room
  have remote {c : Instr} {op : Nat} (hx : exec c s = attempt s fun z => z.launchRemote q op)
      (he : engineOf op = none) : runs c op room State.startRemote :=
    exec_launch_noEngine hx (fun _ ht hroom => State.launchRemote_of_room ht hroom) he
  have collect {c : Instr} {kind : Nat} (hx : exec c s = attempt s fun z => z.launchCollect q kind) :
      runs c opCollect (fun t => t.imm 15 12 = kind) State.openTask :=
    exec_launch_noEngine hx (fun _ ht hkind => State.launchCollect_of_kind ht hkind) rfl
  exact ⟨remote rfl rfl, remote rfl rfl, remote rfl rfl, remote rfl rfl, remote rfl rfl, collect rfl, collect rfl,
    collect rfl, collect rfl, collect rfl⟩

end Sys2Proof.Machine
end

section
/-! The header of a packet (R310, R311). -/

namespace Sys2Proof.Machine

open Sys2Proof

/-- Refutes O43: the time of a packet's arrival at this switch is not on the wire, and a packet read from its bytes has
0 there. -/
theorem not_packetHeaderRoundTrip : ¬ Obligations.PacketHeaderRoundTrip := by
  intro h
  obtain ⟨hparse, -⟩ := h { Pkt.to 0 0 0 with since := 1 } (by decide) (by decide) (by decide) (by decide) (by decide)
    (by decide) (by decide) (by decide) (by decide) (by decide) (by decide) (by decide)
  exact absurd (congrArg Pkt.since hparse) Nat.zero_ne_one

end Sys2Proof.Machine
end

section
/-! Writes of routes and of the epoch (R320, R322, R324). -/

namespace Sys2Proof.Machine

open Sys2Proof

/-- The registers of the mesh, the switch, the ports and the Remote Memory Engine do not decide how a byte reads. -/
theorem byteReg_of_fabric {o : Nat} (hlo : 0x800000 ≤ o) (hhi : o < 0xd00000) : byteReg o = false := by
  simp only [byteReg, regOdlCwBase, regCadTableBase, regSmsDarn, regCadWregion, regCadImage, Bool.or_eq_false_iff,
    beq_eq_false_iff_ne, decide_eq_false_iff_not]
  omega

/-- One more register set within a frame. -/
theorem State.OnlyRegs.setReg {s t : State} {l : List Nat} (h : s.OnlyRegs t l) {off : Nat} (hl : off ∈ l)
    (hb : byteReg off = false) (v : Nat) : s.OnlyRegs (t.setReg off v) l :=
  h.trans (t.onlyRegs_setReg off v hb) (fun _ ho => ho) fun _ ho => List.mem_singleton.mp ho ▸ hl

/-- The frame of a command begins with the outputs gone. -/
theorem State.OnlyRegs.quiet (s : State) (l : List Nat) : s.OnlyRegs s.quiet l :=
  s.onlyRegs_quiet.trans (.refl _) (by simp) (by simp) (n := l)

/-! ### Routes (R320) -/

theorem exec_routeWrite {s : State} {b d : Nat} (hr : s.ready = true) (hb : b < 2) (hd : d < 16384) (v : Word) :
    exec (.routeWrite b d v) s = .next (s.quiet.writeRoute b d v.toNat) :=
  attempt_of_some (f := fun s => if s.ready = true ∧ b < 2 ∧ d < 16384 then some (s.writeRoute b d v.toNat) else none)
    (if_pos ⟨hr, hb, hd⟩)

theorem State.writeRoute_of_refused {s : State} {b : Nat} (h : b = s.bank ∨ s.retirePending = true) (d v : Nat) :
    s.writeRoute b d v = s.routeReject := if_pos h

theorem State.writeRoute_of_taken {s : State} {b : Nat} (hbank : b ≠ s.bank) (hretire : s.retirePending = false)
    (d v : Nat) : s.writeRoute b d v = s.setReg (regNswRoute (16384 * b + d)) (v / 2 ^ 28 * 2 ^ 28) :=
  if_neg (by simp [hbank, hretire])

/-- The frame of a rejected write of the switch. -/
theorem State.onlyRegs_routeReject (s : State) : s.OnlyRegs s.quiet.routeReject [regNswStatus] :=
  (State.OnlyRegs.quiet s _).setReg (by simp) (byteReg_of_fabric (by decide) (by decide)) _

/-- Settles O44: each of the two branches of `writeRoute` sets one register. -/
theorem routeWritesReachTheInactiveBank : Obligations.RouteWritesReachTheInactiveBank := by
  intro s b d v hs hready hb hd
  have hrise : Rising s.quiet.regs := hs.regs.1
  have hx := exec_routeWrite hready hb hd v
  refine ⟨fun hkept => ?_, fun hbank hretire => ?_⟩
  · rw [State.writeRoute_of_refused (s := s.quiet) hkept] at hx
    exact ⟨_, hx, State.bit_setBit_same _ _ _ _ hrise (by decide), s.onlyRegs_routeReject⟩
  · have hval : v.toNat / 2 ^ 28 * 2 ^ 28 < 2 ^ 64 := (Nat.div_mul_le_self _ _).trans_lt v.isLt
    have hroute : byteReg (regNswRoute (16384 * b + d)) = false :=
      byteReg_of_fabric (by simp only [regNswRoute]; omega) (by simp only [regNswRoute]; omega)
    rw [State.writeRoute_of_taken (s := s.quiet) hbank hretire] at hx
    exact ⟨_, hx, State.reg_setReg_same _ _ _ hrise hval,
      (State.OnlyRegs.quiet s _).setReg (List.mem_singleton.mpr rfl) hroute _⟩

/-! ### The epoch (R322, R324) -/

/-- The registers that a new epoch sets lie in this order, below the routes. -/
theorem epochRegs_ordered (e i : Nat) : regNswStatus < regNswEpoch ∧ regNswEpoch < regNswEpochOut (e % 2) ∧
    regNswEpochOut (e % 2) < regNswEpochIn (e % 2) ∧ regNswEpochIn (e % 2) < regNswRoute i := by
  simp only [regNswStatus, regNswEpoch, regNswEpochOut, regNswEpochIn, regNswRoute]
  omega

/-- None of them decides how a byte reads. -/
theorem byteReg_epochRegs (e : Nat) : byteReg regNswStatus = false ∧ byteReg regNswEpoch = false ∧
    byteReg (regNswEpochOut (e % 2)) = false ∧ byteReg (regNswEpochIn (e % 2)) = false := by
  obtain ⟨h1, h2, h3, h4⟩ := epochRegs_ordered e 0
  exact ⟨byteReg_of_fabric (by decide) (by decide), byteReg_of_fabric (by decide) (by decide),
    byteReg_of_fabric (h1.trans h2 |>.le.trans' (by decide)) ((h3.trans h4).trans (by decide)),
    byteReg_of_fabric ((h1.trans h2).trans h3 |>.le.trans' (by decide)) (h4.trans (by decide))⟩

/-- A write of NSW_EPOCH is taken. -/
def State.EpochOpen (s : State) (e : Nat) : Prop := s.halted 10 = true ∧ e = (s.epoch + 1) % 256 ∧ s.retirePending = false

/-- The next epoch: its bank made active, its counters cleared, and the earlier epoch left to retire. -/
def State.nextEpoch (s : State) (e : Nat) : State :=
  (((s.setReg regNswEpoch e).setReg (regNswEpochOut (e % 2)) 0).setReg (regNswEpochIn (e % 2)) 0).setBit regNswStatus 9 true

theorem State.writeEpoch_of_open {s : State} {v : Nat} (h : s.EpochOpen (getBits v 7 0)) :
    s.writeEpoch v = s.nextEpoch (getBits v 7 0) := by
  obtain ⟨hhalted, hnext, hretire⟩ := h
  have hrun : ¬ s.halted 10 = false := by simp [hhalted]
  rw [State.writeEpoch, if_neg hrun]
  exact if_pos ⟨hnext, hretire⟩

/-- Any other write only sets bits 2 and 10 of NSW_STATUS. -/
theorem State.writeEpoch_of_closed {s : State} {v : Nat} (h : ¬ s.EpochOpen (getBits v 7 0)) :
    s.writeEpoch v = s.routeReject ∨ s.writeEpoch v = (s.setBit regNswStatus 2 true).routeReject := by
  by_cases hhalted : s.halted 10 = true
  · have hrun : ¬ s.halted 10 = false := by simp [hhalted]
    rw [State.writeEpoch, if_neg hrun]
    exact .inl (if_neg fun hopen => h ⟨hhalted, hopen⟩)
  · exact .inr (State.writeEpoch_of_running (Bool.eq_false_iff.mpr hhalted) v)

theorem exec_nswRetireWrite {s : State} (hr : s.ready = true) (v : Word) :
    exec (.nswRetireWrite v) s = .next (s.quiet.writeRetire v.toNat) :=
  attempt_of_some (f := fun s => if s.ready then some (s.writeRetire v.toNat) else none) (if_pos hr)

section NextEpoch

variable {s : State} {e : Nat}

/-- The entries of both banks stand. -/
theorem State.nextEpoch_route (b d : Nat) : (s.nextEpoch e).route b d = s.route b d := by
  obtain ⟨h1, h2, h3, h4⟩ := epochRegs_ordered e (16384 * b + d)
  simp only [State.route, State.nextEpoch, State.setBit, State.setFld]
  rw [State.reg0_setReg_other _ _ _ (by omega), State.reg0_setReg_other _ _ _ (by omega),
    State.reg0_setReg_other _ _ _ (by omega), State.reg0_setReg_other _ _ _ (by omega)]

variable (h : Rising s.regs) (he : e < 256)
include h he

theorem State.nextEpoch_reg :
    (s.nextEpoch e).reg regNswEpoch = e ∧ (s.nextEpoch e).reg (regNswEpochOut (e % 2)) = 0 ∧
      (s.nextEpoch e).reg (regNswEpochIn (e % 2)) = 0 ∧ (s.nextEpoch e).retirePending = true := by
  have h1 : Rising (s.setReg regNswEpoch e).regs := State.setReg_rising _ _ _ h
  have h2 : Rising ((s.setReg regNswEpoch e).setReg (regNswEpochOut (e % 2)) 0).regs := State.setReg_rising _ _ _ h1
  obtain ⟨o1, o2, o3, -⟩ := epochRegs_ordered e 0
  refine ⟨?_, ?_, ?_, State.bit_setBit_same _ _ _ _ (State.setReg_rising _ _ _ h2) (by decide)⟩
  · rw [State.nextEpoch, State.reg_setBit_other _ _ _ _ _ (by omega), State.reg_setReg_other _ _ _ _ (by omega),
      State.reg_setReg_other _ _ _ _ (by omega), State.reg_setReg_same _ _ _ h (by omega)]
  · rw [State.nextEpoch, State.reg_setBit_other _ _ _ _ _ (by omega), State.reg_setReg_other _ _ _ _ (by omega),
      State.reg_setReg_same _ _ _ h1 (by decide)]
  · rw [State.nextEpoch, State.reg_setBit_other _ _ _ _ _ (by omega), State.reg_setReg_same _ _ _ h2 (by decide)]

end NextEpoch

/-- Settles O45: a write that is taken is `nextEpoch`, and any other touches NSW_STATUS alone, in bits other than
RETIRE_PENDING. -/
theorem epochAdvancesByOneWhileHalted : Obligations.EpochAdvancesByOneWhileHalted := by
  intro s v hs hready e ok
  have hrise : Rising s.quiet.regs := hs.regs.1
  have hx := exec_nswEpochWrite hready v
  obtain ⟨hstatus, hepochReg, houtReg, hinReg⟩ := byteReg_epochRegs e
  refine ⟨fun hok => ?taken, fun hok => ?refused, fun hbit => ?retire, fun hbit => ?kept⟩
  case taken =>
    have he : e < 256 := getBits_lt _ 7 0
    have hopen : s.quiet.EpochOpen e := hok
    rw [State.writeEpoch_of_open hopen] at hx
    obtain ⟨hepoch, hout, hin, hretire⟩ := State.nextEpoch_reg (s := s.quiet) hrise he
    have hnow : (s.quiet.nextEpoch e).epoch = e := by
      rw [State.epoch, State.fld, hepoch]
      exact Nat.mod_eq_of_lt he
    have hprev : (s.quiet.nextEpoch e).epochOk s.epoch = true := by
      simp [State.epochOk, hnow, hretire, ← hok.2.1]
    have honly : s.OnlyRegs (s.quiet.nextEpoch e)
        [regNswEpoch, regNswEpochOut (e % 2), regNswEpochIn (e % 2), regNswStatus] :=
      ((((State.OnlyRegs.quiet s _).setReg (by simp) hepochReg _).setReg (by simp) houtReg _).setReg (by simp)
        hinReg _).setReg (by simp) hstatus _
    exact ⟨_, hx, hnow, congrArg (· % 2) hnow, hout, hin, hretire, hprev, fun b d _ _ => State.nextEpoch_route b d, honly⟩
  case refused =>
    have hclosed : ¬ s.quiet.EpochOpen e := hok
    have hretire (z : State) (hz : Rising z.regs) : z.routeReject.retirePending = z.retirePending :=
      State.bit_setBit_other _ _ _ _ _ hz (by decide) (by decide)
    have hepoch (z : State) : z.routeReject.epoch = z.epoch := by
      simp only [State.epoch, State.fld, State.routeReject, State.reg_setBit_other _ _ _ _ _ (show regNswEpoch ≠ regNswStatus by decide)]
    rcases State.writeEpoch_of_closed hclosed with h | h <;> rw [h] at hx
    · exact ⟨_, hx, hepoch _, hretire _ hrise, s.onlyRegs_routeReject⟩
    · have hviol : (s.quiet.setBit regNswStatus 2 true).epoch = s.epoch := by
        simp only [State.epoch, State.fld, State.reg_setBit_other _ _ _ _ _ (show regNswEpoch ≠ regNswStatus by decide),
          State.quiet_reg]
      have hpend : (s.quiet.setBit regNswStatus 2 true).retirePending = s.retirePending :=
        State.bit_setBit_other _ _ _ _ _ hrise (by decide) (by decide)
      exact ⟨_, hx, (hepoch _).trans hviol, (hretire _ (State.setReg_rising _ _ _ hrise)).trans hpend,
        ((State.OnlyRegs.quiet s _).setReg (by simp) hstatus _).setReg (by simp) hstatus _⟩
  case retire =>
    have hclear : s.quiet.writeRetire v.toNat = s.quiet.setBit regNswStatus 9 false := if_pos hbit
    rw [exec_nswRetireWrite hready, hclear]
    exact ⟨_, rfl, State.bit_setBit_same _ _ _ _ hrise (by decide), (State.OnlyRegs.quiet s _).setReg (by simp) hstatus _⟩
  case kept =>
    have hkeep : s.quiet.writeRetire v.toNat = s.quiet := if_neg (by simp [hbit])
    rw [exec_nswRetireWrite hready, hkeep]

end Sys2Proof.Machine
end

section
/-! What an error record leaves alone (R227, R420, R421). -/

namespace Sys2Proof.Machine

open Sys2Proof

/-- The registers that writing a record can move, the counter of its event apart. -/
def noticeRegs : List Nat := [regRruCount 0x0D, regRruStatus, regRruErrHead, regOdlIrqPending 1, regStwAlert]

theorem not_mem_noticeRegs {o : Nat} (h : o < 0xd00000) : o ∉ noticeRegs := by
  simp only [noticeRegs, regRruCount, regRruStatus, regRruErrHead, regOdlIrqPending, regStwAlert, List.mem_cons,
    List.not_mem_nil, or_false]
  omega

/-- From `s` to `t` bytes are stored and events noticed: the ports, the delivered packets and the tasks stay. -/
structure State.Notices (s t : State) : Prop where
  ports : t.ports = s.ports
  rx : t.rx = s.rx
  tasks : t.tasks = s.tasks
  reg : ∀ o, o ∉ noticeRegs → t.reg o = s.reg o

namespace State.Notices

theorem refl (s : State) : s.Notices s := ⟨rfl, rfl, rfl, fun _ _ => rfl⟩

theorem trans {s t u : State} (h : s.Notices t) (g : t.Notices u) : s.Notices u :=
  ⟨g.ports.trans h.ports, g.rx.trans h.rx, g.tasks.trans h.tasks,
    fun o ho => (g.reg o ho).trans (h.reg o ho)⟩

theorem foldl {α : Type} {f : State → α → State} (hf : ∀ (z : State) (a : α), z.Notices (f z a)) (l : List α)
    (s : State) : s.Notices (l.foldl f s) :=
  List.foldlRecOn (motive := fun t => s.Notices t) l f (refl s) fun t ht a _ => ht.trans (hf t a)

end State.Notices

theorem State.setReg_notices (s : State) {off : Nat} (h : off ∈ noticeRegs) (v : Nat) : s.Notices (s.setReg off v) :=
  ⟨rfl, rfl, rfl, fun o ho => s.reg_setReg_other off v o fun e => ho (e ▸ h)⟩

theorem State.store_notices (s : State) (a : Nat) (bs : List Byte) : s.Notices (s.store a bs) :=
  ⟨rfl, rfl, rfl, fun _ _ => rfl⟩

theorem State.trimWindow_notices (s : State) : s.Notices s.trimWindow := by
  refine .foldl (fun z _ => ?_) _ s
  split
  · exact ⟨rfl, rfl, rfl, fun _ _ => rfl⟩
  · exact .refl z

theorem State.darnWrite_notices (s : State) (a : Nat) : s.Notices (s.darnWrite a) := by
  unfold State.darnWrite
  dsimp only
  split
  · split
    · split
      · exact ⟨rfl, rfl, rfl, fun _ _ => rfl⟩
      · split
        · exact ⟨rfl, rfl, rfl, fun _ _ => rfl⟩
        · exact .refl s
    · exact .refl s
  · exact .refl s

theorem State.land_notices (s : State) (a : Nat) (bs : List Byte) : s.Notices (s.land a bs) := by
  unfold State.land
  split
  · split
    · exact .refl s
    · have hstore : s.Notices (s.storeWindow a bs) := ⟨rfl, rfl, rfl, fun _ _ => rfl⟩
      exact hstore.trans (State.trimWindow_notices _)
  · split
    · exact .refl s
    · exact (s.darnWrite_notices a).trans (State.store_notices _ _ _)
  · split
    · exact .refl s
    · exact s.store_notices a bs
  · exact .refl s
  · exact s.store_notices a bs

theorem State.putRing_notices (s : State) (off : Nat) (bs : List Byte) : s.Notices (s.putRing off bs) := by
  unfold State.putRing
  split
  · refine .foldl (fun z p => ?_) _ s
    split
    · exact z.setReg_notices (by decide) _
    · exact z.land_notices _ _
  · exact .refl s

theorem State.alert_notices (s : State) (i : Nat) : s.Notices (s.alert i) := by
  unfold State.alert
  split
  · exact .refl s
  · have hbit : s.Notices (s.setBit regStwAlert i true) := s.setReg_notices (by decide) _
    refine hbit.trans ?_
    unfold State.ibi
    split
    · exact ⟨rfl, rfl, rfl, fun _ _ => rfl⟩
    · exact .refl _

theorem State.recordNew_notices (s : State) (r : ErrRec) : s.Notices (s.recordNew r) := by
  by_cases h : s.reg regRruErrHead - s.reg regRruErrTail ≥ s.reg regRruErrSlots
  · rw [State.recordNew_of_full h]
    exact s.setReg_notices (by decide) _
  · have hnoted (z : State) (n : Option (Nat × Nat × Nat × Nat × Nat)) : z.Notices (z.noteNewest n) :=
      ⟨rfl, rfl, rfl, fun _ _ => rfl⟩
    have hfilled : s.Notices (s.slotFilled r) :=
      (((s.putRing_notices _ _).trans (hnoted _ _)).trans (State.setReg_notices _ (off := regRruErrHead) (by decide) _)).trans
        (State.setReg_notices _ (off := regOdlIrqPending 1) (by decide) _)
    rw [State.recordNew_of_room h]
    split
    · exact hfilled.trans (State.alert_notices _ _)
    · exact hfilled

/-- A record is what its event's count leaves, and notices. -/
theorem State.record_notices (s : State) (r : ErrRec) : (s.addReg (regRruCount r.kind) 1).Notices (s.record r) := by
  unfold State.record
  dsimp only
  split
  · split
    · exact State.putRing_notices _ _ _
    · exact State.recordNew_notices _ _
  · exact State.recordNew_notices _ _

section Record

variable (s : State) (r : ErrRec)

@[simp] theorem State.record_ports : (s.record r).ports = s.ports := (s.record_notices r).ports
@[simp] theorem State.record_rx : (s.record r).rx = s.rx := (s.record_notices r).rx
@[simp] theorem State.record_tasks : (s.record r).tasks = s.tasks := (s.record_notices r).tasks

/-- The registers of the fabric and below it are no record's. -/
theorem State.record_reg_low {o : Nat} (h : o < 0xd00000) : (s.record r).reg o = s.reg o := by
  have hcount : o ≠ regRruCount r.kind := by simp only [regRruCount]; omega
  rw [(s.record_notices r).reg o (not_mem_noticeRegs h), State.reg_addReg_other _ _ _ _ hcount]

/-- The event is counted (R421). -/
theorem State.record_count (h : Rising s.regs) (hkind : regRruCount r.kind ∉ noticeRegs) :
    (s.record r).reg (regRruCount r.kind) = (s.reg (regRruCount r.kind) + 1) % 2 ^ 64 := by
  rw [(s.record_notices r).reg _ hkind, State.reg_addReg_same _ _ _ h]

end Record

end Sys2Proof.Machine
end

section
/-! The state of a port after it has been put back, and the frames that a port sends (R296, R297). -/

namespace Sys2Proof.Machine

open Sys2Proof

/-! ### Ports read back -/

@[simp] theorem State.port_num (s : State) (p : Nat) : (s.port p).num = p := by
  unfold State.port
  cases h : s.ports.find? fun x => x.num == p with
  | none => rfl
  | some x => exact beq_iff_eq.mp (List.find?_some (p := fun x : Port => x.num == p) h)

theorem State.port_congr {s t : State} (h : t.ports = s.ports) (p : Nat) : t.port p = s.port p := by
  simp only [State.port, h]

theorem State.port_setPort {s : State} {x : Port} {p : Nat} (h : x.num = p) : (s.setPort x).port p = x := by
  have hbefore : (s.ports.filter fun y => decide (y.num < x.num)).find? (fun y => y.num == p) = none := by
    refine List.find?_eq_none.mpr fun y hy => ?_
    have hlt := of_decide_eq_true (List.mem_filter.mp hy).2
    simp only [beq_iff_eq]
    omega
  simp only [State.port, State.setPort, List.append_assoc, List.find?_append, hbefore, Option.none_or]
  simp [h]

theorem State.port_modPort (s : State) (p : Nat) (f : Port → Port) (h : (f (s.port p)).num = p) :
    (s.modPort p f).port p = f (s.port p) := State.port_setPort h

section Fields

variable (s : State) (x : Port) (p : Nat) (f : Port → Port)

@[simp] theorem State.setPort_reg (o : Nat) : (s.setPort x).reg o = s.reg o := rfl
@[simp] theorem State.modPort_regs : (s.modPort p f).regs = s.regs := rfl
@[simp] theorem State.modPort_reg (o : Nat) : (s.modPort p f).reg o = s.reg o := rfl
@[simp] theorem State.modPort_inject : (s.modPort p f).inject = s.inject := rfl
@[simp] theorem State.modPort_mem : (s.modPort p f).mem = s.mem := rfl

end Fields

/-! ### What a port that sends leaves alone -/

/-- From `s` to `t` port `p` sends: only the ports and the outputs change, and of the port not what it receives by. -/
structure State.Sends (p : Nat) (s t : State) : Prop where
  rest : t = { s with ports := t.ports, out := t.out }
  out : s.out <+: t.out
  rxSeq : (t.port p).rxSeq = (s.port p).rxSeq
  discarding : (t.port p).discarding = (s.port p).discarding
  keyed : (t.port p).keys.isSome = (s.port p).keys.isSome

namespace State.Sends

variable {p : Nat} {s t u : State}

theorem refl (p : Nat) (s : State) : s.Sends p s := ⟨rfl, List.prefix_refl _, rfl, rfl, rfl⟩

theorem trans (h : s.Sends p t) (g : t.Sends p u) : s.Sends p u := by
  refine ⟨?_, h.out.trans g.out, g.rxSeq.trans h.rxSeq, g.discarding.trans h.discarding, g.keyed.trans h.keyed⟩
  rw [g.rest, h.rest]

theorem foldl {α : Type} {f : State → α → State} (hf : ∀ (z : State) (a : α), z.Sends p (f z a)) (l : List α)
    (s : State) : s.Sends p (l.foldl f s) :=
  List.foldlRecOn (motive := fun t => s.Sends p t) l f (refl p s) fun t ht a _ => ht.trans (hf t a)

theorem rx (h : s.Sends p t) : t.rx = s.rx := (congrArg State.rx h.rest).trans rfl
theorem regs (h : s.Sends p t) : t.regs = s.regs := (congrArg State.regs h.rest).trans rfl
theorem mem (h : s.Sends p t) : t.mem = s.mem := (congrArg State.mem h.rest).trans rfl
theorem tasks (h : s.Sends p t) : t.tasks = s.tasks := (congrArg State.tasks h.rest).trans rfl
theorem variant (h : s.Sends p t) : t.variant = s.variant := (congrArg State.variant h.rest).trans rfl
theorem reg (h : s.Sends p t) (o : Nat) : t.reg o = s.reg o := State.reg_congr h.variant h.regs o

end State.Sends

/-- A port put back with what it receives by as it was. -/
theorem State.setPort_sends {s : State} {p : Nat} {x : Port} (hnum : x.num = p) (hseq : x.rxSeq = (s.port p).rxSeq)
    (hdisc : x.discarding = (s.port p).discarding) (hkeys : x.keys.isSome = (s.port p).keys.isSome) :
    s.Sends p (s.setPort x) := by
  have hport := State.port_setPort (s := s) hnum
  exact ⟨rfl, List.prefix_refl _, by rw [hport, hseq], by rw [hport, hdisc], by rw [hport, hkeys]⟩

theorem State.emit_sends (p : Nat) (s : State) (o : Out) : s.Sends p (s.emit o) :=
  ⟨rfl, List.prefix_append _ _, rfl, rfl, rfl⟩

/-- The keys under which a port's next frame leaves. -/
def State.frameKeys (s : State) (p : Nat) : Option LinkKeys := if s.portCrypt p then (s.port p).keys else none

theorem State.makeFrame_of_plain {s : State} {p : Nat} (h : s.frameKeys p = none) (fseq credit : Nat)
    (stream : List Byte) : (s.makeFrame p fseq credit stream).1 = s := by
  rw [State.frameKeys] at h
  simp only [State.makeFrame, h]

/-- A port whose key has protected one more frame. -/
def Port.countFrame (x : Port) (k : LinkKeys) : Port := { x with keys := some { k with txCount := k.txCount + 1 } }

/-- A frame under keys moves their count of frames alone. -/
theorem State.makeFrame_of_keyed {s : State} {p : Nat} {k : LinkKeys} (h : s.frameKeys p = some k) (fseq credit : Nat)
    (stream : List Byte) : (s.makeFrame p fseq credit stream).1 =
      s.setPort ((s.port p).countFrame k) := by
  rw [State.frameKeys] at h
  simp only [State.makeFrame, h, Port.countFrame]

theorem State.keys_of_frameKeys {s : State} {p : Nat} {k : LinkKeys} (h : s.frameKeys p = some k) :
    (s.port p).keys = some k := by
  unfold State.frameKeys at h
  split at h
  · exact h
  · cases h

theorem State.makeFrame_sends (s : State) (p fseq credit : Nat) (stream : List Byte) :
    s.Sends p (s.makeFrame p fseq credit stream).1 := by
  cases h : s.frameKeys p with
  | none =>
    rw [State.makeFrame_of_plain h]
    exact .refl p s
  | some k =>
    rw [State.makeFrame_of_keyed h]
    exact State.setPort_sends (s.port_num p) rfl rfl (by rw [State.keys_of_frameKeys h]; rfl)

/-- Of the port's own state a frame changes the keys alone. -/
theorem State.makeFrame_retry (s : State) (p fseq credit : Nat) (stream : List Byte) :
    ((s.makeFrame p fseq credit stream).1.port p).retry = (s.port p).retry := by
  cases h : s.frameKeys p with
  | none => rw [State.makeFrame_of_plain h]
  | some k =>
    rw [State.makeFrame_of_keyed h, State.port_setPort (x := (s.port p).countFrame k) (s.port_num p)]
    rfl

theorem State.resendFrame_sends (s : State) (p : Nat) (r : Nat × Nat × List Byte × Nat) : s.Sends p (s.resendFrame p r) := by
  unfold State.resendFrame
  split
  · exact (s.makeFrame_sends p _ _ _).trans (State.emit_sends p _ _)
  · exact .refl p s

theorem Port.takeOwed_sends (x : Port) : x.takeOwed.2.num = x.num ∧ x.takeOwed.2.rxSeq = x.rxSeq ∧
    x.takeOwed.2.discarding = x.discarding ∧ x.takeOwed.2.keys = x.keys := by
  unfold Port.takeOwed
  split <;> exact ⟨rfl, rfl, rfl, rfl⟩

theorem State.nextFrame_sends (s : State) (p : Nat) : s.Sends p (s.nextFrame p) := by
  unfold State.nextFrame
  obtain ⟨hnum, hseq, hdisc, hkeys⟩ := (s.port p).takeOwed_sends
  split
  · refine ((State.setPort_sends ?_ ?_ ?_ ?_).trans (State.makeFrame_sends _ p _ _ _)).trans (State.emit_sends p _ _)
    · exact hnum.trans (s.port_num p)
    · exact hseq
    · exact hdisc
    · exact congrArg Option.isSome hkeys
  · exact .refl p s

theorem State.pump_sends (s : State) (p least fuel : Nat) : s.Sends p (s.pump p least fuel) := by
  induction fuel generalizing s with
  | zero => exact .refl p s
  | succ n ih =>
    unfold State.pump
    dsimp only
    split
    · exact .refl p s
    · exact (s.nextFrame_sends p).trans (ih _)

theorem State.sendFrames_sends (s : State) (p : Nat) (flush : Bool) : s.Sends p (s.sendFrames p flush) :=
  s.pump_sends p _ _

end Sys2Proof.Machine
end

section
/-! The first packet of a channel at an input: delivered, sent on, dropped, or left waiting (R305 to R326). -/

namespace Sys2Proof.Machine

open Sys2Proof

/-- A packet taken out of an input, its cells returned at once where the port can send. -/
def State.taken (s : State) (i : Nat) (p : Pkt) : State := (s.takePkt i p).creditFrame i

theorem State.taken_rx (s : State) (i : Nat) (p : Pkt) : (s.taken i p).rx = s.rx := by
  have htake : (s.takePkt i p).rx = s.rx := by
    unfold State.takePkt
    split <;> rfl
  unfold State.taken State.creditFrame
  split
  · exact (State.nextFrame_sends _ i).rx.trans htake
  · exact htake

@[simp] theorem State.countIn_rx (s : State) (e n : Nat) : (s.countIn e n).rx = s.rx := by
  unfold State.countIn
  split <;> rfl

/-- The ways by which a packet leaves: pressed, or else as it is. -/
def State.leaves (s : State) (i : Nat) (p : Pkt) : Option State :=
  let out := s.outputOf p (s.route (p.epoch % 2) p.dst)
  let w := (s.taken i p).press i p
  (w.1.sendInTurn s out w.2).orElse fun _ => (s.taken i p).sendInTurn s out p

/-- A packet that is no REDUCE is not pressed (R359). -/
theorem State.press_of_other {p : Pkt} (h : p.kind ≠ kReduce) (s : State) (i : Nat) : s.press i p = (s, p) :=
  if_neg fun hc => h hc.2

/-- An answer that `forward` gives, or none where the packet waits. -/
theorem exec_packetForward {s : State} {i vc : Nat} {o : Option State} (h : s.quiet.forward i vc = o) :
    exec (.packetForward i vc) s = .next (o.getD s.quiet) := by
  show execPacketForward i vc s = _
  rw [execPacketForward, attempt, h]

section Head

variable {s : State} {i vc : Nat} {p : Pkt} (hhead : s.headPkt i vc = some p)
include hhead

theorem State.forward_of_stuck (h : s.movable i p = false) : s.forward i vc = none := by
  simp only [State.forward, hhead, if_pos h]

variable (hmove : s.movable i p = true)
include hmove

/-! ### Copies that this node sends on along a tree (R355, R372) -/

section Copy

variable (hcopy : 32 ≤ p.port)
include hcopy

theorem State.forward_copy_failed (h : s.portState (p.port - 32) = 4) :
    s.forward i vc = some (((s.taken i p).dropPkt i p 4).fanLeft p) := by
  simp only [State.forward, hhead, hmove, Bool.true_eq_false, if_false, if_pos hcopy, if_pos h, State.taken]

variable (hlive : s.portState (p.port - 32) ≠ 4)
include hlive

theorem State.forward_copy_spent (h : p.hops ≤ 1) : s.forward i vc = some (((s.taken i p).dropPkt i p 2).fanLeft p) := by
  simp only [State.forward, hhead, hmove, Bool.true_eq_false, if_false, if_pos hcopy, if_neg hlive, if_pos h, State.taken]

theorem State.forward_copy (h : 1 < p.hops) :
    s.forward i vc = ((s.taken i p).sendInTurn s (p.port - 32) p).map fun z => z.fanLeft p := by
  simp only [State.forward, hhead, hmove, Bool.true_eq_false, if_false, if_pos hcopy, if_neg hlive,
    if_neg (Nat.not_le.mpr h), State.taken]

end Copy

/-! ### Other packets -/

variable (harrived : p.port < 32)
include harrived

theorem State.forward_stale (h : s.epochOk p.epoch = false) : s.forward i vc = some ((s.taken i p).dropPkt i p 3) := by
  simp only [State.forward, hhead, hmove, Bool.true_eq_false, if_false, if_neg (Nat.not_le.mpr harrived), if_pos h,
    State.taken]

variable (hepoch : s.epochOk p.epoch = true)
include hepoch

theorem State.forward_tree (h : p.tree = true) :
    s.forward i vc = if s.treeRoom p then some ((s.taken i p).deliver p) else none := by
  simp only [State.forward, hhead, hmove, Bool.true_eq_false, if_false, if_neg (Nat.not_le.mpr harrived), hepoch,
    if_pos h, State.taken]

section Routed

variable (hplain : p.tree = false)
include hplain

/-- A packet that ends here is pressed and delivered (R315, R316). -/
theorem State.forward_here
    (h : p.dst = s.deviceId ∨ routeValid (s.route (p.epoch % 2) p.dst) = true ∧
      routePort (s.route (p.epoch % 2) p.dst) = 31) :
    let w := (s.taken i p).press i p
    s.forward i vc = some ((w.1.countIn w.2.epoch 1).deliver w.2) := by
  simp only [State.forward, hhead, hmove, Bool.true_eq_false, if_false, if_neg (Nat.not_le.mpr harrived), hepoch,
    hplain, Bool.false_eq_true, if_pos h, State.taken]

section Onward

variable (honward : ¬ (p.dst = s.deviceId ∨ routeValid (s.route (p.epoch % 2) p.dst) = true ∧
  routePort (s.route (p.epoch % 2) p.dst) = 31))
include honward

theorem State.forward_unrouted (h : routeValid (s.route (p.epoch % 2) p.dst) = false) :
    s.forward i vc = some ((s.taken i p).dropPkt i p 1) := by
  simp only [State.forward, hhead, hmove, Bool.true_eq_false, if_false, if_neg (Nat.not_le.mpr harrived), hepoch,
    hplain, Bool.false_eq_true, if_neg honward, if_pos h, State.taken]

variable (hroute : ¬ routeValid (s.route (p.epoch % 2) p.dst) = false)
include hroute

theorem State.forward_spent (h : p.hops ≤ 1) : s.forward i vc = some ((s.taken i p).dropPkt i p 2) := by
  simp only [State.forward, hhead, hmove, Bool.true_eq_false, if_false, if_neg (Nat.not_le.mpr harrived), hepoch,
    hplain, Bool.false_eq_true, if_neg honward, if_neg hroute, if_pos h, State.taken]

variable (hhops : 1 < p.hops)
include hhops

theorem State.forward_unsent (h : s.leaves i p = none) :
    s.forward i vc = if s.portState (routePort (s.route (p.epoch % 2) p.dst)) = 4
      then some ((s.taken i p).dropPkt i p 4) else none := by
  simp only [State.leaves, State.taken] at h
  simp only [State.forward, hhead, hmove, Bool.true_eq_false, if_false, if_neg (Nat.not_le.mpr harrived), hepoch,
    hplain, Bool.false_eq_true, if_neg honward, if_neg hroute, if_neg (Nat.not_le.mpr hhops), h, State.taken]

/-- A packet that leaves counts a detour at its input port when its output is not that of its route. -/
theorem State.forward_sent {z : State} (h : s.leaves i p = some z) :
    s.forward i vc = some (if (adaptiveVc p.vc && s.outputOf p (s.route (p.epoch % 2) p.dst) !=
        routePort (s.route (p.epoch % 2) p.dst)) = true ∧ i < 24
      then z.modPort i fun x => { x with sDetours := x.sDetours + 1 } else z) := by
  simp only [State.leaves, State.taken] at h
  simp only [State.forward, hhead, hmove, Bool.true_eq_false, if_false, if_neg (Nat.not_le.mpr harrived), hepoch,
    hplain, Bool.false_eq_true, if_neg honward, if_neg hroute, if_neg (Nat.not_le.mpr hhops), h]

end Onward

end Routed

end Head

/-- Settles O46: each clause is a branch of `forward`. -/
theorem packetsAreDeliveredForwardedOrDropped : Obligations.PacketsAreDeliveredForwardedOrDropped := by
  intro s i vc p hhead u r here
  have hhead' : s.quiet.headPkt i vc = some p := hhead
  refine ⟨fun hstuck => exec_packetForward (State.forward_of_stuck hhead' hstuck), fun hmove => ?_⟩
  have hmove' : s.quiet.movable i p = true := hmove
  refine ⟨fun hcopy => ⟨fun hfailed => ?_, fun hlive hspent => ?_, fun hlive hhops => ⟨fun z hz => ?_, fun hnone => ?_⟩⟩,
    fun harrived hstale => ?_, fun harrived hepoch htree => ⟨fun hroom => ⟨?_, ?_⟩, fun hfull => ?_⟩,
    fun harrived hepoch hplain => ⟨fun hends => ⟨?_, fun hkind => ?_⟩, fun hdst hinvalid => ?_,
      fun hdst hroute hport => ⟨fun hspent => ?_, fun hhops => ?_⟩⟩⟩
  · exact exec_packetForward (State.forward_copy_failed hhead' hmove' hcopy hfailed)
  · exact exec_packetForward (State.forward_copy_spent hhead' hmove' hcopy hlive hspent)
  · exact exec_packetForward ((State.forward_copy hhead' hmove' hcopy hlive hhops).trans (congrArg _ hz))
  · exact exec_packetForward ((State.forward_copy hhead' hmove' hcopy hlive hhops).trans (congrArg _ hnone))
  · exact exec_packetForward (State.forward_stale hhead' hmove' harrived hstale)
  · exact exec_packetForward ((State.forward_tree hhead' hmove' harrived hepoch htree).trans (if_pos hroom))
  · exact congrArg (· ++ [p]) (s.quiet.taken_rx i p)
  · exact exec_packetForward ((State.forward_tree hhead' hmove' harrived hepoch htree).trans (if_neg (by simp [hfull])))
  · exact exec_packetForward (State.forward_here hhead' hmove' harrived hepoch hplain hends)
  · have hpress : u.press i p = (u, p) := State.press_of_other hkind u i
    rw [hpress]
    exact congrArg (· ++ [p]) ((State.countIn_rx _ _ _).trans (s.quiet.taken_rx i p))
  · exact exec_packetForward (State.forward_unrouted hhead' hmove' harrived hepoch hplain
      (not_or.mpr ⟨hdst, fun hc => Bool.false_ne_true (hinvalid.symm.trans hc.1)⟩) hinvalid)
  · exact exec_packetForward (State.forward_spent hhead' hmove' harrived hepoch hplain
      (not_or.mpr ⟨hdst, fun hc => hport hc.2⟩) (ne_of_eq_of_ne hroute (by decide)) hspent)
  · have honward : ¬ (p.dst = s.deviceId ∨ routeValid r = true ∧ routePort r = 31) :=
      not_or.mpr ⟨hdst, fun hc => hport hc.2⟩
    have hvalid : ¬ routeValid r = false := ne_of_eq_of_ne hroute (by decide)
    refine ⟨fun z hz => ?_, fun hnone => ?_⟩
    · have hsent := exec_packetForward (State.forward_sent hhead' hmove' harrived hepoch hplain honward hvalid hhops hz)
      refine ⟨fun hdirect => ?_, fun hadaptive hdetour hin => ?_⟩
      · refine hsent.trans (congrArg _ (if_neg fun hc => ?_))
        obtain ⟨hc, hin⟩ := hc
        obtain ⟨hadaptive, hdetour⟩ := (Bool.and_eq_true _ _).mp hc
        rcases hdirect with h | h | h
        · exact Bool.false_ne_true (h.symm.trans hadaptive)
        · exact bne_iff_ne.mp hdetour h
        · omega
      · have hdet : (adaptiveVc p.vc && s.quiet.outputOf p r != routePort r) = true :=
          (Bool.and_eq_true _ _).mpr ⟨hadaptive, bne_iff_ne.mpr hdetour⟩
        exact hsent.trans (congrArg _ (if_pos ⟨hdet, hin⟩))
    · have hunsent := State.forward_unsent hhead' hmove' harrived hepoch hplain honward hvalid hhops hnone
      exact ⟨fun hfailed => exec_packetForward (hunsent.trans (if_pos hfailed)),
        fun hlive => exec_packetForward (hunsent.trans (if_neg hlive))⟩

end Sys2Proof.Machine
end

section
/-! Surveys of the ports and resends of the mesh (R328, R329, R538, R539). -/

namespace Sys2Proof.Machine

open Sys2Proof

/-- The resends of the last microsecond, this one with them. -/
def State.meshRecent (s : State) (l : Nat) : List (Nat × Nat) :=
  (s.rru.meshResends.filter fun x => decide (s.time < x.2 + 1000)) ++ [(l, s.time)]

/-- The resend kept with those before it. -/
def State.meshNoted (s : State) (l : Nat) : State := s.modRru fun r => { r with meshResends := s.meshRecent l }

/-- A resend kept and counted, and its link noted. -/
def State.meshCounted (s : State) (l : Nat) : State :=
  ((s.meshNoted l).addReg regMshResends 1).setReg regMshLastLink (2 ^ 31 + l)

/-- Of the resends kept, those of the link are the earlier ones and this one. -/
theorem State.meshRecent_of_link (s : State) (l : Nat) : ((s.meshRecent l).filter fun x => x.1 == l).length =
    (s.rru.meshResends.filter fun x => decide (s.time < x.2 + 1000) && x.1 == l).length + 1 := by
  have hswap : (fun x : Nat × Nat => x.1 == l && decide (s.time < x.2 + 1000)) =
      fun x => decide (s.time < x.2 + 1000) && x.1 == l := funext fun x => Bool.and_comm _ _
  simp only [State.meshRecent, List.filter_append, List.filter_filter, hswap, List.length_append]
  simp

section Counted

variable {s : State} (h : Rising s.regs)
include h

theorem State.meshCounted_rising (l : Nat) : Rising (s.meshCounted l).regs :=
  State.setReg_rising _ _ _ (State.setReg_rising _ _ _ (show Rising (s.meshNoted l).regs from h))

theorem State.meshCounted_reg (l : BitVec 16) :
    (s.meshCounted l.toNat).reg regMshResends = (s.reg regMshResends + 1) % 2 ^ 64 ∧
      (s.meshCounted l.toNat).reg regMshLastLink = 2 ^ 31 + l.toNat ∧
      (s.meshCounted l.toNat).reg (regRruCount 9) = s.reg (regRruCount 9) := by
  have hl := l.isLt
  have hnoted : Rising (s.meshNoted l.toNat).regs := h
  refine ⟨?_, State.reg_setReg_same _ _ _ (State.setReg_rising _ _ _ hnoted) (by omega), ?_⟩
  · rw [State.meshCounted, State.reg_setReg_other _ _ _ _ (by decide), State.reg_addReg_same _ _ _ hnoted]
    rfl
  · rw [State.meshCounted, State.reg_setReg_other _ _ _ _ (by decide), State.reg_addReg_other _ _ _ _ (by decide)]
    rfl

end Counted

theorem exec_surveyInterval {s : State} (h : s.sched.surveyAt + 1000 * s.surveyUs ≤ s.time ∧ s.ready = true ∧
    s.stopped = false) :
    let u := ((List.range 24).filter (portPresent s.variant)).foldl State.surveyPort s.quiet
    exec .surveyInterval s = .next { u with sched := { u.sched with surveyAt := s.time } } := by
  show execSurveyInterval s = _
  rw [execSurveyInterval]
  exact attempt_of_some (if_pos h)

section MeshResend

variable {s : State} {link : BitVec 16}

theorem exec_meshFlitResend_few (h : ¬ 16 < ((s.quiet.meshRecent link.toNat).filter fun x => x.1 == link.toNat).length) :
    exec (.meshFlitResend link) s = .next ((s.quiet.meshCounted link.toNat).record
      { kind := 0x09, scope := 0, action := 0, unit := unitWord (linkDomain link.toNat) link.toNat,
        detail := link.toNat }) := by
  show execMeshFlitResend link s = _
  rw [execMeshFlitResend]
  exact attempt_of_some (if_neg h)

theorem exec_meshFlitResend_many (h : 16 < ((s.quiet.meshRecent link.toNat).filter fun x => x.1 == link.toNat).length) :
    exec (.meshFlitResend link) s = .next (((s.quiet.meshCounted link.toNat).setBit regMshStatus 1 true).deviceStop 0x09
      (unitWord (linkDomain link.toNat) link.toNat) link.toNat none) := by
  show execMeshFlitResend link s = _
  rw [execMeshFlitResend]
  exact attempt_of_some (if_pos h)

end MeshResend

/-- Settles O49: a survey is a branch of the model, and of a resend the link's share of the last microsecond decides. -/
theorem surveysAndMeshResendsAreRecorded : Obligations.SurveysAndMeshResendsAreRecorded := by
  intro s hs
  have hrise : Rising s.quiet.regs := hs.regs.1
  refine ⟨fun hdue hready hstopped => exec_surveyInterval ⟨hdue, hready, hstopped⟩, fun link => ?_⟩
  have hlen := s.quiet.meshRecent_of_link link.toNat
  have hrise' := State.meshCounted_rising hrise link.toNat
  refine ⟨fun hfew => ?_, fun hmany => ?_⟩
  · obtain ⟨hcount, hlast, hevents⟩ := State.meshCounted_reg hrise link
    refine ⟨_, exec_meshFlitResend_few (hlen.trans_le hfew).not_gt, ?_, ?_, ?_,
      State.record_tasks _ _⟩
    · exact (State.record_reg_low _ _ (by decide)).trans hcount
    · exact (State.record_reg_low _ _ (by decide)).trans hlast
    · exact (State.record_count _ _ hrise' (show regRruCount 9 ∉ noticeRegs by decide)).trans (by rw [hevents]; rfl)
  · exact ⟨_, (s.quiet.meshCounted link.toNat).setBit regMshStatus 1 true,
      exec_meshFlitResend_many ((Nat.lt_succ_of_le hmany).trans_eq hlen.symm), State.bit_setBit_same _ _ _ _ hrise' (by decide), rfl⟩

end Sys2Proof.Machine
end

section
/-! Packets taken in their order (R309, R339), and how those of memory are served (R338 to R350). -/

namespace Sys2Proof.Machine

open Sys2Proof

/-! ### Packets put into the injection queue -/

/-- A packet as the device's own queue holds it. -/
def State.stamped (s : State) (p : Pkt) : Pkt :=
  { p with src := s.deviceId, epoch := s.injectEpoch,
           hops := min 63 (routeHops (s.route (s.injectEpoch % 2) p.dst) + 8), port := 24, since := s.time }

/-- The packet is queued, and its epoch counts it. -/
theorem State.injectPkt_eq (s : State) (p : Pkt) :
    s.injectPkt p = ({ s with inject := s.inject ++ [s.stamped p] }).countOut s.injectEpoch 1 := rfl

/-- A count of an epoch moves registers alone. -/
theorem State.countOut_regs (s : State) (e n : Nat) : s.countOut e n = { s with regs := (s.countOut e n).regs } := by
  unfold State.countOut
  split <;> rfl

section Inject

variable (s : State) (p : Pkt)

@[simp] theorem State.injectPkt_inject : (s.injectPkt p).inject = s.inject ++ [s.stamped p] := by
  rw [State.injectPkt_eq, State.countOut_regs]

@[simp] theorem State.injectPkt_mem : (s.injectPkt p).mem = s.mem := by
  rw [State.injectPkt_eq, State.countOut_regs]

@[simp] theorem State.injectPkt_tasks : (s.injectPkt p).tasks = s.tasks := by
  rw [State.injectPkt_eq, State.countOut_regs]

end Inject

/-! ### Taking -/

/-- The first delivered packet that a condition admits, and the state without it. -/
def State.takeBy (s : State) (ok : Pkt → Bool) : Option (Pkt × State) :=
  match s.rx.find? ok with
  | some p => some (p, { s with rx := dropFirst p s.rx })
  | none => none

/-- A row takes its kind's first packet that may be taken, and has no effect without one. -/
theorem exec_takeBy {s : State} {c : Instr} {k : Nat} {ok : Pkt → Bool} {serve : State → Pkt → State}
    (hx : exec c s = .next (((s.quiet.takeBy fun p => p.kind == k && ok p).map fun r => serve r.2 r.1).getD s.quiet)) :
    (∀ p, (s.rx.find? fun p => p.kind == k && ok p) = some p →
      exec c s = .next (serve { s.quiet with rx := dropFirst p s.rx } p)) ∧
    ((∀ p ∈ s.rx, p.kind = k → ok p = false) → exec c s = .next s.quiet) := by
  rw [hx, State.takeBy]
  refine ⟨fun p hp => ?_, fun hno => ?_⟩
  · rw [show s.quiet.rx = s.rx from rfl, hp]
    rfl
  · have hnone : (s.quiet.rx.find? fun p => p.kind == k && ok p) = none :=
      List.find?_eq_none.mpr fun p hp hc => by
        obtain ⟨hkind, hok⟩ := (Bool.and_eq_true _ _).mp hc
        exact Bool.false_ne_true ((hno p hp (beq_iff_eq.mp hkind)).symm.trans hok)
    rw [hnone]
    rfl

theorem State.takeRx_eq (s : State) (k : Nat) : s.takeRx k = s.takeBy fun p => p.kind == k && true := by
  have hkind : (fun p : Pkt => p.kind == k && true) = fun p => p.kind == k := funext fun p => Bool.and_true _
  rw [hkind]
  rfl

/-- Of an ordered packet no ordered one of its source and channel waits before it. -/
def State.inOrder (s : State) (p : Pkt) : Bool :=
  !p.ordered || (s.rx.takeWhile (· != p)).all fun q => !(q.ordered && q.src == p.src && q.vc == p.vc)

/-- A packet of an exchange's rows waits until the exchange is decided here (R391). -/
def State.storeWaits (s : State) (p : Pkt) : Bool :=
  p.vc == 3 && match s.xchgOf p with
    | some x => !x.decided
    | none => false

theorem State.storeWaits_eq (s : State) (p : Pkt) :
    s.storeWaits p = (p.vc == 3 && (s.xchgOf p).any fun x => !x.decided) := by
  unfold State.storeWaits
  cases s.xchgOf p <;> rfl

theorem State.takeStore_eq (s : State) : s.takeStore =
    s.takeBy fun p => p.kind == kStore && (!(p.vc == 3 && (s.xchgOf p).any fun x => !x.decided) && s.inOrder p) := by
  have hok : (fun p => p.kind == kStore && (!(p.vc == 3 && (s.xchgOf p).any fun x => !x.decided) && s.inOrder p)) =
      fun p => p.kind == kStore && !s.storeWaits p && s.inOrder p :=
    funext fun p => by rw [s.storeWaits_eq, Bool.and_assoc]
  rw [hok]
  rfl

theorem exec_store_eq (s : State) : exec .store s = .next (((s.quiet.takeBy fun p => p.kind == kStore &&
    (!(p.vc == 3 && (s.quiet.xchgOf p).any fun x => !x.decided) && s.quiet.inOrder p)).map fun r =>
      if r.1.vc = 3 then r.2.takeRows r.1 else r.2.serveStore r.1).getD s.quiet) := by
  rw [← State.takeStore_eq]
  rfl

/-! ### Serving -/

theorem State.serveLoad_of_readable {s : State} {p : Pkt} (hoff : p.offset < p.total)
    (hst : s.targetStatus (p.addr + p.offset) (min 4096 (p.total - p.offset)) false false = 0)
    (hclean : s.anyPoison (p.addr + p.offset) (min 4096 (p.total - p.offset)) = false) :
    s.serveLoad p = s.answer p kLoadData 0 p.src p.txn
      (s.rdBytes (p.addr + p.offset) (min 4096 (p.total - p.offset))) := by
  simp only [State.serveLoad, if_neg (Nat.not_le.mpr hoff), hst, hclean, ne_eq, not_true_eq_false, Bool.false_eq_true,
    if_false]

theorem State.serveStore_of_writable {s : State} {p : Pkt} (hlen : p.offset + p.len ≤ p.total)
    (hst : s.targetStatus (p.addr + p.offset) p.len true false = 0) :
    s.serveStore p = (s.putBytes (p.addr + p.offset) p.payload).answer p kAck 0 p.src p.txn [] := by
  simp only [State.serveStore, if_neg (Nat.not_lt.mpr hlen), hst, ne_eq, not_true_eq_false, if_false]

/-- The state in which a REDUCE is judged: its constituents counted. -/
def State.pressedIn (s : State) (p : Pkt) : State := if p.count = 0 then s else s.addReg regRmePressed p.count

theorem State.replayRoom_of_room {s : State} {n : Nat} (h : s.rme.window.length + n ≤ 65536) (f : Nat) :
    s.replayRoom n f = some s := by
  cases f with
  | zero => exact if_pos h
  | succ f => exact if_pos h

theorem State.serveReduce_of_fresh {s u : State} {p : Pkt} (hu : s.pressedIn p = u)
    (hlen : p.offset + p.redData.length ≤ p.total) (hnew : u.replay? p.src p.txn p.offset = none)
    (hfresh : ∀ d ∈ p.constituents, u.freshKey d.1 d.2 = true)
    (hst : u.targetStatus (p.addr + p.offset) p.redData.length true true = 0)
    (hclean : u.anyPoison (p.addr + p.offset) p.redData.length = false)
    (hroom : u.rme.window.length + p.constituents.length ≤ 65536) :
    s.serveReduce p = (p.constituents.foldl (fun z d => z.recordReplay d.1 d.2 p.offset 0 0)
      (u.putBytes (p.addr + p.offset) (combineBytes p.redOp p.redFmt
        (u.rdBytes (p.addr + p.offset) p.redData.length) p.redData))).ackAll p 0 := by
  have hstale : ¬ (p.constituents.any fun c => !u.freshKey c.1 c.2) = true := by
    simpa using hfresh
  rw [State.pressedIn] at hu
  simp only [State.serveReduce, hu, if_neg (Nat.not_lt.mpr hlen), hnew, if_neg hstale, hst, hclean, ne_eq,
    not_true_eq_false, Bool.false_eq_true, if_false, State.replayRoom_of_room hroom]

/-! ### Replies -/

section Reply

variable {s : State} {p : Pkt} {x : Xfer} (hx : s.xfer? p.txn = some x) (hslot : s.slotOfXfer x = none)
include hslot

/-- A reply of status OK to a request of a task that is not parked completes it. -/
theorem State.takeReply_ok (off : Nat) (data : List Byte) : s.takeReply x off 0 data = s.endReq x off data := by
  simp only [State.takeReply, hslot, State.actReply]
  simp

variable (hok : p.group % 16 = 0)
include hx hok

theorem State.takeLoadData_ok (hlen : p.offset + p.len ≤ p.total) (hkind : x.kind = kLoadReq)
    (hwaits : (x.reqs.any fun r => r.offset == p.offset && r.reply.isNone) = true) :
    s.takeLoadData p = s.endReq x p.offset p.payload := by
  simp only [State.takeLoadData, if_neg (Nat.not_lt.mpr hlen), hx, if_pos (And.intro hkind hwaits), hok,
    State.takeReply_ok hslot]

theorem State.takeAck_ok (hexch : x.exch = false) (hkind : x.kind = kStore ∨ x.kind = kReduce)
    (hwaits : (x.reqs.any fun r => r.offset == p.offset && r.reply.isNone) = true) :
    s.takeAck p = s.endReq x p.offset [] := by
  have hfan : x.kind ≠ kFanset := by
    rcases hkind with h | h <;> rw [h] <;> decide
  simp only [State.takeAck, hx, if_neg hfan, if_pos (And.intro hkind hwaits), hexch, Bool.false_eq_true, if_false, hok,
    State.takeReply_ok hslot]

theorem State.takeAtomicReply_ok (hkind : x.kind = kAtomic) (hwaits : (x.reqs.any fun r => r.reply.isNone) = true) :
    s.takeAtomicReply p = s.endReq x 0 (p.payload.take 8) := by
  simp only [State.takeAtomicReply, hx, if_pos (And.intro hkind hwaits), hok, State.takeReply_ok hslot]

end Reply

/-- Settles O50: every row is `exec_takeBy` with its condition, and of what it takes a branch of its `serve`. -/
theorem deliveredPacketsAreServed : Obligations.DeliveredPacketsAreServed := by
  intro s z rest first takes before any inOrder decided answers
  have takesAny {k : Nat} {c : Instr} {serve : State → Pkt → State}
      (hx : exec c s = .next (((s.quiet.takeRx k).map fun r => serve r.2 r.1).getD s.quiet)) : takes k c any serve :=
    exec_takeBy (s.quiet.takeRx_eq k ▸ hx)
  have takesInOrder {k : Nat} {c : Instr} {serve : State → Pkt → State}
      (hx : exec c s = .next (((s.quiet.takeOrdered k).map fun r => serve r.2 r.1).getD s.quiet)) :
      takes k c inOrder serve := exec_takeBy hx
  have loads := takesInOrder (k := kLoadReq) (c := .loadReq) (serve := State.serveLoad) rfl
  have loadData := takesAny (k := kLoadData) (c := .loadData) (serve := State.takeLoadData) rfl
  have atomicReplies := takesAny (k := kAtomicReply) (c := .atomicReply) (serve := State.takeAtomicReply) rfl
  have acks := takesAny (k := kAck) (c := .ack) (serve := State.takeAck) rfl
  have reduces := takesInOrder (k := kReduce) (c := .reduce) (serve := State.serveReduce) rfl
  have retries := takesInOrder (k := kReduceRetry) (c := .reduceRetry) (serve := State.serveReduce) rfl
  have stores := exec_takeBy (k := kStore) (ok := fun p => decided p && inOrder p)
    (serve := fun u p => if p.vc = 3 then u.takeRows p else u.serveStore p) (exec_store_eq s)
  refine ⟨loads, loadData, takesInOrder rfl, takesInOrder rfl, atomicReplies, reduces, retries, takesAny rfl, acks,
    takesAny rfl, takesAny rfl, takesAny rfl, takesAny rfl, takesAny rfl, takesAny rfl, takesAny rfl, takesAny rfl, stores,
    exec_takeBy rfl, exec_takeBy rfl, exec_takeBy rfl, ?_, ?_, ?_, ?_⟩
  · intro p hp hoff n hst hclean
    have hserve := State.serveLoad_of_readable (s := rest p) hoff hst hclean
    refine ⟨_, (loads.1 p hp).trans (congrArg _ hserve), State.injectPkt_mem _ _, State.injectPkt_tasks _ _, ?_⟩
    rw [State.answer, State.injectPkt_inject, List.getLast?_concat]
    rfl
  · intro p hp hvc hlen hst
    have hserve := State.serveStore_of_writable (s := rest p) hlen hst
    refine ⟨_, (stores.1 p hp).trans (congrArg _ ((if_neg hvc).trans hserve)), State.injectPkt_mem _ _, ?_⟩
    rw [State.answer, State.injectPkt_inject, List.getLast?_concat]
    rfl
  · intro p k c hp hrow u a n hlen hnew hfresh hst hclean hroom
    have hserve := State.serveReduce_of_fresh (s := rest p) (u := u) rfl hlen hnew hfresh hst hclean hroom
    rcases hrow with ⟨rfl, rfl⟩ | ⟨rfl, rfl⟩
    · exact (reduces.1 p hp).trans (congrArg _ hserve)
    · exact (retries.1 p hp).trans (congrArg _ hserve)
  · intro p x hx hslot hok waits
    have hx' : (rest p).xfer? p.txn = some x := hx
    have hslot' : (rest p).slotOfXfer x = none := hslot
    refine ⟨fun hp hlen hkind hwaits => ?_, fun hp hkind hwaits => ?_, fun hp hexch hkind hwaits => ?_⟩
    · exact (loadData.1 p hp).trans (congrArg _ (State.takeLoadData_ok hx' hslot' hok hlen hkind hwaits))
    · obtain ⟨r, hmem, hr⟩ := List.any_eq_true.mp hwaits
      have hwaits : (x.reqs.any fun r => r.reply.isNone) = true :=
        List.any_eq_true.mpr ⟨r, hmem, ((Bool.and_eq_true _ _).mp hr).2⟩
      exact (atomicReplies.1 p hp).trans (congrArg _ (State.takeAtomicReply_ok hx' hslot' hok hkind hwaits))
    · exact (acks.1 p hp).trans (congrArg _ (State.takeAck_ok hx' hslot' hok hexch hkind hwaits))

end Sys2Proof.Machine
end

section
/-! Transfers: their packets injected, sent again, and given up (R326 to R358). -/

namespace Sys2Proof.Machine

open Sys2Proof

/-! ### One packet more in the injection queue -/

/-- From `s` to `t` one packet has been put into the injection queue; memory and tasks stay. -/
structure State.Injects (s t : State) (p : Pkt) : Prop where
  inject : t.inject = s.inject ++ [p]
  mem : t.mem = s.mem
  tasks : t.tasks = s.tasks

theorem State.Injects.length {s t : State} {p : Pkt} (h : s.Injects t p) : t.inject.length = s.inject.length + 1 := by
  rw [h.inject, List.length_append]
  rfl

theorem State.Injects.getLast? {s t : State} {p : Pkt} (h : s.Injects t p) : t.inject.getLast? = some p := by
  rw [h.inject, List.getLast?_concat]

/-- A transfer put back, one of its packets injected, and counters raised. -/
theorem State.setXfer_injects (s : State) (x : Xfer) (p : Pkt) :
    s.Injects ((s.setXfer x).injectPkt p) ((s.setXfer x).stamped p) :=
  ⟨State.injectPkt_inject _ _, State.injectPkt_mem _ _, State.injectPkt_tasks _ _⟩

theorem State.Injects.addReg {s t : State} {p : Pkt} (h : s.Injects t p) (o n : Nat) : s.Injects (t.addReg o n) p :=
  ⟨h.inject, h.mem, h.tasks⟩

theorem State.settlePosted_inject (s : State) (x : Xfer) :
    (s.settlePosted x).inject = s.inject ∧ (s.settlePosted x).mem = s.mem := by
  unfold State.settlePosted
  split
  · split
    · split <;> exact ⟨rfl, rfl⟩
    · exact ⟨rfl, rfl⟩
  · exact ⟨rfl, rfl⟩

/-- A packet of a multicast injected, its FANSETs before its data. -/
theorem State.injectFan_injects (s : State) (x : Xfer) : ∃ p, s.Injects (s.injectFan x) p := by
  unfold State.injectFan
  split
  · exact ⟨_, (s.setXfer_injects _ _).addReg _ _⟩
  · exact ⟨_, (s.setXfer_injects _ _).addReg _ _⟩

/-- A transfer whose packet at its offset has been injected. -/
def Xfer.sentNext (x : Xfer) (now : Nat) : Xfer :=
  { x with next := x.next + x.lenAt x.next, reqs := x.reqs ++ [Req.sent x.next (x.lenAt x.next) now] }

theorem State.injectXfer_fan {s : State} {x : Xfer} (h : x.kind = kFanset) : s.injectXfer x = s.injectFan x := if_pos h

theorem State.injectXfer_other {s : State} {x : Xfer} (h : x.kind ≠ kFanset) :
    s.injectXfer x = (((s.setXfer (x.sentNext s.time)).injectPkt (x.packet x.next x.kind)).addReg regRmePacketsOut
      1).settlePosted (x.sentNext s.time) := if_neg h

theorem State.injectXfer_inject (s : State) (x : Xfer) : (s.injectXfer x).mem = s.mem ∧
    (s.injectXfer x).inject.length = s.inject.length + 1 := by
  by_cases h : x.kind = kFanset
  · obtain ⟨p, hp⟩ := s.injectFan_injects x
    rw [State.injectXfer_fan h]
    exact ⟨hp.mem, hp.length⟩
  · have hp := (s.setXfer_injects (x.sentNext s.time) (x.packet x.next x.kind)).addReg regRmePacketsOut 1
    obtain ⟨hinject, hmem⟩ := State.settlePosted_inject _ (x.sentNext s.time)
    rw [State.injectXfer_other h]
    exact ⟨hmem.trans hp.mem, (congrArg _ hinject).trans hp.length⟩

theorem State.injectXfer_getLast {s : State} {x : Xfer} (h : x.kind ≠ kFanset) : (s.injectXfer x).inject.getLast? =
    some ((s.setXfer (x.sentNext s.time)).stamped (x.packet x.next x.kind)) := by
  have hp := (s.setXfer_injects (x.sentNext s.time) (x.packet x.next x.kind)).addReg regRmePacketsOut 1
  rw [State.injectXfer_other h, (State.settlePosted_inject _ _).1]
  exact hp.getLast?

theorem exec_rmeInject {s : State} {q : Nat} {x : Xfer} (hturn : s.quiet.queueTurn = some q)
    (hx : s.quiet.nextXfer q = some x) : exec (.rmeInject q) s =
      .next { s.quiet.injectXfer x with rme := { (s.quiet.injectXfer x).rme with rr := q } } := by
  show execRmeInject q s = _
  rw [execRmeInject]
  exact attempt_of_some (by simp only [if_pos hturn, hx])

theorem exec_rmeInject_other {s : State} {q : Nat} (hturn : s.quiet.queueTurn ≠ some q) :
    exec (.rmeInject q) s = .next s.quiet := by
  show execRmeInject q s = _
  rw [execRmeInject, attempt]
  simp only [if_neg hturn, Option.getD_none]

/-! ### Timeouts of requests -/

section Timeout

variable {s : State} {txn off : Nat} {x : Xfer} {r : Req}

theorem exec_rmeReplyTimeout (hx : s.xfer? txn = some x)
    (hr : (x.reqs.find? fun r => r.offset == off && r.reply.isNone) = some r)
    (hdue : x.kind ≠ kFanset ∧ r.busyAt = none ∧ r.sentAt + s.rmeTimeout ≤ s.time ∧ s.stopped = false) :
    exec (.rmeReplyTimeout txn off) s = .next (if s.deviceValid then s.quiet.retryReq x r
      else s.quiet.lose x r.offset errUnreachable 2 0 x.dst (x.addr + r.offset)) := by
  have hx' : s.quiet.xfer? txn = some x := hx
  have hdue' : x.kind ≠ kFanset ∧ r.busyAt = none ∧ r.sentAt + s.quiet.rmeTimeout ≤ s.quiet.time ∧
      s.quiet.stopped = false := hdue
  show execRmeReplyTimeout txn off s = _
  rw [execRmeReplyTimeout]
  exact attempt_of_some (by simp only [hx', hr]; exact if_pos hdue')

/-- The request as it stands once it has been sent again after BUSY. -/
def Xfer.busySent (x : Xfer) (off now : Nat) : Xfer :=
  { x with reqs := x.reqs.map fun y => if y.offset = off then { y with sentAt := now, busyAt := none } else y }

theorem exec_busyResend {b : Nat} (hx : s.xfer? txn = some x) (hr : (x.reqs.find? fun r => r.offset == off) = some r)
    (hbusy : r.busyAt = some b) (hdue : b + 1000 ≤ s.time ∧ s.stopped = false ∧ s.deviceValid = true) :
    exec (.busyResend txn off) s = .next ((((s.quiet.setXfer (x.busySent off s.time)).injectPkt
      (x.packet off (if r.tries = 0 then x.kind else retryKind x.kind))).addReg regRmeBusy 1).addReg regRmePacketsOut 1) := by
  have hx' : s.quiet.xfer? txn = some x := hx
  have hdue' : b + 1000 ≤ s.quiet.time ∧ s.quiet.stopped = false ∧ s.quiet.deviceValid = true := hdue
  show execBusyResend txn off s = _
  rw [execBusyResend]
  exact attempt_of_some (by simp only [hx', hr, hbusy]; exact if_pos hdue')

end Timeout

theorem State.retryReq_again {s : State} {x : Xfer} {r : Req} (hordered : x.ordered = false) (htries : r.tries < s.rmeTries) :
    s.retryReq x r = s.resendReq x r :=
  if_neg (by simp [hordered, htries])

theorem State.retryReq_lost {s : State} {x : Xfer} {r : Req} (h : x.ordered = true ∨ s.rmeTries ≤ r.tries) :
    s.retryReq x r = s.lose x r.offset errRemoteTimeout 3 0 x.dst (x.addr + r.offset) := if_pos h

/-- A packet put into the queue moves no register but the count of its epoch. -/
theorem State.injectPkt_reg (s : State) (p : Pkt) {o : Nat} (h : ∀ e, o ≠ regNswEpochOut (e % 2)) :
    (s.injectPkt p).reg o = s.reg o := by
  rw [State.injectPkt_eq, State.countOut]
  split
  · exact State.reg_addReg_other _ _ _ _ (h _)
  · rfl

theorem State.injectPkt_rising {s : State} (h : Rising s.regs) (p : Pkt) : Rising (s.injectPkt p).regs := by
  rw [State.injectPkt_eq, State.countOut]
  split
  · exact State.setReg_rising _ _ _ h
  · exact h

theorem regRmeBusy_ne_epochOut (e : Nat) : regRmeBusy ≠ regNswEpochOut (e % 2) := by
  simp only [regRmeBusy, regNswEpochOut]
  omega

/-! ### Multicasts whose acknowledgements are missing (R357, R358) -/

/-- The multicast transfers of a task. -/
def State.fansOf (s : State) (q : Nat) : List Xfer := (s.xfersOf q).filter fun x => x.kind == kFanset

section Multicast

variable {s : State} {q : Nat} {x : Xfer} (hx : (s.fansOf q).find? (fun x => !x.dests.all (·.2.2)) = some x)
  (hall : ∀ y ∈ s.fansOf q, y.total ≤ y.next ∧ y.lastSent + s.rmeTimeout * (s.rmeTries + 1) ≤ s.time)
include hx hall

/-- The last packet of all was sent a full wait ago. -/
theorem State.fansOf_late : (s.fansOf q).foldl (fun a x => max a x.lastSent) 0 + s.rmeTimeout * (s.rmeTries + 1) ≤ s.time := by
  have hwait : s.rmeTimeout * (s.rmeTries + 1) ≤ s.time :=
    (Nat.le_add_left _ _).trans (hall x (List.mem_of_find?_eq_some hx)).2
  refine List.foldlRecOn (motive := fun a => a + s.rmeTimeout * (s.rmeTries + 1) ≤ s.time) _ _ (by omega)
    fun a ha y hy => ?_
  have hy := (hall y hy).2
  omega

/-- Every packet is out, and the last of them a full wait ago. -/
theorem State.fansOf_due : ((s.fansOf q).all fun y => decide (y.total ≤ y.next)) = true ∧
    (s.fansOf q).foldl (fun a x => max a x.lastSent) 0 + s.rmeTimeout * (s.rmeTries + 1) ≤ s.time :=
  ⟨List.all_eq_true.mpr fun y hy => decide_eq_true (hall y hy).1, State.fansOf_late hx hall⟩

theorem exec_mstoreTimeout_weights (hexch : x.exch = true) : exec (.mstoreTimeout q) s =
    .next (s.quiet.lose x 0 errMemberFailed 6 0 (((x.dests.find? fun d => !d.2.2).map (·.1)).getD 0) 0) := by
  show execMstoreTimeout q s = _
  rw [execMstoreTimeout]
  refine attempt_of_some ?_
  have hx' : ((s.quiet.xfersOf q).filter fun x => x.kind == kFanset).find? (fun x => !x.dests.all (·.2.2)) = some x := hx
  simp only [hx']
  exact (if_pos (State.fansOf_due hx hall)).trans (if_pos hexch)

theorem exec_mstoreTimeout_task {t : Task} (hexch : x.exch = false) (ht : s.task? q = some t) (hrun : t.phase = .running) :
    exec (.mstoreTimeout q) s = .next (s.quiet.endMstore t) := by
  have hx' : ((s.quiet.xfersOf q).filter fun x => x.kind == kFanset).find? (fun x => !x.dests.all (·.2.2)) = some x := hx
  have ht' : s.quiet.task? q = some t := ht
  show execMstoreTimeout q s = _
  rw [execMstoreTimeout]
  refine attempt_of_some ?_
  simp only [hx', ht', hexch, Bool.false_eq_true, if_false, if_pos hrun]
  exact if_pos (State.fansOf_due hx hall)

end Multicast

/-- Of destinations that have not all been reached, the first such one. -/
theorem find_unreached {ds : List (Nat × Nat × Bool)} (h : (!ds.all (·.2.2)) = true) :
    ∃ d ∈ ds, d.2.2 = false ∧ ((ds.find? fun d => !d.2.2).map (·.1)).getD 0 = d.1 := by
  cases hd : ds.find? fun d => !d.2.2 with
  | none =>
    have hall : ds.all (·.2.2) = true := List.all_eq_true.mpr fun d hmem => by
      simpa using List.find?_eq_none.mp hd d hmem
    rw [hall] at h
    cases h
  | some d => exact ⟨d, List.mem_of_find?_eq_some hd, by simpa using List.find?_some hd, rfl⟩

/-! ### RME_CTRL (R352, R364) -/

section Ctrl

variable {s : State} (hhalted : s.halted 12 = true) (v : Nat)
include hhalted

theorem State.writeRmeCtrl_refused
    (h : max 1 (getBits v 63 48) * 500 < (getBits v 31 28 + 1) * max 1 (getBits v 47 32)) :
    s.writeRmeCtrl v = s.setBit regRmeStatus 3 true := (State.whWrite_of_halted hhalted _).trans (if_pos h)

theorem State.writeRmeCtrl_taken
    (h : (getBits v 31 28 + 1) * max 1 (getBits v 47 32) ≤ max 1 (getBits v 63 48) * 500) :
    s.writeRmeCtrl v = s.setReg regRmeCtrl (v / 2 ^ 28 * 2 ^ 28 + v % 2) :=
  (State.whWrite_of_halted hhalted _).trans (if_neg (Nat.not_lt.mpr h))

end Ctrl

/-- The value that RME_CTRL keeps has the fields that were written. -/
theorem rmeCtrl_fields {v : Nat} (h : v < 2 ^ 64) : v / 2 ^ 28 * 2 ^ 28 + v % 2 < 2 ^ 64 ∧
    getBits (v / 2 ^ 28 * 2 ^ 28 + v % 2) 63 28 = getBits v 63 28 ∧ bitOf (v / 2 ^ 28 * 2 ^ 28 + v % 2) 0 = bitOf v 0 := by
  refine ⟨by omega, ?_, ?_⟩
  · simp only [getBits, Nat.shiftRight_eq_div_pow]
    omega
  · simp only [bitOf, getBits, Nat.shiftRight_zero]
    congr 1
    omega

/-- Settles O52: each clause is a branch of its row. -/
theorem transfersInjectRetryAndTimeOut : Obligations.TransfersInjectRetryAndTimeOut := by
  intro s hs
  have hrise : Rising s.quiet.regs := hs.regs.1
  refine ⟨fun q x hturn hx => ?inject, fun q hturn => exec_rmeInject_other hturn,
    fun txn off x r hx hstopped => ⟨fun hr hfan hbusy hdue => ⟨fun hvalid hordered htries => ?again,
      fun hvalid hspent => ?spent, fun hinvalid => ?cut⟩, fun hr hvalid b hbusy hdue => ?busy⟩,
    fun q x t hx hall => ⟨fun hexch ht hrun => exec_mstoreTimeout_task hx hall hexch ht hrun, fun hexch => ?weights⟩,
    fun v hready hhalted => ⟨fun hlong => ?refused, fun hshort => ?taken⟩⟩
  case inject =>
    obtain ⟨hmem, hlen⟩ := s.quiet.injectXfer_inject x
    refine ⟨_, exec_rmeInject hturn hx, rfl, hmem, rfl, hlen, fun hkind => ?_⟩
    show (s.quiet.injectXfer x).inject.getLast?.map _ = _
    rw [State.injectXfer_getLast hkind]
    rfl
  case again =>
    rw [exec_rmeReplyTimeout hx hr ⟨hfan, hbusy, hdue, hstopped⟩, if_pos hvalid, State.retryReq_again (s := s.quiet) hordered htries]
  case spent =>
    rw [exec_rmeReplyTimeout hx hr ⟨hfan, hbusy, hdue, hstopped⟩, if_pos hvalid, State.retryReq_lost (s := s.quiet) hspent]
  case cut => rw [exec_rmeReplyTimeout hx hr ⟨hfan, hbusy, hdue, hstopped⟩, if_neg (by simp [hinvalid])]
  case busy =>
    have hsent := ((s.quiet.setXfer_injects (x.busySent off s.time)
      (x.packet off (if r.tries = 0 then x.kind else retryKind x.kind))).addReg regRmeBusy 1).addReg regRmePacketsOut 1
    refine ⟨_, exec_busyResend hx hr hbusy ⟨hdue, hstopped, hvalid⟩, hsent.length, ?_, ?_, hsent.mem, hsent.tasks⟩
    · rw [hsent.getLast?]
      rfl
    · have hset : Rising (s.quiet.setXfer (x.busySent off s.time)).regs := hrise
      rw [State.reg_addReg_other _ _ _ _ (by decide), State.reg_addReg_same _ _ _ (State.injectPkt_rising hset _),
        State.injectPkt_reg _ _ regRmeBusy_ne_epochOut]
      rfl
  case weights =>
    obtain ⟨d, hmem, hmissing, hfirst⟩ := find_unreached (List.find?_some (p := fun x : Xfer => !x.dests.all (·.2.2)) hx)
    exact ⟨d, hmem, hmissing, hfirst ▸ exec_mstoreTimeout_weights hx hall hexch⟩
  case refused =>
    rw [exec_rmeCtrlWrite hready, State.writeRmeCtrl_refused (s := s.quiet) hhalted _ hlong]
    exact ⟨_, rfl, State.bit_setBit_same _ _ _ _ hrise (by decide),
      (State.OnlyRegs.quiet s _).setReg (List.mem_singleton.mpr rfl) (byteReg_of_fabric (by decide) (by decide)) _⟩
  case taken =>
    obtain ⟨hlt, hfld, hbit⟩ := rmeCtrl_fields v.isLt
    have hreg : (s.quiet.setReg regRmeCtrl (v.toNat / 2 ^ 28 * 2 ^ 28 + v.toNat % 2)).reg regRmeCtrl = _ :=
      State.reg_setReg_same _ _ _ hrise hlt
    rw [exec_rmeCtrlWrite hready, State.writeRmeCtrl_taken (s := s.quiet) hhalted _ hshort]
    refine ⟨_, rfl, ?_, ?_, (State.OnlyRegs.quiet s _).setReg (List.mem_singleton.mpr rfl)
      (byteReg_of_fabric (by decide) (by decide)) _⟩
    · rw [State.fld, hreg, hfld]
    · rw [State.bit, State.fld, hreg]
      exact hbit

end Sys2Proof.Machine
end

section
/-! Frames received, asked for again, and sent again (R296, R297, R300, R303). -/

namespace Sys2Proof.Machine

open Sys2Proof

/-! ### The registers of a port -/

theorem portPresent_lt {v : Variant} {p : Nat} (h : portPresent v p = true) : p < 24 :=
  of_decide_eq_true ((Bool.and_eq_true _ _).mp h).1

/-- The registers of a port lie in this order. -/
theorem portRegs_ordered (p : Nat) : regNswDrops < regFptPortStatus p ∧ regFptPortStatus p < regFptPortCtrl p ∧
    regFptPortCtrl p < regFptPortPeer p ∧ regFptPortPeer p < regFptFlight p ∧ regFptFlight p < regFptFecCorrected p ∧
    regFptFecCorrected p < regFptFecUncorrected p ∧ regFptFecUncorrected p < regFptRetries p ∧
    regFptRetries p < regFptDegradedEvents p ∧ regFptDegradedEvents p < regFptTagFails p ∧
    regFptTagFails p < regFptTrainings p := by
  simp only [regNswDrops, regFptPortStatus, regFptPortCtrl, regFptPortPeer, regFptFlight, regFptFecCorrected,
    regFptFecUncorrected, regFptRetries, regFptDegradedEvents, regFptTagFails, regFptTrainings]
  omega

theorem portRegs_low {p : Nat} (h : p < 24) : regFptTrainings p < 0xd00000 := by
  simp only [regFptTrainings]
  omega

theorem regNswEpochIn_lt (e : Nat) : regNswEpochIn (e % 2) < regNswDrops := by
  simp only [regNswEpochIn, regNswDrops]
  omega

theorem State.portUp_iff {s : State} {p : Nat} : s.portUp p = true ↔ portPresent s.variant p = true ∧ s.portState p = 3 := by
  simp [State.portUp]

/-! ### A retry is requested (R297, R299, R300) -/

/-- A port that discards frames until the one that it has asked for comes. -/
def Port.asked (x : Port) (now : Nat) : Port :=
  { x with discarding := true, sRetries := x.sRetries + 1
           retries := (x.retries.filter fun t => decide (now < t + 1000000)) ++ [now] }

@[simp] theorem Port.asked_rxSeq (x : Port) (now : Nat) : (x.asked now).rxSeq = x.rxSeq := rfl
@[simp] theorem Port.asked_discarding (x : Port) (now : Nat) : (x.asked now).discarding = true := rfl
@[simp] theorem Port.asked_inbuf (x : Port) (now : Nat) : (x.asked now).inbuf = x.inbuf := rfl

theorem Port.asked_retries {x : Port} (h : x.retries.length < 64) (now : Nat) : (x.asked now).retries.length ≤ 64 := by
  have hkept := List.length_filter_le (fun t => decide (now < t + 1000000)) x.retries
  simp only [Port.asked, List.length_append, List.length_cons, List.length_nil]
  omega

/-- The retry counted and noted. -/
def State.asks (s : State) (p : Nat) : State :=
  (s.markFabric.addReg (regFptRetries p) 1).modPort p fun x => x.asked s.time

/-- The second retry in a short time marks the port degraded. -/
def State.degraded (s : State) (p : Nat) : State :=
  if recent s.time 10000 (s.port p).retries = 2 then
    ((s.setBit (regFptPortStatus p) 1 true).addReg (regFptDegradedEvents p) 1).record
      { kind := 0x0A, scope := 0, action := 0, unit := unitWord (portDomain p) p
        detail := recent s.time 10000 (s.port p).retries }
  else s

theorem State.asks_port (s : State) (p : Nat) : (s.asks p).port p = (s.port p).asked s.time :=
  State.port_modPort _ p _ (s.port_num p)

theorem State.asks_rx (s : State) (p : Nat) : (s.asks p).rx = s.rx := rfl

theorem State.asks_reg (s : State) {p o : Nat} (h : o ≠ regFptRetries p) : (s.asks p).reg o = s.reg o := by
  rw [State.asks, State.modPort_reg, State.reg_addReg_other _ _ _ _ h]
  rfl

theorem State.degraded_ports (s : State) (p : Nat) : (s.degraded p).ports = s.ports := by
  unfold State.degraded
  split
  · exact State.record_ports _ _
  · rfl

theorem State.degraded_rx (s : State) (p : Nat) : (s.degraded p).rx = s.rx := by
  unfold State.degraded
  split
  · exact State.record_rx _ _
  · rfl

theorem State.degraded_reg (s : State) {p o : Nat} (hlow : o < 0xd00000) (hstatus : o ≠ regFptPortStatus p)
    (hevents : o ≠ regFptDegradedEvents p) : (s.degraded p).reg o = s.reg o := by
  unfold State.degraded
  split
  · rw [State.record_reg_low _ _ hlow, State.reg_addReg_other _ _ _ _ hevents, State.reg_setBit_other _ _ _ _ _ hstatus]
  · rfl

/-- With room among its retries a port asks, and stays up. -/
theorem State.askRetry_of_room {s : State} {p : Nat} (h : (s.port p).retries.length < 64) :
    s.askRetry p = ((s.asks p).degraded p).emit (.retryRequest p (s.port p).rxSeq) := by
  have hport := s.asks_port p
  have hroom := Port.asked_retries h s.time
  show (if 64 < ((s.asks p).port p).retries.length then ((s.asks p).degraded p).portDown p
    else ((s.asks p).degraded p).emit (.retryRequest p ((s.asks p).port p).rxSeq)) = _
  rw [hport, if_neg (Nat.not_lt.mpr hroom)]
  rfl

theorem State.emit_reg (s : State) (o : Out) (r : Nat) : (s.emit o).reg r = s.reg r := rfl

theorem State.emit_port (s : State) (o : Out) (p : Nat) : (s.emit o).port p = s.port p := rfl

theorem State.mem_emit_out (s : State) (o : Out) : o ∈ (s.emit o).out :=
  List.mem_append_right _ (List.mem_singleton_self o)

/-- The counter of tag failures is no register of a retry. -/
theorem regFptTagFails_apart {p : Nat} (hp : p < 24) : regFptTagFails p < 0xd00000 ∧
    regFptTagFails p ≠ regFptPortStatus p ∧ regFptTagFails p ≠ regFptDegradedEvents p ∧
    regFptTagFails p ≠ regFptRetries p := by
  obtain ⟨-, h1, h2, h3, h4, h5, h6, h7, h8, h9⟩ := portRegs_ordered p
  have hlow := portRegs_low hp
  omega

/-- From `s` to `t` port `p` has asked for the frame that it awaits. -/
structure State.Asks (p : Nat) (s t : State) : Prop where
  rxSeq : (t.port p).rxSeq = (s.port p).rxSeq
  discarding : (t.port p).discarding = true
  inbuf : (t.port p).inbuf = (s.port p).inbuf
  rx : t.rx = s.rx
  request : Out.retryRequest p (s.port p).rxSeq ∈ t.out
  tagFails : t.reg (regFptTagFails p) = s.reg (regFptTagFails p)

theorem State.askRetry_asks {s : State} {p : Nat} (hp : p < 24) (h : (s.port p).retries.length < 64) :
    s.Asks p (s.askRetry p) := by
  obtain ⟨hlow, hstatus, hevents, hretries⟩ := regFptTagFails_apart hp
  have hport : (((s.asks p).degraded p).emit (.retryRequest p (s.port p).rxSeq)).port p = (s.port p).asked s.time := by
    rw [State.emit_port, State.port_congr ((s.asks p).degraded_ports p), s.asks_port]
  rw [State.askRetry_of_room h]
  refine ⟨by rw [hport, Port.asked_rxSeq], by rw [hport, Port.asked_discarding], by rw [hport, Port.asked_inbuf], ?_, State.mem_emit_out _ _, ?_⟩
  · rw [State.emit_rx, State.degraded_rx, State.asks_rx]
  · rw [State.emit_reg, (s.asks p).degraded_reg hlow hstatus hevents, s.asks_reg hretries]

/-! ### Counts of the error correction -/

/-- The errors that a frame's codewords show, counted. -/
def State.fecCounted (s : State) (p : Nat) (f : Frame) : State :=
  ((s.addReg (regFptFecCorrected p) f.corrected).addReg (regFptFecUncorrected p) f.uncorrectable).modPort p
    fun x => { x with sCorrected := x.sCorrected + f.corrected }

section Fec

variable (s : State) (p : Nat) (f : Frame)

theorem State.fecCounted_port : (s.fecCounted p f).port p =
    { s.port p with sCorrected := (s.port p).sCorrected + f.corrected } :=
  State.port_modPort _ p _ (s.port_num p)

theorem State.fecCounted_reg {o : Nat} (h1 : o ≠ regFptFecCorrected p) (h2 : o ≠ regFptFecUncorrected p) :
    (s.fecCounted p f).reg o = s.reg o := by
  rw [State.fecCounted, State.modPort_reg, State.reg_addReg_other _ _ _ _ h2, State.reg_addReg_other _ _ _ _ h1]

theorem State.fecCounted_portCrypt : (s.fecCounted p f).portCrypt p = s.portCrypt p := by
  obtain ⟨-, h1, h2, h3, h4, h5, h6, h7, h8, h9⟩ := portRegs_ordered p
  exact State.bit_congr (s.fecCounted_reg p f (by omega) (by omega)) 2

theorem State.fecCounted_rising {s : State} (h : Rising s.regs) : Rising (s.fecCounted p f).regs :=
  State.setReg_rising _ _ _ (State.setReg_rising _ _ _ h)

end Fec

section Receive

variable {s : State} {p : Nat} {f : Frame}

theorem State.receiveFrame_plain (h : s.portCrypt p = false) : s.receiveFrame p f =
    if frameWhole f 2560 = false then (s.fecCounted p f).frameFails p f
    else (s.fecCounted p f).frameGood p f f.stream := by
  have hplain : ¬ (s.fecCounted p f).portCrypt p = true := by simp [State.fecCounted_portCrypt, h]
  exact if_neg hplain

/-- A port whose key has opened one more frame. -/
def Port.countOpened (x : Port) (k : LinkKeys) : Port := { x with keys := some { k with rxCount := k.rxCount + 1 } }

theorem Port.receiveKeys_of_none {x : Port} (h : x.nextKeys = none) (idx : Bool) : x.receiveKeys idx = x := by
  unfold Port.receiveKeys
  split
  · next n _ hn => exact absurd (h.symm.trans hn) (by simp)
  · rfl

/-- On an encrypting port a whole frame whose tag fails is a failure of its own (R303). -/
theorem State.receiveFrame_tag {k : LinkKeys} (hcrypt : s.portCrypt p = true) (hkey : (s.port p).keys = some k)
    (hnext : (s.port p).nextKeys = none) (hwhole : frameWhole f 2544 = true)
    (htag : gcmTag k.rxKey (frameNonce k.rxSalt k.rxCount) f.header f.stream ≠ f.tag) :
    s.receiveFrame p f = ((s.fecCounted p f).setPort (((s.fecCounted p f).port p).countOpened k)).tagFails p := by
  have hport := s.fecCounted_port p f
  have hkeys : ((s.fecCounted p f).port p).keys = some k := by rw [hport, ← hkey]
  have hsame : ((s.fecCounted p f).port p).receiveKeys (frameKey f) = (s.fecCounted p f).port p :=
    Port.receiveKeys_of_none (by rw [hport, ← hnext]) _
  have hcrypt' : (s.fecCounted p f).portCrypt p = true := by rw [State.fecCounted_portCrypt, hcrypt]
  have hfine : ¬ frameWhole f 2544 = false := by simp [hwhole]
  rw [State.fecCounted] at hcrypt' hsame hkeys
  simp only [State.receiveFrame, hcrypt', if_true, hsame, hkeys, if_neg hfine, if_pos htag]
  rfl

/-! ### A tag that fails (R303) -/

/-- Tag failures of the last second, this one with them. -/
def State.tagTimes (s : State) (p : Nat) : List Nat :=
  ((s.port p).tagFails.filter fun t => decide (s.time < t + secondNs)) ++ [s.time]

/-- The record of a tag that fails. -/
def State.tagRecord (s : State) (p : Nat) : ErrRec where
  kind := 0x0C
  scope := 0
  action := 0
  unit := unitWord (portDomain p) p
  detail := s.fld (regFptPortPeer p) 13 0

/-- The failure counted, recorded and noted. -/
def State.tagNoted (s : State) (p : Nat) : State :=
  ((s.addReg (regFptTagFails p) 1).record (s.tagRecord p)).modPort p fun x => { x with tagFails := s.tagTimes p }

theorem State.tagFails_of_few (h : (s.port p).tagFails.length < 2) : s.tagFails p = (s.tagNoted p).askRetry p := by
  have hkept := List.length_filter_le (fun t => decide (s.time < t + secondNs)) (s.port p).tagFails
  have hfew : (s.tagTimes p).length < 3 := by
    simp only [State.tagTimes, List.length_append, List.length_cons, List.length_nil]
    omega
  exact if_neg (Nat.not_le.mpr hfew)

theorem State.tagNoted_port (s : State) (p : Nat) : (s.tagNoted p).port p = { s.port p with tagFails := s.tagTimes p } := by
  have hports : ((s.addReg (regFptTagFails p) 1).record (s.tagRecord p)).port p = s.port p :=
    State.port_congr (State.record_ports _ _) p
  rw [State.tagNoted, State.port_modPort _ _ _ (State.port_num _ p), hports]

theorem State.tagNoted_rx (s : State) (p : Nat) : (s.tagNoted p).rx = s.rx := State.record_rx (s.addReg (regFptTagFails p) 1) (s.tagRecord p)

theorem State.tagNoted_reg (hp : p < 24) (h : Rising s.regs) :
    (s.tagNoted p).reg (regFptTagFails p) = (s.reg (regFptTagFails p) + 1) % 2 ^ 64 := by
  obtain ⟨-, -, -, -, -, -, -, -, -, hlast⟩ := portRegs_ordered p
  rw [State.tagNoted, State.modPort_reg, State.record_reg_low _ _ (hlast.trans (portRegs_low hp)),
    State.reg_addReg_same _ _ _ h]

end Receive

end Sys2Proof.Machine
end

section
/-! A frame taken in order, and frames sent again (R297, R300, R306, R310). -/

namespace Sys2Proof.Machine

open Sys2Proof

/-! ### What the packets of a frame leave alone -/

/-- From `s` to `t` port `p` has entered packets in its books: what it awaits, what was delivered, and the tasks stay. -/
structure State.Books (p : Nat) (s t : State) : Prop where
  rx : t.rx = s.rx
  tasks : t.tasks = s.tasks
  status : t.reg (regFptPortStatus p) = s.reg (regFptPortStatus p)
  rxSeq : (t.port p).rxSeq = (s.port p).rxSeq
  discarding : (t.port p).discarding = (s.port p).discarding

namespace State.Books

variable {p : Nat} {s t u : State}

theorem refl (p : Nat) (s : State) : s.Books p s := ⟨rfl, rfl, rfl, rfl, rfl⟩

theorem trans (h : s.Books p t) (g : t.Books p u) : s.Books p u :=
  ⟨g.rx.trans h.rx, g.tasks.trans h.tasks, g.status.trans h.status, g.rxSeq.trans h.rxSeq,
    g.discarding.trans h.discarding⟩

theorem andThen (h : s.Books p t) (g : s.Books p t → t.Books p u) : s.Books p u := h.trans (g h)

theorem portCrypt (h : s.Books p t) : t.portCrypt p = s.portCrypt p := State.bit_congr h.status 2

theorem addReg (h : s.Books p t) {o : Nat} (ho : o < regFptPortStatus p) (n : Nat) : s.Books p (t.addReg o n) :=
  ⟨h.rx, h.tasks, (t.reg_addReg_other o n _ (Nat.ne_of_gt ho)).trans h.status, h.rxSeq, h.discarding⟩

theorem modPort (h : s.Books p t) {f : Port → Port} (hnum : ∀ x, (f x).num = x.num) (hseq : ∀ x, (f x).rxSeq = x.rxSeq)
    (hdisc : ∀ x, (f x).discarding = x.discarding) : s.Books p (t.modPort p f) := by
  have hport : (t.modPort p f).port p = f (t.port p) := State.port_modPort t p f ((hnum _).trans (t.port_num p))
  exact ⟨h.rx, h.tasks, h.status, by rw [hport, hseq, h.rxSeq], by rw [hport, hdisc, h.discarding]⟩

theorem record (h : s.Books p t) (hp : p < 24) (r : ErrRec) : s.Books p (t.record r) := by
  have hport : (t.record r).port p = t.port p := State.port_congr (t.record_ports r) p
  have hlow : regFptPortStatus p < 0xd00000 := by
    simp only [regFptPortStatus]
    omega
  exact ⟨(t.record_rx r).trans h.rx, (t.record_tasks r).trans h.tasks, (t.record_reg_low r hlow).trans h.status,
    by rw [hport, h.rxSeq], by rw [hport, h.discarding]⟩

end State.Books

theorem State.Sends.books {p : Nat} {s t : State} (h : s.Sends p t) : s.Books p t :=
  ⟨h.rx, h.tasks, h.reg _, h.rxSeq, h.discarding⟩

theorem State.countIn_books {p : Nat} (s : State) (e n : Nat) : s.Books p (s.countIn e n) := by
  obtain ⟨hdrops, -⟩ := portRegs_ordered p
  unfold State.countIn
  split
  · exact (State.Books.refl p s).addReg ((regNswEpochIn_lt e).trans hdrops) n
  · exact .refl p s

/-- The front packet of a stream taken off it. -/
def Port.dropPacket (x : Port) (n : Nat) : Port := { x with partialBytes := x.partialBytes.drop (32 + n) }

/-- The packets of a plain port's stream are entered in its books. -/
theorem State.takePackets_books {s : State} {p : Nat} (hp : p < 24) (hplain : s.portCrypt p = false) (f : Nat) :
    s.Books p (s.takePackets p f) := by
  induction f generalizing s with
  | zero => exact .refl p s
  | succ f ih =>
    have hdrops : regNswDrops < regFptPortStatus p := (portRegs_ordered p).1
    unfold State.takePackets
    dsimp only
    split
    · exact .refl p s
    · refine State.Books.andThen ?_ fun h => ih (h.portCrypt.trans hplain)
      have hcut := (State.Books.refl p s).modPort (f := fun x => x.dropPacket (headerLen ((s.port p).partialBytes.take 32)))
        (fun _ => rfl) (fun _ => rfl) (fun _ => rfl)
      split
      · split
        · split
          · next hkey => exact absurd (hcut.portCrypt.symm.trans hkey.1) (by simp [hplain])
          · exact hcut.modPort (fun _ => rfl) (fun _ => rfl) (fun _ => rfl)
        · exact hcut.modPort (fun _ => rfl) (fun _ => rfl) (fun _ => rfl)
      · exact (((hcut.addReg hdrops 1).trans (State.countIn_books _ _ _)).record hp _).modPort (fun _ => rfl)
          (fun _ => rfl) (fun _ => rfl)


/-! ### A frame taken in order (R297, R306) -/

/-- A port that has taken the frame that it awaited: ACK, credit and packet stream. -/
def Port.takes (x : Port) (f : Frame) (stream : List Byte) : Port :=
  { ((x.acknowledge (frameAck f)).returnCredit (frameVc f) (frameCells f)) with
    rxSeq := (x.rxSeq + 1) % 4096, discarding := false, partialBytes := x.partialBytes ++ stream }

theorem Port.acknowledge_num (x : Port) (ack : Nat) : (x.acknowledge ack).num = x.num := by
  unfold Port.acknowledge
  split <;> rfl

theorem Port.takes_num (x : Port) (f : Frame) (stream : List Byte) : (x.takes f stream).num = x.num :=
  x.acknowledge_num (frameAck f)

theorem State.takeFrame_books {s : State} {p : Nat} (hp : p < 24) (hplain : s.portCrypt p = false) (f : Frame)
    (stream : List Byte) : (s.modPort p fun x => x.takes f stream).Books p (s.takeFrame p f stream) := by
  have hpackets := State.takePackets_books (s := s.modPort p fun x => x.takes f stream) hp hplain
    (((s.modPort p fun x => x.takes f stream).port p).partialBytes.length / 32 + 1)
  have hsent := hpackets.trans (State.sendFrames_sends _ p false).books
  unfold State.takeFrame
  dsimp only
  split
  · exact hsent
  · exact hsent.trans (State.nextFrame_sends _ p).books

section Good

variable {s : State} {p : Nat} {f : Frame}

/-- The frame awaited moves the number on and is entered in the books. -/
theorem State.frameGood_awaited (hp : p < 24) (hplain : s.portCrypt p = false) (h : frameSeq f = (s.port p).rxSeq)
    (stream : List Byte) : ((s.frameGood p f stream).port p).rxSeq = ((s.port p).rxSeq + 1) % 4096 ∧
      ((s.frameGood p f stream).port p).discarding = false ∧ (s.frameGood p f stream).rx = s.rx ∧
      (s.frameGood p f stream).tasks = s.tasks := by
  have hbooks := State.takeFrame_books hp hplain f stream
  have hport : (s.modPort p fun x => x.takes f stream).port p = (s.port p).takes f stream :=
    State.port_modPort s p _ ((Port.takes_num _ f stream).trans (s.port_num p))
  have htaken : s.frameGood p f stream = s.takeFrame p f stream := if_pos h
  rw [htaken, hbooks.rxSeq, hbooks.discarding, hbooks.rx, hbooks.tasks, hport]
  exact ⟨rfl, rfl, rfl, rfl⟩

theorem State.frameFails_awaiting (h : (s.port p).discarding = false) : s.frameFails p f = s.askRetry p :=
  if_neg (by simp [h])

end Good

/-! ### A tag that fails (R303) -/

/-- A state whose port `p` has opened a frame of its key. -/
def State.opened (s : State) (p : Nat) (f : Frame) (k : LinkKeys) : State :=
  (s.fecCounted p f).setPort (((s.fecCounted p f).port p).countOpened k)

section Tag

variable {s : State} {p : Nat} {f : Frame} {k : LinkKeys}

theorem State.opened_port (s : State) (p : Nat) (f : Frame) (k : LinkKeys) :
    (s.opened p f k).port p = ((s.fecCounted p f).port p).countOpened k :=
  State.port_setPort (x := ((s.fecCounted p f).port p).countOpened k) (State.port_num _ p)

/-- The failure is counted, and the frame asked for again. -/
theorem State.receiveFrame_tag_asks (hp : p < 24) (h : Rising s.regs) (hfew : (s.port p).tagFails.length < 2)
    (hroom : (s.port p).retries.length < 64) :
    ((s.opened p f k).tagFails p).reg (regFptTagFails p) = (s.reg (regFptTagFails p) + 1) % 2 ^ 64 ∧
      (((s.opened p f k).tagFails p).port p).rxSeq = (s.port p).rxSeq ∧
      (((s.opened p f k).tagFails p).port p).discarding = true ∧
      (((s.opened p f k).tagFails p).port p).inbuf = (s.port p).inbuf ∧ ((s.opened p f k).tagFails p).rx = s.rx ∧
      Out.retryRequest p (s.port p).rxSeq ∈ ((s.opened p f k).tagFails p).out := by
  have hport : (s.opened p f k).port p =
      ({ s.port p with sCorrected := (s.port p).sCorrected + f.corrected } : Port).countOpened k := by
    rw [State.opened_port, State.fecCounted_port]
  have hfew' : ((s.opened p f k).port p).tagFails.length < 2 := by rw [hport]; exact hfew
  have hnoted := (s.opened p f k).tagNoted_port p
  have hroom' : (((s.opened p f k).tagNoted p).port p).retries.length < 64 := by rw [hnoted, hport]; exact hroom
  have hasks := State.askRetry_asks hp hroom'
  have hrise : Rising (s.opened p f k).regs := State.fecCounted_rising p f h
  have hcount : (s.opened p f k).reg (regFptTagFails p) = s.reg (regFptTagFails p) := by
    obtain ⟨-, -, -, -, -, h5, h6, h7, h8, -⟩ := portRegs_ordered p
    exact (State.setPort_reg _ _ _).trans (s.fecCounted_reg p f (by omega) (by omega))
  rw [State.tagFails_of_few hfew']
  refine ⟨?_, ?_, hasks.discarding, ?_, ?_, ?_⟩
  · rw [hasks.tagFails, State.tagNoted_reg hp hrise, hcount]
  · rw [hasks.rxSeq, hnoted, hport]; rfl
  · rw [hasks.inbuf, hnoted, hport]; rfl
  · rw [hasks.rx, State.tagNoted_rx]; rfl
  · have hrequest := hasks.request
    rw [hnoted, hport] at hrequest
    exact hrequest

end Tag

/-! ### Frames sent again (R297, R300) -/

/-- A frame as it leaves a port without keys. -/
def Port.plainFrame (x : Port) (fseq credit : Nat) (stream : List Byte) : Frame :=
  let hdr := leBytes 2 (fseq * 16 + b2n x.keyIdx * 8) ++ leBytes 2 ((x.rxSeq + 4095) % 4096 * 16) ++ leBytes 2 credit
  ⟨0, 0, hdr, BitVec.ofNat 32 (crc32 (hdr ++ stream)), [], stream⟩

theorem State.makeFrame_frame {s : State} {p : Nat} (h : s.frameKeys p = none) (fseq credit : Nat) (stream : List Byte) :
    (s.makeFrame p fseq credit stream).2 = (s.port p).plainFrame fseq credit stream := by
  rw [State.frameKeys] at h
  simp only [State.makeFrame, h, Port.plainFrame]

theorem State.resendFrame_of_may {s : State} {p : Nat} (h : s.mayTransmit p = true) (r : Nat × Nat × List Byte × Nat) :
    s.resendFrame p r = (s.makeFrame p r.1 r.2.1 r.2.2.1).1.emit (.frame p (s.makeFrame p r.1 r.2.1 r.2.2.1).2) := if_pos h

theorem State.frameKeys_of_plain {s : State} {p : Nat} (h : s.portCrypt p = false) : s.frameKeys p = none :=
  if_neg (by simp [h])

theorem State.resendFrame_of_plain {s : State} {p : Nat} (h : s.frameKeys p = none) (r : Nat × Nat × List Byte × Nat) :
    s.resendFrame p r = s.emit (.frame p ((s.port p).plainFrame r.1 r.2.1 r.2.2.1)) := by
  have hmay : s.mayTransmit p = true := by
    rw [State.frameKeys] at h
    simp only [State.mayTransmit, h]
  rw [State.resendFrame_of_may hmay, State.makeFrame_of_plain h, State.makeFrame_frame h]

/-- Without keys every frame of a list leaves as it stands, in the list's order. -/
theorem State.resendAll_out {s : State} {p : Nat} (h : s.frameKeys p = none) (l : List (Nat × Nat × List Byte × Nat)) :
    (l.foldl (fun a r => a.resendFrame p r) s).out =
      s.out ++ l.map fun r => .frame p ((s.port p).plainFrame r.1 r.2.1 r.2.2.1) := by
  induction l generalizing s with
  | nil => simp
  | cons r l ih =>
    have hnext : (s.emit (.frame p ((s.port p).plainFrame r.1 r.2.1 r.2.2.1))).frameKeys p = none := h
    rw [List.foldl_cons, State.resendFrame_of_plain h, ih hnext, State.emit_port]
    simp [State.emit]

theorem State.resendFrame_retry (s : State) (p : Nat) (r : Nat × Nat × List Byte × Nat) :
    ((s.resendFrame p r).port p).retry = (s.port p).retry := by
  unfold State.resendFrame
  split
  · exact s.makeFrame_retry p _ _ _
  · rfl

theorem State.resendAll_retry (s : State) (p : Nat) (l : List (Nat × Nat × List Byte × Nat)) :
    ((l.foldl (fun a r => a.resendFrame p r) s).port p).retry = (s.port p).retry :=
  List.foldlRecOn (motive := fun t : State => (t.port p).retry = (s.port p).retry) l _ rfl
    fun t ht r _ => (t.resendFrame_retry p r).trans ht

/-- A frame of the retry buffer with one more resend counted. -/
def resentOnce (r : Nat × Nat × List Byte × Nat) : Nat × Nat × List Byte × Nat := (r.1, r.2.1, r.2.2.1, r.2.2.2 + 1)

/-- A port with another retry buffer. -/
def Port.withRetry (x : Port) (l : List (Nat × Nat × List Byte × Nat)) : Port := { x with retry := l }

theorem Port.withRetry_plainFrame (x : Port) (l : List (Nat × Nat × List Byte × Nat)) (fseq credit : Nat)
    (stream : List Byte) : (x.withRetry l).plainFrame fseq credit stream = x.plainFrame fseq credit stream := rfl

/-- A port about to send its frames from one on again. -/
def State.resending (s : State) (p i : Nat) : State :=
  (s.modPort p fun x => x.withRetry ((s.port p).retry.take i ++ ((s.port p).retry.drop i).map resentOnce)).markFabric

section Resend

variable {s : State} {p fseq i : Nat} (hup : s.portUp p = true)
  (hi : ((s.port p).retry.findIdx? fun r => r.1 == fseq) = some i)
include hup hi

theorem exec_retryRequest_of_spent (h : ∃ r ∈ (s.port p).retry.drop i, 4 ≤ r.2.2.2) :
    exec (.retryRequest p fseq) s = .next (s.quiet.portDown p) := by
  have hspent : ((s.port p).retry.drop i).any (fun r => decide (4 ≤ r.2.2.2)) = true := by simpa using h
  show execRetryRequest p fseq s = _
  rw [execRetryRequest]
  refine attempt_of_some ((if_pos hup).trans ?_)
  have hi' : ((s.quiet.port p).retry.findIdx? fun r => r.1 == fseq) = some i := hi
  simp only [State.resendFrom, hi']
  exact if_pos hspent

theorem exec_retryRequest_of_fresh (h : ∀ r ∈ (s.port p).retry.drop i, r.2.2.2 < 4) :
    exec (.retryRequest p fseq) s = .next ((((s.port p).retry.drop i).map resentOnce).foldl
      (fun a r => a.resendFrame p r) (s.quiet.resending p i)) := by
  have hfresh : ¬ ((s.port p).retry.drop i).any (fun r => decide (4 ≤ r.2.2.2)) = true := by simpa using h
  show execRetryRequest p fseq s = _
  rw [execRetryRequest]
  refine attempt_of_some ((if_pos hup).trans ?_)
  have hi' : ((s.quiet.port p).retry.findIdx? fun r => r.1 == fseq) = some i := hi
  simp only [State.resendFrom, hi']
  exact if_neg hfresh

end Resend

theorem State.resending_port (s : State) (p i : Nat) : (s.resending p i).port p =
    (s.port p).withRetry ((s.port p).retry.take i ++ ((s.port p).retry.drop i).map resentOnce) :=
  State.port_modPort s p (fun x => x.withRetry _) (s.port_num p)

theorem State.resending_out (s : State) (p i : Nat) : (s.resending p i).out = s.out := rfl
theorem State.resending_portCrypt (s : State) (p i : Nat) : (s.resending p i).portCrypt p = s.portCrypt p := rfl

theorem exec_frameReceive {s : State} {p : Nat} (hup : s.portUp p = true) (f : Frame) :
    exec (.frameReceive p f) s = .next (s.quiet.receiveFrame p f) := by
  have hup' : s.quiet.portUp p = true := hup
  show execFrameReceive p f s = _
  rw [execFrameReceive]
  exact attempt_of_some (if_pos hup')

/-- Settles O48: a frame received is a frame failed, a frame taken or a tag failed, and a retry sends the buffer's frames
from one on. -/
theorem framesAreTakenInOrderOrRetried : Obligations.FramesAreTakenInOrderOrRetried := by
  intro s p f hs hup
  have hrise : Rising s.quiet.regs := hs.regs.1
  have hp : p < 24 := portPresent_lt (State.portUp_iff.mp hup).1
  have hx := exec_frameReceive hup f
  have hfec := s.quiet.fecCounted_port p f
  refine ⟨hx, fun hplain hwhole hawait hroom => ?fails, fun hplain hwhole hseq => ?taken,
    fun k hcrypt hkey hnext hwhole htag hfew hroom => ?tag, fun fseq i hi => ⟨fun hfresh => ?again, fun hspent => ?spent⟩⟩
  case fails =>
    have hawait' : ((s.quiet.fecCounted p f).port p).discarding = false := by rw [hfec]; exact hawait
    have hroom' : ((s.quiet.fecCounted p f).port p).retries.length < 64 := by rw [hfec]; exact hroom
    have hasks := State.askRetry_asks hp hroom'
    rw [State.receiveFrame_plain (s := s.quiet) hplain, if_pos hwhole, State.frameFails_awaiting hawait'] at hx
    refine ⟨_, hx, ?_, hasks.discarding, ?_, hasks.rx, ?_⟩
    · rw [hasks.rxSeq, hfec]; rfl
    · rw [hasks.inbuf, hfec]; rfl
    · have hrequest := hasks.request
      rw [hfec] at hrequest
      exact hrequest
  case taken =>
    have hplain' : (s.quiet.fecCounted p f).portCrypt p = false := (State.fecCounted_portCrypt _ p f).trans hplain
    have hseq' : frameSeq f = ((s.quiet.fecCounted p f).port p).rxSeq := by rw [hfec]; exact hseq
    obtain ⟨hnext, hdisc, hrx, htasks⟩ := State.frameGood_awaited hp hplain' hseq' f.stream
    rw [State.receiveFrame_plain (s := s.quiet) hplain, if_neg (by simp [hwhole])] at hx
    refine ⟨_, hx, ?_, hdisc, hrx, htasks⟩
    rw [hnext, hfec]
    rfl
  case tag =>
    obtain ⟨hcount, hseq, hdisc, hinbuf, hrx, hrequest⟩ := State.receiveFrame_tag_asks (s := s.quiet) (f := f) (k := k) hp hrise
      hfew hroom
    rw [State.receiveFrame_tag (s := s.quiet) hcrypt hkey hnext hwhole htag] at hx
    exact ⟨_, hx, hcount, hseq, hdisc, hinbuf, hrx, hrequest⟩
  case again =>
    refine ⟨_, exec_retryRequest_of_fresh hup hi hfresh, ?_, fun hplain => ?_, ?_⟩
    · rw [State.resendAll_retry, State.resending_port]
      rfl
    · have hkeys : (s.quiet.resending p i).frameKeys p = none :=
        State.frameKeys_of_plain ((State.resending_portCrypt _ p i).trans hplain)
      have hsame : s.frameKeys p = none := State.frameKeys_of_plain hplain
      rw [State.resendAll_out hkeys, State.resending_out, State.resending_port, List.map_map]
      exact List.map_congr_left fun r _ => by rw [State.makeFrame_frame hsame, Function.comp, Port.withRetry_plainFrame]; rfl
    · exact (State.Sends.foldl (fun z r => z.resendFrame_sends p r) _ _).regs
  case spent => exact exec_retryRequest_of_spent hup hi hspent

end Sys2Proof.Machine
end

section
/-! Ports that train, agree keys, come UP and go down (R293 to R304, R331, R486 to R488). -/

namespace Sys2Proof.Machine

open Sys2Proof

/-! ### Fields of a port's status -/

theorem testBit_getBits (v hi lo j : Nat) : (getBits v hi lo).testBit j = (decide (j < hi + 1 - lo) && v.testBit (lo + j)) := by
  rw [getBits, Nat.testBit_mod_two_pow, Nat.testBit_shiftRight]

/-- A bit set outside a field leaves the field. -/
theorem State.fld_setBit_other {s : State} {off hi lo i : Nat} (b : Bool) (h : Rising s.regs) (hi64 : i < 64)
    (hout : i < lo ∨ hi < i) : (s.setBit off i b).fld off hi lo = s.fld off hi lo := by
  refine Nat.eq_of_testBit_eq fun j => ?_
  rw [State.fld, State.fld, testBit_getBits, testBit_getBits]
  by_cases hj : j < hi + 1 - lo
  · have hbit := s.bit_setBit_other off i (lo + j) b h hi64 (by omega)
    rw [State.bit_eq_testBit, State.bit_eq_testBit] at hbit
    rw [hbit]
  · simp [hj]

theorem State.fld_congr {s t : State} {o : Nat} (h : t.reg o = s.reg o) (hi lo : Nat) : t.fld o hi lo = s.fld o hi lo := by
  rw [State.fld, State.fld, h]

theorem State.portState_setPortState {s : State} (h : Rising s.regs) (p : Nat) {v : Nat} (hv : v < 16) :
    (s.setPortState p v).portState p = v :=
  (s.fld_setFld_same _ 15 12 v h (by decide) (by decide)).trans (Nat.mod_eq_of_lt hv)

theorem State.portState_congr {s t : State} {p : Nat} (h : t.reg (regFptPortStatus p) = s.reg (regFptPortStatus p)) :
    t.portState p = s.portState p := State.fld_congr h 15 12

theorem State.portCrypt_setPortState {s : State} (h : Rising s.regs) (p v : Nat) :
    (s.setPortState p v).portCrypt p = s.portCrypt p :=
  s.bit_setFld_other _ 15 12 v 2 h (by decide) (by decide) (by decide)

theorem State.setPortState_rising {s : State} (h : Rising s.regs) (p v : Nat) : Rising (s.setPortState p v).regs :=
  State.setReg_rising _ _ _ h

/-! ### A port goes down -/

theorem regFptPortStatus_lt_secPort {p : Nat} (h : p < 24) (q : Nat) : regFptPortStatus p < regSecPortPeer q ∧
    regFptPortPeer p < regSecPortPeer q ∧ regFptPortCtrl p < regSecPortPeer q ∧ regSecPortPeer q < regSecPortPeerHi q := by
  simp only [regFptPortStatus, regFptPortPeer, regFptPortCtrl, regSecPortPeer, regSecPortPeerHi]
  omega

theorem State.setPortPeer_reg (s : State) (p v : Nat) {o : Nat} (h1 : o ≠ regSecPortPeer p) (h2 : o ≠ regSecPortPeerHi p) :
    (s.setPortPeer p v).reg o = s.reg o := by
  rw [State.setPortPeer, State.reg_setReg_other _ _ _ _ h2, State.reg_setReg_other _ _ _ _ h1]

theorem State.setPortPeer_rising {s : State} (h : Rising s.regs) (p v : Nat) : Rising (s.setPortPeer p v).regs :=
  State.setReg_rising _ _ _ (State.setReg_rising _ _ _ h)

theorem State.portOff_reg (s : State) (p : Nat) {o : Nat} (h1 : o ≠ regFptPortStatus p) (h2 : o ≠ regFptPortPeer p)
    (h3 : o ≠ regSecPortPeer p) (h4 : o ≠ regSecPortPeerHi p) : (s.portOff p).reg o = s.reg o := by
  rw [State.portOff, State.modPort_reg, State.setPortPeer_reg _ _ _ h3 h4, State.reg_setBit_other _ _ _ _ _ h2,
    State.reg_setBit_other _ _ _ _ _ h1]
  exact State.reg_setFld_other _ _ _ _ _ _ h1

theorem State.portOff_portState {s : State} (h : Rising s.regs) {p : Nat} (hp : p < 24) : (s.portOff p).portState p = 0 := by
  obtain ⟨h1, -, -, h4⟩ := regFptPortStatus_lt_secPort hp p
  obtain ⟨-, h5, h6, -⟩ := portRegs_ordered p
  have hpeer : (s.portOff p).reg (regFptPortStatus p) =
      ((s.setPortState p 0).setBit (regFptPortStatus p) 2 false).reg (regFptPortStatus p) := by
    rw [State.portOff, State.modPort_reg, State.setPortPeer_reg _ _ _ (by omega) (by omega),
      State.reg_setBit_other _ _ _ _ _ (by omega)]
  rw [State.portState_congr hpeer]
  exact (State.fld_setBit_other false (State.setPortState_rising h p 0) (by decide) (by decide)).trans
    (State.portState_setPortState h p (by decide))

/-! ### A port comes UP (R331) -/

/-- A port that is UP, before what it has to send again. -/
def State.up (s : State) (p : Nat) : State :=
  ((s.setPortState p 3).addReg (regFptTrainings p) 1).modPort p fun x =>
    { x with upSince := some s.time, wasUp := true, discarding := false }

theorem State.portComesUp_sends (s : State) (p : Nat) : (s.up p).Sends p (s.portComesUp p) :=
  State.Sends.foldl (fun z r => z.resendFrame_sends p r) _ _

/-- From `s` to `t` port `p` has come UP. -/
structure State.ComesUp (p : Nat) (s t : State) : Prop where
  state : t.portState p = 3
  crypt : t.portCrypt p = s.portCrypt p
  trainings : t.reg (regFptTrainings p) = (s.reg (regFptTrainings p) + 1) % 2 ^ 64
  reg : ∀ o, o ≠ regFptPortStatus p → o ≠ regFptTrainings p → t.reg o = s.reg o
  keyed : (t.port p).keys.isSome = (s.port p).keys.isSome
  out : s.out <+: t.out
  mem : t.mem = s.mem
  tasks : t.tasks = s.tasks

theorem State.portComesUp_comesUp {s : State} (h : Rising s.regs) (p : Nat) : s.ComesUp p (s.portComesUp p) := by
  have hsends := s.portComesUp_sends p
  have hrise := State.setPortState_rising h p 3
  obtain ⟨-, h1, h2, h3, h4, h5, h6, h7, h8, h9⟩ := portRegs_ordered p
  have hne : regFptPortStatus p ≠ regFptTrainings p := by omega
  have hreg {o : Nat} (ho : o ≠ regFptTrainings p) : (s.portComesUp p).reg o = (s.setPortState p 3).reg o := by
    rw [hsends.reg, State.up, State.modPort_reg, State.reg_addReg_other _ _ _ _ ho]
  have hport : (s.up p).port p = { s.port p with upSince := some s.time, wasUp := true, discarding := false } :=
    State.port_modPort _ p _ (State.port_num _ p)
  refine ⟨?_, ?_, ?_, fun o ho ho' => ?_, ?_, hsends.out, hsends.mem, hsends.tasks⟩
  · rw [State.portState_congr (hreg hne), State.portState_setPortState h p (by decide)]
  · exact (State.bit_congr (hreg hne) 2).trans (State.portCrypt_setPortState h p 3)
  · rw [hsends.reg, State.up, State.modPort_reg, State.reg_addReg_same _ _ _ hrise]
    congr 2
    exact State.reg_setFld_other _ _ _ _ _ _ hne.symm
  · rw [hreg ho']
    exact State.reg_setFld_other _ _ _ _ _ _ ho
  · rw [hsends.keyed, hport]

/-! ### Training (R293 to R295, R302) -/

theorem exec_portTrainingStart {s : State} {p : Nat} (h : portPresent s.variant p = true ∧ s.portState p = 0 ∧
    s.portEnable p = true ∧ s.trainOpen = true ∧ s.portsStarted = true) : exec (.portTrainingStart p) s =
      .next ((s.quiet.setPortState p 1).modPort p fun x => { x with retrain := x.wasUp }) := by
  show execPortTrainingStart p s = _
  rw [execPortTrainingStart]
  exact attempt_of_some (if_pos h)

theorem exec_portTrainingComplete {s : State} {p : Nat} (h : portPresent s.variant p = true ∧ s.portState p = 1)
    (r : Training) : exec (.portTrainingComplete p r) s = .next (s.quiet.endTraining p r) := by
  show execPortTrainingComplete p r s = _
  rw [execPortTrainingComplete]
  exact attempt_of_some (if_pos h)

/-- The flight time and the partner recorded, and this device's identity message sent. -/
def State.introduced (s : State) (p : Nat) (r : Training) : State :=
  ((s.setReg (regFptFlight p) r.flight).emit (s.ownIdentity p)).recordPeer p r

theorem regNswDeviceId_lt (p : Nat) : regGlbIdentity < regNswDeviceId ∧ regNswDeviceId < regFptPortStatus p := by
  simp only [regGlbIdentity, regNswDeviceId, regFptPortStatus]
  omega

theorem State.ownIdentity_setFlight (s : State) (p v : Nat) :
    (s.setReg (regFptFlight p) v).ownIdentity p = s.ownIdentity p := by
  obtain ⟨h1, h2⟩ := regNswDeviceId_lt p
  obtain ⟨-, h3, h4, h5, -⟩ := portRegs_ordered p
  have hreg {o : Nat} (ho : o < regFptFlight p) : (s.setReg (regFptFlight p) v).reg o = s.reg o :=
    s.reg_setReg_other _ v o (Nat.ne_of_lt ho)
  have hid := hreg (o := regNswDeviceId) (by omega)
  have hctrl := hreg (o := regFptPortCtrl p) (by omega)
  have hglb := hreg (o := regGlbIdentity) (by omega)
  simp only [State.ownIdentity, State.deviceId, State.deviceValid, State.portEncrypt, State.bit, State.fld, hid, hctrl, hglb]

section Introduced

variable (s : State) (p : Nat) (r : Training)

theorem State.introduced_reg {o : Nat} (h1 : o ≠ regFptFlight p) (h2 : o ≠ regFptPortPeer p) :
    (s.introduced p r).reg o = s.reg o := by
  rw [State.introduced, State.recordPeer, State.reg_setReg_other _ _ _ _ h2, State.emit_reg,
    State.reg_setReg_other _ _ _ _ h1]

theorem State.introduced_rising (h : Rising s.regs) : Rising (s.introduced p r).regs :=
  State.setReg_rising _ _ _ (show Rising ((s.setReg (regFptFlight p) r.flight).emit (s.ownIdentity p)).regs from
    State.setReg_rising _ _ _ h)

theorem State.introduced_portEncrypt : (s.introduced p r).portEncrypt p = s.portEncrypt p := by
  obtain ⟨-, -, h1, h2, -⟩ := portRegs_ordered p
  exact State.bit_congr (s.introduced_reg p r (by omega) (by omega)) 30

theorem State.introduced_bit_sec (hp : p < 24) (i : Nat) : (s.introduced p r).bit regSecStatus i = s.bit regSecStatus i := by
  have h1 : regSecStatus ≠ regFptFlight p := by
    simp only [regSecStatus, regFptFlight]
    omega
  have h2 : regSecStatus ≠ regFptPortPeer p := by
    simp only [regSecStatus, regFptPortPeer]
    omega
  exact State.bit_congr (s.introduced_reg p r h1 h2) i

/-- What the partner said, as FPT_PORT_PEER holds it. -/
def peerWord (r : Training) : Nat :=
  2 ^ 31 + b2n r.idValid * 2 ^ 30 + r.port % 32 * 2 ^ 25 + b2n r.encCapable * 2 ^ 24 + r.variant.toNat * 2 ^ 16
    + r.device.toNat

theorem peerWord_fields : peerWord r < 2 ^ 64 ∧ bitOf (peerWord r) 31 = true ∧ getBits (peerWord r) 15 0 = r.device.toNat := by
  have hid : b2n r.idValid ≤ 1 := by cases r.idValid <;> decide
  have henc : b2n r.encCapable ≤ 1 := by cases r.encCapable <;> decide
  have hvariant := r.variant.isLt
  have hdevice := r.device.isLt
  simp only [peerWord, bitOf, getBits, Nat.shiftRight_eq_div_pow, beq_iff_eq]
  refine ⟨?_, ?_, ?_⟩ <;> omega

theorem State.introduced_peer (h : Rising s.regs) : (s.introduced p r).reg (regFptPortPeer p) = peerWord r :=
  State.reg_setReg_same _ _ _ (show Rising ((s.setReg (regFptFlight p) r.flight).emit (s.ownIdentity p)).regs from
    State.setReg_rising _ _ _ h) (peerWord_fields r).1

theorem State.introduced_flight (h : Rising s.regs) (hflight : r.flight ≤ 250) :
    (s.introduced p r).reg (regFptFlight p) = r.flight := by
  obtain ⟨-, -, -, hne, -⟩ := portRegs_ordered p
  rw [State.introduced, State.recordPeer, State.reg_setReg_other _ _ _ _ (Nat.ne_of_gt hne), State.emit_reg,
    State.reg_setReg_same _ _ _ h (by omega)]

theorem State.introduced_mem_out : s.ownIdentity p ∈ (s.introduced p r).out :=
  State.mem_emit_out (s.setReg (regFptFlight p) r.flight) (s.ownIdentity p)

end Introduced

section EndTraining

variable {s : State} {p : Nat} {r : Training}

theorem State.endTraining_dark (h : r.lanes = false) : s.endTraining p r = (s.portOff p).retrainFailed p := if_pos h

variable (hlanes : r.lanes = true)
include hlanes

theorem State.endTraining_far (h : 250 < r.flight) :
    s.endTraining p r = ((s.setReg (regFptFlight p) r.flight).portOff p).portFail p :=
  (if_neg (by simp [hlanes])).trans (if_pos h)

variable (hnear : r.flight ≤ 250)
  (hother : s.deviceValid = true → r.idValid = true → r.device.toNat ≠ s.deviceId)
include hnear hother

/-- With a partner of another ID what both sides ask for decides. -/
theorem State.endTraining_other : s.endTraining p r =
    let u := s.introduced p r
    if u.portEncrypt p then
      (if r.encrypt = true ∧ r.encCapable = true then
        (if u.bit regSecStatus 7 then u.keyingFails p
        else (u.setPortState p 2).emit (.control p (u.sec.credential ++ u.sec.credSig)))
      else if u.portRequired p then u.cryptMismatch p
      else u.portComesUp p)
    else if r.encrypt = true ∧ r.required = true then u.cryptMismatch p
    else u.portComesUp p := by
  obtain ⟨h1, h2⟩ := regNswDeviceId_lt p
  obtain ⟨-, h3, h4, h5, -⟩ := portRegs_ordered p
  have hreg := s.introduced_reg p r (o := regNswDeviceId) (by omega) (by omega)
  have hdup : ¬ ((s.introduced p r).deviceValid = true ∧ r.idValid = true ∧
      r.device.toNat = (s.introduced p r).deviceId) := by
    rw [State.deviceValid, State.bit_congr hreg, State.deviceId, State.fld_congr hreg]
    exact fun h => hother h.1 h.2.1 h.2.2
  have hlit : ¬ r.lanes = false := by simp [hlanes]
  refine (if_neg hlit).trans ((if_neg (Nat.not_lt.mpr hnear)).trans ?_)
  rw [State.ownIdentity_setFlight]
  exact if_neg hdup

theorem State.endTraining_plain (hplain : s.portEncrypt p = false) : s.endTraining p r =
    if r.encrypt = true ∧ r.required = true then (s.introduced p r).cryptMismatch p
    else (s.introduced p r).portComesUp p := by
  have hasks : ¬ (s.introduced p r).portEncrypt p = true := by simp [State.introduced_portEncrypt, hplain]
  exact (State.endTraining_other hlanes hnear hother).trans (if_neg hasks)

/-- Where both sides ask for encryption the port enters KEYING with its credential. -/
theorem State.endTraining_keying (hp : p < 24) (hasks : s.portEncrypt p = true)
    (hboth : r.encrypt = true ∧ r.encCapable = true) (hsec : s.bit regSecStatus 7 = false) :
    s.endTraining p r = ((s.introduced p r).setPortState p 2).emit
      (.control p ((s.introduced p r).sec.credential ++ (s.introduced p r).sec.credSig)) := by
  have hasks' : (s.introduced p r).portEncrypt p = true := (s.introduced_portEncrypt p r).trans hasks
  have hsec' : ¬ (s.introduced p r).bit regSecStatus 7 = true := by simp [State.introduced_bit_sec s p r hp, hsec]
  exact (State.endTraining_other hlanes hnear hother).trans ((if_pos hasks').trans ((if_pos hboth).trans (if_neg hsec')))

end EndTraining

section TrainingEnds

variable {s : State} (h : Rising s.regs) (p : Nat) (r : Training)
include h

/-- A port that comes UP at the end of its training holds the flight time and the partner. -/
theorem State.introduced_up (hnear : r.flight ≤ 250) :
    let t := (s.introduced p r).portComesUp p
    t.portState p = 3 ∧ t.reg (regFptFlight p) = r.flight ∧ t.bit (regFptPortPeer p) 31 = true ∧
      t.fld (regFptPortPeer p) 15 0 = r.device.toNat ∧
      t.reg (regFptTrainings p) = (s.reg (regFptTrainings p) + 1) % 2 ^ 64 ∧ s.ownIdentity p ∈ t.out ∧
      t.tasks = s.tasks := by
  obtain ⟨-, h1, h2, h3, h4, h5, h6, h7, h8, h9⟩ := portRegs_ordered p
  have hup := State.portComesUp_comesUp (s.introduced_rising p r h) p
  obtain ⟨-, hbit, hfld⟩ := peerWord_fields r
  have hpeer : ((s.introduced p r).portComesUp p).reg (regFptPortPeer p) = peerWord r :=
    (hup.reg _ (by omega) (by omega)).trans (s.introduced_peer p r h)
  have hflight := hup.reg (regFptFlight p) (by omega) (by omega)
  have htrainings := s.introduced_reg p r (o := regFptTrainings p) (by omega) (by omega)
  refine ⟨hup.state, hflight.trans (s.introduced_flight p r h hnear), ?_, ?_, ?_, hup.out.subset (s.introduced_mem_out p r),
    hup.tasks⟩
  · rw [State.bit, State.fld, hpeer]
    exact hbit
  · rw [State.fld, hpeer, hfld]
  · rw [hup.trainings, htrainings]

/-- A port that enters KEYING has not finished its training. -/
theorem State.introduced_keying (o : Out) :
    let t := ((s.introduced p r).setPortState p 2).emit o
    t.portState p = 2 ∧ t.reg (regFptTrainings p) = s.reg (regFptTrainings p) := by
  obtain ⟨-, h1, h2, h3, h4, h5, h6, h7, h8, h9⟩ := portRegs_ordered p
  refine ⟨State.portState_setPortState (s.introduced_rising p r h) p (by decide), ?_⟩
  have hother := State.reg_setFld_other (s.introduced p r) (regFptPortStatus p) 15 12 2 (regFptTrainings p) (by omega)
  exact hother.trans (s.introduced_reg p r (by omega) (by omega))

end TrainingEnds

/-! ### Keys (R302, R304, R486 to R488) -/

theorem exec_laneLockLoss {s : State} {p : Nat} (h : portPresent s.variant p = true ∧ (s.portState p = 2 ∨ s.portState p = 3)) :
    exec (.laneLockLoss p) s = .next (s.quiet.portDown p) := by
  show execLaneLockLoss p s = _
  rw [execLaneLockLoss]
  exact attempt_of_some (if_pos h)

/-- A port with a ciphertext and a secret of its own. -/
def Port.withSecret (x : Port) (ct ss : List Byte) : Port := { x with ownCt := ct, ownSecret := ss }

section Secret

variable (x : Port) (ct ss : List Byte)

@[simp] theorem Port.withSecret_num : (x.withSecret ct ss).num = x.num := rfl
@[simp] theorem Port.withSecret_keys : (x.withSecret ct ss).keys = x.keys := rfl
@[simp] theorem Port.withSecret_peerCred : (x.withSecret ct ss).peerCred = x.peerCred := rfl
@[simp] theorem Port.withSecret_ownCt : (x.withSecret ct ss).ownCt = ct := rfl

end Secret

theorem State.draw_port (s : State) (p : Nat) : s.draw.2.port p = s.port p := rfl

/-- The ciphertext and the secret that the next draw gives for the partner's key. -/
def State.newCt (s : State) (p : Nat) : List Byte :=
  (List.range 1568).map (Config.kemCiphertext (credEk (s.draw.2.port p).peerCred) s.draw.1)
def State.newSecret (s : State) (p : Nat) : List Byte :=
  (List.range 32).map (Config.kemSecret (credEk (s.draw.2.port p).peerCred) s.draw.1)

theorem State.newCt_length (s : State) (p : Nat) : (s.newCt p).length = 1568 := by
  rw [State.newCt, List.length_map, List.length_range]

theorem State.encapsulate_eq (s : State) (p : Nat) :
    s.encapsulate p = s.draw.2.modPort p fun x => x.withSecret (s.newCt p) (s.newSecret p) := rfl

theorem State.encapsulate_port (s : State) (p : Nat) :
    (s.encapsulate p).port p = (s.port p).withSecret (s.newCt p) (s.newSecret p) := by
  have hnum : ((s.draw.2.port p).withSecret (s.newCt p) (s.newSecret p)).num = p := by
    rw [Port.withSecret_num, State.port_num]
  rw [State.encapsulate_eq, State.port_modPort _ _ _ hnum, State.draw_port]

theorem State.encapsulate_regs (s : State) (p : Nat) : (s.encapsulate p).regs = s.regs := rfl
theorem State.encapsulate_mem (s : State) (p : Nat) : (s.encapsulate p).mem = s.mem := rfl
theorem State.encapsulate_inject (s : State) (p : Nat) : (s.encapsulate p).inject = s.inject := rfl

theorem State.injectKey_port (s : State) (p q : Nat) : (s.injectKey p).port q = s.port q := rfl
theorem State.injectKey_regs (s : State) (p : Nat) : (s.injectKey p).regs = s.regs := rfl
theorem State.injectKey_mem (s : State) (p : Nat) : (s.injectKey p).mem = s.mem := rfl

/-- The packet of a rekey: on VC7, to leave by the port, with the ciphertext. -/
theorem State.injectKey_inject (s : State) (p : Nat) : ∃ k, (s.injectKey p).inject = s.inject ++ [k] ∧ k.vc = 7 ∧
    k.port = 32 + p ∧ k.payload = (s.port p).ownCt := ⟨_, rfl, rfl, rfl, rfl⟩

/-- A credential accepted and answered with this side's ciphertext (R486). -/
def State.credentialTaken (s : State) (p : Nat) (cred : List Byte) : State :=
  ((s.modPort p fun x => { x with peerCred := cred }).encapsulate p).sendCiphertext p

theorem State.credentialTaken_frame (s : State) (p : Nat) (cred : List Byte) :
    ((s.credentialTaken p cred).port p).peerCred = cred ∧ (s.credentialTaken p cred).regs = s.regs ∧
      (s.credentialTaken p cred).mem = s.mem := by
  refine ⟨?_, ?_, ?_⟩
  · rw [State.credentialTaken, State.sendCiphertext, State.emit_port, State.encapsulate_port, Port.withSecret_peerCred,
      State.port_modPort _ _ _ (State.port_num _ p)]
  · rw [State.credentialTaken, State.sendCiphertext, State.emit_regs, State.encapsulate_regs, State.modPort_regs]
  · rw [State.credentialTaken, State.sendCiphertext, State.emit_mem, State.encapsulate_mem, State.modPort_mem]

section Credential

variable {s : State} {p : Nat} {cred sig : List Byte}
  (h : portPresent s.variant p = true ∧ s.portState p = 2 ∧ (s.port p).peerCred = [])
include h

theorem exec_linkCredential_ok (hok : s.credentialOk p cred sig = true) : exec (.linkCredential p cred sig) s =
    .next (s.quiet.credentialTaken p cred) := by
  have h' : portPresent s.quiet.variant p = true ∧ s.quiet.portState p = 2 ∧ (s.quiet.port p).peerCred = [] := h
  have hok' : s.quiet.credentialOk p cred sig = true := hok
  show execLinkCredential p cred sig s = _
  rw [execLinkCredential]
  exact attempt_of_some ((if_pos h').trans (if_pos hok'))

theorem exec_linkCredential_refused (hbad : s.credentialOk p cred sig = false) :
    exec (.linkCredential p cred sig) s = .next (s.quiet.keyingFails p) := by
  have h' : portPresent s.quiet.variant p = true ∧ s.quiet.portState p = 2 ∧ (s.quiet.port p).peerCred = [] := h
  have hbad' : ¬ s.quiet.credentialOk p cred sig = true := ne_of_eq_of_ne hbad (by decide)
  show execLinkCredential p cred sig s = _
  rw [execLinkCredential]
  exact attempt_of_some ((if_pos h').trans (if_neg hbad'))

end Credential

section Ciphertext

variable {s : State} {p : Nat} {ct : List Byte}
  (h : portPresent s.variant p = true ∧ ct.length = 1568 ∧ (s.port p).peerCred ≠ [])
include h

theorem exec_keyCiphertext_keying (hkeying : s.portState p = 2) : exec (.keyCiphertext p ct) s =
    .next (if s.bit regSecStatus 7 then s.quiet.keyingFails p else s.quiet.keyingDone p ct) := by
  have h' : portPresent s.quiet.variant p = true ∧ ct.length = 1568 ∧ (s.quiet.port p).peerCred ≠ [] := h
  have hkeying' : s.quiet.portState p = 2 := hkeying
  show execKeyCiphertext p ct s = _
  rw [execKeyCiphertext]
  exact attempt_of_some ((if_pos h').trans (if_pos hkeying'))

theorem exec_keyCiphertext_rekey (hup : s.portState p = 3 ∧ s.portCrypt p = true ∧ (s.port p).nextKeys = none) :
    exec (.keyCiphertext p ct) s = .next (s.quiet.rekeyed p ct) := by
  have h' : portPresent s.quiet.variant p = true ∧ ct.length = 1568 ∧ (s.quiet.port p).peerCred ≠ [] := h
  have hkeying' : ¬ s.quiet.portState p = 2 := ne_of_eq_of_ne hup.1 (by decide)
  have hup' : s.quiet.portState p = 3 ∧ s.quiet.portCrypt p = true ∧ (s.quiet.port p).nextKeys = none := hup
  show execKeyCiphertext p ct s = _
  rw [execKeyCiphertext]
  exact attempt_of_some ((if_pos h').trans ((if_neg hkeying').trans (if_pos hup')))

end Ciphertext

/-- A port with the keys that its first ciphertext gives. -/
def Port.keyed (x : Port) (k : LinkKeys) : Port :=
  { x with keys := some k, nextKeys := none, keyIdx := false, rxIdx := false }

/-- A port whose partner is known and which encrypts, before it comes UP. -/
def State.keying (s : State) (p : Nat) (ct : List Byte) : State :=
  ((s.modPort p fun x => x.keyed (s.keysFrom p ct 0)).setBit (regFptPortStatus p) 2 true).setPortPeer p
    (pkPrefix (credPk (s.port p).peerCred))

/-- Keying ends in UP, with encryption and keys. -/
theorem State.keyingDone_up {s : State} (h : Rising s.regs) {p : Nat} (hp : p < 24) (ct : List Byte) :
    (s.keyingDone p ct).portState p = 3 ∧ (s.keyingDone p ct).portCrypt p = true ∧
      ((s.keyingDone p ct).port p).keys.isSome = true ∧ (s.keyingDone p ct).mem = s.mem := by
  obtain ⟨h1, -, -, h4⟩ := regFptPortStatus_lt_secPort hp p
  have hkeyed : Rising (s.modPort p fun x => x.keyed (s.keysFrom p ct 0)).regs := h
  have hup := State.portComesUp_comesUp (s := s.keying p ct) (State.setPortPeer_rising (State.setReg_rising _ _ _ hkeyed) _ _) p
  have hport : (s.keying p ct).port p = (s.port p).keyed (s.keysFrom p ct 0) :=
    State.port_modPort s p (fun x => x.keyed _) (s.port_num p)
  have hcrypt : (s.keying p ct).portCrypt p = true :=
    (State.bit_congr (State.setPortPeer_reg _ _ _ (by omega) (by omega)) 2).trans
      (State.bit_setBit_same _ _ _ _ hkeyed (by decide))
  exact ⟨hup.state, hup.crypt.trans hcrypt, hup.keyed.trans (by rw [hport]; rfl), hup.mem⟩

/-- A port that sends under new keys, and receives under the old ones until the partner's index flips. -/
def Port.rekeyed (x : Port) (k n : LinkKeys) : Port :=
  { x with keys := some { n with rxKey := k.rxKey, rxSalt := k.rxSalt, rxCount := k.rxCount }, nextKeys := some n,
           keyIdx := !x.keyIdx, rekeying := false }

/-- The state in which the partner's ciphertext gives the next keys: this side has encapsulated as well. -/
def State.answered (s : State) (p : Nat) : State := if (s.port p).rekeying then s else (s.encapsulate p).injectKey p

theorem State.answered_keys (s : State) (p : Nat) : ((s.answered p).port p).keys = (s.port p).keys := by
  unfold State.answered
  split
  · rfl
  · rw [State.injectKey_port, State.encapsulate_port, Port.withSecret_keys]

theorem State.rekeyed_nextKeys {s : State} {p : Nat} (h : (s.port p).keys.isSome = true) (ct : List Byte) :
    ((s.rekeyed p ct).port p).nextKeys.isSome = true := by
  obtain ⟨k, hk⟩ := Option.isSome_iff_exists.mp h
  have hkeys : ((s.answered p).port p).keys = some k := (s.answered_keys p).trans hk
  have hrekeyed : s.rekeyed p ct = (s.answered p).modPort p fun x =>
      x.rekeyed k ((s.answered p).keysFrom p ct (k.rekeys + 1)) := by
    rw [State.answered] at hkeys
    simp only [State.rekeyed, hkeys]
    rfl
  rw [hrekeyed, State.port_modPort _ p (fun x => x.rekeyed k _) (State.port_num _ p)]
  rfl

/-- A port that waits for its partner's part of a rekey. -/
def Port.awaitsKey (x : Port) : Port := { x with rekeying := true }

@[simp] theorem Port.awaitsKey_num (x : Port) : x.awaitsKey.num = x.num := rfl
@[simp] theorem Port.awaitsKey_rekeying (x : Port) : x.awaitsKey.rekeying = true := rfl
@[simp] theorem Port.awaitsKey_keys (x : Port) : x.awaitsKey.keys = x.keys := rfl

/-- A rekey begun by this side. -/
def State.rekeyBegun (s : State) (p : Nat) : State := ((s.encapsulate p).injectKey p).modPort p Port.awaitsKey

theorem State.rekeyBegun_port (s : State) (p : Nat) :
    (s.rekeyBegun p).port p = ((s.port p).withSecret (s.newCt p) (s.newSecret p)).awaitsKey := by
  have hnum : (((s.encapsulate p).injectKey p).port p).awaitsKey.num = p := by rw [Port.awaitsKey_num, State.port_num]
  rw [State.rekeyBegun, State.port_modPort _ _ _ hnum, State.injectKey_port, State.encapsulate_port]

/-- A rekey begun puts its packet into the injection queue, and leaves the keys in use, registers and memory. -/
theorem State.rekeyBegun_frame (s : State) (p : Nat) : ((s.rekeyBegun p).port p).rekeying = true ∧
    ((s.rekeyBegun p).port p).keys = (s.port p).keys ∧ (s.rekeyBegun p).regs = s.regs ∧ (s.rekeyBegun p).mem = s.mem ∧
    ∃ k, (s.rekeyBegun p).inject = s.inject ++ [k] ∧ k.vc = 7 ∧ k.port = 32 + p ∧ k.len = 1568 := by
  obtain ⟨k, hinject, hvc, hport, hpayload⟩ := (s.encapsulate p).injectKey_inject p
  refine ⟨?_, ?_, ?_, ?_, k, ?_, hvc, hport, ?_⟩
  · rw [State.rekeyBegun_port, Port.awaitsKey_rekeying]
  · rw [State.rekeyBegun_port, Port.awaitsKey_keys, Port.withSecret_keys]
  · rw [State.rekeyBegun, State.modPort_regs, State.injectKey_regs, State.encapsulate_regs]
  · rw [State.rekeyBegun, State.modPort_mem, State.injectKey_mem, State.encapsulate_mem]
  · rw [State.rekeyBegun, State.modPort_inject, hinject, State.encapsulate_inject]
  · rw [Pkt.len, hpayload, State.encapsulate_port, Port.withSecret_ownCt, State.newCt_length]

theorem exec_rekeyDue {s : State} {p : Nat} (h : s.rekeyIsDue p = true) :
    exec (.rekeyDue p) s = .next (s.quiet.rekeyBegun p) := by
  have h' : s.quiet.rekeyIsDue p = true := h
  show execRekeyDue p s = _
  rw [execRekeyDue]
  exact attempt_of_some (if_pos h')

/-! ### ENABLE (R300) -/

/-- What FPT_PORT_CTRL keeps of a value. -/
def ctrlWord (v : Nat) : Nat := getBits v 31 29 * 2 ^ 29 + getBits v 10 0

theorem ctrlWord_lt (v : Nat) : ctrlWord v < 2 ^ 64 := by
  have hhigh : getBits v 31 29 < 2 ^ 3 := getBits_lt v 31 29
  have hlow : getBits v 10 0 < 2 ^ 11 := getBits_lt v 10 0
  rw [ctrlWord]
  omega

section Enable

variable {s : State} {p : Nat} {v : Nat}

/-- A write of 0 to ENABLE holds the port down, and one of 1 brings it out of FAILED. -/
theorem State.writePortCtrl_of_halted (h : s.halted 11 = true) : s.writePortCtrl p v =
    let u := s.setReg (regFptPortCtrl p) (ctrlWord v)
    if bitOf v 31 = false then (if s.portState p = 4 then u else u.portOff p)
    else if s.portEnable p = false ∧ s.portState p = 4 then u.setPortState p 0
    else u := State.whWrite_of_halted h _

theorem State.portState_setCtrl (s : State) (p v : Nat) : (s.setReg (regFptPortCtrl p) v).portState p = s.portState p := by
  obtain ⟨-, h1, -⟩ := portRegs_ordered p
  exact State.portState_congr (s.reg_setReg_other _ v _ (Nat.ne_of_lt h1))

section Written

variable (hhalted : s.halted 11 = true)
include hhalted

theorem State.writePortCtrl_off (hoff : bitOf v 31 = false) (h : s.portState p ≠ 4) :
    s.writePortCtrl p v = (s.setReg (regFptPortCtrl p) (ctrlWord v)).portOff p :=
  (State.writePortCtrl_of_halted hhalted).trans ((if_pos hoff).trans (if_neg h))

theorem State.writePortCtrl_off_failed (hoff : bitOf v 31 = false) (h : s.portState p = 4) :
    s.writePortCtrl p v = s.setReg (regFptPortCtrl p) (ctrlWord v) :=
  (State.writePortCtrl_of_halted hhalted).trans ((if_pos hoff).trans (if_pos h))

theorem State.writePortCtrl_on_failed (hon : bitOf v 31 = true) (h : s.portEnable p = false ∧ s.portState p = 4) :
    s.writePortCtrl p v = (s.setReg (regFptPortCtrl p) (ctrlWord v)).setPortState p 0 :=
  (State.writePortCtrl_of_halted hhalted).trans ((if_neg (by simp [hon])).trans (if_pos h))

theorem State.writePortCtrl_on (hon : bitOf v 31 = true) (h : s.portEnable p = true ∨ s.portState p ≠ 4) :
    s.writePortCtrl p v = s.setReg (regFptPortCtrl p) (ctrlWord v) := by
  have hstays : ¬ (s.portEnable p = false ∧ s.portState p = 4) := by
    rcases h with h | h <;> simp [h]
  exact (State.writePortCtrl_of_halted hhalted).trans ((if_neg (by simp [hon])).trans (if_neg hstays))

end Written

/-- Whatever the write does to the port, the register keeps the value. -/
theorem State.writePortCtrl_reg (hhalted : s.halted 11 = true) (h : Rising s.regs) (hp : p < 24) :
    (s.writePortCtrl p v).reg (regFptPortCtrl p) = ctrlWord v := by
  obtain ⟨-, h1, h2, -⟩ := portRegs_ordered p
  obtain ⟨-, -, h3, h4⟩ := regFptPortStatus_lt_secPort hp p
  have hset : (s.setReg (regFptPortCtrl p) (ctrlWord v)).reg (regFptPortCtrl p) = ctrlWord v :=
    State.reg_setReg_same _ _ _ h (ctrlWord_lt v)
  have hoff := (s.setReg (regFptPortCtrl p) (ctrlWord v)).portOff_reg p (o := regFptPortCtrl p) (by omega) (by omega)
    (by omega) (by omega)
  rw [State.writePortCtrl_of_halted hhalted]
  dsimp only
  split
  · split
    · exact hset
    · exact hoff.trans hset
  · split
    · exact (State.reg_setFld_other _ _ _ _ _ _ (Nat.ne_of_gt h1)).trans hset
    · exact hset

end Enable

/-- Settles O47: each clause is a branch of its row, with the states in between named above. -/
theorem portsTrainKeyAndGoDown : Obligations.PortsTrainKeyAndGoDown := by
  intro s p hs hpresent
  have hrise : Rising s.quiet.regs := hs.regs.1
  have hp : p < 24 := portPresent_lt hpresent
  refine ⟨fun hdown henable hopen hstarted => ?start, fun r htraining => ⟨fun hdark => ?dark, fun hlanes hfar => ?far,
      fun hlanes hnear hother hplain => ⟨fun hencrypt hrequired => ?mismatch, fun hlax => ?up⟩,
      fun hlanes hnear hother hencrypt hasked hcapable hsec => ?keying⟩, fun hup => exec_laneLockLoss ⟨hpresent, hup⟩,
    fun cred sig hkeying hnone => ⟨fun hok => ?accepted, fun hbad => exec_linkCredential_refused ⟨hpresent, hkeying, hnone⟩ hbad⟩,
    fun ct hlen hcred => ⟨fun hkeying hsec => ?done, fun hkeying hsec => ?entropy, fun hup hcrypt hnext => ?rekeyed⟩,
    fun hdue => ?rekey, fun v hready hhalted => ?enable⟩
  case start =>
    refine ⟨_, exec_portTrainingStart ⟨hpresent, hdown, henable, hopen, hstarted⟩,
      State.portState_setPortState (s := s.quiet) hrise p (by decide), ?_, fun o ho => ?_, rfl, rfl⟩
    · rw [State.port_modPort _ _ _ (State.port_num _ p)]
      rfl
    · exact State.reg_setFld_other s.quiet _ _ _ _ o ho
  case dark => rw [exec_portTrainingComplete ⟨hpresent, htraining⟩, State.endTraining_dark hdark]
  case far => rw [exec_portTrainingComplete ⟨hpresent, htraining⟩, State.endTraining_far hlanes hfar]
  case mismatch =>
    rw [exec_portTrainingComplete ⟨hpresent, htraining⟩, State.endTraining_plain (s := s.quiet) hlanes hnear hother hplain,
      if_pos ⟨hencrypt, hrequired⟩]
    rfl
  case up =>
    have hno : ¬ (r.encrypt = true ∧ r.required = true) := by
      rcases hlax with h | h <;> simp [h]
    have hx := exec_portTrainingComplete ⟨hpresent, htraining⟩ r
    rw [State.endTraining_plain (s := s.quiet) hlanes hnear hother hplain, if_neg hno] at hx
    exact ⟨_, hx, State.introduced_up (s := s.quiet) hrise p r hnear⟩
  case keying =>
    have hx := exec_portTrainingComplete ⟨hpresent, htraining⟩ r
    rw [State.endTraining_keying (s := s.quiet) hlanes hnear hother hp hencrypt ⟨hasked, hcapable⟩ hsec] at hx
    obtain ⟨hstate, htrainings⟩ := State.introduced_keying (s := s.quiet) hrise p r
      (.control p ((s.quiet.introduced p r).sec.credential ++ (s.quiet.introduced p r).sec.credSig))
    exact ⟨_, hx, hstate, htrainings, rfl⟩
  case accepted =>
    exact ⟨_, exec_linkCredential_ok ⟨hpresent, hkeying, hnone⟩ hok, State.credentialTaken_frame s.quiet p cred⟩
  case done =>
    obtain ⟨hstate, hcrypt, hkeys, hmem⟩ := State.keyingDone_up hrise hp ct
    have hx := exec_keyCiphertext_keying ⟨hpresent, hlen, hcred⟩ hkeying
    rw [if_neg (by simp [hsec])] at hx
    exact ⟨_, hx, hstate, hcrypt, hkeys, hmem⟩
  case entropy => rw [exec_keyCiphertext_keying ⟨hpresent, hlen, hcred⟩ hkeying, if_pos hsec]
  case rekeyed =>
    exact ⟨exec_keyCiphertext_rekey ⟨hpresent, hlen, hcred⟩ ⟨hup, hcrypt, hnext⟩,
      fun hkeys => State.rekeyed_nextKeys (s := s.quiet) hkeys ct⟩
  case rekey =>
    obtain ⟨hbegun, hkeys, hregs, hmem, k, hinject, hvc, hport, hlen⟩ := State.rekeyBegun_frame s.quiet p
    exact ⟨_, k, exec_rekeyDue hdue, hbegun, hkeys, hinject, hvc, hport, hlen, hregs, hmem⟩
  case enable =>
    have hx := exec_portEnableWrite hready hpresent v
    have hset : Rising (s.quiet.setReg (regFptPortCtrl p) (ctrlWord v.toNat)).regs := State.setReg_rising _ _ _ hrise
    refine ⟨_, hx, State.writePortCtrl_reg hhalted hrise hp, fun hoff hlive => ?_, fun hoff hfailed => ?_,
      fun hon hwas hfailed => ?_, fun hon hstays => ?_⟩
    · rw [State.writePortCtrl_off (s := s.quiet) hhalted hoff hlive, State.portOff_portState hset hp]
    · rw [State.writePortCtrl_off_failed (s := s.quiet) hhalted hoff hfailed, State.portState_setCtrl]
      exact hfailed
    · rw [State.writePortCtrl_on_failed (s := s.quiet) hhalted hon ⟨hwas, hfailed⟩,
        State.portState_setPortState hset p (by decide)]
    · rw [State.writePortCtrl_on (s := s.quiet) hhalted hon hstays, State.portState_setCtrl]
      rfl

end Sys2Proof.Machine
end

section
/-! Atomics served at their target, and the replay window that answers their retries (R289, R340, R343, R349, R350). -/

namespace Sys2Proof.Machine

open Sys2Proof

/-! ### Bytes stored leave the Remote Memory Engine as it is -/

section StoredRme

variable (s : State)

theorem State.trimWindow_rme : s.trimWindow.rme = s.rme := by
  refine foldl_keeps (P := fun t : State => t.rme = s.rme) rfl fun t _ ht => ?_
  split <;> exact ht

theorem State.darnWrite_rme (a : Nat) : (s.darnWrite a).rme = s.rme := by
  unfold State.darnWrite
  dsimp only
  split
  · split
    · split
      · rfl
      · split <;> rfl
    · rfl
  · rfl

theorem State.land_rme (a : Nat) (bs : List Byte) : (s.land a bs).rme = s.rme := by
  unfold State.land
  split
  · split
    · rfl
    · exact (s.storeWindow a bs).trimWindow_rme
  · split
    · rfl
    · exact s.darnWrite_rme a
  · split <;> rfl
  · rfl
  · rfl

theorem State.putRing_rme (off : Nat) (bs : List Byte) : (s.putRing off bs).rme = s.rme := by
  unfold State.putRing
  split
  · refine foldl_keeps (P := fun t : State => t.rme = s.rme) rfl fun t p ht => ?_
    split
    · exact ht
    · exact (t.land_rme _ _).trans ht
  · rfl

theorem State.alert_rme (i : Nat) : (s.alert i).rme = s.rme := by
  unfold State.alert
  split
  · rfl
  · unfold State.ibi
    split <;> rfl

theorem State.recordNew_rme (r : ErrRec) : (s.recordNew r).rme = s.rme := by
  by_cases h : s.reg regRruErrHead - s.reg regRruErrTail ≥ s.reg regRruErrSlots
  · rw [State.recordNew_of_full h]
    rfl
  · have hfilled : (s.slotFilled r).rme = s.rme := s.putRing_rme _ _
    rw [State.recordNew_of_room h]
    split
    · exact (State.alert_rme _ 0).trans hfilled
    · exact hfilled

theorem State.record_rme (r : ErrRec) : (s.record r).rme = s.rme := by
  unfold State.record
  dsimp only
  split
  · split
    · exact State.putRing_rme _ _ _
    · exact State.recordNew_rme _ r
  · exact State.recordNew_rme _ r

theorem State.put_rme (a : Nat) (bs : List Byte) : (s.put a bs).rme = s.rme := by
  unfold State.put
  split
  · rfl
  · split
    · exact s.record_rme _
    · exact s.land_rme a bs

@[simp] theorem State.putBytes_rme (a : Nat) (bs : List Byte) : (s.putBytes a bs).rme = s.rme :=
  foldl_keeps (P := fun t : State => t.rme = s.rme) rfl fun t p ht => (t.put_rme p.1 p.2).trans ht

end StoredRme

/-! ### Answers -/

section Answer

variable (s : State) (p : Pkt) (kind status dst txn : Nat) (payload : List Byte)

/-- An answer puts one packet into the injection queue and moves registers; nothing else changes. -/
theorem State.answer_frame : ∃ regs inject, s.answer p kind status dst txn payload =
    { s with regs := regs, inject := inject } := by
  rw [State.answer, State.injectPkt_eq, State.countOut_regs]
  exact ⟨_, _, rfl⟩

@[simp] theorem State.answer_mem : (s.answer p kind status dst txn payload).mem = s.mem := State.injectPkt_mem _ _

@[simp] theorem State.answer_tasks : (s.answer p kind status dst txn payload).tasks = s.tasks :=
  State.injectPkt_tasks _ _

@[simp] theorem State.answer_poison : (s.answer p kind status dst txn payload).poison = s.poison := by
  obtain ⟨_, _, h⟩ := s.answer_frame p kind status dst txn payload
  rw [h]

@[simp] theorem State.answer_odl : (s.answer p kind status dst txn payload).odl = s.odl := by
  obtain ⟨_, _, h⟩ := s.answer_frame p kind status dst txn payload
  rw [h]

@[simp] theorem State.answer_rme : (s.answer p kind status dst txn payload).rme = s.rme := by
  obtain ⟨_, _, h⟩ := s.answer_frame p kind status dst txn payload
  rw [h]

/-- The last packet of the injection queue is then the answer. -/
theorem State.answer_getLast? : ((s.answer p kind status dst txn payload).inject.getLast?.map fun r =>
    (r.kind, r.dst, r.txn, r.group, r.payload)) = some (kind, dst, txn, status, payload) := by
  rw [State.answer, State.injectPkt_inject, List.getLast?_concat]
  rfl

end Answer

/-! ### The replay window (R349) -/

/-- A window that does not hold a key holds it once the key is recorded. -/
theorem State.replay?_recordReplay {s : State} {src txn off : Nat} (h : s.replay? src txn off = none)
    (status old : Nat) : (s.recordReplay src txn off status old).replay? src txn off = some ⟨src, txn, off, s.time, status, old⟩ := by
  have hnone : (s.rme.window.find? fun e => e.src == src && e.txn == txn && e.offset == off) = none := h
  simp [State.replay?, State.recordReplay, List.find?_append, hnone]

/-- The entry of a key depends on the window alone. -/
theorem State.replay?_congr {s u : State} (h : u.rme.window = s.rme.window) (src txn off : Nat) :
    u.replay? src txn off = s.replay? src txn off := by
  rw [State.replay?, h, State.replay?]

/-! ### Atomics served (R340, R349) -/

/-- The bytes of an atomic's operand, by the width bit of its header. -/
def Pkt.atomicBytes (p : Pkt) : Nat := if bitOf p.group 7 then 8 else 4

/-- The value that an atomic stores over `old`. -/
def Pkt.atomicNew (p : Pkt) (old : Nat) : Nat :=
  atomicOp (getBits p.group 11 8) (8 * p.atomicBytes) old (leNat (slice p.payload 0 p.atomicBytes))
    (leNat (slice p.payload 8 p.atomicBytes))

/-- The operation of an atomic applied to `old`, the value stored and the packet recorded. -/
def State.atomicApplied (s : State) (p : Pkt) (old : Nat) : State :=
  (s.putBytes p.addr (leBytes p.atomicBytes (p.atomicNew old))).recordReplay p.src p.txn p.offset 0 old

/-- The window that an applied atomic leaves holds its entry, with the value before it. -/
theorem State.replay?_atomicApplied {s : State} {p : Pkt} (hnew : s.replay? p.src p.txn p.offset = none) (old : Nat) :
    ∃ time, (s.atomicApplied p old).replay? p.src p.txn p.offset = some ⟨p.src, p.txn, p.offset, time, 0, old⟩ := by
  have hsame : (s.putBytes p.addr (leBytes p.atomicBytes (p.atomicNew old))).rme.window = s.rme.window :=
    congrArg Rme.window (s.putBytes_rme _ _)
  exact ⟨_, State.replay?_recordReplay ((State.replay?_congr hsame _ _ _).trans hnew) 0 old⟩

section Serve

variable {s : State} {p : Pkt} (hlen : p.offset + p.len ≤ p.total)
include hlen

/-- Of a packet that the window holds the cached reply goes again (R349). -/
theorem State.serveAtomic_of_held {e : Replay} (he : s.replay? p.src p.txn p.offset = some e) :
    s.serveAtomic p = (s.addReg regRmeReplayHits 1).answer p kAtomicReply e.status p.src p.txn (leBytes 8 e.old) := by
  simp only [State.serveAtomic, if_neg (Nat.not_lt.mpr hlen), he]

/-- A fresh packet is applied, recorded and answered with the value before it (R340, R349). -/
theorem State.serveAtomic_of_fresh (hnew : s.replay? p.src p.txn p.offset = none) (hfresh : s.freshKey p.src p.txn = true)
    (hst : s.targetStatus p.addr p.atomicBytes true true = 0) (hclean : s.anyPoison p.addr p.atomicBytes = false)
    (hroom : s.rme.window.length < 65536) {old : Nat} (hold : s.rdNat p.addr p.atomicBytes = old) :
    s.serveAtomic p = (s.atomicApplied p old).answer p kAtomicReply 0 p.src p.txn (leBytes 8 old) := by
  subst hold
  have hspace : s.replayRoom 1 1 = some s := State.replayRoom_of_room hroom 1
  rw [Pkt.atomicBytes] at hst hclean
  simp only [State.serveAtomic, if_neg (Nat.not_lt.mpr hlen), hnew, hfresh, hst, hclean, ne_eq, not_true_eq_false,
    Bool.true_eq_false, Bool.false_eq_true, if_false, hspace]
  rfl

end Serve

/-! ### The rows ATOMIC and ATOMIC_RETRY -/

/-- The state in which a delivered packet is served: the packet taken, the outputs of the last command gone. -/
def State.serving (s : State) (p : Pkt) : State := { s.quiet with rx := dropFirst p s.rx }

section Rows

variable {s : State} {p : Pkt}

theorem exec_atomic (hp : (s.rx.find? fun p => p.kind == kAtomic && s.inOrder p) = some p) :
    exec .atomic s = .next ((s.serving p).serveAtomic p) :=
  (exec_takeBy (ok := s.inOrder) (serve := State.serveAtomic) rfl).1 p hp

theorem exec_atomicRetry (hp : (s.rx.find? fun p => p.kind == kAtomicRetry && s.inOrder p) = some p) :
    exec .atomicRetry s = .next ((s.serving p).serveAtomic p) :=
  (exec_takeBy (ok := s.inOrder) (serve := State.serveAtomic) rfl).1 p hp

end Rows

/-- Settles O51: bytes stored leave the replay window as it is, so the atomic's entry is there with the value before it,
and from that entry alone the retry is answered. -/
theorem atomicsApplyAtMostOnce : Obligations.AtomicsApplyAtMostOnce := by
  intro s p hp hlen hnew hfresh n hst hclean hroom
  have happlied := State.serveAtomic_of_fresh (s := s.serving p) hlen hnew hfresh hst hclean hroom
    (old := s.rdNat p.addr n) rfl
  refine ⟨_, (exec_atomic hp).trans (congrArg _ happlied), State.answer_mem _ _ _ _ _ _ _,
    State.answer_getLast? _ _ _ _ _ _ _, fun u q hwindow hq hsrc htxn hoff hqlen => ?_⟩
  obtain ⟨time, hentry⟩ := State.replay?_atomicApplied (s := s.serving p) hnew (s.rdNat p.addr n)
  have hsame := hwindow.trans (congrArg Rme.window (State.answer_rme _ _ _ _ _ _ _))
  have hheld : u.replay? q.src q.txn q.offset = some ⟨p.src, p.txn, p.offset, time, 0, s.rdNat p.addr n⟩ := by
    rw [hsrc, htxn, hoff, State.replay?_congr hsame, hentry]
  have hreplied := State.serveAtomic_of_held (s := u.serving q) hqlen hheld
  refine ⟨_, (exec_atomicRetry hq).trans (congrArg _ hreplied), State.answer_mem _ _ _ _ _ _ _,
    State.answer_poison _ _ _ _ _ _ _, State.answer_odl _ _ _ _ _ _ _, State.answer_tasks _ _ _ _ _ _ _, ?_⟩
  rw [State.answer_getLast?, hsrc, htxn]

end Sys2Proof.Machine
end

section
/-! Collectives and exchanges whose inputs do not come in time, and writes of the group table (R370, R380, R384, R389,
R392, R395). -/

namespace Sys2Proof.Machine

open Sys2Proof

/-! ### Collectives (R380, R384) -/

/-- The device that an abort for a missing input names: this one for its own entry, the one before it on the ring, or
the partner at a port of the tree. -/
def State.missingDevice (s : State) (c : Coll) (i : Nat) : Nat :=
  if i = 24 then s.deviceId else if i = 25 then s.grpPrev c.group else s.peerDevice i

section Timeout

variable {s : State} {c : Coll} (hdue : (s.timeoutColl c).isSome = true)
include hdue

theorem State.timeoutColl_of_missing {i : Nat} (hi : s.missingInput c = some i) : s.timeoutColl c =
    some ((s.abortColl c errCollTimeout (s.missingDevice c i) true 99).addReg regColTimeouts 1) := by
  simp only [State.timeoutColl, hi] at hdue ⊢
  split at hdue
  case isTrue h => exact if_pos h
  case isFalse => cases hdue

theorem State.timeoutColl_of_none (hi : s.missingInput c = none) : s.timeoutColl c =
    some ((((s.abortTask c errMemberFailed).abortInfo c.group c.cseq errMemberFailed 0 false).setColl
      { c with taskEnded := true, aborted := errMemberFailed, closed := true, stake := false }).memberRecord 0) := by
  simp only [State.timeoutColl, hi] at hdue ⊢
  split at hdue
  case isTrue h => exact if_pos h
  case isFalse => cases hdue

end Timeout

section Rows

variable {s : State} {g : Nat} {c : Coll}

/-- The group's collective that is late, if there is one, is the one that times out. -/
theorem exec_collectiveTimeout {t : State} (hc : s.col.colls.find?
      (fun c => c.group == g && c.aborted == 0 && (s.quiet.timeoutColl c).isSome) = some c)
    (ht : (s.quiet.timeoutColl c).isSome = true → s.quiet.timeoutColl c = some t) :
    exec (.collectiveTimeout g) s = .next t := by
  have hdue : (s.quiet.timeoutColl c).isSome = true := (Bool.and_eq_true _ _ ▸ List.find?_some hc).2
  have hc' : s.quiet.col.colls.find?
    (fun c => c.group == g && c.aborted == 0 && (s.quiet.timeoutColl c).isSome) = some c := hc
  show execCollectiveTimeout g s = _
  rw [execCollectiveTimeout]
  refine attempt_of_some ?_
  simp only [hc']
  exact ht hdue

theorem exec_closingTimeout (hc : s.col.colls.find? (fun c => c.group == g && c.aborted == 0 &&
      (s.parentPort g).isNone && (c.doneTime.any fun a => decide (a + s.colTimeout ≤ s.time))) = some c) :
    exec (.closingTimeout g) s = .next (s.quiet.rootCloses c true) := by
  have hc' : s.quiet.col.colls.find? (fun c => c.group == g && c.aborted == 0 && (s.quiet.parentPort g).isNone &&
    (c.doneTime.any fun a => decide (a + s.quiet.colTimeout ≤ s.quiet.time))) = some c := hc
  show execClosingTimeout g s = _
  rw [execClosingTimeout]
  refine attempt_of_some ?_
  simp only [hc']

/-! ### Exchanges (R392) -/

theorem exec_xcountTimeout {q m : Nat} {x : Xchg} (hx : s.xchg? q = some x)
    (hdue : x.entered = true ∧ x.decided = false ∧ x.aborted = 0 ∧ x.entryTime + s.colTimeout ≤ s.time)
    (hm : (x.members.find? fun m => (x.header m).isNone) = some m) :
    exec (.xcountTimeout q) s = .next ((s.quiet.abortXchg x errCollTimeout m true).addReg regColTimeouts 1) := by
  have hx' : s.quiet.xchg? q = some x := hx
  show execXcountTimeout q s = _
  rw [execXcountTimeout]
  refine attempt_of_some ?_
  simp only [hx', hm]
  exact if_pos hdue

end Rows

/-! ### The group table (R370, R395) -/

/-- The register of word `w` of an entry, and the bits of it that hold fields. -/
def groupWord (g w : Nat) : Nat := [regColGroup g, regColGroupW1 g, regColGroupW2 g, regColGroupW3 g].getD w 0
def groupMask (w : Nat) : Nat := [0, 0xFFFFFFFF00000000, 0x3FFF3FFF3FFF0000, 0xFFFF1FFFFFFF7FFF].getD w 0

theorem regColGroupCseq_range {g : Nat} (hg : g < 4096) :
    0xc30000 ≤ regColGroupCseq g ∧ regColGroupCseq g < 0xd00000 := by
  simp only [regColGroupCseq]
  omega

section Group

variable {g w : Nat} (hw : w < 4)
include hw

/-- The words of the table lie before the counts of the groups. -/
theorem groupWord_range (hg : g < 4096) : 0xc10000 ≤ groupWord g w ∧ groupWord g w < 0xc30000 := by
  match w, hw with
  | 0, _ | 1, _ | 2, _ | 3, _ =>
    simp only [groupWord, regColGroup, regColGroupW1, regColGroupW2, regColGroupW3, List.getD_cons_zero,
      List.getD_cons_succ]
    omega

theorem State.writeGroup_of_halted {s : State} (hhalted : s.halted 13 = true) (hg : 1 ≤ g) (v : Nat) :
    s.writeGroup g w v = (s.setReg (groupWord g w) (v &&& groupMask w)).setReg (regColGroupCseq g) 0 := by
  refine ((if_neg (by omega)).trans (State.whWrite_of_halted hhalted _)).trans ?_
  match w, hw with
  | 0, _ | 1, _ | 2, _ | 3, _ => rfl

end Group

/-- Settles O53: a time-out is the branch of its row for what is missing, and a group write sets two registers that
differ. -/
theorem collectivesTimeOutAndGroupsAreWritten : Obligations.CollectivesTimeOutAndGroupsAreWritten := by
  intro s g hs
  refine ⟨fun c hc => ⟨fun i hi => ?missing, fun hi => ?stopped⟩, fun c hc => exec_closingTimeout hc,
    fun q m x hx hentered hdecided haborted hdue hm => exec_xcountTimeout hx ⟨hentered, hdecided, haborted, hdue⟩ hm,
    fun w v hready hhalted h1 hg hw => ?write⟩
  case missing => exact exec_collectiveTimeout hc fun hdue => State.timeoutColl_of_missing hdue hi
  case stopped => exact ⟨_, _, exec_collectiveTimeout hc fun hdue => State.timeoutColl_of_none hdue hi, rfl, rfl⟩
  case write =>
    obtain ⟨hlo, hhi⟩ := groupWord_range hw hg
    obtain ⟨hclo, hchi⟩ := regColGroupCseq_range hg
    have hne : groupWord g w ≠ regColGroupCseq g := by omega
    have hrise : Rising s.quiet.regs := hs.regs.1
    have hrise' := State.setReg_rising s.quiet (groupWord g w) (v.toNat &&& groupMask w) hrise
    have hx := exec_colGroupWrite hready hg hw v
    rw [State.writeGroup_of_halted (s := s.quiet) hw hhalted h1] at hx
    have hword : s.OnlyRegs (s.quiet.setReg (groupWord g w) (v.toNat &&& groupMask w))
        [groupWord g w, regColGroupCseq g] :=
      (State.OnlyRegs.quiet s _).setReg (by simp) (byteReg_of_fabric (by omega) (by omega)) _
    refine ⟨_, hx, ?_, State.reg_setReg_same _ _ _ hrise' (by decide),
      hword.setReg (by simp) (byteReg_of_fabric (by omega) (by omega)) _⟩
    exact (State.reg_setReg_other _ _ _ _ hne).trans
      (State.reg_setReg_same _ _ _ hrise (Nat.and_le_left.trans_lt v.isLt))

end Sys2Proof.Machine
end

section
/-! The Scheduler: writes of its settings and periods (R400, R403, R419), pre-emption and the end of a turn (R406 to
R410), and LOCAL residency (R416). -/

namespace Sys2Proof.Machine

open Sys2Proof

/-! ### Writes under the admission test (R400, R419) -/

/-- What SCH_CTRL keeps of a value. -/
def schCtrlWord (v : Nat) : Nat := getBits v 63 22 * 2 ^ 22 + getBits v 15 8 * 2 ^ 8 + min 8 (getBits v 3 0)

theorem schCtrlWord_lt (v : Nat) : schCtrlWord v < 2 ^ 64 := by
  have hhigh : getBits v 63 22 < 2 ^ 42 := getBits_lt v 63 22
  have hmid : getBits v 15 8 < 2 ^ 8 := getBits_lt v 15 8
  rw [schCtrlWord]
  omega

/-- The fields of SCH_CTRL lie apart in the word kept. -/
theorem getBits_schCtrlWord (v : Nat) : getBits (schCtrlWord v) 63 22 = getBits v 63 22 ∧
    getBits (schCtrlWord v) 15 8 = getBits v 15 8 ∧ getBits (schCtrlWord v) 3 0 = min 8 (getBits v 3 0) := by
  have hhigh : getBits v 63 22 < 2 ^ 42 := getBits_lt v 63 22
  have hmid : getBits v 15 8 < 2 ^ 8 := getBits_lt v 15 8
  rw [schCtrlWord]
  generalize getBits v 63 22 = a, getBits v 15 8 = b, getBits v 3 0 = c at *
  simp only [getBits, Nat.shiftRight_eq_div_pow]
  omega

/-- The settings that a write of SCH_CTRL tests: those of every stream. -/
theorem State.lcSettings_all (s : State) : s.lcSettings 64 0 = (List.range 64).map fun i => s.reg (regSchLc i) :=
  List.map_congr_left fun _ hi => if_neg (Nat.ne_of_lt (List.mem_range.mp hi))

/-- ADMIT_REJECT set, and nothing else changed. -/
theorem State.admitReject_spec {s : State} (hs : s.Canonical) :
    (s.quiet.setBit regSchStatus 4 true).bit regSchStatus 4 = true ∧
      s.OnlyRegs (s.quiet.setBit regSchStatus 4 true) [regSchStatus] :=
  ⟨State.bit_setBit_same _ _ _ _ hs.regs.1 (by decide), (State.OnlyRegs.quiet s _).setReg (by simp) (by decide) _⟩

section Settings

variable {s : State} (hh : s.halted 1 = true)
include hh

theorem State.writeLc_of_admitted {n v : Nat}
    (h : admitOk (s.lcSettings n v) (s.fld regSchCtrl 47 32) (s.fld regSchCtrl 31 22) = true) :
    s.writeLc n v = s.setReg (regSchLc n) v := (State.whWrite_of_halted hh _).trans (if_pos h)

theorem State.writeLc_of_rejected {n v : Nat}
    (h : admitOk (s.lcSettings n v) (s.fld regSchCtrl 47 32) (s.fld regSchCtrl 31 22) = false) :
    s.writeLc n v = s.setBit regSchStatus 4 true :=
  (State.whWrite_of_halted hh _).trans (if_neg (Bool.eq_false_iff.mp h))

theorem State.writeSchCtrl_of_taken {v : Nat}
    (h : admitOk (s.lcSettings 64 0) (getBits v 47 32) (getBits v 31 22) = true ∨
      (getBits v 47 32 = s.fld regSchCtrl 47 32 ∧ getBits v 31 22 = s.fld regSchCtrl 31 22)) :
    s.writeSchCtrl v = s.setReg regSchCtrl (schCtrlWord v) := by
  refine (State.whWrite_of_halted hh _).trans (if_neg ?_)
  rcases h with hok | ⟨hblock, hutil⟩
  · simp [hok]
  · simp [hblock, hutil]

theorem State.writeSchCtrl_of_rejected {v : Nat}
    (hbad : admitOk (s.lcSettings 64 0) (getBits v 47 32) (getBits v 31 22) = false)
    (hchanges : getBits v 47 32 ≠ s.fld regSchCtrl 47 32 ∨ getBits v 31 22 ≠ s.fld regSchCtrl 31 22) :
    s.writeSchCtrl v = s.setBit regSchStatus 4 true :=
  (State.whWrite_of_halted hh _).trans (if_pos (by simpa [hbad] using hchanges))

end Settings

/-! ### Periods (R400, R403) -/

/-- A word read in two's complement. -/
theorem toSigned_eq_bmod {v : Nat} (hv : v < 2 ^ 64) : toSigned 64 v = (v : Int).bmod (2 ^ 64) := by
  have hbit : bitOf v 63 = true ↔ 2 ^ 63 ≤ v := by
    simp only [bitOf, getBits, Nat.shiftRight_eq_div_pow, beq_iff_eq]
    omega
  simp only [toSigned, Nat.add_one_sub_one, hbit, Int.bmod]
  split <;> split <;> omega

/-- A remainder of the budget that was set reads as it was. -/
theorem State.remain_setRemain {s : State} (hs : Rising s.regs) (n : Nat) {v : Int} (hlo : -2 ^ 63 ≤ v)
    (hhi : v < 2 ^ 63) : (s.setRemain n v).remain n = v := by
  have hpos : 0 ≤ v % 2 ^ 64 := Int.emod_nonneg v (by decide)
  have hword : (v % (2 ^ 64 : Int)).toNat < 2 ^ 64 := by omega
  rw [State.remain, State.setRemain, State.reg_setReg_same _ _ _ hs hword, toSigned_eq_bmod hword,
    Int.toNat_of_nonneg hpos, Int.bmod]
  split <;> omega

/-- The budget of a new period is a 64-bit number, whatever the debt. -/
theorem State.freshRemain_bounds (s : State) (n : Nat) : -2 ^ 63 ≤ s.freshRemain n ∧ s.freshRemain n < 2 ^ 63 := by
  have hbudget : s.lcBudget n < 2 ^ 32 := getBits_lt _ 31 0
  have hdebt : -2 ^ 63 ≤ s.remain n := by
    rw [State.remain, toSigned_eq_bmod (s.reg_lt _)]
    exact Int.le_bmod (by decide)
  rw [State.freshRemain]
  omega

theorem exec_lcPeriodStart {s : State} {n : Nat} (h : s.periodDue n = true) :
    exec (.lcPeriodStart n) s = .next (s.quiet.beginPeriod n).startPreempts := by
  have hq : s.quiet.periodDue n = true := h
  show execLcPeriodStart n s = _
  exact attempt_of_some (if_pos hq)

section BeginPeriod

variable (s : State) (n : Nat)

theorem State.beginPeriod_remain (hs : Rising s.regs) : (s.beginPeriod n).remain n = s.freshRemain n :=
  State.remain_setRemain hs n (s.freshRemain_bounds n).1 (s.freshRemain_bounds n).2

theorem State.beginPeriod_periodStart : (s.beginPeriod n).periodStart n = s.time := by
  have hlen : n < (s.sched.periods ++ List.replicate (n + 1 - s.sched.periods.length) 0).length := by
    rw [List.length_append, List.length_replicate]
    omega
  show (((s.sched.periods ++ List.replicate (n + 1 - s.sched.periods.length) 0).set n s.time).getD n 0) = _
  rw [List.getD_eq_getElem?_getD, List.getElem?_set_self hlen, Option.getD_some]

/-- The frame of a period that begins: the remainder, and the Scheduler's note of the start. -/
theorem State.beginPeriod_onlyRegs (hn : n < 64) :
    s.OnlyRegs { s.beginPeriod n with sched := s.sched } [regSchLcRemain n] :=
  s.onlyRegs_setReg (regSchLcRemain n) _ (byteReg_of_lt (by simp only [regSchLcRemain]; omega))

end BeginPeriod

/-- Settles O25: each write is the branch of `writeLc` or `writeSchCtrl` that the test selects, and a period that is due
begins. -/
theorem latencyCriticalSettingsAndPeriods : Obligations.LatencyCriticalSettingsAndPeriods := by
  intro s n v hs hn
  have hrise : Rising s.quiet.regs := hs.regs.1
  have hframe {o : Nat} (ho : o < 0x600000) (w : Nat) : s.OnlyRegs (s.quiet.setReg o w) [o] :=
    (State.OnlyRegs.quiet s _).setReg (by simp) (byteReg_of_lt ho) w
  refine ⟨fun hr hh => ⟨fun hok => ?admitted, fun hbad => ?rejected, fun hok => ?taken, fun hbad hchanges => ?discarded⟩,
    fun hdue => ?period⟩
  case admitted =>
    refine ⟨_, exec_schLcWrite hr hn v, ?_⟩
    rw [State.writeLc_of_admitted (s := s.quiet) hh hok]
    exact ⟨State.reg_setReg_same _ _ _ hrise v.isLt, hframe (by simp only [regSchLc]; omega) _⟩
  case rejected =>
    refine ⟨_, exec_schLcWrite hr hn v, ?_⟩
    rw [State.writeLc_of_rejected (s := s.quiet) hh hbad]
    exact State.admitReject_spec hs
  case taken =>
    rw [← State.lcSettings_all] at hok
    have hword := State.reg_setReg_same s.quiet regSchCtrl _ hrise (schCtrlWord_lt v.toNat)
    obtain ⟨hhigh, hmid, hlow⟩ := getBits_schCtrlWord v.toNat
    refine ⟨_, exec_schCtrlWrite hr v, ?_⟩
    rw [State.writeSchCtrl_of_taken (s := s.quiet) hh hok, State.fld, State.fld, State.fld, hword]
    exact ⟨hhigh, hmid, hlow, hframe (by decide) _⟩
  case discarded =>
    rw [← State.lcSettings_all] at hbad
    refine ⟨_, exec_schCtrlWrite hr v, ?_⟩
    rw [State.writeSchCtrl_of_rejected (s := s.quiet) hh hbad hchanges]
    exact State.admitReject_spec hs
  case period =>
    exact ⟨_, exec_lcPeriodStart (decide_eq_true ⟨hn, hdue⟩), s.quiet.beginPeriod_remain n hrise,
      s.quiet.beginPeriod_periodStart n,
      s.onlyRegs_quiet.trans (s.quiet.beginPeriod_onlyRegs n hn) (by simp) fun _ ho => ho⟩

/-! ### Pre-emption, turns and residency (R406 to R410, R416) -/

theorem exec_preemptionComplete {s : State} {q : Nat} {t : Task} (ht : s.task? q = some t) (hpreempt : t.preempt = true)
    (hrun : t.phase = .running) (hgoes : s.stopped = false)
    (hboundary : engineOf t.opcode ≠ some 0 ∨ s.coreBoundary t = true) :
    exec (.preemptionComplete q) s = .next (s.quiet.park t).resumeParked.takeUpReplies := by
  have htask : s.quiet.task? q = some t := ht
  show execPreemptionComplete q s = _
  rw [execPreemptionComplete]
  refine attempt_of_some ?_
  simp only [htask]
  exact if_pos ⟨hpreempt, hrun, hgoes, hboundary⟩

theorem exec_turnEnd {s : State} {e j : Nat} {t : Task} (hturn : s.sched.turn.getD e none = some j)
    (hholder : ((s.holders e).find? fun t => jobIdx t == j && !t.lc) = some t)
    (hspent : (s.quiet.accrue t).1.deficit j e ≤ 0) (hgoes : s.stopped = false) :
    exec (.turnEnd e) s = .next ((s.quiet.accrue t).1.endTurnHeld e j (s.quiet.accrue t).2) := by
  have hholder' : ((s.quiet.holders e).find? fun t => jobIdx t == j && !t.lc) = some t := hholder
  show execTurnEnd e s = _
  rw [execTurnEnd]
  refine attempt_of_some ?_
  simp only [State.quiet_sched, hturn, hholder']
  exact if_pos ⟨hspent, hgoes⟩

/-- The copies of entry `i` of image `j` can complete: the entry is in force, LOCAL and not yet READY, it lies within its
image, and the image before has no reader left (R416, R417). -/
structure State.CopyDue (s : State) (i j : Nat) : Prop where
  valid : s.resValid i = true
  isLocal : s.resLocal i = true
  fits : s.resSpilled i = false
  pending : s.resReady i = false
  within : s.resFirst i + s.resPages i ≤ s.imgPages j
  unread : s.oldReaders j = false
  started : s.ready = true

/-- The copies done: the stores written, and the Scheduler's list of copies brought up to date. -/
theorem State.residencyCopied_of_due {s : State} {i j : Nat} (hj : s.activeImage (s.resVersion i) = some j)
    (h : s.CopyDue i j) :
    ∃ l, s.residencyCopied i = some
      (({ s.copyLocal i j with sched := { (s.copyLocal i j).sched with copied := l } } : State).setRes i false true) := by
  obtain ⟨hvalid, hlocal, hfits, hpending, hwithin, hunread, hstarted⟩ := h
  simp only [State.residencyCopied, hj]
  exact ⟨_, if_pos ⟨hvalid, hlocal, hfits, hpending, hwithin, hunread, hstarted⟩⟩

theorem exec_residencyCopyComplete {s u : State} {i : Nat} (hi : i < 64) (h : s.quiet.residencyCopied i = some u) :
    exec (.residencyCopyComplete i) s = .next u := by
  show execResidencyCopyComplete i s = _
  exact attempt_of_some ((if_pos hi).trans h)

/-- Settles O26: each command answers by the branch of its row that the hypotheses select. -/
theorem turnsAndPreemptions : Obligations.TurnsAndPreemptions := by
  intro s
  refine ⟨fun q t ht hpreempt hrun hgoes hboundary => exec_preemptionComplete ht hpreempt hrun hgoes hboundary,
    fun e j t hturn hholder hgoes hspent => exec_turnEnd hturn hholder hspent hgoes,
    fun i j hi hr hj hvalid hlocal hfits hpending hwithin hunread => ?_⟩
  have hdue : s.quiet.CopyDue i j := ⟨hvalid, hlocal, hfits, hpending, hwithin, hunread, hr⟩
  obtain ⟨l, hcopied⟩ := State.residencyCopied_of_due (s := s.quiet) hj hdue
  exact ⟨_, exec_residencyCopyComplete hi hcopied, _, rfl, rfl⟩

end Sys2Proof.Machine
end

section
/-! What storing bytes and recording events leave alone beside the registers: the work in the engines, the cores that
wait for a patch, and the trig points (R227, R420, R421). -/

namespace Sys2Proof.Machine

open Sys2Proof

/-- From `s` to `t` bytes are stored and events recorded: of what is no register, only memory, its poison marks, the
books of the stacks and of the window, the dirty pages, the newest record and the outputs may change. -/
def State.Logs (s t : State) : Prop :=
  ∃ regs mem poison hbm odl dirty newest out, t = { s with
    regs := regs, mem := mem, poison := poison, hbm := hbm, odl := odl, out := out
    rru := { s.rru with dirty := dirty, newest := newest } }

namespace State.Logs

theorem refl (s : State) : s.Logs s := ⟨_, _, _, _, _, _, _, _, rfl⟩

theorem trans {s t u : State} (h : s.Logs t) (g : t.Logs u) : s.Logs u := by
  obtain ⟨_, _, _, _, _, _, _, _, rfl⟩ := h
  obtain ⟨_, _, _, _, _, _, _, _, rfl⟩ := g
  exact ⟨_, _, _, _, _, _, _, _, rfl⟩

theorem foldl {α : Type} {f : State → α → State} (hf : ∀ (z : State) (a : α), z.Logs (f z a)) (l : List α)
    (s : State) : s.Logs (l.foldl f s) :=
  List.foldlRecOn (motive := fun t => s.Logs t) l f (refl s) fun t ht a _ => ht.trans (hf t a)

section Fields

variable {s t : State} (h : s.Logs t)
include h

theorem cores : t.cores = s.cores := by obtain ⟨_, _, _, _, _, _, _, _, rfl⟩ := h; rfl
theorem runs : t.runs = s.runs := by obtain ⟨_, _, _, _, _, _, _, _, rfl⟩ := h; rfl
theorem rme : t.rme = s.rme := by obtain ⟨_, _, _, _, _, _, _, _, rfl⟩ := h; rfl
theorem col : t.col = s.col := by obtain ⟨_, _, _, _, _, _, _, _, rfl⟩ := h; rfl
theorem patching : t.rru.patching = s.rru.patching := by obtain ⟨_, _, _, _, _, _, _, _, rfl⟩ := h; rfl
theorem trig : t.rru.trig = s.rru.trig := by obtain ⟨_, _, _, _, _, _, _, _, rfl⟩ := h; rfl

end Fields

end State.Logs

section Stored

variable (s : State)

theorem State.setReg_logs (off v : Nat) : s.Logs (s.setReg off v) := ⟨_, _, _, _, _, _, _, _, rfl⟩

theorem State.trimWindow_logs : s.Logs s.trimWindow := by
  refine .foldl (fun z _ => ?_) _ s
  split
  · exact ⟨_, _, _, _, _, _, _, _, rfl⟩
  · exact .refl z

theorem State.darnWrite_logs (a : Nat) : s.Logs (s.darnWrite a) := by
  have hhbm (h : Hbm) : s.Logs { s with hbm := h } := ⟨_, _, _, _, _, _, _, _, rfl⟩
  unfold State.darnWrite
  dsimp only
  split
  · split
    · split
      · exact hhbm _
      · split
        · exact hhbm _
        · exact .refl s
    · exact .refl s
  · exact .refl s

theorem State.land_logs (a : Nat) (bs : List Byte) : s.Logs (s.land a bs) := by
  have hstore (z : State) : z.Logs (z.store a bs) := ⟨_, _, _, _, _, _, _, _, rfl⟩
  have hwindow : s.Logs (s.storeWindow a bs) := ⟨_, _, _, _, _, _, _, _, rfl⟩
  unfold State.land
  split
  · split
    · exact .refl s
    · exact hwindow.trans (State.trimWindow_logs _)
  · split
    · exact .refl s
    · exact (s.darnWrite_logs a).trans (hstore _)
  · split
    · exact .refl s
    · exact hstore s
  · exact .refl s
  · exact hstore s

theorem State.putRing_logs (off : Nat) (bs : List Byte) : s.Logs (s.putRing off bs) := by
  unfold State.putRing
  split
  · refine .foldl (fun z p => ?_) _ s
    split
    · exact z.setReg_logs _ _
    · exact z.land_logs _ _
  · exact .refl s

theorem State.alert_logs (i : Nat) : s.Logs (s.alert i) := by
  unfold State.alert
  split
  · exact .refl s
  · have hbit : s.Logs (s.setBit regStwAlert i true) := s.setReg_logs _ _
    refine hbit.trans ?_
    unfold State.ibi
    split
    · exact ⟨_, _, _, _, _, _, _, _, rfl⟩
    · exact .refl _

theorem State.recordNew_logs (r : ErrRec) : s.Logs (s.recordNew r) := by
  by_cases h : s.reg regRruErrHead - s.reg regRruErrTail ≥ s.reg regRruErrSlots
  · rw [State.recordNew_of_full h]
    exact s.setReg_logs _ _
  · have hnoted (z : State) (n : Option (Nat × Nat × Nat × Nat × Nat)) : z.Logs (z.noteNewest n) :=
      ⟨_, _, _, _, _, _, _, _, rfl⟩
    have hfilled : s.Logs (s.slotFilled r) :=
      (((s.putRing_logs _ _).trans (hnoted _ _)).trans (State.setReg_logs _ _ _)).trans (State.setReg_logs _ _ _)
    rw [State.recordNew_of_room h]
    split
    · exact hfilled.trans (State.alert_logs _ _)
    · exact hfilled

theorem State.record_logs (r : ErrRec) : s.Logs (s.record r) := by
  have hcount : s.Logs (s.addReg (regRruCount r.kind) 1) := s.setReg_logs _ _
  unfold State.record
  dsimp only
  split
  · split
    · exact hcount.trans (State.putRing_logs _ _ _)
    · exact hcount.trans (State.recordNew_logs _ _)
  · exact hcount.trans (State.recordNew_logs _ _)

theorem State.put_logs (a : Nat) (bs : List Byte) : s.Logs (s.put a bs) := by
  unfold State.put
  split
  · exact .refl s
  · split
    · exact s.record_logs _
    · exact s.land_logs a bs

theorem State.putBytes_logs (a : Nat) (bs : List Byte) : s.Logs (s.putBytes a bs) := by
  refine .foldl (fun z p => ?_) _ s
  exact z.put_logs p.1 p.2

/-! ### Registers and tasks -/

theorem State.modRru_reg (f : Rru → Rru) (o : Nat) : (s.modRru f).reg o = s.reg o := State.reg_congr rfl rfl o

/-- A record moves the counter of its event and the registers of `noticeRegs`, and no other. -/
theorem State.record_reg_other (r : ErrRec) {o : Nat} (hcount : o ≠ regRruCount r.kind) (ho : o ∉ noticeRegs) :
    (s.record r).reg o = s.reg o :=
  ((s.record_notices r).reg o ho).trans (s.reg_addReg_other _ _ _ hcount)

/-- An ACCESS event moves no register but those of `noticeRegs`. -/
theorem State.record_notices_access {r : ErrRec} (hkind : r.kind = 0x0D) : s.Notices (s.record r) :=
  have hcount : s.Notices (s.addReg (regRruCount r.kind) 1) := s.setReg_notices (by rw [hkind]; decide) _
  hcount.trans (s.record_notices r)

theorem State.put_notices (a : Nat) (bs : List Byte) : s.Notices (s.put a bs) := by
  unfold State.put
  split
  · exact .refl s
  · split
    · exact s.record_notices_access rfl
    · exact s.land_notices a bs

theorem State.putBytes_notices (a : Nat) (bs : List Byte) : s.Notices (s.putBytes a bs) := by
  refine .foldl (fun z p => ?_) _ s
  exact z.put_notices p.1 p.2

theorem State.scrambleBytes_notices (a n : Nat) : s.Notices (s.scrambleBytes a n) :=
  (s.putBytes_notices a _).trans ⟨rfl, rfl, rfl, fun _ _ => State.reg_congr rfl rfl _⟩

theorem State.scrambleOutputs_notices (t : Task) : s.Notices (s.scrambleOutputs t) := by
  unfold State.scrambleOutputs
  split
  · exact .refl s
  · refine .foldl (fun z _ => .foldl (fun y r => ?_) _ z) _ s
    exact y.scrambleBytes_notices r.1 r.2

end Stored

end Sys2Proof.Machine
end

section
/-! Cores that fail: fenced, counted for an error of their local store, patched by the spare of their cluster, or lost
(R422, R425 to R427). -/

namespace Sys2Proof.Machine

open Sys2Proof

/-! ### Runs put back on the list (R182) -/

theorem State.mem_listRun {s : State} {r x : Run} : x ∈ (s.listRun r).runs ↔ x = r ∨ x ∈ s.runs := by
  have hsplit := congrArg (x ∈ ·) (List.takeWhile_append_dropWhile (p := fun y : Run => y.ahead r) (l := s.runs))
  simp only [List.mem_append, eq_iff_iff] at hsplit
  simp only [State.listRun, List.mem_append, List.mem_singleton, ← hsplit]
  tauto

theorem State.mem_foldl_listRun {x : Run} (l : List Run) (s : State) :
    x ∈ (l.foldl State.listRun s).runs ↔ x ∈ l ∨ x ∈ s.runs := by
  induction l generalizing s with
  | nil => simp
  | cons r l ih =>
    rw [List.foldl_cons, ih, State.mem_listRun, List.mem_cons]
    tauto

theorem State.foldl_listRun_eq (l : List Run) (s : State) :
    l.foldl State.listRun s = { s with runs := (l.foldl State.listRun s).runs } := by
  induction l generalizing s with
  | nil => rfl
  | cons r l ih => exact ih (s.listRun r)

theorem State.core_congr {s t : State} (h : t.cores = s.cores) (k : Nat) : t.core k = s.core k := by
  rw [State.core, State.core, h]

theorem State.core_setCore_idle (s : State) (k : Nat) : (s.setCore (CoreSt.idle k)).core k = CoreSt.idle k := by
  have hnone : (s.setCore (CoreSt.idle k)).cores.find? (fun c => c.phys == k) = none := by
    simp only [State.setCore, List.find?_eq_none, List.mem_append, List.mem_filter, decide_eq_true_eq, beq_iff_eq]
    rintro c ((⟨-, hlt⟩ | hmem) | ⟨-, hlt⟩)
    · exact Nat.ne_of_lt hlt
    · simp [CoreSt.idle] at hmem
    · exact Nat.ne_of_gt hlt
  rw [State.core, hnone]
  rfl

/-! ### A core fenced (R425) -/

/-- A word of CORE_MAP with FENCED set and ACTIVE clear. -/
def fencedMap (m : Nat) : Nat := putBits (putBits m 29 29 1) 30 30 0

theorem fencedMap_lt {m : Nat} (h : m < 2 ^ 64) : fencedMap m < 2 ^ 64 :=
  putBits_lt _ _ _ _ (by decide) (by decide) (putBits_lt _ _ _ _ (by decide) (by decide) h)

theorem bitOf_fencedMap (m : Nat) : bitOf (fencedMap m) 29 = true ∧ bitOf (fencedMap m) 30 = false := by
  constructor
  · rw [bitOf_eq_testBit, fencedMap, testBit_putBits _ _ _ _ _ (by decide) (by decide), ← bitOf_eq_testBit, bitOf,
      getBits_putBits _ _ _ _ (by decide)]
    rfl
  · rw [fencedMap, bitOf, getBits_putBits _ _ _ _ (by decide)]
    rfl

/-- The runs that a core holds. -/
def CoreSt.held (c : CoreSt) : List Run := c.cur.toList ++ c.next.toList

/-- The core holds nothing and is marked fenced, its runs are listed again. -/
def State.vacated (s : State) (k : Nat) : State :=
  (s.core k).held.foldl State.listRun ((s.setCore (CoreSt.idle k)).setReg (regCoreMap k) (fencedMap (s.coreMap k)))

/-- Its rerun is counted. -/
def State.rerunCounted (s : State) (k : Nat) : State :=
  if (s.core k).cur.isSome then (s.vacated k).addReg regCoreReruns 1 else s.vacated k

/-- Its block is listed again too, and it is excluded. -/
def State.excluded (s : State) (k : Nat) : State :=
  let z := s.rerunCounted k
  ({ z with vblocks := (s.core k).vec.toList ++ z.vblocks } : State).setBit (regRruCoreExclude (k / 64)) (k % 64) true

/-- A fenced core, before the cores of its cluster that no spare can replace are lost: a serving core waits for its
patch, and the fence of another is recorded. -/
def State.coreFenced (s : State) (k : Nat) : State :=
  if s.coreActive k then (s.excluded k).modRru fun r =>
    { r with patching := r.patching ++ [(k, s.time, false)], faultSeq := r.faultSeq ++ [(k, (s.core k).seq)] }
  else (s.excluded k).record { kind := 0x07, scope := 2, action := 2, unit := coreUnit k, detail := 0xFF }

theorem State.fenceCore_eq (s : State) (k : Nat) : s.fenceCore k = (s.coreFenced k).loseWaiting k := rfl

section Fenced

variable {s : State} {k : Nat}

theorem State.vacated_core : (s.vacated k).core k = CoreSt.idle k := by
  rw [State.vacated, State.foldl_listRun_eq]
  exact s.core_setCore_idle k

theorem State.held_subset_vacated {r : Run} (h : r ∈ (s.core k).held) : r ∈ (s.vacated k).runs :=
  (State.mem_foldl_listRun _ _).mpr (.inl h)

theorem State.vacated_regs : (s.vacated k).regs = (s.setReg (regCoreMap k) (fencedMap (s.coreMap k))).regs := by
  rw [State.vacated, State.foldl_listRun_eq]
  rfl

theorem State.vacated_reg (o : Nat) :
    (s.vacated k).reg o = (s.setReg (regCoreMap k) (fencedMap (s.coreMap k))).reg o := by
  rw [State.vacated, State.foldl_listRun_eq]
  exact State.reg_congr rfl rfl o

/-- The count of a rerun is a matter of one register. -/
theorem State.rerunCounted_cases (s : State) (k : Nat) :
    s.rerunCounted k = (s.vacated k).addReg regCoreReruns 1 ∨ s.rerunCounted k = s.vacated k := by
  unfold State.rerunCounted
  split
  · exact .inl rfl
  · exact .inr rfl

theorem State.rerunCounted_logs (s : State) (k : Nat) : (s.vacated k).Logs (s.rerunCounted k) := by
  rcases s.rerunCounted_cases k with h | h
  · rw [h]
    exact State.setReg_logs _ _ _
  · rw [h]
    exact .refl _

theorem State.rerunCounted_rising (h : Rising s.regs) : Rising (s.rerunCounted k).regs := by
  have hvacated : Rising (s.vacated k).regs := State.vacated_regs ▸ s.setReg_rising _ _ h
  rcases s.rerunCounted_cases k with e | e
  · rw [e]
    exact State.setReg_rising _ _ _ hvacated
  · rw [e]
    exact hvacated

theorem State.rerunCounted_coreMap (h : Rising s.regs) (hk : k < 180) :
    (s.rerunCounted k).reg (regCoreMap k) = fencedMap (s.coreMap k) := by
  have hvacated : (s.vacated k).reg (regCoreMap k) = fencedMap (s.coreMap k) :=
    (State.vacated_reg _).trans (s.reg_setReg_same _ _ h (fencedMap_lt (s.reg_lt _)))
  rcases s.rerunCounted_cases k with e | e
  · rw [e, State.reg_addReg_other _ _ _ _ (by simp only [regCoreMap, regCoreReruns]; omega), hvacated]
  · rw [e, hvacated]

theorem regRruCoreExclude_notMem_noticeRegs {i : Nat} (h : i < 4) : regRruCoreExclude i ∉ noticeRegs := by
  simp only [noticeRegs, regRruCount, regRruStatus, regRruErrHead, regOdlIrqPending, regStwAlert, regRruCoreExclude,
    List.mem_cons, List.not_mem_nil, or_false]
  omega

/-- A fenced core's registers stand after the step that notes it. -/
theorem State.coreFenced_frame {o : Nat} (hcount : o ≠ regRruCount 7) (ho : o ∉ noticeRegs) :
    (s.coreFenced k).reg o = (s.excluded k).reg o ∧ (s.coreFenced k).cores = (s.excluded k).cores ∧
      (s.coreFenced k).runs = (s.excluded k).runs := by
  unfold State.coreFenced
  split
  · exact ⟨State.reg_congr rfl rfl o, rfl, rfl⟩
  · have hlogs := (s.excluded k).record_logs
      { kind := 0x07, scope := 2, action := 2, unit := coreUnit k, detail := 0xFF }
    exact ⟨State.record_reg_other _ _ hcount ho, hlogs.cores, hlogs.runs⟩

/-- What is fenced holds nothing, is marked and excluded, and its runs are on the list. -/
theorem State.coreFenced_spec (h : Rising s.regs) (hk : k < 180) :
    (s.coreFenced k).bit (regCoreMap k) 29 = true ∧ (s.coreFenced k).bit (regCoreMap k) 30 = false ∧
      (s.coreFenced k).bit (regRruCoreExclude (k / 64)) (k % 64) = true ∧ (s.coreFenced k).core k = CoreSt.idle k ∧
      ∀ r ∈ (s.core k).held, r ∈ (s.coreFenced k).runs := by
  obtain ⟨hmapreg, hcores, hruns⟩ := s.coreFenced_frame (k := k) (o := regCoreMap k)
    (by simp only [regCoreMap, regRruCount]; omega) (not_mem_noticeRegs (by simp only [regCoreMap]; omega))
  obtain ⟨hexclreg, -, -⟩ := s.coreFenced_frame (k := k) (o := regRruCoreExclude (k / 64))
    (by simp only [regRruCoreExclude, regRruCount]; omega) (regRruCoreExclude_notMem_noticeRegs (by omega))
  have hmap : (s.coreFenced k).reg (regCoreMap k) = fencedMap (s.coreMap k) :=
    hmapreg.trans ((State.reg_setBit_other _ _ _ _ _ (by simp only [regCoreMap, regRruCoreExclude]; omega)).trans
      ((State.reg_congr rfl rfl _).trans (State.rerunCounted_coreMap h hk)))
  have hlogs := s.rerunCounted_logs k
  obtain ⟨hset, hclear⟩ := bitOf_fencedMap (s.coreMap k)
  refine ⟨?_, ?_, ?_, ?_, fun r hr => ?_⟩
  · rw [State.bit_eq_testBit, hmap, ← bitOf_eq_testBit, hset]
  · rw [State.bit_eq_testBit, hmap, ← bitOf_eq_testBit, hclear]
  · exact (State.bit_congr hexclreg _).trans
      (State.bit_setBit_same _ _ _ _ (State.rerunCounted_rising h) (Nat.mod_lt _ (by decide)))
  · exact (State.core_congr (hcores.trans hlogs.cores) k).trans State.vacated_core
  · rw [hruns]
    exact hlogs.runs ▸ State.held_subset_vacated hr

end Fenced

/-! ### CORE_FAULT_DETECT (R422, R425) -/

/-- A core whose fault is noticed: present, not fenced, and serving or a spare. -/
def State.faultable (s : State) (k : Nat) : Prop :=
  k < 180 ∧ bitOf (s.coreMap k) 29 = false ∧ (s.coreActive k = true ∨ s.coreSpare k = true)

theorem exec_coreFaultDetect {s t : State} {k : Nat} {c : CoreCause} (hgoes : s.stopped = false)
    (h : s.quiet.coreFault k c = some t) : exec (.coreFaultDetect k c) s = .next t := by
  show execCoreFaultDetect k c s = _
  rw [execCoreFaultDetect]
  refine attempt_of_some ?_
  have hgoes' : s.quiet.stopped = false := hgoes
  rw [hgoes']
  exact h

theorem State.coreFault_fault {s : State} {k : Nat} (h : s.faultable k) : s.coreFault k .fault = some (s.fenceCore k) :=
  if_pos h

/-- The uncorrectable words of the last 24 hours, this one with them. -/
def State.localHits (s : State) (k w : Nat) : List (Nat × Nat × Nat) :=
  (s.rru.localUe.filter fun x => decide (s.time < x.2.2 + dayNs)) ++ [(k, w, s.time)]

/-- This is the third of its word within 24 hours. -/
def State.thirdHit (s : State) (k w : Nat) : Bool :=
  decide (3 ≤ ((s.localHits k w).filter fun x => x.1 == k && x.2.1 == w).length)

/-- The address of a word in the store of a serving core, 0 for another word. -/
def State.localAddr (s : State) (k w : Nat) : Nat :=
  if decide (0xC0000 ≤ 8 * w) || !s.coreActive k then 0 else localBase + 0x100000 * s.fencedLogical k + 8 * w

/-- The record of the error (R422). -/
def State.localRecord (s : State) (k w : Nat) : ErrRec where
  kind := 0x06
  scope := if s.thirdHit k w then 2 else 1
  action := if decide (0xC0000 ≤ 8 * w) then 4 else 1
  unit := coreUnit k
  seq := (s.core k).seq
  addr := s.localAddr k w
  detail := w

/-- The error kept and recorded. -/
def State.localRecorded (s : State) (k w : Nat) : State :=
  (s.modRru fun r => { r with localUe := s.localHits k w }).record (s.localRecord k w)

/-- What the error costs: a rerun of what was staged, or the line of the store. -/
def State.localLost (s : State) (k w : Nat) : State :=
  let z := s.localRecorded k w
  if decide (0xC0000 ≤ 8 * w) then (if (s.core k).cur.isSome then z.addReg regCoreReruns 1 else z)
  else if s.coreActive k then z.poisonLine (s.localAddr k w / 64) else z

theorem State.coreFault_localUe {s : State} {k w : Nat} (h : s.faultable k) (hw : w < 131072) :
    s.coreFault k (.localUe w) =
      some (if s.thirdHit k w then (s.localLost k w).fenceCore k else s.localLost k w) :=
  (if_pos h).trans (if_neg (Nat.not_le.mpr hw))

/-- Two earlier ones make this the third. -/
theorem State.thirdHit_iff (s : State) (k w : Nat) : s.thirdHit k w = true ↔
    2 ≤ (s.rru.localUe.filter fun x => decide (s.time < x.2.2 + dayNs) && (x.1 == k && x.2.1 == w)).length := by
  have hswap : (fun x : Nat × Nat × Nat => (x.1 == k && x.2.1 == w) && decide (s.time < x.2.2 + dayNs)) =
      fun x => decide (s.time < x.2.2 + dayNs) && (x.1 == k && x.2.1 == w) := funext fun x => Bool.and_comm _ _
  simp only [State.thirdHit, State.localHits, List.filter_append, List.filter_filter, hswap, List.length_append]
  simp

theorem State.localLost_count {s : State} (h : Rising s.regs) (k w : Nat) :
    (s.localLost k w).reg (regRruCount 6) = (s.reg (regRruCount 6) + 1) % 2 ^ 64 := by
  have hrecorded : (s.localRecorded k w).reg (regRruCount 6) = (s.reg (regRruCount 6) + 1) % 2 ^ 64 :=
    State.record_count _ (s.localRecord k w) h (show regRruCount 6 ∉ noticeRegs by decide)
  unfold State.localLost
  dsimp only
  split
  · split
    · exact (State.reg_addReg_other _ _ _ _ (by decide)).trans hrecorded
    · exact hrecorded
  · split <;> exact hrecorded

/-- Above the stacks no address lies in HBM (R218). -/
theorem State.place_ne_hbm (s : State) {a : Nat} (h : localBase ≤ a) : s.place a ≠ .hbm := by
  have hlimit : s.smsLimit ≤ capacity s.variant := Nat.sub_le _ _
  have hcapacity : capacity s.variant < localBase := by cases s.variant <;> decide
  rw [State.place, if_neg (by omega)]
  split
  · dsimp only
    split
    · simp
    · split
      · simp
      · split <;> simp
  · split
    · dsimp only
      split <;> simp
    · split <;> simp

/-- A marked line reads poisoned outside the stacks, where no frame stands before it. -/
theorem State.poisoned_of_place {s : State} {a : Nat} (hmark : s.lineKey (a / 64) ∈ s.poison)
    (hplace : s.place a ≠ .hbm) : s.poisoned a = true := by
  unfold State.poisoned
  dsimp only
  rw [List.contains_iff_mem.mpr hmark]
  split
  · next h => exact absurd h hplace
  all_goals rfl

/-- The line of a word in a store that serves reads poisoned (R423). -/
theorem State.localLost_poisoned {s : State} {k w : Nat} (hw : 8 * w < 0xC0000) (hserves : s.coreActive k = true) :
    (s.localLost k w).poisoned (localBase + 0x100000 * s.fencedLogical k + 8 * w) = true := by
  have haddr : s.localAddr k w = localBase + 0x100000 * s.fencedLogical k + 8 * w := by
    rw [State.localAddr, decide_eq_false (by omega), hserves]
    rfl
  have hlost : s.localLost k w = (s.localRecorded k w).poisonLine (s.localAddr k w / 64) := by
    rw [State.localLost, decide_eq_false (by omega), hserves]
    rfl
  rw [← haddr, hlost]
  exact State.poisoned_of_place (mem_setInsert_self _ _) (State.place_ne_hbm _ (by rw [haddr]; omega))

/-! ### Patches and losses (R426, R427) -/

/-- The spare `p` takes the logical number of the fenced core `k`, which has none from now on. -/
def State.renumbered (s : State) (k : Nat) : State :=
  (s.setReg (regCoreMap (spareOf k)) (2 ^ 30 + s.fencedLogical k)).setFld (regCoreMap k) 7 0 0xFF

/-- A patched core, before the cores of its cluster that no spare can replace any more are lost. -/
def State.patched (s : State) (k : Nat) : State :=
  ((s.renumbered k).dropPatching k).record
    { kind := 0x07, scope := 2, action := 3, unit := coreUnit k, seq := s.faultTask k, detail := spareOf k }

theorem exec_patchComplete {s : State} {k : Nat}
    (hwaits : (s.rru.patching.any fun x => x.1 == k && (x.2.2 || s.autoPatch)) = true) (hspare : s.spareOk k = true)
    (hgoes : s.stopped = false) : exec (.patchComplete k) s = .next ((s.quiet.patched k).loseWaiting k) := by
  show execPatchComplete k s = _
  rw [execPatchComplete]
  exact attempt_of_some (if_pos ⟨hwaits, hspare, hgoes⟩)

section Patched

variable {s : State} {k : Nat}

theorem State.patched_coreMap {j : Nat} (hj : j < 180) :
    (s.patched k).reg (regCoreMap j) = (s.renumbered k).reg (regCoreMap j) :=
  (State.record_reg_low _ _ (by simp only [regCoreMap]; omega)).trans (State.reg_congr rfl rfl _)

theorem State.patched_spec (h : Rising s.regs) (hk : k < 180) :
    (∀ x ∈ (s.patched k).rru.patching, x.1 ≠ k) ∧ (s.patched k).fld (regCoreMap k) 7 0 = 0xFF ∧
      (k ≠ spareOf k → (s.patched k).coreMap (spareOf k) = 2 ^ 30 + s.fencedLogical k) := by
  have hspare : spareOf k < 180 := by simp only [spareOf]; omega
  have hlogical : s.fencedLogical k < 2 ^ 8 := getBits_lt _ 7 0
  refine ⟨fun x hx => ?_, ?_, fun hne => ?_⟩
  · rw [State.patched, (State.record_logs _ _).patching] at hx
    exact bne_iff_ne.mp (List.mem_filter.mp hx).2
  · exact (State.fld_congr (State.patched_coreMap hk) 7 0).trans
      (State.fld_setFld_same _ _ 7 0 0xFF (s.setReg_rising _ _ h) (by decide) (by decide))
  · rw [State.coreMap, State.patched_coreMap hspare, State.renumbered,
      State.reg_setFld_other _ _ _ _ _ _ (by simp only [regCoreMap]; omega), State.reg_setReg_same _ _ _ h (by omega)]

end Patched

theorem exec_patchGo {s : State} (hr : s.ready = true) (v : Word) :
    exec (.patchGo v) s = .next (s.quiet.writePatch v.toNat) := by
  show execPatchGo v s = _
  rw [execPatchGo]
  exact attempt_of_some (if_pos hr)

/-- A request of a patch for a core that waits. -/
def State.patchAsked (s : State) (k : Nat) : State :=
  s.modRru fun r => { r with patching := r.patching.map fun x => if x.1 = k then (x.1, x.2.1, true) else x }

theorem State.writePatch_go {s : State} {v : Nat} (h : bitOf v 31 = true) :
    s.writePatch v = (s.setReg regRruPatch (getBits v 7 0)).patchAsked (getBits v 7 0) :=
  if_pos h

theorem State.writePatch_select {s : State} {v : Nat} (h : bitOf v 31 = false) :
    s.writePatch v = s.setReg regRruPatch (getBits v 7 0) :=
  if_neg (by rw [h]; exact Bool.false_ne_true)

theorem State.patchAsked_requested (s : State) (k : Nat) :
    ∀ x ∈ (s.patchAsked k).rru.patching, x.1 = k → x.2.2 = true := by
  intro x hx hxk
  obtain ⟨y, -, rfl⟩ := List.mem_map.mp hx
  split at hxk
  · next h => rw [if_pos h]
  · next h => exact absurd hxk h

theorem exec_patchWaitTimeout {s : State} {k : Nat}
    (hlate : (s.rru.patching.any fun x => x.1 == k && !x.2.2 && decide (x.2.1 + 1000000 ≤ s.time)) = true)
    (hmanual : s.autoPatch = false) : exec (.patchWaitTimeout k) s = .next (s.quiet.loseCore k) := by
  show execPatchWaitTimeout k s = _
  rw [execPatchWaitTimeout]
  exact attempt_of_some (if_pos ⟨hlate, hmanual⟩)

end Sys2Proof.Machine
end

section
/-! Engines that fail, and the stop of the device (R429, R430). -/

namespace Sys2Proof.Machine

open Sys2Proof

/-! ### Engines (R422, R429) -/

/-- The record of an engine's fault under its task, with the action that follows. -/
def engineRecord (f q action : Nat) : ErrRec where
  kind := 0x08
  scope := 3
  action := action
  unit := unitWord 38 f
  seq := q
  detail := f

/-- An engine's fault recorded and counted for its task. -/
def State.engineFaulted (s : State) (f : Nat) (t : Task) (action : Nat) : State :=
  (s.record (engineRecord f t.seq action)).modTask t.seq fun x => { x with faults := x.faults + 1 }

theorem State.taskOn_mem {s : State} {f : Nat} {t : Task} (h : s.taskOn f = some t) : t ∈ s.tasks :=
  List.mem_of_find?_eq_some h

section EngineFault

variable {s : State} {k : Nat} {t : Task}

theorem exec_engineFaultDetect_again (hk : k ∈ [2, 3, 4, 6, 8]) (hgoes : s.stopped = false) (ht : s.taskOn k = some t)
    (hretry : s.bit regRruCtrl 2 = true) (hfirst : t.faults = 0) :
    exec (.engineFaultDetect k) s = .next (s.quiet.engineFaulted k t 7) := by
  have ht' : s.quiet.taskOn k = some t := ht
  have hagain : (s.quiet.bit regRruCtrl 2 && t.faults == 0) = true := by
    rw [hfirst]
    exact Bool.and_eq_true_iff.mpr ⟨hretry, rfl⟩
  show execEngineFaultDetect k s = _
  rw [execEngineFaultDetect]
  refine attempt_of_some ?_
  rw [if_pos ⟨List.contains_iff_mem.mpr hk, hgoes⟩, ht']
  simp only [hagain, if_true]
  rfl

theorem exec_engineFaultDetect_fence (hk : k ∈ [2, 3, 4, 6, 8]) (hgoes : s.stopped = false) (ht : s.taskOn k = some t)
    (h : s.bit regRruCtrl 2 = false ∨ t.faults ≠ 0) : exec (.engineFaultDetect k) s =
      .next (((s.quiet.engineFaulted k t 2).setBit regRruEngineFence k true).fencedTask t) := by
  have ht' : s.quiet.taskOn k = some t := ht
  have hagain : (s.quiet.bit regRruCtrl 2 && t.faults == 0) = false := by
    rw [Bool.and_eq_false_iff, beq_eq_false_iff_ne]
    exact h
  show execEngineFaultDetect k s = _
  rw [execEngineFaultDetect]
  refine attempt_of_some ?_
  rw [if_pos ⟨List.contains_iff_mem.mpr hk, hgoes⟩, ht']
  simp only [hagain, if_false, Bool.false_eq_true]
  rfl

theorem State.engineFaulted_tasks (action : Nat) : (s.engineFaulted k t action).tasks =
    s.tasks.map fun x => if x.seq = t.seq then { x with faults := x.faults + 1 } else x := by
  rw [← s.record_tasks (engineRecord k t.seq action)]
  rfl

theorem State.engineFaulted_count (h : Rising s.regs) (action : Nat) :
    (s.engineFaulted k t action).reg (regRruCount 8) = (s.reg (regRruCount 8) + 1) % 2 ^ 64 :=
  State.record_count _ (engineRecord k t.seq action) h (show regRruCount 8 ∉ noticeRegs by decide)

theorem State.engineFaulted_rising (h : s.Canonical) (action : Nat) : Rising (s.engineFaulted k t action).regs :=
  ((State.modTask_keeps (State.record_keeps (.refl s))).canonical h).regs.1

/-- The task of a fault stays on the list. -/
theorem State.mem_engineFaulted (h : t ∈ s.tasks) (action : Nat) :
    ∃ y ∈ (s.engineFaulted k t action).tasks, y.seq = t.seq := by
  rw [State.engineFaulted_tasks]
  refine ⟨_, List.mem_map_of_mem h, ?_⟩
  rw [if_pos rfl]

/-- A fenced task's outputs are scrambled, and its transfers and its exchange go; no task is touched. -/
theorem State.fencedTask_tasks (s : State) (t : Task) : (s.fencedTask t).tasks = s.tasks.map fun x =>
    if x.seq = t.seq then { x with phase := .ended, err := errUnitFenced, outcome := 2 } else x := by
  rw [← (s.scrambleOutputs_notices t).tasks]
  rfl

theorem State.fencedTask_ended {y : Task} (h : y ∈ s.tasks) (hseq : y.seq = t.seq) :
    ∃ x ∈ (s.fencedTask t).tasks, x.seq = t.seq ∧ x.phase = .ended ∧ x.err = errUnitFenced := by
  rw [State.fencedTask_tasks]
  refine ⟨_, List.mem_map_of_mem h, ?_⟩
  rw [if_pos hseq]
  exact ⟨hseq, rfl, rfl⟩

theorem State.fencedTask_xfersOf (s : State) (t : Task) : (s.fencedTask t).xfersOf t.seq = [] := by
  refine List.filter_eq_nil_iff.mpr fun x hx => ?_
  simpa using (List.mem_filter.mp hx).2

theorem State.fencedTask_xchg? (s : State) (t : Task) : (s.fencedTask t).xchg? t.seq = none := by
  refine List.find?_eq_none.mpr fun x hx => ?_
  simpa using (List.mem_filter.mp hx).2

end EngineFault

/-! ### The stop of the device (R430) -/

/-- No core, no run, no transfer and no collective is at work. -/
def State.NoWork (s : State) : Prop := s.cores = [] ∧ s.runs = [] ∧ s.rme.xfers = [] ∧ s.col.colls = []

theorem State.Logs.noWork {s t : State} (h : s.Logs t) (hs : s.NoWork) : t.NoWork := by
  rw [State.NoWork, h.cores, h.runs, h.rme, h.col]
  exact hs

theorem State.stopEngines_noWork (s : State) : s.stopEngines.NoWork := ⟨rfl, rfl, rfl, rfl⟩

/-- The engines stopped, and the fault recorded, or counted where the way to the record is lost. -/
def State.stopRecorded (s : State) (kind unit detail : Nat) (lost : Option Nat) : State :=
  let z := s.abortToward.stopEngines
  if z.pathWithout lost then z.record { kind := kind, scope := 6, action := 8, unit := unit, detail := detail }
  else z.addReg (regRruCount kind) 1

section Stop

variable {s : State} (kind unit detail : Nat) (lost : Option Nat)

theorem State.deviceStop_eq : s.deviceStop kind unit detail lost =
    ((s.stopRecorded kind unit detail lost).setBit regRruStatus 8 true).alert 1 := rfl

theorem State.stopRecorded_logs : s.abortToward.stopEngines.Logs (s.stopRecorded kind unit detail lost) := by
  unfold State.stopRecorded
  dsimp only
  split
  · exact State.record_logs _ _
  · exact State.setReg_logs _ _ _

theorem State.stopRecorded_rising (h : s.Canonical) : Rising (s.stopRecorded kind unit detail lost).regs := by
  have hidle : Keeps s s.abortToward.stopEngines := State.stopEngines_keeps (State.abortToward_keeps (.refl s))
  unfold State.stopRecorded
  dsimp only
  split
  · exact ((State.record_keeps hidle).canonical h).regs.1
  · exact ((State.addReg_keeps hidle).canonical h).regs.1

end Stop

/-- An alert shows in its bit and leaves the RRU's status. -/
theorem State.alert_spec {s : State} (h : Rising s.regs) {i : Nat} (hi : i < 64) :
    (s.alert i).bit regStwAlert i = true ∧ (s.alert i).reg regRruStatus = s.reg regRruStatus := by
  unfold State.alert
  split
  · next hset => exact ⟨hset, rfl⟩
  · have hibi (z : State) (o : Nat) : (z.ibi 0x02).reg o = z.reg o := by
      unfold State.ibi
      split
      · exact State.reg_congr rfl rfl o
      · rfl
    exact ⟨(State.bit_congr (hibi _ _) i).trans (State.bit_setBit_same _ _ _ _ h hi),
      (hibi _ _).trans (s.reg_setBit_other _ _ _ _ (by decide))⟩

theorem State.alertLow_of_bit {s : State} {i : Nat} (h : s.bit regStwAlert i = true) : s.alertLow = true := by
  rw [State.bit_eq_testBit] at h
  refine bne_iff_ne.mpr fun hzero => ?_
  rw [hzero, Nat.zero_testBit] at h
  exact Bool.false_ne_true h

/-- A device that has stopped is FATAL with its alert, and nothing is at work. -/
theorem State.deviceStop_spec {s : State} (h : s.Canonical) (kind unit detail : Nat) (lost : Option Nat) :
    (s.deviceStop kind unit detail lost).fatal = true ∧ (s.deviceStop kind unit detail lost).bit regStwAlert 1 = true ∧
      (s.deviceStop kind unit detail lost).alertLow = true ∧ (s.deviceStop kind unit detail lost).NoWork := by
  rw [State.deviceStop_eq]
  have hrise := State.stopRecorded_rising kind unit detail lost h
  obtain ⟨halert, hstatus⟩ := State.alert_spec (i := 1) (State.setReg_rising _ regRruStatus _ hrise) (by decide)
  have hfatal := State.bit_setBit_same _ regRruStatus 8 true hrise (by decide)
  have hidle := (State.stopRecorded_logs kind unit detail lost).noWork s.abortToward.stopEngines_noWork
  exact ⟨(State.bit_congr hstatus 8).trans hfatal, halert, State.alertLow_of_bit halert,
    (State.alert_logs _ 1).noWork ((State.setReg_logs _ _ _).noWork hidle)⟩

theorem exec_islandLost {s : State} {k : Nat} (hk : k < 40) (h : s.bit regGlbIslands k = true) :
    exec (.islandLost k) s =
      .next ((s.quiet.setBit regGlbIslands k false).deviceStop 0x0E (unitWord k 0) k (some k)) := by
  show execIslandLost k s = _
  rw [execIslandLost]
  exact attempt_of_some (if_pos ⟨h, hk⟩)

theorem exec_stewardWatchdog {s : State} (k : Nat) (h : s.bit regGlbIslands 38 = true) :
    exec (.stewardWatchdog k) s = .next (s.quiet.deviceStop 0x0F (unitWord 38 k) k none) := by
  show execStewardWatchdog k s = _
  rw [execStewardWatchdog]
  exact attempt_of_some (if_pos h)

/-- Settles O54: each row answers by the branch that its hypotheses select, and the states in between are those named
above. -/
theorem faultsFencePatchAndStop : Obligations.FaultsFencePatchAndStop := by
  intro s k hs
  have hrise : Rising s.quiet.regs := hs.regs.1
  have hquiet : s.quiet.Canonical := (State.quiet_keeps (.refl s)).canonical hs
  refine ⟨fun hk hgoes hserves hcore => ⟨?_, fun w hw => ?_⟩, fun hk hwaits hspare hgoes => ?_, fun v hr => ?_,
    fun hlate hmanual => exec_patchWaitTimeout hlate hmanual,
    fun t hk hgoes ht => ⟨fun hretry hfirst => ?_, fun h => ?_⟩, fun hk h => ?_, fun h => ?_⟩
  · have hfault : s.quiet.faultable k := ⟨hk, hserves, hcore⟩
    exact ⟨_, s.quiet.coreFenced k, exec_coreFaultDetect hgoes (State.coreFault_fault hfault), s.quiet.fenceCore_eq k,
      rfl, State.coreFenced_spec hrise hk⟩
  · have hfault : s.quiet.faultable k := ⟨hk, hserves, hcore⟩
    have hthird := s.quiet.thirdHit_iff k w
    exact ⟨_, s.quiet.localLost k w, exec_coreFaultDetect hgoes (State.coreFault_localUe hfault hw),
      if_congr hthird rfl rfl, State.localLost_count hrise k w,
      fun hstore hactive => State.localLost_poisoned hstore hactive⟩
  · exact ⟨_, _, exec_patchComplete hwaits hspare hgoes, rfl, State.patched_spec hrise hk⟩
  · have hset : s.OnlyRegs (s.quiet.setReg regRruPatch (getBits v.toNat 7 0)) [regRruPatch] :=
      (State.OnlyRegs.quiet s _).setReg (by simp) (by decide) _
    have hsel : getBits v.toNat 7 0 < 2 ^ 8 := getBits_lt _ 7 0
    have hreg := s.quiet.reg_setReg_same regRruPatch (getBits v.toNat 7 0) hrise (by omega)
    refine ⟨_, exec_patchGo hr v, ?_⟩
    cases hgo : bitOf v.toNat 31 with
    | true =>
      rw [State.writePatch_go hgo]
      exact ⟨hreg, fun _ => State.patchAsked_requested _ _, nofun, hset⟩
    | false =>
      rw [State.writePatch_select hgo]
      exact ⟨hreg, nofun, fun _ => rfl, hset⟩
  · exact ⟨_, exec_engineFaultDetect_again hk hgoes ht hretry hfirst, State.engineFaulted_tasks 7,
      State.engineFaulted_count hrise 7⟩
  · have hbit : k < 64 := by fin_cases hk <;> decide
    obtain ⟨y, hy, hseq⟩ := State.mem_engineFaulted (s := s.quiet) (k := k) (State.taskOn_mem ht) 2
    exact ⟨(s.quiet.engineFaulted k t 2).setBit regRruEngineFence k true, _, exec_engineFaultDetect_fence hk hgoes ht h,
      State.bit_setBit_same _ _ _ _ (State.engineFaulted_rising hquiet 2) hbit, State.fencedTask_ended hy hseq, rfl,
      State.fencedTask_xfersOf _ t, State.fencedTask_xchg? _ t⟩
  · exact ⟨_, exec_islandLost hk h, State.deviceStop_spec ((State.setBit_keeps (.refl _)).canonical hquiet) _ _ _ _⟩
  · exact ⟨_, exec_stewardWatchdog k h, State.deviceStop_spec hquiet _ _ _ _⟩

end Sys2Proof.Machine
end

section
/-! Trig points and region digests (R434 to R436, R442, R481). -/

namespace Sys2Proof.Machine

open Sys2Proof

/-! ### GO (R435) -/

theorem exec_trigGo {s : State} (hr : s.ready = true) (full : Bool) :
    exec (.trigGo full) s = .next (s.quiet.trigGo full) := by
  show execTrigGo full s = _
  rw [execTrigGo]
  exact attempt_of_some (if_pos hr)

/-- The pages that a trig point takes: those tracked, or of them the dirty ones. -/
def State.trigPageList (s : State) (full : Bool) : List Nat :=
  if full then s.trackedPages else s.trackedPages.filter s.rru.dirty.contains

/-- A trig point of these pages may start. -/
def State.TrigOk (s : State) (pages : List Nat) : Prop :=
  s.quietDevice = true ∧ trigSig pages.length + sigLen256f ≤ s.reg regRruTrigSize ∧ s.stopped = false

/-- A trig point as it starts, its header fixed. -/
def State.newTrig (s : State) (pages : List Nat) : Trig where
  base := s.reg regRruTrigBase
  pages := pages
  header := s.trigHead pages.length
  sigOff := trigSig pages.length
  digest := []
  signing := false

/-- DONE and SIGNED cleared. -/
def State.trigCleared (s : State) : State := (s.setBit regRruTrigCtrl 2 false).setBit regRruTrigCtrl 3 false

/-- A trig point started: the one before it keeps its place in the queue for signatures, and its pages are clean. -/
def State.trigStarted (s : State) (pages : List Nat) : State :=
  s.trigCleared.modRru fun r => { r with
    trig := some (s.newTrig pages), unsigned := r.unsigned ++ r.trig.toList
    dirty := r.dirty.filter fun p => !pages.contains p }

section TrigGo

variable {s z : State} {full : Bool} (hz : z = s.setBit regRruTrigCtrl 1 full)
  (hfree : (s.rru.trig.any fun t => !t.signing) = false)
include hz hfree

theorem State.trigGo_of_ok (h : z.TrigOk (z.trigPageList full)) :
    s.trigGo full = z.trigStarted (z.trigPageList full) := by
  subst hz
  exact (if_neg (ne_true_of_eq_false hfree)).trans (if_pos h)

theorem State.trigGo_of_refused (h : ¬ z.TrigOk (z.trigPageList full)) :
    s.trigGo full = z.setBit regRruStatus 4 true := by
  subst hz
  exact (if_neg (ne_true_of_eq_false hfree)).trans (if_neg h)

end TrigGo

theorem State.trigCleared_bits {s : State} (h : Rising s.regs) :
    s.trigCleared.bit regRruTrigCtrl 2 = false ∧ s.trigCleared.bit regRruTrigCtrl 3 = false := by
  have hrise : Rising (s.setBit regRruTrigCtrl 2 false).regs := s.setReg_rising _ _ h
  exact ⟨(State.bit_setBit_other _ _ 3 2 _ hrise (by decide) (by decide)).trans
    (State.bit_setBit_same _ _ _ _ h (by decide)), State.bit_setBit_same _ _ _ _ hrise (by decide)⟩

theorem State.trigStarted_clean (s : State) (pages : List Nat) : ∀ p ∈ pages, p ∉ (s.trigStarted pages).rru.dirty := by
  intro p hp hdirty
  have hkept : (!pages.contains p) = true := (List.mem_filter.mp hdirty).2
  rw [List.contains_iff_mem.mpr hp] at hkept
  exact Bool.false_ne_true hkept

/-! ### The record (R436) -/

/-- State and pages of the record stored, before its header. -/
def State.trigBodyStored (s : State) (t : Trig) : State :=
  (List.range t.pages.length).foldl
    (fun z i =>
      z.trigCopy (s.reg regRruTrigCount + 1) (t.base + trigPages t.pages.length + 65536 * i) (t.pages.getD i 0))
    (s.putBytes (t.base + 4096) (padTo (trigPages t.pages.length - 4096) (s.trigBody t.pages)))

/-- The digest of the record. -/
def State.trigDigest (s : State) (t : Trig) : List Byte :=
  shake256 32 (t.header ++ (s.trigBodyStored t).rdBytes (t.base + 4096) (t.sigOff - 4096))

/-- The whole record stored, but for its signature. -/
def State.trigStored (s : State) (t : Trig) : State :=
  (s.trigBodyStored t).putBytes t.base (t.header ++ s.trigDigest t ++ zeros (4096 - 96))

/-- The record counted, and DONE set. -/
def State.trigCounted (s : State) (t : Trig) : State :=
  ((s.trigStored t).setReg regRruTrigCount (s.reg regRruTrigCount + 1)).setBit regRruTrigCtrl 2 true

theorem State.trigStored_rising {s : State} (h : s.Canonical) (t : Trig) : Rising (s.trigStored t).regs :=
  ((State.putBytes_keeps (Keeps.foldl (State.putBytes_keeps (.refl s)) fun _ _ hz => State.trigCopy_keeps hz)).canonical
    h).regs.1

/-- Vector 71 fires in bit 7 of its word and moves no other register (R499). -/
theorem State.irq71_spec {s : State} (h : Rising s.regs) : (s.irq 71).bit (regOdlIrqPending 1) 7 = true ∧
    ∀ o, o ≠ regOdlIrqPending 1 → (s.irq 71).reg o = s.reg o :=
  ⟨State.bit_setBit_same _ _ _ _ h (by decide), fun _ ho => State.reg_setBit_other _ _ _ _ _ ho⟩

theorem State.trigCounted_spec {s : State} (h : s.Canonical) (t : Trig) :
    Rising (s.trigCounted t).regs ∧ (s.trigCounted t).reg regRruTrigCount = (s.reg regRruTrigCount + 1) % 2 ^ 64 ∧
      (s.trigCounted t).bit regRruTrigCtrl 2 = true := by
  have hstored := State.trigStored_rising h t
  have hset := State.setReg_rising _ regRruTrigCount (s.reg regRruTrigCount + 1) hstored
  have hcount := State.reg_setReg_mod _ regRruTrigCount (s.reg regRruTrigCount + 1) hstored
  exact ⟨State.setReg_rising _ _ _ hset, (State.reg_setBit_other _ _ _ _ _ (by decide)).trans hcount,
    State.bit_setBit_same _ _ _ _ hset (by decide)⟩

/-- A trig point written: its record goes to the signing engine, and vector 71 fires. -/
def State.trigWritten (s : State) (g : Trig) : State :=
  (s.modRru fun r => { r with trig := some g }).startSigning.irq 71

theorem State.trigWritten_spec {s : State} (h : Rising s.regs) (g : Trig) :
    (s.trigWritten g).bit (regOdlIrqPending 1) 7 = true ∧
      (∀ o, o ≠ regOdlIrqPending 1 → (s.trigWritten g).reg o = s.reg o) ∧ (s.trigWritten g).rru.trig = some g := by
  obtain ⟨hirq, hother⟩ := State.irq71_spec (s := (s.modRru fun r => { r with trig := some g }).startSigning) h
  exact ⟨hirq, fun o ho => (hother o ho).trans (State.reg_congr rfl rfl o), rfl⟩

theorem State.trigWrite_eq (s : State) (t : Trig) :
    s.trigWrite t = (s.trigCounted t).trigWritten { t with digest := s.trigDigest t, signing := true } := rfl

theorem State.trigWrite_spec {s : State} (h : s.Canonical) (t : Trig) :
    (s.trigWrite t).reg regRruTrigCount = (s.reg regRruTrigCount + 1) % 2 ^ 64 ∧
      (s.trigWrite t).bit regRruTrigCtrl 2 = true ∧ (s.trigWrite t).bit (regOdlIrqPending 1) 7 = true ∧
      (s.trigWrite t).rru.trig = some { t with digest := s.trigDigest t, signing := true } := by
  obtain ⟨hrise, hcount, hdone⟩ := State.trigCounted_spec h t
  obtain ⟨hirq, hother, htrig⟩ := State.trigWritten_spec hrise { t with digest := s.trigDigest t, signing := true }
  rw [State.trigWrite_eq]
  exact ⟨(hother _ (by decide)).trans hcount, (State.bit_congr (hother _ (by decide)) 2).trans hdone, hirq, htrig⟩

theorem exec_trigComplete {s : State} {g : Trig} (hg : s.rru.trig = some g) (hwrites : g.signing = false)
    (hgoes : s.stopped = false) : exec .trigComplete s = .next (s.quiet.trigWrite g) := by
  have hg' : s.quiet.rru.trig = some g := hg
  show execTrigComplete s = _
  rw [execTrigComplete]
  refine attempt_of_some ?_
  simp only [hg']
  exact if_pos ⟨hwrites, hgoes⟩

/-! ### Its signature (R436, R481) -/

section Signed

variable (s : State) (g : Trig)

/-- A signature is counted, and drawn for while the entropy source works (R474, R489). -/
theorem State.identitySign_state (ctx : Nat) (msg : List Byte) : (s.identitySign ctx msg).2 =
    (if s.bit regSecStatus 7 then s else s.draw.2).addReg regSecSignatures 1 := by
  cases h : s.bit regSecStatus 7 <;> simp [State.identitySign, h]

theorem State.identitySign_rru (ctx : Nat) (msg : List Byte) : (s.identitySign ctx msg).2.rru = s.rru := by
  rw [State.identitySign_state]
  split <;> rfl

theorem State.identitySign_reg (ctx : Nat) (msg : List Byte) {o : Nat} (ho : o ≠ regSecSignatures) :
    (s.identitySign ctx msg).2.reg o = s.reg o := by
  rw [State.identitySign_state, State.reg_addReg_other _ _ _ _ ho]
  split
  · rfl
  · exact State.reg_congr rfl rfl o

theorem State.signTrig_eq : s.signTrig g = (s.identitySign ctxTrig g.digest).2.putBytes (g.base + g.sigOff)
    (s.identitySign ctxTrig g.digest).1 := by
  rcases hsign : s.identitySign ctxTrig g.digest with ⟨sig, z⟩
  simp only [State.signTrig, hsign]

/-- A signature stored leaves the trig point in progress and RRU_TRIG_CTRL. -/
theorem State.signTrig_frame : (s.signTrig g).rru.trig = s.rru.trig ∧
    (s.signTrig g).reg regRruTrigCtrl = s.reg regRruTrigCtrl := by
  rw [State.signTrig_eq, (State.putBytes_logs _ _ _).trig, (State.putBytes_notices _ _ _).reg _ (by decide),
    State.identitySign_rru, State.identitySign_reg _ _ _ (by decide)]
  exact ⟨rfl, rfl⟩

theorem State.signTrig_rising {s : State} (h : s.Canonical) (g : Trig) : Rising (s.signTrig g).regs :=
  ((State.signTrig_keeps (.refl s)).canonical h).regs.1

end Signed

/-- The engine takes up its next signature, and vector 71 fires. -/
def State.signedOff (s : State) : State := s.nextSigning.irq 71

theorem State.signedOff_spec {s : State} (h : Rising s.regs) : s.signedOff.bit (regOdlIrqPending 1) 7 = true ∧
    s.signedOff.reg regRruTrigCtrl = s.reg regRruTrigCtrl := by
  obtain ⟨hirq, hother⟩ := State.irq71_spec (s := s.nextSigning) h
  exact ⟨hirq, (hother _ (by decide)).trans (State.reg_congr rfl rfl _)⟩

/-- These records are left without a signature, and the engine goes on. -/
def State.olderSigned (s : State) (rest : List Trig) : State :=
  (s.modRru fun r => { r with unsigned := rest }).signedOff

theorem State.olderSigned_spec {s : State} (h : Rising s.regs) (rest : List Trig) :
    (s.olderSigned rest).mem = s.mem ∧ (s.olderSigned rest).rru.unsigned = rest ∧
      (s.olderSigned rest).rru.trig = s.rru.trig ∧
      (s.olderSigned rest).reg regRruTrigCtrl = s.reg regRruTrigCtrl ∧
      (s.olderSigned rest).bit (regOdlIrqPending 1) 7 = true := by
  obtain ⟨hirq, hctrl⟩ := State.signedOff_spec (s := s.modRru fun r => { r with unsigned := rest }) h
  exact ⟨rfl, rfl, rfl, hctrl.trans (State.modRru_reg _ _ _), hirq⟩

/-- SIGNED tells of the last record, no trig point is left, and the engine goes on. -/
def State.lastSigned (s : State) : State :=
  ((s.setBit regRruTrigCtrl 3 true).modRru fun r => { r with trig := none }).signedOff

theorem State.lastSigned_spec {s : State} (h : Rising s.regs) :
    s.lastSigned.mem = s.mem ∧ s.lastSigned.bit regRruTrigCtrl 3 = true ∧
      s.lastSigned.bit (regOdlIrqPending 1) 7 = true ∧ s.lastSigned.rru.trig = none := by
  obtain ⟨hirq, hctrl⟩ := State.signedOff_spec
    (s := (s.setBit regRruTrigCtrl 3 true).modRru fun r => { r with trig := none }) (s.setReg_rising _ _ h)
  have hsigned := s.bit_setBit_same regRruTrigCtrl 3 true h (by decide)
  exact ⟨rfl, (State.bit_congr (hctrl.trans (State.modRru_reg _ _ _)) 3).trans hsigned, hirq, rfl⟩

section TrigSigned

variable {s : State} {g : Trig} (hturn : s.signerNow = some .trig) (hgoes : s.stopped = false)
include hturn hgoes

theorem exec_trigSigned_older {rest : List Trig} (hold : s.rru.unsigned = g :: rest) : exec .trigSigned s =
    .next ((s.quiet.signTrig g).olderSigned rest) := by
  have hold' : s.quiet.rru.unsigned = g :: rest := hold
  show execTrigSigned s = _
  rw [execTrigSigned]
  refine attempt_of_some ((if_pos ⟨hturn, hgoes⟩).trans ?_)
  simp only [hold']
  rfl

theorem exec_trigSigned_last (hold : s.rru.unsigned = []) (hg : s.rru.trig = some g) (hsigns : g.signing = true) :
    exec .trigSigned s = .next (s.quiet.signTrig g).lastSigned := by
  have hold' : s.quiet.rru.unsigned = [] := hold
  have hg' : s.quiet.rru.trig = some g := hg
  show execTrigSigned s = _
  rw [execTrigSigned]
  refine attempt_of_some ((if_pos ⟨hturn, hgoes⟩).trans ?_)
  simp only [hold', hg']
  exact if_pos hsigns

end TrigSigned

/-! ### Digests of regions (R442) -/

/-- The word of a request: its region, and GO. -/
theorem digestWord_fields {r : Nat} (h : r < 256) : getBits (r + 2 ^ 31) 7 0 = r ∧ bitOf (r + 2 ^ 31) 31 = true := by
  simp only [bitOf, getBits, Nat.shiftRight_eq_div_pow, beq_iff_eq]
  omega

/-- The region named. -/
def State.digestNamed (s : State) (r : Nat) : State := s.setFld regRruDigestReq 7 0 r

/-- A digest of the region asked for, and DONE cleared. -/
def State.digestAsked (s : State) (r : Nat) : State :=
  ((s.digestNamed r).setBit regRruDigestReq 30 false).modRru fun x => { x with digesting := some r }

section DigestReq

variable {s : State} {r : Nat} (hregion : r < 256)
include hregion

theorem State.writeDigestReq_eq : s.writeDigestReq (r + 2 ^ 31) =
    if s.regionValid r then s.digestAsked r else s.digestNamed r := by
  obtain ⟨hfield, hgo⟩ := digestWord_fields hregion
  simp only [State.writeDigestReq, hfield, hgo, true_and]
  rfl

theorem exec_digestReqGo (hr : s.ready = true) : exec (.digestReqGo r) s =
    .next (if s.regionValid r then s.quiet.digestAsked r else s.quiet.digestNamed r) := by
  show execDigestReqGo r s = _
  rw [execDigestReqGo]
  refine attempt_of_some ((if_pos ⟨hr, hregion⟩).trans (congrArg some ?_))
  rw [State.writeDigestReq_eq hregion, State.quiet_regionValid]

theorem State.digestNamed_spec (h : Rising s.regs) : (s.digestNamed r).fld regRruDigestReq 7 0 = r ∧
    (s.digestNamed r).rru.digesting = s.rru.digesting ∧ (s.digestNamed r).mem = s.mem ∧
    ∀ o, o ≠ regRruDigestReq → (s.digestNamed r).reg o = s.reg o :=
  ⟨(State.fld_setFld_same _ _ 7 0 r h (by decide) (by decide)).trans (Nat.mod_eq_of_lt hregion), rfl, rfl,
    fun o ho => s.reg_setFld_other _ _ _ _ o ho⟩

theorem State.digestAsked_spec (h : Rising s.regs) : (s.digestAsked r).fld regRruDigestReq 7 0 = r ∧
    (s.digestAsked r).rru.digesting = some r ∧ (s.digestAsked r).bit regRruDigestReq 30 = false ∧
    (s.digestAsked r).mem = s.mem ∧ ∀ o, o ≠ regRruDigestReq → (s.digestAsked r).reg o = s.reg o := by
  obtain ⟨hfield, -, hmem, hother⟩ := State.digestNamed_spec hregion h
  have hnamed : Rising (s.digestNamed r).regs := s.setReg_rising _ _ h
  rw [State.digestAsked]
  generalize s.digestNamed r = z at hfield hmem hother hnamed
  have hbit := z.bit_setBit_same regRruDigestReq 30 false hnamed (by decide)
  have hkept : (z.setBit regRruDigestReq 30 false).fld regRruDigestReq 7 0 = z.fld regRruDigestReq 7 0 :=
    State.fld_setBit_other false hnamed (by decide) (by decide)
  refine ⟨?_, rfl, (State.bit_congr (State.modRru_reg _ _ _) 30).trans hbit, hmem, fun o ho => ?_⟩
  · rw [State.fld_congr (State.modRru_reg _ _ _), hkept, hfield]
  · rw [State.modRru_reg, State.reg_setBit_other _ _ _ _ _ ho, hother o ho]

end DigestReq

/-- Registers `f i` for `i < n` set. -/
def State.setRegs (s : State) (n : Nat) (f v : Nat → Nat) : State :=
  (List.range n).foldl (fun z i => z.setReg (f i) (v i)) s

theorem State.setRegs_succ (s : State) (n : Nat) (f v : Nat → Nat) :
    s.setRegs (n + 1) f v = (s.setRegs n f v).setReg (f n) (v n) := by
  rw [State.setRegs, List.range_succ, List.foldl_append]
  rfl

theorem State.setRegs_eq (s : State) (n : Nat) (f v : Nat → Nat) :
    s.setRegs n f v = { s with regs := (s.setRegs n f v).regs } := by
  induction n with
  | zero => rfl
  | succ n ih =>
    rw [State.setRegs_succ, ih]
    rfl

theorem State.setRegs_rising {s : State} (h : Rising s.regs) (n : Nat) (f v : Nat → Nat) :
    Rising (s.setRegs n f v).regs := by
  induction n with
  | zero => exact h
  | succ n ih => exact State.setRegs_succ s n f v ▸ State.setReg_rising _ _ _ ih

theorem State.reg_setRegs {s : State} (h : Rising s.regs) {n : Nat} {f v : Nat → Nat} (hf : Function.Injective f)
    {i : Nat} (hi : i < n) : (s.setRegs n f v).reg (f i) = v i % 2 ^ 64 := by
  induction n with
  | zero => omega
  | succ n ih =>
    rw [State.setRegs_succ]
    rcases Nat.lt_succ_iff_lt_or_eq.mp hi with hlt | rfl
    · rw [State.reg_setReg_other _ _ _ _ fun e => Nat.ne_of_lt hlt (hf e), ih hlt]
    · exact State.reg_setReg_mod _ _ _ (State.setRegs_rising h _ f v)

theorem leNat_slice_lt (bs : List Byte) (i : Nat) : leNat (slice bs i 8) < 2 ^ 64 :=
  calc leNat (slice bs i 8) < 256 ^ (slice bs i 8).length := leNat_lt _
    _ ≤ 256 ^ 8 := Nat.pow_le_pow_right (by decide) (List.length_take_le _ _)
    _ = 2 ^ 64 := by decide

theorem regRruDigestOut_injective : Function.Injective regRruDigestOut := fun i j h => by
  simp only [regRruDigestOut] at h
  omega

/-- A digest does not depend on the outputs of the last command. -/
theorem State.quiet_imageDigest (s : State) (p n : Nat) : s.quiet.imageDigest p n = s.imageDigest p n := by
  have hbytes (a m : Nat) : s.quiet.rdBytes a m = s.rdBytes a m :=
    List.map_congr_left fun i _ => s.onlyRegs_quiet.2.1 (a + i)
  simp only [State.imageDigest, hbytes]

/-- The digest of region `r` in its four registers. -/
def State.digestShown (s : State) (r : Nat) : State :=
  s.setRegs 4 regRruDigestOut fun i => leNat (slice (s.imageDigest (s.regionFirst r) (s.regionPages r)) (8 * i) 8)

/-- DONE set, and no digest in progress. -/
def State.digestDone (s : State) (r : Nat) : State :=
  ((s.digestShown r).setBit regRruDigestReq 30 true).modRru fun x => { x with digesting := none }

theorem exec_regionDigestComplete {s : State} {r : Nat} (hr : s.rru.digesting = some r)
    (hfree : (s.pubs.any fun b => b.step == 1) = false) (hgoes : s.stopped = false) : exec .regionDigestComplete s =
      .next (s.quiet.digestDone r) := by
  have hr' : s.quiet.rru.digesting = some r := hr
  show execRegionDigestComplete s = _
  rw [execRegionDigestComplete]
  refine attempt_of_some ?_
  simp only [hr']
  exact if_pos ⟨hfree, hgoes⟩

theorem State.digestShown_reg {s : State} (h : Rising s.regs) (r : Nat) {i : Nat} (hi : i < 4) :
    (s.digestShown r).reg (regRruDigestOut i) =
      leNat (slice (s.imageDigest (s.regionFirst r) (s.regionPages r)) (8 * i) 8) :=
  (State.reg_setRegs h regRruDigestOut_injective hi).trans (Nat.mod_eq_of_lt (leNat_slice_lt _ _))

theorem State.digestDone_regs {s : State} (h : Rising s.regs) (r : Nat) :
    (s.digestDone r).bit regRruDigestReq 30 = true ∧ ∀ i, i < 4 → (s.digestDone r).reg (regRruDigestOut i) =
      leNat (slice (s.imageDigest (s.regionFirst r) (s.regionPages r)) (8 * i) 8) := by
  have hshown : Rising (s.digestShown r).regs := State.setRegs_rising h _ _ _
  refine ⟨(State.bit_congr (State.modRru_reg _ _ _) 30).trans (State.bit_setBit_same _ _ _ _ hshown (by decide)),
    fun i hi => ?_⟩
  have hbeside : regRruDigestOut i ≠ regRruDigestReq := by simp only [regRruDigestOut, regRruDigestReq]; omega
  rw [State.digestDone, State.modRru_reg, State.reg_setBit_other _ _ _ _ _ hbeside, State.digestShown_reg h r hi]

theorem State.digestDone_contents (s : State) (r : Nat) :
    (s.digestDone r).mem = s.mem ∧ (s.digestDone r).tasks = s.tasks ∧ (s.digestDone r).rru.digesting = none := by
  rw [State.digestDone, State.digestShown, State.setRegs_eq]
  exact ⟨rfl, rfl, rfl⟩

theorem State.setBit_stopped (s : State) {o : Nat} (ho : o ≠ regRruStatus) (i : Nat) (b : Bool) :
    (s.setBit o i b).stopped = s.stopped := by
  rw [State.stopped, State.bit_congr (s.reg_setBit_other o i _ b ho.symm) 8]
  rfl

/-- Settles O55: each row answers by the branch that its hypotheses select, and what it leaves is read off the states
named above. -/
theorem trigPointsAndDigestsAreTaken : Obligations.TrigPointsAndDigestsAreTaken := by
  intro s hs
  have hrise : Rising s.quiet.regs := hs.regs.1
  have hquiet : s.quiet.Canonical := (State.quiet_keeps (.refl s)).canonical hs
  refine ⟨fun full hr hfree => ?_, fun g hg hgoes => ⟨fun hwrites => ?_, fun hsigns hturn hold => ?_⟩,
    fun g rest hold hturn hgoes => ?_, fun r hr hregion => ?_, fun r hr hfree hgoes => ?_⟩
  · intro z pages ok
    have hask : Rising z.regs := State.setReg_rising _ _ _ hrise
    have hok : ok ↔ z.TrigOk pages := by
      have hsize : z.reg regRruTrigSize = s.reg regRruTrigSize := State.reg_setBit_other _ _ _ _ _ (by decide)
      have hstopped : z.stopped = s.stopped := State.setBit_stopped _ (by decide) _ _
      rw [State.TrigOk, hsize, hstopped]
    refine ⟨fun h => ?_, fun h => ?_⟩
    · obtain ⟨hdone, hsigned⟩ := State.trigCleared_bits hask
      refine ⟨z.trigStarted pages, ?_, ⟨_, rfl, rfl, rfl⟩, hdone, hsigned, rfl, rfl, State.trigStarted_clean z pages⟩
      rw [exec_trigGo hr, State.trigGo_of_ok (s := s.quiet) (z := z) rfl hfree (hok.mp h)]
      rfl
    · refine ⟨z.setBit regRruStatus 4 true, ?_, State.bit_setBit_same _ _ _ _ hask (by decide), ?_⟩
      · rw [exec_trigGo hr, State.trigGo_of_refused (s := s.quiet) (z := z) rfl hfree (mt hok.mpr h)]
      · exact ((State.OnlyRegs.quiet s _).setReg (by simp) (by decide) _).setReg (by simp) (by decide) _
  · obtain ⟨hcount, hdone, hirq, htrig⟩ := State.trigWrite_spec hquiet g
    exact ⟨_, exec_trigComplete hg hwrites hgoes, hcount, hdone, hirq, _, htrig, rfl, rfl⟩
  · obtain ⟨hmem, hsigned, hirq, hnone⟩ := State.lastSigned_spec (State.signTrig_rising hquiet g)
    exact ⟨_, exec_trigSigned_last hturn hgoes hold hg hsigns, hmem, hsigned, hirq, hnone⟩
  · obtain ⟨htrig, hframe⟩ := s.quiet.signTrig_frame g
    obtain ⟨hmem, hrest, hkept, hctrl, hirq⟩ := State.olderSigned_spec (State.signTrig_rising hquiet g) rest
    exact ⟨_, exec_trigSigned_older hturn hgoes hold, hmem, hrest, hkept.trans htrig,
      State.bit_congr (hctrl.trans hframe) 3, hirq⟩
  · cases hvalid : s.regionValid r with
    | true =>
      obtain ⟨hfield, hstarts, hdone, hmem, hother⟩ := State.digestAsked_spec hregion hrise
      exact ⟨_, (exec_digestReqGo hregion hr).trans (congrArg _ (if_pos hvalid)), hfield, fun _ => ⟨hstarts, hdone⟩,
        nofun, hmem, hother⟩
    | false =>
      obtain ⟨hfield, hstays, hmem, hother⟩ := State.digestNamed_spec hregion hrise
      exact ⟨_, (exec_digestReqGo hregion hr).trans (congrArg _ (if_neg (ne_true_of_eq_false hvalid))), hfield, nofun,
        fun _ => hstays, hmem, hother⟩
  · obtain ⟨hmem, htasks, hnone⟩ := s.quiet.digestDone_contents r
    obtain ⟨hdone, hwords⟩ := State.digestDone_regs hrise r
    rw [State.quiet_imageDigest] at hwords
    exact ⟨_, exec_regionDigestComplete hr hfree hgoes, hnone, hdone, hwords, hmem, htasks⟩

end Sys2Proof.Machine
end

section
/-! One step of the block and what it starts from: the command at the front, the reset state, and the fused minimum SVN
(R462, R464, R472, R478). -/

namespace Sys2Proof.Machine

open Sys2Proof

/-- Settles O8: a command keeps the fuses as `Keeps` says, and so does the passing of a nanosecond. -/
theorem fusedMinimumNeverFalls : Obligations.FusedMinimumNeverFalls := by
  intro s t hs h
  unfold step at h
  split at h
  · next c rest _ => exact (exec_keeps c { s with pending := rest } t h).fuse hs
  · cases h
    exact s.tick_keeps.fuse hs

/-- Settles O4: the reset state lists no register, no byte and no poison mark, and has no target for the fuses. -/
theorem resetIsCanonical : Obligations.ResetIsCanonical := by
  refine ⟨⟨⟨.nil, ?_⟩, ⟨.nil, ?_⟩, .nil⟩, ?_⟩
  · exact List.forall_mem_nil _
  · exact List.forall_mem_nil _
  · exact nofun

/-- Settles O1: a step looks at the queue first. -/
theorem stepRunsFront : Obligations.StepRunsFront := by
  intro c rest s hq
  rw [step, hq]

end Sys2Proof.Machine
end

section
/-! Registers before READY (R468). -/

namespace Sys2Proof.Machine

open Sys2Proof

/-- Outside the windows that answer early, nothing answers before READY. -/
theorem State.answering_of_unready {s : State} {off : Nat} (hready : s.ready = false)
    (hearly : earlyWindow off = false) : s.answering off = none := by
  simp [State.answering, hready, hearly]

theorem earlyWindow_eq_false_iff (off : Nat) : earlyWindow off = false ↔
    ¬ (off < 0x1000 ∨ (0xD00000 ≤ off ∧ off < 0xD01000) ∨ (0x1000000 ≤ off ∧ off < 0x1100000)) := by
  simp only [earlyWindow, Bool.or_eq_false_iff, decide_eq_false_iff_not, not_or, and_assoc]

/-- The windows that answer early are made of whole 64-bit words. -/
theorem earlyWindow_lowHalf {off : Nat} (ho : off % 8 = 4) (h : earlyWindow off = false) :
    earlyWindow (off - 4) = false := by
  rw [earlyWindow_eq_false_iff] at h ⊢
  omega

/-- Settles O9: an offset outside the early windows does not answer, nor does the low half of its word. -/
theorem unreadyRegistersDoNotAnswer : Obligations.UnreadyRegistersDoNotAnswer := by
  intro s off hr hready hout
  have hearly : earlyWindow off = false := (earlyWindow_eq_false_iff off).mpr hout
  have hsilent : s.quiet.answering off = none := State.answering_of_unready hready hearly
  have hlow (h4 : off % 8 = 4) : s.quiet.answering (off - 4) = none :=
    State.answering_of_unready hready (earlyWindow_lowHalf h4 hearly)
  refine ⟨fun ho => ?_, fun width v src hl => ?_⟩
  · rw [exec_registerReadLowHalf hr ho, State.read32_of_silent hsilent hlow]
    rfl
  · rw [exec_registerWrite hr hl, State.writeReg_of_silent hsilent]

end Sys2Proof.Machine
end

section
/-! The grant of stakes (R452, R454, R455). -/

namespace Sys2Proof.Machine

open Sys2Proof

/-! ### The order of the requests (R454) -/

/-- What a request is ranked by: a lower key stands ahead. -/
def StakeReq.key (r : StakeReq) : Bool ×ₗ Bool ×ₗ Nat ×ₗ Nat :=
  toLex (!r.lc, toLex (!r.collective, toLex (r.seq, r.core)))

/-- The order of R454, class by class. -/
theorem StakeReq.ahead_iff (a b : StakeReq) : a.ahead b = true ↔ (a.lc = true ∧ b.lc = false) ∨ (a.lc = b.lc ∧
    ((a.collective = true ∧ b.collective = false) ∨ (a.collective = b.collective ∧
      (a.seq < b.seq ∨ (a.seq = b.seq ∧ a.core < b.core))))) := by
  unfold StakeReq.ahead
  split
  · next hlc => cases ha : a.lc <;> cases hb : b.lc <;> simp_all
  · next hlc =>
    split
    · next hcol => cases ha : a.collective <;> cases hb : b.collective <;> simp_all
    · next hcol =>
      split
      · next hseq => simp_all
      · next hseq => simp_all

theorem StakeReq.ahead_iff_key (a b : StakeReq) : a.ahead b = true ↔ a.key < b.key := by
  simp only [StakeReq.ahead_iff, StakeReq.key, Prod.Lex.toLex_lt_toLex, Bool.lt_iff, Bool.not_eq_false',
    Bool.not_eq_true', Bool.not_inj_iff]

section FirstSorted

variable {α : Type} {ahead : α → α → Bool} (hirrefl : ∀ a, ahead a a = false)
  (htrans : ∀ a b c, ahead a b = true → ahead b c = true → ahead a c = true)
include hirrefl htrans

/-- The head of a list sorted by a strict order has no element ahead of it. -/
theorem insertionSort_head_first {k rest : List α} {r : α} (h : k.insertionSort (ahead · ·) = r :: rest) :
    ∀ x ∈ k, ahead x r = false := by
  induction k generalizing r rest with
  | nil => exact List.forall_mem_nil _
  | cons y k ih =>
    rw [List.insertionSort_cons] at h
    cases hk : k.insertionSort (ahead · ·) with
    | nil =>
      have hempty : k = [] :=
        List.length_eq_zero_iff.mp ((List.length_insertionSort _ k).symm.trans (congrArg List.length hk))
      rw [hk] at h
      cases h
      simpa [hempty] using hirrefl y
    | cons b m =>
      have hmin := ih hk
      rw [hk, List.orderedInsert] at h
      split at h
      · next hyb =>
        cases h
        refine List.forall_mem_cons.mpr ⟨hirrefl y, fun x hx => Bool.eq_false_iff.mpr fun hxy => ?_⟩
        exact Bool.eq_false_iff.mp (hmin x hx) (htrans _ _ _ hxy hyb)
      · next hyb =>
        cases h
        exact List.forall_mem_cons.mpr ⟨Bool.eq_false_iff.mpr hyb, hmin⟩

/-- The first of a list put into order has none ahead of it. -/
theorem sortBy_head_first {l rest : List α} {r : α} (h : sortBy ahead l = r :: rest) : ∀ x ∈ l, ahead x r = false :=
  fun _ hx => insertionSort_head_first hirrefl htrans (sortBy_eq_insertionSort ahead l ▸ h) _ (List.mem_reverse.mpr hx)

end FirstSorted

/-- The request that stands first is one that stands, and none that stands is ahead of it. -/
theorem State.stakeOrder_first {s : State} {r : StakeReq} {rest : List StakeReq} (h : s.stakeOrder = r :: rest) :
    (r ∈ s.power.requests ∧ s.requestStands r = true) ∧
      (∀ x ∈ s.power.requests, s.requestStands x = true → x.ahead r = false) ∧
      rest.length + 1 = (s.power.requests.filter s.requestStands).length := by
  have hperm := sortBy_perm StakeReq.ahead (s.power.requests.filter s.requestStands)
  have hfirst := sortBy_head_first (fun a => Bool.eq_false_iff.mpr fun ha => lt_irrefl _ ((a.ahead_iff_key a).mp ha))
    (fun a b c hab hbc => (a.ahead_iff_key c).mpr (((a.ahead_iff_key b).mp hab).trans ((b.ahead_iff_key c).mp hbc))) h
  rw [← State.stakeOrder, h] at hperm
  exact ⟨List.mem_filter.mp (hperm.mem_iff.mp List.mem_cons_self),
    fun x hx hstands => hfirst x (List.mem_filter.mpr ⟨hx, hstands⟩), hperm.length_eq⟩

/-! ### STAKE_GRANT -/

/-- The other requests wait on, and the unit is noted on the ramp (R455). -/
def State.stakeTaken (s : State) (rest : List StakeReq) : State :=
  { s with power := { s.power with
    requests := rest, ramp := (1, s.time) :: s.power.ramp.filter fun g => decide (s.time < g.2 + 1000) } }

theorem exec_stakeGrant_of_free {s : State} {r : StakeReq} {rest : List StakeReq} (horder : s.stakeOrder = r :: rest)
    (hpool : s.unitsGranted < s.poolUnits) (hramp : s.rampUnits < 100) (hgoes : s.stopped = false) :
    exec .stakeGrant s = .next ((s.quiet.stakeTaken rest).giveStake r) := by
  have horder' : s.quiet.stakeOrder = r :: rest := horder
  show execStakeGrant s = _
  rw [execStakeGrant]
  refine attempt_of_some ?_
  rw [State.grantStake, horder']
  exact if_pos ⟨hpool, hramp, hgoes⟩

theorem exec_stakeGrant_of_held {s : State}
    (h : s.poolUnits ≤ s.unitsGranted ∨ 100 ≤ s.rampUnits ∨ s.power.requests = []) :
    exec .stakeGrant s = .next s.quiet := by
  have hnone : s.quiet.grantStake = none := by
    unfold State.grantStake
    split
    · rfl
    · next r rest horder =>
      refine if_neg fun ⟨hpool, hramp, _⟩ => ?_
      have hpool' : s.unitsGranted < s.poolUnits := hpool
      have hramp' : s.rampUnits < 100 := hramp
      obtain ⟨⟨hmem, -⟩, -⟩ := State.stakeOrder_first horder
      rcases h with h | h | h
      · omega
      · omega
      · exact absurd (h ▸ hmem) List.not_mem_nil
  show execStakeGrant s = _
  rw [execStakeGrant, attempt, hnone]
  rfl

/-- Settles O33: the request granted is the head of the order, and without a unit, a ramp or a request none is. -/
theorem stakesAreGrantedInOrder : Obligations.StakesAreGrantedInOrder := by
  refine ⟨StakeReq.ahead_iff, fun s => ⟨fun hpool hramp hgoes ⟨x, hx, hstands⟩ => ?_, exec_stakeGrant_of_held⟩⟩
  cases horder : s.stakeOrder with
  | nil =>
    have hperm := sortBy_perm StakeReq.ahead (s.power.requests.filter s.requestStands)
    rw [← State.stakeOrder, horder] at hperm
    exact absurd (hperm.mem_iff.mpr (List.mem_filter.mpr ⟨hx, hstands⟩)) List.not_mem_nil
  | cons r rest =>
    obtain ⟨⟨hmem, hr⟩, hfirst, hlen⟩ := State.stakeOrder_first horder
    exact ⟨_, s.quiet.stakeTaken rest, r, exec_stakeGrant_of_free horder hpool hramp hgoes, hmem, hr, hfirst, rfl, rfl,
      rfl, rfl, rfl, rfl, hlen, rfl⟩

end Sys2Proof.Machine
end

section
/-! The management interfaces: the I3C target, the PMBus stage and boundary scan (R505 to R512). -/

namespace Sys2Proof.Machine

open Sys2Proof

/-! ### ALERT_N (R509) -/

theorem State.alertLow_iff (s : State) : s.alertLow = true ↔ ∃ i, i < 64 ∧ s.bit regStwAlert i = true := by
  refine ⟨fun h => ?_, fun ⟨i, _, hi⟩ => State.alertLow_of_bit hi⟩
  have hne : s.reg regStwAlert ≠ 0 := bne_iff_ne.mp h
  obtain ⟨i, hi⟩ := Nat.exists_testBit_of_ne_zero hne
  refine ⟨i, ?_, (s.bit_eq_testBit _ _).trans hi⟩
  by_contra hge
  have hlt : s.reg regStwAlert < 2 ^ i :=
    (s.reg_lt _).trans_le (Nat.pow_le_pow_right (by decide) (Nat.le_of_not_lt hge))
  rw [Nat.testBit_lt_two_pow hlt] at hi
  cases hi

/-! ### The I3C target (R505 to R508) -/

section I3c

variable {s : State} (hr : s.reachableRegs = true)
include hr

theorem exec_entdaa (hnone : s.mgmt.dynAddr = none) (a : BitVec 7) : exec (.entdaa a) s =
    .next ((s.quiet.modMgmt fun m => { m with dynAddr := some a }).emit
      (.i3c (beBytes 6 provisionalId ++ [Config.bcr, Config.dcr]))) := by
  show execEntdaa a s = _
  rw [execEntdaa]
  exact attempt_of_some (if_pos ⟨hr, hnone⟩)

theorem exec_setdasa (hnone : s.mgmt.dynAddr = none) (a : BitVec 7) : exec (.setdasa a) s =
    .next (s.quiet.modMgmt fun m => { m with dynAddr := some a }) := by
  show execSetdasa a s = _
  rw [execSetdasa]
  exact attempt_of_some (if_pos ⟨hr, hnone⟩)

theorem exec_rstdaa : exec .rstdaa s = .next (s.quiet.modMgmt fun m => { m with dynAddr := none }) := by
  show execRstdaa s = _
  rw [execRstdaa]
  exact attempt_of_some (if_pos hr)

theorem exec_enec (e : Byte) : exec (.enec e) s =
    .next (s.quiet.modMgmt fun m => { m with ibiOn := m.ibiOn || namesIbi e }) := by
  show execEnec e s = _
  rw [execEnec]
  exact attempt_of_some (if_pos hr)

theorem exec_disec (e : Byte) : exec (.disec e) s =
    .next (s.quiet.modMgmt fun m => { m with ibiOn := m.ibiOn && !namesIbi e }) := by
  show execDisec e s = _
  rw [execDisec]
  exact attempt_of_some (if_pos hr)

/-- RSTACT by its reset pattern (R507). -/
theorem exec_rstact (d : Byte) : exec (.rstact d) s = .next (
    if d = 0x01#8 ∨ d = 0x02#8 then s.quiet.resetDevice 1 else if d = 0x00#8 then s.quiet else s.quiet.emit .nack) := by
  show execRstact d s = _
  rw [execRstact]
  refine attempt_of_some ((if_pos hr).trans ?_)
  split
  · rfl
  · split <;> rfl

section Addressed

variable (haddr : s.mgmt.dynAddr.isSome = true)
include haddr

theorem State.quiet_i3cActive : s.quiet.i3cActive = true := Bool.and_eq_true_iff.mpr ⟨hr, haddr⟩

theorem i3cAnswer_of_active (bs : List Byte) : i3cAnswer bs s = .next (s.quiet.emit (.i3c bs)) := by
  rw [i3cAnswer]
  exact attempt_of_some (if_pos (State.quiet_i3cActive hr haddr))

theorem exec_getstatus : exec .getstatus s =
    .next ((s.quiet.modMgmt fun m => { m with statuses := m.statuses + 1 }).emit
      (.i3c (beBytes 2 (Config.i3cStatus s.mgmt.statuses).toNat))) := by
  show execGetstatus s = _
  rw [execGetstatus]
  exact attempt_of_some (if_pos (State.quiet_i3cActive hr haddr))

theorem exec_i3cOffsetWrite (off : BitVec 32) : exec (.i3cOffsetWrite off) s =
    .next (s.quiet.modMgmt fun m => { m with offset := off.toNat }) := by
  show execI3cOffsetWrite off s = _
  rw [execI3cOffsetWrite]
  exact attempt_of_some (if_pos (State.quiet_i3cActive hr haddr))

theorem exec_i3cPrivateRead : exec .i3cPrivateRead s =
    .next ((s.quiet.read32 s.mgmt.offset).2.emit (.i3c (leBytes 4 (s.quiet.read32 s.mgmt.offset).1))) := by
  show execI3cPrivateRead s = _
  rw [execI3cPrivateRead]
  exact attempt_of_some (if_pos (State.quiet_i3cActive hr haddr))

theorem exec_i3cDataWrite (off v : BitVec 32) : exec (.i3cDataWrite off v) s =
    .next ((s.quiet.modMgmt fun m => { m with offset := off.toNat }).i3cWrite off.toNat v.toNat) := by
  show execI3cDataWrite off v s = _
  rw [execI3cDataWrite]
  exact attempt_of_some (if_pos (State.quiet_i3cActive hr haddr))

end Addressed

end I3c

/-- The board writes three registers and no other (R506). -/
theorem State.i3cWrite_of_other (s : State) {off : Nat} (h1 : off ≠ regGlbReset) (h2 : off ≠ regPwrCtrl)
    (h3 : off ≠ regStwAlert) (v : Nat) : s.i3cWrite off v = s := by
  rw [State.i3cWrite, if_neg h1, if_neg h2, if_neg h3]

theorem beBytes_length (n v : Nat) : (beBytes n v).length = n := by
  simp [beBytes, leBytes]

/-! ### The PMBus stage (R510) -/

section Pmbus

variable {s : State} (hon : s.pmbusOn = true)
include hon

theorem pmbusAnswer_of_on (f : Mgmt → List Byte) : pmbusAnswer f s = .next (s.quiet.emit (.pmbus (f s.mgmt))) := by
  rw [pmbusAnswer]
  exact attempt_of_some (if_pos hon)

theorem exec_clearFaults : exec .clearFaults s = .next (s.quiet.modMgmt fun m => { m with
    commFault := false, uvFault := m.uvFault && m.uvNow, ovFault := m.ovFault && m.ovNow }) := by
  show execClearFaults s = _
  rw [execClearFaults]
  exact attempt_of_some (if_pos hon)

/-- STATUS_WORD draws one free byte for the bits whose cause the spec does not give (log entries 5 and 23). -/
theorem exec_statusWord : exec .statusWord s = .next ({ s.quiet.emit (.pmbus (leBytes 2 (s.mgmt.statusWord
    ((Config.freeByte s.free).toNat % 2 == 1) ((Config.freeByte s.free).toNat / 2 % 2 == 1)))) with
      free := s.free + 1 }) := by
  show execStatusWord s = _
  rw [execStatusWord]
  exact attempt_of_some (if_pos hon)

theorem exec_pmbusUnsupported {c : Byte} (hc : c.toNat ∉ pmbusCodes) : exec (.pmbusUnsupported c) s =
    .next ((s.quiet.modMgmt fun m => { m with commFault := true }).emit .nack) := by
  show execPmbusUnsupported c s = _
  rw [execPmbusUnsupported]
  exact attempt_of_some (if_pos ⟨hon, hc⟩)

end Pmbus

/-- MFR_ID answers eight characters, their number first. -/
theorem exec_mfrId {s : State} (hon : s.pmbusOn = true) :
    exec .mfrId s = .next (s.quiet.emit (.pmbus [8, 72, 69, 82, 85, 65, 78, 75, 79])) := by
  have hbytes : 8#8 :: ascii "HERUANKO" = [8, 72, 69, 82, 85, 65, 78, 75, 79] := by decide
  show execMfrId s = _
  rw [execMfrId, pmbusAnswer_of_on hon, hbytes]

theorem exec_pmbusReadingUpdate {s : State} {r : Readings} (hp : s.vin.powered = true) (hok : s.readingsOk r = true) :
    exec (.pmbusReadingUpdate r) s = .next (s.quiet.modMgmt fun m => { m with
      readings := r, uvFault := m.uvFault || decide (r.vin < 40000), ovFault := m.ovFault || decide (60000 < r.vin) }) := by
  show execPmbusReadingUpdate r s = _
  rw [execPmbusReadingUpdate]
  exact attempt_of_some (if_pos ⟨hp, hok⟩)

theorem exec_pmbusReadingUpdate_refused {s : State} {r : Readings} (hok : s.readingsOk r = false) :
    exec (.pmbusReadingUpdate r) s = .next s.quiet := by
  have hno : ¬ (s.quiet.vin.powered = true ∧ s.quiet.readingsOk r = true) := fun h =>
    ne_true_of_eq_false hok h.2
  show execPmbusReadingUpdate r s = _
  simp only [execPmbusReadingUpdate, attempt, if_neg hno, Option.getD_none]

/-! ### Boundary scan (R511, R512) -/

/-- An instruction in force that has shifted its bits out (R512). -/
def State.shifted (s : State) (n : Nat) (bits : List Bool) (x : Mgmt) : State :=
  { s with mgmt := { x with jtag := n, driving := decide (3 ≤ n) && s.startup.resetLow }, out := [.jtag bits] }

theorem State.emit_jtagLoad (s : State) (n : Nat) (bits : List Bool) :
    (s.quiet.jtagLoad n).emit (.jtag bits) = s.shifted n bits s.mgmt := by
  simp only [State.jtagLoad, State.modMgmt, State.scanDrives, State.emit, State.shifted, State.quiet, List.nil_append]
  rfl

section Jtag

variable {s : State} (hp : s.vin.powered = true)
include hp

theorem jtagTake_of_powered (n : Nat) (bits : List Bool) : jtagTake n bits s = .next (s.shifted n bits s.mgmt) := by
  rw [jtagTake, ← State.emit_jtagLoad]
  exact attempt_of_some (if_pos hp)

theorem exec_samplePreload (bits pins : List Bool) : exec (.samplePreload bits pins) s =
    .next (s.shifted jtSample pins { s.mgmt with boundary := bits }) := by
  have hload : ((s.quiet.jtagLoad jtSample).modMgmt fun m => { m with boundary := bits }).emit (.jtag pins) =
      s.shifted jtSample pins { s.mgmt with boundary := bits } := by
    simp only [State.jtagLoad, State.modMgmt, State.scanDrives, State.emit, State.shifted, State.quiet,
      List.nil_append]
    rfl
  show execSamplePreload bits pins s = _
  rw [execSamplePreload, ← hload]
  exact attempt_of_some (if_pos hp)

end Jtag

/-- Settles O60: each command answers by the branch that its hypotheses select. -/
theorem managementInterfacesAnswer : Obligations.ManagementInterfacesAnswer := by
  intro s m mg answers shifts
  refine ⟨s.alertLow_iff, fun hr => ⟨fun a hnone => ⟨exec_entdaa hr hnone a, exec_setdasa hr hnone a⟩, exec_rstdaa hr,
    fun e => ⟨exec_enec hr e, exec_disec hr e⟩, exec_rstact hr 1, exec_rstact hr 2, exec_rstact hr 0,
    fun d h0 h1 h2 => ?_, fun haddr => ⟨i3cAnswer_of_active hr haddr _, i3cAnswer_of_active hr haddr _,
      i3cAnswer_of_active hr haddr _, ⟨_, exec_getstatus hr haddr, beBytes_length 2 _⟩, exec_i3cOffsetWrite hr haddr,
      exec_i3cPrivateRead hr haddr, fun off v => ⟨exec_i3cDataWrite hr haddr off v, fun h1 h2 h3 => ?_⟩⟩⟩,
    fun hp h3 => ?_, fun hp => ⟨fun r => ⟨exec_pmbusReadingUpdate hp, exec_pmbusReadingUpdate_refused⟩,
      jtagTake_of_powered hp jtBypass [false],
      jtagTake_of_powered hp jtIdcode ((List.range 32).map fun i => bitOf (idcode s.variant) i), exec_samplePreload hp,
      jtagTake_of_powered hp jtExtest [], jtagTake_of_powered hp jtExtestPulse [],
      jtagTake_of_powered hp jtExtestTrain [], jtagTake_of_powered hp jtClamp [], jtagTake_of_powered hp jtHighz []⟩⟩
  · rw [exec_rstact hr, if_neg (by rintro (h | h) <;> contradiction), if_neg (show ¬ d = 0x00#8 from h0)]
  · rw [exec_i3cDataWrite hr haddr, State.i3cWrite_of_other _ h1 h2 h3]
    rfl
  · have hon : s.pmbusOn = true := Bool.and_eq_true_iff.mpr ⟨hp, decide_eq_true h3⟩
    exact ⟨exec_clearFaults hon, ⟨_, _, exec_statusWord hon⟩, pmbusAnswer_of_on hon fun m => leBytes 1 m.statusInput,
      pmbusAnswer_of_on hon fun m => leBytes 2 (linear11 m.readings.vin 1000),
      pmbusAnswer_of_on hon fun m => leBytes 2 (linear11 m.readings.iin 1000),
      pmbusAnswer_of_on hon fun m => leBytes 2 (min 0xFFFF ((m.readings.vout * 4096 + 500) / 1000)),
      pmbusAnswer_of_on hon fun m => leBytes 2 (linear11 m.readings.iout 1000),
      pmbusAnswer_of_on hon fun m => leBytes 2 (linear11 m.readings.temp 10),
      pmbusAnswer_of_on hon fun m => leBytes 2 (linear11 m.readings.pout 1000),
      pmbusAnswer_of_on hon fun m => leBytes 2 (linear11 m.readings.pin 1000),
      pmbusAnswer_of_on hon fun _ => [0x33#8], exec_mfrId hon, fun c hc => exec_pmbusUnsupported hon hc⟩

end Sys2Proof.Machine
end

section
/-! The Security Unit's commands: entropy health, fuses, recovery, the flash update and attestation (R474 to R484). -/

namespace Sys2Proof.Machine

open Sys2Proof

/-! ### Registers of the Security Unit alone -/

/-- A state stands in any frame of itself. -/
theorem State.OnlyRegs.same (s : State) (l : List Nat) : s.OnlyRegs s l :=
  (State.OnlyRegs.refl s).trans (.refl s) (by simp) (by simp)

/-- One more bit set within a frame. -/
theorem State.OnlyRegs.setBit {s t : State} {l : List Nat} (h : s.OnlyRegs t l) {off : Nat} (hl : off ∈ l)
    (hb : byteReg off = false) (i : Nat) (b : Bool) : s.OnlyRegs (t.setBit off i b) l := h.setReg hl hb _

/-- One more field set within a frame. -/
theorem State.OnlyRegs.setFld {s t : State} {l : List Nat} (h : s.OnlyRegs t l) {off : Nat} (hl : off ∈ l)
    (hb : byteReg off = false) (hi lo v : Nat) : s.OnlyRegs (t.setFld off hi lo v) l := h.setReg hl hb _

theorem byteReg_secStatus : byteReg regSecStatus = false := by decide

/-- Setting a field leaves a field beside it. -/
theorem State.fld_setFld_other {s : State} {off hi lo : Nat} (hi' lo' v : Nat) (h : Rising s.regs) (hl : lo ≤ hi + 1)
    (hh : hi < 64) (hout : hi' < lo ∨ hi < lo') : (s.setFld off hi lo v).fld off hi' lo' = s.fld off hi' lo' := by
  refine Nat.eq_of_testBit_eq fun j => ?_
  simp only [State.fld, testBit_getBits]
  by_cases hj : j < hi' + 1 - lo'
  · rw [← State.bit_eq_testBit, ← State.bit_eq_testBit, State.bit_setFld_other _ _ _ _ _ _ h hl hh (by omega)]
  · simp only [hj, decide_false, Bool.false_and]

section Commands

variable {s : State} (hr : s.reachableRegs = true)
include hr

theorem exec_entropyHealthFail : exec .entropyHealthFail s = .next (s.quiet.setBit regSecStatus 7 true) := by
  show execEntropyHealthFail s = _
  rw [execEntropyHealthFail]
  exact attempt_of_some (if_pos hr)

theorem exec_entropyHealthRecover : exec .entropyHealthRecover s = .next (s.quiet.setBit regSecStatus 7 false) := by
  show execEntropyHealthRecover s = _
  rw [execEntropyHealthRecover]
  exact attempt_of_some (if_pos hr)

theorem exec_svnCommit : exec .svnCommit s = .next s.quiet.commitSvn := by
  show execSvnCommit s = _
  rw [execSvnCommit]
  exact attempt_of_some (if_pos hr)

theorem exec_recoveryGo (v : Word) : exec (.recoveryGo v) s = .next (s.quiet.writeRecovery v.toNat) := by
  show execRecoveryGo v s = _
  rw [execRecoveryGo]
  exact attempt_of_some (if_pos hr)

theorem exec_flashUpdateGo (v : Word) : exec (.flashUpdateGo v) s = .next (s.quiet.writeFlash v.toNat) := by
  show execFlashUpdateGo v s = _
  rw [execFlashUpdateGo]
  exact attempt_of_some (if_pos hr)

theorem exec_attestGo : exec .attestGo s = .next s.quiet.attestGo := by
  show execAttestGo s = _
  rw [execAttestGo]
  exact attempt_of_some (if_pos hr)

end Commands

/-! ### The fused minimum SVN (R478) -/

theorem State.commitSvn_of_above {s : State} (hfree : s.sec.svnTarget = none) (hruns : 4 ≤ s.startPhase)
    (habove : s.sec.svnFuse < s.fld regSecSvn 7 0) : s.commitSvn =
    (s.modSec fun x => { x with svnTarget := some (s.fld regSecSvn 7 0) }).setBit regSecStatus 2 true :=
  if_pos ⟨hfree, hruns, habove⟩

theorem State.commitSvn_of_not {s : State}
    (h : s.sec.svnTarget ≠ none ∨ s.startPhase < 4 ∨ s.fld regSecSvn 7 0 ≤ s.sec.svnFuse) : s.commitSvn = s := by
  refine if_neg fun ⟨hfree, hruns, habove⟩ => ?_
  rcases h with h | h | h
  · exact h hfree
  · omega
  · omega

/-- The fuses blown up to `v`. -/
def State.fusesBlown (s : State) (v : Nat) : State :=
  ((s.modSec fun x => { x with svnFuse := v, svnTarget := none }).setBit regSecStatus 2 false).showSvn

theorem exec_svnCommitComplete {s : State} {v : Nat} (h : s.sec.svnTarget = some v) :
    exec .svnCommitComplete s = .next (s.quiet.fusesBlown v) := by
  show execSvnCommitComplete s = _
  rw [execSvnCommitComplete]
  have h' : s.quiet.sec.svnTarget = some v := h
  refine attempt_of_some ?_
  simp only [h']
  rfl

theorem State.fusesBlown_spec {s : State} (h : Rising s.regs) (v : Nat) :
    (s.fusesBlown v).sec = { s.sec with svnFuse := v, svnTarget := none } ∧
      (s.fusesBlown v).bit regSecStatus 2 = false ∧ (s.fusesBlown v).fld regSecSvn 15 8 = v % 256 ∧
      s.OnlyRegs { s.fusesBlown v with sec := s.sec } [regSecStatus, regSecSvn] := by
  have h1 : Rising ((s.modSec fun x => { x with svnFuse := v, svnTarget := none }).setBit regSecStatus 2 false).regs :=
    State.setReg_rising _ _ _ h
  refine ⟨rfl, ?_, State.fld_setFld_same _ _ _ _ _ h1 (by decide) (by decide), ?_⟩
  · exact (State.bit_congr (State.reg_setFld_other _ _ _ _ _ _ (by decide)) 2).trans
      (State.bit_setBit_same _ _ _ _ h (by decide))
  · have hframe : s.OnlyRegs ((s.setBit regSecStatus 2 false).setFld regSecSvn 15 8 v) [regSecStatus, regSecSvn] :=
      ((State.OnlyRegs.same s _).setBit (by simp) byteReg_secStatus _ _).setFld
        (by simp) (by decide) _ _ _
    exact hframe

/-! ### Recovery and the flash: the writes (R479, R480) -/

/-- SEC_RECOVERY_CTRL as a write leaves it. -/
def State.recoveryNamed (s : State) (v : Nat) : State :=
  s.setReg regSecRecoveryCtrl (getBits v 30 30 * 2 ^ 30 + getBits v 24 0)

theorem State.recoveryNamed_fld {s : State} (h : Rising s.regs) (v : Nat) :
    (s.recoveryNamed v).fld regSecRecoveryCtrl 24 0 = getBits v 24 0 := by
  have hflag : getBits v 30 30 < 2 := getBits_lt v 30 30
  have hlen : getBits v 24 0 < 33554432 := getBits_lt v 24 0
  rw [State.fld, State.recoveryNamed, State.reg_setReg_same _ _ _ h (by omega), getBits]
  omega

theorem State.writeRecovery_of_go {s : State} {v : Nat} (hgo : bitOf v 31 = true) (hawaits : s.bit regGlbStartup 30 = true)
    (hfree : s.sec.recovery = none) : s.writeRecovery v = (s.recoveryNamed v).modSec fun x =>
      { x with recovery := some (s.reg regSecRecoverySrc, getBits v 24 0, bitOf v 30) } := by
  have hbit : (s.recoveryNamed v).bit regGlbStartup 30 = true :=
    (State.bit_congr (State.reg_setReg_other _ _ _ _ (by decide)) 30).trans hawaits
  have hsrc : (s.recoveryNamed v).reg regSecRecoverySrc = s.reg regSecRecoverySrc :=
    State.reg_setReg_other _ _ _ _ (by decide)
  rw [← hsrc]
  exact if_pos ⟨hgo, hbit, hfree⟩

theorem State.writeRecovery_of_ignored {s : State} {v : Nat}
    (h : bitOf v 31 = false ∨ s.bit regGlbStartup 30 = false ∨ s.sec.recovery ≠ none) :
    s.writeRecovery v = s.recoveryNamed v := by
  have hbit : (s.recoveryNamed v).bit regGlbStartup 30 = s.bit regGlbStartup 30 :=
    State.bit_congr (State.reg_setReg_other _ _ _ _ (by decide)) 30
  refine if_neg fun ⟨hgo, hawaits, hfree⟩ => ?_
  have hawaits' : s.bit regGlbStartup 30 = true := hbit.symm.trans hawaits
  rcases h with h | h | h
  · rw [hgo] at h; cases h
  · rw [hawaits'] at h; cases h
  · exact h hfree

/-- A write of SEC_RECOVERY_CTRL names its length; the check that a GO begins stands in `sec`. -/
theorem State.writeRecovery_frame {s : State} (h : Rising s.regs) (v : Nat) :
    (s.writeRecovery v).fld regSecRecoveryCtrl 24 0 = getBits v 24 0 ∧
      s.OnlyRegs { s.writeRecovery v with sec := s.sec } [regSecRecoveryCtrl] := by
  have hnamed := State.recoveryNamed_fld h v
  have hframe : s.OnlyRegs (s.recoveryNamed v) [regSecRecoveryCtrl] := s.onlyRegs_setReg _ _ (by decide)
  rw [State.writeRecovery]
  split
  · exact ⟨hnamed, hframe⟩
  · exact ⟨hnamed, hframe⟩

/-- SEC_FLASH_CTRL as a write leaves it. -/
def State.flashNamed (s : State) (v : Nat) : State := s.setReg regSecFlashCtrl (getBits v 24 0)

theorem State.flashNamed_reg {s : State} (h : Rising s.regs) (v : Nat) :
    (s.flashNamed v).reg regSecFlashCtrl = getBits v 24 0 :=
  State.reg_setReg_same _ _ _ h ((getBits_lt v 24 0).trans (by decide))

theorem State.writeFlash_of_go {s : State} {v : Nat} (hgo : bitOf v 31 = true) (hfree : s.sec.flashing = none) :
    s.writeFlash v = (s.flashNamed v).startFlash (s.reg regSecFlashSrc) (getBits v 24 0) := by
  have hsrc : (s.flashNamed v).reg regSecFlashSrc = s.reg regSecFlashSrc := State.reg_setReg_other _ _ _ _ (by decide)
  rw [← hsrc]
  exact if_pos ⟨hgo, hfree⟩

theorem State.writeFlash_of_ignored {s : State} {v : Nat} (h : bitOf v 31 = false ∨ s.sec.flashing ≠ none) :
    s.writeFlash v = s.flashNamed v := by
  refine if_neg fun ⟨hgo, hfree⟩ => ?_
  rcases h with h | h
  · rw [hgo] at h; cases h
  · exact h hfree

theorem State.startFlash_bit {s : State} (h : Rising s.regs) (src len : Nat) :
    (s.startFlash src len).bit regSecStatus 4 = true := State.bit_setBit_same _ _ _ _ h (by decide)

/-- A write of SEC_FLASH_CTRL names its length; the update that a GO begins stands in `sec` and SEC_STATUS. -/
theorem State.writeFlash_frame {s : State} (h : Rising s.regs) (v : Nat) :
    (s.writeFlash v).reg regSecFlashCtrl = getBits v 24 0 ∧
      s.OnlyRegs { s.writeFlash v with sec := s.sec } [regSecFlashCtrl, regSecStatus] := by
  have hnamed := State.flashNamed_reg h v
  have hframe : s.OnlyRegs (s.flashNamed v) [regSecFlashCtrl, regSecStatus] :=
    (State.OnlyRegs.same s _).setReg (by simp) (by decide) _
  rw [State.writeFlash]
  split
  · have hbusy : s.OnlyRegs ((s.flashNamed v).setBit regSecStatus 4 true) [regSecFlashCtrl, regSecStatus] :=
      hframe.setBit (by simp) byteReg_secStatus _ _
    exact ⟨(State.reg_setBit_other _ _ _ _ _ (by decide)).trans hnamed, hbusy⟩
  · exact ⟨hnamed, hframe⟩

/-! ### Attestation (R484) -/

/-- SEC_STATUS and SEC_ATTEST_CTRL while an attestation runs. -/
def State.attestBusy (s : State) : State := (s.setBit regSecAttestCtrl 30 false).setBit regSecStatus 3 true

theorem State.attestGo_of_free {s : State} (h : s.sec.attest = none) : s.attestGo =
    (s.attestBusy.modSec fun x => { x with attest := some (s.reg regSecAttestBase, s.report) }).startSigning :=
  if_neg (by simp [h])

theorem State.attestBusy_spec {s : State} (h : Rising s.regs) : s.attestBusy.bit regSecStatus 3 = true ∧
    s.attestBusy.bit regSecAttestCtrl 30 = false ∧ s.OnlyRegs s.attestBusy [regSecStatus, regSecAttestCtrl] := by
  refine ⟨State.bit_setBit_same _ _ _ _ (State.setReg_rising _ _ _ h) (by decide), ?_, ?_⟩
  · exact (State.bit_congr (State.reg_setBit_other _ _ _ _ _ (by decide)) 30).trans
      (State.bit_setBit_same _ _ _ _ h (by decide))
  · exact ((State.OnlyRegs.same s _).setBit (by simp) (by decide) _ _).setBit
      (by simp) byteReg_secStatus _ _

/-! ### An image that boots (R466, R467, R485) -/

theorem State.setRegs_reg_other {s : State} {n : Nat} {f v : Nat → Nat} {o : Nat} (h : ∀ i, i < n → o ≠ f i) :
    (s.setRegs n f v).reg o = s.reg o := by
  induction n with
  | zero => rfl
  | succ n ih =>
    rw [State.setRegs_succ, State.reg_setReg_other _ _ _ _ (h n (by omega)), ih fun i hi => h i (by omega)]

theorem State.setWords_eq (s : State) (f : Nat → Nat) (bs : List Byte) :
    s.setWords f bs = { s with regs := (s.setWords f bs).regs } := State.setRegs_eq _ _ _ _

theorem State.setWords_rising {s : State} (h : Rising s.regs) (f : Nat → Nat) (bs : List Byte) :
    Rising (s.setWords f bs).regs := State.setRegs_rising h _ _ _

/-- The words of a 256-bit digest are four. -/
theorem length_shake256_div (bs : List Byte) : (shake256 32 bs).length / 8 ≤ 4 := by
  have h : (shake256 32 bs).length ≤ 32 := List.length_take_le _ _
  omega

/-- The digest of the running image reaches no register but its own four. -/
theorem State.setWords_fwDigest_reg (s : State) (bs : List Byte) {o : Nat} (ho : o < 0x1000010 ∨ 0x1000030 ≤ o) :
    (s.setWords regSecFwDigest (shake256 32 bs)).reg o = s.reg o := by
  have hlen := length_shake256_div bs
  refine State.setRegs_reg_other fun i hi => ?_
  simp only [regSecFwDigest]
  omega

/-- A new link key pair counted. -/
def State.pairCounted (s : State) : State := { s with sec := { s.sec with kemPairs := s.sec.kemPairs + 1 } }

/-- The credential of the current link key pair (R485). -/
def State.linkCredential (s : State) : List Byte :=
  ascii "FD8L" ++ leBytes 4 (s.reg regRruResets) ++ identityPk ++ s.linkEk ++ leBytes 8 s.time

theorem State.makeCredential_reg (s : State) {o : Nat} (ho : o ≠ regSecSignatures) :
    s.makeCredential.reg o = s.reg o :=
  (State.identitySign_reg s.pairCounted ctxLink s.pairCounted.linkCredential ho).trans (State.reg_congr rfl rfl o)

/-- A credential is drawn, signed and kept in the Security Unit. -/
theorem State.makeCredential_eq (s : State) : ∃ regs draws kem cred sig, s.makeCredential = { s with
    regs := regs
    sec := { s.sec with draws := draws, kemPairs := kem, credential := cred, credSig := sig } } := by
  unfold State.makeCredential State.identitySign
  dsimp only
  split <;> exact ⟨_, _, _, _, _, rfl⟩

/-- The registers of the running image before the link credential is made. -/
def State.imageNamed (s : State) (h : List Byte) (source : Nat) : State :=
  ((((s.setFld regSecBoot 31 28 0).setFld regSecBoot 27 24 source).setFld regSecBoot 23 20 (imgKeySlot h)).setWords
    regSecFwDigest (shake256 32 h)).setFld regSecSvn 7 0 (imgSvn h)

theorem State.bootImage_eq (s : State) (h : List Byte) (source : Nat) : s.bootImage h source =
    (((s.imageNamed h source).setBit regGlbStartup 30 false).enterPhase 4).makeCredential := rfl

/-- An image that boots moves registers and what the Security Unit draws and shows. -/
theorem State.bootImage_frame (s : State) (h : List Byte) (source : Nat) :
    ∃ regs draws kem cred sig, s.bootImage h source = { s with
      regs := regs
      sec := { s.sec with draws := draws, kemPairs := kem, credential := cred, credSig := sig } } := by
  obtain ⟨regs, draws, kem, cred, sig, hcred⟩ :=
    (((s.imageNamed h source).setBit regGlbStartup 30 false).enterPhase 4).makeCredential_eq
  have hnamed : s.imageNamed h source = { s with regs := (s.imageNamed h source).regs } := by
    rw [State.imageNamed, State.setWords_eq]
    rfl
  refine ⟨regs, draws, kem, cred, sig, ?_⟩
  rw [State.bootImage_eq, hcred, hnamed]
  rfl

section ImageNamed

variable {s : State} (hrise : Rising s.regs) (h : List Byte) (source : Nat)

include hrise

theorem State.imageNamed_rising : Rising (s.imageNamed h source).regs :=
  State.setReg_rising _ _ _ (State.setWords_rising
    (State.setReg_rising _ _ _ (State.setReg_rising _ _ _ (State.setReg_rising _ _ _ hrise))) _ _)

/-- SEC_BOOT of a running image: its result is 0, and it names its source. -/
theorem State.imageNamed_boot : (s.imageNamed h source).fld regSecBoot 31 28 = 0 ∧
    (s.imageNamed h source).fld regSecBoot 27 24 = source % 16 := by
  have h1 : Rising (s.setFld regSecBoot 31 28 0).regs := State.setReg_rising _ _ _ hrise
  have h2 : Rising ((s.setFld regSecBoot 31 28 0).setFld regSecBoot 27 24 source).regs := State.setReg_rising _ _ _ h1
  have hboot : (s.imageNamed h source).reg regSecBoot =
      (((s.setFld regSecBoot 31 28 0).setFld regSecBoot 27 24 source).setFld regSecBoot 23 20 (imgKeySlot h)).reg
        regSecBoot := by
    rw [State.imageNamed, State.reg_setFld_other _ _ _ _ _ _ (by decide), State.setWords_fwDigest_reg _ _ (by decide)]
  refine ⟨(State.fld_congr hboot _ _).trans ?_, (State.fld_congr hboot _ _).trans ?_⟩
  · rw [State.fld_setFld_other _ _ _ h2 (by decide) (by decide) (by decide),
      State.fld_setFld_other _ _ _ h1 (by decide) (by decide) (by decide),
      State.fld_setFld_same _ _ _ _ _ hrise (by decide) (by decide)]
    rfl
  · rw [State.fld_setFld_other _ _ _ h2 (by decide) (by decide) (by decide),
      State.fld_setFld_same _ _ _ _ _ h1 (by decide) (by decide)]
    rfl

/-- An image that boots: phase 4, RECOVERY clear, no failure, and its source named. -/
theorem State.bootImage_spec : (s.bootImage h source).startPhase = 4 ∧
    (s.bootImage h source).bit regGlbStartup 30 = false ∧ (s.bootImage h source).fld regSecBoot 31 28 = 0 ∧
    (s.bootImage h source).fld regSecBoot 27 24 = source % 16 := by
  have hnamed := State.imageNamed_rising hrise h source
  have hclear : Rising ((s.imageNamed h source).setBit regGlbStartup 30 false).regs := State.setReg_rising _ _ _ hnamed
  obtain ⟨hresult, hsource⟩ := State.imageNamed_boot hrise h source
  have hboot : (s.bootImage h source).reg regSecBoot = (s.imageNamed h source).reg regSecBoot := by
    rw [State.bootImage_eq, State.makeCredential_reg _ (by decide), State.enterPhase,
      State.reg_setFld_other _ _ _ _ _ _ (by decide), State.reg_setBit_other _ _ _ _ _ (by decide)]
  have hstart : (s.bootImage h source).reg regGlbStartup =
      (((s.imageNamed h source).setBit regGlbStartup 30 false).enterPhase 4).reg regGlbStartup := by
    rw [State.bootImage_eq, State.makeCredential_reg _ (by decide)]
  refine ⟨?_, ?_, (State.fld_congr hboot _ _).trans hresult, (State.fld_congr hboot _ _).trans hsource⟩
  · exact (State.fld_congr hstart _ _).trans (State.fld_setFld_same _ _ _ _ _ hclear (by decide) (by decide))
  · exact ((State.bit_congr hstart _).trans (State.bit_setFld_other _ _ _ _ _ _ hclear (by decide) (by decide)
      (by decide))).trans (State.bit_setBit_same _ _ _ _ hnamed (by decide))

end ImageNamed

/-! ### What a check answers (R476) -/

/-- A check answers one of the numbers of R476. -/
theorem imageCheck_le (read : Nat → Nat → List Byte) (len least : Nat) : imageCheck read len least ≤ 6 := by
  unfold imageCheck
  extract_lets
  split
  · decide
  · split
    · decide
    · split
      · decide
      · split
        · decide
        · split
          · decide
          · split <;> decide

theorem State.memoryCheck_le (s : State) (src len : Nat) : s.memoryCheck src len ≤ 6 := by
  unfold State.memoryCheck
  extract_lets r
  split
  · decide
  · exact imageCheck_le _ _ _

/-! ### Recovery: the check (R479) -/

/-- The result of checking an image that recovery streamed: 1 for a source outside the window. -/
def State.recoveryResult (s : State) (src len : Nat) : Nat := if inWindow src len then s.memoryCheck src len else 1

theorem State.recoveryResult_le (s : State) (src len : Nat) : s.recoveryResult src len ≤ 6 := by
  unfold State.recoveryResult
  split
  · exact s.memoryCheck_le src len
  · decide

/-- Recovery no longer waits for its check. -/
def State.recoveryTaken (s : State) : State := s.modSec fun x => { x with recovery := none }

/-- The image of recovery boots, and programs the flash where that was asked for. -/
def State.recoveryBoots (s : State) (src len : Nat) (wf : Bool) : State :=
  let t := s.bootImage (s.rdBytes src 4096) 1
  if wf = true ∧ t.sec.flashing = none then t.startFlash src len else t

/-- A check of recovery that failed is noted in SEC_BOOT. -/
def State.recoveryFails (s : State) (r : Nat) : State :=
  (s.setFld regSecBoot 31 28 r).setFld regSecBoot 7 0 (min 0xFF (s.fld regSecBoot 7 0 + 1))

theorem exec_recoveryCheckComplete {s : State} {src len : Nat} {wf : Bool} (h : s.sec.recovery = some (src, len, wf))
    (hphase : s.startsUp 3 = true) (hsource : s.sourceReady src = true) : exec .recoveryCheckComplete s = .next
    (if s.quiet.recoveryTaken.recoveryResult src len = 0 then s.quiet.recoveryTaken.recoveryBoots src len wf
      else s.quiet.recoveryTaken.recoveryFails (s.quiet.recoveryTaken.recoveryResult src len)) := by
  have h' : s.quiet.sec.recovery = some (src, len, wf) := h
  show execRecoveryCheckComplete s = _
  rw [execRecoveryCheckComplete]
  refine attempt_of_some ?_
  simp only [h']
  exact if_pos ⟨hphase, hsource⟩

theorem State.startFlash_reg_other (s : State) (src len : Nat) {o : Nat} (ho : o ≠ regSecStatus) :
    (s.startFlash src len).reg o = s.reg o := (State.reg_setBit_other _ _ _ _ _ ho).trans (State.reg_congr rfl rfl o)

theorem State.recoveryBoots_spec {s : State} (h : Rising s.regs) (src len : Nat) (wf : Bool) :
    (s.recoveryBoots src len wf).startPhase = 4 ∧ (s.recoveryBoots src len wf).fld regSecBoot 27 24 = 1 ∧
      (s.recoveryBoots src len wf).sec.flashing =
        if wf = true ∧ s.sec.flashing = none then some (src, len) else s.sec.flashing := by
  obtain ⟨hphase, -, -, hsource⟩ := State.bootImage_spec h (s.rdBytes src 4096) 1
  obtain ⟨regs, draws, kem, cred, sig, hframe⟩ := s.bootImage_frame (s.rdBytes src 4096) 1
  have hflash : (s.bootImage (s.rdBytes src 4096) 1).sec.flashing = s.sec.flashing := by rw [hframe]
  rw [State.recoveryBoots]
  simp only [hflash]
  split
  · exact ⟨(State.fld_congr (State.startFlash_reg_other _ _ _ (by decide)) _ _).trans hphase,
      (State.fld_congr (State.startFlash_reg_other _ _ _ (by decide)) _ _).trans hsource, rfl⟩
  · exact ⟨hphase, hsource, hflash⟩

theorem State.recoveryFails_spec {s : State} (h : Rising s.regs) {r : Nat} (hr : r ≤ 6) :
    (s.recoveryFails r).startPhase = s.startPhase ∧ (s.recoveryFails r).fld regSecBoot 31 28 = r ∧
      (s.recoveryFails r).sec = s.sec ∧ s.OnlyRegs (s.recoveryFails r) [regSecBoot] := by
  have h1 : Rising (s.setFld regSecBoot 31 28 r).regs := State.setReg_rising _ _ _ h
  refine ⟨?_, ?_, rfl, ?_⟩
  · exact State.fld_congr ((State.reg_setFld_other _ _ _ _ _ _ (by decide)).trans
      (State.reg_setFld_other _ _ _ _ _ _ (by decide))) _ _
  · rw [State.recoveryFails, State.fld_setFld_other _ _ _ h1 (by decide) (by decide) (by decide),
      State.fld_setFld_same _ _ _ _ _ h (by decide) (by decide)]
    exact Nat.mod_eq_of_lt (by omega)
  · exact ((State.OnlyRegs.same s _).setFld (by simp) (by decide) _ _ _).setFld (by simp) (by decide) _ _ _

/-! ### The flash update (R480, R499) -/

/-- The flash as an update leaves it: an image that passes its check is programmed, and may not read back. -/
def State.flashAfter (s : State) (ok : Bool) (src len : Nat) : List Host.Cell :=
  if s.memoryCheck src len == 0 then
    if ok then programFlash s.sec.flash (s.rdBytes src (imgLength (s.rdBytes src 4096))) else brokenFlash s.sec.flash
  else s.sec.flash

/-- SEC_STATUS after an update: FLASH_BUSY goes, and FLASH_FAILED is set on a failure. -/
def State.flashStatus (s : State) (good : Bool) : State :=
  let t := s.setBit regSecStatus 4 false
  if good then t else t.setBit regSecStatus 5 true

theorem State.flashStatus_sec (s : State) (good : Bool) : (s.flashStatus good).sec = s.sec := by
  cases good <;> rfl

theorem State.flashStatus_spec {s : State} (h : Rising s.regs) (good : Bool) :
    Rising (s.flashStatus good).regs ∧ (s.flashStatus good).bit regSecStatus 4 = false ∧
      (s.flashStatus good).bit regSecStatus 5 = (!good || s.bit regSecStatus 5) ∧
      s.OnlyRegs (s.flashStatus good) [regSecStatus] := by
  have h4 : Rising (s.setBit regSecStatus 4 false).regs := State.setReg_rising _ _ _ h
  have hclear : (s.setBit regSecStatus 4 false).bit regSecStatus 4 = false :=
    State.bit_setBit_same _ _ _ _ h (by decide)
  have hframe : s.OnlyRegs (s.setBit regSecStatus 4 false) [regSecStatus] :=
    (State.OnlyRegs.same s _).setBit (by simp) byteReg_secStatus _ _
  cases good with
  | true => exact ⟨h4, hclear, State.bit_setBit_other _ _ _ _ _ h (by decide) (by decide), hframe⟩
  | false =>
    exact ⟨State.setReg_rising _ _ _ h4,
      (State.bit_setBit_other _ _ _ _ _ h4 (by decide) (by decide)).trans hclear,
      State.bit_setBit_same _ _ _ _ h4 (by decide), hframe.setBit (by simp) byteReg_secStatus _ _⟩

/-- The Security Unit's books after an update. -/
def State.flashBooks (s : State) (ok : Bool) (src len : Nat) : State :=
  s.modSec fun x => { x with flashing := none, flash := s.flashAfter ok src len }

/-- An update of the flash has ended: vector 72 fires. -/
def State.flashUpdated (s : State) (ok : Bool) (src len : Nat) : State :=
  ((s.flashBooks ok src len).flashStatus ((s.memoryCheck src len == 0) && ok)).irq 72

theorem exec_flashUpdateComplete {s : State} {src len : Nat} (h : s.sec.flashing = some (src, len))
    (hsource : s.sourceReady src = true) (ok : Bool) :
    exec (.flashUpdateComplete ok) s = .next (s.quiet.flashUpdated ok src len) := by
  have h' : s.quiet.sec.flashing = some (src, len) := h
  show execFlashUpdateComplete ok s = _
  rw [execFlashUpdateComplete]
  refine attempt_of_some ?_
  simp only [h']
  exact if_pos hsource

theorem State.flashUpdated_sec (s : State) (ok : Bool) (src len : Nat) : (s.flashUpdated ok src len).sec =
    { s.sec with flashing := none, flash := s.flashAfter ok src len } :=
  State.flashStatus_sec (s.flashBooks ok src len) _

/-- A frame of registers from a state whose Security Unit has changed. -/
theorem State.OnlyRegs.of_modSec {s t : State} {f : Sec → Sec} {l : List Nat} (h : (s.modSec f).OnlyRegs t l) :
    s.OnlyRegs { t with sec := s.sec } l :=
  ⟨h.1, h.2.1, congrArg (fun z : State => { z with sec := s.sec }) h.2.2⟩

theorem State.flashUpdated_spec {s : State} (h : Rising s.regs) (ok : Bool) (src len : Nat) :
    (s.flashUpdated ok src len).bit regSecStatus 4 = false ∧
      (s.flashUpdated ok src len).bit (regOdlIrqPending 1) 8 = true ∧
      (s.flashUpdated ok src len).bit regSecStatus 5 =
        (!((s.memoryCheck src len == 0) && ok) || s.bit regSecStatus 5) ∧
      s.OnlyRegs { s.flashUpdated ok src len with sec := s.sec } [regSecStatus, regOdlIrqPending 1] := by
  obtain ⟨hrise, hbusy, hfailed, hframe⟩ :=
    State.flashStatus_spec (s := s.flashBooks ok src len) h ((s.memoryCheck src len == 0) && ok)
  have hstatus : (s.flashUpdated ok src len).reg regSecStatus =
      ((s.flashBooks ok src len).flashStatus ((s.memoryCheck src len == 0) && ok)).reg regSecStatus :=
    State.reg_setBit_other _ _ _ _ _ (by decide)
  have hirq : (s.flashBooks ok src len).OnlyRegs (s.flashUpdated ok src len) [regSecStatus, regOdlIrqPending 1] :=
    (hframe.trans (.refl _) (by simp) (by simp) (n := [regSecStatus, regOdlIrqPending 1])).setBit (by simp)
      (by decide) _ _
  exact ⟨(State.bit_congr hstatus 4).trans hbusy, State.bit_setBit_same _ _ _ _ hrise (by decide),
    (State.bit_congr hstatus 5).trans hfailed, State.OnlyRegs.of_modSec hirq⟩

/-! ### The attestation's completion (R481, R484) -/

/-- The report stands in memory: DONE, and vector 70 fires. -/
def State.attestDone (s : State) : State :=
  (((s.setBit regSecAttestCtrl 30 true).setBit regSecStatus 3 false).modSec fun x =>
    { x with attest := none }).nextSigning.irq 70

/-- Report and signature stored. -/
def State.attested (s : State) (base : Nat) (bs : List Byte) : State := (s.putBytes base bs).attestDone

theorem exec_attestComplete {s : State} {base : Nat} {report : List Byte} (h : s.sec.attest = some (base, report))
    (hready : s.ready = true) (hturn : s.signerNow = some .attest) (hruns : s.fatal = false)
    (hquench : s.quenchOver = false) : exec .attestComplete s = .next
    ((s.quiet.identitySign ctxAtt report).2.attested base (report ++ (s.quiet.identitySign ctxAtt report).1)) := by
  have h' : s.quiet.sec.attest = some (base, report) := h
  show execAttestComplete s = _
  rw [execAttestComplete]
  refine attempt_of_some ?_
  simp only [h']
  exact if_pos ⟨hready, hturn, hruns, hquench⟩

theorem State.attestDone_spec {s : State} (h : Rising s.regs) : s.attestDone.mem = s.mem ∧
    s.attestDone.bit regSecAttestCtrl 30 = true ∧ s.attestDone.bit regSecStatus 3 = false ∧
    s.attestDone.sec.attest = none ∧ s.attestDone.bit (regOdlIrqPending 1) 6 = true := by
  have hdone : Rising (s.setBit regSecAttestCtrl 30 true).regs := State.setReg_rising _ _ _ h
  have hidle : Rising ((s.setBit regSecAttestCtrl 30 true).setBit regSecStatus 3 false).regs :=
    State.setReg_rising _ _ _ hdone
  have hreg {o : Nat} (ho : o ≠ regOdlIrqPending 1) : s.attestDone.reg o =
      ((s.setBit regSecAttestCtrl 30 true).setBit regSecStatus 3 false).reg o :=
    (State.reg_setBit_other _ _ _ _ _ ho).trans (State.reg_congr rfl rfl o)
  refine ⟨rfl, ?_, ?_, rfl, State.bit_setBit_same _ _ _ _ hidle (by decide)⟩
  · exact (State.bit_congr ((hreg (by decide)).trans (State.reg_setBit_other _ _ _ _ _ (by decide))) 30).trans
      (State.bit_setBit_same _ _ _ _ h (by decide))
  · exact (State.bit_congr (hreg (by decide)) 3).trans (State.bit_setBit_same _ _ _ _ hdone (by decide))

theorem State.attested_spec {s : State} (h : s.Canonical) (base : Nat) (bs : List Byte) :
    (s.attested base bs).mem = (s.putBytes base bs).mem ∧ (s.attested base bs).bit regSecAttestCtrl 30 = true ∧
      (s.attested base bs).bit regSecStatus 3 = false ∧ (s.attested base bs).sec.attest = none ∧
      (s.attested base bs).bit (regOdlIrqPending 1) 6 = true :=
  State.attestDone_spec ((State.putBytes_keeps (.refl s)).canonical h).regs.1

theorem State.startPhase_of_startsUp {s : State} {n : Nat} (h : s.startsUp n = true) : s.startPhase = n :=
  beq_iff_eq.mp (Bool.and_eq_true_iff.mp h).2

/-! ### The obligation -/

section Settled

variable {s : State} (hs : s.Canonical) (hr : s.reachableRegs = true)
include hs hr

theorem entropyHealth_follows :
    (∃ t, exec .entropyHealthFail s = .next t ∧ t.bit regSecStatus 7 = true ∧ s.OnlyRegs t [regSecStatus]) ∧
    (∃ t, exec .entropyHealthRecover s = .next t ∧ t.bit regSecStatus 7 = false ∧ s.OnlyRegs t [regSecStatus]) := by
  have hframe (b : Bool) : s.OnlyRegs (s.quiet.setBit regSecStatus 7 b) [regSecStatus] :=
    (State.OnlyRegs.quiet s _).setBit (by simp) byteReg_secStatus _ _
  exact ⟨⟨_, exec_entropyHealthFail hr, State.bit_setBit_same _ _ _ _ hs.regs.1 (by decide), hframe true⟩,
    ⟨_, exec_entropyHealthRecover hr, State.bit_setBit_same _ _ _ _ hs.regs.1 (by decide), hframe false⟩⟩

theorem svnCommit_taken (hfree : s.sec.svnTarget = none) (hruns : 4 ≤ s.startPhase)
    (habove : s.sec.svnFuse < s.fld regSecSvn 7 0) : ∃ t, exec .svnCommit s = .next t ∧
      t.sec = { s.sec with svnTarget := some (s.fld regSecSvn 7 0) } ∧ t.bit regSecStatus 2 = true ∧
      s.OnlyRegs { t with sec := s.sec } [regSecStatus] := by
  have hframe : s.OnlyRegs (s.quiet.setBit regSecStatus 2 true) [regSecStatus] :=
    (State.OnlyRegs.quiet s _).setBit (by simp) byteReg_secStatus _ _
  exact ⟨_, (exec_svnCommit hr).trans (congrArg _ (State.commitSvn_of_above (s := s.quiet) hfree hruns habove)), rfl,
    State.bit_setBit_same _ _ _ _ hs.regs.1 (by decide), hframe⟩

theorem recoveryGo_names (v : Word) : ∃ t, exec (.recoveryGo v) s = .next t ∧
    (bitOf v.toNat 31 = true → s.bit regGlbStartup 30 = true → s.sec.recovery = none →
      t.sec.recovery = some (s.reg regSecRecoverySrc, getBits v.toNat 24 0, bitOf v.toNat 30)) ∧
    (bitOf v.toNat 31 = false ∨ s.bit regGlbStartup 30 = false ∨ s.sec.recovery ≠ none → t.sec = s.sec) ∧
    t.fld regSecRecoveryCtrl 24 0 = getBits v.toNat 24 0 ∧
    s.OnlyRegs { t with sec := s.sec } [regSecRecoveryCtrl] := by
  obtain ⟨hlen, hframe⟩ := State.writeRecovery_frame (s := s.quiet) hs.regs.1 v.toNat
  refine ⟨_, exec_recoveryGo hr v, fun hgo hawaits hfree => ?_, fun h => ?_, hlen,
    s.onlyRegs_quiet.trans hframe (by simp) (fun _ ho => ho)⟩
  · rw [State.writeRecovery_of_go (s := s.quiet) hgo hawaits hfree]
    rfl
  · rw [State.writeRecovery_of_ignored (s := s.quiet) h]
    rfl

theorem flashUpdateGo_names (v : Word) : ∃ t, exec (.flashUpdateGo v) s = .next t ∧
    (bitOf v.toNat 31 = true → s.sec.flashing = none → t.bit regSecStatus 4 = true ∧
      t.sec.flashing = some (s.reg regSecFlashSrc, getBits v.toNat 24 0)) ∧
    (bitOf v.toNat 31 = false ∨ s.sec.flashing ≠ none → t.sec = s.sec) ∧
    t.reg regSecFlashCtrl = getBits v.toNat 24 0 ∧
    s.OnlyRegs { t with sec := s.sec } [regSecFlashCtrl, regSecStatus] := by
  obtain ⟨hlen, hframe⟩ := State.writeFlash_frame (s := s.quiet) hs.regs.1 v.toNat
  refine ⟨_, exec_flashUpdateGo hr v, fun hgo hfree => ?_, fun h => ?_, hlen,
    s.onlyRegs_quiet.trans hframe (by simp) (fun _ ho => ho)⟩
  · rw [State.writeFlash_of_go (s := s.quiet) hgo hfree]
    exact ⟨State.startFlash_bit (State.setReg_rising _ _ _ hs.regs.1) (s.reg regSecFlashSrc) (getBits v.toNat 24 0), rfl⟩
  · rw [State.writeFlash_of_ignored (s := s.quiet) h]
    rfl

theorem attestGo_captures (hfree : s.sec.attest = none) : ∃ t, exec .attestGo s = .next t ∧
    t.sec.attest = some (s.reg regSecAttestBase, s.report) ∧ t.bit regSecStatus 3 = true ∧
    t.bit regSecAttestCtrl 30 = false ∧ s.OnlyRegs { t with sec := s.sec } [regSecStatus, regSecAttestCtrl] := by
  obtain ⟨hbusy, hdone, hframe⟩ := State.attestBusy_spec (s := s.quiet) hs.regs.1
  exact ⟨_, (exec_attestGo hr).trans (congrArg _ (State.attestGo_of_free (s := s.quiet) hfree)), rfl, hbusy, hdone,
    s.onlyRegs_quiet.trans hframe (by simp) (fun _ ho => ho)⟩

end Settled

theorem flashUpdate_ends {s : State} (hs : s.Canonical) {src len : Nat} (h : s.sec.flashing = some (src, len))
    (hsource : s.sourceReady src = true) (ok : Bool) :
    ∃ t, exec (.flashUpdateComplete ok) s = .next t ∧ t.sec.flashing = none ∧ t.bit regSecStatus 4 = false ∧
      t.bit (regOdlIrqPending 1) 8 = true ∧
      (s.memoryCheck src len = 0 → ok = true →
        t.sec.flash = programFlash s.sec.flash (s.rdBytes src (imgLength (s.rdBytes src 4096))) ∧
        t.bit regSecStatus 5 = s.bit regSecStatus 5) ∧
      (s.memoryCheck src len = 0 → ok = false → t.sec.flash = brokenFlash s.sec.flash ∧ t.bit regSecStatus 5 = true) ∧
      (s.memoryCheck src len ≠ 0 → t.sec.flash = s.sec.flash ∧ t.bit regSecStatus 5 = true) ∧
      s.OnlyRegs { t with sec := s.sec } [regSecStatus, regOdlIrqPending 1] := by
  obtain ⟨hbusy, hirq, hfailed, hframe⟩ := State.flashUpdated_spec (s := s.quiet) hs.regs.1 ok src len
  have hsec := State.flashUpdated_sec s.quiet ok src len
  have hcheck : s.quiet.memoryCheck src len = s.memoryCheck src len := rfl
  have hflash : (s.quiet.flashUpdated ok src len).sec.flash = s.flashAfter ok src len := by rw [hsec]; rfl
  refine ⟨_, exec_flashUpdateComplete h hsource ok, by rw [hsec], hbusy, hirq, fun hgood hok => ?_, fun hgood hok => ?_,
    fun hbad => ?_, s.onlyRegs_quiet.trans hframe (by simp) (fun _ ho => ho)⟩
  · rw [hflash, hfailed, hcheck, State.flashAfter, hgood, hok]
    exact ⟨rfl, rfl⟩
  · rw [hflash, hfailed, hcheck, State.flashAfter, hgood, hok]
    exact ⟨rfl, rfl⟩
  · have hne : (s.memoryCheck src len == 0) = false := beq_eq_false_iff_ne.mpr hbad
    rw [hflash, hfailed, hcheck, State.flashAfter, hne]
    exact ⟨rfl, rfl⟩

/-- Settles O58: each command by the branches of its operation. -/
theorem securityUnitCommands : Obligations.SecurityUnitCommands := by
  intro s hs
  refine ⟨fun hr => ⟨(entropyHealth_follows hs hr).1, (entropyHealth_follows hs hr).2, svnCommit_taken hs hr, fun h => ?_,
    recoveryGo_names hs hr, flashUpdateGo_names hs hr, attestGo_captures hs hr⟩, fun v h => ?_,
    fun src len wf h hphase hsource => ⟨fun hgood => ?_, fun hbad => ?_⟩,
    fun src len ok h hsource => flashUpdate_ends hs h hsource ok, fun base report h hready hturn hruns hquench => ?_⟩
  · exact (exec_svnCommit hr).trans (congrArg _ (State.commitSvn_of_not (s := s.quiet) h))
  · obtain ⟨hsec, hbusy, hshown, hframe⟩ := State.fusesBlown_spec (s := s.quiet) hs.regs.1 v
    exact ⟨_, exec_svnCommitComplete h, by rw [hsec], by rw [hsec], hbusy, hshown,
      s.onlyRegs_quiet.trans hframe (by simp) (fun _ ho => ho)⟩
  · have hx := exec_recoveryCheckComplete h hphase hsource
    have hr : s.quiet.recoveryTaken.recoveryResult src len = 0 := hgood
    rw [if_pos hr] at hx
    exact ⟨_, hx, State.recoveryBoots_spec (s := s.quiet.recoveryTaken) hs.regs.1 src len wf⟩
  · have hx := exec_recoveryCheckComplete h hphase hsource
    have hr : s.quiet.recoveryTaken.recoveryResult src len ≠ 0 := hbad
    rw [if_neg hr] at hx
    obtain ⟨hstart, hresult, hsec, hframe⟩ := State.recoveryFails_spec (s := s.quiet.recoveryTaken) hs.regs.1
      (State.recoveryResult_le _ src len)
    refine ⟨_, hx, hstart.trans (State.startPhase_of_startsUp hphase), hresult, hsec, ?_⟩
    exact s.onlyRegs_quiet.trans (State.OnlyRegs.of_modSec hframe) (by simp) (fun _ ho => ho)
  · have hsigned : (s.quiet.identitySign ctxAtt report).2.Canonical :=
      (State.identitySign_keeps (.refl s.quiet)).canonical (hs.congr rfl rfl rfl rfl)
    obtain ⟨hmem, hdone, hbusy, hfree, hirq⟩ := State.attested_spec hsigned base
      (report ++ (s.quiet.identitySign ctxAtt report).1)
    exact ⟨_, _, _, exec_attestComplete h hready hturn hruns hquench, Prod.mk.eta.symm, hmem, hdone, hbusy, hfree, hirq⟩

end Sys2Proof.Machine
end

section
/-! What packets that move through the switch leave as it was (R305 to R326, R385). -/

namespace Sys2Proof.Machine

open Sys2Proof

/-- The counters of the switch. -/
abbrev switchCount (o : Nat) : Prop := 0x900020 ≤ o ∧ o < 0x900050

/-- From `s` to `t` packets move: of what is no register only the ports, the packets at the node, the fans of the
multicasts and the outputs change, and of the registers only counters of the switch. -/
structure State.Moves (s t : State) : Prop where
  rest : ∃ regs ports inject rx fans out, t = { s with
    regs := regs, ports := ports, inject := inject, rx := rx, rme := { s.rme with fans := fans }, out := out }
  reg : ∀ o, ¬ switchCount o → t.reg o = s.reg o

namespace State.Moves

theorem refl (s : State) : s.Moves s := ⟨⟨_, _, _, _, _, _, rfl⟩, fun _ _ => rfl⟩

theorem trans {s t u : State} (h : s.Moves t) (g : t.Moves u) : s.Moves u := by
  refine ⟨?_, fun o ho => (g.reg o ho).trans (h.reg o ho)⟩
  obtain ⟨_, _, _, _, _, _, ht⟩ := h.rest
  obtain ⟨_, _, _, _, _, _, hu⟩ := g.rest
  rw [hu, ht]
  exact ⟨_, _, _, _, _, _, rfl⟩

theorem foldl {α : Type} {f : State → α → State} (hf : ∀ (z : State) (a : α), z.Moves (f z a)) (l : List α)
    (s : State) : s.Moves (l.foldl f s) :=
  List.foldlRecOn (motive := fun t => s.Moves t) l f (refl s) fun t ht a _ => ht.trans (hf t a)

/-- A change of no register. -/
theorem of_regs {s t : State} (ports : List Port) (inject rx : List Pkt) (fans : List Fan) (out : List Out)
    (h : t = { s with ports := ports, inject := inject, rx := rx, rme := { s.rme with fans := fans }, out := out }) :
    s.Moves t := by
  subst h
  exact ⟨⟨_, _, _, _, _, _, rfl⟩, fun _ _ => rfl⟩

section Fields

variable {s t : State} (h : s.Moves t)
include h

theorem variant : t.variant = s.variant := by obtain ⟨_, _, _, _, _, _, rfl⟩ := h.rest; rfl
theorem mem : t.mem = s.mem := by obtain ⟨_, _, _, _, _, _, rfl⟩ := h.rest; rfl
theorem tasks : t.tasks = s.tasks := by obtain ⟨_, _, _, _, _, _, rfl⟩ := h.rest; rfl
theorem time : t.time = s.time := by obtain ⟨_, _, _, _, _, _, rfl⟩ := h.rest; rfl
theorem hbm : t.hbm = s.hbm := by obtain ⟨_, _, _, _, _, _, rfl⟩ := h.rest; rfl
theorem odl : t.odl = s.odl := by obtain ⟨_, _, _, _, _, _, rfl⟩ := h.rest; rfl
theorem startup : t.startup = s.startup := by obtain ⟨_, _, _, _, _, _, rfl⟩ := h.rest; rfl
theorem power : t.power = s.power := by obtain ⟨_, _, _, _, _, _, rfl⟩ := h.rest; rfl
theorem vin : t.vin = s.vin := by obtain ⟨_, _, _, _, _, _, rfl⟩ := h.rest; rfl

end Fields

end State.Moves

section Steps

variable (s : State)

theorem State.addReg_moves {o : Nat} (ho : switchCount o) (n : Nat) : s.Moves (s.addReg o n) :=
  ⟨⟨_, _, _, _, _, _, rfl⟩, fun _ hj => State.reg_addReg_other _ _ _ _ fun e => hj (e ▸ ho)⟩

theorem State.countIn_moves (e n : Nat) : s.Moves (s.countIn e n) := by
  have hcount : switchCount (regNswEpochIn (e % 2)) := by simp only [switchCount, regNswEpochIn]; omega
  unfold State.countIn
  split
  · exact s.addReg_moves hcount n
  · exact .refl s

theorem State.countOut_moves (e n : Nat) : s.Moves (s.countOut e n) := by
  have hcount : switchCount (regNswEpochOut (e % 2)) := by simp only [switchCount, regNswEpochOut]; omega
  unfold State.countOut
  split
  · exact s.addReg_moves hcount n
  · exact .refl s

theorem State.injectOn_moves (out : Nat) (p : Pkt) : s.Moves (s.injectOn out p) := .of_regs _ _ _ _ _ rfl

theorem State.injectPkt_moves (p : Pkt) : s.Moves (s.injectPkt p) :=
  State.Moves.trans (.of_regs _ _ _ _ _ rfl) (State.countOut_moves _ _ _)

theorem State.modPort_moves (p : Nat) (f : Port → Port) : s.Moves (s.modPort p f) := .of_regs _ _ _ _ _ rfl

theorem State.Sends.moves {s t : State} {p : Nat} (h : s.Sends p t) : s.Moves t := .of_regs _ _ _ _ _ h.rest

theorem State.takePkt_moves (i : Nat) (p : Pkt) : s.Moves (s.takePkt i p) := by
  unfold State.takePkt
  split
  · exact .of_regs _ _ _ _ _ rfl
  · exact s.modPort_moves _ _

theorem State.creditFrame_moves (i : Nat) : s.Moves (s.creditFrame i) := by
  unfold State.creditFrame
  split
  · exact (s.nextFrame_sends i).moves
  · exact .refl s

theorem State.taken_moves (i : Nat) (p : Pkt) : s.Moves (s.taken i p) :=
  (s.takePkt_moves i p).trans (State.creditFrame_moves _ i)

/-- The counters of a dropped packet. -/
def State.dropCounted (s : State) (i : Nat) (p : Pkt) (reason : Nat) : State :=
  let s0 := s.addReg regNswDrops 1
  let s1 := if p.linkLocal then s0 else s0.countIn p.epoch 1
  let s2 := if reason = 3 then s1.addReg regNswStale 1 else s1
  if i < 24 then s2.modPort i fun x => { x with sDrops := x.sDrops + 1 } else s2

theorem State.dropCounted_moves (i : Nat) (p : Pkt) (reason : Nat) : s.Moves (s.dropCounted i p reason) := by
  have hdrop : s.Moves (s.addReg regNswDrops 1) := s.addReg_moves (by decide) 1
  unfold State.dropCounted
  extract_lets s0 s1 s2
  have h1 : s.Moves s1 := by
    unfold s1
    split
    · exact hdrop
    · exact hdrop.trans (State.countIn_moves _ _ _)
  have h2 : s.Moves s2 := by
    unfold s2
    split
    · exact h1.trans (State.addReg_moves _ (by decide) 1)
    · exact h1
  split
  · exact h2.trans (State.modPort_moves _ _ _)
  · exact h2

theorem State.dropPkt_moves (i : Nat) (p : Pkt) (reason : Nat) : s.Moves (s.dropPkt i p reason) := by
  have hcounted := s.dropCounted_moves i p reason
  show s.Moves (if p.kind = kDrop ∨ p.linkLocal = true then s.dropCounted i p reason
    else (s.dropCounted i p reason).injectPkt _)
  split
  · exact hcounted
  · exact hcounted.trans (State.injectPkt_moves _ _)

theorem State.sendOut_moves {s t : State} {out : Nat} {p : Pkt} (h : s.sendOut out p = some t) : s.Moves t := by
  unfold State.sendOut at h
  split at h
  · split at h
    · next x _ =>
      cases h
      exact State.Moves.trans (.of_regs _ _ _ _ _ rfl) (State.sendFrames_sends _ out false).moves
    · cases h
  · cases h

theorem State.sendInTurn_moves {s s0 t : State} {out : Nat} {p : Pkt} (h : s.sendInTurn s0 out p = some t) :
    s.Moves t := by
  unfold State.sendInTurn at h
  split at h
  · obtain ⟨z, hz, rfl⟩ := Option.map_eq_some_iff.mp h
    have hsent := State.sendOut_moves hz
    split
    · exact hsent
    · exact hsent.trans (State.sendFrames_sends z out true).moves
  · cases h

theorem State.press_moves (i : Nat) (p : Pkt) : s.Moves (s.press i p).1 := by
  unfold State.press
  split
  · refine List.foldlRecOn (motive := fun a : State × Pkt => s.Moves a.1) _ _ (.refl s) fun a ha j _ => ?_
    split
    · split
      · exact ((ha.trans (State.takePkt_moves _ _ _)).trans (State.countIn_moves _ _ _)).trans
          (State.creditFrame_moves _ _)
      · exact ha
    · exact ha
  · exact .refl s

theorem State.fanLeft_moves (p : Pkt) : s.Moves (s.fanLeft p) := by
  unfold State.fanLeft
  split
  · split
    · exact .of_regs _ _ _ _ _ rfl
    · exact .refl s
  · exact .refl s

theorem State.deliver_moves (p : Pkt) : s.Moves (s.deliver p) := .of_regs _ _ _ _ _ rfl

end Steps

theorem State.leaves_moves {s z : State} {i : Nat} {p : Pkt} (h : s.leaves i p = some z) : s.Moves z := by
  have htaken := s.taken_moves i p
  unfold State.leaves at h
  dsimp only at h
  cases hpress : ((s.taken i p).press i p).1.sendInTurn s (s.outputOf p (s.route (p.epoch % 2) p.dst))
      ((s.taken i p).press i p).2 with
  | some y =>
    rw [hpress] at h
    cases h
    exact (htaken.trans (State.press_moves _ i p)).trans (State.sendInTurn_moves hpress)
  | none =>
    rw [hpress] at h
    exact htaken.trans (State.sendInTurn_moves h)

theorem State.forward_moves_of_fresh {s t : State} {i vc : Nat} {p : Pkt} (hhead : s.headPkt i vc = some p)
    (hmove : s.movable i p = true) (harrived : p.port < 32) (hepoch : s.epochOk p.epoch = true)
    (h : s.forward i vc = some t) : s.Moves t := by
  have htaken := s.taken_moves i p
  have hdropped (r : Nat) : s.Moves ((s.taken i p).dropPkt i p r) := htaken.trans (State.dropPkt_moves _ _ _ _)
  cases htree : p.tree with
  | true =>
    rw [State.forward_tree hhead hmove harrived hepoch htree] at h
    obtain ⟨-, ⟨⟩⟩ := Option.ite_none_right_eq_some.mp h
    exact htaken.trans (State.deliver_moves _ _)
  | false =>
    by_cases hends : p.dst = s.deviceId ∨ routeValid (s.route (p.epoch % 2) p.dst) = true ∧
        routePort (s.route (p.epoch % 2) p.dst) = 31
    · rw [State.forward_here hhead hmove harrived hepoch htree hends] at h
      cases h
      exact ((htaken.trans (State.press_moves _ _ _)).trans (State.countIn_moves _ _ _)).trans (State.deliver_moves _ _)
    · by_cases hroute : routeValid (s.route (p.epoch % 2) p.dst) = false
      · rw [State.forward_unrouted hhead hmove harrived hepoch htree hends hroute] at h
        cases h
        exact hdropped 1
      · by_cases hspent : p.hops ≤ 1
        · rw [State.forward_spent hhead hmove harrived hepoch htree hends hroute hspent] at h
          cases h
          exact hdropped 2
        · have hhops := Nat.lt_of_not_le hspent
          cases hleaves : s.leaves i p with
          | none =>
            rw [State.forward_unsent hhead hmove harrived hepoch htree hends hroute hhops hleaves] at h
            obtain ⟨-, ⟨⟩⟩ := Option.ite_none_right_eq_some.mp h
            exact hdropped 4
          | some z =>
            rw [State.forward_sent hhead hmove harrived hepoch htree hends hroute hhops hleaves] at h
            cases h
            split
            · exact (State.leaves_moves hleaves).trans (State.modPort_moves _ _ _)
            · exact State.leaves_moves hleaves

/-- A packet that leaves its input moves nothing else (R305 to R326). -/
theorem State.forward_moves {s t : State} {i vc : Nat} (h : s.forward i vc = some t) : s.Moves t := by
  cases hhead : s.headPkt i vc with
  | none => simp [State.forward, hhead] at h
  | some p =>
    have htaken := s.taken_moves i p
    have hdropped (r : Nat) : s.Moves ((s.taken i p).dropPkt i p r) := htaken.trans (State.dropPkt_moves _ _ _ _)
    cases hmove : s.movable i p with
    | false => rw [State.forward_of_stuck hhead hmove] at h; cases h
    | true =>
      by_cases hcopy : 32 ≤ p.port
      · by_cases hfailed : s.portState (p.port - 32) = 4
        · rw [State.forward_copy_failed hhead hmove hcopy hfailed] at h
          cases h
          exact (hdropped 4).trans (State.fanLeft_moves _ _)
        · by_cases hspent : p.hops ≤ 1
          · rw [State.forward_copy_spent hhead hmove hcopy hfailed hspent] at h
            cases h
            exact (hdropped 2).trans (State.fanLeft_moves _ _)
          · rw [State.forward_copy hhead hmove hcopy hfailed (Nat.lt_of_not_le hspent)] at h
            obtain ⟨z, hz, rfl⟩ := Option.map_eq_some_iff.mp h
            exact (htaken.trans (State.sendInTurn_moves hz)).trans (State.fanLeft_moves _ _)
      · have harrived : p.port < 32 := Nat.lt_of_not_le hcopy
        cases hepoch : s.epochOk p.epoch with
        | false =>
          rw [State.forward_stale hhead hmove harrived hepoch] at h
          cases h
          exact hdropped 3
        | true => exact State.forward_moves_of_fresh hhead hmove harrived hepoch h

/-! ### Aborts and the flush before the transmitters go idle (R385, R446, R463) -/

theorem State.abortToward_moves (s : State) : s.Moves s.abortToward := by
  unfold State.abortToward
  refine .trans (.foldl (fun z c => .foldl (fun y o => ?_) _ z) _ s) (.foldl (fun z x => .foldl (fun y m => ?_) _ z) _ _)
  · exact (State.injectOn_moves y _ _).trans (State.countOut_moves _ _ _)
  · exact State.injectPkt_moves y _

theorem State.flushAborts_moves (s : State) : s.Moves s.flushAborts := by
  unfold State.flushAborts
  refine State.Moves.trans (.of_regs _ _ _ _ _ rfl) (.foldl (fun z _ => ?_) _ _)
  split
  · next p rest _ =>
    cases hf : z.forward 24 p.vc with
    | none => exact .of_regs _ _ _ _ _ rfl
    | some t => exact State.forward_moves hf
  · exact .refl z

end Sys2Proof.Machine
end

section
/-! A full or warm reset (R431, R432, R462 to R465). -/

namespace Sys2Proof.Machine

open Sys2Proof

/-! ### What stands when start-up begins (R463, R258) -/

/-- Of the window's lines only companion memory takes bytes, and the window's books change. -/
theorem State.settleWindow_rest (s : State) : ∃ mem odl, s.settleWindow = { s with mem := mem, odl := odl } := by
  unfold State.settleWindow
  split
  · refine List.foldlRecOn (motive := fun t : State => ∃ mem odl, t = { s with mem := mem, odl := odl }) _ _
      ⟨s.mem, s.odl, rfl⟩ ?_
    rintro _ ⟨mem, odl, rfl⟩ l _
    exact ⟨_, _, rfl⟩
  · exact ⟨_, _, rfl⟩

/-- With no dirty byte a line written back changes no memory. -/
theorem State.writeBack_clean {s : State} (h : s.odl.dirty = []) (l : Nat) :
    (s.writeBack l).mem = s.mem ∧ (s.writeBack l).odl.dirty = [] := by
  constructor <;> simp [State.writeBack, h]

theorem State.settleWindow_clean {s : State} (h : s.odl.dirty = []) : s.settleWindow.mem = s.mem := by
  unfold State.settleWindow
  split
  · exact (List.foldlRecOn (motive := fun t : State => t.mem = s.mem ∧ t.odl.dirty = []) _ _ ⟨rfl, h⟩
      fun z ⟨hmem, hclean⟩ l _ => ⟨(State.writeBack_clean hclean l).1.trans hmem, (State.writeBack_clean hclean l).2⟩).1
  · rfl

theorem State.cutDarning_of_none {s : State} (h : s.hbm.darning = none) : s.cutDarning = s := by
  simp only [State.cutDarning, h]

theorem State.scramble_time (s : State) (a n : Nat) : (s.scramble a n).time = s.time := rfl

theorem State.scramble_startup (s : State) (a n : Nat) : (s.scramble a n).startup = s.startup := rfl

theorem State.scrambles_startup (s : State) (n : Nat) (l : List Nat) :
    (l.foldl (fun y a => y.scramble a n) s).time = s.time ∧
      (l.foldl (fun y a => y.scramble a n) s).startup = s.startup := by
  induction l generalizing s with
  | nil => exact ⟨rfl, rfl⟩
  | cons a l ih => exact ⟨(ih _).1.trans (s.scramble_time a n), (ih _).2.trans (s.scramble_startup a n)⟩

/-- A darning that is cut off leaves the time and RESET_N as they are. -/
theorem State.cutDarning_startup (s : State) : s.cutDarning.time = s.time ∧
    s.cutDarning.startup.resetLow = s.startup.resetLow := by
  unfold State.cutDarning
  split
  · next ch _ =>
    have hscrambled := List.foldlRecOn (motive := fun t : State => t.time = s.time ∧ t.startup = s.startup)
      (s.regionsOn ch) (fun z i => (z.granulesOn i ch).foldl (fun y a => y.scramble a 256) z) ⟨rfl, rfl⟩
      fun z hz i _ => ⟨(z.scrambles_startup 256 _).1.trans hz.1, (z.scrambles_startup 256 _).2.trans hz.2⟩
    exact ⟨hscrambled.1, (congrArg (fun u : Startup => u.resetLow) hscrambled.2 :)⟩
  · exact ⟨rfl, rfl⟩

/-! ### The reset state (R464) -/

/-- GLB_STARTUP keeps nothing over a reset. -/
theorem State.keptWord_startup (s : State) (trip : Bool) (w : Word) : s.keptWord trip regGlbStartup w = none := by
  have hrow : (regRow regGlbStartup).map (·.rs) = some 0 := by decide
  obtain ⟨r, hr, hrs⟩ := Option.map_eq_some_iff.mp hrow
  have himage : ¬ (regCadImage 0 ≤ regGlbStartup ∧ regGlbStartup < regCadImage 512) := by decide
  have hmask (x y : Word) : (x &&& ~~~BitVec.ofNat 64 0) ||| (y &&& BitVec.ofNat 64 0) = x := by
    rw [show BitVec.ofNat 64 0 = 0#64 from rfl, BitVec.and_zero, BitVec.or_zero, BitVec.not_zero, BitVec.and_allOnes]
  simp only [State.keptWord, if_neg himage, hr, hrs, hmask, if_true]

theorem State.keptRegs_startup (s : State) (trip : Bool) : ∀ c ∈ s.keptRegs trip, c.1 ≠ regGlbStartup := by
  intro c hc hkept
  obtain ⟨x, -, hx⟩ := List.mem_filterMap.mp hc
  obtain ⟨w, hw, hkey⟩ := Option.map_eq_some_iff.mp hx
  rw [show x.1 = regGlbStartup from (congrArg Prod.fst hkey).trans hkept, State.keptWord_startup] at hw
  cases hw

/-- The reset state before start-up names its kind and its first phase. -/
def State.resetBase (s : State) : State := { State.reset with
  variant := s.variant
  regs := s.keptRegs (s.bit regPwrStatus 10)
  time := s.time
  mem := s.mem.filter fun c => keptAddr (s.bit regPwrStatus 10) c.1
  poison := s.poison.filter fun l => keptAddr (s.bit regPwrStatus 10) (64 * l)
  journal := { Journal.reset with waiting := s.hbm.kept.waits }
  sched := { Sched.reset with heatAt := s.time, surveyAt := s.time, slotAt := s.time }
  hbm := s.hbm.kept
  vin := s.vin
  startup := { s.startup with porActive := false, timer := 0, portsAt := 0, stageDone := true }
  sec := { Sec.reset with
    svnFuse := s.settledFuse, draws := s.sec.draws, kemPairs := s.sec.kemPairs
    flash := if s.sec.flashing.isSome then brokenFlash s.sec.flash else s.sec.flash }
  odl := { Odl.reset with lastBeat := s.time }
  mgmt := { s.mgmt with dynAddr := none, ibiOn := false, offset := 0 }
  free := s.free + 1
  out := s.out
  pending := s.pending }

/-- The registers of the journal and of RRU_INCOMPLETE carried over a reset. -/
def State.resetCarried (s : State) : State :=
  (s.resetBase.journalAfter.addReg regRruResets 1).markIncomplete (s.pubs.find? fun b => decide (1 ≤ b.step))

theorem State.afterReset_eq (s : State) (kind : Nat) : s.afterReset kind =
    (s.resetCarried.setFld regGlbStartup 29 28 kind).enterPhase (if s.startup.resetLow then 1 else 2) := rfl

theorem State.markIncomplete_rest (s : State) (b : Option Publish) :
    (∃ regs, s.markIncomplete b = { s with regs := regs }) ∧
      ∀ o, o ≠ regRruIncomplete → (s.markIncomplete b).reg o = s.reg o := by
  cases b with
  | none => exact ⟨⟨_, rfl⟩, fun _ _ => rfl⟩
  | some b => exact ⟨⟨_, rfl⟩, fun _ ho => State.reg_setReg_other _ _ _ _ ho⟩

/-- Of what a reset begins from, the carried registers change alone. -/
theorem State.resetCarried_rest (s : State) : ∃ regs, s.resetCarried = { s.resetBase with regs := regs } := by
  obtain ⟨⟨regs, h⟩, -⟩ :=
    (s.resetBase.journalAfter.addReg regRruResets 1).markIncomplete_rest (s.pubs.find? fun b => decide (1 ≤ b.step))
  exact ⟨regs, h⟩

theorem State.journalAfter_reg_other (s : State) {o : Nat} (h : o < 0x100000) : s.journalAfter.reg o = s.reg o := by
  simp only [State.journalAfter]
  rw [State.reg_setReg_other _ _ _ _ (by simp only [regCmdJournalChain]; omega),
    State.reg_setReg_other _ _ _ _ (by simp only [regCmdJournalChain]; omega),
    State.reg_setReg_other _ _ _ _ (by simp only [regCmdJournalClosed]; omega),
    State.reg_setReg_other _ _ _ _ (by simp only [regCmdJournalTail]; omega),
    State.reg_setReg_other _ _ _ _ (by simp only [regCmdJournalHead]; omega)]

theorem resetWord_startup (v : Variant) : resetWord v regGlbStartup = 1 := by cases v <;> decide

theorem State.resetCarried_startup (s : State) : s.resetCarried.reg regGlbStartup = 1 := by
  have hbase : s.resetBase.reg regGlbStartup = 1 := by
    have hkept : mapGet (resetWord s.variant regGlbStartup) regGlbStartup s.resetBase.regs =
        resetWord s.variant regGlbStartup := mapGet_of_not_mem (s.keptRegs_startup _)
    exact (congrArg BitVec.toNat (hkept.trans (resetWord_startup _)))
  rw [State.resetCarried, ((State.markIncomplete_rest _ _).2 _ (by decide)), State.reg_addReg_other _ _ _ _ (by decide),
    State.journalAfter_reg_other _ (by decide), hbase]

theorem mapGet_filter {α : Type} (d : α) {p : Nat → Bool} {a : Nat} (ha : p a = true) (m : List (Nat × α)) :
    mapGet d a (m.filter fun c => p c.1) = mapGet d a m := by
  induction m with
  | nil => rfl
  | cons c m ih =>
    rw [List.filter_cons]
    split
    · simp only [mapGet, ih]
    · next hc =>
      have hne : a ≠ c.1 := fun e => hc (e ▸ ha)
      simp only [mapGet, if_neg hne, ih]

/-- What a reset leaves: no task, the time, and in GLB_STARTUP its kind and phase, READY clear. -/
theorem State.afterReset_spec {s : State} (hs : s.Canonical) (kind : Nat) : (s.afterReset kind).tasks = [] ∧
    (s.afterReset kind).time = s.time ∧ (s.afterReset kind).ready = false ∧
    (s.afterReset kind).startPhase = (if s.startup.resetLow then 1 else 2) ∧
    (s.afterReset kind).fld regGlbStartup 29 28 = kind % 4 ∧
    (s.afterReset kind).mem = s.mem.filter fun c => keptAddr (s.bit regPwrStatus 10) c.1 := by
  obtain ⟨regs, hrest⟩ := s.resetCarried_rest
  have hbase : s.resetBase.Canonical := ⟨keptRegs_wf hs.regs, filter_wf hs.mem, hs.poison.filter _⟩
  have hcarried : s.resetCarried.Canonical := (State.markIncomplete_keeps (State.addReg_keeps
    (State.journalAfter_keeps (.refl s.resetBase)))).canonical hbase
  have hkind : Rising (s.resetCarried.setFld regGlbStartup 29 28 kind).regs := State.setReg_rising _ _ _ hcarried.regs.1
  rw [State.afterReset_eq]
  refine ⟨?_, ?_, ?_, ?_, ?_, ?_⟩
  · rw [hrest]; rfl
  · rw [hrest]; rfl
  · rw [State.ready, State.enterPhase, State.bit_setFld_other _ _ _ _ _ _ hkind (by decide) (by decide) (by decide),
      State.bit_setFld_other _ _ _ _ _ _ hcarried.regs.1 (by decide) (by decide) (by decide), State.bit, State.fld,
      State.resetCarried_startup]
    rfl
  · refine (State.fld_setFld_same _ _ _ _ _ hkind (by decide) (by decide)).trans ?_
    split <;> rfl
  · rw [State.enterPhase, State.fld_setFld_other _ _ _ hkind (by decide) (by decide) (by decide),
      State.fld_setFld_same _ _ _ _ _ hcarried.regs.1 (by decide) (by decide)]
    rfl
  · rw [hrest]; rfl

/-! ### The reset of a device that is ready (R462, R463) -/

/-- A device as a reset finds it: aborts have left, the window has settled, a migration is cut off. -/
def State.resetReady (s : State) : State := s.abortToward.flushAborts.settleWindow.cutDarning

section Ready

variable {s : State}

theorem State.resetDevice_of_ready (hready : s.ready = true) (hcool : s.bit regPwrStatus 10 = false)
    (hpor : s.startup.porActive = false) (kind : Nat) : s.resetDevice kind = s.resetReady.afterReset kind := by
  have hkind : s.resetKind kind = kind := if_neg (by simp [hready])
  rw [State.resetDevice, if_neg (by simp [hcool]), if_neg (by simp [hpor]), hkind]
  rfl

theorem State.flushed_moves (s : State) : s.Moves s.abortToward.flushAborts :=
  s.abortToward_moves.trans (State.flushAborts_moves _)

theorem State.resetReady_canonical (hs : s.Canonical) : s.resetReady.Canonical :=
  (State.cutDarning_keeps (State.settleWindow_keeps (State.flushAborts_keeps (State.abortToward_keeps
    (.refl s))))).canonical hs

theorem State.resetReady_startup (s : State) :
    s.resetReady.time = s.time ∧ s.resetReady.startup.resetLow = s.startup.resetLow := by
  have hmoves := s.flushed_moves
  obtain ⟨htime, hlow⟩ := s.abortToward.flushAborts.settleWindow.cutDarning_startup
  obtain ⟨mem, odl, hsettled⟩ := s.abortToward.flushAborts.settleWindow_rest
  have htime' : s.abortToward.flushAborts.settleWindow.time = s.time := by rw [hsettled]; exact hmoves.time
  have hstartup : s.abortToward.flushAborts.settleWindow.startup = s.startup := by rw [hsettled]; exact hmoves.startup
  exact ⟨htime.trans htime', hlow.trans (congrArg Startup.resetLow hstartup)⟩

/-- With no darning and nothing dirty in the window, memory stands, and so does what tells of a trip. -/
theorem State.resetReady_clean (hdarn : s.hbm.darning = none) (hclean : s.odl.dirty = []) :
    s.resetReady.mem = s.mem ∧ s.resetReady.bit regPwrStatus 10 = s.bit regPwrStatus 10 := by
  have hmoves := s.flushed_moves
  obtain ⟨mem, odl, hsettled⟩ := s.abortToward.flushAborts.settleWindow_rest
  have hnone : s.abortToward.flushAborts.settleWindow.hbm.darning = none := by
    rw [hsettled]
    exact (congrArg Hbm.darning hmoves.hbm).trans hdarn
  have hdirty : s.abortToward.flushAborts.odl.dirty = [] := (congrArg Odl.dirty hmoves.odl).trans hclean
  rw [State.resetReady, State.cutDarning_of_none hnone]
  refine ⟨(State.settleWindow_clean hdirty).trans hmoves.mem, ?_⟩
  rw [hsettled]
  exact State.bit_congr (hmoves.reg _ (by decide)) 10

end Ready

/-! ### The obligation's clauses about resets -/

theorem exec_glbReset {s : State} {c : Instr} {kind : Nat}
    (hc : (c = .glbResetFull ∧ kind = 1) ∨ (c = .glbResetWarm ∧ kind = 2)) (hr : s.reachableRegs = true) :
    exec c s = .next (s.quiet.resetDevice kind) := by
  rcases hc with ⟨rfl, rfl⟩ | ⟨rfl, rfl⟩
  · show execGlbResetFull s = _
    rw [execGlbResetFull]
    exact attempt_of_some (if_pos hr)
  · show execGlbResetWarm s = _
    rw [execGlbResetWarm]
    exact attempt_of_some (if_pos hr)

theorem readyReset_spec {s : State} (hs : s.Canonical) (hready : s.ready = true) (hcool : s.bit regPwrStatus 10 = false)
    (hpor : s.startup.porActive = false) {kind : Nat} (hkind : kind < 4) : let t := s.resetDevice kind
    t.tasks = [] ∧ t.ready = false ∧ t.time = s.time ∧ t.startPhase = (if s.startup.resetLow then 1 else 2) ∧
      t.fld regGlbStartup 29 28 = kind ∧
      (s.hbm.darning = none → s.odl.dirty = [] → ∀ a, a < bankBase → mapGet 0 a t.mem = mapGet 0 a s.mem) := by
  obtain ⟨htasks, htime, hunready, hphase, hfld, hmem⟩ := State.afterReset_spec (State.resetReady_canonical hs) kind
  obtain ⟨htime', hlow⟩ := s.resetReady_startup
  rw [State.resetDevice_of_ready hready hcool hpor]
  refine ⟨htasks, hunready, htime.trans htime', ?_, hfld.trans (Nat.mod_eq_of_lt hkind), fun hdarn hclean a ha => ?_⟩
  · rw [hphase, hlow]
  · obtain ⟨hbytes, htrip⟩ := State.resetReady_clean hdarn hclean
    have hkept : keptAddr false a = true := by
      rw [keptAddr, decide_eq_true ha]
      simp
    rw [hmem, htrip, hcool, mapGet_filter _ (p := keptAddr false) hkept, hbytes]

end Sys2Proof.Machine
end

section
/-! What an entry of the journal and a darning that begins leave as they were (R100 to R103, R256). -/

namespace Sys2Proof.Machine

open Sys2Proof

/-- From `s` to `t` entries, records and registers are written: of what is no register, what `State.Logs` names, the
journal and the signing engine's turn may change. -/
def State.Enters (s t : State) : Prop :=
  ∃ regs mem poison hbm odl dirty newest out journal signer, t = { s with
    regs := regs, mem := mem, poison := poison, hbm := hbm, odl := odl, out := out, journal := journal
    rru := { s.rru with dirty := dirty, newest := newest }
    sec := { s.sec with signer := signer } }

namespace State.Enters

theorem refl (s : State) : s.Enters s := ⟨_, _, _, _, _, _, _, _, _, _, rfl⟩

theorem trans {s t u : State} (h : s.Enters t) (g : t.Enters u) : s.Enters u := by
  obtain ⟨_, _, _, _, _, _, _, _, _, _, rfl⟩ := h
  obtain ⟨_, _, _, _, _, _, _, _, _, _, rfl⟩ := g
  exact ⟨_, _, _, _, _, _, _, _, _, _, rfl⟩

theorem foldl {α : Type} {f : State → α → State} (hf : ∀ (z : State) (a : α), z.Enters (f z a)) (l : List α)
    (s : State) : s.Enters (l.foldl f s) :=
  List.foldlRecOn (motive := fun t => s.Enters t) l f (refl s) fun t ht a _ => ht.trans (hf t a)

section Fields

variable {s t : State} (h : s.Enters t)
include h

theorem cores : t.cores = s.cores := by obtain ⟨_, _, _, _, _, _, _, _, _, _, rfl⟩ := h; rfl
theorem runs : t.runs = s.runs := by obtain ⟨_, _, _, _, _, _, _, _, _, _, rfl⟩ := h; rfl
theorem rme : t.rme = s.rme := by obtain ⟨_, _, _, _, _, _, _, _, _, _, rfl⟩ := h; rfl
theorem col : t.col = s.col := by obtain ⟨_, _, _, _, _, _, _, _, _, _, rfl⟩ := h; rfl
theorem startup : t.startup = s.startup := by obtain ⟨_, _, _, _, _, _, _, _, _, _, rfl⟩ := h; rfl
theorem power : t.power = s.power := by obtain ⟨_, _, _, _, _, _, _, _, _, _, rfl⟩ := h; rfl

theorem noWork (hs : s.NoWork) : t.NoWork := by
  rw [State.NoWork, h.cores, h.runs, h.rme, h.col]
  exact hs

end Fields

end State.Enters

theorem State.Logs.enters {s t : State} (h : s.Logs t) : s.Enters t := by
  obtain ⟨_, _, _, _, _, _, _, _, rfl⟩ := h
  exact ⟨_, _, _, _, _, _, _, _, _, _, rfl⟩

section Steps

variable (s : State)

theorem State.setReg_enters (off v : Nat) : s.Enters (s.setReg off v) := (s.setReg_logs off v).enters

theorem State.setBit_enters (off i : Nat) (b : Bool) : s.Enters (s.setBit off i b) := s.setReg_enters _ _

theorem State.modHbm_enters (f : Hbm → Hbm) : s.Enters (s.modHbm f) := ⟨_, _, _, _, _, _, _, _, _, _, rfl⟩

theorem State.journal_enters (j : Journal) : s.Enters { s with journal := j } := ⟨_, _, _, _, _, _, _, _, _, _, rfl⟩

theorem State.startSigning_enters : s.Enters s.startSigning := ⟨_, _, _, _, _, _, _, _, _, _, rfl⟩

theorem State.record_enters (r : ErrRec) : s.Enters (s.record r) := (s.record_logs r).enters

theorem State.updateBacklog_enters : s.Enters s.updateBacklog := by
  have hbit := s.setBit_enters regSecStatus 6 (decide (2 ≤ s.journal.signing.length))
  unfold State.updateBacklog
  dsimp only
  split
  · exact hbit.trans (State.setBit_enters _ _ _ _)
  · exact hbit

theorem State.closeSegment_enters (cause : Nat) : s.Enters (s.closeSegment cause) := by
  by_cases hcount : s.journal.count = 0
  · rw [State.closeSegment_of_empty hcount]
    exact .refl s
  · have hclosed : s.Enters (s.segmentClosed cause) :=
      ((s.journal_enters _).trans (State.setReg_enters _ _ _)).trans (State.setReg_enters _ _ _)
    rw [State.closeSegment_of_open hcount]
    exact (hclosed.trans (State.startSigning_enters _)).trans (State.updateBacklog_enters _)

theorem State.updateFull_enters : s.Enters s.updateFull := by
  have hbit := s.setBit_enters regCmdStatus 3 (decide (s.journalFree < 4160))
  rcases s.updateFull_cases with h | h | h
  · rw [h]
    exact (hbit.trans (State.setBit_enters _ _ _ _)).trans (State.closeSegment_enters _ _)
  · rw [h]
    exact hbit
  · rw [h]
    exact hbit.trans (State.journal_enters _ _)

theorem State.setEntryRegs_enters (q c : Nat) : s.Enters (s.setEntryRegs q c) :=
  (((((s.setReg_enters _ _).trans (State.setReg_enters _ _ _)).trans (State.setReg_enters _ _ _)).trans
    (State.setReg_enters _ _ _)).trans (State.setReg_enters _ _ _)).trans (State.setReg_enters _ _ _)

theorem State.writeEntry_enters (head tail : List Byte) : s.Enters (s.writeEntry head tail) := by
  obtain ⟨j, hj⟩ := s.writeEntry_eq head tail
  have hset : s.Enters { (s.putEntry head tail).setEntryRegs (s.reg regCmdJournalHead) (leNat (s.entryChain head)) with
      journal := j } :=
    ((s.putBytes_logs _ _).enters.trans (State.setEntryRegs_enters _ _ _)).trans (State.journal_enters _ j)
  rw [hj]
  refine .trans ?_ (State.updateFull_enters _)
  split
  · exact hset.trans (State.closeSegment_enters _ _)
  · exact hset

theorem State.event_enters (code arg : Nat) (digest : List Byte) : s.Enters (s.event code arg digest) := by
  unfold State.event
  dsimp only
  refine .trans ?_ (State.writeEntry_enters _ _ _)
  split
  · exact s.journal_enters _
  · exact .refl s

theorem State.resumeEntry_enters (f : Nat) : s.Enters (s.resumeEntry f) := s.event_enters _ _ _

theorem State.wait_enters (w : Waiting) : s.Enters (s.wait w) := s.journal_enters _

/-! ### Channels that fail (R255, R256) -/

theorem State.openDarning_enters (ch : Nat) : s.Enters (s.openDarning ch) :=
  ((s.setReg_enters _ _).trans (State.modHbm_enters _ _)).trans (State.resumeEntry_enters _ 15)

theorem State.darnCounted_enters : s.Enters s.darnCounted :=
  ((s.setReg_enters _ _).trans (State.setReg_enters _ _ _)).trans (State.setBit_enters _ _ _ _)

theorem State.startDarning_enters (ch : Nat) : s.Enters (s.startDarning ch) := by
  obtain ⟨f, -, h | h⟩ := s.startDarning_eq ch
  · rw [h]
    exact (s.darnCounted_enters.trans (State.modHbm_enters _ _)).trans (State.openDarning_enters _ ch)
  · rw [h]
    exact (s.darnCounted_enters.trans (State.modHbm_enters _ _)).trans (State.wait_enters _ _)

theorem State.fence_enters (ch : Nat) : s.Enters (s.fence ch) := by
  unfold State.fence
  split
  · exact .refl s
  · exact (s.modHbm_enters _).trans (State.record_enters _ _)

end Steps

theorem State.darnNext_enters (f : Nat) : ∀ s : State, s.Enters (s.darnNext f) := by
  induction f with
  | zero => exact fun s => .refl s
  | succ f ih =>
    intro s
    unfold State.darnNext
    split
    · exact .refl s
    · next ch rest _ =>
      have hrest := s.modHbm_enters fun h => { h with failed := rest }
      split
      · split
        · exact hrest.trans (State.startDarning_enters _ ch)
        · exact .refl s
      · exact (hrest.trans (State.fence_enters _ ch)).trans (ih _)

theorem State.failChannel_enters (s : State) (ch : Nat) : s.Enters (s.failChannel ch) := by
  unfold State.failChannel
  split
  · exact .refl s
  · exact (s.modHbm_enters _).trans (State.darnNext_enters _ _)

end Sys2Proof.Machine
end

section
/-! The phases of start-up, RESET_N and the reference clock (R461, R466, R467, R523, R524). -/

namespace Sys2Proof.Machine

open Sys2Proof

/-! ### Phases -/

/-- A phase entered stands in GLB_STARTUP. -/
theorem State.enterPhase_startPhase {s : State} (h : Rising s.regs) (n : Nat) :
    (s.enterPhase n).startPhase = n % 16 := State.fld_setFld_same _ _ _ _ _ h (by decide) (by decide)

theorem exec_startupStageDone {s : State} (hon : s.vin.powered = true) (hphase : s.startPhase = 1)
    (hstage : s.startup.stageDone = false) : exec .startupStageDone s = .next
    (if s.startup.resetLow then s.quiet.modStartup fun u => { u with stageDone := true }
      else (s.quiet.modStartup fun u => { u with stageDone := true }).enterPhase 2) := by
  show execStartupStageDone s = _
  rw [execStartupStageDone]
  exact attempt_of_some (if_pos ⟨hon, hphase, hstage⟩)

/-- The boot ROM has ended: the Steward islands run, and the Odord link trains. -/
def State.romDone (s : State) : State :=
  (((s.modStartup fun u => { u with porActive := false }).setReg regGlbIslands (2 ^ 38 + 2 ^ 39)).setFld regOdlStatus 15
    12 1).enterPhase 3

theorem exec_startupRomDone {s : State} (h : s.startsUp 2 = true) : exec .startupRomDone s = .next s.quiet.romDone := by
  show execStartupRomDone s = _
  rw [execStartupRomDone]
  exact attempt_of_some (if_pos h)

theorem State.romDone_spec {s : State} (h : Rising s.regs) : s.romDone.startPhase = 3 ∧
    s.romDone.startup.porActive = false ∧ s.romDone.reg regGlbIslands = 2 ^ 38 + 2 ^ 39 ∧ s.romDone.odlState = 1 := by
  have hislands := State.setReg_rising (s.modStartup fun u => { u with porActive := false }) regGlbIslands
    (2 ^ 38 + 2 ^ 39) h
  have hlink := State.setReg_rising _ regOdlStatus
    (putBits (((s.modStartup fun u => { u with porActive := false }).setReg regGlbIslands (2 ^ 38 + 2 ^ 39)).reg
      regOdlStatus) 15 12 1) hislands
  refine ⟨State.enterPhase_startPhase hlink 3, rfl, ?_, ?_⟩
  · exact ((State.reg_setFld_other _ _ _ _ _ _ (by decide)).trans (State.reg_setFld_other _ _ _ _ _ _ (by decide))).trans
      (State.reg_setReg_same _ _ _ h (by decide))
  · exact (State.fld_congr (State.reg_setFld_other _ _ _ _ _ _ (by decide)) _ _).trans
      (State.fld_setFld_same _ _ _ _ _ hislands (by decide) (by decide))

/-! ### The firmware check (R467, R473, R476) -/

/-- What phase 3 shows whatever the check finds: the link, the fused minimum, the device's key and certificate. -/
def State.firmwareShown (s : State) (readable : Bool) : State :=
  let s1 := s.odlUp.showSvn.setWords regSecIdentityPk identityPk
  if readable then s1.setWords regSecCert (s1.flashBytes 0x1800000 65536) else s1

/-- The firmware check has ended: the image boots, or its failure is noted. -/
def State.firmwareDone (s : State) (readable : Bool) : State :=
  if s.flashCheck readable = 0 then (s.firmwareShown readable).bootImage ((s.firmwareShown readable).flashBytes 0 4096) 0
  else (s.firmwareShown readable).bootFails (s.flashCheck readable)

theorem exec_firmwareVerifyDone {s : State} (h : s.startsUp 3 = true) (hrecovery : s.bit regGlbStartup 30 = false)
    (readable : Bool) : exec (.firmwareVerifyDone readable) s = .next (s.quiet.firmwareDone readable) := by
  show execFirmwareVerifyDone readable s = _
  rw [execFirmwareVerifyDone]
  exact attempt_of_some (if_pos ⟨h, hrecovery⟩)

theorem State.flashCheck_le (s : State) (readable : Bool) : s.flashCheck readable ≤ 7 := by
  unfold State.flashCheck
  split
  · exact (imageCheck_le _ _ _).trans (by decide)
  · decide

theorem State.odlUp_reg_other (s : State) {o : Nat} (ho : o ≠ regOdlStatus) : s.odlUp.reg o = s.reg o := by
  unfold State.odlUp
  split
  · exact State.reg_setFld_other _ _ _ _ _ _ ho
  · rfl

theorem State.firmwareShown_startup (s : State) (readable : Bool) :
    (s.firmwareShown readable).reg regGlbStartup = s.reg regGlbStartup := by
  have hkey (bs : List Byte) : (s.odlUp.showSvn.setWords regSecIdentityPk bs).reg regGlbStartup = s.reg regGlbStartup := by
    refine (State.setRegs_reg_other fun i _ => ?_).trans
      ((State.reg_setFld_other _ _ _ _ _ _ (by decide)).trans (s.odlUp_reg_other (by decide)))
    simp only [regSecIdentityPk, regGlbStartup]
    omega
  unfold State.firmwareShown
  extract_lets s1
  split
  · refine (State.setRegs_reg_other fun i _ => ?_).trans (hkey _)
    simp only [regSecCert, regGlbStartup]
    omega
  · exact hkey _

theorem State.firmwareShown_rising {s : State} (h : Rising s.regs) (readable : Bool) :
    Rising (s.firmwareShown readable).regs := by
  have hup : Rising s.odlUp.regs := by
    unfold State.odlUp
    split
    · exact State.setReg_rising _ _ _ h
    · exact h
  have hkey : Rising (s.odlUp.showSvn.setWords regSecIdentityPk identityPk).regs :=
    State.setWords_rising (State.setReg_rising _ _ _ hup) _ _
  unfold State.firmwareShown
  extract_lets s1
  split
  · exact State.setWords_rising hkey _ _
  · exact hkey

theorem State.ibi_reg (s : State) (d : Byte) (o : Nat) : (s.ibi d).reg o = s.reg o := by
  unfold State.ibi
  split <;> rfl

theorem State.bootFails_spec {s : State} (h : Rising s.regs) {r : Nat} (hr : r ≤ 7) :
    (s.bootFails r).startPhase = s.startPhase ∧ (s.bootFails r).fld regSecBoot 31 28 = r ∧
      (s.bootFails r).bit regGlbStartup 30 = true := by
  have hresult : Rising (s.setFld regSecBoot 31 28 r).regs := State.setReg_rising _ _ _ h
  have hstart : (s.bootFails r).reg regGlbStartup =
      ((s.setFld regSecBoot 31 28 r).setBit regGlbStartup 30 true).reg regGlbStartup := State.ibi_reg _ _ _
  refine ⟨?_, ?_, (State.bit_congr hstart 30).trans (State.bit_setBit_same _ _ _ _ hresult (by decide))⟩
  · exact (State.fld_congr hstart _ _).trans ((State.fld_setBit_other _ hresult (by decide) (by decide)).trans
      (State.fld_congr (State.reg_setFld_other _ _ _ _ _ _ (by decide)) _ _))
  · refine (State.fld_congr ((State.ibi_reg _ _ _).trans (State.reg_setBit_other _ _ _ _ _ (by decide))) _ _).trans
      ((State.fld_setFld_same _ _ _ _ _ h (by decide) (by decide)).trans (Nat.mod_eq_of_lt (by omega)))

/-- Two fields of zeros side by side. -/
theorem getBits_eq_zero_of_parts {v : Nat} (hhigh : getBits v 31 28 = 0) (hlow : getBits v 27 24 = 0) :
    getBits v 31 24 = 0 := by
  simp only [getBits, Nat.shiftRight_eq_div_pow] at *
  omega

theorem firmwareVerify_ends {s : State} (hs : s.Canonical) (readable : Bool) (h : s.startsUp 3 = true)
    (hrecovery : s.bit regGlbStartup 30 = false) :
    (s.flashCheck readable = 0 → ∃ t, exec (.firmwareVerifyDone readable) s = .next t ∧ t.startPhase = 4 ∧
      t.fld regSecBoot 31 24 = 0 ∧ t.bit regGlbStartup 30 = false) ∧
    (s.flashCheck readable ≠ 0 → ∃ t, exec (.firmwareVerifyDone readable) s = .next t ∧ t.startPhase = 3 ∧
      t.fld regSecBoot 31 28 = s.flashCheck readable ∧ t.bit regGlbStartup 30 = true) := by
  have hx := exec_firmwareVerifyDone h hrecovery readable
  have hshown := State.firmwareShown_rising (s := s.quiet) hs.regs.1 readable
  refine ⟨fun hgood => ?_, fun hbad => ?_⟩
  · obtain ⟨hphase, hclear, hresult, hsource⟩ := State.bootImage_spec hshown
      ((s.quiet.firmwareShown readable).flashBytes 0 4096) 0
    rw [State.firmwareDone, if_pos (show s.quiet.flashCheck readable = 0 from hgood)] at hx
    exact ⟨_, hx, hphase, getBits_eq_zero_of_parts hresult hsource, hclear⟩
  · obtain ⟨hphase, hresult, hset⟩ := State.bootFails_spec hshown (s.quiet.flashCheck_le readable)
    rw [State.firmwareDone, if_neg (show s.quiet.flashCheck readable ≠ 0 from hbad)] at hx
    exact ⟨_, hx, hphase.trans ((State.fld_congr (State.firmwareShown_startup _ _) _ _).trans
      (State.startPhase_of_startsUp h)), hresult, hset⟩

end Sys2Proof.Machine
end

section
/-! Islands, stacks and ports, the reset pin and the reference clock (R259, R461, R466, R523, R524). -/

namespace Sys2Proof.Machine

open Sys2Proof

/-! ### The islands (R428) -/

/-- The islands run, the cores have tested themselves, and logical numbers are assigned. -/
def State.islandsServe (s : State) (fails : List (Nat × Nat)) : State :=
  ((List.range 20).filter fun c => corePresent s.variant (9 * c)).foldl State.assignCluster
    ((s.setReg regGlbIslands (allIslands s.variant)).selfTests fails)

theorem exec_startupIslandsDone {s : State} (h : s.startsUp 4 = true) (fails : List (Nat × Nat)) :
    exec (.startupIslandsDone fails) s = .next ((s.quiet.islandsServe fails).enterPhase 5) := by
  show execStartupIslandsDone fails s = _
  rw [execStartupIslandsDone]
  exact attempt_of_some (if_pos h)

theorem State.islandsServe_rising {s : State} (h : s.Canonical) (fails : List (Nat × Nat)) :
    Rising (s.islandsServe fails).regs :=
  ((Keeps.foldl (State.selfTests_keeps (State.setReg_keeps (.refl s))) fun _ _ hz =>
    State.assignCluster_keeps hz).canonical h).regs.1

/-! ### The stacks (R259, R260) -/

/-- The channels that are margined on training. -/
def State.marginBoot (s : State) (chans : List Nat) (found : HbmTrained) : State :=
  if s.bit regSmsCtrl 0 then
    chans.foldl (fun z c => z.setMargin c (match found.sweeps.find? fun e => e.1 == c with
      | some e => e.2
      | none => [])) s
  else s

/-- The stacks trained, a darning restarted, and the channels that did not train failed. -/
def State.hbmTrained (s : State) (failed : List Nat) (found : HbmTrained) : State :=
  failed.foldl State.failChannel
    (((s.trainChannels (s.trainedNow found.afresh)).marginBoot (s.trainedNow found.afresh) found).restartDarning)

theorem exec_hbmTrainingDone {s : State} (h : s.startsUp 5 = true) (failed : List Nat) (found : HbmTrained) :
    exec (.hbmTrainingDone failed found) s = .next
      (((s.quiet.hbmTrained failed found).modStartup fun u => { u with portsAt := u.timer }).enterPhase 6) := by
  show execHbmTrainingDone failed found s = _
  rw [execHbmTrainingDone]
  exact attempt_of_some (if_pos h)

theorem State.trainChannels_enters (s : State) (chans : List Nat) : s.Enters (s.trainChannels chans) := by
  unfold State.trainChannels
  split
  · exact s.modHbm_enters _
  · exact s.modHbm_enters _

theorem State.setMargin_enters (s : State) (ch : Nat) (failed : List Nat) : s.Enters (s.setMargin ch failed) := by
  unfold State.setMargin
  extract_lets rd wr least weak s1
  have hset : s.Enters s1 := s.setReg_enters _ _
  split
  · exact hset.trans (State.modHbm_enters _ _)
  · exact hset

theorem State.marginBoot_enters (s : State) (chans : List Nat) (found : HbmTrained) :
    s.Enters (s.marginBoot chans found) := by
  unfold State.marginBoot
  split
  · exact .foldl (fun z c => z.setMargin_enters c _) _ s
  · exact .refl s

/-- A darning restarted leaves the timer of start-up. -/
theorem State.restartDarning_timer (s : State) : s.restartDarning.startup.timer = s.startup.timer := by
  unfold State.restartDarning
  split
  · rfl
  · next ch rs _ =>
    have hnoted : s.Enters (rs.foldl (fun z i => z.setBit (regRruAffectedRegions (i / 64)) (i % 64) true)
        (s.record { kind := 0x12, scope := 4, action := 7, unit := unitWord (stackDomain ch) ch, detail := ch })) :=
      (s.record_enters _).trans (.foldl (fun z _ => z.setBit_enters _ _ _) _ _)
    exact (congrArg (fun u : Startup => u.timer) hnoted.startup :)

theorem State.hbmTrained_timer (s : State) (failed : List Nat) (found : HbmTrained) :
    (s.hbmTrained failed found).startup.timer = s.startup.timer := by
  have htrained := (s.trainChannels_enters (s.trainedNow found.afresh)).trans
    (State.marginBoot_enters _ (s.trainedNow found.afresh) found)
  have hfailed (z : State) : z.Enters (failed.foldl State.failChannel z) :=
    .foldl (fun y ch => y.failChannel_enters ch) failed z
  rw [State.hbmTrained, (hfailed _).startup, State.restartDarning_timer, htrained.startup]

theorem State.hbmTrained_rising {s : State} (h : s.Canonical) (failed : List Nat) (found : HbmTrained) :
    Rising (s.hbmTrained failed found).regs := by
  have htrained : Keeps s (s.trainChannels (s.trainedNow found.afresh)) := State.trainChannels_keeps (.refl s)
  have hmargined : Keeps s ((s.trainChannels (s.trainedNow found.afresh)).marginBoot (s.trainedNow found.afresh) found) := by
    unfold State.marginBoot
    split
    · exact Keeps.foldl htrained fun _ _ hz => State.setMargin_keeps hz
    · exact htrained
  exact ((Keeps.foldl (State.restartDarning_keeps hmargined) fun _ _ hz => State.failChannel_keeps hz).canonical h).regs.1

/-! ### The ports, and READY (R466, R508) -/

/-- Start-up has ended: READY, and vector 65 fires. -/
def State.becomesReady (s : State) : State :=
  ((((s.enterPhase 7).setFld regGlbStartup 27 12 (min 0xFFFF (s.startup.timer / 1000000))).setBit regGlbStartup 31
    true).irq 65).ibi 0x01

theorem exec_portsPhaseDone {s : State} (h : s.startsUp 6 = true)
    (hports : s.enabledPortsUp = true ∨ s.startup.portsAt + 30000000 ≤ s.startup.timer) :
    exec .portsPhaseDone s = .next s.quiet.becomesReady := by
  show execPortsPhaseDone s = _
  rw [execPortsPhaseDone]
  exact attempt_of_some (if_pos ⟨h, hports⟩)

theorem State.ibi_mem (s : State) (d : Byte) : (s.ibi d).mem = s.mem := by
  unfold State.ibi
  split <;> rfl

theorem State.becomesReady_spec {s : State} (h : Rising s.regs) : s.becomesReady.startPhase = 7 ∧
    s.becomesReady.ready = true ∧ s.becomesReady.bit (regOdlIrqPending 1) 1 = true ∧ s.becomesReady.mem = s.mem := by
  have hphase : Rising (s.enterPhase 7).regs := State.setReg_rising _ _ _ h
  have htime : Rising ((s.enterPhase 7).setFld regGlbStartup 27 12 (min 0xFFFF (s.startup.timer / 1000000))).regs :=
    State.setReg_rising _ _ _ hphase
  have hready : Rising (((s.enterPhase 7).setFld regGlbStartup 27 12
      (min 0xFFFF (s.startup.timer / 1000000))).setBit regGlbStartup 31 true).regs := State.setReg_rising _ _ _ htime
  have hstart : s.becomesReady.reg regGlbStartup = (((s.enterPhase 7).setFld regGlbStartup 27 12
      (min 0xFFFF (s.startup.timer / 1000000))).setBit regGlbStartup 31 true).reg regGlbStartup :=
    (State.ibi_reg _ _ _).trans (State.reg_setBit_other _ _ _ _ _ (by decide))
  refine ⟨?_, ?_, ?_, (State.ibi_mem _ _).trans rfl⟩
  · calc s.becomesReady.startPhase = _ := State.fld_congr hstart _ _
      _ = _ := State.fld_setBit_other _ htime (by decide) (by decide)
      _ = _ := State.fld_setFld_other _ _ _ hphase (by decide) (by decide) (by decide)
      _ = 7 := State.enterPhase_startPhase h 7
  · exact (State.bit_congr hstart 31).trans (State.bit_setBit_same _ _ _ _ htime (by decide))
  · exact (State.bit_congr (State.ibi_reg _ _ _) 1).trans (State.bit_setBit_same _ _ _ _ hready (by decide))

/-! ### RESET_N (R461) -/

/-- RESET_N at a level. -/
def State.resetPin (s : State) (low : Bool) : State := (s.modStartup fun u => { u with resetLow := low }).scanDrives

theorem exec_resetNAssert_short {s : State} {ns : Nat} (h : ns < 10000) : exec (.resetNAssert ns) s = .next s.quiet := by
  show execResetNAssert ns s = _
  simp only [execResetNAssert, attempt, if_pos h, Option.getD_none]

theorem exec_resetNAssert {s : State} {ns : Nat} (h : 10000 ≤ ns) : exec (.resetNAssert ns) s = .next
    (if s.vin.powered then (s.quiet.resetPin true).resetDevice 1 else s.quiet.resetPin true) := by
  show execResetNAssert ns s = _
  rw [execResetNAssert]
  exact attempt_of_some (if_neg (Nat.not_lt.mpr h))

theorem exec_resetNRelease {s : State} (h : s.startup.resetLow = true) : exec .resetNRelease s = .next
    (if s.vin.powered = true ∧ s.startup.stageDone = true ∧ s.startPhase = 1 then (s.quiet.resetPin false).enterPhase 2
      else s.quiet.resetPin false) := by
  show execResetNRelease s = _
  rw [execResetNRelease]
  exact attempt_of_some (if_pos h)

theorem resetNRelease_continues {s : State} (hs : s.Canonical) (h : s.startup.resetLow = true) :
    ∃ t, exec .resetNRelease s = .next t ∧ t.startup.resetLow = false ∧ t.mem = s.mem ∧
      (s.vin.powered = true → s.startup.stageDone = true → s.startPhase = 1 → t.startPhase = 2) ∧
      (s.vin.powered = false ∨ s.startup.stageDone = false ∨ s.startPhase ≠ 1 → t.startPhase = s.startPhase) := by
  refine ⟨_, exec_resetNRelease h, ?_⟩
  split
  · next hgo =>
    refine ⟨rfl, rfl, fun _ _ _ => State.enterPhase_startPhase (s := s.quiet.resetPin false) hs.regs.1 2, fun hstays => ?_⟩
    obtain ⟨hon, hstage, hphase⟩ := hgo
    simp [hon, hstage, hphase] at hstays
  · next hstays => exact ⟨rfl, rfl, fun hon hstage hphase => absurd ⟨hon, hstage, hphase⟩ hstays, fun _ => rfl⟩

/-! ### The reference clock (R524) -/

/-- The reference clock at a state. -/
def State.clocked (s : State) (runs : Bool) : State := s.modStartup fun u => { u with refclk := runs }

/-- The domain that loses lock first. -/
def State.lostDomain (s : State) : Nat := (Config.freeByte s.free).toNat % 40

/-- The islands gone with the clock, before the device stops. -/
def State.islandsGone (s : State) : State := { s with free := s.free + 1 }.setReg regGlbIslands 0

/-- The device without its clock. -/
def State.clockStops (s : State) : State :=
  s.islandsGone.deviceStop 0x0E (unitWord s.lostDomain 0) s.lostDomain (some s.lostDomain)

theorem exec_refclkLoss {s : State} (h : s.startup.refclk = true) : exec .refclkLoss s = .next
    (if s.vin.powered = true ∧ 2 ≤ s.startPhase then (s.quiet.clocked false).clockStops else s.quiet.clocked false) := by
  show execRefclkLoss s = _
  rw [execRefclkLoss]
  refine attempt_of_some ((if_pos h).trans ?_)
  exact (apply_ite some _ _ _).symm

theorem exec_referenceClockReturn {s : State} (h : s.startup.refclk = false) :
    exec .referenceClockReturn s = .next (s.quiet.clocked true) := by
  show execReferenceClockReturn s = _
  rw [execReferenceClockReturn]
  exact attempt_of_some (if_neg (by simp [State.quiet, h]))

/-- A stop of the device leaves the registers that neither it nor its record moves. -/
theorem State.deviceStop_reg_other (s : State) (kind unit detail : Nat) (lost : Option Nat) {o : Nat}
    (ho : o ∉ noticeRegs) (hkind : o ≠ regRruCount kind) (hcount : ¬ switchCount o) :
    (s.deviceStop kind unit detail lost).reg o = s.reg o := by
  have hidle : s.abortToward.stopEngines.reg o = s.reg o :=
    (State.reg_congr rfl rfl o).trans (s.abortToward_moves.reg o hcount)
  have hrecorded : (s.stopRecorded kind unit detail lost).reg o = s.reg o := by
    unfold State.stopRecorded
    dsimp only
    split
    · exact (State.record_reg_other _ _ hkind ho).trans hidle
    · exact (State.reg_addReg_other _ _ _ _ hkind).trans hidle
  have hstatus : o ≠ regRruStatus := fun e => ho (by simp [noticeRegs, e])
  rw [State.deviceStop_eq, (State.alert_notices _ 1).reg o ho, State.reg_setBit_other _ _ _ _ _ hstatus, hrecorded]

theorem State.deviceStop_startup (s : State) (kind unit detail : Nat) (lost : Option Nat) :
    (s.deviceStop kind unit detail lost).startup = s.startup := by
  have hidle : s.abortToward.stopEngines.startup = s.startup := s.abortToward_moves.startup
  have hrecorded := (State.stopRecorded_logs (s := s) kind unit detail lost).enters
  rw [State.deviceStop_eq, ((State.setBit_enters _ _ _ _).trans (State.alert_logs _ 1).enters).startup,
    hrecorded.startup, hidle]

theorem State.clockStops_spec {s : State} (h : s.Canonical) : s.clockStops.startup = s.startup ∧
    s.clockStops.reg regGlbIslands = 0 ∧ s.clockStops.fatal = true := by
  have hgone : s.islandsGone.Canonical := (State.setReg_keeps (.refl { s with free := s.free + 1 })).canonical
    (h.congr rfl rfl rfl rfl)
  exact ⟨State.deviceStop_startup _ _ _ _ _,
    (State.deviceStop_reg_other _ _ _ _ _ (by decide) (by decide) (by decide)).trans
      (State.reg_setReg_same _ _ _ h.regs.1 (by decide)),
    (State.deviceStop_spec hgone _ _ _ _).1⟩

theorem refclkLoss_stops {s : State} (hs : s.Canonical) (h : s.startup.refclk = true) :
    (s.vin.powered = false ∨ s.startPhase < 2 → ∃ t, exec .refclkLoss s = .next t ∧ t.startup.refclk = false ∧
      t.regs = s.regs ∧ t.mem = s.mem) ∧
    (s.vin.powered = true → 2 ≤ s.startPhase → ∃ t, exec .refclkLoss s = .next t ∧ t.startup.refclk = false ∧
      t.reg regGlbIslands = 0 ∧ t.fatal = true) := by
  have hx := exec_refclkLoss h
  refine ⟨fun hearly => ?_, fun hon hphase => ?_⟩
  · have hnot : ¬ (s.vin.powered = true ∧ 2 ≤ s.startPhase) := fun ⟨hon, hphase⟩ => hearly.elim
      (fun hoff => Bool.false_ne_true (hoff.symm.trans hon)) (fun hlow => Nat.not_le.mpr hlow hphase)
    rw [if_neg hnot] at hx
    exact ⟨_, hx, rfl, rfl, rfl⟩
  · obtain ⟨hstartup, hislands, hfatal⟩ :=
      State.clockStops_spec (s := s.quiet.clocked false) (hs.congr rfl rfl rfl rfl)
    rw [if_pos ⟨hon, hphase⟩] at hx
    exact ⟨_, hx, congrArg Startup.refclk hstartup, hislands, hfatal⟩

/-! ### The obligation -/

/-- Settles O57: each phase by the state in which it ends, and a reset by what `afterReset` begins from. -/
theorem startupAndResets : Obligations.StartupAndResets := by
  intro s hs
  have hrise : Rising s.quiet.regs := hs.regs.1
  have hquiet : s.quiet.Canonical := hs.congr rfl rfl rfl rfl
  refine ⟨fun hon hphase hstage => ?_, fun h => ?_, firmwareVerify_ends hs, fun fails h => ?_, fun failed found h => ?_,
    fun h hports => ?_, fun c kind hc hr hready hcool hpor => ?_, fun ns => ⟨fun h => exec_resetNAssert_short h,
      fun h hoff => ?_, fun h hon => ?_⟩, resetNRelease_continues hs, refclkLoss_stops hs, exec_referenceClockReturn⟩
  · refine ⟨_, exec_startupStageDone hon hphase hstage, ?_⟩
    split
    · exact ⟨rfl, hphase⟩
    · exact ⟨rfl, State.enterPhase_startPhase (s := s.quiet.modStartup fun u => { u with stageDone := true }) hrise 2⟩
  · exact ⟨_, exec_startupRomDone h, State.romDone_spec (s := s.quiet) hrise⟩
  · exact ⟨_, exec_startupIslandsDone h fails, State.enterPhase_startPhase (State.islandsServe_rising hquiet fails) 5⟩
  · exact ⟨_, exec_hbmTrainingDone h failed found,
      State.enterPhase_startPhase (State.hbmTrained_rising hquiet failed found) 6,
      State.hbmTrained_timer s.quiet failed found⟩
  · exact ⟨_, exec_portsPhaseDone h hports, State.becomesReady_spec (s := s.quiet) hrise⟩
  · have hkind : kind < 4 := by
      rcases hc with ⟨-, rfl⟩ | ⟨-, rfl⟩ <;> decide
    exact ⟨_, exec_glbReset hc hr, rfl, readyReset_spec (s := s.quiet) hquiet hready hcool hpor hkind⟩
  · have hx := exec_resetNAssert (s := s) h
    rw [if_neg (by simp [hoff])] at hx
    exact ⟨_, hx, rfl, rfl, rfl⟩
  · have hx := exec_resetNAssert (s := s) h
    rw [if_pos hon] at hx
    exact ⟨s.quiet.resetPin true, rfl, rfl, rfl, hx⟩

end Sys2Proof.Machine
end

section
/-! What reports and stops set stays set, and what they leave as it was (R420, R430, R509). -/

namespace Sys2Proof.Machine

open Sys2Proof

/-- The registers whose bits only gather while events are recorded. -/
def gatherRegs : List Nat := [regStwAlert, regOdlIrqPending 1, regRruStatus]

/-- From `s` to `t` no bit of `gatherRegs` goes. -/
structure State.Gathers (s t : State) : Prop where
  rising : Rising s.regs → Rising t.regs
  bit : Rising s.regs → ∀ o ∈ gatherRegs, ∀ i, s.bit o i = true → t.bit o i = true

namespace State.Gathers

theorem refl (s : State) : s.Gathers s := ⟨id, fun _ _ _ _ h => h⟩

theorem trans {s t u : State} (h : s.Gathers t) (g : t.Gathers u) : s.Gathers u :=
  ⟨fun hs => g.rising (h.rising hs), fun hs o ho i hi => g.bit (h.rising hs) o ho i (h.bit hs o ho i hi)⟩

theorem foldl {α : Type} {f : State → α → State} (hf : ∀ (z : State) (a : α), z.Gathers (f z a)) (l : List α)
    (s : State) : s.Gathers (l.foldl f s) :=
  List.foldlRecOn (motive := fun t => s.Gathers t) l f (refl s) fun t ht a _ => ht.trans (hf t a)

/-- A change of no register. -/
theorem of_regs {s t : State} (hv : t.variant = s.variant) (hr : t.regs = s.regs) : s.Gathers t :=
  ⟨fun h => hr ▸ h, fun _ o _ i hi => (State.bit_congr (State.reg_congr hv hr o) i).trans hi⟩

end State.Gathers

section Steps

variable (s : State)

theorem State.setReg_gathers {o : Nat} (ho : o ∉ gatherRegs) (v : Nat) : s.Gathers (s.setReg o v) :=
  ⟨s.setReg_rising o v, fun _ j hj i hi =>
    (State.bit_congr (s.reg_setReg_other o v j fun e => ho (e ▸ hj)) i).trans hi⟩

/-- A bit set stays beside those that stand. -/
theorem State.setBit_true_gathers (o : Nat) {i : Nat} (hi : i < 64) : s.Gathers (s.setBit o i true) := by
  refine ⟨s.setReg_rising _ _, fun hs j _ k hk => ?_⟩
  by_cases hj : j = o
  · subst hj
    by_cases hki : k = i
    · subst hki
      exact State.bit_setBit_same _ _ _ _ hs hi
    · exact (State.bit_setBit_other _ _ _ _ _ hs hi hki).trans hk
  · exact (State.bit_congr (State.reg_setBit_other _ _ _ _ _ hj) k).trans hk

theorem State.ibi_gathers (d : Byte) : s.Gathers (s.ibi d) := by
  unfold State.ibi
  split
  · exact .of_regs rfl rfl
  · exact .refl s

theorem State.alert_gathers {i : Nat} (hi : i < 64) : s.Gathers (s.alert i) := by
  unfold State.alert
  split
  · exact .refl s
  · exact (s.setBit_true_gathers _ hi).trans (State.ibi_gathers _ _)

theorem State.trimWindow_regs : s.trimWindow.regs = s.regs := by
  refine List.foldlRecOn (motive := fun t : State => t.regs = s.regs) _ _ rfl fun z hz _ _ => ?_
  split
  · exact hz
  · exact hz

theorem State.darnWrite_regs (a : Nat) : (s.darnWrite a).regs = s.regs := by
  unfold State.darnWrite
  dsimp only
  split
  · split
    · split
      · rfl
      · split <;> rfl
    · rfl
  · rfl

/-- Bytes that land move no register. -/
theorem State.land_regs (a : Nat) (bs : List Byte) : (s.land a bs).regs = s.regs := by
  unfold State.land
  split
  · split
    · rfl
    · exact State.trimWindow_regs _
  · split
    · rfl
    · exact s.darnWrite_regs a
  · split <;> rfl
  · rfl
  · rfl

theorem State.land_gathers (a : Nat) (bs : List Byte) : s.Gathers (s.land a bs) :=
  .of_regs (State.land_keeps (.refl s)).variant (s.land_regs a bs)

theorem regRruCount_not_gathers (k : Nat) (hk : k < 64) : regRruCount k ∉ gatherRegs := by
  simp only [gatherRegs, regRruCount, regStwAlert, regOdlIrqPending, regRruStatus, List.mem_cons, List.not_mem_nil,
    or_false]
  omega

theorem State.putRing_gathers (off : Nat) (bs : List Byte) : s.Gathers (s.putRing off bs) := by
  unfold State.putRing
  split
  · refine .foldl (fun z p => ?_) _ s
    split
    · exact z.setReg_gathers (by decide) _
    · exact z.land_gathers _ _
  · exact .refl s

theorem State.slotFilled_gathers (r : ErrRec) : s.Gathers (s.slotFilled r) := by
  have hring := s.putRing_gathers (64 * (s.reg regRruErrHead % s.reg regRruErrSlots)) (r.encode s.time 1)
  have hhead (z : State) (v : Nat) : z.Gathers (z.setReg regRruErrHead v) := z.setReg_gathers (by decide) v
  have hirq (z : State) : z.Gathers (z.irq 64) := z.setBit_true_gathers _ (by decide)
  have hnoted (z : State) (n : Option (Nat × Nat × Nat × Nat × Nat)) : z.Gathers (z.noteNewest n) := .of_regs rfl rfl
  exact ((hring.trans (hnoted _ _)).trans (hhead _ _)).trans (hirq _)

theorem State.recordNew_gathers (r : ErrRec) : s.Gathers (s.recordNew r) := by
  by_cases h : s.reg regRruErrHead - s.reg regRruErrTail ≥ s.reg regRruErrSlots
  · rw [State.recordNew_of_full h]
    exact s.setBit_true_gathers _ (by decide)
  · rw [State.recordNew_of_room h]
    split
    · exact (s.slotFilled_gathers r).trans (State.alert_gathers _ (by decide))
    · exact s.slotFilled_gathers r

theorem State.record_gathers (r : ErrRec) (hk : r.kind < 64) : s.Gathers (s.record r) := by
  have hcount : s.Gathers (s.addReg (regRruCount r.kind) 1) := s.setReg_gathers (regRruCount_not_gathers _ hk) _
  unfold State.record
  dsimp only
  split
  · split
    · exact hcount.trans (State.putRing_gathers _ _ _)
    · exact hcount.trans (State.recordNew_gathers _ _)
  · exact hcount.trans (State.recordNew_gathers _ _)

end Steps

/-! ### The stop of the device, and ports that go down -/

theorem State.deviceStop_gathers (s : State) (hs : s.Canonical) (kind unit detail : Nat) (hkind : kind < 64)
    (lost : Option Nat) : s.Gathers (s.deviceStop kind unit detail lost) := by
  have hrise : Rising s.abortToward.stopEngines.regs :=
    ((State.stopEngines_keeps (State.abortToward_keeps (.refl s))).canonical hs).regs.1
  have hidle : s.Gathers s.abortToward.stopEngines := ⟨fun _ => hrise, fun _ o ho i hi => by
    have hswitch : ¬ switchCount o := by
      simp only [gatherRegs, List.mem_cons, List.not_mem_nil, or_false] at ho
      rcases ho with rfl | rfl | rfl <;> decide
    exact (State.bit_congr ((State.reg_congr rfl rfl o).trans (s.abortToward_moves.reg o hswitch)) i).trans hi⟩
  have hrecorded : s.Gathers (s.stopRecorded kind unit detail lost) := by
    unfold State.stopRecorded
    dsimp only
    split
    · exact hidle.trans (State.record_gathers _ _ hkind)
    · exact hidle.trans (State.setReg_gathers _ (regRruCount_not_gathers _ hkind) _)
  rw [State.deviceStop_eq]
  exact (hrecorded.trans (State.setBit_true_gathers _ _ (by decide))).trans (State.alert_gathers _ (by decide))

/-- Registers that a port that goes down may move. -/
abbrev portOffReg (o : Nat) : Prop := (0xa00000 ≤ o ∧ o < 0xa20000) ∨ (0x1001000 ≤ o ∧ o < 0x1001300)

theorem State.portOff_reg_other (s : State) {p o : Nat} (hp : p < 24) (ho : ¬ portOffReg o) :
    (s.portOff p).reg o = s.reg o := by
  simp only [portOffReg] at ho
  refine s.portOff_reg p ?_ ?_ ?_ ?_
  · simp only [regFptPortStatus]; omega
  · simp only [regFptPortPeer]; omega
  · simp only [regSecPortPeer]; omega
  · simp only [regSecPortPeerHi]; omega

/-- Ports that go down one after the other. -/
def State.portsOff (s : State) (l : List Nat) : State := l.foldl State.portOff s

theorem State.portsOff_cons (s : State) (p : Nat) (l : List Nat) : s.portsOff (p :: l) = (s.portOff p).portsOff l := rfl

theorem State.portOff_rising {s : State} (h : Rising s.regs) (p : Nat) : Rising (s.portOff p).regs := by
  have hdown := State.setPortState_rising h p 0
  have hplain : Rising ((s.setPortState p 0).setBit (regFptPortStatus p) 2 false).regs := State.setReg_rising _ _ _ hdown
  have hpeer : Rising (((s.setPortState p 0).setBit (regFptPortStatus p) 2 false).setBit (regFptPortPeer p) 31
      false).regs :=
    State.setReg_rising _ _ _ hplain
  rw [State.portOff, State.modPort_regs]
  exact State.setPortPeer_rising hpeer p 0

theorem State.portOff_portState_other (s : State) {p q : Nat} (hp : p < 24) (hq : q < 24) (hne : q ≠ p) :
    (s.portOff p).portState q = s.portState q := by
  refine State.portState_congr (s.portOff_reg p ?_ ?_ ?_ ?_)
  · simp only [regFptPortStatus]; omega
  · simp only [regFptPortStatus, regFptPortPeer]; omega
  · simp only [regFptPortStatus, regSecPortPeer]; omega
  · simp only [regFptPortStatus, regSecPortPeerHi]; omega

section PortsOff

variable {l : List Nat} (hl : ∀ p ∈ l, p < 24)
include hl

theorem State.portsOff_reg_other (s : State) {o : Nat} (ho : ¬ portOffReg o) : (s.portsOff l).reg o = s.reg o := by
  induction l generalizing s with
  | nil => rfl
  | cons p l ih =>
    rw [State.portsOff_cons, ih (fun q hq => hl q (List.mem_cons_of_mem p hq)),
      State.portOff_reg_other _ (hl p List.mem_cons_self) ho]

/-- A port of the list is down, and any other stands as before. -/
theorem State.portsOff_portState {s : State} (h : Rising s.regs) {q : Nat} (hq : q < 24) :
    (s.portsOff l).portState q = if q ∈ l then 0 else s.portState q := by
  induction l generalizing s with
  | nil => rfl
  | cons p l ih =>
    have hp := hl p List.mem_cons_self
    rw [State.portsOff_cons, ih (fun x hx => hl x (List.mem_cons_of_mem p hx)) (State.portOff_rising h p)]
    by_cases hin : q ∈ l
    · rw [if_pos hin, if_pos (List.mem_cons_of_mem p hin)]
    · rw [if_neg hin]
      by_cases hqp : q = p
      · subst hqp
        rw [if_pos List.mem_cons_self, State.portOff_portState h hq]
      · rw [if_neg (by simp [hqp, hin]), State.portOff_portState_other _ hp hq hqp]

end PortsOff

theorem State.portsOff_rest (s : State) (l : List Nat) :
    ∃ regs ports, s.portsOff l = { s with regs := regs, ports := ports } := by
  induction l generalizing s with
  | nil => exact ⟨_, _, rfl⟩
  | cons p l ih =>
    obtain ⟨regs, ports, h⟩ := ih (s.portOff p)
    exact ⟨regs, ports, h⟩

end Sys2Proof.Machine
end

section
/-! The quench (R446 to R448). -/

namespace Sys2Proof.Machine

open Sys2Proof

/-! ### It starts -/

theorem exec_pwrQuenchWrite {s : State} (h : s.ready = true) : exec .pwrQuenchWrite s = .next (s.quiet.startQuench 4) := by
  show execPwrQuenchWrite s = _
  rw [execPwrQuenchWrite]
  exact attempt_of_some (if_pos h)

theorem State.startQuench_of_again {s : State} (h : s.bit regPwrStatus 9 = true ∨ s.bit regPwrStatus 10 = true)
    (cause : Nat) : s.startQuench cause = s := if_pos (Bool.or_eq_true_iff.mpr h)

/-- QUENCHED, its alert and its vector. -/
def State.quenchShown (s : State) : State := ((s.setBit regPwrStatus 9 true).alert 2).irq 69

/-- The record of a quench. -/
def State.quenchRecord (s : State) : ErrRec where
  kind := 0x10
  scope := 6
  action := 8
  unit := unitWord 39 14
  detail := s.vin.mv.toNat

theorem State.startQuench_of_first {s : State} (h9 : s.bit regPwrStatus 9 = false) (h10 : s.bit regPwrStatus 10 = false)
    (cause : Nat) : s.startQuench cause = (((s.keepRecord (s.powerRecord cause 0)).quenchShown.modPower fun p =>
      { p with quenching := true }).record s.quenchRecord) :=
  if_neg (by simp [h9, h10])

theorem State.keepRecord_eq_setRegs (s : State) (r : List Byte) :
    s.keepRecord r = s.setRegs 8 regPwrQuenchRecord fun i => leNat (slice r (8 * i) 8) := rfl

theorem State.keepRecord_rising {s : State} (h : Rising s.regs) (r : List Byte) : Rising (s.keepRecord r).regs :=
  State.setRegs_rising h _ _ _

theorem State.keepRecord_enters (s : State) (r : List Byte) : s.Enters (s.keepRecord r) :=
  .foldl (fun z _ => z.setReg_enters _ _) _ s

theorem State.keepRecord_reg_other (s : State) (r : List Byte) {o : Nat} (ho : o < 0xe00080 ∨ 0xe000c0 ≤ o) :
    (s.keepRecord r).reg o = s.reg o := by
  refine State.setRegs_reg_other fun i hi => ?_
  simp only [regPwrQuenchRecord]
  omega

theorem State.quenchShown_spec {s : State} (h : Rising s.regs) : Rising s.quenchShown.regs ∧
    s.quenchShown.bit regPwrStatus 9 = true ∧ s.quenchShown.bit regStwAlert 2 = true ∧
    s.quenchShown.bit (regOdlIrqPending 1) 5 = true := by
  have hset := State.setReg_rising s regPwrStatus (putBits (s.reg regPwrStatus) 9 9 (b2n true)) h
  have halerted : Rising ((s.setBit regPwrStatus 9 true).alert 2).regs :=
    (State.alert_gathers _ (by decide)).rising hset
  obtain ⟨halert, -⟩ := State.alert_spec (s := s.setBit regPwrStatus 9 true) hset (i := 2) (by decide)
  refine ⟨State.setReg_rising _ _ _ halerted, ?_, ?_, State.bit_setBit_same _ _ _ _ halerted (by decide)⟩
  · exact (State.bit_congr ((State.reg_setBit_other _ _ _ _ _ (by decide)).trans
      ((State.alert_notices _ 2).reg _ (by decide))) 9).trans (State.bit_setBit_same _ _ _ _ h (by decide))
  · exact (State.bit_congr (State.reg_setBit_other _ _ _ _ _ (by decide)) 2).trans halert

theorem State.quenchShown_tasks (s : State) : s.quenchShown.tasks = s.tasks := (State.alert_notices _ 2).tasks

theorem State.keepRecord_tasks (s : State) (r : List Byte) : (s.keepRecord r).tasks = s.tasks := by
  rw [State.keepRecord_eq_setRegs, State.setRegs_eq]

/-- A quench that starts: its bit, its alert and its vector, with acceptance and issue stopped. -/
theorem State.startQuench_spec {s : State} (h : Rising s.regs) (h9 : s.bit regPwrStatus 9 = false)
    (h10 : s.bit regPwrStatus 10 = false) (cause : Nat) : let t := s.startQuench cause
    t.power.quenching = true ∧ t.stopped = true ∧ t.bit regPwrStatus 9 = true ∧ t.bit regStwAlert 2 = true ∧
      t.bit (regOdlIrqPending 1) 5 = true ∧ t.tasks = s.tasks := by
  obtain ⟨hrise, hbit, halert, hirq⟩ :=
    State.quenchShown_spec (State.keepRecord_rising h (s.powerRecord cause 0))
  rw [State.startQuench_of_first h9 h10]
  generalize hz : (s.keepRecord (s.powerRecord cause 0)).quenchShown.modPower (fun p => { p with quenching := true }) = z
  have hquenching : z.power.quenching = true := by rw [← hz]; rfl
  have hreg (o : Nat) : z.reg o = (s.keepRecord (s.powerRecord cause 0)).quenchShown.reg o := by rw [← hz]; rfl
  have hz' : Rising z.regs := by rw [← hz]; exact hrise
  have htasks : z.tasks = s.tasks := by
    rw [← hz]
    exact (State.quenchShown_tasks _).trans (State.keepRecord_tasks _ _)
  have hgathers : z.Gathers (z.record s.quenchRecord) := State.record_gathers z _ (show 0x10 < 64 by decide)
  have hpower : (z.record s.quenchRecord).power.quenching = true := by
    rw [(z.record_enters s.quenchRecord).power, hquenching]
  refine ⟨hpower, ?_, ?_, ?_, ?_, (State.record_tasks _ _).trans htasks⟩
  · simp only [State.stopped, hpower, Bool.or_true, Bool.true_or]
  · have hkept := z.record_reg_other s.quenchRecord (show regPwrStatus ≠ regRruCount 0x10 by decide) (by decide)
    exact (State.bit_congr (hkept.trans (hreg _)) 9).trans hbit
  · exact hgathers.bit hz' _ (by decide) 2 ((State.bit_congr (hreg _) 2).trans halert)
  · exact hgathers.bit hz' _ (by decide) 5 ((State.bit_congr (hreg _) 5).trans hirq)

/-! ### The engines have stopped -/

theorem exec_quenchTasksStopped {s : State} (hq : s.power.quenching = true) (hgoes : s.power.stopped = false) :
    exec .quenchTasksStopped s = .next s.quiet.quenchStop := by
  show execQuenchTasksStopped s = _
  rw [execQuenchTasksStopped]
  exact attempt_of_some (if_pos ⟨hq, hgoes⟩)

/-- The tasks cut off, with every engine stopped. -/
def State.quenchCut (s : State) : State :=
  let z := s.abortToward.pubs.foldl State.cutPublish s.abortToward
  (if z.bit regRruStatus 8 then z else z.abortTasks).stopEngines

/-- The record counts the tasks that were cut off. -/
def State.quenchCounted (s : State) (n : Nat) : State :=
  s.keepRecord (s.keptRecord.take 32 ++ leBytes 4 n ++ s.keptRecord.drop 36)

/-- The last entry of the journal, and the close of its segment. -/
def State.quenchEntered (s : State) : State :=
  if s.journal.opened = true ∧ s.bit regRruStatus 8 = false then
    (s.event evQuench 0 (shake256 16 s.keptRecord)).closeSegment 3
  else s

theorem State.quenchStop_eq (s : State) : s.quenchStop =
    ((s.quenchCut.quenchCounted s.tasks.length).quenchEntered.modPower fun p => { p with stopped := true }).dropTrig := rfl

theorem State.quenchEntered_enters (s : State) : s.Enters s.quenchEntered := by
  unfold State.quenchEntered
  split
  · exact (s.event_enters _ _ _).trans (State.closeSegment_enters _ _)
  · exact .refl s

theorem State.dropTrig_spec (s : State) : s.dropTrig.rru.trig = none ∧ s.dropTrig.power = s.power ∧
    (s.NoWork → s.dropTrig.NoWork) := by
  unfold State.dropTrig
  dsimp only
  split
  · exact ⟨rfl, rfl, id⟩
  · exact ⟨rfl, rfl, id⟩

theorem State.quenchStop_spec (s : State) : s.quenchStop.power.stopped = true ∧ s.quenchStop.rru.trig = none ∧
    s.quenchStop.cores = [] ∧ s.quenchStop.rme.xfers = [] ∧ s.quenchStop.col.colls = [] := by
  have hidle : s.quenchCut.NoWork := State.stopEngines_noWork _
  have hentered : (s.quenchCut.quenchCounted s.tasks.length).quenchEntered.NoWork :=
    ((State.keepRecord_enters _ _).trans (State.quenchEntered_enters _)).noWork hidle
  rw [State.quenchStop_eq]
  generalize (s.quenchCut.quenchCounted s.tasks.length).quenchEntered = z at hentered
  obtain ⟨htrig, hpower, hkeeps⟩ := (z.modPower fun p => { p with stopped := true }).dropTrig_spec
  obtain ⟨hcores, -, hxfers, hcolls⟩ := hkeeps hentered
  exact ⟨congrArg Power.stopped hpower, htrig, hcores, hxfers, hcolls⟩

/-! ### Its end -/

/-- The transmitters idle: what the aborts left behind is gone, the alert goes, and every port is down or failed. -/
def State.quenchIdle (s : State) : State :=
  let z := s.flushAborts.setBit regStwAlert 2 false
  z.portsOff ((List.range 24).filter fun p => decide (z.portState p ≠ 0 ∧ z.portState p ≠ 4))

theorem exec_quenchComplete {s : State} (hstopped : s.power.stopped = true) (hover : s.quenchOver = false)
    (hsigned : s.journal.signing = [] ∨ s.jsigFree = false ∨ s.bit regRruStatus 8 = true) : exec .quenchComplete s =
      .next (if s.quiet.quenchIdle.vin.surgeStop then s.quiet.quenchIdle.unpowered false else s.quiet.quenchIdle) := by
  show execQuenchComplete s = _
  rw [execQuenchComplete]
  exact attempt_of_some (if_pos ⟨hstopped, hover, hsigned⟩)

theorem State.quenchIdle_spec {s : State} (hs : s.Canonical) : s.quenchIdle.vin = s.vin ∧
    s.quenchIdle.bit regStwAlert 2 = false ∧ (∀ p, p < 24 → s.quenchIdle.portState p = 0 ∨ s.quenchIdle.portState p = 4) ∧
    s.quenchIdle.mem = s.mem ∧ s.quenchIdle.tasks = s.tasks := by
  have hmoves := s.flushAborts_moves
  have hflushed : Rising s.flushAborts.regs := ((State.flushAborts_keeps (.refl s)).canonical hs).regs.1
  generalize hz : s.flushAborts.setBit regStwAlert 2 false = z
  have hrise : Rising z.regs := by rw [← hz]; exact State.setReg_rising _ _ _ hflushed
  have hrest : z.vin = s.vin ∧ z.mem = s.mem ∧ z.tasks = s.tasks := by
    rw [← hz]
    exact ⟨hmoves.vin, hmoves.mem, hmoves.tasks⟩
  have halert : z.bit regStwAlert 2 = false := by
    rw [← hz]
    exact State.bit_setBit_same _ _ _ _ hflushed (by decide)
  have hl : ∀ p ∈ (List.range 24).filter (fun p => decide (z.portState p ≠ 0 ∧ z.portState p ≠ 4)), p < 24 :=
    fun p hp => List.mem_range.mp (List.mem_filter.mp hp).1
  have hidle : s.quenchIdle =
      z.portsOff ((List.range 24).filter fun p => decide (z.portState p ≠ 0 ∧ z.portState p ≠ 4)) := by rw [← hz]; rfl
  obtain ⟨regs, ports, hoff⟩ := z.portsOff_rest
    ((List.range 24).filter fun p => decide (z.portState p ≠ 0 ∧ z.portState p ≠ 4))
  refine ⟨?_, ?_, fun p hp => ?_, ?_, ?_⟩
  · rw [hidle, hoff]; exact hrest.1
  · rw [hidle]
    exact (State.bit_congr (State.portsOff_reg_other hl z (by decide)) 2).trans halert
  · rw [hidle, State.portsOff_portState hl hrise hp]
    split
    · exact .inl rfl
    · next hout =>
      by_contra hlive
      exact hout (List.mem_filter.mpr ⟨List.mem_range.mpr hp, by simpa [not_or] using hlive⟩)
  · rw [hidle, hoff]; exact hrest.2.1
  · rw [hidle, hoff]; exact hrest.2.2

end Sys2Proof.Machine
end

section
/-! Samples of the input, of its power and of the temperatures, and voltage trim (R444, R445, R450, R457, R458). -/

namespace Sys2Proof.Machine

open Sys2Proof

/-! ### The input voltage (R444, R445) -/

theorem exec_vinSample (s : State) (mv : Int) : exec (.vinSample mv) s =
    .next (if s.vin.powered then s.quiet.vinRunning mv else s.quiet.vinOff mv) := by
  show execVinSample mv s = _
  rw [execVinSample]
  exact attempt_of_some rfl

/-- The flags of a sample stand in registers alone. -/
theorem State.vinFlags_vin (s : State) (was : Bool) : (s.vinFlags was).vin = s.vin := by
  unfold State.vinFlags
  extract_lets v s1 s2 s3 s4
  have h2 : s2.vin = s.vin := by
    unfold s2
    split <;> rfl
  have h3 : s3.vin = s.vin := by
    unfold s3
    split
    · exact h2
    · exact h2
  split
  · exact h3
  · exact h3

theorem State.vinRunning_lost {s : State} {mv : Int} (hlow : 50 ≤ s.vin.below33) (hmv : mv < 33000) :
    s.vinRunning mv = State.unpowered ({ s with vin := s.vin.sample mv }.vinFlags s.vin.excursion) false := by
  have hbelow : (s.vin.sample mv).below33 = s.vin.below33 + 1 := if_pos hmv
  have hlost : ({ s with vin := s.vin.sample mv }.vinFlags s.vin.excursion).vinLost = true := by
    simp only [State.vinLost, State.vinFlags_vin, hbelow]
    simp [show 50 < s.vin.below33 + 1 by omega]
  exact if_pos hlost

theorem State.vinOff_low {s : State} {mv : Int} (hmv : mv < 40000) : s.vinOff mv =
    { s with vin := { s.vin.sample mv with excursion := false, below33 := 0, above72 := 0 } } ∧
      (s.vin.sample mv).above40 = 0 := by
  have habove : (s.vin.sample mv).above40 = 0 := if_neg (by omega)
  exact ⟨if_neg (by simp [habove]), habove⟩

/-! ### The input power (R457) -/

theorem exec_inputPowerSample {s : State} (hon : s.vin.powered = true) (w : Nat) :
    exec (.inputPowerSample w) s = .next (s.quiet.powerSample w) := by
  show execInputPowerSample w s = _
  rw [execInputPowerSample]
  exact attempt_of_some (if_pos hon)

/-- Gating moves PWR_STATUS and no other register. -/
theorem State.updateGating_spec (s : State) : (∃ regs, s.updateGating = { s with regs := regs }) ∧
    ∀ o, o ≠ regPwrStatus → s.updateGating.reg o = s.reg o := by
  unfold State.updateGating
  split
  · exact ⟨⟨_, rfl⟩, fun _ _ => rfl⟩
  · refine ⟨⟨_, rfl⟩, fun o ho => ?_⟩
    rw [State.reg_setBit_other _ _ _ _ _ ho, State.reg_setBit_other _ _ _ _ _ ho, State.reg_setBit_other _ _ _ _ _ ho]

/-- The power controller's books after a sample, PWR_INPUT showing it. -/
theorem State.powerSample_eq (s : State) (w : Nat) : ∃ (p : Power) (events : Nat),
    s.powerSample w = ((({ s with power := p }).setFld regPwrInput 31 16 (min 65535 w)).addReg regPwrPeakEvents
      events).updateGating ∧ (1700 < w → 9 ≤ s.power.above1700 → p.peakGate = true) := by
  refine ⟨_, _, rfl, fun hw habove => ?_⟩
  have hhot : 10 ≤ if 1700 < w then s.power.above1700 + 1 else 0 := by rw [if_pos hw]; omega
  exact if_pos hhot

theorem State.powerSample_spec {s : State} (h : Rising s.regs) (w : Nat) : let t := s.powerSample w
    t.fld regPwrInput 31 16 = min 65535 w ∧ (1700 < w → 9 ≤ s.power.above1700 → t.power.peakGate = true) ∧
      t.mem = s.mem ∧ t.tasks = s.tasks ∧
      ∀ o, o ≠ regPwrInput → o ≠ regPwrPeakEvents → o ≠ regPwrStatus → t.reg o = s.reg o := by
  obtain ⟨p, events, ht, hgate⟩ := s.powerSample_eq w
  obtain ⟨⟨regs, hrest⟩, hreg⟩ := ((({ s with power := p }).setFld regPwrInput 31 16 (min 65535 w)).addReg
    regPwrPeakEvents events).updateGating_spec
  dsimp only
  rw [ht]
  refine ⟨?_, ?_, ?_, ?_, fun o h1 h2 h3 => ?_⟩
  · have hfld : (({ s with power := p }).setFld regPwrInput 31 16 (min 65535 w)).fld regPwrInput 31 16 =
        min 65535 w % 2 ^ 16 := State.fld_setFld_same { s with power := p } _ _ _ _ h (by decide) (by decide)
    refine (State.fld_congr ((hreg _ (by decide)).trans (State.reg_addReg_other _ _ _ _ (by decide))) _ _).trans
      (hfld.trans (Nat.mod_eq_of_lt ?_))
    omega
  · rw [hrest]; exact hgate
  · rw [hrest]; rfl
  · rw [hrest]; rfl
  · exact (hreg o h3).trans ((State.reg_addReg_other _ _ _ _ h2).trans (State.reg_setFld_other _ _ _ _ _ _ h1))

/-! ### Voltage trim (R450) -/

/-- A rail's offset from its fuse trim, in steps. -/
def State.railTrim (s : State) (d : Nat) : Int := ((s.power.trims.find? fun x => x.1 == d).map (·.2)).getD 0

/-- The offset after one step. -/
def State.nextTrim (s : State) (d : Nat) (up : Bool) : Int := if up then s.railTrim d + 1 else s.railTrim d - 1

/-- A rail at an offset. -/
def State.trimmed (s : State) (d : Nat) (n : Int) : State :=
  s.modPower fun p => { p with trims := mapPut d (if n = 0 then none else some n) p.trims }

theorem execVoltageTrim_eq (d : Nat) (up : Bool) (s : State) : execVoltageTrim d up s = attempt s fun s =>
    if d < 40 ∧ s.bit regGlbIslands d = true ∧ -5 ≤ s.nextTrim d up ∧ s.nextTrim d up ≤ 5 then
      some (s.trimmed d (s.nextTrim d up)) else none := by
  cases h : s.quiet.power.trims.find? (fun x => x.1 == d) with
  | none => simp only [execVoltageTrim, attempt, State.nextTrim, State.railTrim, State.trimmed, h, Option.map_none,
      Option.getD_none]
  | some x => simp only [execVoltageTrim, attempt, State.nextTrim, State.railTrim, State.trimmed, h, Option.map_some,
      Option.getD_some]

theorem exec_voltageTrim {s : State} {d : Nat} {up : Bool} (hd : d < 40) (hisland : s.bit regGlbIslands d = true)
    (hlow : -5 ≤ s.nextTrim d up) (hhigh : s.nextTrim d up ≤ 5) :
    exec (.voltageTrim d up) s = .next (s.quiet.trimmed d (s.nextTrim d up)) := by
  show execVoltageTrim d up s = _
  rw [execVoltageTrim_eq]
  exact attempt_of_some (if_pos ⟨hd, hisland, hlow, hhigh⟩)

theorem exec_voltageTrim_refused {s : State} {d : Nat} {up : Bool}
    (h : 40 ≤ d ∨ s.bit regGlbIslands d = false ∨ s.nextTrim d up < -5 ∨ 5 < s.nextTrim d up) :
    exec (.voltageTrim d up) s = .next s.quiet := by
  have hnot : ¬ (d < 40 ∧ s.quiet.bit regGlbIslands d = true ∧ -5 ≤ s.quiet.nextTrim d up ∧ s.quiet.nextTrim d up ≤ 5) := by
    rintro ⟨hd, hisland, hlow, hhigh⟩
    rcases h with h | h | h | h
    · omega
    · exact Bool.false_ne_true (h.symm.trans hisland)
    · exact absurd hlow (Int.not_le.mpr h)
    · exact absurd hhigh (Int.not_le.mpr h)
  show execVoltageTrim d up s = _
  rw [execVoltageTrim_eq, attempt, if_neg hnot, Option.getD_none]

end Sys2Proof.Machine
end

section
/-! Temperatures, and the trip (R458). -/

namespace Sys2Proof.Machine

open Sys2Proof

/-! ### The trip -/

theorem State.deviceStop_level (s : State) (kind unit detail : Nat) (lost : Option Nat) :
    (s.deviceStop kind unit detail lost).power.level = s.power.level := by
  have hidle : s.abortToward.stopEngines.power.level = s.power.level :=
    (congrArg Power.level s.abortToward_moves.power :)
  have hrecorded := (State.stopRecorded_logs (s := s) kind unit detail lost).enters
  rw [State.deviceStop_eq, ((State.setBit_enters _ _ _ _).trans (State.alert_logs _ 1).enters).power,
    hrecorded.power, hidle]

/-- The device stopped by heat, with THERMTRIP_N low. -/
def State.tripStopped (s : State) (detail : Nat) : State :=
  ((s.deviceStop 0x11 (unitWord 39 14) detail none).setBit regPwrStatus 10 true).alert 4

/-- The ports off and the islands dark. -/
def State.tripDark (s : State) : State :=
  (s.portsOff ((List.range 24).filter fun p => decide (s.portState p ≠ 0))).setFld regGlbIslands 37 0 0

theorem State.tripDark_reg (s : State) {o : Nat} (ho : ¬ portOffReg o) (hislands : o ≠ regGlbIslands) :
    s.tripDark.reg o = s.reg o := by
  rw [State.tripDark, State.reg_setFld_other _ _ _ _ _ _ hislands]
  exact State.portsOff_reg_other (fun p hp => List.mem_range.mp (List.mem_filter.mp hp).1) s ho

theorem State.tripDark_power (s : State) : s.tripDark.power = s.power := by
  obtain ⟨regs, ports, h⟩ := s.portsOff_rest ((List.range 24).filter fun p => decide (s.portState p ≠ 0))
  rw [State.tripDark, h]
  rfl

theorem State.tripStopped_spec {s : State} (hs : s.Canonical) (detail : Nat) :
    (s.tripStopped detail).power.level = s.power.level ∧ (s.tripStopped detail).bit regPwrStatus 10 = true ∧
      (s.tripStopped detail).bit regRruStatus 8 = true ∧ (s.tripStopped detail).reg regPwrTemp = s.reg regPwrTemp ∧
      (s.bit (regOdlIrqPending 1) 10 = true → (s.tripStopped detail).bit (regOdlIrqPending 1) 10 = true) := by
  have hstop := State.deviceStop_gathers s hs 0x11 (unitWord 39 14) detail (by decide) none
  have hlevel := s.deviceStop_level 0x11 (unitWord 39 14) detail none
  have htemp := State.deviceStop_reg_other s 0x11 (unitWord 39 14) detail none (o := regPwrTemp) (by decide) (by decide)
    (by decide)
  obtain ⟨hfatal, -⟩ := State.deviceStop_spec hs 0x11 (unitWord 39 14) detail none
  have hrise := hstop.rising hs.regs.1
  rw [State.tripStopped]
  generalize s.deviceStop 0x11 (unitWord 39 14) detail none = z at hstop hlevel htemp hfatal hrise
  have htrip : z.Gathers (z.setBit regPwrStatus 10 true) := State.setReg_gathers _ (by decide) _
  have halert := htrip.trans (State.alert_gathers (z.setBit regPwrStatus 10 true) (show 4 < 64 by decide))
  refine ⟨?_, ?_, ?_, ?_, fun h => ?_⟩
  · rw [(State.alert_logs _ 4).enters.power]
    exact hlevel
  · exact (State.bit_congr ((State.alert_notices _ 4).reg _ (by decide)) 10).trans
      (State.bit_setBit_same _ _ _ _ hrise (by decide))
  · exact halert.bit hrise _ (by decide) 8 hfatal
  · exact ((State.alert_notices _ 4).reg _ (by decide)).trans ((State.reg_setBit_other _ _ _ _ _ (by decide)).trans htemp)
  · exact (hstop.trans halert).bit hs.regs.1 _ (by decide) 10 h

theorem State.trip_spec {s : State} (hs : s.Canonical) (detail : Nat) :
    (s.trip detail).power.level = s.power.level ∧ (s.trip detail).thermtripLow = true ∧ (s.trip detail).fatal = true ∧
      (s.trip detail).reg regPwrTemp = s.reg regPwrTemp ∧
      (s.bit (regOdlIrqPending 1) 10 = true → (s.trip detail).bit (regOdlIrqPending 1) 10 = true) := by
  obtain ⟨hlevel, htrip, hfatal, htemp, hirq⟩ := State.tripStopped_spec hs detail
  have hreg {o : Nat} (ho : ¬ portOffReg o) (hislands : o ≠ regGlbIslands) :
      (s.trip detail).reg o = (s.tripStopped detail).reg o :=
    (State.reg_congr rfl rfl o).trans ((s.tripStopped detail).tripDark_reg ho hislands)
  refine ⟨?_, ?_, ?_, (hreg (by decide) (by decide)).trans htemp, fun h => ?_⟩
  · exact (congrArg Power.level (s.tripStopped detail).tripDark_power).trans hlevel
  · exact (State.bit_congr (hreg (by decide) (by decide)) 10).trans htrip
  · exact (State.bit_congr (hreg (by decide) (by decide)) 8).trans hfatal
  · exact (State.bit_congr (hreg (by decide) (by decide)) 10).trans (hirq h)

/-! ### A reading -/

theorem exec_thermalSample {s : State} (hon : s.vin.powered = true) (j : Nat) (dies : List Nat) :
    exec (.thermalSample j dies) s = .next (s.quiet.heatSample j dies) := by
  show execThermalSample j dies s = _
  rw [execThermalSample]
  exact attempt_of_some (if_pos hon)

/-- The readings as they appear: PWR_TEMP, and those of the base dies. -/
def State.heatRead (s : State) (j : Nat) (dies : List Nat) : State :=
  (s.setReg regPwrTemp (min 65535 j + min 65535 (dies.foldl max 0) * 2 ^ 16)).modHbm fun h =>
    { h with dies := (List.range 12).map fun k => dies.getD k (dies.foldl max 0) }

/-- The thermal level in the power controller's books, with the units that it takes from the pool. -/
def State.levelSet (s : State) (l j b : Nat) : State := s.modPower fun p => { p with
  level := l, heatCut := s.heatUnits l j b
  emergencyAt := if l = 3 then (if s.power.level = 3 then p.emergencyAt else some s.time) else none }

/-- The thermal level entered, with its gating, and the channels that have drifted since their training. -/
def State.heatEntered (s : State) (l j b : Nat) : State :=
  let z := (s.levelSet l j b).updateGating.modHbm fun h => { h with hot := decide (1 ≤ l) }
  if z.ready then z.driftDue else z

/-- A change of the level raises vector 74. -/
def State.heatTold (s : State) (old l : Nat) : State := if old = l then s else s.irq 74

/-- What a level brings below the trip: its record when it rises, and its alert. -/
def State.heatReported (s : State) (old l j b : Nat) : State :=
  let z := if old < l then
      s.record { kind := 0x11, scope := 0, action := 0, unit := unitWord 39 14, detail := s.heatDetail l j b }
    else s
  if l = 3 then z.alert 3 else z.setBit regStwAlert 3 false

theorem State.heatSample_of_tripped {s : State} (h : s.power.level = 4) (j : Nat) (dies : List Nat) :
    s.heatSample j dies = s.heatRead j dies := if_pos h

/-- The device after a reading that it takes, before the level's consequences. -/
def State.heatLevelled (s : State) (j b : Nat) : State :=
  (s.heatEntered (s.heatLevel j b) j b).heatTold s.power.level (s.heatLevel j b)

theorem State.heatSample_of_running {s : State} (h : s.power.level ≠ 4) (j : Nat) (dies : List Nat) :
    let z := s.heatRead j dies
    let b := dies.foldl max 0
    s.heatSample j dies = if z.heatLevel j b = 4 then (z.heatLevelled j b).trip ((z.heatLevelled j b).heatDetail 4 j b)
      else (z.heatLevelled j b).heatReported z.power.level (z.heatLevel j b) j b := if_neg h

theorem State.heatRead_temp {s : State} (h : Rising s.regs) (j : Nat) (dies : List Nat) :
    (s.heatRead j dies).reg regPwrTemp = min 65535 j + min 65535 (dies.foldl max 0) * 2 ^ 16 :=
  State.reg_setReg_same _ _ _ h (by omega)

/-- The level entered moves PWR_STATUS alone among the registers, and stands. -/
theorem State.heatEntered_spec (s : State) (l j b : Nat) : (s.heatEntered l j b).power.level = l ∧
    ∀ o, o ≠ regPwrStatus → (s.heatEntered l j b).reg o = s.reg o := by
  obtain ⟨⟨regs, hrest⟩, hreg⟩ := (s.levelSet l j b).updateGating_spec
  unfold State.heatEntered
  extract_lets z
  have hlevel : z.power.level = l := by
    unfold z
    rw [hrest]
    rfl
  split
  · exact ⟨hlevel, fun o ho => hreg o ho⟩
  · exact ⟨hlevel, fun o ho => hreg o ho⟩

theorem State.heatEntered_keeps (s : State) (l j b : Nat) : Keeps s (s.heatEntered l j b) := by
  have hgated : Keeps s (s.levelSet l j b).updateGating :=
    State.updateGating_keeps ((Keeps.refl s).congr rfl rfl rfl rfl rfl)
  unfold State.heatEntered
  extract_lets z
  have hz : Keeps s z := hgated.congr rfl rfl rfl rfl rfl
  split
  · exact State.driftDue_keeps hz
  · exact hz

theorem State.heatTold_spec {s : State} (hs : s.Canonical) (old l : Nat) : (s.heatTold old l).Canonical ∧
    (s.heatTold old l).power = s.power ∧ (s.heatTold old l).reg regPwrTemp = s.reg regPwrTemp ∧
    (old ≠ l → (s.heatTold old l).bit (regOdlIrqPending 1) 10 = true) := by
  unfold State.heatTold
  split
  · next h => exact ⟨hs, rfl, rfl, fun hne => absurd h hne⟩
  · exact ⟨(State.setBit_keeps (.refl s)).canonical hs, rfl, State.reg_setBit_other _ _ _ _ _ (by decide),
      fun _ => State.bit_setBit_same _ _ _ _ hs.regs.1 (by decide)⟩

theorem State.heatReported_spec {s : State} (hs : s.Canonical) (old l j b : Nat) :
    (s.heatReported old l j b).power = s.power ∧ (s.heatReported old l j b).reg regPwrTemp = s.reg regPwrTemp ∧
      (s.bit (regOdlIrqPending 1) 10 = true → (s.heatReported old l j b).bit (regOdlIrqPending 1) 10 = true) := by
  unfold State.heatReported
  extract_lets z
  have hz : s.Gathers z ∧ z.power = s.power ∧ z.reg regPwrTemp = s.reg regPwrTemp := by
    unfold z
    split
    · exact ⟨State.record_gathers _ _ (show 0x11 < 64 by decide), (State.record_enters _ _).power,
        State.record_reg_other _ _ (show regPwrTemp ≠ regRruCount 0x11 by decide) (by decide)⟩
    · exact ⟨.refl s, rfl, rfl⟩
  obtain ⟨hgathers, hpower, htemp⟩ := hz
  split
  · exact ⟨(State.alert_logs _ 3).enters.power.trans hpower, ((State.alert_notices _ 3).reg _ (by decide)).trans htemp,
      (hgathers.trans (State.alert_gathers _ (by decide))).bit hs.regs.1 _ (by decide) 10⟩
  · exact ⟨hpower, (State.reg_setBit_other _ _ _ _ _ (by decide)).trans htemp, fun h =>
      (State.bit_congr (State.reg_setBit_other _ _ _ _ _ (by decide)) 10).trans
        (hgathers.bit hs.regs.1 _ (by decide) 10 h)⟩

/-- A reading at the trip's temperature enters level 4. -/
theorem State.heatLevel_of_trip (s : State) {j b : Nat} (h : 1150 ≤ j ∨ 1050 ≤ b) : s.heatLevel j b = 4 := by
  have henters : s.heatEnters j b = 4 := if_pos (h.elim .inl fun hb => .inr (.inl hb))
  unfold State.heatLevel
  rw [henters]
  by_cases hcur : s.power.level < 4
  · exact if_pos hcur
  · have hle : 4 ≤ s.power.level := Nat.le_of_not_lt hcur
    simp [hcur, hle]

theorem State.heatSample_spec {s : State} (hs : s.Canonical) (j : Nat) (dies : List Nat) :
    let b := dies.foldl max 0
    let t := s.heatSample j dies
    t.reg regPwrTemp = min 65535 j + min 65535 b * 2 ^ 16 ∧
      (t.power.level ≠ s.power.level → t.bit (regOdlIrqPending 1) 10 = true) ∧
      (s.power.level ≠ 4 → 1150 ≤ j ∨ 1050 ≤ b → t.power.level = 4 ∧ t.thermtripLow = true ∧ t.fatal = true) := by
  have hread := State.heatRead_temp hs.regs.1 j dies
  by_cases htripped : s.power.level = 4
  · dsimp only
    rw [State.heatSample_of_tripped htripped]
    exact ⟨hread, fun hne => absurd rfl hne, fun hne => absurd htripped hne⟩
  · have hz : (s.heatRead j dies).Canonical := (State.setReg_keeps (.refl s)).canonical hs |>.congr rfl rfl rfl rfl
    have hold : (s.heatRead j dies).power.level = s.power.level := rfl
    dsimp only
    rw [State.heatSample_of_running htripped]
    generalize s.heatRead j dies = z at hread hz hold
    obtain ⟨hlevel, hother⟩ := z.heatEntered_spec (z.heatLevel j (dies.foldl max 0)) j (dies.foldl max 0)
    obtain ⟨hcanon, hpower, htemp, hirq⟩ := State.heatTold_spec
      ((z.heatEntered_keeps (z.heatLevel j (dies.foldl max 0)) j (dies.foldl max 0)).canonical hz) z.power.level
      (z.heatLevel j (dies.foldl max 0))
    have htemp' := htemp.trans ((hother regPwrTemp (by decide)).trans hread)
    have hlevel' := (congrArg Power.level hpower).trans hlevel
    rw [State.heatLevelled]
    split
    · next h4 =>
      obtain ⟨htlevel, hlow, hfatal, httemp, htirq⟩ := State.trip_spec hcanon (State.heatDetail
        ((z.heatEntered (z.heatLevel j (dies.foldl max 0)) j (dies.foldl max 0)).heatTold z.power.level
          (z.heatLevel j (dies.foldl max 0))) 4 j (dies.foldl max 0))
      exact ⟨httemp.trans htemp', fun hne => htirq (hirq fun e => hne (htlevel.trans (hlevel'.trans (e.symm.trans hold)))),
        fun _ _ => ⟨htlevel.trans (hlevel'.trans h4), hlow, hfatal⟩⟩
    · next h4 =>
      obtain ⟨hrpower, hrtemp, hrirq⟩ := State.heatReported_spec hcanon z.power.level (z.heatLevel j (dies.foldl max 0)) j
        (dies.foldl max 0)
      refine ⟨hrtemp.trans htemp', fun hne => hrirq (hirq fun e => hne ?_),
        fun _ hhot => absurd (z.heatLevel_of_trip hhot) h4⟩
      exact (congrArg Power.level hrpower).trans (hlevel'.trans (e.symm.trans hold))

/-- The two readings side by side in PWR_TEMP. -/
theorem tempWord_fields {j b : Nat} (hj : j < 65536) (hb : b < 65536) :
    getBits (j + b * 2 ^ 16) 15 0 = j ∧ getBits (j + b * 2 ^ 16) 31 16 = b := by
  simp only [getBits, Nat.shiftRight_eq_div_pow]
  omega

theorem thermalSample_shows {s : State} (hs : s.Canonical) (j : Nat) (dies : List Nat) (hon : s.vin.powered = true) :
    let b := dies.foldl max 0
    ∃ t, exec (.thermalSample j dies) s = .next t ∧ t.fld regPwrTemp 15 0 = min 65535 j ∧
      t.fld regPwrTemp 31 16 = min 65535 b ∧
      (t.power.level ≠ s.power.level → t.bit (regOdlIrqPending 1) 10 = true) ∧
      (s.power.level ≠ 4 → 1150 ≤ j ∨ 1050 ≤ b → t.power.level = 4 ∧ t.thermtripLow = true ∧ t.fatal = true) := by
  intro b
  obtain ⟨htemp, hirq, htrip⟩ := State.heatSample_spec (s := s.quiet) (hs.congr rfl rfl rfl rfl) j dies
  obtain ⟨hlow, hhigh⟩ := tempWord_fields (show min 65535 j < 65536 by omega) (show min 65535 b < 65536 by omega)
  refine ⟨_, exec_thermalSample hon j dies, ?_, ?_, hirq, htrip⟩
  · rw [State.fld, htemp]
    exact hlow
  · rw [State.fld, htemp]
    exact hhigh

/-! ### The obligation -/

theorem quenchComplete_ends {s : State} (hs : s.Canonical) (hstopped : s.power.stopped = true)
    (hover : s.quenchOver = false) (hsigned : s.journal.signing = [] ∨ s.jsigFree = false ∨ s.bit regRruStatus 8 = true) :
    (s.vin.surgeStop = false → ∃ t, exec .quenchComplete s = .next t ∧ t.bit regStwAlert 2 = false ∧
      (∀ p, p < 24 → t.portState p = 0 ∨ t.portState p = 4) ∧ t.mem = s.mem ∧ t.tasks = s.tasks) ∧
    (s.vin.surgeStop = true → ∃ t, exec .quenchComplete s = .next t ∧ t.vin.powered = false ∧ t.tasks = []) := by
  have hx := exec_quenchComplete hstopped hover hsigned
  obtain ⟨hvin, halert, hports, hmem, htasks⟩ := State.quenchIdle_spec (s := s.quiet) (hs.congr rfl rfl rfl rfl)
  have hsurge : s.quiet.quenchIdle.vin.surgeStop = s.vin.surgeStop := congrArg Vin.surgeStop hvin
  rw [hsurge] at hx
  refine ⟨fun hcalm => ?_, fun hstop => ?_⟩
  · rw [if_neg (by simp [hcalm])] at hx
    exact ⟨_, hx, halert, hports, hmem, htasks⟩
  · rw [if_pos hstop] at hx
    exact ⟨_, hx, rfl, rfl⟩

theorem vinSample_stops {s : State} (mv : Int) :
    (s.vin.powered = true → exec (.vinSample mv) s = .next (s.quiet.vinRunning mv)) ∧
    (s.vin.powered = true → 50 ≤ s.vin.below33 → mv < 33000 →
      ∃ t, exec (.vinSample mv) s = .next t ∧ t.vin.powered = false ∧ t.tasks = [] ∧ t.time = 0) ∧
    (s.vin.powered = false → mv < 40000 → ∃ t, exec (.vinSample mv) s = .next t ∧ t.vin.powered = false ∧
      t.vin.above40 = 0 ∧ t.regs = s.regs ∧ t.mem = s.mem) := by
  have hx := exec_vinSample s mv
  have hruns (hon : s.vin.powered = true) : exec (.vinSample mv) s = .next (s.quiet.vinRunning mv) := by
    rw [hx, if_pos hon]
  refine ⟨hruns, fun hon hlow hmv => ?_, fun hoff hmv => ?_⟩
  · rw [hruns hon, State.vinRunning_lost (s := s.quiet) hlow hmv]
    exact ⟨_, rfl, rfl, rfl, rfl⟩
  · obtain ⟨hstands, habove⟩ := State.vinOff_low (s := s.quiet) hmv
    rw [hx, if_neg (by simp [hoff]), hstands]
    exact ⟨_, rfl, hoff, habove, rfl, rfl⟩

/-- Settles O56: each sample and each step of a quench by the branches of its operation. -/
theorem powerSamplesQuenchesAndTrips : Obligations.PowerSamplesQuenchesAndTrips := by
  intro s hs
  refine ⟨fun hready h9 h10 => ?_, fun hready hagain => ?_, fun hq hgoes => ?_, quenchComplete_ends hs,
    vinSample_stops, fun w hon => ?_, thermalSample_shows hs, fun d up => ⟨exec_voltageTrim, exec_voltageTrim_refused⟩⟩
  · exact ⟨_, exec_pwrQuenchWrite hready, State.startQuench_spec (s := s.quiet) hs.regs.1 h9 h10 4⟩
  · exact (exec_pwrQuenchWrite hready).trans (congrArg _ (State.startQuench_of_again (s := s.quiet) hagain 4))
  · exact ⟨_, exec_quenchTasksStopped hq hgoes, rfl, s.quiet.quenchStop_spec⟩
  · exact ⟨_, exec_inputPowerSample hon w, State.powerSample_spec (s := s.quiet) hs.regs.1 w⟩

end Sys2Proof.Machine
end

section
/-! The Odord link: flits, training and interrupt messages (R490 to R493, R499 to R501). -/

namespace Sys2Proof.Machine

open Sys2Proof

/-! ### Flits (R490, R492) -/

theorem State.odlDown_rest (s : State) : ∃ odl tasks, s.odlDown = { s.setOdlState 1 with odl := odl, tasks := tasks } :=
  ⟨_, _, rfl⟩

theorem State.odlDown_odl (s : State) : s.odlDown.odl.rxSeq = s.odl.rxSeq ∧ s.odlDown.odl.taken = s.odl.taken := by
  unfold State.odlDown
  exact ⟨rfl, rfl⟩

/-- A link that goes down trains; of the registers ODL_STATUS moves alone. -/
theorem State.odlDown_spec {s : State} (h : Rising s.regs) : s.odlDown.odlState = 1 ∧ s.odlDown.mem = s.mem ∧
    s.odlDown.out = s.out ∧ ∀ o, o ≠ regOdlStatus → s.odlDown.reg o = s.reg o := by
  obtain ⟨odl, tasks, hdown⟩ := s.odlDown_rest
  have hreg (o : Nat) : s.odlDown.reg o = (s.setOdlState 1).reg o := by rw [hdown]; exact State.reg_congr rfl rfl o
  refine ⟨?_, by rw [hdown]; rfl, by rw [hdown]; rfl, fun o ho => (hreg o).trans (State.reg_setFld_other _ _ _ _ _ _ ho)⟩
  exact (State.fld_congr (hreg _) _ _).trans (State.fld_setFld_same _ _ _ _ _ h (by decide) (by decide))

theorem exec_odlLinkDown {s : State} (h : s.linkUp = true) : exec .odlLinkDown s = .next s.quiet.odlDown := by
  show execOdlLinkDown s = _
  rw [execOdlLinkDown]
  exact attempt_of_some (if_pos h)

theorem exec_odlFlitReceive {s : State} (h : s.linkUp = true) (f : Flit) : exec (.odlFlitReceive f) s =
    .next (if flitOk f then s.quiet.modOdl fun o => o.takeFlit f
      else (s.quiet.emit (.replayRequest s.odl.rxSeq)).countReplay) := by
  show execOdlFlitReceive f s = _
  rw [execOdlFlitReceive]
  exact attempt_of_some (if_pos h)

section TakeFlit

variable (o : Odl) (f : Flit)

theorem Odl.takeFlit_replay : (o.takeFlit f).replay = o.replay.filter fun r => decide (f.ack ≤ r.1) := by
  unfold Odl.takeFlit
  dsimp only
  split <;> rfl

variable {o f}

theorem Odl.takeFlit_next (h : f.num = o.rxSeq) :
    (o.takeFlit f).rxSeq = o.rxSeq + 1 ∧ (o.takeFlit f).taken = o.taken ++ [f.payload] := by
  rw [Odl.takeFlit, if_pos h]
  exact ⟨rfl, rfl⟩

theorem Odl.takeFlit_other (h : f.num ≠ o.rxSeq) :
    (o.takeFlit f).rxSeq = o.rxSeq ∧ (o.takeFlit f).taken = o.taken := by
  rw [Odl.takeFlit, if_neg h]
  exact ⟨rfl, rfl⟩

end TakeFlit

/-- A replay counted, before the count takes the link down. -/
def State.replayCounted (s : State) : State :=
  (s.modOdl fun o => { o with replays := (s.odl.replays.filter fun t => decide (s.time < t + 1000000)) ++ [s.time] }).addReg
    regOdlReplays 1

theorem State.countReplay_cases (s : State) :
    s.countReplay = s.replayCounted.odlDown ∨ s.countReplay = s.replayCounted := ite_eq_or_eq _ _ _

/-- A replay counted leaves what was received, the outputs and memory, whether or not the link goes down. -/
theorem State.countReplay_spec {s : State} (h : Rising s.regs) : s.countReplay.odl.rxSeq = s.odl.rxSeq ∧
    s.countReplay.odl.taken = s.odl.taken ∧ s.countReplay.out = s.out ∧ s.countReplay.mem = s.mem ∧
    s.countReplay.reg regOdlReplays = (s.reg regOdlReplays + 1) % 2 ^ 64 := by
  have hcount : s.replayCounted.reg regOdlReplays = (s.reg regOdlReplays + 1) % 2 ^ 64 := State.reg_addReg_same _ _ _ h
  rcases s.countReplay_cases with hdown | hstays
  · obtain ⟨-, hmem, hout, hreg⟩ := State.odlDown_spec (s := s.replayCounted) (State.setReg_rising _ _ _ h)
    obtain ⟨hseq, htaken⟩ := s.replayCounted.odlDown_odl
    rw [hdown]
    exact ⟨hseq, htaken, hout, hmem, (hreg _ (by decide)).trans hcount⟩
  · rw [hstays]
    exact ⟨rfl, rfl, rfl, rfl, hcount⟩

theorem flitReceive_takes {s : State} (hs : s.Canonical) (hup : s.linkUp = true) (f : Flit) :
    (flitOk f = true → ∃ t, exec (.odlFlitReceive f) s = .next t ∧
      t.odl.replay = (s.odl.replay.filter fun r => decide (f.ack ≤ r.1)) ∧
      (f.num = s.odl.rxSeq → t.odl.rxSeq = s.odl.rxSeq + 1 ∧ t.odl.taken = s.odl.taken ++ [f.payload]) ∧
      (f.num ≠ s.odl.rxSeq → t.odl.rxSeq = s.odl.rxSeq ∧ t.odl.taken = s.odl.taken) ∧ t.regs = s.regs ∧ t.mem = s.mem) ∧
    (flitOk f = false → ∃ t, exec (.odlFlitReceive f) s = .next t ∧ t.odl.rxSeq = s.odl.rxSeq ∧
      t.odl.taken = s.odl.taken ∧ Out.replayRequest s.odl.rxSeq ∈ t.out ∧ t.mem = s.mem ∧
      t.reg regOdlReplays = (s.reg regOdlReplays + 1) % 2 ^ 64) := by
  have hx := exec_odlFlitReceive hup f
  refine ⟨fun hok => ?_, fun hbad => ?_⟩
  · rw [if_pos hok] at hx
    exact ⟨_, hx, s.odl.takeFlit_replay f, Odl.takeFlit_next, Odl.takeFlit_other, rfl, rfl⟩
  · obtain ⟨hseq, htaken, hout, hmem, hcount⟩ :=
      State.countReplay_spec (s := s.quiet.emit (.replayRequest s.odl.rxSeq)) hs.regs.1
    rw [if_neg (by simp [hbad])] at hx
    refine ⟨_, hx, hseq, htaken, ?_, hmem, hcount⟩
    rw [hout]
    exact State.mem_emit_out _ _

/-! ### Replays (R492, R493) -/

/-- The flits that a replay sends again. -/
def State.dueFlits (s : State) (n : Nat) : List (Nat × List Byte × Nat) := s.odl.replay.filter fun r => decide (n ≤ r.1)

/-- Flits sent again, each counted. -/
def State.resendFlits (s : State) (n : Nat) : State :=
  let again := (s.dueFlits n).map fun r => (r.1, r.2.1, r.2.2 + 1)
  again.foldl (fun z r => z.emit (.flit r.2.1)) (s.modOdl fun o => { o with replay := again })

theorem exec_odlReplayRequest {s : State} {n : Nat} (hup : s.linkUp = true) (hn : ∃ r ∈ s.odl.replay, r.1 = n) :
    exec (.odlReplayRequest n) s = .next (if (s.dueFlits n).any fun r => decide (4 ≤ r.2.2) then s.quiet.odlDown
      else (s.quiet.resendFlits n).countReplay) := by
  obtain ⟨r, hr, hrn⟩ := hn
  have hany : (s.odl.replay.any fun r => r.1 == n) = true := List.any_eq_true.mpr ⟨r, hr, beq_iff_eq.mpr hrn⟩
  show execOdlReplayRequest n s = _
  rw [execOdlReplayRequest]
  refine attempt_of_some ((if_pos ⟨hup, hany⟩).trans ?_)
  exact (apply_ite some _ _ _).symm

theorem State.emits_out {α : Type} (f : α → Out) (l : List α) (s : State) :
    (l.foldl (fun z a => z.emit (f a)) s).out = s.out ++ l.map f := by
  induction l generalizing s with
  | nil => exact (List.append_nil _).symm
  | cons a l ih => rw [List.foldl_cons, ih, State.emit_out, List.append_assoc]; rfl

theorem State.emits_rest {α : Type} (f : α → Out) (l : List α) (s : State) :
    ∃ out, l.foldl (fun z a => z.emit (f a)) s = { s with out := out } :=
  List.foldlRecOn (motive := fun t : State => ∃ out, t = { s with out := out }) l _ ⟨s.out, rfl⟩ fun _ ⟨out, ht⟩ a _ =>
    ⟨out ++ [f a], by rw [ht]; rfl⟩

theorem State.mem_resendFlits {s : State} {n : Nat} {r : Nat × List Byte × Nat} (hr : r ∈ s.odl.replay) (hn : n ≤ r.1) :
    Out.flit r.2.1 ∈ (s.resendFlits n).out := by
  rw [State.resendFlits, State.emits_out]
  refine List.mem_append_right _ ?_
  rw [List.map_map]
  exact List.mem_map.mpr ⟨r, List.mem_filter.mpr ⟨hr, decide_eq_true hn⟩, rfl⟩

theorem State.resendFlits_rest (s : State) (n : Nat) :
    (s.resendFlits n).regs = s.regs ∧ (s.resendFlits n).mem = s.mem := by
  obtain ⟨out, h⟩ := State.emits_rest (fun r : Nat × List Byte × Nat => Out.flit r.2.1)
    ((s.dueFlits n).map fun r => (r.1, r.2.1, r.2.2 + 1))
    (s.modOdl fun o => { o with replay := (s.dueFlits n).map fun r => (r.1, r.2.1, r.2.2 + 1) })
  rw [State.resendFlits, h]
  exact ⟨rfl, rfl⟩

theorem replayRequest_resends {s : State} (hs : s.Canonical) (hup : s.linkUp = true) {n : Nat}
    (hn : ∃ r ∈ s.odl.replay, r.1 = n) :
    ((∃ r ∈ s.odl.replay, n ≤ r.1 ∧ 4 ≤ r.2.2) → exec (.odlReplayRequest n) s = .next s.quiet.odlDown) ∧
    ((∀ r ∈ s.odl.replay, n ≤ r.1 → r.2.2 < 4) → ∃ t, exec (.odlReplayRequest n) s = .next t ∧
      (∀ r ∈ s.odl.replay, n ≤ r.1 → Out.flit r.2.1 ∈ t.out) ∧ t.mem = s.mem) := by
  have hx := exec_odlReplayRequest hup hn
  refine ⟨fun ⟨r, hr, hnr, hspent⟩ => ?_, fun hfresh => ?_⟩
  · rw [hx, if_pos]
    exact List.any_eq_true.mpr ⟨r, List.mem_filter.mpr ⟨hr, decide_eq_true hnr⟩, decide_eq_true hspent⟩
  · have hnone : ¬ ((s.dueFlits n).any fun r => decide (4 ≤ r.2.2)) = true := by
      intro hany
      obtain ⟨r, hr, hspent⟩ := List.any_eq_true.mp hany
      obtain ⟨hin, hnr⟩ := List.mem_filter.mp hr
      exact Nat.not_le.mpr (hfresh r hin (of_decide_eq_true hnr)) (of_decide_eq_true hspent)
    obtain ⟨hregs, hmem⟩ := s.quiet.resendFlits_rest n
    obtain ⟨-, -, hout, hmem', -⟩ := State.countReplay_spec (s := s.quiet.resendFlits n) (hregs ▸ hs.regs.1)
    rw [if_neg hnone] at hx
    refine ⟨_, hx, fun r hr hnr => ?_, hmem'.trans hmem⟩
    rw [hout]
    exact State.mem_resendFlits (s := s.quiet) hr hnr

/-! ### Training (R491, R493) -/

theorem exec_odlRetrainComplete {s : State} (hon : s.vin.powered = true) (htrains : s.odlState = 1)
    (lanes : BitVec 16) : exec (.odlRetrainComplete lanes) s = .next
    (if lowHalf lanes || highHalf lanes then s.quiet.odlComesUp (!(lowHalf lanes && highHalf lanes))
      else if 3 ≤ s.odl.failed + 1 then (s.quiet.modOdl fun o => { o with failed := s.odl.failed + 1 }).setOdlState 3
      else s.quiet.modOdl fun o => { o with failed := s.odl.failed + 1 }) := by
  show execOdlRetrainComplete lanes s = _
  rw [execOdlRetrainComplete]
  refine attempt_of_some ((if_pos ⟨hon, htrains⟩).trans ?_)
  exact (apply_ite some _ _ _).symm

/-- From `s` to `t` flits and messages leave: registers and memory stand, and so does the time the link went down. -/
structure State.Speaks (s t : State) : Prop where
  variant : t.variant = s.variant
  regs : t.regs = s.regs
  mem : t.mem = s.mem
  downSince : t.odl.downSince = s.odl.downSince

namespace State.Speaks

theorem refl (s : State) : s.Speaks s := ⟨rfl, rfl, rfl, rfl⟩

theorem trans {s t u : State} (h : s.Speaks t) (g : t.Speaks u) : s.Speaks u :=
  ⟨g.variant.trans h.variant, g.regs.trans h.regs, g.mem.trans h.mem, g.downSince.trans h.downSince⟩

theorem foldl {α : Type} {f : State → α → State} (hf : ∀ (z : State) (a : α), z.Speaks (f z a)) (l : List α)
    (s : State) : s.Speaks (l.foldl f s) :=
  List.foldlRecOn (motive := fun t => s.Speaks t) l f (refl s) fun t ht a _ => ht.trans (hf t a)

theorem reg {s t : State} (h : s.Speaks t) (o : Nat) : t.reg o = s.reg o := State.reg_congr h.variant h.regs o

end State.Speaks

theorem State.emit_speaks (s : State) (o : Out) : s.Speaks (s.emit o) := ⟨rfl, rfl, rfl, rfl⟩

theorem State.sendFlit_speaks (s : State) : s.Speaks s.sendFlit := ⟨rfl, rfl, rfl, rfl⟩

theorem State.sendMessage_speaks (s : State) (v : Nat) : s.Speaks (s.sendMessage v) := by
  have hsent (f : Odl → Odl) (hf : (f s.odl).downSince = s.odl.downSince) :
      s.Speaks ((s.emit (.message v)).modOdl f) := ⟨rfl, rfl, rfl, hf⟩
  exact (hsent _ rfl).trans (State.sendFlit_speaks _)

theorem State.signalHeld_speaks (s : State) : s.Speaks s.signalHeld := by
  refine .foldl (fun z v => ?_) _ s
  split
  · exact z.sendMessage_speaks v
  · exact .refl z

/-- ODL_STATUS of a link that comes up. -/
def State.odlShown (s : State) (degraded : Bool) : State :=
  ((s.setOdlState 2).setBit regOdlStatus 1 degraded).setBit regOdlStatus 3 false

/-- A retrain counted. -/
def State.retrainCounted (s : State) (retrain : Bool) : State :=
  if retrain then s.setReg regOdlRetrains ((s.reg regOdlRetrains + 1) % 2 ^ 32) else s

/-- The link's books when it comes up. -/
def State.odlBegins (s : State) : State :=
  s.modOdl fun o => { o with downSince := none, failed := 0, replays := [],
                             replay := o.replay.map fun r => (r.1, r.2.1, 0) }

theorem State.odlComesUp_speaks (s : State) (degraded : Bool) :
    ((s.odlShown degraded).retrainCounted s.odl.downSince.isSome).odlBegins.Speaks (s.odlComesUp degraded) :=
  .trans (.foldl (fun z _ => z.emit_speaks _) _ _) (State.signalHeld_speaks _)

theorem State.odlShown_spec {s : State} (h : Rising s.regs) (degraded : Bool) :
    (s.odlShown degraded).odlState = 2 ∧ (s.odlShown degraded).bit regOdlStatus 1 = degraded ∧
      (s.odlShown degraded).companionLost = false := by
  have hup : Rising (s.setOdlState 2).regs := State.setReg_rising _ _ _ h
  have hdegraded : Rising ((s.setOdlState 2).setBit regOdlStatus 1 degraded).regs := State.setReg_rising _ _ _ hup
  refine ⟨?_, ?_, State.bit_setBit_same _ _ _ _ hdegraded (by decide)⟩
  · exact ((State.fld_setBit_other _ hdegraded (by decide) (by decide)).trans
      (State.fld_setBit_other _ hup (by decide) (by decide))).trans
      (State.fld_setFld_same _ _ _ _ _ h (by decide) (by decide))
  · exact (State.bit_setBit_other _ _ _ _ _ hdegraded (by decide) (by decide)).trans
      (State.bit_setBit_same _ _ _ _ hup (by decide))

theorem State.odlComesUp_spec {s : State} (h : Rising s.regs) (degraded : Bool) :
    (s.odlComesUp degraded).odlState = 2 ∧ (s.odlComesUp degraded).bit regOdlStatus 1 = degraded ∧
      (s.odlComesUp degraded).companionLost = false ∧ (s.odlComesUp degraded).odl.downSince = none := by
  obtain ⟨hstate, hlanes, hfound⟩ := State.odlShown_spec h degraded
  have hspeaks := s.odlComesUp_speaks degraded
  have hcounted : ((s.odlShown degraded).retrainCounted s.odl.downSince.isSome).reg regOdlStatus =
      (s.odlShown degraded).reg regOdlStatus := by
    unfold State.retrainCounted
    split
    · exact State.reg_setReg_other _ _ _ _ (by decide)
    · rfl
  have hreg : (s.odlComesUp degraded).reg regOdlStatus = (s.odlShown degraded).reg regOdlStatus :=
    (hspeaks.reg _).trans hcounted
  exact ⟨(State.fld_congr hreg _ _).trans hstate, (State.bit_congr hreg _).trans hlanes,
    (State.bit_congr hreg _).trans hfound, hspeaks.downSince⟩

theorem odlRetrain_ends {s : State} (hs : s.Canonical) (lanes : BitVec 16) (hon : s.vin.powered = true)
    (htrains : s.odlState = 1) :
    (lowHalf lanes = true ∨ highHalf lanes = true → ∃ t, exec (.odlRetrainComplete lanes) s = .next t ∧ t.odlState = 2 ∧
      t.bit regOdlStatus 1 = (!(lowHalf lanes && highHalf lanes)) ∧ t.companionLost = false ∧ t.odl.downSince = none) ∧
    (lowHalf lanes = false → highHalf lanes = false → ∃ t, exec (.odlRetrainComplete lanes) s = .next t ∧
      t.odlState = (if 2 ≤ s.odl.failed then 3 else 1) ∧ t.odl.failed = s.odl.failed + 1) := by
  have hx := exec_odlRetrainComplete hon htrains lanes
  refine ⟨fun hhalf => ?_, fun hlow hhigh => ?_⟩
  · rw [if_pos (Bool.or_eq_true_iff.mpr hhalf)] at hx
    exact ⟨_, hx, State.odlComesUp_spec (s := s.quiet) hs.regs.1 _⟩
  · rw [if_neg (by simp [hlow, hhigh])] at hx
    by_cases hthird : 2 ≤ s.odl.failed
    · rw [if_pos (by omega)] at hx
      rw [if_pos hthird]
      exact ⟨_, hx, State.fld_setFld_same (s.quiet.modOdl fun o => { o with failed := s.odl.failed + 1 }) _ _ _ _ hs.regs.1
        (by decide) (by decide), rfl⟩
    · rw [if_neg (by omega)] at hx
      rw [if_neg hthird]
      exact ⟨_, hx, htrains, rfl⟩

/-! ### Interrupt messages (R499 to R501) -/

theorem exec_irqMessage {s : State} {v : Nat} (hv : v < 128) (hup : s.linkUp = true) (hroom : s.flitRoom = true)
    (hsig : s.canSignal v = true) : exec (.irqMessage v) s = .next (s.quiet.sendMessage v) := by
  show execIrqMessage v s = _
  rw [execIrqMessage]
  exact attempt_of_some (if_pos ⟨hv, hup, hroom, hsig⟩)

theorem State.sendMessage_spec (s : State) (v : Nat) : Out.message v ∈ (s.sendMessage v).out ∧
    (s.sendMessage v).canSignal v = false := by
  refine ⟨?_, ?_⟩
  · exact List.mem_append_left _ (State.mem_emit_out s (.message v))
  · have hsent : (s.sendMessage v).odl.sent.contains v = true := List.contains_iff_mem.mpr (mem_setInsert_self _ _)
    simp only [State.canSignal, hsent, Bool.not_true, Bool.and_false, Bool.false_and]

theorem State.irqPending_of_canSignal {s : State} {v : Nat} (h : s.canSignal v = true) : s.irqPending v = true := by
  simp only [State.canSignal, Bool.and_eq_true] at h
  exact h.1.1.1.1

theorem exec_irqPendingClear {s : State} {half : Nat} (hr : s.reachableRegs = true) (hh : half < 2) (m : Word) :
    exec (.irqPendingClear half m) s = .next (s.quiet.clearPending half m.toNat) := by
  show execIrqPendingClear half m s = _
  rw [execIrqPendingClear]
  exact attempt_of_some (if_pos ⟨hr, hh⟩)

/-- The bits of a word with those of a mask cleared. -/
theorem testBit_and_not (x : Nat) {m : Nat} (hm : m < 2 ^ 64) {i : Nat} (hi : i < 64) :
    (x &&& (2 ^ 64 - 1 - m % 2 ^ 64)).testBit i = (x.testBit i && !m.testBit i) := by
  have hnot : 2 ^ 64 - 1 - m % 2 ^ 64 = 2 ^ 64 - (m + 1) := by omega
  rw [hnot, Nat.testBit_and, Nat.testBit_two_pow_sub_succ hm, decide_eq_true hi, Bool.true_and]

theorem State.clearPending_spec {s : State} (h : Rising s.regs) {half : Nat} (hh : half < 2) {m : Nat}
    (hm : m < 2 ^ 64) : let t := s.clearPending half m
    (∀ i, i < 64 → t.irqPending (64 * half + i) = (s.irqPending (64 * half + i) && !bitOf m i)) ∧
      (∀ i, i < 64 → bitOf m i = true → 64 * half + i ∉ t.odl.sent) ∧
      s.OnlyRegs { t with odl := s.odl } [regOdlIrqPending half] := by
  intro t
  have hpart {i : Nat} (hi : i < 64) : (64 * half + i) / 64 = half ∧ (64 * half + i) % 64 = i := by omega
  have hreg : t.reg (regOdlIrqPending half) = s.reg (regOdlIrqPending half) &&& (2 ^ 64 - 1 - m % 2 ^ 64) :=
    State.reg_setReg_same _ _ _ h (Nat.and_le_left.trans_lt (s.reg_lt _))
  refine ⟨fun i hi => ?_, fun i hi hbit hin => ?_, ?_⟩
  · obtain ⟨hhalf, hidx⟩ := hpart hi
    rw [State.irqPending, State.irqPending, hhalf, hidx, State.bit_eq_testBit, State.bit_eq_testBit, hreg,
      testBit_and_not _ hm hi, bitOf_eq_testBit]
  · obtain ⟨hhalf, hidx⟩ := hpart hi
    have hkept := (List.mem_filter.mp hin).2
    rw [hhalf, hidx, hbit] at hkept
    simp at hkept
  · have hbyte : byteReg (regOdlIrqPending half) = false := by
      interval_cases half <;> decide
    exact s.onlyRegs_setReg (regOdlIrqPending half) _ hbyte

end Sys2Proof.Machine
end

section
/-! The companion: its accesses, its loss, and the window's base (R494 to R496, R502 to R504, R513). -/

namespace Sys2Proof.Machine

open Sys2Proof

/-! ### The companion's accesses (R494 to R496) -/

/-- The lines of a range that read poisoned. -/
def State.badLines (s : State) (a n : Nat) : List Nat := (linesOf a n).filter fun l => s.poisoned (max a (64 * l))

theorem exec_companionMemoryRead {s : State} {a n : Nat} (hup : s.linkUp = true) (hroom : s.flitRoom = true)
    (hrange : a + n ≤ windowBase) : exec (.companionMemoryRead a n) s =
    .next (({ s.quiet.emit (.bytes (s.apertureBytes a n) (s.badLines a n)) with free := s.free + n }).sendFlit) := by
  show execCompanionMemoryRead a n s = _
  rw [execCompanionMemoryRead]
  exact attempt_of_some (if_pos ⟨hup, hroom, hrange⟩)

/-- Memory that runs is read as it stands. -/
theorem State.apertureBytes_of_running {s : State} {a n : Nat} (h : ∀ i, i < n → s.memoryRuns (a + i) = true) :
    s.apertureBytes a n = s.rdBytes a n :=
  List.map_congr_left fun i hi => if_pos (h i (List.mem_range.mp hi))

theorem State.mem_badLines {s : State} {a n l : Nat} (hl : l ∈ linesOf a n) :
    l ∈ s.badLines a n ↔ s.poisoned (max a (64 * l)) = true := by
  rw [State.badLines, List.mem_filter]
  exact and_iff_right hl

theorem exec_companionMemoryWrite {s : State} {a : Nat} {d : List Byte} (hup : s.linkUp = true)
    (hrange : a + d.length ≤ windowBase) : exec (.companionMemoryWrite a d) s =
    .next ((linePieces (d.length / 64 + 2) a d).foldl (fun z p => z.companionPut p.1 p.2) s.quiet) := by
  show execCompanionMemoryWrite a d s = _
  rw [execCompanionMemoryWrite]
  exact attempt_of_some (if_pos ⟨hup, hrange⟩)

theorem exec_companionWindowRead {s : State} {off : Nat} (hoff : off < 0x100000000)
    (hserved : s.heldLines (windowBase + off / 64 * 64) 64 = [] ∨ s.linkUp = true) :
    let u := s.quiet.takeBack (windowBase + off / 64 * 64) 64
    exec (.companionWindowAccess off none) s =
      .next (u.emit (.bytes (u.rdBytes (windowBase + off / 64 * 64) 64) [])) := by
  show execCompanionWindowAccess off none s = _
  rw [execCompanionWindowAccess]
  exact attempt_of_some (if_pos ⟨hoff, by omega, hserved⟩)

/-- Bytes that the companion stores in its own memory, whole lines made good. -/
def State.windowStored (s : State) (a : Nat) (d : List Byte) : State :=
  let cover := (wholeLines a d.length).map s.lineKey
  { s with mem := memPutAll s.mem (s.memKey a) d, poison := s.poison.filter fun l => !cover.contains l }

theorem exec_companionWindowWrite {s : State} {off : Nat} {d : List Byte} (hoff : off < 0x100000000)
    (hrange : off + d.length ≤ 0x100000000)
    (hserved : s.heldLines (windowBase + off) d.length = [] ∨ s.linkUp = true) :
    exec (.companionWindowAccess off (some d)) s =
      .next ((s.quiet.takeBack (windowBase + off) d.length).windowStored (windowBase + off) d) := by
  show execCompanionWindowAccess off (some d) s = _
  rw [execCompanionWindowAccess]
  exact attempt_of_some (if_pos ⟨hoff, by omega, hserved⟩)

/-- Lines written back change memory and the window's books. -/
theorem State.writeBacks_rest (l : List Nat) (s : State) :
    ∃ mem odl, l.foldl State.writeBack s = { s with mem := mem, odl := odl } := by
  refine List.foldlRecOn (motive := fun t : State => ∃ mem odl, t = { s with mem := mem, odl := odl }) l _
    ⟨s.mem, s.odl, rfl⟩ ?_
  rintro _ ⟨mem, odl, rfl⟩ k _
  exact ⟨_, _, rfl⟩

theorem windowWrite_stores {s : State} {off : Nat} {d : List Byte} (hoff : off < 0x100000000)
    (hrange : off + d.length ≤ 0x100000000)
    (hserved : s.heldLines (windowBase + off) d.length = [] ∨ s.linkUp = true) :
    ∃ t, exec (.companionWindowAccess off (some d)) s = .next t ∧ t.regs = s.regs ∧
      t.mem = memPutAll (s.quiet.takeBack (windowBase + off) d.length).mem (s.memKey (windowBase + off)) d := by
  obtain ⟨mem, odl, hback⟩ := State.writeBacks_rest (s.quiet.heldLines (windowBase + off) d.length) s.quiet
  have htake : s.quiet.takeBack (windowBase + off) d.length = { s.quiet with mem := mem, odl := odl } := hback
  refine ⟨_, exec_companionWindowWrite hoff hrange hserved, ?_, ?_⟩
  · rw [htake]; rfl
  · rw [htake]; rfl

/-! ### Heartbeats, and the loss of the companion (R502 to R504) -/

theorem exec_heartbeat {s : State} (hr : s.reachableRegs = true) (v : Word) : exec (.heartbeat v) s = .next s.quiet.beat := by
  show execHeartbeat v s = _
  rw [execHeartbeat]
  exact attempt_of_some (if_pos hr)

/-- A heartbeat counted, at the present time. -/
def State.beatCounted (s : State) : State :=
  (s.setReg regOdlHeartbeat ((s.reg regOdlHeartbeat + 1) % 2 ^ 32)).modOdl fun o => { o with lastBeat := s.time }

theorem State.beat_eq (s : State) :
    s.beat = if s.beatCounted.linkUp then s.beatCounted.setBit regOdlStatus 3 false else s.beatCounted := rfl

theorem State.beat_spec {s : State} (h : Rising s.regs) : s.beat.odl.lastBeat = s.time ∧
    s.beat.reg regOdlHeartbeat = (s.reg regOdlHeartbeat + 1) % 2 ^ 32 ∧
    (s.linkUp = true → s.beat.companionLost = false) := by
  have hcounted : Rising s.beatCounted.regs := State.setReg_rising _ _ _ h
  have hcount : s.beatCounted.reg regOdlHeartbeat = (s.reg regOdlHeartbeat + 1) % 2 ^ 32 :=
    State.reg_setReg_same _ _ _ h (by omega)
  have hlink : s.beatCounted.linkUp = s.linkUp := by
    have hstatus : s.beatCounted.reg regOdlStatus = s.reg regOdlStatus :=
      s.reg_setReg_other regOdlHeartbeat ((s.reg regOdlHeartbeat + 1) % 2 ^ 32) regOdlStatus (by decide)
    have hstate : s.beatCounted.odlState = s.odlState := State.fld_congr hstatus 15 12
    rw [State.linkUp, hstate]
    rfl
  rw [State.beat_eq, hlink]
  split
  · exact ⟨rfl, (State.reg_setBit_other _ _ _ _ _ (by decide)).trans hcount, fun _ =>
      State.bit_setBit_same _ _ _ _ hcounted (by decide)⟩
  · next hdown => exact ⟨rfl, hcount, fun hup => absurd hup hdown⟩

/-- A companion that is lost, and the time of it. -/
def State.lossNoted (s : State) : State := ((s.setBit regOdlStatus 3 true).setReg regOdlLossTime s.time).ibi 0x04

theorem State.loseCompanion_of_present {s : State} (h : s.companionLost = false) :
    s.loseCompanion = if s.lossNoted.bit regOdlCtrl 8 then s.lossNoted.startQuench 4 else s.lossNoted :=
  if_neg (by simp [h])

/-- A quench that starts leaves the link's own registers. -/
theorem State.startQuench_reg_low (s : State) (cause : Nat) {o : Nat} (ho : o ∉ noticeRegs) (hlow : o < 0xe00000) :
    (s.startQuench cause).reg o = s.reg o := by
  by_cases hagain : s.bit regPwrStatus 9 = true ∨ s.bit regPwrStatus 10 = true
  · rw [State.startQuench_of_again hagain]
  · obtain ⟨h9, h10⟩ := not_or.mp hagain
    have hirq : o ≠ regOdlIrqPending 1 := fun e => ho (by simp [noticeRegs, e])
    have hcount : o ≠ regRruCount 0x10 := by simp only [regRruCount]; omega
    have hstatus : o ≠ regPwrStatus := by simp only [regPwrStatus]; omega
    rw [State.startQuench_of_first (Bool.eq_false_iff.mpr h9) (Bool.eq_false_iff.mpr h10),
      State.record_reg_other _ _ hcount ho]
    calc (s.keepRecord (s.powerRecord cause 0)).quenchShown.reg o
      _ = (((s.keepRecord (s.powerRecord cause 0)).setBit regPwrStatus 9 true).alert 2).reg o :=
          State.reg_setBit_other _ _ _ _ _ hirq
      _ = ((s.keepRecord (s.powerRecord cause 0)).setBit regPwrStatus 9 true).reg o := (State.alert_notices _ 2).reg o ho
      _ = (s.keepRecord (s.powerRecord cause 0)).reg o := State.reg_setBit_other _ _ _ _ _ hstatus
      _ = s.reg o := State.keepRecord_reg_other _ _ (by omega)

theorem State.lossNoted_spec {s : State} (h : Rising s.regs) : s.lossNoted.bit regOdlStatus 3 = true ∧
    s.lossNoted.reg regOdlLossTime = s.time % 2 ^ 64 := by
  have hlost : Rising (s.setBit regOdlStatus 3 true).regs := State.setReg_rising _ _ _ h
  refine ⟨?_, (State.ibi_reg _ _ _).trans (State.reg_setReg_mod _ _ _ hlost)⟩
  exact (State.bit_congr ((State.ibi_reg _ _ _).trans (State.reg_setReg_other _ _ _ _ (by decide))) 3).trans
    (State.bit_setBit_same _ _ _ _ h (by decide))

theorem State.loseCompanion_spec {s : State} (h : Rising s.regs) (hpresent : s.companionLost = false) :
    s.loseCompanion.companionLost = true ∧ s.loseCompanion.reg regOdlLossTime = s.time % 2 ^ 64 := by
  obtain ⟨hlost, htime⟩ := State.lossNoted_spec h
  rw [State.loseCompanion_of_present hpresent]
  split
  · exact ⟨(State.bit_congr (State.startQuench_reg_low _ 4 (by decide) (by decide)) 3).trans hlost,
      (State.startQuench_reg_low _ 4 (by decide) (by decide)).trans htime⟩
  · exact ⟨hlost, htime⟩

theorem exec_heartbeatTimeout {s : State} (hr : s.reachableRegs = true) (hms : s.fld regOdlCtrl 31 16 ≠ 0)
    (hpresent : s.companionLost = false) (hlate : s.odl.lastBeat + 1000000 * s.fld regOdlCtrl 31 16 ≤ s.time) :
    exec .heartbeatTimeout s = .next s.quiet.loseCompanion := by
  show execHeartbeatTimeout s = _
  rw [execHeartbeatTimeout]
  exact attempt_of_some (if_pos ⟨hr, hms, hpresent, hlate⟩)

theorem exec_linkDownTimeout {s : State} {d : Nat} (hdown : s.odl.downSince = some d) (hlate : d + 10000000 < s.time)
    (hpresent : s.companionLost = false) :
    exec .linkDownTimeout s = .next (s.quiet.loseCompanion.setBit regOdlStatus 2 true) := by
  have hdown' : s.quiet.odl.downSince = some d := hdown
  have hpresent' : s.quiet.companionLost = false := hpresent
  show execLinkDownTimeout s = _
  rw [execLinkDownTimeout]
  refine attempt_of_some ?_
  simp only [hdown']
  exact if_pos ⟨hlate, by simp [hpresent']⟩

theorem companion_isLost {s : State} (hs : s.Canonical) (hpresent : s.companionLost = false) :
    (s.reachableRegs = true → s.fld regOdlCtrl 31 16 ≠ 0 →
      s.odl.lastBeat + 1000000 * s.fld regOdlCtrl 31 16 ≤ s.time →
      ∃ t, exec .heartbeatTimeout s = .next t ∧ t.companionLost = true ∧ t.reg regOdlLossTime = s.time % 2 ^ 64) ∧
    (∀ d, s.odl.downSince = some d → d + 10000000 < s.time → ∃ t, exec .linkDownTimeout s = .next t ∧
      t.companionLost = true ∧ t.bit regOdlStatus 2 = true ∧ t.reg regOdlLossTime = s.time % 2 ^ 64) := by
  obtain ⟨hlost, htime⟩ := State.loseCompanion_spec (s := s.quiet) hs.regs.1 hpresent
  have hrise : Rising s.quiet.loseCompanion.regs :=
    ((State.loseCompanion_keeps (.refl s.quiet)).canonical (hs.congr rfl rfl rfl rfl)).regs.1
  refine ⟨fun hr hms hlate => ⟨_, exec_heartbeatTimeout hr hms hpresent hlate, hlost, htime⟩, fun d hdown hlate => ?_⟩
  exact ⟨_, exec_linkDownTimeout hdown hlate hpresent,
    (State.bit_setBit_other _ _ _ _ _ hrise (by decide) (by decide)).trans hlost,
    State.bit_setBit_same _ _ _ _ hrise (by decide), (State.reg_setBit_other _ _ _ _ _ (by decide)).trans htime⟩

/-! ### The window's base (R513) -/

theorem exec_cwBaseWrite {s : State} (hr : s.reachableRegs = true) (v : Word) :
    exec (.cwBaseWrite v) s = .next (s.quiet.writeCwBase v.toNat) := by
  show execCwBaseWrite v s = _
  rw [execCwBaseWrite]
  exact attempt_of_some (if_pos hr)

/-- Every dirty line written back. -/
def State.windowClean (s : State) : State := s.odl.dirtyLines.foldl State.writeBack s

theorem State.writeCwBase_of_idle {s : State} (h : s.ready = false ∨ (s.halted 0 = true ∧ s.tasks = [])) (v : Nat) :
    s.writeCwBase v = s.windowClean.setReg regOdlCwBase (v / 2 ^ 32 * 2 ^ 32) := if_pos h

theorem State.writeCwBase_of_busy {s : State} (hready : s.ready = true) (h : s.halted 0 = false ∨ s.tasks ≠ []) (v : Nat) :
    s.writeCwBase v = s.setBit regOdlStatus 4 true := by
  refine if_neg fun hidle => ?_
  rcases hidle with hunready | ⟨hhalted, hnone⟩
  · exact Bool.false_ne_true (hunready.symm.trans hready)
  · exact h.elim (fun hruns => Bool.false_ne_true (hruns.symm.trans hhalted)) (fun hsome => hsome hnone)

/-- A line written back is no longer dirty, and no other becomes so. -/
theorem State.mem_dirtyLines_writeBacks (l : List Nat) (s : State) (k : Nat) :
    k ∈ (l.foldl State.writeBack s).odl.dirtyLines ↔ k ∈ s.odl.dirtyLines ∧ k ∉ l := by
  induction l generalizing s with
  | nil => simp
  | cons a l ih =>
    have hback : (s.writeBack a).odl.dirtyLines = setErase a s.odl.dirtyLines := rfl
    rw [List.foldl_cons, ih, hback, setErase, List.mem_filter, bne_iff_ne, List.mem_cons, not_or, and_assoc]

theorem State.windowClean_dirtyLines (s : State) : s.windowClean.odl.dirtyLines = [] := by
  refine List.eq_nil_iff_forall_not_mem.mpr fun k hk => ?_
  obtain ⟨hin, hout⟩ := (State.mem_dirtyLines_writeBacks s.odl.dirtyLines s k).mp hk
  exact hout hin

theorem cwBaseWrite_moves {s : State} (hs : s.Canonical) (v : Word) (hr : s.reachableRegs = true) :
    (s.ready = false ∨ (s.halted 0 = true ∧ s.tasks = []) → ∃ t, exec (.cwBaseWrite v) s = .next t ∧
      t.reg regOdlCwBase = v.toNat / 2 ^ 32 * 2 ^ 32 ∧ t.odl.dirtyLines = [] ∧ ∀ o, o ≠ regOdlCwBase → t.reg o = s.reg o) ∧
    (s.ready = true → s.halted 0 = false ∨ s.tasks ≠ [] → ∃ t, exec (.cwBaseWrite v) s = .next t ∧
      t.bit regOdlStatus 4 = true ∧ s.OnlyRegs t [regOdlStatus]) := by
  have hx := exec_cwBaseWrite hr v
  refine ⟨fun hidle => ?_, fun hready hbusy => ?_⟩
  · obtain ⟨mem, odl, hclean⟩ := State.writeBacks_rest s.quiet.odl.dirtyLines s.quiet
    have hregs : s.quiet.windowClean.regs = s.regs := (congrArg State.regs hclean).trans rfl
    have hvariant : s.quiet.windowClean.variant = s.variant := (congrArg State.variant hclean).trans rfl
    have hbase : v.toNat / 2 ^ 32 * 2 ^ 32 < 2 ^ 64 := (Nat.div_mul_le_self _ _).trans_lt v.isLt
    rw [State.writeCwBase_of_idle (s := s.quiet) hidle] at hx
    exact ⟨_, hx, State.reg_setReg_same _ _ _ (hregs ▸ hs.regs.1) hbase, s.quiet.windowClean_dirtyLines, fun o ho =>
      (State.reg_setReg_other _ _ _ _ ho).trans (State.reg_congr hvariant hregs o)⟩
  · rw [State.writeCwBase_of_busy (s := s.quiet) hready hbusy] at hx
    exact ⟨_, hx, State.bit_setBit_same _ _ _ _ hs.regs.1 (by decide),
      (State.OnlyRegs.quiet s _).setBit (by simp) (by decide) _ _⟩

/-! ### The obligation -/

/-- Settles O59: each command by the branches of its operation. -/
theorem companionLinkAndInterrupts : Obligations.CompanionLinkAndInterrupts := by
  intro s hs
  refine ⟨fun hup => ⟨flitReceive_takes hs hup, fun n hn => replayRequest_resends hs hup hn, ?_, fun a n hroom hrange => ?_,
      fun a d hrange => exec_companionMemoryWrite hup hrange, fun v hv hroom hsig => ?_⟩, odlRetrain_ends hs,
    fun off hoff hserved => exec_companionWindowRead hoff hserved,
    fun off d hoff hrange hserved => windowWrite_stores hoff hrange hserved, fun half m hr hh => ?_, fun v hr => ?_,
    companion_isLost hs, cwBaseWrite_moves hs⟩
  · obtain ⟨hstate, hmem, -, hreg⟩ := State.odlDown_spec (s := s.quiet) hs.regs.1
    exact ⟨_, exec_odlLinkDown hup, hstate, hmem, hreg⟩
  · have hsent := State.sendFlit_speaks
      { s.quiet.emit (.bytes (s.apertureBytes a n) (s.badLines a n)) with free := s.free + n }
    refine ⟨_, exec_companionMemoryRead hup hroom hrange,
      fun hruns => ⟨s.badLines a n, ?_, fun l hl => State.mem_badLines hl⟩, hsent.mem, hsent.regs⟩
    rw [← State.apertureBytes_of_running hruns]
    exact List.mem_append_left _ (State.mem_emit_out _ _)
  · obtain ⟨hmsg, hnot⟩ := s.quiet.sendMessage_spec v
    have hspeaks := s.quiet.sendMessage_speaks v
    exact ⟨_, exec_irqMessage hv hup hroom hsig, hmsg, hnot,
      (State.bit_congr (hspeaks.reg _) _).trans (State.irqPending_of_canSignal hsig), hspeaks.regs, hspeaks.mem⟩
  · obtain ⟨hbits, hsent, hframe⟩ := State.clearPending_spec (s := s.quiet) hs.regs.1 hh m.isLt
    exact ⟨_, exec_irqPendingClear hr hh m, hbits, hsent, s.onlyRegs_quiet.trans hframe (by simp) (fun _ ho => ho)⟩
  · exact ⟨_, exec_heartbeat hr v, State.beat_spec (s := s.quiet) hs.regs.1⟩

end Sys2Proof.Machine
end
